-- ==== Sys2Proof/Word.lean ====
section
/-! DEFINITION. Word.lean: the word types of the part and the bit-field reads that every file shares (R3, R4). -/

namespace Sys2Proof

/-- A scalar register, counter or address: 64 bits (R318, R134). -/
abbrev Word := BitVec 64

/-- One byte of memory. -/
abbrev Byte := BitVec 8

/-- Data of one vector register or data-queue entry, joined size: 2 KiB (R104, R318).
A split hart uses the low 4,096 bits. -/
abbrev VData := BitVec 16384

/-- One mask register: one bit per element of the longest vector (R104). -/
abbrev MaskBits := BitVec 4096

/-- Bits `hi` down to `lo` of a natural number (R3). -/
def fieldOf (v hi lo : Nat) : Nat := (v >>> lo) % 2 ^ (hi + 1 - lo)

/-- One bit of a natural number (R3). -/
def bitOf (v n : Nat) : Bool := v.testBit n

end Sys2Proof
end

