-- ==== Sys2Proof/Syntax.lean ====
section
/-! DEFINITION. Syntax.lean: the instructions and events of the part, one constructor per row of the opcode table.
The first 190 constructors are instruction words (R325, R332, R333) and carry the fields of their encoding.
The other 115 are steps that the part takes without a word; they carry what the step is about, and, where the step
brings something in from outside the package, that input. -/

namespace Sys2Proof

/-- A hart slot: tower, core within the tower, lane group (0 in a JOINED core) (R9, R75, R104). -/
structure HartId where
  tower : Nat
  core  : Nat
  group : Nat
deriving DecidableEq, Repr

/-- The two hosts (R9). -/
inductive HostId where
  | a
  | b
deriving DecidableEq, Repr

/-- A waiter that is not a stream of this part: an interrupt waiter entry (R59), a start condition of a launch (R85),
a waiter registered by a peer (R40), and a stream (R244). -/
inductive WaiterId where
  | stream (h : HartId)
  | interrupt (i : Nat)
  | start (launch cond : Nat)
  | peer (node token : Nat)
deriving DecidableEq, Repr

/-- The read-modify-write operations of ATOM and CAS (R440). -/
inductive AtomOp where
  | add | min | max | and | or | xor | swap | cas
deriving DecidableEq, Repr

/-- The AtomicOps that a host port completes (R28). -/
inductive HostAtomic where
  | fetchAdd | swap | cas
deriving DecidableEq, Repr

/-- A request on a Zalarn link, of a peer or to one (R37, R40). Addresses are physical addresses of the part that performs
it. `writePart` writes the bits of a line that a mask names, `writeTag` the tag alone, and `counterUnwait` takes back the
wait that a token numbers (R246). -/
inductive PeerReq where
  | readLine (pa : Nat)
  | writeLine (pa : Nat) (data : BitVec 512) (tag : BitVec 32)
  | writePart (pa : Nat) (mask data : BitVec 512) (tag : BitVec 32)
  | writeTag (pa : Nat) (tag : BitVec 32)
  | atomic (pa : Nat) (op : AtomOp) (wide : Bool) (operand expected : BitVec 64)
  | counterAdd (handle delta : BitVec 64)
  | counterXadd (handle delta : BitVec 64)
  | counterRead (handle : BitVec 64)
  | counterTest (handle threshold : BitVec 64)
  | counterWait (handle threshold : BitVec 64) (token : Nat)
  | counterUnwait (handle : BitVec 64) (token : Nat)
deriving DecidableEq, Repr

/-- A message that a received flit completes (R37): a request, a wake of the counter channel or the answer FULL for the
remote wait that a token numbers (R40, R247), a containment message, or a message for another node. -/
inductive FlitMsg where
  | request (node : Nat) (req : PeerReq)
  | wake (token : Nat) (value : BitVec 64)
  | full (token : Nat)
  | containment (node : Nat)
  | otherNode (node : Nat)
deriving DecidableEq, Repr

/-- What the receiver of a link finds in one flit (R36, R38): whether the CRC holds after forward error correction,
whether a credit count overflows, and the messages that the flit completes. -/
structure FlitIn where
  crcOk          : Bool
  creditOverflow : Bool
  msgs           : List FlitMsg
deriving DecidableEq, Repr

/-- The instructions and events of the part (R332 to R334, opcode table). -/
inductive Instr where
  /-- R352: Has no effect beyond taking an issue slot. -/
  | nop
  /-- R348: Unconditional branch to a block header at a signed word offset. -/
  | br (i : BitVec 18)
  /-- R348: Branches when xA equals xB. -/
  | brcEq (a : BitVec 6) (b : BitVec 6) (o : BitVec 12)
  /-- R348: Branches when xA differs from xB. -/
  | brcNe (a : BitVec 6) (b : BitVec 6) (o : BitVec 12)
  /-- R348: Branches when xA is less than xB, signed. -/
  | brcLt (a : BitVec 6) (b : BitVec 6) (o : BitVec 12)
  /-- R348: Branches when xA is at least xB, signed. -/
  | brcGe (a : BitVec 6) (b : BitVec 6) (o : BitVec 12)
  /-- R348: Branches when xA is less than xB, unsigned. -/
  | brcLtu (a : BitVec 6) (b : BitVec 6) (o : BitVec 12)
  /-- R348: Branches when xA is at least xB, unsigned. -/
  | brcGeu (a : BitVec 6) (b : BitVec 6) (o : BitVec 12)
  /-- R348: Branches to the block header whose address is in xA. -/
  | brr (a : BitVec 6)
  /-- R349: Transfers to a block at a word offset and links xD to the next block's header. -/
  | call (d : BitVec 6) (i : BitVec 18)
  /-- R349: Transfers to the header in xA and links xD to the next block's header. -/
  | callr (d : BitVec 6) (a : BitVec 6)
  /-- R351: Completes and then takes cause BRK with its immediate in tval. -/
  | brk (i : BitVec 18)
  /-- R353: Ends its stream; in the A-stream waits for stores, engine commands and an idle X-stream, then ends the task. -/
  | exit
  /-- R354: Ends the task if a tower withdrawal request has reached it, otherwise does nothing. -/
  | step
  /-- R355: Waits for an idle X-stream and starts it at the named X-stream block header. -/
  | xstart (i : BitVec 18)
  /-- R356: Writes xA + xB modulo 2^64. -/
  | add (d : BitVec 6) (a : BitVec 6) (b : BitVec 6)
  /-- R356: Writes xA - xB modulo 2^64. -/
  | sub (d : BitVec 6) (a : BitVec 6) (b : BitVec 6)
  /-- R356: Writes the low 64 bits of xA × xB. -/
  | mul (d : BitVec 6) (a : BitVec 6) (b : BitVec 6)
  /-- R356: Writes the high 64 bits of the signed product. -/
  | mulh (d : BitVec 6) (a : BitVec 6) (b : BitVec 6)
  /-- R356: Writes the high 64 bits of the unsigned product. -/
  | mulhu (d : BitVec 6) (a : BitVec 6) (b : BitVec 6)
  /-- R357: Writes the signed quotient rounded towards zero. -/
  | div (d : BitVec 6) (a : BitVec 6) (b : BitVec 6)
  /-- R357: Writes the unsigned quotient. -/
  | divu (d : BitVec 6) (a : BitVec 6) (b : BitVec 6)
  /-- R357: Writes the signed remainder. -/
  | rem (d : BitVec 6) (a : BitVec 6) (b : BitVec 6)
  /-- R357: Writes the unsigned remainder. -/
  | remu (d : BitVec 6) (a : BitVec 6) (b : BitVec 6)
  /-- R356: Writes the bitwise and of xA and xB. -/
  | and (d : BitVec 6) (a : BitVec 6) (b : BitVec 6)
  /-- R356: Writes the bitwise or of xA and xB. -/
  | or (d : BitVec 6) (a : BitVec 6) (b : BitVec 6)
  /-- R356: Writes the bitwise exclusive-or of xA and xB. -/
  | xor (d : BitVec 6) (a : BitVec 6) (b : BitVec 6)
  /-- R356: Writes xA and not xB. -/
  | andn (d : BitVec 6) (a : BitVec 6) (b : BitVec 6)
  /-- R356: Shifts xA left by xB[5:0]. -/
  | sll (d : BitVec 6) (a : BitVec 6) (b : BitVec 6)
  /-- R356: Shifts xA right logically by xB[5:0]. -/
  | srl (d : BitVec 6) (a : BitVec 6) (b : BitVec 6)
  /-- R356: Shifts xA right arithmetically by xB[5:0]. -/
  | sra (d : BitVec 6) (a : BitVec 6) (b : BitVec 6)
  /-- R356: Writes the signed minimum. -/
  | min (d : BitVec 6) (a : BitVec 6) (b : BitVec 6)
  /-- R356: Writes the signed maximum. -/
  | max (d : BitVec 6) (a : BitVec 6) (b : BitVec 6)
  /-- R356: Writes the unsigned minimum. -/
  | minu (d : BitVec 6) (a : BitVec 6) (b : BitVec 6)
  /-- R356: Writes the unsigned maximum. -/
  | maxu (d : BitVec 6) (a : BitVec 6) (b : BitVec 6)
  /-- R356: Writes 1 if xA is less than xB signed, else 0. -/
  | slt (d : BitVec 6) (a : BitVec 6) (b : BitVec 6)
  /-- R356: Writes 1 if xA is less than xB unsigned, else 0. -/
  | sltu (d : BitVec 6) (a : BitVec 6) (b : BitVec 6)
  /-- R356: Writes 1 if xA equals xB, else 0. -/
  | seq (d : BitVec 6) (a : BitVec 6) (b : BitVec 6)
  /-- R358: Writes xA if xF is nonzero, otherwise xB. -/
  | sel (d : BitVec 6) (a : BitVec 6) (b : BitVec 6) (f : BitVec 6)
  /-- R358: Writes the count of leading zero bits of xA. -/
  | clz (d : BitVec 6) (a : BitVec 6)
  /-- R358: Writes the count of trailing zero bits of xA. -/
  | ctz (d : BitVec 6) (a : BitVec 6)
  /-- R358: Writes the count of one bits of xA. -/
  | popc (d : BitVec 6) (a : BitVec 6)
  /-- R358: Writes xA + (xB << F). -/
  | addsh (d : BitVec 6) (a : BitVec 6) (b : BitVec 6) (s : BitVec 6)
  /-- R359: Adds a sign-extended 12-bit immediate to xA. -/
  | addi (d : BitVec 6) (a : BitVec 6) (i : BitVec 12)
  /-- R359: Ands xA with a sign-extended 12-bit immediate. -/
  | andi (d : BitVec 6) (a : BitVec 6) (i : BitVec 12)
  /-- R359: Ors xA with a sign-extended 12-bit immediate. -/
  | ori (d : BitVec 6) (a : BitVec 6) (i : BitVec 12)
  /-- R359: Shifts xA left by an immediate amount. -/
  | slli (d : BitVec 6) (a : BitVec 6) (s : BitVec 6)
  /-- R359: Shifts xA right logically by an immediate amount. -/
  | srli (d : BitVec 6) (a : BitVec 6) (s : BitVec 6)
  /-- R359: Shifts xA right arithmetically by an immediate amount. -/
  | srai (d : BitVec 6) (a : BitVec 6) (s : BitVec 6)
  /-- R360: Writes a sign-extended 18-bit immediate to xD. -/
  | li (d : BitVec 6) (i : BitVec 18)
  /-- R360: Writes a 16-bit value into halfword p of xD, keeping the other bits. -/
  | lih (d : BitVec 6) (p : BitVec 2) (h : BitVec 16)
  /-- R366: Loads a sign-extended byte. -/
  | ldB (d : BitVec 6) (a : BitVec 6) (i : BitVec 12)
  /-- R366: Loads a zero-extended byte. -/
  | ldBu (d : BitVec 6) (a : BitVec 6) (i : BitVec 12)
  /-- R366: Loads a sign-extended halfword. -/
  | ldH (d : BitVec 6) (a : BitVec 6) (i : BitVec 12)
  /-- R366: Loads a zero-extended halfword. -/
  | ldHu (d : BitVec 6) (a : BitVec 6) (i : BitVec 12)
  /-- R366: Loads a sign-extended word. -/
  | ldW (d : BitVec 6) (a : BitVec 6) (i : BitVec 12)
  /-- R366: Loads a zero-extended word. -/
  | ldWu (d : BitVec 6) (a : BitVec 6) (i : BitVec 12)
  /-- R366: Loads a doubleword. -/
  | ldD (d : BitVec 6) (a : BitVec 6) (i : BitVec 12)
  /-- R368: Stores the low byte of xD. -/
  | stB (d : BitVec 6) (a : BitVec 6) (i : BitVec 12)
  /-- R368: Stores the low halfword of xD. -/
  | stH (d : BitVec 6) (a : BitVec 6) (i : BitVec 12)
  /-- R368: Stores the low word of xD. -/
  | stW (d : BitVec 6) (a : BitVec 6) (i : BitVec 12)
  /-- R368: Stores xD as a doubleword. -/
  | stD (d : BitVec 6) (a : BitVec 6) (i : BitVec 12)
  /-- R369: Loads 8 bytes from the hart's scratchpad. -/
  | ldl (d : BitVec 6) (a : BitVec 6) (i : BitVec 12)
  /-- R369: Stores 8 bytes to the hart's scratchpad. -/
  | stl (d : BitVec 6) (a : BitVec 6) (i : BitVec 12)
  /-- R370: Reads the 32-bit tag of a global line into xD. -/
  | tagr (d : BitVec 6) (a : BitVec 6) (i : BitVec 12)
  /-- R371: Writes a line's tag from xD as a store. -/
  | tagw (d : BitVec 6) (a : BitVec 6) (i : BitVec 12)
  /-- R372: Asks for a line to be brought into the L1 or RDC, with no memory event. -/
  | pref (a : BitVec 6) (i : BitVec 12)
  /-- R374: Unit-stride vector load into a data queue entry. -/
  | vldUnit (q : BitVec 3) (a : BitVec 6) (e : BitVec 3)
  /-- R374: Strided vector load into a data queue entry. -/
  | vldStrided (q : BitVec 3) (a : BitVec 6) (b : BitVec 6) (e : BitVec 3)
  /-- R375: Vector load converting every line into an explicit format. -/
  | vldExplicit (q : BitVec 3) (a : BitVec 6) (f : BitVec 5) (e : BitVec 3)
  /-- R374: Gather load indexed by an entry popped from q6 or q7. -/
  | vldx (q : BitVec 3) (a : BitVec 6) (x : BitVec 1) (e : BitVec 3) (m : BitVec 3)
  /-- R376: Unit-stride first-fault load that shortens vl_A instead of trapping beyond element 0. -/
  | vldffUnit (q : BitVec 3) (a : BitVec 6) (e : BitVec 3)
  /-- R376: Strided first-fault load. -/
  | vldffStrided (q : BitVec 3) (a : BitVec 6) (b : BitVec 6) (e : BitVec 3)
  /-- R377: Unit-stride vector store of an entry popped from q6 or q7. -/
  | vstUnit (q : BitVec 3) (a : BitVec 6) (e : BitVec 3)
  /-- R377: Strided vector store. -/
  | vstStrided (q : BitVec 3) (a : BitVec 6) (b : BitVec 6) (e : BitVec 3)
  /-- R377: Scatter store with data and index entries popped from q6 and q7. -/
  | vstx (q : BitVec 3) (a : BitVec 6) (e : BitVec 3) (m : BitVec 3)
  /-- R379: Vector load from the scratchpad into a data queue entry. -/
  | vldl (q : BitVec 3) (a : BitVec 6) (e : BitVec 3)
  /-- R379: Vector store to the scratchpad from q6 or q7. -/
  | vstl (q : BitVec 3) (a : BitVec 6) (e : BitVec 3)
  /-- R380: Copies C vector registers with their tags to the scratchpad. -/
  | vspill (c : BitVec 3) (a : BitVec 6) (f : BitVec 5) (k : BitVec 2)
  /-- R380: Copies C vector registers back from the scratchpad. -/
  | vfill (c : BitVec 3) (a : BitVec 6) (f : BitVec 5) (k : BitVec 2)
  /-- R383: Orders earlier scalar-path accesses before later vector-path accesses. -/
  | fenceSv (s : BitVec 3)
  /-- R383: Orders earlier vector-path accesses before later scalar-path accesses. -/
  | fenceVs (s : BitVec 3)
  /-- R383: Orders vector-path accesses before later vector-path accesses. -/
  | fenceVv (s : BitVec 3)
  /-- R383: Orders every access and counter operation before every later one. -/
  | fenceAll (s : BitVec 3)
  /-- R384: Moves the scratchpad/L1 boundary of a joined core. -/
  | lsplit (k : BitVec 4)
  /-- R381: A-stream pushes a splatted scalar entry to q0-q5. -/
  | qpushA (q : BitVec 3) (a : BitVec 6)
  /-- R381: X-stream pushes a vector register whole to q6 or q7. -/
  | qpushX (q : BitVec 3) (v : BitVec 5)
  /-- R381: A-stream pops and discards an entry of q6 or q7. -/
  | qpopA (q : BitVec 3)
  /-- R381: X-stream pops an entry of q0-q5 into a vector register. -/
  | qpopX (q : BitVec 3) (v : BitVec 5)
  /-- R381: X-stream pops and discards an entry of q0-q5. -/
  | qpopXDiscard (q : BitVec 3)
  /-- R381: Pushes a scalar to qx (A-stream) or qa (X-stream). -/
  | qputs (a : BitVec 6)
  /-- R381: Pops a scalar from qa (A-stream) or qx (X-stream). -/
  | qgets (b : BitVec 6)
  /-- R381: Reads the occupancy, pending bit and head of a data queue. -/
  | qstatData (q : BitVec 3) (b : BitVec 6)
  /-- R381: Reads the state of qx or qa. -/
  | qstatScalar (q : BitVec 1) (b : BitVec 6)
  /-- R387: Sets vfmt_X to a named format and grants vl_X. -/
  | vsetl (d : BitVec 5) (a : BitVec 6) (f : BitVec 5)
  /-- R387: Grants vl_X under the current vfmt_X. -/
  | vsetlKeep (d : BitVec 5) (a : BitVec 6)
  /-- R394: Element-wise sum with result format from the promotion table. -/
  | vadd (d : BitVec 5) (a : BitVec 6) (b : BitVec 6) (m : BitVec 3) (r : BitVec 3) (z : BitVec 1)
  /-- R394: Element-wise difference. -/
  | vsub (d : BitVec 5) (a : BitVec 6) (b : BitVec 6) (m : BitVec 3) (r : BitVec 3) (z : BitVec 1)
  /-- R394: Element-wise product. -/
  | vmul (d : BitVec 5) (a : BitVec 6) (b : BitVec 6) (m : BitVec 3) (r : BitVec 3) (z : BitVec 1)
  /-- R395: Computes a × b + old VD rounded once. -/
  | vfma (d : BitVec 5) (a : BitVec 6) (b : BitVec 6) (m : BitVec 3) (r : BitVec 3) (z : BitVec 1)
  /-- R395: Computes a × b - old VD rounded once. -/
  | vfms (d : BitVec 5) (a : BitVec 6) (b : BitVec 6) (m : BitVec 3) (r : BitVec 3) (z : BitVec 1)
  /-- R396: Element-wise minimum. -/
  | vmin (d : BitVec 5) (a : BitVec 6) (b : BitVec 6) (m : BitVec 3) (r : BitVec 3) (z : BitVec 1)
  /-- R396: Element-wise maximum. -/
  | vmax (d : BitVec 5) (a : BitVec 6) (b : BitVec 6) (m : BitVec 3) (r : BitVec 3) (z : BitVec 1)
  /-- R397: Element-wise absolute value in the source format. -/
  | vabs (d : BitVec 5) (a : BitVec 6) (m : BitVec 3) (z : BitVec 1)
  /-- R397: Element-wise negation in the source format. -/
  | vneg (d : BitVec 5) (a : BitVec 6) (m : BitVec 3) (z : BitVec 1)
  /-- R394: Correctly rounded element-wise quotient. -/
  | vdiv (d : BitVec 5) (a : BitVec 6) (b : BitVec 6) (m : BitVec 3) (r : BitVec 3) (z : BitVec 1)
  /-- R398: Correctly rounded reciprocal. -/
  | vrcp (d : BitVec 5) (a : BitVec 6) (m : BitVec 3) (z : BitVec 1)
  /-- R398: Correctly rounded reciprocal square root. -/
  | vrsqrt (d : BitVec 5) (a : BitVec 6) (m : BitVec 3) (z : BitVec 1)
  /-- R399: Bitwise and of element patterns. -/
  | vand (d : BitVec 5) (a : BitVec 6) (b : BitVec 6) (m : BitVec 3) (r : BitVec 3) (z : BitVec 1)
  /-- R399: Bitwise or of element patterns. -/
  | vor (d : BitVec 5) (a : BitVec 6) (b : BitVec 6) (m : BitVec 3) (r : BitVec 3) (z : BitVec 1)
  /-- R399: Bitwise exclusive-or of element patterns. -/
  | vxor (d : BitVec 5) (a : BitVec 6) (b : BitVec 6) (m : BitVec 3) (r : BitVec 3) (z : BitVec 1)
  /-- R400: Shifts integer elements left. -/
  | vshl (d : BitVec 5) (a : BitVec 6) (b : BitVec 6) (m : BitVec 3) (r : BitVec 3) (z : BitVec 1)
  /-- R400: Shifts integer elements right. -/
  | vshr (d : BitVec 5) (a : BitVec 6) (b : BitVec 6) (m : BitVec 3) (r : BitVec 3) (z : BitVec 1)
  /-- R402: Selects a or b per element by mask M. -/
  | vsel (d : BitVec 5) (a : BitVec 6) (b : BitVec 6) (m : BitVec 3) (r : BitVec 3)
  /-- R403: Copies a into VD in its format. -/
  | vmov (d : BitVec 5) (a : BitVec 6) (m : BitVec 3) (z : BitVec 1)
  /-- R404: Writes every element of VD with a scalar in vfmt_X. -/
  | vsplat (d : BitVec 5) (a : BitVec 6)
  /-- R405: Extracts one element into an X-stream scalar register. -/
  | vext (d : BitVec 5) (a : BitVec 6) (b : BitVec 6)
  /-- R405: Inserts a scalar into one element of VD. -/
  | vins (d : BitVec 5) (a : BitVec 6) (b : BitVec 6)
  /-- R414: Tree sum reduction into element 0. -/
  | vredsum (d : BitVec 5) (a : BitVec 6) (m : BitVec 3)
  /-- R414: Tree maximum reduction into element 0. -/
  | vredmax (d : BitVec 5) (a : BitVec 6) (m : BitVec 3)
  /-- R414: Tree minimum reduction into element 0. -/
  | vredmin (d : BitVec 5) (a : BitVec 6) (m : BitVec 3)
  /-- R401: Sets mask bits where a equals b. -/
  | vcmpEq (d : BitVec 3) (a : BitVec 6) (b : BitVec 6) (m : BitVec 3) (r : BitVec 3) (z : BitVec 1)
  /-- R401: Sets mask bits where a differs from b or either is NaN. -/
  | vcmpNe (d : BitVec 3) (a : BitVec 6) (b : BitVec 6) (m : BitVec 3) (r : BitVec 3) (z : BitVec 1)
  /-- R401: Sets mask bits where a is below b. -/
  | vcmpLt (d : BitVec 3) (a : BitVec 6) (b : BitVec 6) (m : BitVec 3) (r : BitVec 3) (z : BitVec 1)
  /-- R401: Sets mask bits where a is at most b. -/
  | vcmpLe (d : BitVec 3) (a : BitVec 6) (b : BitVec 6) (m : BitVec 3) (r : BitVec 3) (z : BitVec 1)
  /-- R401: Sets mask bits where a is above b. -/
  | vcmpGt (d : BitVec 3) (a : BitVec 6) (b : BitVec 6) (m : BitVec 3) (r : BitVec 3) (z : BitVec 1)
  /-- R401: Sets mask bits where a is at least b. -/
  | vcmpGe (d : BitVec 3) (a : BitVec 6) (b : BitVec 6) (m : BitVec 3) (r : BitVec 3) (z : BitVec 1)
  /-- R401: Sets mask bits where either element is NaN or NaR. -/
  | vcmpUn (d : BitVec 3) (a : BitVec 6) (b : BitVec 6) (m : BitVec 3) (r : BitVec 3) (z : BitVec 1)
  /-- R401: Sets mask bits where neither element is NaN or NaR. -/
  | vcmpOr (d : BitVec 3) (a : BitVec 6) (b : BitVec 6) (m : BitVec 3) (r : BitVec 3) (z : BitVec 1)
  /-- R411: Writes prefix counts of a mask's one bits. -/
  | viota (d : BitVec 5) (a : BitVec 3) (m : BitVec 3) (z : BitVec 1)
  /-- R412: Slides elements up by a scalar offset. -/
  | vslideup (d : BitVec 5) (a : BitVec 6) (b : BitVec 6) (m : BitVec 3) (z : BitVec 1)
  /-- R412: Slides elements down by a scalar offset. -/
  | vslidedn (d : BitVec 5) (a : BitVec 6) (b : BitVec 6) (m : BitVec 3) (z : BitVec 1)
  /-- R413: Permutes elements of a by integer indices in b. -/
  | vperm (d : BitVec 5) (a : BitVec 6) (b : BitVec 6) (m : BitVec 3) (r : BitVec 3) (z : BitVec 1)
  /-- R415: Bitwise and of two masks. -/
  | mand (d : BitVec 3) (a : BitVec 3) (b : BitVec 3)
  /-- R415: Bitwise or of two masks. -/
  | mor (d : BitVec 3) (a : BitVec 3) (b : BitVec 3)
  /-- R415: Bitwise exclusive-or of two masks. -/
  | mxor (d : BitVec 3) (a : BitVec 3) (b : BitVec 3)
  /-- R415: mA and not mB. -/
  | mandn (d : BitVec 3) (a : BitVec 3) (b : BitVec 3)
  /-- R415: Bitwise complement of a mask. -/
  | mnot (d : BitVec 3) (a : BitVec 3)
  /-- R416: Counts a mask's one bits below vl_X into a scalar. -/
  | mpopc (d : BitVec 5) (a : BitVec 3)
  /-- R416: Writes the lowest set mask position below vl_X, or all ones. -/
  | mfirst (d : BitVec 5) (a : BitVec 3)
  /-- R421: Sets the matrix element width, requesting or releasing leave. -/
  | mmode (w : BitVec 3)
  /-- R427: Zeroes the active cells of a tile. -/
  | mzero (t : BitVec 2) (r : BitVec 3) (c : BitVec 3)
  /-- R424: Accumulates an outer product into a tile. -/
  | opadd (t : BitVec 2) (a : BitVec 6) (b : BitVec 6) (r : BitVec 3) (c : BitVec 3)
  /-- R424: Subtracts an outer product from a tile. -/
  | opsub (t : BitVec 2) (a : BitVec 6) (b : BitVec 6) (r : BitVec 3) (c : BitVec 3)
  /-- R428: Reads a tile row into a vector register, optionally clearing it. -/
  | mrd (t : BitVec 2) (v : BitVec 5) (x : BitVec 6) (c : BitVec 3) (s : BitVec 1)
  /-- R429: Writes a vector into a tile row or column. -/
  | mwr (t : BitVec 2) (a : BitVec 6) (x : BitVec 6) (c : BitVec 3) (s : BitVec 1)
  /-- R428: Reads a tile column into a vector register, optionally clearing it. -/
  | mtr (t : BitVec 2) (v : BitVec 5) (x : BitVec 6) (c : BitVec 3) (s : BitVec 1)
  /-- R406: Copies a register and retags it from a scalar. -/
  | vtag (d : BitVec 5) (a : BitVec 6) (b : BitVec 6)
  /-- R407: Reads a register's tag and one block scale into a scalar. -/
  | vgtag (d : BitVec 5) (a : BitVec 5) (b : BitVec 6)
  /-- R408: Converts a into a named format. -/
  | vcvt (d : BitVec 5) (a : BitVec 6) (f : BitVec 5) (m : BitVec 3) (z : BitVec 1)
  /-- R409: Converts a into scaled vfmt_X with an explicit scale. -/
  | vscale (d : BitVec 5) (a : BitVec 6) (b : BitVec 6) (m : BitVec 3) (z : BitVec 1)
  /-- R410: Undoes the Hadamard rotation of a register. -/
  | vunrot (d : BitVec 5) (a : BitVec 6)
  /-- R436: Adds a delta to a counter and wakes satisfied waiters. -/
  | cadd (a : BitVec 6) (b : BitVec 6) (o : BitVec 2) (s : BitVec 3)
  /-- R436: Adds a delta to a counter and returns the old value. -/
  | cxadd (d : BitVec 6) (a : BitVec 6) (b : BitVec 6) (o : BitVec 2) (s : BitVec 3)
  /-- R438: Waits for a counter to reach a threshold and writes a status. -/
  | cwait (d : BitVec 6) (a : BitVec 6) (b : BitVec 6) (s : BitVec 3)
  /-- R436: Reads a counter's value. -/
  | crd (d : BitVec 6) (a : BitVec 6) (o : BitVec 2) (s : BitVec 3)
  /-- R436: Tests a counter against a threshold. -/
  | ctst (d : BitVec 6) (a : BitVec 6) (b : BitVec 6) (o : BitVec 2) (s : BitVec 3)
  /-- R436: Privileged write of a counter value unless it has waiters. -/
  | cset (d : BitVec 6) (a : BitVec 6) (b : BitVec 6) (s : BitVec 3)
  /-- R440: Atomic fetch-and-add. -/
  | atomAdd (d : BitVec 6) (a : BitVec 6) (b : BitVec 6) (o : BitVec 2) (s : BitVec 3) (w : BitVec 1)
  /-- R440: Atomic signed fetch-and-minimum. -/
  | atomMin (d : BitVec 6) (a : BitVec 6) (b : BitVec 6) (o : BitVec 2) (s : BitVec 3) (w : BitVec 1)
  /-- R440: Atomic signed fetch-and-maximum. -/
  | atomMax (d : BitVec 6) (a : BitVec 6) (b : BitVec 6) (o : BitVec 2) (s : BitVec 3) (w : BitVec 1)
  /-- R440: Atomic fetch-and-and. -/
  | atomAnd (d : BitVec 6) (a : BitVec 6) (b : BitVec 6) (o : BitVec 2) (s : BitVec 3) (w : BitVec 1)
  /-- R440: Atomic fetch-and-or. -/
  | atomOr (d : BitVec 6) (a : BitVec 6) (b : BitVec 6) (o : BitVec 2) (s : BitVec 3) (w : BitVec 1)
  /-- R440: Atomic fetch-and-xor. -/
  | atomXor (d : BitVec 6) (a : BitVec 6) (b : BitVec 6) (o : BitVec 2) (s : BitVec 3) (w : BitVec 1)
  /-- R440: Atomic swap. -/
  | atomSwap (d : BitVec 6) (a : BitVec 6) (b : BitVec 6) (o : BitVec 2) (s : BitVec 3) (w : BitVec 1)
  /-- R440: Atomic compare-and-swap. -/
  | cas (d : BitVec 6) (a : BitVec 6) (b : BitVec 6) (o : BitVec 2) (s : BitVec 3) (w : BitVec 1)
  /-- R441: Unordered vector atomic over indexed elements. -/
  | vatom (p : BitVec 3) (m : BitVec 3) (a : BitVec 6) (q : BitVec 3) (t : BitVec 1) (x : BitVec 1) (o : BitVec 2) (s : BitVec 3) (w : BitVec 1)
  /-- R441: Vector atomic performed in ascending element order. -/
  | vatomOi (p : BitVec 3) (m : BitVec 3) (a : BitVec 6) (q : BitVec 3) (t : BitVec 1) (x : BitVec 1) (o : BitVec 2) (s : BitVec 3) (w : BitVec 1)
  /-- R442: Issues a shape record to Sluice queue j. -/
  | sluice (a : BitVec 6) (j : BitVec 4) (s : BitVec 3)
  /-- R442: Issues a pan command record. -/
  | panc (a : BitVec 6) (s : BitVec 3)
  /-- R442: Issues a recode job record to the Crystalliser. -/
  | rcode (a : BitVec 6) (s : BitVec 3)
  /-- R443: Hands a launch record to the Launch Unit and returns handle and acceptance code. -/
  | launch (d : BitVec 6) (a : BitVec 6)
  /-- R444: Cancels a launch by handle and returns a status. -/
  | cancel (d : BitVec 6) (a : BitVec 6)
  /-- R439: Claims the next strip index of the launch. -/
  | strip (d : BitVec 6)
  /-- R448: Reads a CSR. -/
  | csrr (d : BitVec 6) (c : BitVec 12)
  /-- R448: Writes a CSR and returns its old value. -/
  | csrw (d : BitVec 6) (a : BitVec 6) (c : BitVec 12)
  /-- R448: Sets CSR bits and returns the old value. -/
  | csrs (d : BitVec 6) (a : BitVec 6) (c : BitVec 12)
  /-- R448: Clears CSR bits and returns the old value. -/
  | csrc (d : BitVec 6) (a : BitVec 6) (c : BitVec 12)
  /-- R448: Writes a 6-bit immediate to a CSR. -/
  | csrwi (d : BitVec 6) (i : BitVec 6) (c : BitVec 12)
  /-- R266: Resumes from the trap record. -/
  | eret
  /-- R447: Claims and publishes a call record and waits for the reply. -/
  | scall (d : BitVec 6) (a : BitVec 6) (b : BitVec 6)
  /-- R447: Publishes a call record without waiting, or returns BUSY. -/
  | scallNb (d : BitVec 6) (a : BitVec 6) (b : BitVec 6)
  /-- R446: Appends a snapshot and joins the window collective. -/
  | wmark (d : BitVec 6)
  /-- R449: Removes translations of one address for one ASID. -/
  | tlbiVa (d : BitVec 6) (a : BitVec 6) (b : BitVec 6)
  /-- R449: Removes the non-global translations of one ASID. -/
  | tlbiAsid (d : BitVec 6) (b : BitVec 6)
  /-- R449: Removes every translation in the package. -/
  | tlbiAll (d : BitVec 6)
  /-- R450: Acts as a breakpoint hit in an attached launch, otherwise raises BKPT. -/
  | bkpt
  /-- R445: Writes one promotion-table entry. -/
  | ptset (d : BitVec 6) (a : BitVec 6) (b : BitVec 6)
  /-- R445: Reads eight promotion-table entries. -/
  | ptget (d : BitVec 6) (a : BitVec 6)
  /-- R382: Waits until every earlier store is resolved and delivers store faults. -/
  | sdrain
  /-- R128: A queued vector or matrix instruction is admitted to the register file, with its traps decided. -/
  | xAdmission (h : HartId)
  /-- R365: Lines of an issued vector load arrive, fill the pending entry and confirm or fail its tag checks. -/
  | vectorLoadArrival (h : HartId)
  /-- R256: An issued store is translated and either performed or recorded in the SFRQ. -/
  | storeResolve (h : HartId)
  /-- R161: A page walk ends, setting A or D and filling the TLB or faulting. -/
  | walkComplete (tower core asid va : Nat)
  /-- R163: Once no removed translation can be used, the TLBI's completion counter receives its add. -/
  | tlbiCompletionAdd
  /-- R151: A request for a line arrives at its home and is served in order, with recalls. -/
  | homeRequest (pa tower core key : Nat) (own : Bool)
  /-- R251: The counter cache writes a slot back to HBM4E and evicts it. -/
  | counterCacheEviction (tower slot : Nat)
  /-- R22: The governor grants a waiting leave request and the instruction proceeds. -/
  | leaveGrant (tower : Nat)
  /-- R24: At a 256-cycle boundary the governor applies new matrix and memory duties. -/
  | dutyUpdate (tower : Nat)
  /-- R64: A service hart takes a NULL call and replies at once. -/
  | callNull (tower : Nat)
  /-- R286: A service hart freezes the caller's context and rewinds it one window. -/
  | callUndoStep (tower : Nat)
  /-- R286: A service hart freezes the caller's context and rewinds it to a named window. -/
  | callUndoTo (tower : Nat)
  /-- R65: A service hart copies the call record to the host-forward ring and adds to HFPOST. -/
  | callHostFwd (tower : Nat)
  /-- R64: A service hart appends a CLASS 0 error-log entry and replies. -/
  | callLog (tower : Nat)
  /-- R64: A call with an undefined function replies status 1. -/
  | callUndefined (tower : Nat)
  /-- R100: A soft pre-emption or freeze takes a stream at its next pre-emption point. -/
  | softPreemptStop (h : HartId)
  /-- R100: A victim reaching no boundary in 130,000 cycles is hard-stopped. -/
  | preemptTimeout (h : HartId)
  /-- R120: A soft request deadlocked on a queue is turned into a hard pre-emption. -/
  | qblockHardPreempt (h : HartId)
  /-- R97: A task of a KILLING launch is stopped unsaved at its next boundary. -/
  | killStop (h : HartId)
  /-- R97: A killed task reaching no boundary in 130,000 cycles is stopped at an instruction boundary. -/
  | killTimeout (h : HartId)
  /-- R268: A parked task's state has been saved to its context save area. -/
  | parkSaveComplete (h : HartId)
  /-- R245: A wake from the home reaches a waiting stream, ending its CWAIT with status 0. -/
  | cwaitWake (h : HartId) (value : BitVec 64)
  /-- R246: A CWAIT's timeout elapses and it returns status 1. -/
  | cwaitTimeout (h : HartId)
  /-- R247: A stream turned away by a full waiter table tests the counter after 4,096 cycles. -/
  | cwaitFullPoll (h : HartId)
  /-- R246: A CWAIT on a host-homed counter tests it every 4,096 cycles. -/
  | hostCounterPoll (h : HartId)
  /-- R247: An interrupt waiter or start condition turned away polls every 4,096 cycles. -/
  | waiterPoll (w : WaiterId)
  /-- R278: Every live task has arrived; WIN increments and the waiting tasks wake. -/
  | wmarkCollectiveComplete (lix : Nat)
  /-- R287: Once the context's engines are done, records are applied newest first and tasks restored. -/
  | rewind (lix : Nat)
  /-- R296: The Sluice starts a COPY command, moving lines in iteration order. -/
  | sluiceCopy (cmd : Nat)
  /-- R299: The Sluice starts an APPEND, checking and advancing FLAPP. -/
  | sluiceAppend (cmd : Nat)
  /-- R298: A destination line is performed; progress and end adds follow the delivered prefix. -/
  | sluiceLineDelivered (cmd : Nat)
  /-- R303: A pan unit starts a GEMV command. -/
  | panGemv (cmd : Nat)
  /-- R304: A pan unit starts an AXPBY weight update. -/
  | panAxpby (cmd : Nat)
  /-- R305: A pan unit starts a FILL command. -/
  | panFill (cmd : Nat)
  /-- R306: A pan command completes or stops on an error and makes its end add. -/
  | panCommandEnd (cmd : Nat)
  /-- R210: A queued recode job starts and sets write guards on its pages. -/
  | recodeJobStart (tower : Nat)
  /-- R210: Every pre-guard write has performed and recoding of the pages begins. -/
  | recodeGuardDone (tower : Nat)
  /-- R210: All destination lines are written; leaves are remapped and TLBI issued. -/
  | recodeLinesDone (tower : Nat)
  /-- R210: The job's TLBI completes; guards are removed and the completion add made. -/
  | recodeShootDone (tower : Nat)
  /-- R313: POST cycles after the trigger, recording stops and the buffer is written out. -/
  | surveyDump (tower : Nat)
  /-- R313: The dump ends, ARM clears and sbdone receives its add. -/
  | surveyDumpDone (tower : Nat)
  /-- R316: A stream about to issue a breakpoint word freezes its launch. -/
  | breakpointHit (entry : Nat)
  /-- R126: A vector or matrix instruction completes its last write and retires, freeing popped entries and making its pushes
  visible to the A-stream. -/
  | xRetirement (h : HartId)
  /-- R310: In each counted cycle every lane of a hart adds 1 to one survey class counter and svcyc rises. -/
  | countedCycle (h : HartId)
  /-- R313: While ARM = 1, the survey buffer writes one record per cycle of the recorded core. -/
  | surveyBufferRecord (tower : Nat)
  /-- R334: A word that is unassigned or has a reserved or nonzero must-be-zero field reaches issue and meets its fate of
  ILLEGAL_OP, ILLEGAL_STREAM or PRIV. -/
  | illegalOp (w : BitVec 32)
  /-- R148: The L2 evicts a line after recalling every copy and writing it back if dirty. -/
  | l2Eviction (pa : Nat)
  /-- R149: A snoop filter entry is evicted and every copy it tracks is recalled. -/
  | snoopFilterEviction (pa : Nat)
  /-- R150: A host CXL.cache snoop invalidates a host line held in an RDC. -/
  | hostSnoop (pa : Nat)
  /-- R20: Every 1 ms a hot tower's compute allowance is lowered or restored by 1/16. -/
  | thermalStep (tower temp : Nat)
  /-- R20: A tower reaching 115 °C has its allowance set to 1/16 and logs a thermal error. -/
  | thermalCritical (tower temp : Nat)
  /-- R19: The active host sets the package power cap, scaling every governed pool. -/
  | pwrcapWrite (host : HostId) (v : BitVec 64)
  /-- R26: A host write clears the W1C flags of a tower's GOVSTAT. -/
  | govstatWrite (host : HostId) (tower : Nat) (v : BitVec 64)
  /-- R27: A host port trains at some width and speed, or stays down. -/
  | hostPortTrain (host : HostId) (lanes rate : Nat) (cxl : Bool)
  /-- R38: A Zalarn flit is received, corrected by FEC or replayed, and its messages taken. -/
  | flitReceive (link : Nat) (flit : FlitIn)
  /-- R38: A link that loses lane lock for 1 ms suffers a fatal Zalarn error. -/
  | laneLockLoss (link : Nat)
  /-- R40: A request message from a peer is performed at this part's home. -/
  | peerRequest (node : Nat) (req : PeerReq)
  /-- R40: A wake from a peer's counter home arrives on the counter channel. -/
  | remoteWake (token : Nat) (value : BitVec 64)
  /-- R41: A containment message from a peer makes that peer unreachable. -/
  | containmentMessage (node : Nat)
  /-- R42: Surprise link-down or uncorrectable error on a trained host port places the part in CONTAINED. -/
  | hostLinkDown (host : HostId)
  /-- R42: A CXL viral indication received on a port places the part in CONTAINED. -/
  | cxlViralIndication (onMemPort : Bool) (port : Nat)
  /-- R42: Link-down on a configured memory port places the part in CONTAINED. -/
  | memoryPortLinkDown (port : Nat)
  /-- R70: An uncorrectable error in a control structure places the part in CONTAINED. -/
  | controlStructureError (tower : Nat)
  /-- R46: A host read through MEMWIN is performed at the line's home. -/
  | memwinRead (host : HostId) (off n : Nat)
  /-- R31: A host write through MEMWIN is merged at the home and sets the line's class. -/
  | memwinWrite (host : HostId) (off : Nat) (data : List (BitVec 8)) (poison : Bool)
  /-- R45: A host write to a CFGWIN register without its own row, checked against its writers. -/
  | cfgwinWrite (host : HostId) (off size : Nat) (v : BitVec 64)
  /-- R47: A boot step completes and the next begins, advancing BOOTSTAT.PHASE. -/
  | bootStep
  /-- R50: SPDM GET_VERSION request answered by the ROM monitor. -/
  | getVersion (host : HostId)
  /-- R50: SPDM GET_CAPABILITIES request answered. -/
  | getCapabilities (host : HostId)
  /-- R50: SPDM NEGOTIATE_ALGORITHMS request answered. -/
  | negotiateAlgorithms (host : HostId)
  /-- R50: SPDM GET_DIGESTS request answered. -/
  | getDigests (host : HostId)
  /-- R50: SPDM GET_CERTIFICATE request answered from certificate slot 0. -/
  | getCertificate (host : HostId) (slot off len : Nat)
  /-- R50: SPDM CHALLENGE request answered. -/
  | challenge (host : HostId) (slot : Nat) (nonce : BitVec 256)
  /-- R50: SPDM GET_MEASUREMENTS request reports MSLOT contents. -/
  | getMeasurements (host : HostId) (index : Nat)
  /-- R50: An unsupported SPDM request returns ERROR UnsupportedRequest. -/
  | spdmUnsupported (host : HostId) (code : Nat)
  /-- R51: The active host sets the lease period. -/
  | leasecfgWrite (host : HostId) (v : BitVec 64)
  /-- R52: The active host restarts its lease for a full period. -/
  | renew (host : HostId)
  /-- R52: A host claims the lease, becoming active at once or setting CLAIMED. -/
  | claim (host : HostId)
  /-- R52: The active host ends its lease at once. -/
  | release (host : HostId)
  /-- R52: The lease expires; the claimant becomes active or ACTIVE becomes 0. -/
  | leaseExpiry
  /-- R55: A host write to ACCESS adds to the bound counter as a .rel.s CADD. -/
  | hostCounterAdd (host : HostId) (slot : Nat) (v : BitVec 64)
  /-- R55: A host read of ACCESS returns the bound counter's value. -/
  | hostCounterRead (host : HostId) (slot : Nat)
  /-- R56: The active host sets the request ring base, refused while requests are outstanding. -/
  | rqbaseWrite (host : HostId) (v : BitVec 64)
  /-- R56: The active host sets the request ring size, refused while requests are outstanding. -/
  | rqentWrite (host : HostId) (v : BitVec 64)
  /-- R58: A service hart serves a posted NOP request and adds to RQDONE. -/
  | requestNop
  /-- R58: A service hart checks and launches a posted launch record. -/
  | requestLaunch
  /-- R58: A service hart cancels the launch named by a posted request. -/
  | requestCancel
  /-- R59: A host write to an interrupt waiter entry removes and re-arms its waiter. -/
  | interruptWaiterWrite (host : HostId) (index off size : Nat) (v : BitVec 64)
  /-- R65: HFDONE reaches the forwarded call and the service hart replies to the caller. -/
  | hostFwdReply
  /-- R66: The active host asks the ROM monitor to measure a staged image. -/
  | stage (host : HostId) (kind : Nat)
  /-- R66: Measurement of the staged image ends with STATE 2 or 6. -/
  | fwMeasureDone
  /-- R67: Takes the switch point of a live firmware switch and starts the drain. -/
  | switch (host : HostId)
  /-- R69: Clears the staged slot and returns FWSTAT to idle. -/
  | discard (host : HostId)
  /-- R67: Every call and request under the old image has replied. -/
  | fwDrainEnd
  /-- R69: The new image signals ready, completing the switch. -/
  | fwreadyWrite (v : BitVec 64)
  /-- R68: No ready signal within 100 ms after the drain: the old image resumes. -/
  | fwReadyTimeout
  /-- R72: RESETCTL code 0xA5 freezes, writes back, reinitialises and reboots keeping memory. -/
  | preservingReset (host : HostId)
  /-- R74: RESETCTL code 0xC3 returns every register to reset and reruns boot. -/
  | coldReset (host : HostId)
  /-- R74: The package reset pin makes a cold reset. -/
  | resetPin
  /-- R91: Every 32 cycles the Launch Unit places, grows and resumes tasks and requests pre-emptions. -/
  | selectionPass
  /-- R309: Writing svctl enables counting or clears the survey counters. -/
  | svctlWrite (v : BitVec 64)
  /-- R312: Writing sbctl arms or abandons the survey buffer recording. -/
  | sbctlWrite (v : BitVec 64)
  /-- R315: Hard-stops and parks every task of a launch and marks it frozen. -/
  | freeze
  /-- R315: Parks every task of a launch at its next pre-emption point and marks it frozen. -/
  | freezeSoft
  /-- R315: Clears a launch's frozen mark so its tasks compete as parked tasks. -/
  | thaw
  /-- R315: Debug command rewinding a frozen context to its current window. -/
  | undoStep
  /-- R315: Debug command rewinding a frozen context to dbgarg.WIN. -/
  | undoTo
  /-- R323: Writing keyhi stores HI and LO as integrity key K. -/
  | keyhiWrite (v : BitVec 64)
  /-- R436: Writing cgdat updates a counter group entry in every tower's copy. -/
  | cgdatWrite (v : BitVec 64)
  /-- R81: Writing tendat sets a tenant's configuration for the next selection pass. -/
  | tendatWrite (v : BitVec 64)
  /-- R136: Writing peerdat sets a PEERMAP entry. -/
  | peerdatWrite (v : BitVec 64)
  /-- R299: Writing flapp sets the flash append pointer. -/
  | flappWrite (v : BitVec 64)
  /-- R324: A service hart writes a CFGWIN register through the alias. -/
  | cfgdatWrite (v : BitVec 64)
  /-- R39: A Zalarn link trains, sets UP, WIDTH, PEER and PEERPORT in ZLSTAT and starts carrying flits. -/
  | zalarnLinkTrain (link width peer peerPort : Nat)
  /-- R28: A host AtomicOp (FetchAdd, Swap or CAS) arrives on a host port and the part completes it. -/
  | hostAtomicOp (host : HostId) (off : Nat) (op : HostAtomic) (wide : Bool) (operand expected : BitVec 64)
deriving DecidableEq, Repr

end Sys2Proof
end

