-- ==== Sys2Proof/WellFormed.lean ====
section
/-! DEFINITION. WellFormed.lean: what an instruction's fields must meet beyond their widths, whatever the state
(R217, R319, R326 to R331, R363, R373, R381, R384, R420, R434): exactly the words that order 3 of R334 lets through,
less its checks that read the state (tiles granted, LSPLIT on a SPLIT core). For an event: the range of what it
names (R9). -/

namespace Sys2Proof

/-- A scope value that R217 defines. -/
def scopeOk (s : BitVec 3) : Bool := decide (s.toNat ≤ 4)
/-- ORD values of CADD: relaxed or release (R217 Table 4). -/
def ordRelOk (o : BitVec 2) : Bool := o == 0#2 || o == 2#2
/-- ORD values of CRD and CTST: relaxed or acquire (R217 Table 4). -/
def ordAcqOk (o : BitVec 2) : Bool := o == 0#2 || o == 1#2
/-- A queue that the A-stream fills, q0 to q5 (R122, R373). -/
def loadQueueOk (q : BitVec 3) : Bool := decide (q.toNat ≤ 5)
/-- A queue that the X-stream fills, q6 or q7 (R122, R373). -/
def storeQueueOk (q : BitVec 3) : Bool := decide (6 ≤ q.toNat)
/-- An element width code that R326 defines. -/
def widthOk (e : BitVec 3) : Bool := decide (e.toNat ≤ 4)
/-- EW 0 is reserved in the strided, gather and scatter forms (R363). -/
def byteWidthOk (e : BitVec 3) : Bool := decide (1 ≤ e.toNat)
/-- A vector source code of the X-stream: v0-v31, or q0-q5 popped or peeked (R125, R328). -/
def vecSourceOk (a : BitVec 6) : Bool :=
  decide (a.toNat ≤ 37) || (decide (40 ≤ a.toNat) && decide (a.toNat ≤ 45))
/-- REP is enabled, or zero (R329). -/
def repOk (r : BitVec 3) : Bool := decide (4 ≤ r.toNat) || decide (r.toNat = 0)
/-- A destination mask is m1-m7 (R319). -/
def maskDestOk (d : BitVec 3) : Bool := decide (d.toNat ≠ 0)
/-- The CSR numbers of Table 2 (R320). -/
def csrNumberDefined (n : Nat) : Bool :=
  n ≤ 0x005 || n == 0x010 || (0x020 ≤ n && n ≤ 0x028) || (0x030 ≤ n && n ≤ 0x033) || (0x040 ≤ n && n ≤ 0x044)
    || (0x050 ≤ n && n ≤ 0x057) || n == 0x100 || (0x110 ≤ n && n ≤ 0x113) || (0x120 ≤ n && n ≤ 0x124)
    || (0x130 ≤ n && n ≤ 0x13F) || (0x200 ≤ n && n ≤ 0x20B)
/-- A CSR number of Table 2 (R320, R321). -/
def csrDefined (c : BitVec 12) : Bool := csrNumberDefined c.toNat
/-- A hart slot of the package (R9, R75). -/
def HartId.ok (h : HartId) : Bool := decide (h.tower < 8) && decide (h.core < 65) && decide (h.group < 4)

/-- Whether the instruction has a word (its first 190 rows), as against an event. -/
def Instr.isWord : Instr → Bool
  | .nop => true
  | .br _ => true
  | .brcEq _ _ _ => true
  | .brcNe _ _ _ => true
  | .brcLt _ _ _ => true
  | .brcGe _ _ _ => true
  | .brcLtu _ _ _ => true
  | .brcGeu _ _ _ => true
  | .brr _ => true
  | .call _ _ => true
  | .callr _ _ => true
  | .brk _ => true
  | .exit => true
  | .step => true
  | .xstart _ => true
  | .add _ _ _ => true
  | .sub _ _ _ => true
  | .mul _ _ _ => true
  | .mulh _ _ _ => true
  | .mulhu _ _ _ => true
  | .div _ _ _ => true
  | .divu _ _ _ => true
  | .rem _ _ _ => true
  | .remu _ _ _ => true
  | .and _ _ _ => true
  | .or _ _ _ => true
  | .xor _ _ _ => true
  | .andn _ _ _ => true
  | .sll _ _ _ => true
  | .srl _ _ _ => true
  | .sra _ _ _ => true
  | .min _ _ _ => true
  | .max _ _ _ => true
  | .minu _ _ _ => true
  | .maxu _ _ _ => true
  | .slt _ _ _ => true
  | .sltu _ _ _ => true
  | .seq _ _ _ => true
  | .sel _ _ _ _ => true
  | .clz _ _ => true
  | .ctz _ _ => true
  | .popc _ _ => true
  | .addsh _ _ _ _ => true
  | .addi _ _ _ => true
  | .andi _ _ _ => true
  | .ori _ _ _ => true
  | .slli _ _ _ => true
  | .srli _ _ _ => true
  | .srai _ _ _ => true
  | .li _ _ => true
  | .lih _ _ _ => true
  | .ldB _ _ _ => true
  | .ldBu _ _ _ => true
  | .ldH _ _ _ => true
  | .ldHu _ _ _ => true
  | .ldW _ _ _ => true
  | .ldWu _ _ _ => true
  | .ldD _ _ _ => true
  | .stB _ _ _ => true
  | .stH _ _ _ => true
  | .stW _ _ _ => true
  | .stD _ _ _ => true
  | .ldl _ _ _ => true
  | .stl _ _ _ => true
  | .tagr _ _ _ => true
  | .tagw _ _ _ => true
  | .pref _ _ => true
  | .vldUnit _ _ _ => true
  | .vldStrided _ _ _ _ => true
  | .vldExplicit _ _ _ _ => true
  | .vldx _ _ _ _ _ => true
  | .vldffUnit _ _ _ => true
  | .vldffStrided _ _ _ _ => true
  | .vstUnit _ _ _ => true
  | .vstStrided _ _ _ _ => true
  | .vstx _ _ _ _ => true
  | .vldl _ _ _ => true
  | .vstl _ _ _ => true
  | .vspill _ _ _ _ => true
  | .vfill _ _ _ _ => true
  | .fenceSv _ => true
  | .fenceVs _ => true
  | .fenceVv _ => true
  | .fenceAll _ => true
  | .lsplit _ => true
  | .qpushA _ _ => true
  | .qpushX _ _ => true
  | .qpopA _ => true
  | .qpopX _ _ => true
  | .qpopXDiscard _ => true
  | .qputs _ => true
  | .qgets _ => true
  | .qstatData _ _ => true
  | .qstatScalar _ _ => true
  | .vsetl _ _ _ => true
  | .vsetlKeep _ _ => true
  | .vadd _ _ _ _ _ _ => true
  | .vsub _ _ _ _ _ _ => true
  | .vmul _ _ _ _ _ _ => true
  | .vfma _ _ _ _ _ _ => true
  | .vfms _ _ _ _ _ _ => true
  | .vmin _ _ _ _ _ _ => true
  | .vmax _ _ _ _ _ _ => true
  | .vabs _ _ _ _ => true
  | .vneg _ _ _ _ => true
  | .vdiv _ _ _ _ _ _ => true
  | .vrcp _ _ _ _ => true
  | .vrsqrt _ _ _ _ => true
  | .vand _ _ _ _ _ _ => true
  | .vor _ _ _ _ _ _ => true
  | .vxor _ _ _ _ _ _ => true
  | .vshl _ _ _ _ _ _ => true
  | .vshr _ _ _ _ _ _ => true
  | .vsel _ _ _ _ _ => true
  | .vmov _ _ _ _ => true
  | .vsplat _ _ => true
  | .vext _ _ _ => true
  | .vins _ _ _ => true
  | .vredsum _ _ _ => true
  | .vredmax _ _ _ => true
  | .vredmin _ _ _ => true
  | .vcmpEq _ _ _ _ _ _ => true
  | .vcmpNe _ _ _ _ _ _ => true
  | .vcmpLt _ _ _ _ _ _ => true
  | .vcmpLe _ _ _ _ _ _ => true
  | .vcmpGt _ _ _ _ _ _ => true
  | .vcmpGe _ _ _ _ _ _ => true
  | .vcmpUn _ _ _ _ _ _ => true
  | .vcmpOr _ _ _ _ _ _ => true
  | .viota _ _ _ _ => true
  | .vslideup _ _ _ _ _ => true
  | .vslidedn _ _ _ _ _ => true
  | .vperm _ _ _ _ _ _ => true
  | .mand _ _ _ => true
  | .mor _ _ _ => true
  | .mxor _ _ _ => true
  | .mandn _ _ _ => true
  | .mnot _ _ => true
  | .mpopc _ _ => true
  | .mfirst _ _ => true
  | .mmode _ => true
  | .mzero _ _ _ => true
  | .opadd _ _ _ _ _ => true
  | .opsub _ _ _ _ _ => true
  | .mrd _ _ _ _ _ => true
  | .mwr _ _ _ _ _ => true
  | .mtr _ _ _ _ _ => true
  | .vtag _ _ _ => true
  | .vgtag _ _ _ => true
  | .vcvt _ _ _ _ _ => true
  | .vscale _ _ _ _ _ => true
  | .vunrot _ _ => true
  | .cadd _ _ _ _ => true
  | .cxadd _ _ _ _ _ => true
  | .cwait _ _ _ _ => true
  | .crd _ _ _ _ => true
  | .ctst _ _ _ _ _ => true
  | .cset _ _ _ _ => true
  | .atomAdd _ _ _ _ _ _ => true
  | .atomMin _ _ _ _ _ _ => true
  | .atomMax _ _ _ _ _ _ => true
  | .atomAnd _ _ _ _ _ _ => true
  | .atomOr _ _ _ _ _ _ => true
  | .atomXor _ _ _ _ _ _ => true
  | .atomSwap _ _ _ _ _ _ => true
  | .cas _ _ _ _ _ _ => true
  | .vatom _ _ _ _ _ _ _ _ _ => true
  | .vatomOi _ _ _ _ _ _ _ _ _ => true
  | .sluice _ _ _ => true
  | .panc _ _ => true
  | .rcode _ _ => true
  | .launch _ _ => true
  | .cancel _ _ => true
  | .strip _ => true
  | .csrr _ _ => true
  | .csrw _ _ _ => true
  | .csrs _ _ _ => true
  | .csrc _ _ _ => true
  | .csrwi _ _ _ => true
  | .eret => true
  | .scall _ _ _ => true
  | .scallNb _ _ _ => true
  | .wmark _ => true
  | .tlbiVa _ _ _ => true
  | .tlbiAsid _ _ => true
  | .tlbiAll _ => true
  | .bkpt => true
  | .ptset _ _ _ => true
  | .ptget _ _ => true
  | .sdrain => true
  | .xAdmission _ => false
  | .vectorLoadArrival _ => false
  | .storeResolve _ => false
  | .walkComplete _ _ _ _ => false
  | .tlbiCompletionAdd => false
  | .homeRequest _ _ _ _ _ => false
  | .l2Eviction _ => false
  | .snoopFilterEviction _ => false
  | .counterCacheEviction _ _ => false
  | .hostSnoop _ => false
  | .leaveGrant _ => false
  | .dutyUpdate _ => false
  | .thermalStep _ _ => false
  | .thermalCritical _ _ => false
  | .pwrcapWrite _ _ => false
  | .govstatWrite _ _ _ => false
  | .hostPortTrain _ _ _ _ => false
  | .flitReceive _ _ => false
  | .laneLockLoss _ => false
  | .peerRequest _ _ => false
  | .remoteWake _ _ => false
  | .containmentMessage _ => false
  | .hostLinkDown _ => false
  | .cxlViralIndication _ _ => false
  | .memoryPortLinkDown _ => false
  | .controlStructureError _ => false
  | .memwinRead _ _ _ => false
  | .memwinWrite _ _ _ _ => false
  | .cfgwinWrite _ _ _ _ => false
  | .bootStep => false
  | .getVersion _ => false
  | .getCapabilities _ => false
  | .negotiateAlgorithms _ => false
  | .getDigests _ => false
  | .getCertificate _ _ _ _ => false
  | .challenge _ _ _ => false
  | .getMeasurements _ _ => false
  | .spdmUnsupported _ _ => false
  | .leasecfgWrite _ _ => false
  | .renew _ => false
  | .claim _ => false
  | .release _ => false
  | .leaseExpiry => false
  | .hostCounterAdd _ _ _ => false
  | .hostCounterRead _ _ => false
  | .rqbaseWrite _ _ => false
  | .rqentWrite _ _ => false
  | .requestNop => false
  | .requestLaunch => false
  | .requestCancel => false
  | .interruptWaiterWrite _ _ _ _ _ => false
  | .callNull _ => false
  | .callUndoStep _ => false
  | .callUndoTo _ => false
  | .callHostFwd _ => false
  | .callLog _ => false
  | .callUndefined _ => false
  | .hostFwdReply => false
  | .stage _ _ => false
  | .fwMeasureDone => false
  | .switch _ => false
  | .discard _ => false
  | .fwDrainEnd => false
  | .fwreadyWrite _ => false
  | .fwReadyTimeout => false
  | .preservingReset _ => false
  | .coldReset _ => false
  | .resetPin => false
  | .selectionPass => false
  | .softPreemptStop _ => false
  | .preemptTimeout _ => false
  | .qblockHardPreempt _ => false
  | .killStop _ => false
  | .killTimeout _ => false
  | .parkSaveComplete _ => false
  | .cwaitWake _ _ => false
  | .cwaitTimeout _ => false
  | .cwaitFullPoll _ => false
  | .hostCounterPoll _ => false
  | .waiterPoll _ => false
  | .wmarkCollectiveComplete _ => false
  | .rewind _ => false
  | .sluiceCopy _ => false
  | .sluiceAppend _ => false
  | .sluiceLineDelivered _ => false
  | .panGemv _ => false
  | .panAxpby _ => false
  | .panFill _ => false
  | .panCommandEnd _ => false
  | .recodeJobStart _ => false
  | .recodeGuardDone _ => false
  | .recodeLinesDone _ => false
  | .recodeShootDone _ => false
  | .svctlWrite _ => false
  | .sbctlWrite _ => false
  | .surveyDump _ => false
  | .surveyDumpDone _ => false
  | .freeze => false
  | .freezeSoft => false
  | .thaw => false
  | .undoStep => false
  | .undoTo => false
  | .breakpointHit _ => false
  | .keyhiWrite _ => false
  | .cgdatWrite _ => false
  | .tendatWrite _ => false
  | .peerdatWrite _ => false
  | .flappWrite _ => false
  | .cfgdatWrite _ => false
  | .zalarnLinkTrain _ _ _ _ => false
  | .xRetirement _ => false
  | .hostAtomicOp _ _ _ _ _ _ => false
  | .countedCycle _ => false
  | .surveyBufferRecord _ => false
  | .illegalOp _ => false

/-- The checks of an instruction's fields (R334, order 3, state apart). -/
def Instr.wellFormed : Instr → Bool
  | .nop => true
  | .br _ => true
  | .brcEq _ _ _ => true
  | .brcNe _ _ _ => true
  | .brcLt _ _ _ => true
  | .brcGe _ _ _ => true
  | .brcLtu _ _ _ => true
  | .brcGeu _ _ _ => true
  | .brr _ => true
  | .call _ _ => true
  | .callr _ _ => true
  | .brk _ => true
  | .exit => true
  | .step => true
  | .xstart _ => true
  | .add _ _ _ => true
  | .sub _ _ _ => true
  | .mul _ _ _ => true
  | .mulh _ _ _ => true
  | .mulhu _ _ _ => true
  | .div _ _ _ => true
  | .divu _ _ _ => true
  | .rem _ _ _ => true
  | .remu _ _ _ => true
  | .and _ _ _ => true
  | .or _ _ _ => true
  | .xor _ _ _ => true
  | .andn _ _ _ => true
  | .sll _ _ _ => true
  | .srl _ _ _ => true
  | .sra _ _ _ => true
  | .min _ _ _ => true
  | .max _ _ _ => true
  | .minu _ _ _ => true
  | .maxu _ _ _ => true
  | .slt _ _ _ => true
  | .sltu _ _ _ => true
  | .seq _ _ _ => true
  | .sel _ _ _ _ => true
  | .clz _ _ => true
  | .ctz _ _ => true
  | .popc _ _ => true
  | .addsh _ _ _ _ => true
  | .addi _ _ _ => true
  | .andi _ _ _ => true
  | .ori _ _ _ => true
  | .slli _ _ _ => true
  | .srli _ _ _ => true
  | .srai _ _ _ => true
  | .li _ _ => true
  | .lih _ _ _ => true
  | .ldB _ _ _ => true
  | .ldBu _ _ _ => true
  | .ldH _ _ _ => true
  | .ldHu _ _ _ => true
  | .ldW _ _ _ => true
  | .ldWu _ _ _ => true
  | .ldD _ _ _ => true
  | .stB _ _ _ => true
  | .stH _ _ _ => true
  | .stW _ _ _ => true
  | .stD _ _ _ => true
  | .ldl _ _ _ => true
  | .stl _ _ _ => true
  | .tagr _ _ _ => true
  | .tagw _ _ _ => true
  | .pref _ _ => true
  | .vldUnit q _ e => loadQueueOk q && widthOk e
  | .vldStrided q _ _ e => loadQueueOk q && widthOk e && byteWidthOk e
  | .vldExplicit q _ _ e => loadQueueOk q && widthOk e
  | .vldx q _ _ e _ => loadQueueOk q && widthOk e && byteWidthOk e
  | .vldffUnit q _ e => loadQueueOk q && widthOk e
  | .vldffStrided q _ _ e => loadQueueOk q && widthOk e && byteWidthOk e
  | .vstUnit q _ e => storeQueueOk q && widthOk e
  | .vstStrided q _ _ e => storeQueueOk q && widthOk e && byteWidthOk e
  | .vstx q _ e _ => storeQueueOk q && widthOk e && byteWidthOk e
  | .vldl q _ e => loadQueueOk q && widthOk e
  | .vstl q _ e => storeQueueOk q && widthOk e
  | .vspill c _ f k => decide (f.toNat + c.toNat * 4 + k.toNat ≤ 31)
  | .vfill c _ f k => decide (f.toNat + c.toNat * 4 + k.toNat ≤ 31)
  | .fenceSv s => scopeOk s
  | .fenceVs s => scopeOk s
  | .fenceVv s => scopeOk s
  | .fenceAll s => scopeOk s
  | .lsplit k => decide (k.toNat ≤ 12)
  | .qpushA q _ => loadQueueOk q
  | .qpushX q _ => storeQueueOk q
  | .qpopA q => storeQueueOk q
  | .qpopX q _ => loadQueueOk q
  | .qpopXDiscard q => loadQueueOk q
  | .qputs _ => true
  | .qgets _ => true
  | .qstatData _ _ => true
  | .qstatScalar _ _ => true
  | .vsetl _ _ _ => true
  | .vsetlKeep _ _ => true
  | .vadd _ a b _ r _ => vecSourceOk a && vecSourceOk b && repOk r
  | .vsub _ a b _ r _ => vecSourceOk a && vecSourceOk b && repOk r
  | .vmul _ a b _ r _ => vecSourceOk a && vecSourceOk b && repOk r
  | .vfma _ a b _ r _ => vecSourceOk a && vecSourceOk b && repOk r
  | .vfms _ a b _ r _ => vecSourceOk a && vecSourceOk b && repOk r
  | .vmin _ a b _ r _ => vecSourceOk a && vecSourceOk b && repOk r
  | .vmax _ a b _ r _ => vecSourceOk a && vecSourceOk b && repOk r
  | .vabs _ a _ _ => vecSourceOk a
  | .vneg _ a _ _ => vecSourceOk a
  | .vdiv _ a b _ r _ => vecSourceOk a && vecSourceOk b && repOk r
  | .vrcp _ a _ _ => vecSourceOk a
  | .vrsqrt _ a _ _ => vecSourceOk a
  | .vand _ a b _ r _ => vecSourceOk a && vecSourceOk b && repOk r
  | .vor _ a b _ r _ => vecSourceOk a && vecSourceOk b && repOk r
  | .vxor _ a b _ r _ => vecSourceOk a && vecSourceOk b && repOk r
  | .vshl _ a b _ r _ => vecSourceOk a && vecSourceOk b && repOk r
  | .vshr _ a b _ r _ => vecSourceOk a && vecSourceOk b && repOk r
  | .vsel _ a b _ r => vecSourceOk a && vecSourceOk b && repOk r
  | .vmov _ a _ _ => vecSourceOk a
  | .vsplat _ _ => true
  | .vext _ a _ => vecSourceOk a
  | .vins _ _ _ => true
  | .vredsum _ a _ => vecSourceOk a
  | .vredmax _ a _ => vecSourceOk a
  | .vredmin _ a _ => vecSourceOk a
  | .vcmpEq d a b _ r _ => maskDestOk d && vecSourceOk a && vecSourceOk b && repOk r
  | .vcmpNe d a b _ r _ => maskDestOk d && vecSourceOk a && vecSourceOk b && repOk r
  | .vcmpLt d a b _ r _ => maskDestOk d && vecSourceOk a && vecSourceOk b && repOk r
  | .vcmpLe d a b _ r _ => maskDestOk d && vecSourceOk a && vecSourceOk b && repOk r
  | .vcmpGt d a b _ r _ => maskDestOk d && vecSourceOk a && vecSourceOk b && repOk r
  | .vcmpGe d a b _ r _ => maskDestOk d && vecSourceOk a && vecSourceOk b && repOk r
  | .vcmpUn d a b _ r _ => maskDestOk d && vecSourceOk a && vecSourceOk b && repOk r
  | .vcmpOr d a b _ r _ => maskDestOk d && vecSourceOk a && vecSourceOk b && repOk r
  | .viota _ _ _ _ => true
  | .vslideup _ a _ _ _ => vecSourceOk a
  | .vslidedn _ a _ _ _ => vecSourceOk a
  | .vperm _ a b _ r _ => vecSourceOk a && vecSourceOk b && repOk r
  | .mand d _ _ => maskDestOk d
  | .mor d _ _ => maskDestOk d
  | .mxor d _ _ => maskDestOk d
  | .mandn d _ _ => maskDestOk d
  | .mnot d _ => maskDestOk d
  | .mpopc _ _ => true
  | .mfirst _ _ => true
  | .mmode w => decide (w.toNat ≤ 4)
  | .mzero _ _ _ => true
  | .opadd _ a b _ _ => vecSourceOk a && vecSourceOk b
  | .opsub _ a b _ _ => vecSourceOk a && vecSourceOk b
  | .mrd _ _ _ _ _ => true
  | .mwr _ a _ _ _ => vecSourceOk a
  | .mtr _ _ _ _ _ => true
  | .vtag _ a _ => vecSourceOk a
  | .vgtag _ _ _ => true
  | .vcvt _ a _ _ _ => vecSourceOk a
  | .vscale _ a _ _ _ => vecSourceOk a
  | .vunrot _ a => vecSourceOk a
  | .cadd _ _ o s => scopeOk s && ordRelOk o
  | .cxadd _ _ _ _ s => scopeOk s
  | .cwait _ _ _ s => scopeOk s
  | .crd _ _ o s => scopeOk s && ordAcqOk o
  | .ctst _ _ _ o s => scopeOk s && ordAcqOk o
  | .cset _ _ _ s => scopeOk s
  | .atomAdd _ _ _ _ s _ => scopeOk s
  | .atomMin _ _ _ _ s _ => scopeOk s
  | .atomMax _ _ _ _ s _ => scopeOk s
  | .atomAnd _ _ _ _ s _ => scopeOk s
  | .atomOr _ _ _ _ s _ => scopeOk s
  | .atomXor _ _ _ _ s _ => scopeOk s
  | .atomSwap _ _ _ _ s _ => scopeOk s
  | .cas _ _ _ _ s _ => scopeOk s
  | .vatom p _ _ q _ _ _ s _ => scopeOk s && decide (p.toNat ≠ 7) && loadQueueOk q
  | .vatomOi p _ _ q _ _ _ s _ => scopeOk s && decide (p.toNat ≠ 7) && loadQueueOk q
  | .sluice _ _ s => scopeOk s
  | .panc _ s => scopeOk s
  | .rcode _ s => scopeOk s
  | .launch _ _ => true
  | .cancel _ _ => true
  | .strip _ => true
  | .csrr _ c => csrDefined c
  | .csrw _ _ c => csrDefined c
  | .csrs _ _ c => csrDefined c
  | .csrc _ _ c => csrDefined c
  | .csrwi _ _ c => csrDefined c
  | .eret => true
  | .scall _ _ _ => true
  | .scallNb _ _ _ => true
  | .wmark _ => true
  | .tlbiVa _ _ _ => true
  | .tlbiAsid _ _ => true
  | .tlbiAll _ => true
  | .bkpt => true
  | .ptset _ _ _ => true
  | .ptget _ _ => true
  | .sdrain => true
  | .xAdmission h => h.ok
  | .vectorLoadArrival h => h.ok
  | .storeResolve h => h.ok
  | .walkComplete tower core _ _ => decide (tower < 8) && decide (core < 65)
  | .tlbiCompletionAdd => true
  | .homeRequest _ tower core _ _ => decide (tower < 8) && decide (core < 65)
  | .l2Eviction _ => true
  | .snoopFilterEviction _ => true
  | .counterCacheEviction tower slot => decide (tower < 8) && decide (slot < 2 ^ 20)
  | .hostSnoop _ => true
  | .leaveGrant tower => decide (tower < 8)
  | .dutyUpdate tower => decide (tower < 8)
  | .thermalStep tower _ => decide (tower < 8)
  | .thermalCritical tower _ => decide (tower < 8)
  | .pwrcapWrite _ _ => true
  | .govstatWrite _ tower _ => decide (tower < 8)
  | .hostPortTrain _ _ _ _ => true
  | .flitReceive link _ => decide (link < 18)
  | .laneLockLoss link => decide (link < 18)
  | .peerRequest _ _ => true
  | .remoteWake _ _ => true
  | .containmentMessage _ => true
  | .hostLinkDown _ => true
  | .cxlViralIndication _ port => decide (port < 8)
  | .memoryPortLinkDown port => decide (port < 8)
  | .controlStructureError tower => decide (tower < 8)
  | .memwinRead _ _ _ => true
  | .memwinWrite _ _ _ _ => true
  | .cfgwinWrite _ _ _ _ => true
  | .bootStep => true
  | .getVersion _ => true
  | .getCapabilities _ => true
  | .negotiateAlgorithms _ => true
  | .getDigests _ => true
  | .getCertificate _ _ _ _ => true
  | .challenge _ _ _ => true
  | .getMeasurements _ _ => true
  | .spdmUnsupported _ _ => true
  | .leasecfgWrite _ _ => true
  | .renew _ => true
  | .claim _ => true
  | .release _ => true
  | .leaseExpiry => true
  | .hostCounterAdd _ slot _ => decide (slot < 1024)
  | .hostCounterRead _ slot => decide (slot < 1024)
  | .rqbaseWrite _ _ => true
  | .rqentWrite _ _ => true
  | .requestNop => true
  | .requestLaunch => true
  | .requestCancel => true
  | .interruptWaiterWrite _ index _ _ _ => decide (index < 2048)
  | .callNull tower => decide (tower < 8)
  | .callUndoStep tower => decide (tower < 8)
  | .callUndoTo tower => decide (tower < 8)
  | .callHostFwd tower => decide (tower < 8)
  | .callLog tower => decide (tower < 8)
  | .callUndefined tower => decide (tower < 8)
  | .hostFwdReply => true
  | .stage _ _ => true
  | .fwMeasureDone => true
  | .switch _ => true
  | .discard _ => true
  | .fwDrainEnd => true
  | .fwreadyWrite _ => true
  | .fwReadyTimeout => true
  | .preservingReset _ => true
  | .coldReset _ => true
  | .resetPin => true
  | .selectionPass => true
  | .softPreemptStop h => h.ok
  | .preemptTimeout h => h.ok
  | .qblockHardPreempt h => h.ok
  | .killStop h => h.ok
  | .killTimeout h => h.ok
  | .parkSaveComplete h => h.ok
  | .cwaitWake h _ => h.ok
  | .cwaitTimeout h => h.ok
  | .cwaitFullPoll h => h.ok
  | .hostCounterPoll h => h.ok
  | .waiterPoll _ => true
  | .wmarkCollectiveComplete lix => decide (lix < 4096)
  | .rewind lix => decide (lix < 4096)
  | .sluiceCopy _ => true
  | .sluiceAppend _ => true
  | .sluiceLineDelivered _ => true
  | .panGemv _ => true
  | .panAxpby _ => true
  | .panFill _ => true
  | .panCommandEnd _ => true
  | .recodeJobStart tower => decide (tower < 8)
  | .recodeGuardDone tower => decide (tower < 8)
  | .recodeLinesDone tower => decide (tower < 8)
  | .recodeShootDone tower => decide (tower < 8)
  | .svctlWrite _ => true
  | .sbctlWrite _ => true
  | .surveyDump tower => decide (tower < 8)
  | .surveyDumpDone tower => decide (tower < 8)
  | .freeze => true
  | .freezeSoft => true
  | .thaw => true
  | .undoStep => true
  | .undoTo => true
  | .breakpointHit entry => decide (entry < 8)
  | .keyhiWrite _ => true
  | .cgdatWrite _ => true
  | .tendatWrite _ => true
  | .peerdatWrite _ => true
  | .flappWrite _ => true
  | .cfgdatWrite _ => true
  | .zalarnLinkTrain link _ _ _ => decide (link < 18)
  | .xRetirement h => h.ok
  | .hostAtomicOp _ _ _ _ _ _ => true
  | .countedCycle h => h.ok
  | .surveyBufferRecord tower => decide (tower < 8)
  | .illegalOp _ => true

end Sys2Proof
end

