-- ==== Sys2Proof/Decode.lean ====
section
/-! DEFINITION. Decode.lean: from a word to an instruction or a named refusal, and back (R325 to R334). A word's fields
are read as numbers, [hi:lo] of the word being (w / 2^lo) mod 2^(hi - lo + 1) (R3). -/

namespace Sys2Proof

/-- Bits [lo + len - 1 : lo] of a word (R3). -/
def wordBits (n lo len : Nat) : Nat := n / 2 ^ lo % 2 ^ len

/-- The same bits as a field of that width. -/
def wordField (n lo len : Nat) : BitVec len := BitVec.ofNat len (n / 2 ^ lo)

/-- Why a word is no instruction (R334, orders 1 and 3). -/
inductive Reject where
  /-- The word 0x0000_0000. -/
  | zeroWord
  /-- An OP of the 80 unassigned ones. -/
  | unassigned (op : Nat)
  /-- OP 0xFE or 0xFF met as a body word (R113). -/
  | blockWord (op : Nat)
  /-- A must-be-zero field is nonzero, or a function, MODE or operand field holds a reserved value. -/
  | reservedField (op : Nat)
deriving DecidableEq, Repr


/-- Opcodes 0x00 to 0x0F (R332, R333); `n` is the word. -/
def decodeRow0 (n : Nat) : Except Reject Instr :=
  match wordBits n 24 4 with
  | 1 =>
    if wordBits n 0 24 == 0 then .ok .nop
    else .error (.reservedField 1)
  | 2 =>
    if wordBits n 18 6 == 0 then .ok (.br (wordField n 0 18))
    else .error (.reservedField 2)
  | 3 =>
    .ok (.brcEq (wordField n 18 6) (wordField n 12 6) (wordField n 0 12))
  | 4 =>
    .ok (.brcNe (wordField n 18 6) (wordField n 12 6) (wordField n 0 12))
  | 5 =>
    .ok (.brcLt (wordField n 18 6) (wordField n 12 6) (wordField n 0 12))
  | 6 =>
    .ok (.brcGe (wordField n 18 6) (wordField n 12 6) (wordField n 0 12))
  | 7 =>
    .ok (.brcLtu (wordField n 18 6) (wordField n 12 6) (wordField n 0 12))
  | 8 =>
    .ok (.brcGeu (wordField n 18 6) (wordField n 12 6) (wordField n 0 12))
  | 9 =>
    if wordBits n 0 12 == 0 && wordBits n 18 6 == 0 then .ok (.brr (wordField n 12 6))
    else .error (.reservedField 9)
  | 10 =>
    .ok (.call (wordField n 18 6) (wordField n 0 18))
  | 11 =>
    if wordBits n 0 12 == 0 then .ok (.callr (wordField n 18 6) (wordField n 12 6))
    else .error (.reservedField 11)
  | 12 =>
    if wordBits n 18 6 == 0 then .ok (.brk (wordField n 0 18))
    else .error (.reservedField 12)
  | 13 =>
    if wordBits n 0 24 == 0 then .ok .exit
    else .error (.reservedField 13)
  | 14 =>
    if wordBits n 0 24 == 0 then .ok .step
    else .error (.reservedField 14)
  | 15 =>
    if wordBits n 18 6 == 0 then .ok (.xstart (wordField n 0 18))
    else .error (.reservedField 15)
  | k => .error (.unassigned (0 + k))

/-- Opcodes 0x10 to 0x1F (R332, R333); `n` is the word. -/
def decodeRow1 (n : Nat) : Except Reject Instr :=
  match wordBits n 24 4 with
  | 0 =>
    if wordBits n 0 6 == 0 then .ok (.add (wordField n 18 6) (wordField n 12 6) (wordField n 6 6))
    else .error (.reservedField 16)
  | 1 =>
    if wordBits n 0 6 == 0 then .ok (.sub (wordField n 18 6) (wordField n 12 6) (wordField n 6 6))
    else .error (.reservedField 17)
  | 2 =>
    if wordBits n 0 6 == 0 then .ok (.mul (wordField n 18 6) (wordField n 12 6) (wordField n 6 6))
    else .error (.reservedField 18)
  | 3 =>
    if wordBits n 0 6 == 0 then .ok (.mulh (wordField n 18 6) (wordField n 12 6) (wordField n 6 6))
    else .error (.reservedField 19)
  | 4 =>
    if wordBits n 0 6 == 0 then .ok (.mulhu (wordField n 18 6) (wordField n 12 6) (wordField n 6 6))
    else .error (.reservedField 20)
  | 5 =>
    if wordBits n 0 6 == 0 then .ok (.div (wordField n 18 6) (wordField n 12 6) (wordField n 6 6))
    else .error (.reservedField 21)
  | 6 =>
    if wordBits n 0 6 == 0 then .ok (.divu (wordField n 18 6) (wordField n 12 6) (wordField n 6 6))
    else .error (.reservedField 22)
  | 7 =>
    if wordBits n 0 6 == 0 then .ok (.rem (wordField n 18 6) (wordField n 12 6) (wordField n 6 6))
    else .error (.reservedField 23)
  | 8 =>
    if wordBits n 0 6 == 0 then .ok (.remu (wordField n 18 6) (wordField n 12 6) (wordField n 6 6))
    else .error (.reservedField 24)
  | 9 =>
    if wordBits n 0 6 == 0 then .ok (.and (wordField n 18 6) (wordField n 12 6) (wordField n 6 6))
    else .error (.reservedField 25)
  | 10 =>
    if wordBits n 0 6 == 0 then .ok (.or (wordField n 18 6) (wordField n 12 6) (wordField n 6 6))
    else .error (.reservedField 26)
  | 11 =>
    if wordBits n 0 6 == 0 then .ok (.xor (wordField n 18 6) (wordField n 12 6) (wordField n 6 6))
    else .error (.reservedField 27)
  | 12 =>
    if wordBits n 0 6 == 0 then .ok (.andn (wordField n 18 6) (wordField n 12 6) (wordField n 6 6))
    else .error (.reservedField 28)
  | 13 =>
    if wordBits n 0 6 == 0 then .ok (.sll (wordField n 18 6) (wordField n 12 6) (wordField n 6 6))
    else .error (.reservedField 29)
  | 14 =>
    if wordBits n 0 6 == 0 then .ok (.srl (wordField n 18 6) (wordField n 12 6) (wordField n 6 6))
    else .error (.reservedField 30)
  | 15 =>
    if wordBits n 0 6 == 0 then .ok (.sra (wordField n 18 6) (wordField n 12 6) (wordField n 6 6))
    else .error (.reservedField 31)
  | k => .error (.unassigned (16 + k))

/-- Opcodes 0x20 to 0x2F (R332, R333); `n` is the word. -/
def decodeRow2 (n : Nat) : Except Reject Instr :=
  match wordBits n 24 4 with
  | 0 =>
    if wordBits n 0 6 == 0 then .ok (.min (wordField n 18 6) (wordField n 12 6) (wordField n 6 6))
    else .error (.reservedField 32)
  | 1 =>
    if wordBits n 0 6 == 0 then .ok (.max (wordField n 18 6) (wordField n 12 6) (wordField n 6 6))
    else .error (.reservedField 33)
  | 2 =>
    if wordBits n 0 6 == 0 then .ok (.minu (wordField n 18 6) (wordField n 12 6) (wordField n 6 6))
    else .error (.reservedField 34)
  | 3 =>
    if wordBits n 0 6 == 0 then .ok (.maxu (wordField n 18 6) (wordField n 12 6) (wordField n 6 6))
    else .error (.reservedField 35)
  | 4 =>
    if wordBits n 0 6 == 0 then .ok (.slt (wordField n 18 6) (wordField n 12 6) (wordField n 6 6))
    else .error (.reservedField 36)
  | 5 =>
    if wordBits n 0 6 == 0 then .ok (.sltu (wordField n 18 6) (wordField n 12 6) (wordField n 6 6))
    else .error (.reservedField 37)
  | 6 =>
    if wordBits n 0 6 == 0 then .ok (.seq (wordField n 18 6) (wordField n 12 6) (wordField n 6 6))
    else .error (.reservedField 38)
  | 7 =>
    .ok (.sel (wordField n 18 6) (wordField n 12 6) (wordField n 6 6) (wordField n 0 6))
  | 8 =>
    if wordBits n 0 12 == 0 then .ok (.clz (wordField n 18 6) (wordField n 12 6))
    else if wordBits n 0 12 == 1 then .ok (.ctz (wordField n 18 6) (wordField n 12 6))
    else if wordBits n 0 12 == 2 then .ok (.popc (wordField n 18 6) (wordField n 12 6))
    else .error (.reservedField 40)
  | 9 =>
    .ok (.addsh (wordField n 18 6) (wordField n 12 6) (wordField n 6 6) (wordField n 0 6))
  | 10 =>
    .ok (.addi (wordField n 18 6) (wordField n 12 6) (wordField n 0 12))
  | 11 =>
    .ok (.andi (wordField n 18 6) (wordField n 12 6) (wordField n 0 12))
  | 12 =>
    .ok (.ori (wordField n 18 6) (wordField n 12 6) (wordField n 0 12))
  | 13 =>
    if wordBits n 6 6 == 0 then .ok (.slli (wordField n 18 6) (wordField n 12 6) (wordField n 0 6))
    else if wordBits n 6 6 == 1 then .ok (.srli (wordField n 18 6) (wordField n 12 6) (wordField n 0 6))
    else if wordBits n 6 6 == 2 then .ok (.srai (wordField n 18 6) (wordField n 12 6) (wordField n 0 6))
    else .error (.reservedField 45)
  | 14 =>
    .ok (.li (wordField n 18 6) (wordField n 0 18))
  | 15 =>
    .ok (.lih (wordField n 18 6) (wordField n 16 2) (wordField n 0 16))
  | k => .error (.unassigned (32 + k))

/-- Opcodes 0x30 to 0x3F (R332, R333); `n` is the word. -/
def decodeRow3 (n : Nat) : Except Reject Instr :=
  match wordBits n 24 4 with
  | 0 =>
    .ok (.ldB (wordField n 18 6) (wordField n 12 6) (wordField n 0 12))
  | 1 =>
    .ok (.ldBu (wordField n 18 6) (wordField n 12 6) (wordField n 0 12))
  | 2 =>
    .ok (.ldH (wordField n 18 6) (wordField n 12 6) (wordField n 0 12))
  | 3 =>
    .ok (.ldHu (wordField n 18 6) (wordField n 12 6) (wordField n 0 12))
  | 4 =>
    .ok (.ldW (wordField n 18 6) (wordField n 12 6) (wordField n 0 12))
  | 5 =>
    .ok (.ldWu (wordField n 18 6) (wordField n 12 6) (wordField n 0 12))
  | 6 =>
    .ok (.ldD (wordField n 18 6) (wordField n 12 6) (wordField n 0 12))
  | 7 =>
    .ok (.stB (wordField n 18 6) (wordField n 12 6) (wordField n 0 12))
  | 8 =>
    .ok (.stH (wordField n 18 6) (wordField n 12 6) (wordField n 0 12))
  | 9 =>
    .ok (.stW (wordField n 18 6) (wordField n 12 6) (wordField n 0 12))
  | 10 =>
    .ok (.stD (wordField n 18 6) (wordField n 12 6) (wordField n 0 12))
  | 11 =>
    .ok (.ldl (wordField n 18 6) (wordField n 12 6) (wordField n 0 12))
  | 12 =>
    .ok (.stl (wordField n 18 6) (wordField n 12 6) (wordField n 0 12))
  | 13 =>
    .ok (.tagr (wordField n 18 6) (wordField n 12 6) (wordField n 0 12))
  | 14 =>
    .ok (.tagw (wordField n 18 6) (wordField n 12 6) (wordField n 0 12))
  | 15 =>
    if wordBits n 18 6 == 0 then .ok (.pref (wordField n 12 6) (wordField n 0 12))
    else .error (.reservedField 63)
  | k => .error (.unassigned (48 + k))

/-- Opcodes 0x40 to 0x4F (R332, R333); `n` is the word. -/
def decodeRow4 (n : Nat) : Except Reject Instr :=
  match wordBits n 24 4 with
  | 0 =>
    if wordBits n 0 6 == 0 && wordBits n 9 6 == 0 then .ok (.vldUnit (wordField n 21 3) (wordField n 15 6) (wordField n 6 3))
    else if wordBits n 0 6 == 4 then .ok (.vldStrided (wordField n 21 3) (wordField n 15 6) (wordField n 9 6) (wordField n 6 3))
    else if wordBits n 0 6 == 8 && wordBits n 14 1 == 0 then .ok (.vldExplicit (wordField n 21 3) (wordField n 15 6) (wordField n 9 5) (wordField n 6 3))
    else .error (.reservedField 64)
  | 1 =>
    if wordBits n 0 2 == 0 && wordBits n 5 1 == 0 && wordBits n 10 5 == 0 then .ok (.vldx (wordField n 21 3) (wordField n 15 6) (wordField n 9 1) (wordField n 6 3) (wordField n 2 3))
    else .error (.reservedField 65)
  | 2 =>
    if wordBits n 0 6 == 0 && wordBits n 9 6 == 0 then .ok (.vldffUnit (wordField n 21 3) (wordField n 15 6) (wordField n 6 3))
    else if wordBits n 0 6 == 4 then .ok (.vldffStrided (wordField n 21 3) (wordField n 15 6) (wordField n 9 6) (wordField n 6 3))
    else .error (.reservedField 66)
  | 3 =>
    if wordBits n 0 6 == 0 && wordBits n 9 6 == 0 then .ok (.vstUnit (wordField n 21 3) (wordField n 15 6) (wordField n 6 3))
    else if wordBits n 0 6 == 4 then .ok (.vstStrided (wordField n 21 3) (wordField n 15 6) (wordField n 9 6) (wordField n 6 3))
    else .error (.reservedField 67)
  | 4 =>
    if wordBits n 0 2 == 0 && wordBits n 5 1 == 0 && wordBits n 9 6 == 0 then .ok (.vstx (wordField n 21 3) (wordField n 15 6) (wordField n 6 3) (wordField n 2 3))
    else .error (.reservedField 68)
  | 5 =>
    if wordBits n 0 6 == 0 && wordBits n 9 6 == 0 then .ok (.vldl (wordField n 21 3) (wordField n 15 6) (wordField n 6 3))
    else .error (.reservedField 69)
  | 6 =>
    if wordBits n 0 6 == 0 && wordBits n 9 6 == 0 then .ok (.vstl (wordField n 21 3) (wordField n 15 6) (wordField n 6 3))
    else .error (.reservedField 70)
  | 7 =>
    if wordBits n 0 2 == 0 && wordBits n 4 5 == 0 && wordBits n 14 1 == 0 then .ok (.vspill (wordField n 21 3) (wordField n 15 6) (wordField n 9 5) (wordField n 2 2))
    else .error (.reservedField 71)
  | 8 =>
    if wordBits n 0 2 == 0 && wordBits n 4 5 == 0 && wordBits n 14 1 == 0 then .ok (.vfill (wordField n 21 3) (wordField n 15 6) (wordField n 9 5) (wordField n 2 2))
    else .error (.reservedField 72)
  | 9 =>
    if wordBits n 0 1 == 0 && wordBits n 4 20 == 0 then .ok (.fenceSv (wordField n 1 3))
    else if wordBits n 0 1 == 0 && wordBits n 4 20 == 1 then .ok (.fenceVs (wordField n 1 3))
    else if wordBits n 0 1 == 0 && wordBits n 4 20 == 2 then .ok (.fenceVv (wordField n 1 3))
    else if wordBits n 0 1 == 0 && wordBits n 4 20 == 3 then .ok (.fenceAll (wordField n 1 3))
    else .error (.reservedField 73)
  | 10 =>
    if wordBits n 4 20 == 0 then .ok (.lsplit (wordField n 0 4))
    else .error (.reservedField 74)
  | 11 =>
    if wordBits n 0 15 == 0 && loadQueueOk (wordField n 21 3) then .ok (.qpushA (wordField n 21 3) (wordField n 15 6))
    else if wordBits n 0 9 == 0 && wordBits n 14 7 == 0 && storeQueueOk (wordField n 21 3) then .ok (.qpushX (wordField n 21 3) (wordField n 9 5))
    else .error (.reservedField 75)
  | 12 =>
    if wordBits n 0 21 == 0 && storeQueueOk (wordField n 21 3) then .ok (.qpopA (wordField n 21 3))
    else if wordBits n 0 9 == 0 && wordBits n 14 7 == 0 && loadQueueOk (wordField n 21 3) then .ok (.qpopX (wordField n 21 3) (wordField n 9 5))
    else if wordBits n 0 21 == 16384 && loadQueueOk (wordField n 21 3) then .ok (.qpopXDiscard (wordField n 21 3))
    else .error (.reservedField 76)
  | 13 =>
    if wordBits n 0 15 == 0 && wordBits n 21 3 == 0 then .ok (.qputs (wordField n 15 6))
    else .error (.reservedField 77)
  | 14 =>
    if wordBits n 0 9 == 0 && wordBits n 15 9 == 0 then .ok (.qgets (wordField n 9 6))
    else .error (.reservedField 78)
  | 15 =>
    if wordBits n 0 9 == 0 && wordBits n 15 6 == 0 then .ok (.qstatData (wordField n 21 3) (wordField n 9 6))
    else if wordBits n 0 9 == 4 && wordBits n 15 6 == 0 && wordBits n 22 2 == 0 then .ok (.qstatScalar (wordField n 21 1) (wordField n 9 6))
    else .error (.reservedField 79)
  | k => .error (.unassigned (64 + k))

/-- Opcodes 0x50 to 0x5F (R332, R333); `n` is the word. -/
def decodeRow5 (n : Nat) : Except Reject Instr :=
  match wordBits n 24 4 with
  | 0 =>
    if wordBits n 0 7 == 0 && wordBits n 12 1 == 0 then .ok (.vsetl (wordField n 19 5) (wordField n 13 6) (wordField n 7 5))
    else if wordBits n 0 13 == 4096 then .ok (.vsetlKeep (wordField n 19 5) (wordField n 13 6))
    else .error (.reservedField 80)
  | 1 =>
    .ok (.vadd (wordField n 19 5) (wordField n 13 6) (wordField n 7 6) (wordField n 4 3) (wordField n 1 3) (wordField n 0 1))
  | 2 =>
    .ok (.vsub (wordField n 19 5) (wordField n 13 6) (wordField n 7 6) (wordField n 4 3) (wordField n 1 3) (wordField n 0 1))
  | 3 =>
    .ok (.vmul (wordField n 19 5) (wordField n 13 6) (wordField n 7 6) (wordField n 4 3) (wordField n 1 3) (wordField n 0 1))
  | 4 =>
    .ok (.vfma (wordField n 19 5) (wordField n 13 6) (wordField n 7 6) (wordField n 4 3) (wordField n 1 3) (wordField n 0 1))
  | 5 =>
    .ok (.vfms (wordField n 19 5) (wordField n 13 6) (wordField n 7 6) (wordField n 4 3) (wordField n 1 3) (wordField n 0 1))
  | 6 =>
    .ok (.vmin (wordField n 19 5) (wordField n 13 6) (wordField n 7 6) (wordField n 4 3) (wordField n 1 3) (wordField n 0 1))
  | 7 =>
    .ok (.vmax (wordField n 19 5) (wordField n 13 6) (wordField n 7 6) (wordField n 4 3) (wordField n 1 3) (wordField n 0 1))
  | 8 =>
    if wordBits n 1 3 == 0 && wordBits n 7 6 == 0 then .ok (.vabs (wordField n 19 5) (wordField n 13 6) (wordField n 4 3) (wordField n 0 1))
    else .error (.reservedField 88)
  | 9 =>
    if wordBits n 1 3 == 0 && wordBits n 7 6 == 0 then .ok (.vneg (wordField n 19 5) (wordField n 13 6) (wordField n 4 3) (wordField n 0 1))
    else .error (.reservedField 89)
  | 10 =>
    .ok (.vdiv (wordField n 19 5) (wordField n 13 6) (wordField n 7 6) (wordField n 4 3) (wordField n 1 3) (wordField n 0 1))
  | 11 =>
    if wordBits n 1 3 == 0 && wordBits n 7 6 == 0 then .ok (.vrcp (wordField n 19 5) (wordField n 13 6) (wordField n 4 3) (wordField n 0 1))
    else .error (.reservedField 91)
  | 12 =>
    if wordBits n 1 3 == 0 && wordBits n 7 6 == 0 then .ok (.vrsqrt (wordField n 19 5) (wordField n 13 6) (wordField n 4 3) (wordField n 0 1))
    else .error (.reservedField 92)
  | 13 =>
    .ok (.vand (wordField n 19 5) (wordField n 13 6) (wordField n 7 6) (wordField n 4 3) (wordField n 1 3) (wordField n 0 1))
  | 14 =>
    .ok (.vor (wordField n 19 5) (wordField n 13 6) (wordField n 7 6) (wordField n 4 3) (wordField n 1 3) (wordField n 0 1))
  | 15 =>
    .ok (.vxor (wordField n 19 5) (wordField n 13 6) (wordField n 7 6) (wordField n 4 3) (wordField n 1 3) (wordField n 0 1))
  | k => .error (.unassigned (80 + k))

/-- Opcodes 0x60 to 0x6F (R332, R333); `n` is the word. -/
def decodeRow6 (n : Nat) : Except Reject Instr :=
  match wordBits n 24 4 with
  | 0 =>
    .ok (.vshl (wordField n 19 5) (wordField n 13 6) (wordField n 7 6) (wordField n 4 3) (wordField n 1 3) (wordField n 0 1))
  | 1 =>
    .ok (.vshr (wordField n 19 5) (wordField n 13 6) (wordField n 7 6) (wordField n 4 3) (wordField n 1 3) (wordField n 0 1))
  | 2 =>
    if wordBits n 0 1 == 0 then .ok (.vsel (wordField n 19 5) (wordField n 13 6) (wordField n 7 6) (wordField n 4 3) (wordField n 1 3))
    else .error (.reservedField 98)
  | 3 =>
    if wordBits n 1 3 == 0 && wordBits n 7 6 == 0 then .ok (.vmov (wordField n 19 5) (wordField n 13 6) (wordField n 4 3) (wordField n 0 1))
    else .error (.reservedField 99)
  | 4 =>
    if wordBits n 0 13 == 0 then .ok (.vsplat (wordField n 19 5) (wordField n 13 6))
    else .error (.reservedField 100)
  | 5 =>
    if wordBits n 0 7 == 0 then .ok (.vext (wordField n 19 5) (wordField n 13 6) (wordField n 7 6))
    else .error (.reservedField 101)
  | 6 =>
    if wordBits n 0 7 == 0 then .ok (.vins (wordField n 19 5) (wordField n 13 6) (wordField n 7 6))
    else .error (.reservedField 102)
  | 7 =>
    if wordBits n 0 4 == 0 && wordBits n 7 6 == 0 then .ok (.vredsum (wordField n 19 5) (wordField n 13 6) (wordField n 4 3))
    else .error (.reservedField 103)
  | 8 =>
    if wordBits n 0 4 == 0 && wordBits n 7 6 == 0 then .ok (.vredmax (wordField n 19 5) (wordField n 13 6) (wordField n 4 3))
    else .error (.reservedField 104)
  | 9 =>
    if wordBits n 0 4 == 0 && wordBits n 7 6 == 0 then .ok (.vredmin (wordField n 19 5) (wordField n 13 6) (wordField n 4 3))
    else .error (.reservedField 105)
  | 10 =>
    if wordBits n 22 2 == 0 then .ok (.vcmpEq (wordField n 19 3) (wordField n 13 6) (wordField n 7 6) (wordField n 4 3) (wordField n 1 3) (wordField n 0 1))
    else .error (.reservedField 106)
  | 11 =>
    if wordBits n 22 2 == 0 then .ok (.vcmpNe (wordField n 19 3) (wordField n 13 6) (wordField n 7 6) (wordField n 4 3) (wordField n 1 3) (wordField n 0 1))
    else .error (.reservedField 107)
  | 12 =>
    if wordBits n 22 2 == 0 then .ok (.vcmpLt (wordField n 19 3) (wordField n 13 6) (wordField n 7 6) (wordField n 4 3) (wordField n 1 3) (wordField n 0 1))
    else .error (.reservedField 108)
  | 13 =>
    if wordBits n 22 2 == 0 then .ok (.vcmpLe (wordField n 19 3) (wordField n 13 6) (wordField n 7 6) (wordField n 4 3) (wordField n 1 3) (wordField n 0 1))
    else .error (.reservedField 109)
  | 14 =>
    if wordBits n 22 2 == 0 then .ok (.vcmpGt (wordField n 19 3) (wordField n 13 6) (wordField n 7 6) (wordField n 4 3) (wordField n 1 3) (wordField n 0 1))
    else .error (.reservedField 110)
  | 15 =>
    if wordBits n 22 2 == 0 then .ok (.vcmpGe (wordField n 19 3) (wordField n 13 6) (wordField n 7 6) (wordField n 4 3) (wordField n 1 3) (wordField n 0 1))
    else .error (.reservedField 111)
  | k => .error (.unassigned (96 + k))

/-- Opcodes 0x70 to 0x7F (R332, R333); `n` is the word. -/
def decodeRow7 (n : Nat) : Except Reject Instr :=
  match wordBits n 24 4 with
  | 0 =>
    if wordBits n 22 2 == 0 then .ok (.vcmpUn (wordField n 19 3) (wordField n 13 6) (wordField n 7 6) (wordField n 4 3) (wordField n 1 3) (wordField n 0 1))
    else .error (.reservedField 112)
  | 1 =>
    if wordBits n 22 2 == 0 then .ok (.vcmpOr (wordField n 19 3) (wordField n 13 6) (wordField n 7 6) (wordField n 4 3) (wordField n 1 3) (wordField n 0 1))
    else .error (.reservedField 113)
  | k => .error (.unassigned (112 + k))

/-- Opcodes 0x90 to 0x9F (R332, R333); `n` is the word. -/
def decodeRow9 (n : Nat) : Except Reject Instr :=
  match wordBits n 24 4 with
  | 0 =>
    if wordBits n 1 3 == 0 && wordBits n 7 6 == 0 && wordBits n 16 3 == 0 then .ok (.viota (wordField n 19 5) (wordField n 13 3) (wordField n 4 3) (wordField n 0 1))
    else .error (.reservedField 144)
  | 1 =>
    if wordBits n 1 3 == 0 then .ok (.vslideup (wordField n 19 5) (wordField n 13 6) (wordField n 7 6) (wordField n 4 3) (wordField n 0 1))
    else .error (.reservedField 145)
  | 2 =>
    if wordBits n 1 3 == 0 then .ok (.vslidedn (wordField n 19 5) (wordField n 13 6) (wordField n 7 6) (wordField n 4 3) (wordField n 0 1))
    else .error (.reservedField 146)
  | 3 =>
    .ok (.vperm (wordField n 19 5) (wordField n 13 6) (wordField n 7 6) (wordField n 4 3) (wordField n 1 3) (wordField n 0 1))
  | 4 =>
    if wordBits n 0 7 == 0 && wordBits n 10 3 == 0 && wordBits n 16 3 == 0 && wordBits n 22 2 == 0 then .ok (.mand (wordField n 19 3) (wordField n 13 3) (wordField n 7 3))
    else .error (.reservedField 148)
  | 5 =>
    if wordBits n 0 7 == 0 && wordBits n 10 3 == 0 && wordBits n 16 3 == 0 && wordBits n 22 2 == 0 then .ok (.mor (wordField n 19 3) (wordField n 13 3) (wordField n 7 3))
    else .error (.reservedField 149)
  | 6 =>
    if wordBits n 0 7 == 0 && wordBits n 10 3 == 0 && wordBits n 16 3 == 0 && wordBits n 22 2 == 0 then .ok (.mxor (wordField n 19 3) (wordField n 13 3) (wordField n 7 3))
    else .error (.reservedField 150)
  | 7 =>
    if wordBits n 0 7 == 0 && wordBits n 10 3 == 0 && wordBits n 16 3 == 0 && wordBits n 22 2 == 0 then .ok (.mandn (wordField n 19 3) (wordField n 13 3) (wordField n 7 3))
    else .error (.reservedField 151)
  | 8 =>
    if wordBits n 0 13 == 0 && wordBits n 16 3 == 0 && wordBits n 22 2 == 0 then .ok (.mnot (wordField n 19 3) (wordField n 13 3))
    else .error (.reservedField 152)
  | 9 =>
    if wordBits n 0 13 == 0 && wordBits n 16 3 == 0 then .ok (.mpopc (wordField n 19 5) (wordField n 13 3))
    else .error (.reservedField 153)
  | 10 =>
    if wordBits n 0 13 == 0 && wordBits n 16 3 == 0 then .ok (.mfirst (wordField n 19 5) (wordField n 13 3))
    else .error (.reservedField 154)
  | k => .error (.unassigned (144 + k))

/-- Opcodes 0xA0 to 0xAF (R332, R333); `n` is the word. -/
def decodeRowA (n : Nat) : Except Reject Instr :=
  match wordBits n 24 4 with
  | 0 =>
    if wordBits n 0 7 == 0 && wordBits n 10 14 == 0 then .ok (.mmode (wordField n 7 3))
    else .error (.reservedField 160)
  | 1 =>
    if wordBits n 0 4 == 0 && wordBits n 10 12 == 0 then .ok (.mzero (wordField n 22 2) (wordField n 7 3) (wordField n 4 3))
    else .error (.reservedField 161)
  | 2 =>
    if wordBits n 0 4 == 0 then .ok (.opadd (wordField n 22 2) (wordField n 16 6) (wordField n 10 6) (wordField n 7 3) (wordField n 4 3))
    else .error (.reservedField 162)
  | 3 =>
    if wordBits n 0 4 == 0 then .ok (.opsub (wordField n 22 2) (wordField n 16 6) (wordField n 10 6) (wordField n 7 3) (wordField n 4 3))
    else .error (.reservedField 163)
  | 4 =>
    if wordBits n 0 3 == 0 && wordBits n 7 3 == 0 && wordBits n 21 1 == 0 then .ok (.mrd (wordField n 22 2) (wordField n 16 5) (wordField n 10 6) (wordField n 4 3) (wordField n 3 1))
    else .error (.reservedField 164)
  | 5 =>
    if wordBits n 0 3 == 0 && wordBits n 7 3 == 0 then .ok (.mwr (wordField n 22 2) (wordField n 16 6) (wordField n 10 6) (wordField n 4 3) (wordField n 3 1))
    else .error (.reservedField 165)
  | 6 =>
    if wordBits n 0 3 == 0 && wordBits n 7 3 == 0 && wordBits n 21 1 == 0 then .ok (.mtr (wordField n 22 2) (wordField n 16 5) (wordField n 10 6) (wordField n 4 3) (wordField n 3 1))
    else .error (.reservedField 166)
  | k => .error (.unassigned (160 + k))

/-- Opcodes 0xB0 to 0xBF (R332, R333); `n` is the word. -/
def decodeRowB (n : Nat) : Except Reject Instr :=
  match wordBits n 24 4 with
  | 0 =>
    if wordBits n 0 7 == 0 then .ok (.vtag (wordField n 19 5) (wordField n 13 6) (wordField n 7 6))
    else .error (.reservedField 176)
  | 1 =>
    if wordBits n 0 7 == 0 && wordBits n 18 1 == 0 then .ok (.vgtag (wordField n 19 5) (wordField n 13 5) (wordField n 7 6))
    else .error (.reservedField 177)
  | 2 =>
    if wordBits n 1 3 == 0 && wordBits n 12 1 == 0 then .ok (.vcvt (wordField n 19 5) (wordField n 13 6) (wordField n 7 5) (wordField n 4 3) (wordField n 0 1))
    else .error (.reservedField 178)
  | 3 =>
    if wordBits n 1 3 == 0 then .ok (.vscale (wordField n 19 5) (wordField n 13 6) (wordField n 7 6) (wordField n 4 3) (wordField n 0 1))
    else .error (.reservedField 179)
  | 4 =>
    if wordBits n 0 13 == 0 then .ok (.vunrot (wordField n 19 5) (wordField n 13 6))
    else .error (.reservedField 180)
  | k => .error (.unassigned (176 + k))

/-- Opcodes 0xC0 to 0xCF (R332, R333); `n` is the word. -/
def decodeRowC (n : Nat) : Except Reject Instr :=
  match wordBits n 24 4 with
  | 0 =>
    if wordBits n 0 1 == 0 && wordBits n 18 6 == 0 then .ok (.cadd (wordField n 12 6) (wordField n 6 6) (wordField n 4 2) (wordField n 1 3))
    else .error (.reservedField 192)
  | 1 =>
    if wordBits n 0 1 == 0 then .ok (.cxadd (wordField n 18 6) (wordField n 12 6) (wordField n 6 6) (wordField n 4 2) (wordField n 1 3))
    else .error (.reservedField 193)
  | 2 =>
    if wordBits n 0 1 == 0 && wordBits n 4 2 == 1 then .ok (.cwait (wordField n 18 6) (wordField n 12 6) (wordField n 6 6) (wordField n 1 3))
    else .error (.reservedField 194)
  | 3 =>
    if wordBits n 0 1 == 0 && wordBits n 6 6 == 0 then .ok (.crd (wordField n 18 6) (wordField n 12 6) (wordField n 4 2) (wordField n 1 3))
    else .error (.reservedField 195)
  | 4 =>
    if wordBits n 0 1 == 0 then .ok (.ctst (wordField n 18 6) (wordField n 12 6) (wordField n 6 6) (wordField n 4 2) (wordField n 1 3))
    else .error (.reservedField 196)
  | 5 =>
    if wordBits n 0 1 == 0 && wordBits n 4 2 == 0 then .ok (.cset (wordField n 18 6) (wordField n 12 6) (wordField n 6 6) (wordField n 1 3))
    else .error (.reservedField 197)
  | 6 =>
    .ok (.atomAdd (wordField n 18 6) (wordField n 12 6) (wordField n 6 6) (wordField n 4 2) (wordField n 1 3) (wordField n 0 1))
  | 7 =>
    .ok (.atomMin (wordField n 18 6) (wordField n 12 6) (wordField n 6 6) (wordField n 4 2) (wordField n 1 3) (wordField n 0 1))
  | 8 =>
    .ok (.atomMax (wordField n 18 6) (wordField n 12 6) (wordField n 6 6) (wordField n 4 2) (wordField n 1 3) (wordField n 0 1))
  | 9 =>
    .ok (.atomAnd (wordField n 18 6) (wordField n 12 6) (wordField n 6 6) (wordField n 4 2) (wordField n 1 3) (wordField n 0 1))
  | 10 =>
    .ok (.atomOr (wordField n 18 6) (wordField n 12 6) (wordField n 6 6) (wordField n 4 2) (wordField n 1 3) (wordField n 0 1))
  | 11 =>
    .ok (.atomXor (wordField n 18 6) (wordField n 12 6) (wordField n 6 6) (wordField n 4 2) (wordField n 1 3) (wordField n 0 1))
  | 12 =>
    .ok (.atomSwap (wordField n 18 6) (wordField n 12 6) (wordField n 6 6) (wordField n 4 2) (wordField n 1 3) (wordField n 0 1))
  | 13 =>
    .ok (.cas (wordField n 18 6) (wordField n 12 6) (wordField n 6 6) (wordField n 4 2) (wordField n 1 3) (wordField n 0 1))
  | 14 =>
    if wordBits n 11 1 == 0 then .ok (.vatom (wordField n 21 3) (wordField n 18 3) (wordField n 12 6) (wordField n 8 3) (wordField n 7 1) (wordField n 6 1) (wordField n 4 2) (wordField n 1 3) (wordField n 0 1))
    else .error (.reservedField 206)
  | 15 =>
    if wordBits n 11 1 == 0 then .ok (.vatomOi (wordField n 21 3) (wordField n 18 3) (wordField n 12 6) (wordField n 8 3) (wordField n 7 1) (wordField n 6 1) (wordField n 4 2) (wordField n 1 3) (wordField n 0 1))
    else .error (.reservedField 207)
  | k => .error (.unassigned (192 + k))

/-- Opcodes 0xD0 to 0xDF (R332, R333); `n` is the word. -/
def decodeRowD (n : Nat) : Except Reject Instr :=
  match wordBits n 24 4 with
  | 0 =>
    if wordBits n 0 1 == 0 && wordBits n 4 2 == 2 && wordBits n 10 2 == 0 && wordBits n 18 6 == 0 then .ok (.sluice (wordField n 12 6) (wordField n 6 4) (wordField n 1 3))
    else .error (.reservedField 208)
  | 1 =>
    if wordBits n 0 1 == 0 && wordBits n 4 8 == 2 && wordBits n 18 6 == 0 then .ok (.panc (wordField n 12 6) (wordField n 1 3))
    else .error (.reservedField 209)
  | 2 =>
    if wordBits n 0 1 == 0 && wordBits n 4 8 == 2 && wordBits n 18 6 == 0 then .ok (.rcode (wordField n 12 6) (wordField n 1 3))
    else .error (.reservedField 210)
  | 3 =>
    if wordBits n 0 12 == 0 then .ok (.launch (wordField n 18 6) (wordField n 12 6))
    else .error (.reservedField 211)
  | 4 =>
    if wordBits n 0 12 == 0 then .ok (.cancel (wordField n 18 6) (wordField n 12 6))
    else .error (.reservedField 212)
  | 5 =>
    if wordBits n 0 18 == 0 then .ok (.strip (wordField n 18 6))
    else .error (.reservedField 213)
  | k => .error (.unassigned (208 + k))

/-- Opcodes 0xE0 to 0xEF (R332, R333); `n` is the word. -/
def decodeRowE (n : Nat) : Except Reject Instr :=
  match wordBits n 24 4 with
  | 0 =>
    if wordBits n 12 6 == 0 then .ok (.csrr (wordField n 18 6) (wordField n 0 12))
    else .error (.reservedField 224)
  | 1 =>
    .ok (.csrw (wordField n 18 6) (wordField n 12 6) (wordField n 0 12))
  | 2 =>
    .ok (.csrs (wordField n 18 6) (wordField n 12 6) (wordField n 0 12))
  | 3 =>
    .ok (.csrc (wordField n 18 6) (wordField n 12 6) (wordField n 0 12))
  | 4 =>
    .ok (.csrwi (wordField n 18 6) (wordField n 12 6) (wordField n 0 12))
  | 5 =>
    if wordBits n 0 24 == 0 then .ok .eret
    else .error (.reservedField 229)
  | 6 =>
    if wordBits n 0 6 == 0 then .ok (.scall (wordField n 18 6) (wordField n 12 6) (wordField n 6 6))
    else .error (.reservedField 230)
  | 7 =>
    if wordBits n 0 6 == 0 then .ok (.scallNb (wordField n 18 6) (wordField n 12 6) (wordField n 6 6))
    else .error (.reservedField 231)
  | 8 =>
    if wordBits n 0 18 == 0 then .ok (.wmark (wordField n 18 6))
    else .error (.reservedField 232)
  | 9 =>
    if wordBits n 0 6 == 0 then .ok (.tlbiVa (wordField n 18 6) (wordField n 12 6) (wordField n 6 6))
    else .error (.reservedField 233)
  | 10 =>
    if wordBits n 0 6 == 0 && wordBits n 12 6 == 0 then .ok (.tlbiAsid (wordField n 18 6) (wordField n 6 6))
    else .error (.reservedField 234)
  | 11 =>
    if wordBits n 0 18 == 0 then .ok (.tlbiAll (wordField n 18 6))
    else .error (.reservedField 235)
  | 12 =>
    if wordBits n 0 24 == 0 then .ok .bkpt
    else .error (.reservedField 236)
  | 13 =>
    if wordBits n 0 6 == 0 then .ok (.ptset (wordField n 18 6) (wordField n 12 6) (wordField n 6 6))
    else .error (.reservedField 237)
  | 14 =>
    if wordBits n 0 12 == 0 then .ok (.ptget (wordField n 18 6) (wordField n 12 6))
    else .error (.reservedField 238)
  | 15 =>
    if wordBits n 0 24 == 0 then .ok .sdrain
    else .error (.reservedField 239)
  | k => .error (.unassigned (224 + k))

/-- The row of a word's fixed bits, its fields not yet checked (R332). -/
def decodeRaw (w : BitVec 32) : Except Reject Instr :=
  let n := w.toNat
  if n = 0 then .error .zeroWord else
  match wordBits n 28 4 with
  | 0 => decodeRow0 n
  | 1 => decodeRow1 n
  | 2 => decodeRow2 n
  | 3 => decodeRow3 n
  | 4 => decodeRow4 n
  | 5 => decodeRow5 n
  | 6 => decodeRow6 n
  | 7 => decodeRow7 n
  | 9 => decodeRow9 n
  | 10 => decodeRowA n
  | 11 => decodeRowB n
  | 12 => decodeRowC n
  | 13 => decodeRowD n
  | 14 => decodeRowE n
  | _ =>
    if n / 2 ^ 24 = 0xFE ∨ n / 2 ^ 24 = 0xFF then .error (.blockWord (n / 2 ^ 24))
    else .error (.unassigned (n / 2 ^ 24))

/-- The decoder: the instruction of a word, or the name of what refuses it (R334, orders 1 and 3). -/
def decode (w : BitVec 32) : Except Reject Instr :=
  match decodeRaw w with
  | .ok i => if i.wellFormed then .ok i else .error (.reservedField (w.toNat / 2 ^ 24))
  | .error r => .error r

/-- The decoder over bytes at rising addresses: one little-endian word, and the bytes after it (R4, R325). -/
def decodeBytes : List Byte → Option (Except Reject Instr × List Byte)
  | b0 :: b1 :: b2 :: b3 :: rest => some (decode (b3 ++ b2 ++ b1 ++ b0), rest)
  | _ => none

/-- The instruction the decoder reads from the opcode table's numbering of an instruction's bits: every instruction is
one 32-bit word, and a shorter row has zeros above. -/
def decodeTableWord (nbits w : Nat) : Option Instr :=
  match decode (BitVec.ofNat 32 (w % 2 ^ nbits)) with
  | .ok i => some i
  | .error _ => none

/-- Fixed bits with fields placed at their low bits (R3, R325). -/
def placeFields (fixed : Nat) (fields : List (Nat × Nat)) : Nat :=
  fields.foldl (fun acc f => acc + f.1 * 2 ^ f.2) fixed

/-- The word of an instruction, from its row's fixed bits and its fields (R325, R332, R333). An event has no word: 0. -/
def encodeNat : Instr → Nat
  | .nop => placeFields 0x1000000 []
  | .br i => placeFields 0x2000000 [(i.toNat, 0)]
  | .brcEq a b o => placeFields 0x3000000 [(a.toNat, 18), (b.toNat, 12), (o.toNat, 0)]
  | .brcNe a b o => placeFields 0x4000000 [(a.toNat, 18), (b.toNat, 12), (o.toNat, 0)]
  | .brcLt a b o => placeFields 0x5000000 [(a.toNat, 18), (b.toNat, 12), (o.toNat, 0)]
  | .brcGe a b o => placeFields 0x6000000 [(a.toNat, 18), (b.toNat, 12), (o.toNat, 0)]
  | .brcLtu a b o => placeFields 0x7000000 [(a.toNat, 18), (b.toNat, 12), (o.toNat, 0)]
  | .brcGeu a b o => placeFields 0x8000000 [(a.toNat, 18), (b.toNat, 12), (o.toNat, 0)]
  | .brr a => placeFields 0x9000000 [(a.toNat, 12)]
  | .call d i => placeFields 0xa000000 [(d.toNat, 18), (i.toNat, 0)]
  | .callr d a => placeFields 0xb000000 [(d.toNat, 18), (a.toNat, 12)]
  | .brk i => placeFields 0xc000000 [(i.toNat, 0)]
  | .exit => placeFields 0xd000000 []
  | .step => placeFields 0xe000000 []
  | .xstart i => placeFields 0xf000000 [(i.toNat, 0)]
  | .add d a b => placeFields 0x10000000 [(d.toNat, 18), (a.toNat, 12), (b.toNat, 6)]
  | .sub d a b => placeFields 0x11000000 [(d.toNat, 18), (a.toNat, 12), (b.toNat, 6)]
  | .mul d a b => placeFields 0x12000000 [(d.toNat, 18), (a.toNat, 12), (b.toNat, 6)]
  | .mulh d a b => placeFields 0x13000000 [(d.toNat, 18), (a.toNat, 12), (b.toNat, 6)]
  | .mulhu d a b => placeFields 0x14000000 [(d.toNat, 18), (a.toNat, 12), (b.toNat, 6)]
  | .div d a b => placeFields 0x15000000 [(d.toNat, 18), (a.toNat, 12), (b.toNat, 6)]
  | .divu d a b => placeFields 0x16000000 [(d.toNat, 18), (a.toNat, 12), (b.toNat, 6)]
  | .rem d a b => placeFields 0x17000000 [(d.toNat, 18), (a.toNat, 12), (b.toNat, 6)]
  | .remu d a b => placeFields 0x18000000 [(d.toNat, 18), (a.toNat, 12), (b.toNat, 6)]
  | .and d a b => placeFields 0x19000000 [(d.toNat, 18), (a.toNat, 12), (b.toNat, 6)]
  | .or d a b => placeFields 0x1a000000 [(d.toNat, 18), (a.toNat, 12), (b.toNat, 6)]
  | .xor d a b => placeFields 0x1b000000 [(d.toNat, 18), (a.toNat, 12), (b.toNat, 6)]
  | .andn d a b => placeFields 0x1c000000 [(d.toNat, 18), (a.toNat, 12), (b.toNat, 6)]
  | .sll d a b => placeFields 0x1d000000 [(d.toNat, 18), (a.toNat, 12), (b.toNat, 6)]
  | .srl d a b => placeFields 0x1e000000 [(d.toNat, 18), (a.toNat, 12), (b.toNat, 6)]
  | .sra d a b => placeFields 0x1f000000 [(d.toNat, 18), (a.toNat, 12), (b.toNat, 6)]
  | .min d a b => placeFields 0x20000000 [(d.toNat, 18), (a.toNat, 12), (b.toNat, 6)]
  | .max d a b => placeFields 0x21000000 [(d.toNat, 18), (a.toNat, 12), (b.toNat, 6)]
  | .minu d a b => placeFields 0x22000000 [(d.toNat, 18), (a.toNat, 12), (b.toNat, 6)]
  | .maxu d a b => placeFields 0x23000000 [(d.toNat, 18), (a.toNat, 12), (b.toNat, 6)]
  | .slt d a b => placeFields 0x24000000 [(d.toNat, 18), (a.toNat, 12), (b.toNat, 6)]
  | .sltu d a b => placeFields 0x25000000 [(d.toNat, 18), (a.toNat, 12), (b.toNat, 6)]
  | .seq d a b => placeFields 0x26000000 [(d.toNat, 18), (a.toNat, 12), (b.toNat, 6)]
  | .sel d a b f => placeFields 0x27000000 [(d.toNat, 18), (a.toNat, 12), (b.toNat, 6), (f.toNat, 0)]
  | .clz d a => placeFields 0x28000000 [(d.toNat, 18), (a.toNat, 12)]
  | .ctz d a => placeFields 0x28000001 [(d.toNat, 18), (a.toNat, 12)]
  | .popc d a => placeFields 0x28000002 [(d.toNat, 18), (a.toNat, 12)]
  | .addsh d a b s => placeFields 0x29000000 [(d.toNat, 18), (a.toNat, 12), (b.toNat, 6), (s.toNat, 0)]
  | .addi d a i => placeFields 0x2a000000 [(d.toNat, 18), (a.toNat, 12), (i.toNat, 0)]
  | .andi d a i => placeFields 0x2b000000 [(d.toNat, 18), (a.toNat, 12), (i.toNat, 0)]
  | .ori d a i => placeFields 0x2c000000 [(d.toNat, 18), (a.toNat, 12), (i.toNat, 0)]
  | .slli d a s => placeFields 0x2d000000 [(d.toNat, 18), (a.toNat, 12), (s.toNat, 0)]
  | .srli d a s => placeFields 0x2d000040 [(d.toNat, 18), (a.toNat, 12), (s.toNat, 0)]
  | .srai d a s => placeFields 0x2d000080 [(d.toNat, 18), (a.toNat, 12), (s.toNat, 0)]
  | .li d i => placeFields 0x2e000000 [(d.toNat, 18), (i.toNat, 0)]
  | .lih d p h => placeFields 0x2f000000 [(d.toNat, 18), (p.toNat, 16), (h.toNat, 0)]
  | .ldB d a i => placeFields 0x30000000 [(d.toNat, 18), (a.toNat, 12), (i.toNat, 0)]
  | .ldBu d a i => placeFields 0x31000000 [(d.toNat, 18), (a.toNat, 12), (i.toNat, 0)]
  | .ldH d a i => placeFields 0x32000000 [(d.toNat, 18), (a.toNat, 12), (i.toNat, 0)]
  | .ldHu d a i => placeFields 0x33000000 [(d.toNat, 18), (a.toNat, 12), (i.toNat, 0)]
  | .ldW d a i => placeFields 0x34000000 [(d.toNat, 18), (a.toNat, 12), (i.toNat, 0)]
  | .ldWu d a i => placeFields 0x35000000 [(d.toNat, 18), (a.toNat, 12), (i.toNat, 0)]
  | .ldD d a i => placeFields 0x36000000 [(d.toNat, 18), (a.toNat, 12), (i.toNat, 0)]
  | .stB d a i => placeFields 0x37000000 [(d.toNat, 18), (a.toNat, 12), (i.toNat, 0)]
  | .stH d a i => placeFields 0x38000000 [(d.toNat, 18), (a.toNat, 12), (i.toNat, 0)]
  | .stW d a i => placeFields 0x39000000 [(d.toNat, 18), (a.toNat, 12), (i.toNat, 0)]
  | .stD d a i => placeFields 0x3a000000 [(d.toNat, 18), (a.toNat, 12), (i.toNat, 0)]
  | .ldl d a i => placeFields 0x3b000000 [(d.toNat, 18), (a.toNat, 12), (i.toNat, 0)]
  | .stl d a i => placeFields 0x3c000000 [(d.toNat, 18), (a.toNat, 12), (i.toNat, 0)]
  | .tagr d a i => placeFields 0x3d000000 [(d.toNat, 18), (a.toNat, 12), (i.toNat, 0)]
  | .tagw d a i => placeFields 0x3e000000 [(d.toNat, 18), (a.toNat, 12), (i.toNat, 0)]
  | .pref a i => placeFields 0x3f000000 [(a.toNat, 12), (i.toNat, 0)]
  | .vldUnit q a e => placeFields 0x40000000 [(q.toNat, 21), (a.toNat, 15), (e.toNat, 6)]
  | .vldStrided q a b e => placeFields 0x40000004 [(q.toNat, 21), (a.toNat, 15), (b.toNat, 9), (e.toNat, 6)]
  | .vldExplicit q a f e => placeFields 0x40000008 [(q.toNat, 21), (a.toNat, 15), (f.toNat, 9), (e.toNat, 6)]
  | .vldx q a x e m => placeFields 0x41000000 [(q.toNat, 21), (a.toNat, 15), (x.toNat, 9), (e.toNat, 6), (m.toNat, 2)]
  | .vldffUnit q a e => placeFields 0x42000000 [(q.toNat, 21), (a.toNat, 15), (e.toNat, 6)]
  | .vldffStrided q a b e => placeFields 0x42000004 [(q.toNat, 21), (a.toNat, 15), (b.toNat, 9), (e.toNat, 6)]
  | .vstUnit q a e => placeFields 0x43000000 [(q.toNat, 21), (a.toNat, 15), (e.toNat, 6)]
  | .vstStrided q a b e => placeFields 0x43000004 [(q.toNat, 21), (a.toNat, 15), (b.toNat, 9), (e.toNat, 6)]
  | .vstx q a e m => placeFields 0x44000000 [(q.toNat, 21), (a.toNat, 15), (e.toNat, 6), (m.toNat, 2)]
  | .vldl q a e => placeFields 0x45000000 [(q.toNat, 21), (a.toNat, 15), (e.toNat, 6)]
  | .vstl q a e => placeFields 0x46000000 [(q.toNat, 21), (a.toNat, 15), (e.toNat, 6)]
  | .vspill c a f k => placeFields 0x47000000 [(c.toNat, 21), (a.toNat, 15), (f.toNat, 9), (k.toNat, 2)]
  | .vfill c a f k => placeFields 0x48000000 [(c.toNat, 21), (a.toNat, 15), (f.toNat, 9), (k.toNat, 2)]
  | .fenceSv s => placeFields 0x49000000 [(s.toNat, 1)]
  | .fenceVs s => placeFields 0x49000010 [(s.toNat, 1)]
  | .fenceVv s => placeFields 0x49000020 [(s.toNat, 1)]
  | .fenceAll s => placeFields 0x49000030 [(s.toNat, 1)]
  | .lsplit k => placeFields 0x4a000000 [(k.toNat, 0)]
  | .qpushA q a => placeFields 0x4b000000 [(q.toNat, 21), (a.toNat, 15)]
  | .qpushX q v => placeFields 0x4b000000 [(q.toNat, 21), (v.toNat, 9)]
  | .qpopA q => placeFields 0x4c000000 [(q.toNat, 21)]
  | .qpopX q v => placeFields 0x4c000000 [(q.toNat, 21), (v.toNat, 9)]
  | .qpopXDiscard q => placeFields 0x4c004000 [(q.toNat, 21)]
  | .qputs a => placeFields 0x4d000000 [(a.toNat, 15)]
  | .qgets b => placeFields 0x4e000000 [(b.toNat, 9)]
  | .qstatData q b => placeFields 0x4f000000 [(q.toNat, 21), (b.toNat, 9)]
  | .qstatScalar q b => placeFields 0x4f000004 [(q.toNat, 21), (b.toNat, 9)]
  | .vsetl d a f => placeFields 0x50000000 [(d.toNat, 19), (a.toNat, 13), (f.toNat, 7)]
  | .vsetlKeep d a => placeFields 0x50001000 [(d.toNat, 19), (a.toNat, 13)]
  | .vadd d a b m r z => placeFields 0x51000000 [(d.toNat, 19), (a.toNat, 13), (b.toNat, 7), (m.toNat, 4), (r.toNat, 1), (z.toNat, 0)]
  | .vsub d a b m r z => placeFields 0x52000000 [(d.toNat, 19), (a.toNat, 13), (b.toNat, 7), (m.toNat, 4), (r.toNat, 1), (z.toNat, 0)]
  | .vmul d a b m r z => placeFields 0x53000000 [(d.toNat, 19), (a.toNat, 13), (b.toNat, 7), (m.toNat, 4), (r.toNat, 1), (z.toNat, 0)]
  | .vfma d a b m r z => placeFields 0x54000000 [(d.toNat, 19), (a.toNat, 13), (b.toNat, 7), (m.toNat, 4), (r.toNat, 1), (z.toNat, 0)]
  | .vfms d a b m r z => placeFields 0x55000000 [(d.toNat, 19), (a.toNat, 13), (b.toNat, 7), (m.toNat, 4), (r.toNat, 1), (z.toNat, 0)]
  | .vmin d a b m r z => placeFields 0x56000000 [(d.toNat, 19), (a.toNat, 13), (b.toNat, 7), (m.toNat, 4), (r.toNat, 1), (z.toNat, 0)]
  | .vmax d a b m r z => placeFields 0x57000000 [(d.toNat, 19), (a.toNat, 13), (b.toNat, 7), (m.toNat, 4), (r.toNat, 1), (z.toNat, 0)]
  | .vabs d a m z => placeFields 0x58000000 [(d.toNat, 19), (a.toNat, 13), (m.toNat, 4), (z.toNat, 0)]
  | .vneg d a m z => placeFields 0x59000000 [(d.toNat, 19), (a.toNat, 13), (m.toNat, 4), (z.toNat, 0)]
  | .vdiv d a b m r z => placeFields 0x5a000000 [(d.toNat, 19), (a.toNat, 13), (b.toNat, 7), (m.toNat, 4), (r.toNat, 1), (z.toNat, 0)]
  | .vrcp d a m z => placeFields 0x5b000000 [(d.toNat, 19), (a.toNat, 13), (m.toNat, 4), (z.toNat, 0)]
  | .vrsqrt d a m z => placeFields 0x5c000000 [(d.toNat, 19), (a.toNat, 13), (m.toNat, 4), (z.toNat, 0)]
  | .vand d a b m r z => placeFields 0x5d000000 [(d.toNat, 19), (a.toNat, 13), (b.toNat, 7), (m.toNat, 4), (r.toNat, 1), (z.toNat, 0)]
  | .vor d a b m r z => placeFields 0x5e000000 [(d.toNat, 19), (a.toNat, 13), (b.toNat, 7), (m.toNat, 4), (r.toNat, 1), (z.toNat, 0)]
  | .vxor d a b m r z => placeFields 0x5f000000 [(d.toNat, 19), (a.toNat, 13), (b.toNat, 7), (m.toNat, 4), (r.toNat, 1), (z.toNat, 0)]
  | .vshl d a b m r z => placeFields 0x60000000 [(d.toNat, 19), (a.toNat, 13), (b.toNat, 7), (m.toNat, 4), (r.toNat, 1), (z.toNat, 0)]
  | .vshr d a b m r z => placeFields 0x61000000 [(d.toNat, 19), (a.toNat, 13), (b.toNat, 7), (m.toNat, 4), (r.toNat, 1), (z.toNat, 0)]
  | .vsel d a b m r => placeFields 0x62000000 [(d.toNat, 19), (a.toNat, 13), (b.toNat, 7), (m.toNat, 4), (r.toNat, 1)]
  | .vmov d a m z => placeFields 0x63000000 [(d.toNat, 19), (a.toNat, 13), (m.toNat, 4), (z.toNat, 0)]
  | .vsplat d a => placeFields 0x64000000 [(d.toNat, 19), (a.toNat, 13)]
  | .vext d a b => placeFields 0x65000000 [(d.toNat, 19), (a.toNat, 13), (b.toNat, 7)]
  | .vins d a b => placeFields 0x66000000 [(d.toNat, 19), (a.toNat, 13), (b.toNat, 7)]
  | .vredsum d a m => placeFields 0x67000000 [(d.toNat, 19), (a.toNat, 13), (m.toNat, 4)]
  | .vredmax d a m => placeFields 0x68000000 [(d.toNat, 19), (a.toNat, 13), (m.toNat, 4)]
  | .vredmin d a m => placeFields 0x69000000 [(d.toNat, 19), (a.toNat, 13), (m.toNat, 4)]
  | .vcmpEq d a b m r z => placeFields 0x6a000000 [(d.toNat, 19), (a.toNat, 13), (b.toNat, 7), (m.toNat, 4), (r.toNat, 1), (z.toNat, 0)]
  | .vcmpNe d a b m r z => placeFields 0x6b000000 [(d.toNat, 19), (a.toNat, 13), (b.toNat, 7), (m.toNat, 4), (r.toNat, 1), (z.toNat, 0)]
  | .vcmpLt d a b m r z => placeFields 0x6c000000 [(d.toNat, 19), (a.toNat, 13), (b.toNat, 7), (m.toNat, 4), (r.toNat, 1), (z.toNat, 0)]
  | .vcmpLe d a b m r z => placeFields 0x6d000000 [(d.toNat, 19), (a.toNat, 13), (b.toNat, 7), (m.toNat, 4), (r.toNat, 1), (z.toNat, 0)]
  | .vcmpGt d a b m r z => placeFields 0x6e000000 [(d.toNat, 19), (a.toNat, 13), (b.toNat, 7), (m.toNat, 4), (r.toNat, 1), (z.toNat, 0)]
  | .vcmpGe d a b m r z => placeFields 0x6f000000 [(d.toNat, 19), (a.toNat, 13), (b.toNat, 7), (m.toNat, 4), (r.toNat, 1), (z.toNat, 0)]
  | .vcmpUn d a b m r z => placeFields 0x70000000 [(d.toNat, 19), (a.toNat, 13), (b.toNat, 7), (m.toNat, 4), (r.toNat, 1), (z.toNat, 0)]
  | .vcmpOr d a b m r z => placeFields 0x71000000 [(d.toNat, 19), (a.toNat, 13), (b.toNat, 7), (m.toNat, 4), (r.toNat, 1), (z.toNat, 0)]
  | .viota d a m z => placeFields 0x90000000 [(d.toNat, 19), (a.toNat, 13), (m.toNat, 4), (z.toNat, 0)]
  | .vslideup d a b m z => placeFields 0x91000000 [(d.toNat, 19), (a.toNat, 13), (b.toNat, 7), (m.toNat, 4), (z.toNat, 0)]
  | .vslidedn d a b m z => placeFields 0x92000000 [(d.toNat, 19), (a.toNat, 13), (b.toNat, 7), (m.toNat, 4), (z.toNat, 0)]
  | .vperm d a b m r z => placeFields 0x93000000 [(d.toNat, 19), (a.toNat, 13), (b.toNat, 7), (m.toNat, 4), (r.toNat, 1), (z.toNat, 0)]
  | .mand d a b => placeFields 0x94000000 [(d.toNat, 19), (a.toNat, 13), (b.toNat, 7)]
  | .mor d a b => placeFields 0x95000000 [(d.toNat, 19), (a.toNat, 13), (b.toNat, 7)]
  | .mxor d a b => placeFields 0x96000000 [(d.toNat, 19), (a.toNat, 13), (b.toNat, 7)]
  | .mandn d a b => placeFields 0x97000000 [(d.toNat, 19), (a.toNat, 13), (b.toNat, 7)]
  | .mnot d a => placeFields 0x98000000 [(d.toNat, 19), (a.toNat, 13)]
  | .mpopc d a => placeFields 0x99000000 [(d.toNat, 19), (a.toNat, 13)]
  | .mfirst d a => placeFields 0x9a000000 [(d.toNat, 19), (a.toNat, 13)]
  | .mmode w => placeFields 0xa0000000 [(w.toNat, 7)]
  | .mzero t r c => placeFields 0xa1000000 [(t.toNat, 22), (r.toNat, 7), (c.toNat, 4)]
  | .opadd t a b r c => placeFields 0xa2000000 [(t.toNat, 22), (a.toNat, 16), (b.toNat, 10), (r.toNat, 7), (c.toNat, 4)]
  | .opsub t a b r c => placeFields 0xa3000000 [(t.toNat, 22), (a.toNat, 16), (b.toNat, 10), (r.toNat, 7), (c.toNat, 4)]
  | .mrd t v x c s => placeFields 0xa4000000 [(t.toNat, 22), (v.toNat, 16), (x.toNat, 10), (c.toNat, 4), (s.toNat, 3)]
  | .mwr t a x c s => placeFields 0xa5000000 [(t.toNat, 22), (a.toNat, 16), (x.toNat, 10), (c.toNat, 4), (s.toNat, 3)]
  | .mtr t v x c s => placeFields 0xa6000000 [(t.toNat, 22), (v.toNat, 16), (x.toNat, 10), (c.toNat, 4), (s.toNat, 3)]
  | .vtag d a b => placeFields 0xb0000000 [(d.toNat, 19), (a.toNat, 13), (b.toNat, 7)]
  | .vgtag d a b => placeFields 0xb1000000 [(d.toNat, 19), (a.toNat, 13), (b.toNat, 7)]
  | .vcvt d a f m z => placeFields 0xb2000000 [(d.toNat, 19), (a.toNat, 13), (f.toNat, 7), (m.toNat, 4), (z.toNat, 0)]
  | .vscale d a b m z => placeFields 0xb3000000 [(d.toNat, 19), (a.toNat, 13), (b.toNat, 7), (m.toNat, 4), (z.toNat, 0)]
  | .vunrot d a => placeFields 0xb4000000 [(d.toNat, 19), (a.toNat, 13)]
  | .cadd a b o s => placeFields 0xc0000000 [(a.toNat, 12), (b.toNat, 6), (o.toNat, 4), (s.toNat, 1)]
  | .cxadd d a b o s => placeFields 0xc1000000 [(d.toNat, 18), (a.toNat, 12), (b.toNat, 6), (o.toNat, 4), (s.toNat, 1)]
  | .cwait d a b s => placeFields 0xc2000010 [(d.toNat, 18), (a.toNat, 12), (b.toNat, 6), (s.toNat, 1)]
  | .crd d a o s => placeFields 0xc3000000 [(d.toNat, 18), (a.toNat, 12), (o.toNat, 4), (s.toNat, 1)]
  | .ctst d a b o s => placeFields 0xc4000000 [(d.toNat, 18), (a.toNat, 12), (b.toNat, 6), (o.toNat, 4), (s.toNat, 1)]
  | .cset d a b s => placeFields 0xc5000000 [(d.toNat, 18), (a.toNat, 12), (b.toNat, 6), (s.toNat, 1)]
  | .atomAdd d a b o s w => placeFields 0xc6000000 [(d.toNat, 18), (a.toNat, 12), (b.toNat, 6), (o.toNat, 4), (s.toNat, 1), (w.toNat, 0)]
  | .atomMin d a b o s w => placeFields 0xc7000000 [(d.toNat, 18), (a.toNat, 12), (b.toNat, 6), (o.toNat, 4), (s.toNat, 1), (w.toNat, 0)]
  | .atomMax d a b o s w => placeFields 0xc8000000 [(d.toNat, 18), (a.toNat, 12), (b.toNat, 6), (o.toNat, 4), (s.toNat, 1), (w.toNat, 0)]
  | .atomAnd d a b o s w => placeFields 0xc9000000 [(d.toNat, 18), (a.toNat, 12), (b.toNat, 6), (o.toNat, 4), (s.toNat, 1), (w.toNat, 0)]
  | .atomOr d a b o s w => placeFields 0xca000000 [(d.toNat, 18), (a.toNat, 12), (b.toNat, 6), (o.toNat, 4), (s.toNat, 1), (w.toNat, 0)]
  | .atomXor d a b o s w => placeFields 0xcb000000 [(d.toNat, 18), (a.toNat, 12), (b.toNat, 6), (o.toNat, 4), (s.toNat, 1), (w.toNat, 0)]
  | .atomSwap d a b o s w => placeFields 0xcc000000 [(d.toNat, 18), (a.toNat, 12), (b.toNat, 6), (o.toNat, 4), (s.toNat, 1), (w.toNat, 0)]
  | .cas d a b o s w => placeFields 0xcd000000 [(d.toNat, 18), (a.toNat, 12), (b.toNat, 6), (o.toNat, 4), (s.toNat, 1), (w.toNat, 0)]
  | .vatom p m a q t x o s w => placeFields 0xce000000 [(p.toNat, 21), (m.toNat, 18), (a.toNat, 12), (q.toNat, 8), (t.toNat, 7), (x.toNat, 6), (o.toNat, 4), (s.toNat, 1), (w.toNat, 0)]
  | .vatomOi p m a q t x o s w => placeFields 0xcf000000 [(p.toNat, 21), (m.toNat, 18), (a.toNat, 12), (q.toNat, 8), (t.toNat, 7), (x.toNat, 6), (o.toNat, 4), (s.toNat, 1), (w.toNat, 0)]
  | .sluice a j s => placeFields 0xd0000020 [(a.toNat, 12), (j.toNat, 6), (s.toNat, 1)]
  | .panc a s => placeFields 0xd1000020 [(a.toNat, 12), (s.toNat, 1)]
  | .rcode a s => placeFields 0xd2000020 [(a.toNat, 12), (s.toNat, 1)]
  | .launch d a => placeFields 0xd3000000 [(d.toNat, 18), (a.toNat, 12)]
  | .cancel d a => placeFields 0xd4000000 [(d.toNat, 18), (a.toNat, 12)]
  | .strip d => placeFields 0xd5000000 [(d.toNat, 18)]
  | .csrr d c => placeFields 0xe0000000 [(d.toNat, 18), (c.toNat, 0)]
  | .csrw d a c => placeFields 0xe1000000 [(d.toNat, 18), (a.toNat, 12), (c.toNat, 0)]
  | .csrs d a c => placeFields 0xe2000000 [(d.toNat, 18), (a.toNat, 12), (c.toNat, 0)]
  | .csrc d a c => placeFields 0xe3000000 [(d.toNat, 18), (a.toNat, 12), (c.toNat, 0)]
  | .csrwi d i c => placeFields 0xe4000000 [(d.toNat, 18), (i.toNat, 12), (c.toNat, 0)]
  | .eret => placeFields 0xe5000000 []
  | .scall d a b => placeFields 0xe6000000 [(d.toNat, 18), (a.toNat, 12), (b.toNat, 6)]
  | .scallNb d a b => placeFields 0xe7000000 [(d.toNat, 18), (a.toNat, 12), (b.toNat, 6)]
  | .wmark d => placeFields 0xe8000000 [(d.toNat, 18)]
  | .tlbiVa d a b => placeFields 0xe9000000 [(d.toNat, 18), (a.toNat, 12), (b.toNat, 6)]
  | .tlbiAsid d b => placeFields 0xea000000 [(d.toNat, 18), (b.toNat, 6)]
  | .tlbiAll d => placeFields 0xeb000000 [(d.toNat, 18)]
  | .bkpt => placeFields 0xec000000 []
  | .ptset d a b => placeFields 0xed000000 [(d.toNat, 18), (a.toNat, 12), (b.toNat, 6)]
  | .ptget d a => placeFields 0xee000000 [(d.toNat, 18), (a.toNat, 12)]
  | .sdrain => placeFields 0xef000000 []
  | .xAdmission _ => 0
  | .vectorLoadArrival _ => 0
  | .storeResolve _ => 0
  | .walkComplete _ _ _ _ => 0
  | .tlbiCompletionAdd => 0
  | .homeRequest _ _ _ _ _ => 0
  | .l2Eviction _ => 0
  | .snoopFilterEviction _ => 0
  | .counterCacheEviction _ _ => 0
  | .hostSnoop _ => 0
  | .leaveGrant _ => 0
  | .dutyUpdate _ => 0
  | .thermalStep _ _ => 0
  | .thermalCritical _ _ => 0
  | .pwrcapWrite _ _ => 0
  | .govstatWrite _ _ _ => 0
  | .hostPortTrain _ _ _ _ => 0
  | .flitReceive _ _ => 0
  | .laneLockLoss _ => 0
  | .peerRequest _ _ => 0
  | .remoteWake _ _ => 0
  | .containmentMessage _ => 0
  | .hostLinkDown _ => 0
  | .cxlViralIndication _ _ => 0
  | .memoryPortLinkDown _ => 0
  | .controlStructureError _ => 0
  | .memwinRead _ _ _ => 0
  | .memwinWrite _ _ _ _ => 0
  | .cfgwinWrite _ _ _ _ => 0
  | .bootStep => 0
  | .getVersion _ => 0
  | .getCapabilities _ => 0
  | .negotiateAlgorithms _ => 0
  | .getDigests _ => 0
  | .getCertificate _ _ _ _ => 0
  | .challenge _ _ _ => 0
  | .getMeasurements _ _ => 0
  | .spdmUnsupported _ _ => 0
  | .leasecfgWrite _ _ => 0
  | .renew _ => 0
  | .claim _ => 0
  | .release _ => 0
  | .leaseExpiry => 0
  | .hostCounterAdd _ _ _ => 0
  | .hostCounterRead _ _ => 0
  | .rqbaseWrite _ _ => 0
  | .rqentWrite _ _ => 0
  | .requestNop => 0
  | .requestLaunch => 0
  | .requestCancel => 0
  | .interruptWaiterWrite _ _ _ _ _ => 0
  | .callNull _ => 0
  | .callUndoStep _ => 0
  | .callUndoTo _ => 0
  | .callHostFwd _ => 0
  | .callLog _ => 0
  | .callUndefined _ => 0
  | .hostFwdReply => 0
  | .stage _ _ => 0
  | .fwMeasureDone => 0
  | .switch _ => 0
  | .discard _ => 0
  | .fwDrainEnd => 0
  | .fwreadyWrite _ => 0
  | .fwReadyTimeout => 0
  | .preservingReset _ => 0
  | .coldReset _ => 0
  | .resetPin => 0
  | .selectionPass => 0
  | .softPreemptStop _ => 0
  | .preemptTimeout _ => 0
  | .qblockHardPreempt _ => 0
  | .killStop _ => 0
  | .killTimeout _ => 0
  | .parkSaveComplete _ => 0
  | .cwaitWake _ _ => 0
  | .cwaitTimeout _ => 0
  | .cwaitFullPoll _ => 0
  | .hostCounterPoll _ => 0
  | .waiterPoll _ => 0
  | .wmarkCollectiveComplete _ => 0
  | .rewind _ => 0
  | .sluiceCopy _ => 0
  | .sluiceAppend _ => 0
  | .sluiceLineDelivered _ => 0
  | .panGemv _ => 0
  | .panAxpby _ => 0
  | .panFill _ => 0
  | .panCommandEnd _ => 0
  | .recodeJobStart _ => 0
  | .recodeGuardDone _ => 0
  | .recodeLinesDone _ => 0
  | .recodeShootDone _ => 0
  | .svctlWrite _ => 0
  | .sbctlWrite _ => 0
  | .surveyDump _ => 0
  | .surveyDumpDone _ => 0
  | .freeze => 0
  | .freezeSoft => 0
  | .thaw => 0
  | .undoStep => 0
  | .undoTo => 0
  | .breakpointHit _ => 0
  | .keyhiWrite _ => 0
  | .cgdatWrite _ => 0
  | .tendatWrite _ => 0
  | .peerdatWrite _ => 0
  | .flappWrite _ => 0
  | .cfgdatWrite _ => 0
  | .zalarnLinkTrain _ _ _ _ => 0
  | .xRetirement _ => 0
  | .hostAtomicOp _ _ _ _ _ _ => 0
  | .countedCycle _ => 0
  | .surveyBufferRecord _ => 0
  | .illegalOp _ => 0

/-- The encoder. -/
def encode (i : Instr) : BitVec 32 := BitVec.ofNat 32 (encodeNat i)

/-- The bytes of an instruction at rising addresses (R4). -/
def encodeBytes (i : Instr) : List Byte :=
  [(encode i).extractLsb' 0 8, (encode i).extractLsb' 8 8, (encode i).extractLsb' 16 8, (encode i).extractLsb' 24 8]

end Sys2Proof
end

