-- ==== Sys2Proof/Config.lean ====
section
/-! DEFINITION. Config.lean: what the manual leaves to the implementation or does not state, as constants with no body:
a statement about one holds whatever its value is. Each is named in the assumption log. -/

namespace Sys2Proof

/-- The 64-bit part serial number of CFGWIN SERIAL (R45); the manual gives no value. -/
opaque Config.serial : BitVec 64

/-- The keys 1 to 127 that the `n`-th cold reset draws from the part's random source (R189). -/
opaque Config.coldKey : (reset key : Nat) → BitVec 128

/-- Contents of MSLOT 0 and 1: the measurements of the boot ROM and the fuse block (R49). -/
opaque Config.romSlot : (slot : Nat) → BitVec 512

/-- SHA-384 of the bytes of a little-endian number (R48, R49): the manual names the hash and does not restate it. -/
opaque Config.sha384 : (bytes value : Nat) → BitVec 384
/-- The fields of an image's 4 KiB header, whose places the manual does not give (R48): kind, body size in 4 KiB units,
version, and the signature. A header that no image has is of no kind. -/
opaque Config.headerKind : (header : Nat) → Option Nat
opaque Config.headerSize : (header : Nat) → BitVec 32
opaque Config.headerVersion : (header : Nat) → BitVec 64
opaque Config.headerSignature : (header : Nat) → BitVec 768
/-- Whether an ECDSA P-384 signature over a digest verifies under the key of the fuse block (R48). -/
opaque Config.signatureGood : BitVec 768 → BitVec 384 → Bool
/-- Offset in the boot area of the image of a kind, in units of 4 KiB (R47, R48). -/
opaque Config.bootImageAt : (kind : Nat) → Nat
/-- Address of the first block header that a service hart runs once boot has started it (R47). -/
opaque Config.serviceEntry : (tower group : Nat) → BitVec 64
/-- Whether training succeeds at boot steps 2 and 4 (R47, R48). -/
opaque Config.trainingGood : (step : Nat) → Bool

/-- Whether an in-service image's copy still matches its digest at a preserving reset (R69). -/
opaque Config.copyGood : (kind resets : Nat) → Bool
/-- The staging area that the ROM monitor chooses at boot step 4, as a number from which PA[39:28] is taken (R57). -/
opaque Config.fwArea : Nat
/-- Whether the write-back of a line fails at a preserving reset (R72). -/
opaque Config.writebackFails : (draw line : Nat) → Bool

/-- Whether memory port `p` is populated and trains at boot (R33), in units of 4 KiB its usable capacity before the cut
(R32, R33), and the extended-metadata width that its device advertises (R34). -/
opaque Config.memPortTrained : (port : Nat) → Bool
opaque Config.memPortPopulated : (port : Nat) → Bool
opaque Config.memPortCapacity : (port : Nat) → Nat
opaque Config.memPortMeta : (port : Nat) → Nat
/-- Whether the device on a memory port returns poison for a line that it is asked for (R35, R42): the device is outside
the package. -/
opaque Config.cxlPoison : (draw port line : Nat) → Bool

/-- ZNODE and ZROUTE as firmware sets them at boot step 5 (R39, R47). -/
opaque Config.bootNode : BitVec 12
opaque Config.bootRoute : (node : Nat) → BitVec 18

/-- PA[51:12] of the flash append pointer as firmware sets it at boot step 5 (R299, R323). -/
opaque Config.bootFlapp : BitVec 40

/-- What SPDM answers carry that the manual does not give (R50): the capability flags, the digest and the bytes of the
certificate chain in slot 0, and the signature of a challenge. -/
opaque Config.spdmFlags : BitVec 32
opaque Config.chainDigest : BitVec 384
opaque Config.chainBytes : (offset length : Nat) → List Byte
opaque Config.challengeSignature : (nonce : BitVec 256) → BitVec 768

/-- Which format of the right element size an UNINIT line of a compacted page takes at a store (R206): by the element size,
LFMT and the source's format, so that every run gives the same (R184). -/
opaque Config.compactFmt : (bits lfmt fmt : Nat) → Nat

/-- What a scratchpad line holds, as bytes of a register's format, where a vector store writes it in part and its own format has
elements of another size (R379): by the two formats and the bytes of the line, so that every run gives the same (R184). -/
opaque Config.resizedLine : (old new bytes : Nat) → BitVec 512

/-- The bytes of a line that an engine writes POISON, its contents being unknown (R211, R300, R306): by the address of the line and
the bytes of the lines read, so that every run gives the same (R184). -/
opaque Config.openLine : (addr : Nat) → (lines : List Nat) → BitVec 512

/-- A fresh value for the manual's open values; the argument is the state's own counter of such draws. -/
opaque Config.freeNat : Nat → Nat

/-- The data, tag and status that a peer answers with for one of this part's requests (R40): the peer is outside the
package. The arguments are the draw number and the address or handle. -/
opaque Config.peerLine : (draw addr : Nat) → BitVec 512
opaque Config.peerTag : (draw addr : Nat) → BitVec 32
opaque Config.peerCounter : (draw : Nat) → (handle : BitVec 64) → BitVec 64
opaque Config.peerAtom : (draw addr : Nat) → BitVec 64
/-- The hash that chooses among the links to a node by home line or counter handle (R39). -/
opaque Config.linkHash : Nat → Nat
/-- The integrity key under which a home serves the requests of a peer (R37): the manual does not say which. -/
opaque Config.peerKey : (node : Nat) → BitVec 7
/-- Whether the peer grants a counter operation (R241). -/
opaque Config.peerGrants : (draw : Nat) → (handle : BitVec 64) → Bool

end Sys2Proof
end

