-- ==== Sys2Proof/Machine/Sparse.lean ====
section
/-! DEFINITION. Machine/Sparse.lean: sparse tables in one canonical form. A table lists its keys strictly rising and no
entry equal to what an unlisted key reads as, so equal tables are equal lists. Memory, registers and every architectural
table of the part are held so. -/

namespace Sys2Proof

/-- A sparse table: keys strictly rising, no entry equal to the value of an unlisted key. -/
abbrev SMap (α : Type) := List (Nat × α)

/-- The value at a key; `d` is what an unlisted key reads as. -/
def SMap.get {α : Type} (d : α) : SMap α → Nat → α
  | [], _ => d
  | (k, v) :: m, n => if n = k then v else if n < k then d else SMap.get d m n

/-- Write one key, keeping the canonical form: writing `d` takes the entry out. -/
def SMap.set {α : Type} [DecidableEq α] (d : α) : SMap α → Nat → α → SMap α
  | [], n, v => if v = d then [] else [(n, v)]
  | (k, w) :: m, n, v =>
    if n < k then (if v = d then (k, w) :: m else (n, v) :: (k, w) :: m)
    else if n = k then (if v = d then m else (n, v) :: m)
    else (k, w) :: SMap.set d m n v

/-- Every listed key is above `lo`, keys rise strictly, and no entry holds `d`. -/
def SMap.wfFrom {α : Type} [DecidableEq α] (d : α) : Nat → SMap α → Bool
  | _, [] => true
  | lo, (k, v) :: m => decide (lo ≤ k) && decide (v ≠ d) && SMap.wfFrom d (k + 1) m

/-- The canonical form. -/
def SMap.wf {α : Type} [DecidableEq α] (d : α) (m : SMap α) : Bool := SMap.wfFrom d 0 m

/-- Change the value at a key by a function. -/
def SMap.upd {α : Type} [DecidableEq α] (d : α) (m : SMap α) (n : Nat) (f : α → α) : SMap α :=
  SMap.set d m n (f (SMap.get d m n))

end Sys2Proof
end

