-- ==== Sys2Proof/Machine/State.lean ====
section
/-! DEFINITION. Machine/State.lean: everything the manual gives the machine, as plain data, and the state right after a
cold reset. One hart slot's contents are a `Hart`; the hart that acts stands in `State.h`, the others in `State.rest`. -/

namespace Sys2Proof.Machine

/-! ## Reasons a step can stop -/

/-- Faults: the machine stops. -/
inductive Fault where
  /-- Raised by an event that names physical memory outside the map of R135 (a peer request, R40): the manual gives such
  an access no effect. Safe: the part is not said to go on. -/
  | hole (pa : Nat)
deriving DecidableEq, Repr

/-- Refusals: the model gives no meaning. -/
inductive Refusal where
  /-- Raised by an arm of `exec` whose instruction is not modelled. Safe: nothing is claimed of it. -/
  | notModelled (mnemonic : String)
deriving DecidableEq, Repr

/-! ## Small kinds -/

/-- Stream states (R110 Table 4). -/
inductive StreamSt where
  | idle | run | qblock | wait | stopped
deriving DecidableEq, Repr

/-- Validity classes (R185, R192). -/
inductive Vc where
  | valid | uninit | poison | unrestored
deriving DecidableEq, Repr

/-- Launch-table entry states (R83 Table 4). -/
inductive LState where
  | free | waiting | ready | running | closing | killing
deriving DecidableEq, Repr

/-- Why a hart is asked to stop (R96, R97, R100, R315). -/
inductive StopReq where
  | soft      -- soft pre-emption
  | withdraw  -- withdrawal from a tower of a strip farm
  | kill      -- KILLING
  | freeze    -- hard freeze
  | freezeSoft
deriving DecidableEq, Repr

/-- Cached-line states of an L1 (R147); I is absence. -/
inductive L1St where
  | s | e | m
deriving DecidableEq, Repr

/-- Recode job states (R210 Table 8); DONE is removal. -/
inductive RecodeSt where
  | queued | guard | recode | remap | shoot
deriving DecidableEq, Repr

/-! ## Streams -/

/-- The block in a stream's loop buffer (R112, R115): header address, body words, stage count and the stage boundaries
in force, in the order B1, B2, B3. -/
structure Block where
  hdr    : Word
  body   : List (BitVec 32)
  stages : Nat
  bounds : List Nat
  head   : BitVec 32       -- the header word
deriving DecidableEq, Repr

/-- Where a stream stands (R117): at a body word of the present trip, or about to enter the block whose header is at
`hdr` (the transfer was made by the word at `via`, which has read the header word if `head` holds it), or about to reload
its block and go on at the word `w` words after
its header (R120, R266). -/
inductive Pos where
  | word (w : Nat)
  | enter (hdr via : Word) (head : Option (BitVec 32))
  | reload (hdr : Word) (w : Nat)
deriving DecidableEq, Repr

/-- What a stream in WAIT waits for (R110). -/
inductive Wait where
  | none
  /-- CWAIT: counter reference, threshold, destination register, timeout deadline (0: none), scope. -/
  | cwait (ref thr : Word) (dest : Nat) (deadline : Nat)
  /-- CWAIT turned away by a full waiter table: polls once at cycle `at` (R247). -/
  | cwaitFull (ref thr : Word) (dest : Nat) (deadline pollAt : Nat)
  /-- WMARK after its snapshot, waiting for the collective (R278). -/
  | wmark (dest : Nat)
  /-- A leave request (R22). -/
  | leave
  /-- The instruction waits and executes afresh: EXIT, XSTART, VSPILL, VFILL, WMARK before its snapshot (R110). -/
  | retry
  /-- SCALL waiting on CALLHEAD for ring space: registered there, or turned away and testing it at a cycle; it claims again
  when woken (R63, R247, R447). -/
  | space (pollAt : Option Nat)
  /-- A blocking SCALL waiting for its reply: registered at the counter, or turned away and testing it at a cycle (R247,
  R447). -/
  | reply (ref thr : Word) (dest : Nat) (pollAt : Option Nat)
deriving DecidableEq, Repr

/-- One stream of a hart (R108). -/
structure Stream where
  st       : StreamSt
  blk      : Block
  filled   : Bool          -- the buffer may be re-entered without reading memory (R347)
  pos      : Pos
  n        : Nat           -- trip count N (R114)
  k        : Nat           -- StartIteration (R117)
  trip     : Nat
  last     : Nat
  regs     : SMap Word     -- x1 to x63; x0 is hard-wired (R319)
  vl       : BitVec 13     -- the stream's copy (R322)
  vfmt     : BitVec 5
  wait     : Wait
  begun    : Bool          -- the instruction in WAIT has begun (R261 ANOTBEGUN is its complement)
  stBefore : StreamSt      -- state before the stop, while STOPPED (R257)
  stepPast : Bool          -- the next word neither hits nor acts as a breakpoint (R317)
  tried    : Bool          -- the word waits in RUN, past the pre-emption test of its trip (R117, R292)
deriving DecidableEq, Repr

/-! ## Vector state -/

/-- A vector register or the register part of a queue entry: data, tag and scale sidecar (R191). An unlisted scale
is 127. -/
structure VReg where
  data   : VData
  fmt    : BitVec 5
  vc     : Vc
  hrot   : BitVec 2
  scales : SMap Byte
deriving DecidableEq, Repr

/-- A data-queue entry (R122, R124): pending until its data arrive; `flags` join xflags when the first X instruction
that pops or peeks it is admitted (R183, R205). While it is pending, `fmt` is the format that it takes if it becomes POISON
(R479). -/
structure QEntry where
  reg     : VReg
  pending : Bool
  flags   : BitVec 6
  fmt     : BitVec 5
deriving DecidableEq, Repr

/-- A data queue (R123). `popped` entries at the head have been taken by X instructions that have not retired, and the
last `unseen` entries were pushed by such instructions (R126). The tail is head plus the number of entries. -/
structure DQueue where
  head    : BitVec 32
  entries : List QEntry
  popped  : Nat
  unseen  : Nat
deriving DecidableEq, Repr

/-- A scalar queue, qx or qa (R122, R123). -/
structure SQueue where
  head    : BitVec 32
  entries : List Word
  popped  : Nat
  unseen  : Nat
deriving DecidableEq, Repr

/-- A tile (R418): cells row-major at row times 128 plus column, an unlisted cell being 0. -/
structure Tile where
  cells : SMap (BitVec 32)
  int   : Bool             -- FMT INT32, else FP32
  vc    : Vc
  trot  : BitVec 2
deriving DecidableEq, Repr

/-- A vector or matrix instruction of the X-stream that has issued (R127): what it reads at issue (R388, R420) and the
loop position it enters the VIQ with (R344). -/
structure XOp where
  instr  : Instr
  vl     : BitVec 13
  vfmt   : BitVec 5
  rm     : BitVec 3
  sa     : Word            -- the scalar register operands, read at issue
  sb     : Word
  blk    : Block
  w      : Nat
  n      : Nat
  k      : Nat
  trip   : Nat
  last   : Nat
  regs   : SMap Word       -- the history buffer's old values, as a whole file (R129)
  ovl    : BitVec 13
  ovfmt  : BitVec 5
deriving DecidableEq, Repr

/-- An X-stream instruction that has not retired, in program order (R126): a vector or matrix instruction, or a scalar
one (`op` none) with queue effects. `pops` and `pushes` count entries by queue 0 to 9 (8 qx, 9 qa). -/
structure XEntry where
  op       : Option XOp
  admitted : Bool
  scalars  : List Nat      -- history-buffer entries of scalar instructions since, by the register written, 0 for none (R129)
  pops     : List (Nat × Nat)
  pushes   : List (Nat × Nat)
deriving DecidableEq, Repr

/-! ## Memory instructions in flight -/

/-- A translated address: its leaf, its level, its physical address in the map, and the place it names (R135, R136). -/
structure Xlat where
  leaf  : Nat
  level : Nat
  ppa   : Nat
  pa    : Nat
deriving DecidableEq, Repr

/-- Forms of a vector load (R374, R376). -/
inductive LoadForm where
  | unit | strided | explicit (f : BitVec 5) | gather
deriving DecidableEq, Repr

/-- What the lines of a vector load gave (R205, R365, R376): the entry with its flags, the elements delivered, and the check
that failed, with its cause code, walk level and tval. -/
structure Arrival where
  reg   : VReg
  flags : BitVec 6
  n     : Nat
  fail  : Option (Nat × Nat × Word)
deriving DecidableEq, Repr

/-- An issued vector load that is not confirmed: its tag checks, or those of an older one, have not passed (R365). -/
structure PLoad where
  instr  : Instr
  queue  : Nat
  seq    : BitVec 32
  form   : LoadForm
  ff     : Bool
  ew     : Nat             -- element bits
  n      : Nat
  base   : Word
  stride : Word
  index  : Option VReg     -- the popped index entry
  mask   : MaskBits
  vfmt   : BitVec 5
  els    : List (Nat × Nat × Xlat)  -- elements with address in bits and translation, as they passed at issue (R374)
  got    : Option Arrival  -- its lines have arrived while an older load is unconfirmed (R124)
  -- the position and the kept registers of R365
  blk    : Block
  w      : Nat
  tn     : Nat
  k      : Nat
  trip   : Nat
  last   : Nat
  regs   : SMap Word
  kept   : Nat             -- register writes kept since
deriving DecidableEq, Repr

/-- An issued store, scatter or TAGW that is not resolved (R256). -/
structure PStore where
  kind    : Nat            -- TYPE of R258
  base    : Word
  pc      : Word
  data    : Word           -- scalar data, or the stride
  ew      : Nat            -- element bits
  n       : Nat
  src     : Option VReg
  index   : Option VReg
  mask    : MaskBits
  seq     : Nat
  strip   : Word
  past    : Nat            -- A-stream instructions issued since (R256)
  rm      : BitVec 3       -- xrm at issue: the rounding mode of its conversions (R206)
deriving DecidableEq, Repr

/-- A store-fault record of the SFRQ (R258 Table 2, R259). -/
structure SfRec where
  st      : PStore
  faultVa : Word
  cause   : Nat
  level   : Nat
  nunw    : Nat
  undone  : Nat            -- bit i: element i was not performed
deriving DecidableEq, Repr

/-! ## Harts -/

/-- One hart slot that holds a task, or a service hart (R104, R108, R318, R320). -/
structure Hart where
  id       : HartId
  joined   : Bool
  service  : Bool          -- a hart of core 64 (R15)
  launch   : Option Nat    -- launch-table index of the task
  gen      : Nat           -- generation of that launch (R82)
  tn       : Nat           -- task number (R88)
  since    : Nat           -- cycle of dispatch or resumption (R99)
  priv     : Bool          -- S mode
  asid     : BitVec 16
  csa      : Word
  lsplit   : BitVec 4
  req      : Option StopReq
  reqAt    : Nat           -- cycle of that request (R97, R100)
  wdraw    : Bool          -- a withdrawal request has reached the task (R96, R354)
  parking  : Nat           -- KIND of the stop whose save is in progress, 0 none (R268)
  a        : Stream
  x        : Stream
  -- vector, mask, tile and queue storage
  v        : SMap VReg
  m        : SMap MaskBits
  tiles    : SMap Tile
  mkW      : BitVec 3
  mkLV     : Bool
  tdirty   : BitVec 4
  dq       : SMap DQueue
  qx       : SQueue
  qa       : SQueue
  xl       : List XEntry   -- X-stream instructions not retired, oldest first
  -- A-stream memory in flight
  loads    : List PLoad    -- unconfirmed vector loads, oldest first
  stores   : List PStore   -- unresolved stores, oldest first
  storeSeq : Nat           -- stores issued since dispatch (R258 SEQ)
  sfrq     : List SfRec
  refill   : Option (Nat × BitVec 32 × Option VReg) -- reserved entry that the load at APC refills (R254)
  aprog    : Nat           -- VSPILL, VFILL progress (R269)
  strip    : Word          -- most recent STRIP result, or -1 (R261)
  -- local store
  sp       : List Host.Cell  -- the hart's scratchpad share, an unlisted byte being 0 (R143)
  spTag    : SMap (BitVec 32)
  spDef    : BitVec 32       -- the tag of an unlisted scratchpad line
  -- context state
  pt       : BitVec 8192     -- promotion table, entry k at bits [8k+7:8k] (R198)
  rm       : BitVec 3
  lfsr     : BitVec 32
  xflags   : BitVec 6
  xtrapen  : BitVec 3
  tvec     : Word
  tcause   : Word
  tval     : Word
  th       : Bool
  acause   : Word            -- cause words and values for the stop record (R261)
  atval    : Word
  xcause   : Word
  xtval    : Word
  sfrqcnt  : BitVec 5
  win      : BitVec 32
  ulogbase : Word
  ulogsize : Word
  hold     : Bool            -- ulogmode.MODE
  svEn     : Bool
  svuse    : Word
  svmask   : Word
  svbvl    : Word
  svstart  : Word
  svstall  : Word
  svcyc    : Word
  svmcyc   : Word
  svFirst  : Bool            -- no V-port admission since dispatch or resumption (R311)
  lanes    : List (Nat × Nat × Nat) -- lane slots of admitted V-port walks still to count: USEFUL, MASKED, BEYOND_VL
  mbusy    : Nat             -- cycles of admitted matrix instructions still to count (R431)
  tenidx   : BitVec 7
  peeridx  : BitVec 10
  keyidx   : BitVec 7
  cgidx    : BitVec 11
  cfgoff   : BitVec 15
  slseq    : SMap (BitVec 32)  -- commands issued to each Sluice queue
  panseq   : BitVec 32
  rcseq    : BitVec 32
deriving DecidableEq, Repr

/-! ## Launch Unit and undo log -/

/-- The launch record (R78 Table 1). -/
structure LaunchRec where
  aentry  : Word
  argptr  : Word
  xoff    : BitVec 32
  strips  : BitVec 32
  minh    : Nat
  maxh    : Nat
  mint    : Nat
  maxt    : Nat
  affin   : BitVec 8
  tenant  : Nat
  prio    : Nat
  split   : Bool
  gang    : Bool
  tiles   : Nat
  lsplit  : Nat
  cvalid  : BitVec 4
  claim   : Word
  done    : Word
  logsize : Nat
  logmode : Bool
  csa     : Word
  asid    : BitVec 16
  logbase : Word
  conds   : List (Word × Word)  -- handle and threshold of conditions 0 to 3
deriving DecidableEq, Repr

/-- The undo-log controller of a context (R272, R273, R281). -/
structure LogCtl where
  head   : Nat              -- byte offsets in the region
  tail   : Nat
  hzn    : BitVec 32
  win    : BitVec 32
  exitw  : BitVec 32
  used   : Nat              -- ring units in use
  recs   : List (Nat × Nat × Nat × Nat) -- kept records, oldest first: offset, TYPE (6: reclaimed space), WIN, units
  off    : Bool             -- writes make no record until the next collective (R283, R285)
  arrived : List Nat        -- tasks that have appended their SNAP for WIN + 1 (R278)
  lost   : Bool             -- a SNAP of the collective in progress was discarded (R285)
  small  : Bool             -- the whole ring has no room for a SNAP of the collective in progress (R285)
  snapAt : List (Nat × BitVec 32 × Nat) -- task, window and offset of each kept SNAP (R276)
  heads  : SMap Nat         -- by offset, the first 64 bytes of each record as the controller wrote them (R8)
deriving DecidableEq, Repr

/-- A parked task (R268, R101): its state stands in its context save area. -/
structure Parked where
  tn    : Nat
  since : Nat
  group : Nat   -- the lane group it left
  seq   : Nat   -- stores issued since dispatch (R258 SEQ)
  wdrawn : Bool -- parked by a withdrawal: it resumes on a tower that its farm still holds (R96)
  stepA  : Bool -- the first word that the A-stream issues steps past a breakpoint (R317)
  stepX  : Bool -- the same of the X-stream
  hold   : Bool -- its ulogmode.MODE (R273, R284)
deriving DecidableEq, Repr

/-- A launch-table entry (R82, R83, R95, R99). -/
structure LEntry where
  state   : LState
  gen     : BitVec 20
  recd    : LaunchRec
  order   : Nat             -- acceptance order
  sat     : BitVec 4        -- start conditions satisfied
  refused : BitVec 4        -- start conditions that their check has refused (R241)
  base    : Word            -- claim counter at the first placement
  readyAt : Nat
  parked  : List Parked
  frozen  : Bool
  towers  : List Nat        -- towers whose withdrawal is under way (R96)
  pages   : SMap (Option (Nat × Nat))  -- held translations: VA page to frame address and key (R80)
  undo    : LogCtl
  rw      : Option (Nat × Bool × Option (Nat × Word)) -- rewind in progress: target, forced, calling task and its REPLY (R286)
  reserve : List (HartId × Bool)  -- slots reserved for this launch, and whether their task was a joined one (R99)
deriving DecidableEq, Repr

/-! ## Memory, translation, counters -/

/-- A check field (R187): the one that the present bytes and tag have under version `ver` of key `k`, whose value is
`val`; or a stored value of its own. -/
inductive Check where
  | fresh (k ver : Nat) (val : BitVec 128)
  | raw (c : BitVec 32)
deriving DecidableEq, Repr

/-- The sideband of a line (R185, R186). -/
structure Side where
  tag : BitVec 32
  chk : Check
deriving DecidableEq, Repr

/-- What the home's directory, L2 or snoop filter holds of a line (R147 to R150, R190, R281). -/
structure Dir where
  l1    : List (Nat × Nat × L1St)   -- tower, core, state
  rdc   : List Nat
  l2    : Bool
  dirty : Bool
  key   : Nat
  mark  : Option (Nat × Bool)       -- launch-table index and window parity
deriving DecidableEq, Repr

/-- A cached translation (R160): `core` none is the tower's L2 TLB. -/
structure TlbEntry where
  tower : Nat
  core  : Option Nat
  asid  : Nat
  level : Nat
  vbase : Nat
  leaf  : Nat
  peer  : Word             -- the PEERMAP entry it uses, if its frame is peer memory (R323)
deriving DecidableEq, Repr

/-- A page-walk cache entry (R160): the pointer read at a level for a prefix of the address. -/
structure PwcEntry where
  tower : Nat
  asid  : Nat
  level : Nat
  idx   : Nat
  entry : Nat
deriving DecidableEq, Repr

/-- A write guard of a recode job on one page (R210): the job, the page under its ASID, the frames that the page has and takes
with their sizes, and the first command number issued after it was set. -/
structure Guard where
  cmd   : Nat
  asid  : Nat
  page  : Nat
  old   : Nat
  oldN  : Nat
  new   : Nat
  newN  : Nat
  since : Nat
deriving DecidableEq, Repr

/-- A TLBI whose completion add is outstanding (R163, R449). -/
structure PTlbi where
  h    : HartId
  priv : Bool
  asid : BitVec 16
  ref  : Word
  launch : Option Nat      -- the issuer's launch
  owner : Option (Nat × Nat)  -- the task that owns a near completion counter, resolved at issue (R240)
  cmds : List Nat          -- engine commands that still hold a removed translation pinned (R164)
  loads : List (HartId × Nat × BitVec 32)  -- vector loads, by hart, queue and entry, that issued with one (R163)
deriving DecidableEq, Repr

/-- A slot in a tower's counter cache (R238, R281). -/
structure CcEntry where
  value : Word
  mark  : Option (Nat × Bool)
deriving DecidableEq, Repr

/-- A waiter-table entry (R244). -/
structure Waiter where
  key     : Nat            -- tower times 2^20 plus slot
  thr     : Word
  who     : WaiterId
  arrival : Nat
deriving DecidableEq, Repr

/-- A wait of this part registered at a peer's home, or one that such a home has turned away and that polls it
(R40, R246, R247). -/
structure RemoteWait where
  token  : Nat
  who    : WaiterId
  handle : Word
  thr    : Word
  polls  : Bool
deriving DecidableEq, Repr

/-! ## Engines -/

/-- A shape dimension (R294). -/
structure Dim where
  ext  : Nat
  sstr : Int
  dstr : Int
deriving DecidableEq, Repr

/-- A shape record (R294 Table 2). -/
structure ShapeRec where
  sbase  : Word
  dbase  : Word
  prog   : Word
  append : Bool
  qmode  : Nat
  hopt   : BitVec 2
  stopErr : Bool
  sfmt   : BitVec 5
  dfmt   : BitVec 5
  scale  : Byte
  pgran  : Nat
  pscope : Nat
  dims   : List Dim
deriving DecidableEq, Repr

/-- A pan command record (R301 Table 3). -/
structure PanRec where
  opc  : Nat
  mom  : Bool
  acc  : Bool
  ofmt : BitVec 5
  n    : Nat
  kk   : Nat
  w    : Word
  x    : Word
  y    : Word
  done : Word
  p0   : BitVec 32
  p1   : BitVec 32
  p2   : BitVec 32
deriving DecidableEq, Repr

/-- A recode job record with its page list (R307 Table 4): page address and destination frame of each page. -/
structure RecodeRec where
  asid  : BitVec 16
  tfmt  : BitVec 5
  tcr   : Nat
  tdpol : Bool
  rot   : BitVec 2
  done  : Word
  pages : List (Nat × Nat)
deriving DecidableEq, Repr

inductive CmdBody where
  | sluice (r : ShapeRec)
  | pan (r : PanRec)
  | recode (r : RecodeRec) (st : RecodeSt) (leaves : List Nat)
deriving DecidableEq, Repr

/-- An outstanding engine command (R292, R293). Near references are resolved at issue to a task (R240). -/
structure Cmd where
  id      : Nat
  body    : CmdBody
  h       : HartId
  launch  : Option Nat
  tn      : Nat
  priv    : Bool
  asid    : BitVec 16
  queue   : Nat
  seq     : BitVec 32
  scope   : Nat
  pins    : SMap (Nat × Nat × Word)  -- pinned VA pages: leaf, level and PEERMAP entry
  owner   : Option (Nat × Nat) -- task that owns a near completion counter: launch, task
  asks    : Bool               -- its leave is asked for; the command has taken its slot and has not issued (R22, R292)
  started : Bool
  ended   : Bool               -- the lines are done; the end add is due
  done    : Nat                -- lines delivered or completed
  added   : Nat                -- lines covered by adds made
  spoilt  : Nat                -- output lines of a pan command written POISON, which are not completed (R306)
  unit    : Nat                -- tower, or stack for a pan command
deriving DecidableEq, Repr

/-! ## Governors, survey, debug -/

/-- A leave granted or asked for (R21): the hart or command it belongs to, its charge in units of
0.125 W and its pool. -/
structure Leave where
  who    : Sum HartId Nat
  charge : Nat
  mem    : Bool
deriving DecidableEq, Repr

/-- A tower's governor (R20 to R26). `allow` is the thermal allowance in sixteenths. -/
structure Gov where
  held    : List Leave
  asked   : List Leave
  allow   : Nat
  mduty   : Nat
  sduty   : Nat
  temp    : Nat
  throt   : Bool
  tcrit   : Bool
  hot     : Bool     -- 105 °C was reached and 100 °C has not been left since (R20)
deriving DecidableEq, Repr

/-- A tower's survey buffer (R312, R313); records are kept newest first, at most 65,536. -/
structure SBuf where
  arm   : Bool
  trigd : Bool
  core  : BitVec 7
  sel   : BitVec 2
  trig  : BitVec 3
  post  : BitVec 16
  pc    : Word
  dest  : Word
  done  : Word
  left  : Nat               -- cycles still to record after the trigger
  full  : Bool              -- recording has stopped, the dump is due or in progress
  dumped : Bool
  recs  : List (BitVec 128)
  cur   : BitVec 128        -- what the recorded core has done in the present cycle
deriving DecidableEq, Repr

/-- The debug unit (R314 Table 4). -/
structure Dbg where
  bpc    : SMap Word
  bpa    : SMap Word
  cmd    : BitVec 4
  force  : Bool
  lh     : BitVec 32
  arg    : BitVec 32
  done   : Word
  status : BitVec 16
  res0   : BitVec 32
  res1   : BitVec 16
  frzLH  : BitVec 32
  frzWho : BitVec 32
deriving DecidableEq, Repr

/-! ## Host interface -/

/-- A host port (R27, R28). -/
structure HostPort where
  up      : Bool
  trained : Bool   -- has trained since reset (R42)
  lanes   : Nat
  rate    : Nat
  cxl     : Bool
deriving DecidableEq, Repr

/-- ZLSTAT of a link with the receiver's count of failures of the present flit (R38, R39 Table 6). -/
structure ZLink where
  up       : Bool
  width    : BitVec 4
  fatal    : Bool
  misroute : Bool
  misrouted : Nat          -- messages for another node dropped (R39)
  replays  : BitVec 16
  peer     : BitVec 12
  peerPort : BitVec 5
  fails    : Nat
deriving DecidableEq, Repr

/-- The algorithms that SPDM answers name (R50). -/
inductive SpdmAlg where
  | ecdsaP384 | sha384
deriving DecidableEq, Repr

/-- An SPDM answer of the ROM monitor (R50). -/
inductive SpdmResp where
  | version (major minor : Nat)
  | capabilities (flags : BitVec 32)
  | algorithms (asym hash : List SpdmAlg)
  | digests (slots : List Nat) (digest : BitVec 384)
  | certificate (slot : Nat) (bytes : List Byte)
  | challengeAuth (slot : Nat) (signature : BitVec 768)
  | measurementCount (n : Nat)
  | measurements (slots : List (Nat × BitVec 512))  -- measurement index and MSLOT contents
  | invalidRequest
  | unsupportedRequest
deriving DecidableEq, Repr

/-- What the part sends out of the package, newest first: the wires of the host ports and links. -/
inductive OutMsg where
  | msix (host : HostId) (vector : Nat)
  | unsupported (host : HostId)                               -- Unsupported Request completion (R44)
  | readData (host : HostId) (data : List Byte) (poison : Bool)
  | hostValue (host : HostId) (v : Word)
  | spdm (host : HostId) (r : SpdmResp)
  | viral (host : HostId)
  | containment (link : Nat)
  | replay (link : Nat)
  | peerReply (node : Nat) (ok : Bool) (v : BitVec 512) (tag : BitVec 32)
  | peerWake (node token : Nat) (v : Word)
  | peerFull (node token : Nat)                               -- FULL (R247)
  | peerReq (link node : Nat) (req : PeerReq)                 -- a request of this part (R39, R40)
deriving DecidableEq, Repr

/-- A host access that waits behind a MEMWIN write which a write guard stalls (R55, R212). -/
inductive HostIn where
  | write (host : HostId) (off : Nat) (data : List Byte) (poison : Bool)
  | read (host : HostId) (off n : Nat)
  | atomic (host : HostId) (off : Nat) (op : HostAtomic) (wide : Bool) (operand expected : Word)
  | add (host : HostId) (slot : Nat) (v : Word)
deriving DecidableEq, Repr

/-- The host that made an access. -/
def HostIn.host : HostIn → HostId
  | .write h _ _ _ | .read h _ _ | .atomic h _ _ _ _ _ | .add h _ _ => h

/-- A call taken by a service hart and forwarded to the host (R65). -/
structure FwdCall where
  m      : Nat
  tower  : Nat
  record : BitVec 512
  owner  : Nat × Nat × Nat   -- the task that called: launch, generation, task
deriving DecidableEq, Repr

/-- CFGWIN and the state behind it (R45, R48, R51, R57, R66, R70). -/
structure Cfg where
  phase    : BitVec 4
  failcode : Byte
  step     : Nat            -- boot step in progress, 1 to 6
  period   : BitVec 14
  active   : BitVec 2
  claimed  : Bool
  epoch    : BitVec 32
  leaseEnd : Nat            -- cycle at which the lease expires
  cont     : Bool
  ccause   : BitVec 4
  cindex   : BitVec 5
  preserved : Bool
  more     : BitVec 16
  prcount  : BitVec 32
  pwrcap   : BitVec 6
  fwKind   : BitVec 2
  fwState  : BitVec 3
  fwStaged : BitVec 2       -- KIND of the image staged last
  fwarea   : BitVec 12
  fwpoint  : SMap Word
  fwready  : Bool
  drained  : Bool           -- the drain of a switch has ended
  drainAt  : Nat            -- cycle at which it ended
  rqbase   : BitVec 24      -- PA[39:16]
  rqent    : BitVec 17
  hfbase   : BitVec 26      -- PA[39:14]
  memkey   : BitVec 7
  mslot    : SMap (BitVec 512)
  znode    : BitVec 12
  zroute   : SMap (BitVec 18)
  zlink    : SMap ZLink
  errlog   : SMap (BitVec 256)
  errN     : Nat            -- entries written since cold reset (R61)
  served   : Bool           -- MSLOT 2 to 4 name images that are in service (R69)
  hcw      : SMap Word      -- HANDLE of the host counter window slots
  ivt      : SMap (BitVec 128) -- interrupt waiter entries
  irqPend  : List Nat       -- vectors pending while no host is active
  port     : SMap HostPort  -- host ports 0 and 1
  members  : List Nat       -- ports of the CXL interleave set
  cxlSize  : Nat            -- bytes of CXL-local memory
  cxlMeta  : SMap Nat       -- tag carriage of each port: 0 EMD64, 1 EMD32, 2 SHADOW
  callring : SMap (BitVec 512) -- call record of tower t, slot k at 256 t + k
  callOwner : SMap (Nat × Nat × Nat) -- task that published a call record: launch + 1, generation, task
  fwd      : List FwdCall
  unreach  : List Nat       -- nodes that have sent a containment message
  coldN    : Nat            -- cold resets made, numbering the key draws
deriving DecidableEq, Repr

/-! ## Moves -/

/-- A move of the part: what a step may do when no event is due. -/
inductive Act where
  | boot
  | clock
  | lease
  | freezeEnd
  | brk (n : Nat)
  | poll (h : HartId)
  | waitOver (h : HartId)
  | timeout (h : HartId)
  | readyLate
  | ctlError (tower : Nat)
  | trim
  | measured
  | drainOver
  | grant (tower : Nat)
  | dump (tower : Nat)
  | dumped (tower : Nat)
  | call (tower : Nat)
  | request
  | forward
  | tlbi
  | debugUndo
  | hostIn
  | closePage (page : Nat)
  | collective (l : Nat)
  | rewind (l : Nat)
  | engine (id : Nat)
  | arrive (h : HartId)
  | resolve (h : HartId)
  | retire (h : HartId)
  | admission (h : HartId)
  | save (h : HartId)
  | stop (h : HartId)
  | deadlock (h : HartId)
  | issue (h : HartId) (onX : Bool)
deriving DecidableEq, Repr

/-! ## The state -/

/-- The whole machine. -/
structure State where
  cycle   : Nat
  agenda  : List Instr      -- events that are due, next first
  onX     : Bool            -- the X-stream of `h` is the stream that issues
  h       : Hart            -- the hart that acts
  rest    : List Hart       -- the other harts
  modes   : SMap Bool       -- core 65 t + c is SPLIT (R76); unlisted: JOINED
  draws   : Nat             -- free values drawn (the model's own)
  line    : List Act        -- moves that have stood open, longest first (the model's own: R102)
  turns   : Nat             -- choices among open moves since that order last decided one (the model's own: R102)
  -- memory
  mem     : List Host.Cell
  side    : SMap Side       -- by line number (physical address over 64)
  hostPois : SMap Bool      -- host lines sent or left with the poison indication (R30)
  dir     : SMap Dir        -- by line number
  pagebuf : SMap Bool       -- flash pages in a page buffer (R139)
  keys    : SMap (Option (BitVec 128) × Nat)  -- integrity keys written, with a version (R189)
  keylo   : Word            -- the low half for the next keyhi write (R323)
  -- translation
  asidtab : Nat
  tlb     : List TlbEntry
  pwc     : List PwcEntry
  tlbis   : List PTlbi
  peermap : SMap Word
  flapp   : Nat
  guards  : List Guard      -- write guards (R210)
  -- counters
  cc      : SMap (Option CcEntry)  -- counter caches, by tower times 2^20 plus slot; none: not held
  cgroup  : SMap Word       -- counter group entry j of tower t at 256 t + j
  waiters : List Waiter
  arrival : Nat
  pflag   : SMap Bool
  slotPois : SMap Bool      -- slots left POISON (R251)
  ccUse   : SMap Nat        -- cycle of the last use of a held slot (R238)
  remote  : List RemoteWait -- waits registered at peers' homes (R40, R246)
  near    : SMap Word       -- near counter k of core c of tower t at 64 (65 t + c) + k
  -- Launch Unit
  tencfg  : SMap Word
  deficit : SMap Int        -- DEF(tenant, tower) at 128 t + tenant (R92)
  drr     : SMap Nat        -- round-robin pointer of priority p on tower t at 16 t + p: a tenant, plus 128 while it is served
  entries : SMap LEntry
  orders  : Nat
  -- engines
  cmds    : List Cmd
  nextCmd : Nat
  -- governors, survey, debug
  gov     : SMap Gov
  sbuf    : SMap SBuf
  dbg     : Dbg
  -- host interface
  cfg     : Cfg
  ctlErr  : List Nat        -- towers whose control structures have met an uncorrectable error (R70)
  stalledIn : List HostIn   -- accesses of hosts that stand behind a stalled write (R55, R212)
  hostReads : List (HostId × Nat × Nat)  -- CFGWIN reads of hosts, next first: offset and size (R44)
  out     : List OutMsg
deriving DecidableEq, Repr

/-! ## Values at reset -/

/-- The tag every HBM4E line holds after a cold reset: VC UNINIT, all else 0 (R185). -/
def resetTag : BitVec 32 := 0x20#32

/-- The sideband of a line that nothing has written: the reset tag and its check field under key 0 (R481). -/
def Side.reset : Side := ⟨resetTag, .fresh 0 0 0#128⟩

/-- A line that no cache holds. -/
def Dir.none : Dir := ⟨[], [], false, false, 0, Option.none⟩

/-- A register, queue entry or tile row at dispatch: FP32, UNINIT, zero elements, HROT 00, scales 127 (R191). -/
def VReg.reset : VReg := ⟨0, 0x08#5, .uninit, 0, []⟩

/-- An empty queue (R123). -/
def DQueue.reset : DQueue := ⟨0, [], 0, 0⟩
def SQueue.reset : SQueue := ⟨0, [], 0, 0⟩

/-- A tile at dispatch (R418). -/
def Tile.reset : Tile := ⟨[], false, .uninit, 0⟩

/-- No block in the loop buffer. -/
def Block.none : Block := ⟨0, [], 1, [], 0⟩

/-- A stream that has not started (R110, R322: vl 0; vfmt 0x08). -/
def Stream.reset : Stream :=
  ⟨.idle, .none, false, .word 0, 0, 0, 0, 0, [], 0, 0x08#5, .none, false, .idle, false, false⟩

/-- The 19 defined formats in the order of Table 7 (R165, R200). -/
def formatOrder : List Nat :=
  [0x01, 0x02, 0x03, 0x04, 0x05, 0x06, 0x08, 0x09, 0x0A, 0x0B, 0x0C, 0x0D, 0x0E, 0x11, 0x16, 0x1B, 0x1C, 0x1D, 0x1E]

/-- The default promotion table, row by row in the order of `formatOrder`: result codes, 0 for a forbidden pair
(R200 Table 7). -/
def defaultRows : List (List Nat) :=
  [[0x01,0x03,0x03,0x04,0x05,0x01,0x08,0x08,0x0A,0x0A,0x0A,0x0A,0x0A,0x11,0x11,0x0A,0x0A,0x0A,0x0A],
   [0x03,0x02,0x03,0x04,0x05,0x03,0x08,0x08,0x0A,0x0A,0x0A,0x0A,0x0A,0,0,0x0A,0x0A,0x0A,0x0A],
   [0x03,0x03,0x03,0x04,0x05,0x03,0x08,0x08,0x08,0x08,0x08,0x08,0x08,0,0,0x08,0x08,0x08,0x08],
   [0x04,0x04,0x04,0x04,0x05,0x04,0,0,0,0,0,0,0,0,0,0,0,0,0],
   [0x05,0x05,0x05,0x05,0x05,0x05,0,0,0,0,0,0,0,0,0,0,0,0,0],
   [0x01,0x03,0x03,0x04,0x05,0x06,0x08,0x08,0x0A,0x0A,0x0A,0x0A,0x0A,0x11,0x16,0x0A,0x0A,0x0A,0x0A],
   [0x08,0x08,0x08,0,0,0x08,0x08,0x08,0x08,0x08,0x08,0x08,0x08,0x08,0x08,0x08,0x08,0x08,0x08],
   [0x08,0x08,0x08,0,0,0x08,0x08,0x09,0x08,0x08,0x08,0x08,0x08,0x08,0x08,0x08,0x08,0x08,0x08]] ++
  [[0x0A,0x0A,0x08,0,0,0x0A,0x08,0x08,0x0A,0x0A,0x0A,0x0A,0x0A,0x0A,0x0A,0x0A,0x0A,0x0A,0x0A],
   [0x0A,0x0A,0x08,0,0,0x0A,0x08,0x08,0x0A,0x0B,0x0A,0x0B,0x0A,0x0A,0x0A,0x1B,0x0A,0x1B,0x0A],
   [0x0A,0x0A,0x08,0,0,0x0A,0x08,0x08,0x0A,0x0A,0x0C,0x0A,0x0A,0x0A,0x0A,0x0A,0x1C,0x0A,0x0A],
   [0x0A,0x0A,0x08,0,0,0x0A,0x08,0x08,0x0A,0x0B,0x0A,0x0D,0x0A,0x0A,0x0A,0x1B,0x0A,0x1D,0x0A],
   [0x0A,0x0A,0x08,0,0,0x0A,0x08,0x08,0x0A,0x0A,0x0A,0x0A,0x0E,0,0,0,0,0,0x1E],
   [0x11,0,0,0,0,0x11,0x08,0x08,0x0A,0x0A,0x0A,0x0A,0,0x11,0x11,0x0A,0x0A,0x0A,0x0A]] ++
  [[0x11,0,0,0,0,0x16,0x08,0x08,0x0A,0x0A,0x0A,0x0A,0,0x11,0x16,0x0A,0x0A,0x0A,0x0A],
   [0x0A,0x0A,0x08,0,0,0x0A,0x08,0x08,0x0A,0x1B,0x0A,0x1B,0,0x0A,0x0A,0x1B,0x0A,0x1B,0x0A],
   [0x0A,0x0A,0x08,0,0,0x0A,0x08,0x08,0x0A,0x0A,0x1C,0x0A,0,0x0A,0x0A,0x0A,0x1C,0x0A,0x0A],
   [0x0A,0x0A,0x08,0,0,0x0A,0x08,0x08,0x0A,0x1B,0x0A,0x1D,0,0x0A,0x0A,0x1B,0x0A,0x1D,0x0A],
   [0x0A,0x0A,0x08,0,0,0x0A,0x08,0x08,0x0A,0x0A,0x0A,0x0A,0x1E,0x0A,0x0A,0x0A,0x0A,0x0A,0x1E]]

/-- One row of the default table placed at its bytes: entry (a, b) at byte 32 a + b holds 0x20 plus the result
(R198, R200). -/
def ptRow (a : Nat) (cols : List Nat) (codes : List Nat) : Nat :=
  match cols, codes with
  | b :: cols, c :: codes => (if c = 0 then 0 else (0x20 + c) <<< (8 * (32 * a + b))) + ptRow a cols codes
  | _, _ => 0

def ptRows : List Nat → List (List Nat) → Nat
  | a :: as, r :: rs => ptRow a formatOrder r + ptRows as rs
  | _, _ => 0

/-- The default promotion table (R200). -/
def defaultPt : BitVec 8192 := BitVec.ofNat 8192 (ptRows formatOrder defaultRows)

/-- A hart slot as dispatch and core conversion leave it before the launch's own values (R88, R104, R262, R274, R309). -/
def Hart.blank (id : HartId) (joined : Bool) : Hart where
  id := id
  joined := joined
  service := decide (id.core = 64)
  launch := none
  gen := 0
  tn := 0
  since := 0
  priv := false
  asid := 0
  csa := 0
  lsplit := 0
  req := none
  reqAt := 0
  wdraw := false
  parking := 0
  a := .reset
  x := .reset
  v := []
  m := []
  tiles := []
  mkW := 0
  mkLV := false
  tdirty := 0
  dq := []
  qx := .reset
  qa := .reset
  xl := []
  loads := []
  stores := []
  storeSeq := 0
  sfrq := []
  refill := none
  aprog := 0
  strip := BitVec.allOnes 64
  sp := []
  spTag := []
  spDef := resetTag
  pt := defaultPt
  rm := 0
  lfsr := 1
  xflags := 0
  xtrapen := 0
  tvec := 0
  tcause := 0
  tval := 0
  th := false
  acause := 0
  atval := 0
  xcause := 0
  xtval := 0
  sfrqcnt := 0
  win := 0
  ulogbase := 0
  ulogsize := 0
  hold := false
  svEn := true
  svuse := 0
  svmask := 0
  svbvl := 0
  svstart := 0
  svstall := 0
  svcyc := 0
  svmcyc := 0
  svFirst := true
  lanes := []
  mbusy := 0
  tenidx := 0
  peeridx := 0
  keyidx := 0
  cgidx := 0
  cfgoff := 0
  slseq := []
  panseq := 0
  rcseq := 0

/-- A service hart, held until boot starts it: S mode, a hart of core 64 (R15, R47). -/
def Hart.serviceAt (tower group : Nat) : Hart :=
  { Hart.blank ⟨tower, 64, group⟩ false with priv := true }

/-- The 32 service harts less the ROM monitor (R15, R47). -/
def serviceHarts : List Hart :=
  [0, 1, 2, 3, 4, 5, 6, 7].flatMap fun t =>
    ([0, 1, 2, 3].filter fun g => !(t == 0 && g == 0)).map fun g => Hart.serviceAt t g

/-- No launch record. -/
def LaunchRec.none : LaunchRec :=
  ⟨0, 0, 0, 0, 0, 0, 0, 0, 0, 0, 0, false, false, 0, 0, 0, 0, 0, 0, false, 0, 0, 0, []⟩

/-- A log controller at acceptance: an empty ring, horizon 1, window 0, no exit record (R274, R275). -/
def LogCtl.init : LogCtl := ⟨128, 128, 1, 0, 0xFFFFFFFF#32, 0, [], false, [], false, false, [], []⟩

/-- A FREE entry whose generation is 0 (R87). -/
def LEntry.reset : LEntry :=
  ⟨.free, 0, .none, 0, 0, 0, 0, 0, [], false, [], [], .init, none, []⟩

/-- A governor with nothing granted (R26). -/
def Gov.reset : Gov := ⟨[], [], 16, 256, 256, 0, false, false, false⟩

/-- A survey buffer that is not armed (R312). -/
def SBuf.reset : SBuf := ⟨false, false, 0, 0, 0, 0, 0, 0, 0, 0, false, false, [], 0⟩

/-- The debug unit with no entry in use (R314). -/
def Dbg.reset : Dbg := ⟨[], [], 0, false, 0, 0, 0, 0, 0, 0, 0, 0⟩

/-- A host port that has not trained (R27). -/
def HostPort.reset : HostPort := ⟨false, false, 0, 0, false⟩

/-- A link that has not trained (R39). -/
def ZLink.reset : ZLink := ⟨false, 0, false, false, 0, 0, 0, 0, 0⟩

/-- CFGWIN after a cold reset (R45, R48, R51, R57, R70). -/
def Cfg.reset : Cfg where
  phase := 0
  failcode := 0
  step := 1
  period := 1000
  active := 0
  claimed := false
  epoch := 0
  leaseEnd := 0
  cont := false
  ccause := 0
  cindex := 0
  preserved := false
  more := 0
  prcount := 0
  pwrcap := 32
  fwKind := 0
  fwState := 0
  fwStaged := 0
  fwarea := 0
  fwpoint := []
  fwready := false
  drained := false
  drainAt := 0
  rqbase := 0
  rqent := 64
  hfbase := 0
  memkey := 0
  mslot := []
  znode := 0
  zroute := []
  zlink := []
  errlog := []
  errN := 0
  served := false
  hcw := []
  ivt := []
  irqPend := []
  port := []
  members := []
  cxlSize := 0
  cxlMeta := []
  callring := []
  callOwner := []
  fwd := []
  unreach := []
  coldN := 0

/-- TENCFG as an unlisted tenant reads: QUANTUM 1 (R81). -/
def tencfgReset : Word := 0x100#64

/-- The machine right after a cold reset (R5, R74): the ROM monitor acts, the other service harts are held, no task
exists, every line is UNINIT, CFGWIN holds its reset values and boot stands at step 1 (R47). -/
def State.reset : State where
  cycle := 0
  agenda := []
  onX := false
  h := Hart.serviceAt 0 0
  rest := serviceHarts
  modes := [(64, true), (129, true), (194, true), (259, true), (324, true), (389, true), (454, true), (519, true)]
  draws := 0
  line := []
  turns := 0
  mem := []
  side := []
  hostPois := []
  dir := []
  pagebuf := []
  keys := []
  keylo := 0
  asidtab := 0
  tlb := []
  pwc := []
  tlbis := []
  peermap := []
  flapp := 0x100000000000
  guards := []
  cc := []
  cgroup := []
  waiters := []
  arrival := 0
  pflag := []
  slotPois := []
  ccUse := []
  remote := []
  near := []
  tencfg := [(0, 0x11F#64)]
  deficit := []
  drr := []
  entries := []
  orders := 0
  cmds := []
  nextCmd := 0
  gov := []
  sbuf := []
  dbg := .reset
  cfg := .reset
  ctlErr := []
  stalledIn := []
  hostReads := []
  out := []

end Sys2Proof.Machine
end

