-- ==== Sys2Proof/Machine/Numeric.lean ====
section
/-! DEFINITION. Machine/Numeric.lean: the element formats, the exact values that elements stand for, exact arithmetic on
them, and the single rounding into a format (R165 to R182, R201, R207). -/

namespace Sys2Proof.Machine

/-! ## Formats -/

/-- Every element format or scaled format of Table 1 (R165). -/
def fmtDefined (f : Nat) : Bool :=
  f ≤ 0x06 || (0x08 ≤ f && f ≤ 0x0E) || f == 0x11 || f == 0x16 || (0x1B ≤ f && f ≤ 0x1E)

/-- A block-scaled format (R172 Table 4). -/
def fmtScaled (f : Nat) : Bool := decide (16 ≤ f)

/-- The element format of a format: bit 4 cleared (R165, R392). -/
def elemFmt (f : Nat) : Nat := f % 16

/-- Element bits of a format; RAW counts as bytes (R165 Table 1). -/
def elemSize (f : Nat) : Nat :=
  match f % 16 with
  | 3 => 16 | 4 => 32 | 5 => 64 | 6 => 4 | 8 => 32 | 9 => 16 | 10 => 16 | 13 => 4 | _ => 8

/-- An integer format, scaled or not (R165). -/
def fmtInt (f : Nat) : Bool := decide (1 ≤ f % 16) && decide (f % 16 ≤ 6)

/-- An unscaled integer format. -/
def fmtPlainInt (f : Nat) : Bool := fmtInt f && !fmtScaled f

/-- Elements of format `f` in a register of `bits` bits (R105). -/
def elemsIn (bits f : Nat) : Nat := bits / elemSize f

/-- Register size in bits by core mode (R104). -/
def regBits (joined : Bool) : Nat := if joined then 16384 else 4096

/-- VLMAX of a format (R105). -/
def vlmax (joined : Bool) (f : Nat) : Nat := elemsIn (regBits joined) f

/-- Exponent bits, fraction bits, bias and whether infinities exist (R167 Table 2); none for other formats. -/
def floatParams (f : Nat) : Option (Nat × Nat × Nat × Bool) :=
  match f % 16 with
  | 8 => some (8, 23, 127, true)
  | 9 => some (5, 10, 15, true)
  | 10 => some (8, 7, 127, true)
  | 11 => some (4, 3, 7, false)
  | 12 => some (5, 2, 15, true)
  | 13 => some (2, 1, 1, false)
  | _ => none

/-- The canonical NaN of a floating-point format, or NaR of T8 (R167, R169); none where there is neither. -/
def nanCode (f : Nat) : Option Nat :=
  match f % 16 with
  | 8 => some 0x7FC00000 | 9 => some 0x7E00 | 10 => some 0x7FC0 | 11 => some 0x7F | 12 => some 0x7E | 14 => some 0x80
  | _ => none

/-- Encoding of the largest finite value without its sign (R167, R169). -/
def maxCode (f : Nat) : Nat :=
  match f % 16 with
  | 8 => 0x7F7FFFFF | 9 => 0x7BFF | 10 => 0x7F7F | 11 => 0x7E | 12 => 0x7B | 13 => 7 | _ => 0x7F

/-- Largest finite value of an element format as mantissa and exponent (R167, R170, R201). -/
def maxFinite (f : Nat) : Nat × Int :=
  match f % 16 with
  | 1 => (127, 0) | 2 => (255, 0) | 3 => (32767, 0) | 4 => (2147483647, 0) | 5 => (9223372036854775807, 0)
  | 6 => (7, 0) | 8 => (16777215, 104) | 9 => (2047, 5) | 10 => (255, 120) | 11 => (7, 6) | 12 => (7, 13)
  | 13 => (3, 1) | 14 => (1, 12) | _ => (255, 0)

/-- Least and largest integer of an integer element format (R166). -/
def intRange (f : Nat) : Int × Int :=
  match f % 16 with
  | 1 => (-128, 127) | 3 => (-32768, 32767) | 4 => (-2147483648, 2147483647)
  | 5 => (-9223372036854775808, 9223372036854775807) | 6 => (-8, 7) | _ => (0, 255)

/-! ## Exact values -/

/-- What an element, or the exact result of an operation, stands for. `nan true` is a signalling NaN or the result of an
invalid operation; `divz` is a finite nonzero value divided by zero (R176). A finite value is m times 2^e, and a quotient
or root that is not exact is held with at least 128 further bits whose last is 1, which rounds as the exact one does. -/
inductive Val where
  | nan (nv : Bool)
  | inf (neg : Bool)
  | divz (neg : Bool)
  | fin (neg : Bool) (m : Nat) (e : Int)
deriving DecidableEq, Repr

/-- Positive zero. -/
def Val.zero : Val := .fin false 0 0

/-- An integer as an exact value. -/
def valOfInt (v : Int) : Val := .fin (decide (v < 0)) v.natAbs 0

/-- Whether a value is a NaN or NaR. -/
def valIsNan : Val → Bool
  | .nan _ => true
  | _ => false

/-- Two's complement reading of `w` bits (R342 SignExt). -/
def signExt (w v : Nat) : Int := if v % 2 ^ w < 2 ^ (w - 1) then (v % 2 ^ w : Nat) else (v % 2 ^ w : Nat) - (2 ^ w : Nat)

/-- The bits of an integer modulo 2^w (R342 Trunc). -/
def truncInt (w : Nat) (v : Int) : Nat := (v % (2 ^ w : Nat)).toNat

/-- Length of the run of bits equal to `b` that starts at bit `i` and goes down (R169). -/
def runDown (b : Bool) (v : Nat) : Nat → Nat
  | 0 => if v.testBit 0 == b then 1 else 0
  | i + 1 => if v.testBit (i + 1) == b then 1 + runDown b v i else 0

/-- Value of a T8 code (R169). -/
def t8Value (c : Nat) : Val :=
  let m := c % 128
  if m = 0 then (if c.testBit 7 then .nan false else .zero)
  else
    let one := m.testBit 6
    let r := runDown one m 6
    let k : Int := if one then (r : Int) - 1 else -(r : Int)
    -- bits left after the run and the marker
    let left := 6 - r
    let e : Nat := if 1 ≤ left ∧ r ≤ 6 then (m >>> (left - 1)) % 2 else 0
    let b := left - 1
    let f := m % 2 ^ b
    .fin (c.testBit 7) (2 ^ b + f) (2 * k + e - b)

/-- Value of a floating-point code (R167, R168). -/
def floatValue (eb fb bias : Nat) (infs : Bool) (c : Nat) : Val :=
  let neg := c.testBit (eb + fb)
  let ex := (c >>> fb) % 2 ^ eb
  let f := c % 2 ^ fb
  if infs && ex == 2 ^ eb - 1 then
    if f = 0 then .inf neg else .nan (!f.testBit (fb - 1))
  else if eb == 4 && ex == 15 && f == 7 then .nan false
  else if ex = 0 then .fin neg f (1 - (bias : Int) - fb)
  else .fin neg (2 ^ fb + f) (ex - (bias : Int) - fb)

/-- Value of an element code in its element format, no scale applied (R166 to R170). RAW carries no value: its bytes read
as unsigned (log 10). -/
def elemValue (f c : Nat) : Val :=
  match floatParams f with
  | some (eb, fb, bias, infs) => floatValue eb fb bias infs c
  | none =>
    match f % 16 with
    | 14 => t8Value c
    | 0 => valOfInt (c % 256 : Nat)
    | 2 => valOfInt (c % 256 : Nat)
    | _ => valOfInt (signExt (elemSize f) c)

/-- Multiply a value by 2^k. -/
def valScale (k : Int) : Val → Val
  | .fin n m e => .fin n m (e + k)
  | v => v

/-- Value of an element of a format under a block scale (R172, R173). -/
def codeValue (f c scale : Nat) : Val :=
  if fmtScaled f then
    if scale = 0xFF then .nan false else valScale ((scale : Int) - 127) (elemValue f c)
  else elemValue f c

/-! ## Exact arithmetic (R174, R176, R177) -/

/-- A division by zero acts on as an infinity. -/
def valFix : Val → Val
  | .divz n => .inf n
  | v => v

/-- Bits in a number. -/
def bitLen (n : Nat) : Nat := if n = 0 then 0 else n.log2 + 1

/-- m times 2^e as an integer multiple of 2^q, for q at most e. -/
def liftExp (m : Nat) (e q : Int) : Nat := m <<< (e - q).toNat

/-- Compare the magnitudes m1 2^e1 and m2 2^e2. -/
def cmpMag (m1 : Nat) (e1 : Int) (m2 : Nat) (e2 : Int) : Ordering :=
  if m1 = 0 ∨ m2 = 0 then compare (min m1 1) (min m2 1)
  else
    let l1 := (bitLen m1 : Int) + e1
    let l2 := (bitLen m2 : Int) + e2
    if l1 < l2 then .lt else if l2 < l1 then .gt
    else let q := min e1 e2; compare (liftExp m1 e1 q) (liftExp m2 e2 q)

/-- Exact sum; `rdn` selects the sign of an exact zero difference (R177). -/
def valAdd (rdn : Bool) (a b : Val) : Val :=
  match valFix a, valFix b with
  | .nan x, .nan y => .nan (x || y)
  | .nan x, _ => .nan x
  | _, .nan y => .nan y
  | .inf x, .inf y => if x = y then .inf x else .nan true
  | .inf x, _ => .inf x
  | _, .inf y => .inf y
  | .fin x m e, .fin y n g =>
    if m = 0 ∧ n = 0 then .fin (if x = y then x else rdn) 0 0
    else if m = 0 then .fin y n g
    else if n = 0 then .fin x m e
    else
      let q := min e g
      let u := liftExp m e q
      let v := liftExp n g q
      if x = y then .fin x (u + v) q
      else if u = v then .fin rdn 0 0
      else if v < u then .fin x (u - v) q else .fin y (v - u) q
  | a, _ => a

/-- Negation. -/
def valNeg : Val → Val
  | .inf n => .inf (!n)
  | .divz n => .divz (!n)
  | .fin n m e => .fin (!n) m e
  | v => v

/-- Magnitude. -/
def valAbs : Val → Val
  | .inf _ => .inf false
  | .divz _ => .divz false
  | .fin _ m e => .fin false m e
  | v => v

/-- Exact product. -/
def valMul (a b : Val) : Val :=
  match valFix a, valFix b with
  | .nan x, .nan y => .nan (x || y)
  | .nan x, _ => .nan x
  | _, .nan y => .nan y
  | .inf x, .inf y => .inf (x != y)
  | .inf x, .fin y n _ => if n = 0 then .nan true else .inf (x != y)
  | .fin x m _, .inf y => if m = 0 then .nan true else .inf (x != y)
  | .fin x m e, .fin y n g => .fin (x != y) (m * n) (e + g)
  | a, _ => a

/-- Quotient, with 200 further bits and a last bit of 1 where it is not exact. -/
def valDiv (a b : Val) : Val :=
  match valFix a, valFix b with
  | .nan x, .nan y => .nan (x || y)
  | .nan x, _ => .nan x
  | _, .nan y => .nan y
  | .inf _, .inf _ => .nan true
  | .inf x, .fin y _ _ => .inf (x != y)
  | .fin x _ _, .inf y => .fin (x != y) 0 0
  | .fin x m e, .fin y n g =>
    if n = 0 then (if m = 0 then .nan true else .divz (x != y))
    else if m = 0 then .fin (x != y) 0 0
    else
      let k := bitLen n + 200
      let u := m <<< k
      let q := u / n
      let r := u % n
      .fin (x != y) (2 * q + (if r = 0 then 0 else 1)) (e - g - k - 1)
  | a, _ => a

/-- Integer square root, one result bit at a time from bit `i` down. -/
def isqrtFrom (v : Nat) : Nat → Nat → Nat
  | 0, r => if (r + 1) * (r + 1) ≤ v then r + 1 else r
  | i + 1, r =>
    let t := r + 2 ^ (i + 1)
    isqrtFrom v i (if t * t ≤ v then t else r)

/-- Reciprocal square root (R398). -/
def valRsqrt (a : Val) : Val :=
  match valFix a with
  | .nan x => .nan x
  | .inf n => if n then .nan true else .zero
  | .fin n m e =>
    if m = 0 then .divz n
    else if n then .nan true
    else
      -- an even exponent, then the root of 2^(2k) over the mantissa
      let m2 := if e % 2 = 0 then m else 2 * m
      let e2 := if e % 2 = 0 then e else e - 1
      let k := bitLen m2 + 200
      let u := (1 <<< (2 * k)) / m2
      let r := isqrtFrom u k 0
      .fin false (2 * r + (if r * r * m2 = 1 <<< (2 * k) then 0 else 1)) (-(k : Int) - 1 - e2 / 2)
  | v => v

/-- Comparison of two values that are not NaN; zeros of either sign are equal. -/
def valCmp (a b : Val) : Ordering :=
  match valFix a, valFix b with
  | .inf x, .inf y => if x = y then .eq else if x then .lt else .gt
  | .inf x, _ => if x then .lt else .gt
  | _, .inf y => if y then .gt else .lt
  | .fin x m e, .fin y n g =>
    if m = 0 ∧ n = 0 then .eq
    else if m = 0 then (if y then .gt else .lt)
    else if n = 0 then (if x then .lt else .gt)
    else if x ≠ y then (if x then .lt else .gt)
    else if x then (cmpMag m e n g).swap else cmpMag m e n g
  | _, _ => .eq

/-- Whether a zero or finite value is negative. -/
def valNegative : Val → Bool
  | .fin n _ _ => n
  | .inf n => n
  | .divz n => n
  | .nan _ => false

/-- The smaller or the larger value, -0 below +0; a NaN operand gives NaN (R396, R181). -/
def valMinMax (wantMax : Bool) (a b : Val) : Val :=
  match a, b with
  | .nan x, .nan y => .nan (x || y)
  | .nan x, _ => .nan x
  | _, .nan y => .nan y
  | a, b =>
    match valCmp a b with
    | .lt => if wantMax then b else a
    | .gt => if wantMax then a else b
    | .eq => if valNegative a == wantMax then b else a

/-- The integer that an exact value of an integer format is; 0 for any other value. -/
def valToInt : Val → Int
  | .fin n m e =>
    let v : Int := (liftExp m e (min e 0) : Nat) / (2 ^ (-(min e 0)).toNat : Nat)
    if n then -v else v
  | _ => 0

/-! ## Rounding (R171, R173 to R178) -/

/-- Flag bits of xflags (R182). -/
def flagNX : Nat := 1
def flagUF : Nat := 2
def flagOF : Nat := 4
def flagNV : Nat := 8
def flagSAT : Nat := 16
def flagFMTMIX : Nat := 32

/-- Rounding modes of xrm (R175). -/
def rmRNE : Nat := 0
def rmRTZ : Nat := 1
def rmRUP : Nat := 2
def rmRDN : Nat := 3
def rmSR : Nat := 4

/-- One step of the generator (R178). -/
def lfsrStep (l : BitVec 32) : BitVec 32 :=
  if l.getLsbD 0 then (l >>> 1) ^^^ 0x80200003#32 else l >>> 1

/-- m 2^e over 2^q: the whole part, and the rest over a denominator. -/
def splitAt (m : Nat) (e q : Int) : Nat × Nat × Nat :=
  if q ≤ e then (liftExp m e q, 0, 1)
  else let k := (q - e).toNat; (m >>> k, m % 2 ^ k, 2 ^ k)

/-- Whether the neighbour away from zero is taken: sign, last bit of the whole part, rest, denominator, mode, and the
generator's u (R176, R178). -/
def roundsAway (neg odd : Bool) (rest den rm u : Nat) : Bool :=
  if rest = 0 then false
  else match rm with
    | 0 => decide (den < 2 * rest) || (decide (2 * rest = den) && odd)
    | 2 => !neg
    | 3 => neg
    | 4 => decide (u < (rest <<< 32) / den)
    | _ => false

/-- The sign bit of an element format. -/
def signBit (f : Nat) (neg : Bool) : Nat := if neg then 2 ^ (elemSize f - 1) else 0

/-- The result beyond the largest finite value, by Table 6 of R176; `unscaled` infinities exist only outside scaled
formats (R173). `big` says that rounding to nearest goes to infinity. -/
def overflow (f : Nat) (neg : Bool) (rm : Nat) (big : Bool) : Nat × Nat :=
  match floatParams f with
  | some (eb, fb, _, true) =>
    if fmtScaled f then (signBit f neg + maxCode f, flagSAT + flagNX)
    else
      let toInf := match rm with | 1 => false | 2 => !neg | 3 => neg | _ => big
      (signBit f neg + (if toInf then (2 ^ eb - 1) * 2 ^ fb else maxCode f), flagOF + flagNX)
  | _ => (signBit f neg + maxCode f, flagSAT + flagNX)

/-- Rounding of a nonzero magnitude into a floating-point format (R176, R177). DESIGN CHOICE (log 18): under SR the tininess test uses
the draw of the rounding. -/
def roundFloat (f fb bias : Nat) (neg : Bool) (m : Nat) (e : Int) (rm u : Nat) : Nat × Nat :=
  let emin : Int := 1 - (bias : Int)
  let p : Int := (bitLen m : Int) - 1 + e
  let q : Int := max p emin - fb
  let (w, rest, den) := splitAt m e q
  let up := roundsAway neg (w % 2 == 1) rest den rm u
  let w' := if up then w + 1 else w
  let (mm, me) := maxFinite f
  if cmpMag m e mm me = .gt then
    -- the nearest value with an unbounded exponent is beyond M
    let near := if roundsAway neg (w % 2 == 1) rest den rmRNE 0 then w + 1 else w
    overflow f neg rm (cmpMag near q mm me == .gt)
  else
    let code := (q - (emin - fb)).toNat * 2 ^ fb + w'
    let tiny :=
      decide (p < emin) &&
        (let q2 := p - fb
         let (w2, r2, d2) := splitAt m e q2
         let w2' := if roundsAway neg (w2 % 2 == 1) r2 d2 rm u then w2 + 1 else w2
         decide ((bitLen w2' : Int) - 1 + q2 < emin))
    (signBit f neg + code, if rest = 0 then 0 else if tiny then flagNX + flagUF else flagNX)

/-- Rounding of a nonzero magnitude into T8 on its encoding (R171). -/
def roundT8 (neg : Bool) (m : Nat) (e : Int) (rm u : Nat) : Nat × Nat :=
  let p : Int := (bitLen m : Int) - 1 + e
  if p > 12 ∨ (p = 12 ∧ m ≠ 2 ^ (bitLen m - 1)) then (signBit 14 neg + 0x7F, flagSAT + flagNX)
  else
    let k : Int := p / 2
    let eb : Nat := (p - 2 * k).toNat
    let (regime, len) := if 0 ≤ k then ((2 ^ (k.toNat + 1) - 1) * 2, k.toNat + 2) else (1, (-k).toNat + 1)
    let d := bitLen m - 1
    let str := ((2 * regime + eb) <<< d) + (m - 2 ^ d)
    let total := len + 1 + d
    let (code, rest, den) := if 7 ≤ total then (str >>> (total - 7), str % 2 ^ (total - 7), 2 ^ (total - 7))
      else (str <<< (7 - total), 0, 1)
    let code' := if roundsAway neg (code % 2 == 1) rest den rm u then code + 1 else code
    let nx := if rest = 0 then 0 else flagNX
    if code' > 0x7F then (signBit 14 neg + 0x7F, nx)
    else if code' = 0 then (signBit 14 neg + 1, nx ||| flagUF)
    else (signBit 14 neg + code', nx)

/-- Rounding of a magnitude into an integer format; beyond the range the limit is taken and SAT set alone. In SINT8 and SINT4
the quotient itself is held against the range, in a plain integer format the rounded integer (R173, R176, R392; log 11). -/
def roundInt (f : Nat) (neg : Bool) (m : Nat) (e : Int) (rm u : Nat) : Nat × Nat :=
  let (w, rest, den) := splitAt m e 0
  let limit : Int := if neg then -(intRange f).1 else (intRange f).2
  let beyond := fmtScaled f && decide (rest ≠ 0) && decide ((w : Int) = limit)
  let w' := if beyond || roundsAway neg (w % 2 == 1) rest den rm u then w + 1 else w
  let v : Int := if neg then -(w' : Int) else w'
  let (lo, hi) := intRange f
  if v < lo then (truncInt (elemSize f) lo, flagSAT)
  else if hi < v then (truncInt (elemSize f) hi, flagSAT)
  else (truncInt (elemSize f) v, if rest = 0 then 0 else flagNX)

/-- The limit that an infinity becomes where the format has none (R173, R176). -/
def limitCode (f : Nat) (neg : Bool) : Nat :=
  if fmtInt f then truncInt (elemSize f) (if neg then (intRange f).1 else (intRange f).2)
  else signBit f neg + maxCode f

/-- One rounding of `x` (already divided by the block scale) into the element format of `f` under mode `rm`, with the
generator's value `u`: the element code and the flags. A NaN into a scaled format that has none gives code 0 here;
`nanIntoBlock` says so and the block's scale becomes 0xFF (R173). -/
def roundTo (f rm u : Nat) (x : Val) : Nat × Nat :=
  match x with
  | .nan nv =>
    match nanCode f with
    | some c => (c, if nv then flagNV else 0)
    | none => (0, flagNV)
  | .inf neg =>
    match floatParams f with
    | some (eb, fb, _, true) => (signBit f neg + (2 ^ eb - 1) * 2 ^ fb, 0)
    | _ =>
      if elemFmt f = 14 ∧ ¬ fmtScaled f then (0x80, flagNV) else (limitCode f neg, flagSAT)
  | .divz neg =>
    match floatParams f with
    | some (eb, fb, _, true) => (signBit f neg + (2 ^ eb - 1) * 2 ^ fb, flagOF)
    | _ => (limitCode f neg, if fmtInt f then flagSAT else flagSAT + flagNX)
  | .fin neg m e =>
    match floatParams f with
    | some (_, fb, bias, _) =>
      if m = 0 then (signBit f neg, 0) else roundFloat f fb bias neg m e rm u
    | none =>
      if m = 0 then (0, 0)
      else if elemFmt f = 14 then roundT8 neg m e rm u
      else roundInt f neg m e rm u

/-- A NaN written into a scaled format whose element format has no NaN (R173 step 5). -/
def nanIntoBlock (f : Nat) (x : Val) : Bool := fmtScaled f && valIsNan x && (nanCode f).isNone

/-- What stands in a written element of a block whose scale is 0xFF: the canonical NaN or NaR, or 0 where the element
format has neither (R172, R409; log 12). -/
def nanElem (f : Nat) : Nat := (nanCode f).getD 0

/-! ## Scales (R201) -/

/-- Raise the exponent t until m 2^e fits below M 2^t; at most `fuel` times. -/
def fitFrom (m : Nat) (e : Int) (mm : Nat) (me t : Int) : Nat → Int
  | 0 => t
  | k + 1 => if cmpMag m e mm (me + t) = .gt then fitFrom m e mm me (t + 1) k else t

/-- The larger magnitude of two finite values, as mantissa and exponent. -/
def largerMag (best : Nat × Int) (x : Val) : Nat × Int :=
  match x with
  | .fin _ m e => if cmpMag m e best.1 best.2 = .gt then (m, e) else best
  | _ => best

/-- The FIT scale of a block from the exact values it will hold (R201). -/
def fitScale (f : Nat) (xs : List Val) : Nat :=
  let (m, e) := xs.foldl largerMag (0, 0)
  if m = 0 then 127
  else
    let (mm, me) := maxFinite f
    let t0 : Int := ((bitLen m : Int) - 1 + e) - ((bitLen mm : Int) + me)
    let s := fitFrom m e mm me t0 3 + 127
    if s < 0 then 0 else if 254 < s then 254 else s.toNat

/-! ## Hadamard rotation (R207) -/

/-- Sums of the two halves, then their differences, each half transformed in turn: the Walsh-Hadamard sums of a list of
2^k values. -/
def wht : Nat → List Val → List Val
  | 0, xs => xs
  | k + 1, xs =>
    let a := xs.take (2 ^ k)
    let b := xs.drop (2 ^ k)
    wht k (List.zipWith (valAdd false) a b) ++ wht k (List.zipWith (fun x y => valAdd false x (valNeg y)) a b)

/-- Group size of an HROT code (R185). -/
def rotSize (h : Nat) : Nat := match h with | 1 => 16 | 2 => 64 | 3 => 256 | _ => 1

/-- Whether the k low bits of a number hold an odd number of ones. -/
def oddOnes : Nat → Nat → Bool
  | 0, _ => false
  | k + 1, v => (v % 2 == 1) != oddOnes k (v / 2)

/-- Sign of an exact zero that result i of a rotation is: that of its terms where they agree, else the one that the mode gives
to a sum of operands of opposite sign (R177, R207). -/
def zeroSign (rdn : Bool) (xs : List Val) (i : Nat) : Bool :=
  let signs := xs.zipIdx.map fun x => valNegative x.1 != oddOnes 8 (i &&& x.2)
  if signs.all (· == true) then true else if signs.all (· == false) then false else rdn

/-- The rotation of one group, which is its own inverse (R207). -/
def rotateGroup (h : Nat) (rdn : Bool) (xs : List Val) : List Val :=
  let signed := fun (ys : List Val) => ys.zipIdx.map fun y =>
    match y.1 with
    | .fin _ 0 _ => .fin (zeroSign rdn xs y.2) 0 0
    | v => v
  match h with
  | 1 => (signed (wht 4 xs)).map (valScale (-2))
  | 2 => (signed (wht 6 xs)).map (valScale (-3))
  | 3 => (signed (wht 8 xs)).map (valScale (-4))
  | _ => xs

/-- The rotation of every aligned group of a list; `fuel` bounds the number of groups. -/
def rotateAll (h : Nat) (rdn : Bool) : Nat → List Val → List Val
  | 0, xs => xs
  | k + 1, xs =>
    if xs.length < rotSize h then xs
    else rotateGroup h rdn (xs.take (rotSize h)) ++ rotateAll h rdn k (xs.drop (rotSize h))

end Sys2Proof.Machine
end

