-- ==== Sys2Proof/Machine/Tags.lean ====
section
/-! DEFINITION. Machine/Tags.lean: line tags and register tags, validity classes, the promotion table, and the elements of
a register or queue entry (R105, R106, R185, R191 to R202). -/

namespace Sys2Proof.Machine

/-! ## Classes and line tags -/

/-- Encoding of a class in a tag (R185). -/
def vcCode : Vc → Nat
  | .valid => 0 | .uninit => 1 | .poison => 2 | .unrestored => 3

/-- The class of a two-bit code. -/
def vcOfCode (n : Nat) : Vc :=
  match n % 4 with | 0 => .valid | 1 => .uninit | 2 => .poison | _ => .unrestored

/-- Rank of a class, highest for POISON (R193). -/
def vcRank : Vc → Nat
  | .valid => 0 | .uninit => 1 | .unrestored => 2 | .poison => 3

/-- POISON or UNRESTORED. -/
def vcBad (v : Vc) : Bool := decide (2 ≤ vcRank v)

/-- The class of a result from its sources' classes; no source counts as one VALID source (R193, R391). -/
def combineVc (vs : List Vc) : Vc :=
  if vs.contains .poison then .poison
  else if vs.contains .unrestored then .unrestored
  else if vs.contains .uninit && !vs.contains .valid then .uninit
  else .valid

/-- Fields of a line tag (R185 Table 1). -/
def tagFmt (t : BitVec 32) : Nat := t.toNat % 32
def tagVc (t : BitVec 32) : Vc := vcOfCode (fieldOf t.toNat 6 5)
def tagHrot (t : BitVec 32) : Nat := fieldOf t.toNat 8 7

/-- The scale of block 0 or 1 of a line; an UNINIT line's scales read as 127 (R185). -/
def tagScale (t : BitVec 32) (b : Nat) : Nat :=
  if tagVc t = .uninit then 127 else fieldOf t.toNat (16 + 8 * b) (9 + 8 * b)

/-- A line tag from its fields. -/
def mkTag (fmt : Nat) (vc : Vc) (hrot sc0 sc1 : Nat) : BitVec 32 :=
  BitVec.ofNat 32 (fmt % 32 + 32 * vcCode vc + 128 * (hrot % 4) + 512 * (sc0 % 256) + 131072 * (sc1 % 256))

/-- The tag of raw valid data, which the part writes in context save areas, logs, rings and dumps (R268, R272). -/
def rawTag : BitVec 32 := mkTag 0 .valid 0 127 127

/-! ## The promotion table -/

/-- Byte 32a + b of a promotion table (R198). -/
def ptByte (pt : BitVec 8192) (k : Nat) : Nat := (pt.toNat >>> (8 * k)) % 256

/-- Result format and action of entry (a, b): action 0 forbidden, 1 FIT, 2 MAX (R198 Table 6). -/
def ptEntry (pt : BitVec 8192) (a b : Nat) : Nat × Nat :=
  let e := ptByte pt (32 * a + b)
  (e % 32, if e / 32 = 2 ∧ ¬ fmtScaled (e % 32) then 1 else e / 32)

/-- Write byte k of a promotion table. -/
def ptSetByte (pt : BitVec 8192) (k e : Nat) : BitVec 8192 :=
  BitVec.ofNat 8192 (pt.toNat - (ptByte pt k <<< (8 * k)) + ((e % 256) <<< (8 * k)))

/-! ## Elements of a register -/

/-- Bits of element i, zero for an UNINIT register (R106, R193). -/
def regCode (r : VReg) (i : Nat) : Nat :=
  if r.vc = .uninit then 0
  else let w := elemSize r.fmt.toNat; (r.data.toNat >>> (i * w)) % 2 ^ w

/-- Sidecar scale of block j; 127 for an UNINIT register. -/
def regScale (r : VReg) (j : Nat) : Nat :=
  if r.vc = .uninit then 127 else (SMap.get 127#8 r.scales j).toNat

/-- Scale of the block that holds element i. -/
def regScaleAt (r : VReg) (i : Nat) : Nat := regScale r (i * elemSize r.fmt.toNat / 256)

/-- Scale of block j as the MAX rule takes it: an unscaled source counts as 127 (R201). -/
def maxScaleOf (r : VReg) (j : Nat) : Nat := if fmtScaled r.fmt.toNat then regScale r j else 127

/-- Exact value of element i; zero for an UNINIT register (R173, R193). -/
def regVal (r : VReg) (i : Nat) : Val :=
  if r.vc = .uninit then .zero else codeValue r.fmt.toNat (regCode r i) (regScaleAt r i)

/-- Element codes packed with element 0 lowest (R106). -/
def packCodes (w : Nat) : List Nat → Nat
  | [] => 0
  | c :: cs => c % 2 ^ w + packCodes w cs <<< w

/-- A register of zero elements. -/
def zeroReg (fmt : Nat) (vc : Vc) (hrot : Nat) : VReg := ⟨0, BitVec.ofNat 5 fmt, vc, BitVec.ofNat 2 hrot, []⟩

/-- A register with a given format and element codes, VALID, scales 127. -/
def regOfCodes (fmt : Nat) (cs : List Nat) : VReg :=
  ⟨BitVec.ofNat 16384 (packCodes (elemSize fmt) cs), BitVec.ofNat 5 fmt, .valid, 0, []⟩

end Sys2Proof.Machine
end

