-- ==== Sys2Proof/Machine/Flags.lean ====
section
/-! DEFINITION. Machine/Flags.lean: every flag computation. Roundings of an instruction under xrm, with the generator and
the sticky flags they leave (R175 to R183), and the element-wise writer, which rounds the elements of a result and chooses
the scales of its blocks (R173, R201, R202, R389 to R392). -/

namespace Sys2Proof.Machine

/-- The rounding state of one instruction: the mode, the generator and the flags set so far. -/
structure Rnd where
  rm    : Nat
  lfsr  : BitVec 32
  flags : Nat
deriving DecidableEq, Repr

/-- Add flags. -/
def Rnd.flag (r : Rnd) (fl : Nat) : Rnd := { r with flags := r.flags ||| fl }

/-- Flags of an element written into a block whose scale is 0xFF, where nothing is rounded: NV for a signalling NaN, an
invalid operation, or a NaN that the element format cannot hold (R168, R173, R176). -/
def blockNanFlags (f : Nat) (x : Val) : Nat :=
  match x with
  | .nan nv => if nv || (nanCode f).isNone then flagNV else 0
  | _ => 0

/-- One rounding under xrm into format f under block scale s, with one generator step under SR (R174, R179). The flag says
that a NaN met a scaled format without one. -/
def rndVal (f s : Nat) (x : Val) (r : Rnd) : Nat × Bool × Rnd :=
  let l := if r.rm = rmSR then lfsrStep r.lfsr else r.lfsr
  let r1 : Rnd := { r with lfsr := l }
  if fmtScaled f ∧ s = 0xFF then (nanElem f, false, r1.flag (blockNanFlags f x))
  else
    let y := if fmtScaled f then valScale (127 - (s : Int)) x else x
    let (c, fl) := roundTo f r.rm l.toNat y
    (c, nanIntoBlock f x, r1.flag fl)

/-- One rounding with a fixed mode: no generator step (R179). -/
def fixedVal (f s rm : Nat) (x : Val) : Nat × Bool × Nat :=
  if fmtScaled f ∧ s = 0xFF then (nanElem f, false, blockNanFlags f x)
  else
    let y := if fmtScaled f then valScale (127 - (s : Int)) x else x
    let (c, fl) := roundTo f rm 0 y
    (c, nanIntoBlock f x, fl)

/-- What an element of a destination receives: its old value, bits as they are, a value to round, or the code of a source
element under a scale, copied where its block takes that scale and rounded otherwise (R403). -/
inductive Elt where
  | keep
  | code (c : Nat)
  | val (x : Val)
  | move (c s : Nat) (x : Val)

/-- How the scale of a block is chosen (R201): FIT; one the operation names for every block; or a source's, for a block
written whole, and FIT for the others (R397, R403). -/
inductive ScaleRule where
  | fit
  | named (s : Nat → Nat)
  | whole (s : Nat → Nat)

/-- The exact value an element will hold, for FIT; `old` gives kept values. -/
def eltVal (old : Val) : Elt → Option Val
  | .keep => some old
  | .code _ => none
  | .val x => some x
  | .move _ _ x => some x

/-- Whether an element is kept. -/
def eltKept : Elt → Bool
  | .keep => true
  | _ => false

/-- Value of kept element i of the old destination: zero when it is UNINIT or has no such element (R389). -/
def keptVal (bits : Nat) (old : VReg) (i : Nat) : Val :=
  if i < elemsIn bits old.fmt.toNat then regVal old i else .zero

/-- Whether the old destination already holds the result format. -/
def sameFmt (f : Nat) (old : VReg) : Bool := old.vc != .uninit && old.fmt.toNat == f

/-- The scale of block j of a result in format f (R201, R202). -/
def blockScale (bits f : Nat) (rule : ScaleRule) (old : VReg) (j : Nat) (es : List (Nat × Elt)) : Nat :=
  if ¬ fmtScaled f then 127
  else
    let kept := es.any fun e => eltKept e.2
    if kept && sameFmt f old then regScale old j
    else
      let fit := fitScale f (es.filterMap fun e => eltVal (keptVal bits old e.1) e.2)
      match rule with
      | .fit => fit
      | .named s => s j
      | .whole s => if kept then fit else s j

/-- One element of a block whose scale is s. -/
def writeElt (bits f s : Nat) (old : VReg) (i : Nat) (e : Elt) (r : Rnd) : Nat × Bool × Rnd :=
  match e with
  | .keep =>
    if sameFmt f old && (!fmtScaled f || regScaleAt old i == s) then (regCode old i, false, r)
    else
      let (c, bad, _) := fixedVal f s rmRNE (keptVal bits old i)
      (c, bad, r)
  | .code c => (c, false, r)
  | .val x => rndVal f s x r
  | .move c t x => if !fmtScaled f || t == s then (c, false, r) else rndVal f s x r

/-- The elements of a block in ascending index: their codes, whether a NaN met a format without one, and the rounding
state. -/
def writeElts (bits f s : Nat) (old : VReg) : List (Nat × Elt) → Rnd → List Nat × Bool × Rnd
  | [], r => ([], false, r)
  | (i, e) :: es, r =>
    let (c, bad, r1) := writeElt bits f s old i e r
    let (cs, bad2, r2) := writeElts bits f s old es r1
    (c :: cs, bad || bad2, r2)

/-- Indices i to i + n - 1 with what they receive. -/
def eltsFrom (elt : Nat → Elt) : Nat → Nat → List (Nat × Elt)
  | 0, _ => []
  | n + 1, i => (i, elt i) :: eltsFrom elt n (i + 1)

/-- Blocks j to j + n - 1 of a result: data, scales and rounding state. -/
def writeBlocks (bits f : Nat) (rule : ScaleRule) (elt : Nat → Elt) (old : VReg) :
    Nat → Nat → Nat → SMap Byte → Rnd → Nat × SMap Byte × Rnd
  | 0, _, acc, sc, r => (acc, sc, r)
  | n + 1, j, acc, sc, r =>
    let per := 256 / elemSize f
    let es := eltsFrom elt per (j * per)
    let s := blockScale bits f rule old j es
    let (cs, bad, r1) := writeElts bits f s old es r
    let s' := if fmtScaled f && bad then 0xFF else s
    writeBlocks bits f rule elt old n (j + 1) (acc + packCodes (elemSize f) cs <<< (256 * j))
      (SMap.set 127#8 sc j (BitVec.ofNat 8 s')) r1

/-- A whole register or entry of `bits` bits in format f: each element by `elt`, the class from `vcs`; a result whose class
is UNINIT holds zero elements (R193, R389 to R392). -/
def writeReg (bits f : Nat) (rule : ScaleRule) (elt : Nat → Elt) (old : VReg) (vcs : List Vc) (hrot : Nat) (r : Rnd) :
    VReg × Rnd :=
  let (d, sc, r1) := writeBlocks bits f rule elt old (bits / 256) 0 0 [] r
  let vc := combineVc vcs
  if vc = .uninit then (zeroReg f vc hrot, r1)
  else (⟨BitVec.ofNat 16384 d, BitVec.ofNat 5 f, vc, BitVec.ofNat 2 hrot, sc⟩, r1)

/-- Set the sticky flags of a hart (R182). -/
def Hart.addFlags (h : Hart) (fl : Nat) : Hart := { h with xflags := h.xflags ||| BitVec.ofNat 6 fl }

/-- The rounding state an instruction starts with: the mode read at issue, the generator as older instructions left it. -/
def startRnd (h : Hart) (rm : BitVec 3) : Rnd := ⟨rm.toNat, h.lfsr, 0⟩

/-- Take an instruction's generator state and flags into the hart. -/
def Hart.endRnd (h : Hart) (r : Rnd) : Hart := { h.addFlags r.flags with lfsr := r.lfsr }

end Sys2Proof.Machine
end

