-- ==== Sys2Proof/Machine/Operands.lean ====
section
/-! DEFINITION. Machine/Operands.lean: every operand form. Scalar registers, vector and matrix sources with pops and peeks,
REP, masks, tiles, and the admission checks that every vector instruction shares
(R125, R126, R193 to R196, R199, R208, R319, R328 to R331, R389, R390). -/

namespace Sys2Proof.Machine

/-! ## Cause codes (R252 Table 1) -/

def causeILLEGAL_OP : Nat := 0x01
def causeILLEGAL_STREAM : Nat := 0x02
def causePRIV : Nat := 0x03
def causeBAD_TARGET : Nat := 0x04
def causeBRK : Nat := 0x05
def causeBKPT : Nat := 0x06
def causeNOTMAPPED : Nat := 0x10
def causeBADENTRY : Nat := 0x11
def causePERMISSION : Nat := 0x12
def causeALIGN : Nat := 0x13
def causeLSRANGE : Nat := 0x14
def causePOISONED : Nat := 0x15
def causeFMTSIZE : Nat := 0x16
def causeCOUNTER : Nat := 0x17
def causeATOMUNSUP : Nat := 0x18
def causeUNREACH : Nat := 0x19
def causeLOGFULL : Nat := 0x1A
def causeENGREJECT : Nat := 0x1B
def causeSTORE : Nat := 0x1C
def causeILLEGAL_FMT : Nat := 0x20
def causeFMT_FORBID : Nat := 0x21
def causeROT_OP : Nat := 0x22
def causeVC_POISON : Nat := 0x23
def causeVC_UNRESTORED : Nat := 0x24
def causeVC_UNINIT : Nat := 0x25

/-! ## Scalar registers -/

/-- Scalar register n of a stream: x0 reads as zero (R319). -/
def Stream.reg (t : Stream) (n : Nat) : Word := if n = 0 then 0 else SMap.get 0 t.regs n

/-- Write scalar register n of a stream: a write to x0 is discarded (R319). -/
def Stream.setReg (t : Stream) (n : Nat) (v : Word) : Stream :=
  if n = 0 then t else { t with regs := SMap.set 0 t.regs n v }

/-! ## Registers of a hart -/

/-- Register size of a hart in bits (R104). -/
def Hart.bits (h : Hart) : Nat := regBits h.joined

/-- Vector register n. -/
def Hart.vreg (h : Hart) (n : Nat) : VReg := SMap.get VReg.reset h.v n

/-- Write vector register n. -/
def Hart.setVreg (h : Hart) (n : Nat) (r : VReg) : Hart := { h with v := SMap.set VReg.reset h.v n r }

/-- Every mask bit of the mode: 4,096 joined, 1,024 split (R318). -/
def maskOnes (joined : Bool) : MaskBits := BitVec.ofNat 4096 (2 ^ (if joined then 4096 else 1024) - 1)

/-- Mask register n: m0 reads as all ones (R319). -/
def Hart.mask (h : Hart) (n : Nat) : MaskBits := if n = 0 then maskOnes h.joined else SMap.get 0 h.m n

/-- Write mask register n; m0 is never a destination (R319). -/
def Hart.setMask (h : Hart) (n : Nat) (v : MaskBits) : Hart :=
  if n = 0 then h else { h with m := SMap.set 0 h.m n (v &&& maskOnes h.joined) }

/-- TLEN (R418). -/
def Hart.tlen (h : Hart) : Nat := if h.joined then 128 else 64

/-- Tile n. -/
def Hart.tile (h : Hart) (n : Nat) : Tile := SMap.get Tile.reset h.tiles n

/-- Write tile n and mark it written (R419). -/
def Hart.setTile (h : Hart) (n : Nat) (t : Tile) : Hart :=
  { h with tiles := SMap.set Tile.reset h.tiles n t, tdirty := h.tdirty ||| BitVec.ofNat 4 (2 ^ n) }

/-- Cell (i, j) of a tile; an UNINIT tile's cells read as zero (R418). -/
def tileCell (t : Tile) (i j : Nat) : BitVec 32 := if t.vc = .uninit then 0 else SMap.get 0 t.cells (128 * i + j)

/-! ## Queues -/

/-- Data queue n. -/
def Hart.queue (h : Hart) (n : Nat) : DQueue := SMap.get DQueue.reset h.dq n

/-- Write data queue n. -/
def Hart.setQueue (h : Hart) (n : Nat) (q : DQueue) : Hart := { h with dq := SMap.set DQueue.reset h.dq n q }

/-- Tail of a queue: the sequence number of the next push (R123). -/
def qTail (head : BitVec 32) (len : Nat) : BitVec 32 := head + BitVec.ofNat 32 len

/-- Count of a queue in a list of counts. -/
def countOf (cs : List (Nat × Nat)) (q : Nat) : Nat :=
  match cs.find? fun c => c.1 == q with
  | some c => c.2
  | none => 0

/-- Add one to the count of a queue. -/
def bumpCount (cs : List (Nat × Nat)) (q : Nat) : List (Nat × Nat) :=
  if cs.any fun c => c.1 == q then cs.map fun c => if c.1 == q then (q, c.2 + 1) else c else cs ++ [(q, 1)]

/-- Replace the i-th element of a list. -/
def listSet {α : Type} : List α → Nat → α → List α
  | [], _, _ => []
  | _ :: xs, 0, a => a :: xs
  | x :: xs, n + 1, a => x :: listSet xs n a

/-- The i-th element of a list. -/
def listAt {α : Type} : List α → Nat → Option α
  | [], _ => none
  | x :: _, 0 => some x
  | _ :: xs, n + 1 => listAt xs n

/-! ## Vector and matrix sources -/

/-- Sources of an instruction as they are read one after another at admission: the hart with the entries' deferred flags
taken, the pops so far, the flags, and the operands with their codes. -/
structure SrcState where
  h     : Hart
  pops  : List (Nat × Nat)
  flags : Nat
  regs  : List VReg
  codes : List Nat

/-- Whether the entry of a queue with a sequence number belongs to a load that is not confirmed: it may still be taken back
(R365). -/
def Hart.unconfirmed (h : Hart) (q : Nat) (seq : BitVec 32) : Bool := h.loads.any fun p => p.queue == q && p.seq == seq

/-- Read one source by its operand code: a register, a popped entry or a peeked one (R125, R328). None: the entry is not
there, is pending, or is not confirmed. -/
def readSrc (s : SrcState) (code : Nat) : Option SrcState :=
  if code < 32 then some { s with regs := s.regs ++ [s.h.vreg code], codes := s.codes ++ [code] }
  else
    let q := (code - 32) % 8
    let dq := s.h.queue q
    let i := dq.popped + countOf s.pops q
    match listAt dq.entries i with
    | none => none
    | some e =>
      if e.pending || s.h.unconfirmed q (qTail dq.head i) then none
      else
        some { h := s.h.setQueue q { dq with entries := listSet dq.entries i { e with flags := 0 } }
               pops := if code < 40 then bumpCount s.pops q else s.pops
               flags := s.flags ||| e.flags.toNat
               regs := s.regs ++ [e.reg]
               codes := s.codes ++ [code] }

/-- Read sources in order. -/
def readSrcs (s : SrcState) : List Nat → Option SrcState
  | [] => some s
  | c :: cs =>
    match readSrc s c with
    | none => none
    | some s1 => readSrcs s1 cs

/-- The outcome of looking at an instruction at the head of the VIQ: it waits for an operand, it traps, or it is admitted
with its effects (R128). The counts are the entries it pops and pushes. -/
inductive XRes where
  | wait
  | trap (cause tval : Nat)
  | done (h : Hart) (pops pushes : List (Nat × Nat))

/-- Operand i as read, the empty register if there is none. -/
def srcAt (s : SrcState) (i : Nat) : VReg := (listAt s.regs i).getD VReg.reset

/-- Formats of the sources by R193: an UNINIT source takes the format of the first that is not, or vfmt. -/
def effFmts (vfmt : Nat) (rs : List VReg) : List Nat :=
  let first := match rs.find? fun r => r.vc != .uninit with
    | some r => r.fmt.toNat
    | none => vfmt
  rs.map fun r => if r.vc = .uninit then first else r.fmt.toNat

/-- Format of operand i by R193. -/
def fmtAt (vfmt : Nat) (s : SrcState) (i : Nat) : Nat := (listAt (effFmts vfmt s.regs) i).getD vfmt

/-- The code of the first operand of a class. -/
def firstOf (v : Vc) : List VReg → List Nat → Option Nat
  | r :: rs, c :: cs => if r.vc = v then some c else firstOf v rs cs
  | _, _ => none

/-- The validity trap of the sources, if any: the highest-ranked class that xtrapen enables, or POISON and UNRESTORED
whatever it holds where a value leaves the tagged domain (R194, R195). -/
def vcTrap (en : BitVec 3) (leaves : Bool) (rs : List VReg) (codes : List Nat) : Option (Nat × Nat) :=
  let p := if en.getLsbD 0 || leaves then firstOf .poison rs codes else none
  let u := if en.getLsbD 1 || leaves then firstOf .unrestored rs codes else none
  let n := if en.getLsbD 2 then firstOf .uninit rs codes else none
  match p, u, n with
  | some c, _, _ => some (causeVC_POISON, c)
  | none, some c, _ => some (causeVC_UNRESTORED, c)
  | none, none, some c => some (causeVC_UNINIT, c)
  | none, none, none => none

/-- tval of ROT_OP: HROT of the first source and of the second (R252). -/
def rotTval (rs : List VReg) : Nat :=
  match rs with
  | a :: b :: _ => a.hrot.toNat + 4 * b.hrot.toNat
  | a :: _ => a.hrot.toNat
  | [] => 0

/-- The rotation trap of the sources: any rotated source, or, where equal rotation is accepted, unequal ones (R208). -/
def rotTrap (equalOk : Bool) (rs : List VReg) : Option (Nat × Nat) :=
  let bad := if equalOk then (match rs with | a :: rest => rest.any fun b => b.hrot != a.hrot | [] => false)
    else rs.any fun r => r.hrot != 0
  if bad then some (causeROT_OP, rotTval rs) else none

/-- Result format and whether the MAX rule governs, or the forbidden entry's byte (R199). -/
inductive Joined where
  | ok (fmt : Nat) (useMax : Bool)
  | forbidden (byte : Nat)

/-- The promotion-table entry of two or three formats (R199). -/
def joinFmts (pt : BitVec 8192) (a b : Nat) (c : Option Nat) : Joined :=
  let (f, act) := ptEntry pt a b
  if act = 0 then .forbidden (32 * a + b)
  else match c with
    | none => .ok f (act == 2)
    | some c =>
      let (g, act2) := ptEntry pt f c
      if act2 = 0 then .forbidden (32 * f + c) else .ok g (act2 == 2)

/-- Result format of the sources; a forbidden pair whose class is POISON or UNRESTORED computes in the first source's
format, and UNINIT sources alone give vfmt, in which they then stand (R193, R196, R417). -/
def joinSrcs (pt : BitVec 8192) (fmts : List Nat) (rs : List VReg) : Joined :=
  match fmts with
  | a :: b :: rest =>
    if rs.all fun r => r.vc == .uninit then .ok a false
    else match joinFmts pt a b rest.head? with
    | .forbidden k => if vcBad (combineVc (rs.map fun r => r.vc)) then .ok a false else .forbidden k
    | j => j
  | _ => .ok 0 false

/-- REP: the size of the repeated group, 0 when it is off (R329). -/
def repSize (r : BitVec 3) : Nat :=
  if r.toNat < 4 then 0 else match r.toNat % 4 with | 0 => 1 | 1 => 8 | 2 => 32 | _ => 128

/-- Element index of VB under REP (R329). -/
def repIdx (rep i : Nat) : Nat := if rep = 0 then i else i % rep

/-- Block of VB whose scale stands for block j of the operand that REP makes of it: the one that holds element i mod s, i being
the first element of block j (R329). -/
def repBlock (rep w j : Nat) : Nat := if rep = 0 then j else 256 / w * j % rep / (256 / w)

/-- The scale rule of a join: MAX over the sources, VB as REP repeats it, or FIT (R201, R329). -/
def joinRule (useMax : Bool) (rep : Nat) (rs : List VReg) : ScaleRule :=
  if useMax then
    .named fun j => (rs.zipIdx.map fun r =>
      maxScaleOf r.1 (if r.2 = 1 then repBlock rep (elemSize r.1.fmt.toNat) j else j)).foldl Nat.max 0
  else .fit

/-- Effective length: the least of vl and VLMAX of each format (R389). -/
def effLen (bits vl : Nat) (fmts : List Nat) : Nat := fmts.foldl (fun n f => Nat.min n (elemsIn bits f)) vl

/-- The traps of an instruction that keeps at least one element (R390); an UNINIT old destination takes no part. -/
def keepTrap (old : VReg) (f hrot : Nat) : Option (Nat × Nat) :=
  if old.vc = .uninit then none
  else if old.hrot.toNat ≠ hrot then some (causeROT_OP, hrot + 4 * old.hrot.toNat)
  else if old.fmt.toNat ≠ f ∧ (old.fmt.toNat = 0 ∨ f = 0) then some (causeFMT_FORBID, 32 * old.fmt.toNat + f)
  else none

/-- Whether some index below n is inactive under a mask. -/
def anyInactive (m : MaskBits) (n : Nat) : Bool := decide (m.toNat % 2 ^ n ≠ 2 ^ n - 1)

/-- The element-wise completion shared by the vector instructions (R389 to R392): effective length over `lims`, mask,
zeroing, the traps of kept elements, and the write of VD. `lo` keeps the elements below it; `every` writes all elements
below the length whatever the mask. -/
def elementwise (s : SrcState) (op : XOp) (d m : Nat) (z : Bool) (f : Nat) (rule : ScaleRule) (hrot : Nat)
    (vcs : List Vc) (lims : List Nat) (lo : Nat) (every : Bool) (elt : Nat → Elt) : XRes :=
  let h := s.h
  let bits := h.bits
  let n := effLen bits op.vl.toNat (f :: lims)
  let mask := h.mask m
  let old := h.vreg d
  let keeps := decide (n < elemsIn bits f) || decide (0 < lo) || (!every && !z && anyInactive mask n)
  match (if keeps then keepTrap old f hrot else none) with
  | some (c, v) => .trap c v
  | none =>
    if n = 0 then .done (h.addFlags s.flags) s.pops []
    else
      let e : Nat → Elt := fun i =>
        if n ≤ i ∨ i < lo then .keep
        else if every || mask.getLsbD i then elt i
        else if z then .code 0 else .keep
      let (r, rnd) := writeReg bits f rule e old (if keeps then vcs ++ [old.vc] else vcs) hrot (startRnd h op.rm)
      .done (((h.endRnd rnd).addFlags s.flags).setVreg d r) s.pops []

/-- Read the sources, make the checks of R196 that come before the promotion table, and go on. -/
def withSrcs (h : Hart) (codes : List Nat) (leaves equalOk : Bool) (k : SrcState → XRes) : XRes :=
  match readSrcs ⟨h, [], 0, [], []⟩ codes with
  | none => .wait
  | some s =>
    match vcTrap h.xtrapen leaves s.regs s.codes with
    | some (c, v) => .trap c v
    | none =>
      match rotTrap equalOk s.regs with
      | some (c, v) => .trap c v
      | none => k s

/-- Classes of the sources read. -/
def srcVcs (s : SrcState) : List Vc := s.regs.map fun r => r.vc

end Sys2Proof.Machine
end

