-- ==== Sys2Proof/Machine/Integrity.lean ====
section
/-! DEFINITION. Machine/Integrity.lean: the keyed check field of a line and what a read makes of its syndromes
(R187, R188, R481). A line is its 64 data bytes as one little-endian number beside its tag. -/

namespace Sys2Proof.Machine

/-! ## AES-128 (R187), bytes of a 128-bit block taken most significant first (log 14) -/

/-- Multiplication by x in the field of AES. -/
def aesX (a : Nat) : Nat := if a < 128 then 2 * a else Nat.xor (2 * a - 256) 0x1B

/-- Multiplication in the field of AES, by the bits of b from the top. -/
def aesMulBits (a b : Nat) : Nat → Nat
  | 0 => 0
  | n + 1 => Nat.xor (aesX (aesMulBits a (b / 2) n)) (if b % 2 = 1 then a else 0)

/-- Multiplication in the field of AES. -/
def aesMul (a b : Nat) : Nat := aesMulBits a b 8

/-- a^254, the inverse of a or 0. -/
def aesInv (a : Nat) : Nat :=
  let a2 := aesMul a a
  let a4 := aesMul a2 a2
  let a8 := aesMul a4 a4
  let a16 := aesMul a8 a8
  let a32 := aesMul a16 a16
  let a64 := aesMul a32 a32
  aesMul (aesMul (aesMul a2 a4) (aesMul a8 a16)) (aesMul (aesMul a32 a64) (aesMul a64 a64))

/-- Rotate a byte left. -/
def rotByte (a k : Nat) : Nat := (a * 2 ^ k) % 256 + a / 2 ^ (8 - k)

/-- The S-box. -/
def aesSub (a : Nat) : Nat :=
  let b := aesInv a
  Nat.xor (Nat.xor (Nat.xor b (rotByte b 1)) (Nat.xor (rotByte b 2) (rotByte b 3))) (Nat.xor (rotByte b 4) 0x63)

/-- Bytes of a block: byte 0 of the cipher's state is the most significant one (PRESUMED, log 14). -/
def blockBytes (v : Nat) : List Nat := (List.range 16).map fun i => v / 2 ^ (8 * (15 - i)) % 256

/-- A block from its bytes. -/
def blockOf (bs : List Nat) : Nat := bs.foldl (fun a b => a * 256 + b) 0

/-- Byte-wise exclusive or. -/
def xorBytes (a b : List Nat) : List Nat := List.zipWith Nat.xor a b

/-- The next round key. -/
def aesNextKey (rcon : Nat) (k : List Nat) : List Nat :=
  match k with
  | [a0, a1, a2, a3, b0, b1, b2, b3, c0, c1, c2, c3, d0, d1, d2, d3] =>
    let w0 := xorBytes [a0, a1, a2, a3] [Nat.xor (aesSub d1) rcon, aesSub d2, aesSub d3, aesSub d0]
    let w1 := xorBytes w0 [b0, b1, b2, b3]
    let w2 := xorBytes w1 [c0, c1, c2, c3]
    let w3 := xorBytes w2 [d0, d1, d2, d3]
    w0 ++ w1 ++ w2 ++ w3
  | k => k

/-- ShiftRows on a state held column by column. -/
def aesShift (s : List Nat) : List Nat :=
  match s with
  | [a0, a1, a2, a3, b0, b1, b2, b3, c0, c1, c2, c3, d0, d1, d2, d3] =>
    [a0, b1, c2, d3, b0, c1, d2, a3, c0, d1, a2, b3, d0, a1, b2, c3]
  | s => s

/-- MixColumns of one column. -/
def aesColumn (a b c d : Nat) : List Nat :=
  let m := fun (p q r t : Nat) => Nat.xor (Nat.xor (aesX p) (Nat.xor (aesX q) q)) (Nat.xor r t)
  [m a b c d, m b c d a, m c d a b, m d a b c]

/-- MixColumns. -/
def aesMix (s : List Nat) : List Nat :=
  match s with
  | [a0, a1, a2, a3, b0, b1, b2, b3, c0, c1, c2, c3, d0, d1, d2, d3] =>
    aesColumn a0 a1 a2 a3 ++ aesColumn b0 b1 b2 b3 ++ aesColumn c0 c1 c2 c3 ++ aesColumn d0 d1 d2 d3
  | s => s

/-- The rounds with the given round constants; the last has no MixColumns. -/
def aesRounds : List Nat → List Nat → List Nat → List Nat
  | [], _, s => s
  | [rc], k, s => xorBytes (aesShift (s.map aesSub)) (aesNextKey rc k)
  | rc :: rcs, k, s =>
    let k1 := aesNextKey rc k
    aesRounds rcs k1 (xorBytes (aesMix (aesShift (s.map aesSub))) k1)

/-- AES-128 encryption of a block under a key. -/
def aes128 (key block : Nat) : Nat :=
  let k := blockBytes key
  blockOf (aesRounds [0x01, 0x02, 0x04, 0x08, 0x10, 0x20, 0x40, 0x80, 0x1B, 0x36] k (xorBytes (blockBytes block) k))

/-! ## GF(2^16) -/

/-- Multiplication by β = x modulo x^16 + x^12 + x^3 + x + 1. -/
def gfX (a : Nat) : Nat := if a < 32768 then 2 * a else Nat.xor (2 * a - 65536) 0x100B

/-- Multiplication, by the bits of b from the top. -/
def gfMulBits (a b : Nat) : Nat → Nat
  | 0 => 0
  | n + 1 => Nat.xor (gfX (gfMulBits a (b / 2) n)) (if b % 2 = 1 then a else 0)

/-- Multiplication in GF(2^16). -/
def gfMul (a b : Nat) : Nat := gfMulBits a b 16

/-- a^(2^n - 1). -/
def gfOnes (a : Nat) : Nat → Nat
  | 0 => 1
  | n + 1 => let p := gfOnes a n; gfMul (gfMul p p) a

/-- The inverse: a^(2^16 - 2). -/
def gfInv (a : Nat) : Nat := let p := gfOnes a 15; gfMul p p

/-- β^j. -/
def gfPow : Nat → Nat
  | 0 => 1
  | j + 1 => gfX (gfPow j)

/-! ## The check field (R187) -/

/-- Symbol j of a line: data for j below 32, then the tag. -/
def lineSym (data tag j : Nat) : Nat :=
  if j < 32 then data / 2 ^ (16 * j) % 65536 else tag / 2 ^ (16 * (j - 32)) % 65536

/-- Weight j under key value K; a zero weight is 1. -/
def weight (key j : Nat) : Nat :=
  let w := aes128 key (j / 8) / 2 ^ (16 * (j % 8)) % 65536
  if w = 0 then 1 else w

/-- The address terms t0 and t1 of the line at a physical address, as one number. -/
def addrTerm (key pa : Nat) : Nat := aes128 key (2 ^ 120 + pa / 64 % 2 ^ 46) % 2 ^ 32

/-- The sums of w_j s_j and of w_j β^j s_j. -/
def checkSums (key data tag : Nat) : Nat → Nat × Nat
  | 0 => (0, 0)
  | j + 1 =>
    let (a, b) := checkSums key data tag j
    let p := gfMul (weight key j) (lineSym data tag j)
    (Nat.xor a p, Nat.xor b (gfMul p (gfPow j)))

/-- The check field: c0 in bits 15:0, c1 in bits 31:16. -/
def checkField (key pa data tag : Nat) : Nat :=
  let (a, b) := checkSums key data tag 34
  let t := addrTerm key pa
  Nat.xor a (t % 65536) + 65536 * Nat.xor b (t / 65536)

/-- What a read makes of a line and its check field (R188 Table 3). -/
inductive Checked where
  | correct
  | corrected (sym : Nat) (data tag : Nat)
  | bad
deriving DecidableEq, Repr

/-- The symbol j below n with S1 ÷ S0 = β^j. -/
def findSym (s0 s1 : Nat) : Nat → Option Nat
  | 0 => none
  | n + 1 => if gfMul s0 (gfPow n) = s1 then some n else findSym s0 s1 n

/-- The outcome of the check under one key value (R188). -/
def checkLine (key pa data tag chk : Nat) : Checked :=
  let d := Nat.xor chk (checkField key pa data tag)
  let s0 := d % 65536
  let s1 := d / 65536
  if s0 = 0 ∧ s1 = 0 then .correct
  else if s1 = 0 then .corrected 34 data tag
  else if s0 = 0 then .corrected 35 data tag
  else match findSym s0 s1 34 with
    | none => .bad
    | some j =>
      let fix := gfMul s0 (gfInv (weight key j))
      if j < 32 then .corrected j (Nat.xor data (fix * 2 ^ (16 * j))) tag
      else .corrected j data (Nat.xor tag (fix * 2 ^ (16 * (j - 32))))

/-- The check under key value K with the rule for lines that nothing has written since the cold reset (R481). -/
def checkRead (key pa data tag chk : Nat) : Checked :=
  match checkLine key pa data tag chk with
  | .correct => .correct
  | r => if tagVc (BitVec.ofNat 32 tag) = .uninit ∧ checkLine 0 pa data tag chk = .correct then .correct else r

end Sys2Proof.Machine
end

