-- ==== Sys2Proof/Machine/Physical.lean ====
section
/-! DEFINITION. Machine/Physical.lean: physical memory. Bytes, the regions and homes of the map, lines with their tags and
check fields, what the caches and the directory hold, the error log, counter slots and the waking of waiters
(R4, R25 to R31, R58 to R61, R135 to R152, R185 to R190, R238, R242 to R245). -/

namespace Sys2Proof.Machine

/-! ## Bytes -/

/-- n bytes from a physical address, little-endian (R4). -/
def readMem (m : List Host.Cell) (pa : Nat) : Nat → Nat
  | 0 => 0
  | n + 1 => (SMap.get 0#8 m pa).toNat + 256 * readMem m (pa + 1) n

/-- Write the n low bytes of a number, little-endian. -/
def writeMem (m : List Host.Cell) (pa v : Nat) : Nat → List Host.Cell
  | 0 => m
  | n + 1 => writeMem (SMap.set 0#8 m pa (BitVec.ofNat 8 v)) (pa + 1) (v / 256) n

/-- Replace n bytes at offset o of a number by those of v. -/
def putBytes (old o n v : Nat) : Nat :=
  let part := old / 2 ^ (8 * o) % 2 ^ (8 * n)
  old - part * 2 ^ (8 * o) + v % 2 ^ (8 * n) * 2 ^ (8 * o)

/-! ## The map (R135 to R137) -/

/-- Regions of the physical map (R135 Table 2). -/
inductive Region where
  | hbm | flash | cxl | host (h : HostId) | peer (node pa : Nat) | hole
deriving DecidableEq, Repr

def gib48 : Nat := 48 * 2 ^ 30
def hbmSize : Nat := 768 * 2 ^ 30

/-- This part's node (R39). -/
def State.node (s : State) : Nat := s.cfg.znode.toNat

/-- The region of a physical address (R135, R136). Above the 52 bits of the map stand the places of `placeOf`. -/
def regionOf (s : State) (pa : Nat) : Region :=
  if pa < hbmSize then .hbm
  else if 0x100000000000 ≤ pa ∧ pa < 0x140000000000 then .flash
  else if 0x200000000000 ≤ pa ∧ pa < 0x200000000000 + s.cfg.cxlSize then .cxl
  else if 0x8000000000000 ≤ pa ∧ pa < 0x9000000000000 then .host .a
  else if 0x9000000000000 ≤ pa ∧ pa < 0xA000000000000 then .host .b
  else if 0xC000000000000 ≤ pa ∧ pa < 0x10000000000000 then
    let e := (SMap.get 0 s.peermap (pa / 2 ^ 40 % 1024)).toNat
    let off := pa % 2 ^ 40
    if e.testBit 12 ∧ off < hbmSize then .peer (e % 4096) off else .hole
  else if 0x10000000000000 ≤ pa ∧ pa < 0x20000000000000 then .peer (pa / 2 ^ 40 % 4096) (pa % 2 ^ 40)
  else .hole

/-- Whether an address of the map is one of peer memory (R135). -/
def inPeerMap (pa : Nat) : Bool := decide (0xC000000000000 ≤ pa) && decide (pa < 0x10000000000000)

/-- The place that an address of the map names under a PEERMAP entry: a peer address becomes its node and the peer's own
address, above the 52 bits of the map, so that a cached translation keeps the entry it used (R136, R323). -/
def placeOf (entry : Word) (pa : Nat) : Nat :=
  if inPeerMap pa then 2 ^ 52 + entry.toNat % 4096 * 2 ^ 40 + pa % 2 ^ 40 else pa

/-- The memory port of the interleave set on which a CXL-local address lies: granule g is on member g mod n (R33, R135). -/
def cxlMember (s : State) (pa : Nat) : Option Nat :=
  match s.cfg.members with
  | [] => none
  | ms => ms[(pa - 0x200000000000) / 4096 % ms.length]?

/-- Bytes from a counter store (R137, R238). -/
def inCounterStore (pa : Nat) : Bool :=
  decide (pa < hbmSize) && (pa / gib48 % 2 == 0) && decide (gib48 - 2 ^ 24 ≤ pa % gib48)

/-- Home tower of a physical address of this part's own tiers (R137). -/
def homeTower (pa : Nat) : Nat :=
  if pa < hbmSize then pa / gib48 / 2
  else if pa < 0x140000000000 then
    let p := pa / 4096
    2 * (p % 4) + p / 4 % 2
  else pa / 4096 % 8

/-- The line that holds a physical address. -/
def lineAddr (pa : Nat) : Nat := pa / 64 * 64

/-! ## Slots, lines and launches in the state -/

/-- The key of a counter slot of this part (R238). -/
def slotKey (tower slot : Nat) : Nat := tower * 2 ^ 20 + slot

/-- Physical address of a slot (R238). -/
def slotAddr (key : Nat) : Nat := (2 * (key / 2 ^ 20) + 1) * gib48 - 2 ^ 24 + 16 * (key % 2 ^ 20)

/-- Bytes of a line's 512-bit value. -/
def lineData (s : State) (pa : Nat) : Nat := readMem s.mem (lineAddr pa) 64

/-- The sideband of a line. -/
def sideOf (s : State) (pa : Nat) : Side := SMap.get Side.reset s.side (pa / 64)

/-- What is held of a line. -/
def dirOf (s : State) (pa : Nat) : Dir := SMap.get Dir.none s.dir (pa / 64)

/-- Write what is held of a line. -/
def setDir (s : State) (pa : Nat) (d : Dir) : State := { s with dir := SMap.set Dir.none s.dir (pa / 64) d }

/-- Bytes and tag of a line, its check field left as it is. -/
def putLine (s : State) (pa data : Nat) (tag : BitVec 32) : State :=
  let old := sideOf s pa
  { s with mem := writeMem s.mem (lineAddr pa) data 64, side := SMap.set Side.reset s.side (pa / 64) { old with tag := tag } }

/-- The cached value of a slot if the counter cache holds it, else the value in its memory; nothing is checked. -/
def slotRaw (s : State) (key : Nat) : Word :=
  match SMap.get none s.cc key with
  | some e => e.value
  | none => if tagVc (sideOf s (slotAddr key)).tag = .uninit then 0 else BitVec.ofNat 64 (readMem s.mem (slotAddr key) 8)

/-- Hold a value in the counter cache, keeping the mark; its slot is no longer POISON, and the use is noted (R238, R251). -/
def putSlot (s : State) (key : Nat) (v : Word) : State :=
  let mark := match SMap.get none s.cc key with | some e => e.mark | none => none
  { s with
    cc := SMap.set none s.cc key (some ⟨v, mark⟩)
    slotPois := SMap.set false s.slotPois key false
    ccUse := SMap.set 0 s.ccUse key s.cycle }

/-- The wait condition (R242). -/
def satisfied (v t : Word) : Bool := decide ((v - t).toNat < 2 ^ 63)

/-- The index of the active host, if any. -/
def State.activeHost (s : State) : Option HostId :=
  match s.cfg.active.toNat with | 1 => some .a | 2 => some .b | _ => none

/-- Draw a fresh free value. -/
def draw (s : State) : Nat × State := (s.draws, { s with draws := s.draws + 1 })

/-- Send a message. -/
def State.emit (s : State) (m : OutMsg) : State := { s with out := m :: s.out }

/-- Events that follow. -/
def State.later (s : State) (is : List Instr) : State := { s with agenda := s.agenda ++ is }

/-- Fire an interrupt waiter entry: clear ARM and send its vector, hold it while no host is active, or discard it in
CONTAINED (R59, R60). -/
def fireIrq (s : State) (i : Nat) : State :=
  let e := SMap.get 0#128 s.cfg.ivt i
  let c := { s.cfg with ivt := SMap.set 0#128 s.cfg.ivt i (e &&& ~~~1#128) }
  if s.cfg.cont then { s with cfg := c }
  else match s.activeHost with
    | some h => ({ s with cfg := c } : State).emit (.msix h i)
    | none => { s with cfg := { c with irqPend := if c.irqPend.contains i then c.irqPend else c.irqPend ++ [i] } }

/-- A launch-table entry. -/
def State.entry (s : State) (i : Nat) : LEntry := SMap.get LEntry.reset s.entries i

/-- Write a launch-table entry. -/
def State.setEntry (s : State) (i : Nat) (e : LEntry) : State := { s with entries := SMap.set LEntry.reset s.entries i e }

/-- A start condition is satisfied; the last one in force makes the launch READY (R83, R85). -/
def condMet (s : State) (l j : Nat) : State :=
  let e := s.entry l
  if e.state ≠ .waiting then s
  else
    let sat := e.sat ||| BitVec.ofNat 4 (2 ^ j)
    let done := (sat &&& e.recd.cvalid) == e.recd.cvalid
    s.setEntry l { e with sat := sat, state := if done then .ready else .waiting
                          readyAt := if done then s.cycle else e.readyAt }

/-- The port of a host (R9). -/
def portOf : HostId → Nat
  | .a => 0 | .b => 1

/-! ## Requests to peers (R39, R40, R43) -/

/-- The links that may carry traffic to a node and are up (R39, R41). -/
def linksTo (s : State) (node : Nat) : List Nat :=
  let r := SMap.get 0#18 s.cfg.zroute node
  (List.range 18).filter fun l => r.getLsbD l && (SMap.get ZLink.reset s.cfg.zlink l).up

/-- Whether a node can be reached (R41). -/
def reachable (s : State) (node : Nat) : Bool := !s.cfg.unreach.contains node && !(linksTo s node).isEmpty

/-- The link that a hash of the home line address or counter handle chooses (R39). -/
def linkFor (s : State) (node key : Nat) : Nat :=
  let ls := linksTo s node
  (ls[Config.linkHash key % ls.length]?).getD 0

/-- Whether a request writes or adds at the peer, which no link carries in CONTAINED (R43). -/
def changesPeer : PeerReq → Bool
  | .writeLine .. | .writePart .. | .writeTag .. | .atomic .. | .counterAdd .. | .counterXadd .. => true
  | .readLine _ | .counterRead _ | .counterTest .. | .counterWait .. | .counterUnwait .. => false

/-- Send a request to a peer on the link of its line or handle (R39, R40). -/
def sendPeer (s : State) (node key : Nat) (req : PeerReq) : State :=
  if s.cfg.cont && changesPeer req then s else s.emit (.peerReq (linkFor s node key) node req)

/-- Wake one waiter with a value (R244, R245). -/
def wakeOne (s : State) (w : WaiterId) (v : Word) : State :=
  match w with
  | .stream h => s.later [.cwaitWake h v]
  | .interrupt i => fireIrq s i
  | .start l j => condMet s l j
  | .peer n k => s.emit (.peerWake n k v)

/-- Waiters of a counter in list order: ascending distance from a value, ties by arrival (R244). -/
def insertWaiter (v : Word) (w : Waiter) : List Waiter → List Waiter
  | [] => [w]
  | x :: xs =>
    if (w.thr - v).toNat < (x.thr - v).toNat ∨ ((w.thr - v).toNat = (x.thr - v).toNat ∧ w.arrival < x.arrival)
    then w :: x :: xs else x :: insertWaiter v w xs

/-- The list of a counter's waiters. -/
def waitersOf (s : State) (key : Nat) (v : Word) : List Waiter :=
  (s.waiters.filter fun w => w.key == key).foldl (fun l w => insertWaiter v w l) []

/-- Take the waiters of a counter that a new value satisfies, and wake them in list order. An add keeps the order that the
list has by the value before it, `base`; a rewind sorts the list again by the restored value (R244, R245, R287). -/
def wakeSatisfied (s : State) (key : Nat) (base v : Word) : State :=
  let ready := (waitersOf s key base).filter fun w => satisfied v w.thr
  let s1 : State := { s with
    waiters := s.waiters.filter fun w => !(w.key == key && satisfied v w.thr) }
  ready.foldl (fun t w => wakeOne t w.who v) s1

/-- Add to a slot at its home, wake its waiters and clear PFLAG (R245). Nothing is checked: the operations check first. -/
def addSlot (s : State) (key : Nat) (d : Word) : State :=
  let old := slotRaw s key
  let v := old + d
  let s1 := wakeSatisfied (putSlot s key v) key old v
  { s1 with pflag := SMap.set false s1.pflag key false }

/-! ## Check fields (R187 to R190, R481) -/

/-- Key value and version of an integrity key: key 0 is all zero, an unwritten key holds the draw of the last cold reset
(R189). -/
def keyValue (s : State) (k : Nat) : BitVec 128 :=
  if k = 0 then 0
  else match (SMap.get (none, 0) s.keys k).1 with
    | some v => v
    | none => Config.coldKey s.cfg.coldN k

def keyVersion (s : State) (k : Nat) : Nat := (SMap.get (none, 0) s.keys k).2

/-- Give a line a check field of its present bytes and tag under a key (R187, R190). -/
def freshCheck (s : State) (pa k : Nat) : State :=
  let old := sideOf s pa
  let side := SMap.set Side.reset s.side (pa / 64) { old with chk := .fresh k (keyVersion s k) (keyValue s k) }
  { s with side := side }

/-- The outcome of reading a line from its store under a key (R188, R481). -/
def checkOf (s : State) (pa k : Nat) : Checked :=
  let sd := sideOf s pa
  let kv := keyValue s k
  match sd.chk with
  | .fresh _ _ v =>
    if v = kv then .correct
    else if v = 0 ∧ tagVc sd.tag = .uninit then .correct
    else checkRead kv.toNat (lineAddr pa) (lineData s pa) sd.tag.toNat
      (checkField v.toNat (lineAddr pa) (lineData s pa) sd.tag.toNat)
  | .raw c => checkRead kv.toNat (lineAddr pa) (lineData s pa) sd.tag.toNat c.toNat

/-- The tag an integrity fault leaves (R188). -/
def poisonTag (t : BitVec 32) : BitVec 32 :=
  mkTag (if fmtDefined (tagFmt t) then tagFmt t else 0) .poison 0 127 127

/-- Whether some cache of the part holds the line. -/
def cached (d : Dir) : Bool := d.l2 || !d.l1.isEmpty || !d.rdc.isEmpty

/-- The four slots of a slot's line that the counter cache does not hold become POISON (R251). -/
def spoilSlots (s : State) (key : Nat) : State :=
  { s with slotPois := (List.range 4).foldl (fun m i =>
      let k := key / 4 * 4 + i
      if (SMap.get none s.cc k).isNone then SMap.set false m k true else m) s.slotPois }

/-! ## The error log (R61, R480) -/

/-- The key of ERRCNT (R60). -/
def errKey : Nat := slotKey 0 4

/-- Write an error-log entry (R61 Table 11): entry k since cold reset stands at slot k mod 256, whatever ERRCNT has been made to hold;
TIME in µs, one cycle of the model standing for one core cycle (log 15). ERRCNT takes no add while its slot is POISON (R251, log
175). -/
def putError (s : State) (source cls code index addr detail : Nat) : State :=
  let k := s.cfg.errN % 256
  let time := s.cycle / 1300
  let e : BitVec 256 := BitVec.ofNat 256 (time % 2 ^ 64 + 2 ^ 64 * (source % 256) + 2 ^ 72 * (cls % 256) +
    2 ^ 80 * (code % 2 ^ 16) + 2 ^ 96 * (index % 2 ^ 32) + 2 ^ 128 * (addr % 2 ^ 64) + 2 ^ 192 * (detail % 2 ^ 64))
  let s1 : State := { s with cfg := { s.cfg with errlog := SMap.set 0#256 s.cfg.errlog k e, errN := s.cfg.errN + 1 } }
  if (SMap.get none s.cc errKey).isNone && SMap.get false s.slotPois errKey then s1 else addSlot s1 errKey 1

/-- The read of ERRCNT on a miss finds what any read at a home does: a correction, or an integrity fault that leaves its slots
POISON (R188, R251). -/
def errRead (s : State) : State :=
  let pa := slotAddr errKey
  let sd := sideOf s pa
  if (SMap.get none s.cc errKey).isSome || cached (dirOf s pa) || SMap.get false s.slotPois errKey then s
  else match checkOf s pa 0 with
    | .correct => if vcBad (tagVc sd.tag) then spoilSlots s errKey else s
    | .corrected j data tag => putError (freshCheck (putLine s pa data (BitVec.ofNat 32 tag)) pa 0) 0 1 1 0 (lineAddr pa) j
    | .bad => putError (spoilSlots (freshCheck (putLine s pa (lineData s pa) (poisonTag sd.tag)) pa 0) errKey) 0 2 1 0 (lineAddr pa) 0

/-- An error-log entry, with what the read of its count finds (R61, R480). -/
def logError (s : State) (source cls code index addr detail : Nat) : State :=
  putError (errRead s) source cls code index addr detail

/-! ## Lines at their homes -/

/-- A line as an access receives it; `bad` says that this access met an uncorrectable error or poison of a link. -/
structure LineVal where
  data : Nat
  tag  : BitVec 32
  bad  : Bool
deriving DecidableEq, Repr

/-- Bytes of a line as the part reads them: zero when it is UNINIT (R185). -/
def LineVal.bytes (l : LineVal) : Nat := if tagVc l.tag = .uninit then 0 else l.data

/-- Whether the device of a CXL-local line that no cache holds returns poison for it (R35, R42). -/
def devicePoison (s : State) (pa : Nat) : Bool × State :=
  match regionOf s pa, cxlMember s pa with
  | .cxl, some p => (Config.cxlPoison s.draws p (lineAddr pa), { s with draws := s.draws + 1 })
  | _, _ => (false, s)

/-- Rewrite a line at its home with what its check has found. In CONTAINED no memory port issues a write, so a CXL-local line
stays as its device holds it (R43, R188). -/
def homeFix (s : State) (pa k data : Nat) (tag : BitVec 32) : State :=
  if s.cfg.cont ∧ regionOf s pa = .cxl then s else freshCheck (putLine s pa data tag) pa k

/-- Give a line the tag and the check field that an integrity fault or a device's poison leaves (R35, R188). -/
def spoilLine (s : State) (pa k : Nat) : LineVal × State :=
  let t := poisonTag (sideOf s pa).tag
  (⟨lineData s pa, t, true⟩, homeFix s pa k (lineData s pa) t)

/-- Read from its store a line that no cache holds: its check field decides, with the home's rewrite and log entry; poison of
a CXL device makes the line POISON (R35, R188, R190). -/
def storeRead (s : State) (pa k : Nat) : LineVal × State :=
  let sd := sideOf s pa
  let (dead, s0) := devicePoison s pa
  if dead then spoilLine s0 pa k
  else match checkOf s0 pa k with
    | .correct => (⟨lineData s pa, sd.tag, false⟩, s0)
    | .corrected j data tag =>
      let t := BitVec.ofNat 32 tag
      let s1 := homeFix s0 pa k data t
      (⟨data, t, false⟩, logError s1 (homeTower pa) 1 1 (homeTower pa) (lineAddr pa) (j + 256 * k))
    | .bad =>
      let (l, s1) := spoilLine s0 pa k
      (l, logError s1 (homeTower pa) 2 1 (homeTower pa) (lineAddr pa) k)

/-- Read a line at its home under a key: a held copy is the line (R188, R190). -/
def homeRead (s : State) (pa k : Nat) : LineVal × State :=
  if cached (dirOf s pa) then (⟨lineData s pa, (sideOf s pa).tag, false⟩, s) else storeRead s pa k

/-- Who makes an access: the tower and core of a hart, or a tower's engine. -/
structure Who where
  tower : Nat
  core  : Option Nat
deriving DecidableEq, Repr

/-- Record a shared copy for a reader (R147 to R150). `noL1` says that the core's L1 is 0 KiB (R146). -/
def share (s : State) (pa k : Nat) (w : Who) (noL1 : Bool) : State :=
  let d := dirOf s pa
  let held := cached d
  let hbm := decide (pa < hbmSize)
  let own := d.l1.map fun c => (c.1, c.2.1, if c.2.2 = .m ∨ c.2.2 = .e then L1St.s else c.2.2)
  let l1 := match w.core with
    | some c => if noL1 || own.any (fun e => e.1 == w.tower && e.2.1 == c) then own else own ++ [(w.tower, c, .s)]
    | none => own
  let rdc := if (hbm && homeTower pa == w.tower) || d.rdc.contains w.tower then d.rdc else d.rdc ++ [w.tower]
  setDir s pa { d with l1 := l1, rdc := if hbm then (if homeTower pa = w.tower then d.rdc else rdc) else rdc
                       l2 := d.l2 || hbm, key := if held then d.key else k }

/-- Record the one owner of a line that is written: every other copy is invalidated first (R147, R150, R152). -/
def own (s : State) (pa k : Nat) (w : Who) (noL1 : Bool) : State :=
  let d := dirOf s pa
  let hbm := decide (pa < hbmSize)
  let l1 := match w.core with
    | some c => if noL1 then [] else [(w.tower, c, L1St.m)]
    | none => []
  setDir s pa { d with l1 := l1, rdc := [], l2 := hbm, dirty := hbm || !l1.isEmpty, key := k }

/-- Whether a write would go out on a memory port in CONTAINED (R43): a CXL-local line that enters no L1. -/
def portShut (s : State) (pa : Nat) (w : Who) (noL1 : Bool) : Bool :=
  s.cfg.cont && decide (regionOf s pa = .cxl) && (noL1 || w.core.isNone)

/-- Write a whole line with its tag at its home or in its owner's cache. A line that no cache holds afterwards takes its
check field at once; a held one at its write-back (R190). -/
def lineWrite (s : State) (pa k : Nat) (w : Who) (noL1 : Bool) (data : Nat) (tag : BitVec 32) : State :=
  if portShut s pa w noL1 then s
  else freshCheck (own (putLine s pa data (tag &&& 0x1FFFFFF#32)) pa k w noL1) pa k

/-- Poison indication of a host line (R30). -/
def hostBad (s : State) (pa : Nat) : Bool := SMap.get false s.hostPois (pa / 64)

/-- Read a host line: bytes with the tag of R30. DESIGN CHOICE (log 188): one whose port is down or has never trained is read all the
same. -/
def hostRead (s : State) (pa lfmt : Nat) : LineVal :=
  let bad := hostBad s pa
  ⟨lineData s pa, mkTag lfmt (if bad then .poison else .valid) 0 127 127, bad⟩

/-- Hold a host line that is read in the reader's remote data cache, in CXL mode alone (R29, R150). -/
def hostShare (s : State) (h : HostId) (pa : Nat) (w : Who) : State :=
  let d := dirOf s pa
  if !(SMap.get HostPort.reset s.cfg.port (portOf h)).cxl || d.rdc.contains w.tower then s
  else setDir s pa { d with rdc := d.rdc ++ [w.tower] }

/-- Write a host line; the class decides the poison indication (R30). The host takes back what remote data caches hold of it
(R150). In CONTAINED no host port issues a write (R43). -/
def hostWrite (s : State) (pa data : Nat) (vc : Vc) : State :=
  if s.cfg.cont then s
  else
    let s1 := setDir s pa { dirOf s pa with rdc := [] }
    { s1 with mem := writeMem s1.mem (lineAddr pa) data 64, hostPois := SMap.set false s1.hostPois (pa / 64) (vcBad vc) }

/-- Read a peer line: a request goes out, and the peer answers what it will (R40); an unreachable node gives POISON (R41). -/
def peerRead (s : State) (node pa : Nat) : LineVal × State :=
  if !reachable s node then (⟨0, mkTag 0 .poison 0 127 127, true⟩, s)
  else
    let (d, s1) := draw s
    (⟨(Config.peerLine d pa).toNat, Config.peerTag d pa &&& 0x1FFFFFF#32, false⟩, sendPeer s1 node (lineAddr pa) (.readLine (lineAddr pa)))

/-- A line miss to flash brings its 4 KiB page into the home's page buffer (R139). -/
def openPage (s : State) (pa : Nat) : State :=
  if cached (dirOf s pa) then s else { s with pagebuf := SMap.set false s.pagebuf (pa / 4096) true }

/-- Read the line at a physical address through a leaf's key and LFMT. A hole, which no translation reaches, gives POISON;
flash at or above the append pointer reads as UNINIT (R299). An access to host memory is carried out whether its port is up or not
(DESIGN CHOICE, log 188). -/
def readLine (s : State) (pa k lfmt : Nat) (w : Who) (noL1 : Bool) : LineVal × State :=
  match regionOf s pa with
  | .host h => (hostRead s pa lfmt, hostShare s h pa w)
  | .peer n off => peerRead s n off
  | .hole => (⟨0, mkTag 0 .poison 0 127 127, true⟩, s)
  | r =>
    if r = .flash ∧ s.flapp ≤ pa then (⟨0, resetTag, false⟩, s)
    else
      let (l, s1) := homeRead (if r = .flash then openPage s pa else s) pa k
      (l, share s1 pa k w noL1)

/-- Write the line at a physical address; the caller has settled bytes and tag. A write to an unreachable peer or to a hole
has no effect here: its caller reports it. Nothing writes flash but a Sluice append, which has its own way there (R139). -/
def writeLine (s : State) (pa k : Nat) (w : Who) (noL1 : Bool) (data : Nat) (tag : BitVec 32) : State :=
  match regionOf s pa with
  | .host _ => hostWrite s pa data (tagVc tag)
  | .peer n off =>
    if reachable s n then sendPeer s n (lineAddr off) (.writeLine (lineAddr off) (BitVec.ofNat 512 data) tag) else s
  | .hole | .flash => s
  | _ => lineWrite s pa k w noL1 data tag

/-- Write some bits of the line at a physical address, `mask` naming them among the new contents. A line of this part or of a
host is merged by the writer, who holds it; a peer merges at its own home (R37, R40, R235). -/
def writeBits (s : State) (pa k : Nat) (w : Who) (noL1 : Bool) (mask data : Nat) (tag : BitVec 32) : State :=
  match regionOf s pa with
  | .peer n off =>
    if !reachable s n then s
    else if mask = 2 ^ 512 - 1 then sendPeer s n (lineAddr off) (.writeLine (lineAddr off) (BitVec.ofNat 512 data) tag)
    else sendPeer s n (lineAddr off) (.writePart (lineAddr off) (BitVec.ofNat 512 mask) (BitVec.ofNat 512 data) tag)
  | _ => writeLine s pa k w noL1 data tag

/-- The mask of n bytes at offset o of a line. -/
def byteMask (o n : Nat) : Nat := (2 ^ (8 * n) - 1) * 2 ^ (8 * o)

/-- Write back and drop every copy of a line (R148, R149, R190): the check field is computed under the held key. -/
def evictLine (s : State) (pa : Nat) : State :=
  let d := dirOf s pa
  let s1 := if d.dirty then freshCheck s pa d.key else s
  setDir s1 pa .none

/-! ## Counter slots -/

/-- Read a slot on a miss: the line under key 0. A line that is POISON or UNRESTORED, or meets an integrity fault, leaves its
slots POISON, and a POISON slot makes the operation fault (R251). -/
def slotMiss (s : State) (key : Nat) : Option Word × State :=
  if SMap.get false s.slotPois key then (none, s)
  else
    let pa := slotAddr key
    let (l, s1) := homeRead s pa 0
    if vcBad (tagVc l.tag) then (none, spoilSlots s1 key)
    else
      let v := BitVec.ofNat 64 (l.bytes / 2 ^ (8 * (pa % 64)))
      (some v, putSlot s1 key v)

/-- Bring a slot into the counter cache, or note the use of one that is there (R238). None: the read met an integrity fault,
or the slot is POISON (R251). -/
def slotRead (s : State) (key : Nat) : Option Word × State :=
  match SMap.get none s.cc key with
  | some e => (some e.value, { s with ccUse := SMap.set 0 s.ccUse key s.cycle })
  | none => slotMiss s key

/-- Whether the line of a slot is damaged in its store (R251). -/
def slotLineBad (s : State) (key : Nat) : Bool :=
  vcBad (tagVc (sideOf s (slotAddr key)).tag) || checkOf s (slotAddr key) 0 == .bad

/-- The bytes of a slot's line that a write-back keeps: those of a line that can be corrected are corrected (R188, R251). -/
def slotLine (s : State) (key : Nat) : Nat :=
  let pa := slotAddr key
  let (data, tag) := match checkOf s pa 0 with
    | .corrected _ data tag => (data, BitVec.ofNat 32 tag)
    | _ => (lineData s pa, (sideOf s pa).tag)
  if tagVc tag = .uninit then 0 else data

/-- Write a slot back with a fresh check field and let it go. The damage of a line that was not read goes on to the other
slots that it holds (R251). -/
def slotEvict (s : State) (key : Nat) : State :=
  match SMap.get none s.cc key with
  | none => s
  | some e =>
    let pa := slotAddr key
    let s0 := if slotLineBad s key then spoilSlots s key else s
    let old := slotLine s0 key
    let pf := if SMap.get false s0.pflag key then 2 ^ 79 else 0
    let s1 := freshCheck (putLine s0 pa (putBytes old (pa % 64) 16 (e.value.toNat + pf)) rawTag) pa 0
    { s1 with cc := SMap.set none s1.cc key none, ccUse := SMap.set 0 s1.ccUse key 0 }

/-- A unit of the part adds to one of its own counters. A slot that is POISON takes no add, and one of the call-ring counters
that is POISON is an uncorrectable error in a control structure (R70, R251). -/
def partAdd (s : State) (tower n : Nat) (d : Word) : State :=
  match slotRead s (slotKey tower n) with
  | (some _, s1) => addSlot s1 (slotKey tower n) d
  | (none, s1) => if 8 ≤ n ∧ n ≤ 10 then { s1 with ctlErr := s1.ctlErr ++ [tower] } else s1

end Sys2Proof.Machine
end

