-- ==== Sys2Proof/Machine/Harts.lean ====
section
/-! DEFINITION. Machine/Harts.lean: finding and changing a hart, the stream that issues, and where a stream stands in its
block (R104, R108, R112 to R119). -/

namespace Sys2Proof.Machine

/-! ## Harts -/

/-- Every hart of the state, the one that acts first. -/
def State.harts (s : State) : List Hart := s.h :: s.rest

/-- The hart in a slot. -/
def State.hart? (s : State) (id : HartId) : Option Hart := s.harts.find? fun h => h.id == id

/-- Change the hart in a slot. -/
def State.updHart (s : State) (id : HartId) (f : Hart → Hart) : State :=
  if s.h.id = id then { s with h := f s.h }
  else { s with rest := s.rest.map fun h => if h.id = id then f h else h }

/-- Harts before and after the first with a slot. -/
def splitHart (id : HartId) : List Hart → List Hart → Option (List Hart × Hart × List Hart)
  | _, [] => none
  | pre, h :: hs => if h.id = id then some (pre, h, hs) else splitHart id (pre ++ [h]) hs

/-- Let the hart of a slot act, the circular order of the harts kept. A slot that holds nothing changes nothing. -/
def State.focus (s : State) (id : HartId) : State :=
  if s.h.id = id then s
  else match splitHart id [] s.rest with
    | none => s
    | some (pre, h, post) => { s with h := h, rest := post ++ s.h :: pre }

/-- The hart that acts gives up its slot; the next one acts (R86, R97). -/
def State.dropHart (s : State) : State :=
  match s.rest with
  | [] => s
  | h :: hs => { s with h := h, rest := hs, onX := false }

/-- The stream that issues. -/
def State.cur (s : State) : Stream := if s.onX then s.h.x else s.h.a

/-- Replace the stream that issues. -/
def State.setCur (s : State) (t : Stream) : State :=
  if s.onX then { s with h := { s.h with x := t } } else { s with h := { s.h with a := t } }

/-- Scalar register n of the stream that issues. -/
def State.reg (s : State) (n : Nat) : Word := s.cur.reg n

/-- Write scalar register n of the stream that issues. -/
def State.setReg (s : State) (n : Nat) (v : Word) : State := s.setCur (s.cur.setReg n v)

/-- The hart's place for accesses. -/
def Hart.who (h : Hart) : Who := ⟨h.id.tower, some h.id.core⟩

/-- Whether the hart's L1 is 0 KiB (R146). -/
def Hart.noL1 (h : Hart) : Bool := h.lsplit == 12#4

/-- Bytes of the hart's scratchpad share (R143, R144). -/
def Hart.share (h : Hart) : Nat := (if h.joined then 32768 else 8192) * h.lsplit.toNat

/-! ## Blocks (R112, R113) -/

/-- Words before the body: the header, and the stage map if there is one. -/
def Block.lead (b : Block) : Nat := if 2 ≤ b.stages then 2 else 1

/-- Address of body word w. -/
def Block.wordAddr (b : Block) (w : Nat) : Word := b.hdr + BitVec.ofNat 64 (4 * (b.lead + w))

/-- Address of the next block's header (R112). -/
def Block.next (b : Block) : Word := b.wordAddr b.body.length

/-- Stage of a body word: S - 1 before the first boundary, and one less from each boundary on (R113). -/
def Block.stageOf (b : Block) (w : Nat) : Nat := b.stages - 1 - (b.bounds.filter fun x => decide (x ≤ w)).length

/-- Whether word w of trip t executes: its iteration has started and is not cut off (R117). -/
def Stream.runs (t : Stream) (w : Nat) : Bool :=
  let i := t.k + t.trip
  let g := t.blk.stageOf w
  decide (t.k + g ≤ i) && decide (i < t.last + g)

/-- The first word from w on that executes in the present trip, `n` words being left. -/
def Stream.nextRun (t : Stream) : Nat → Nat → Option Nat
  | 0, _ => none
  | n + 1, w => if t.runs w then some w else t.nextRun n (w + 1)

/-- Whether the loop goes on in the present trip (R117). -/
def Stream.goesOn (t : Stream) : Bool := decide (t.k + t.trip < t.last + (t.blk.stages - 1)) && decide (t.k < t.last)

/-- The start of a trip: a pending stop turns stage 0 off, and the first word that executes is found. At the end of the
block the stream stands before the next header; at the end of a drain it stands at the prologue of the first iteration
not started (R117, R119). -/
def Stream.tripStart (t : Stream) (stopping : Bool) : Stream :=
  let last := if stopping && t.last == t.n && decide (2 ≤ t.blk.stages) then Nat.min t.n (t.k + t.trip) else t.last
  let t1 := { t with last := last }
  if t1.goesOn then
    { t1 with pos := .word ((t1.nextRun t.blk.body.length 0).getD 0) }
  else if last < t.n then
    let t2 := { t1 with k := last, last := t.n, trip := 0 }
    { t2 with pos := .word ((t2.nextRun t.blk.body.length 0).getD 0) }
  else { t1 with pos := .enter t.blk.next (t.blk.wordAddr (t.blk.body.length - 1)) none }

/-- Move past body word w (R117). -/
def Stream.past (t : Stream) (stopping : Bool) (w : Nat) : Stream :=
  match t.nextRun (t.blk.body.length - (w + 1)) (w + 1) with
  | some v => { t with pos := .word v }
  | none => ({ t with trip := t.trip + 1 } : Stream).tripStart stopping

/-- A stream that goes on at body word w: it moves past a word that its trip does not execute (R117). -/
def Stream.goOn (t : Stream) (stopping : Bool) (w : Nat) : Stream :=
  if t.runs w then { t with pos := .word w } else t.past stopping w

/-- Address of the word a stream stands at. -/
def Stream.pc (t : Stream) : Word :=
  match t.pos with
  | .word w => t.blk.wordAddr w
  | .enter h _ _ => h
  | .reload h w => h + BitVec.ofNat 64 (4 * w)

/-- Whether the stream stands at a block-iteration boundary (R118). -/
def Stream.atBoundary (t : Stream) : Bool :=
  match t.pos with
  | .enter _ _ _ => true
  | .reload _ w => w == 0
  | .word w =>
    if t.blk.stages ≤ 1 then w == 0
    else t.trip == 0 && t.last == t.n && w == (t.nextRun t.blk.body.length 0).getD 0

/-- Whether a soft request may take the stream where it stands: not while an instruction that has been tried waits in RUN, as
a STEP that gives way does (R110 Table 4, R117, R118, R354). -/
def Stream.canStop (t : Stream) : Bool :=
  match t.st with
  | .idle | .stopped => true
  | .wait => true
  | .run => t.atBoundary && !t.begun && !t.tried
  | .qblock => false

/-- A request that takes a stream only at a pre-emption point (R118). -/
def softRequest (r : Option StopReq) : Bool :=
  match r with
  | some .soft | some .withdraw | some .kill | some .freezeSoft => true
  | _ => false

/-- Move the issuing stream past its present word. -/
def State.advance (s : State) : State :=
  match s.cur.pos with
  | .word w => s.setCur ({ s.cur with st := .run, wait := .none, begun := false, stepPast := false }.past
      (softRequest s.h.req) w)
  | _ => s

/-- The stream stays at its instruction, in a state that says why. -/
def State.stall (s : State) (st : StreamSt) (w : Wait) : State := s.setCur { s.cur with st := st, wait := w }

/-- Whether an older X instruction is unadmitted. -/
def Hart.unadmitted (h : Hart) : Bool := h.xl.any fun e => !e.admitted && e.op.isSome

end Sys2Proof.Machine
end

