-- ==== Sys2Proof/Machine/Translate.lean ====
section
/-! DEFINITION. Machine/Translate.lean: page tables, walks, the TLBs and the permission checks (R153 to R164). -/

namespace Sys2Proof.Machine

/-! ## Entries (R154 Table 9) -/

def pteV (e : Nat) : Bool := e.testBit 0
def pteR (e : Nat) : Bool := e.testBit 1
def pteW (e : Nat) : Bool := e.testBit 2
def pteX (e : Nat) : Bool := e.testBit 3
def pteU (e : Nat) : Bool := e.testBit 4
def pteG (e : Nat) : Bool := e.testBit 5
def pteA (e : Nat) : Bool := e.testBit 6
def pteD (e : Nat) : Bool := e.testBit 7
def pteNL (e : Nat) : Bool := e.testBit 8
def pteCR (e : Nat) : Nat := fieldOf e 10 9
def pteDPOL (e : Nat) : Bool := e.testBit 11
def pteLFMT (e : Nat) : Nat := fieldOf e 16 12
def pteKEY (e : Nat) : Nat := fieldOf e 23 17
def pteTIER (e : Nat) : Nat := fieldOf e 25 24
/-- The frame or table address of an entry. -/
def ptePA (e : Nat) : Nat := e / 2 ^ 26 * 2 ^ 14

/-- Compaction ratio of a leaf: 1, 2 or 4 (R154). -/
def pteRatio (e : Nat) : Nat := 2 ^ pteCR e

/-- Bits of the address below a level's index: what a leaf there maps (R153 Table 8). -/
def levelShift (level : Nat) : Nat := match level with | 0 => 55 | 1 => 42 | 2 => 29 | _ => 16

/-- Index of an address at a level. -/
def levelIndex (va level : Nat) : Nat := va / 2 ^ levelShift level % (if level = 0 then 512 else 8192)

/-- Whether two byte ranges meet. -/
def rangesMeet (a n b m : Nat) : Bool := decide (a < b + m) && decide (b < a + n)

/-- Whether a frame overlaps a counter store (R137). -/
def meetsCounterStore (pa n : Nat) : Bool :=
  (List.range 8).any fun t => rangesMeet pa n (slotAddr (slotKey t 0)) (2 ^ 24)

/-- Whether a frame lies wholly in the region its TIER names (R155). -/
def frameOk (s : State) (tier pa n : Nat) : Bool :=
  let a := regionOf s pa
  let z := regionOf s (pa + n - 1)
  match tier with
  | 0 => decide (a = .hbm) && decide (z = .hbm) && !meetsCounterStore pa n
  | 1 => decide (a = .flash) && decide (z = .flash)
  | 2 => decide (a = .cxl) && decide (z = .cxl)
  | _ =>
    match a, z with
    | .host p, .host q => decide (p = q)
    | .peer _ _, .peer _ _ => pa / 2 ^ 40 == (pa + n - 1) / 2 ^ 40
    | _, _ => false

/-- Bytes a leaf's frame takes: 64 KiB over the ratio for a page, the block for a block. -/
def frameSize (e level : Nat) : Nat := if level = 3 then 65536 / pteRatio e else 2 ^ levelShift level

/-- Whether a leaf is a bad entry (R155). -/
def badLeaf (s : State) (e level : Nat) : Bool :=
  level == 0 || pteCR e == 3 || !fmtDefined (pteLFMT e) || (pteW e && !pteR e) || (pteCR e != 0 && !pteDPOL e)
    || (decide (level < 3) && pteCR e != 0)
    || decide (ptePA e % frameSize e level ≠ 0)
    || (pteTIER e == 1 && pteW e)
    || !frameOk s (pteTIER e) (ptePA e) (frameSize e level)

/-- Whether a pointer is a bad entry (R155). -/
def badPointer (e level : Nat) : Bool := level == 3 || fieldOf e 25 4 != 0 || fieldOf e 27 26 != 0

/-- A pointer: V = 1 and R = W = X = 0 (R154). -/
def isPointer (e : Nat) : Bool := pteV e && !pteR e && !pteW e && !pteX e

/-- Why a translation or an access fails: a cause, a walk level, the address to report. -/
structure Err where
  cause : Nat
  level : Nat
  va    : Word
deriving DecidableEq, Repr

/-- Read 8 bytes that the page walker names, under key 0 (R161, R190). None: the line is POISON or UNRESTORED, meets an
integrity fault, or does not exist. -/
def walkRead (s : State) (tower pa : Nat) : Option Nat × State :=
  if regionOf s pa = .hole then (none, s)
  else
    let (l, s1) := readLine s pa 0 0 ⟨tower, none⟩ true
    if vcBad (tagVc l.tag) then (none, s1) else (some (l.bytes / 2 ^ (8 * (pa % 64)) % 2 ^ 64), s1)

/-- The leaf a walk ends at, with its level and the address of the entry. -/
structure Leaf where
  e     : Nat
  level : Nat
  at_   : Nat
deriving DecidableEq, Repr

/-- The cached pointer of a level (R160). -/
def pwcFind (s : State) (tower asid level idx : Nat) : Option Nat :=
  (s.pwc.find? fun p => p.tower == tower && p.asid == asid && p.level == level && p.idx == idx).map fun p => p.entry

/-- Walk on from a table, `n` levels being left (R153, R155). A pointer read from memory enters the page-walk cache. -/
def walkTable (tower asid va : Nat) : Nat → Nat → Nat → State → Except (Nat × Nat) Leaf × State
  | 0, level, _, s => (.error (causeBADENTRY, level), s)
  | n + 1, level, table, s =>
    let pa := table + 8 * levelIndex va level
    match pwcFind s tower asid level (va / 2 ^ levelShift level) with
    | some e => walkTable tower asid va n (level + 1) (ptePA e) s
    | none =>
      match walkRead s tower pa with
      | (none, s1) => (.error (causeBADENTRY, level), s1)
      | (some e, s1) =>
        if !pteV e then (.error (causeNOTMAPPED, level), s1)
        else if isPointer e then
          if badPointer e level then (.error (causeBADENTRY, level), s1)
          else walkTable tower asid va n (level + 1) (ptePA e)
            { s1 with pwc := ⟨tower, asid, level, va / 2 ^ levelShift level, e⟩ :: s1.pwc }
        else if badLeaf s1 e level then (.error (causeBADENTRY, level), s1)
        else (.ok ⟨e, level, pa⟩, s1)

/-- Read an ASID table entry (R159). One in use with a nonzero reserved field is rejected as a bad entry (R6). -/
def asidRoot (s : State) (tower asid : Nat) : Except (Nat × Nat) Nat × State :=
  match walkRead s tower (s.asidtab + 8 * asid) with
  | (none, s1) => (.error (causeBADENTRY, 0), s1)
  | (some e, s1) =>
    if !e.testBit 0 then (.error (causeNOTMAPPED, 0), s1)
    else if fieldOf e 11 1 ≠ 0 ∨ fieldOf e 63 52 ≠ 0 then (.error (causeBADENTRY, 0), s1)
    else (.ok (fieldOf e 51 12 * 4096), s1)

/-- A whole walk (R153, R159). -/
def walk (s : State) (tower asid va : Nat) : Except (Nat × Nat) Leaf × State :=
  match asidRoot s tower asid with
  | (.error e, s1) => (.error e, s1)
  | (.ok root, s1) => walkTable tower asid va 4 0 root s1

/-- What a compare-and-swap of the page walker on an entry comes to. -/
inductive Swap where
  | done | changed | closed
deriving DecidableEq, Repr

/-- Replace an entry that reads `e` by a compare-and-swap at its home (R157, R210). An entry in flash, which only a Sluice append
writes, is closed to it (R139). A peer answers with the value that it found; at the last try it found the one expected (`last`;
log 162). -/
def pteSwap (s : State) (tower pa e new : Nat) (last : Bool) : Swap × State :=
  match regionOf s pa with
  | .flash => (.closed, s)
  | .peer n off =>
    let (d, s1) := draw s
    let s2 := sendPeer s1 n (lineAddr off) (.atomic off .cas true (BitVec.ofNat 64 new) (BitVec.ofNat 64 e))
    (if last || (Config.peerAtom d off).toNat == e then .done else .changed, s2)
  | _ =>
    match walkRead s tower pa with
    | (some v, s1) =>
      if v = e then
        let (l, s2) := readLine s1 pa 0 0 ⟨tower, none⟩ true
        (.done, writeLine s2 pa 0 ⟨tower, none⟩ true (putBytes l.bytes (pa % 64) 8 new) l.tag)
      else (.changed, s1)
    | (none, s1) => (.changed, s1)

/-- Set bits of an entry, with the value the walk read (R157). -/
def pteSet (s : State) (tower pa e bits : Nat) (last : Bool) : Swap × State := pteSwap s tower pa e (e ||| bits) last

/-- Whether a cached translation serves an address of an ASID (R160). -/
def tlbCovers (t : TlbEntry) (asid va : Nat) : Bool :=
  (t.asid == asid || pteG t.leaf) && t.vbase == va / 2 ^ levelShift t.level

/-- The cached translation that a core or a tower's engine would use (R160). -/
def tlbFind (s : State) (w : Who) (asid va : Nat) : Option TlbEntry :=
  s.tlb.find? fun t => t.tower == w.tower && (t.core == none || t.core == w.core) && tlbCovers t asid va

/-- The PEERMAP entry that an address of the map uses at this moment; 0 outside peer memory (R136). -/
def peerEntry (s : State) (pa : Nat) : Word := if inPeerMap pa then SMap.get 0 s.peermap (pa / 2 ^ 40 % 1024) else 0

/-- Cache a leaf in the core's L1 TLB and the tower's L2 TLB, in place of what they held for the address (R157, R160). -/
def tlbFill (s : State) (w : Who) (asid va : Nat) (l : Leaf) : State :=
  let keep := s.tlb.filter fun t => !(t.tower == w.tower && (t.core == none || t.core == w.core) && t.asid == asid
    && tlbCovers t asid va)
  let mk := fun c => (⟨w.tower, c, asid, l.level, va / 2 ^ levelShift l.level, l.e, peerEntry s (ptePA l.e)⟩ : TlbEntry)
  let new := match w.core with | some c => [mk (some c), mk none] | none => [mk none]
  { s with tlb := new ++ keep }

/-- Physical address of a virtual address under a leaf: for a page with CR ≠ 00 the start of the part's place is given by
`partByte` (R158). -/
def leafPa (e level va : Nat) : Nat :=
  if level = 3 then
    let c := pteRatio e
    let o := va % 65536
    if c = 1 then ptePA e + o
    else ptePA e + 64 * (o / (64 * c)) + (64 / c) * (o / 64 % c)
  else ptePA e + va % 2 ^ levelShift level

/-- A translated address under a leaf and a PEERMAP entry. -/
def xlatOf (leaf level va : Nat) (peer : Word) : Xlat :=
  let p := leafPa leaf level va
  ⟨leaf, level, p, placeOf peer p⟩

/-- The walks of a TLB miss, with A and D set as R157 says: where the entry has changed under a walk, the translation is
discarded and the walk made again, at most `n` times. An entry in flash cannot take A, and its leaf is used without being
cached; one that needs D there is a bad entry. DESIGN CHOICE (log 166): a write sets D where its leaf has W = 1, before the
permission check that may still refuse the write by U. -/
def walkTries (w : Who) (asid va : Nat) (wr : Bool) : Nat → State → Except (Nat × Nat) Leaf × State
  | 0, s => (.error (causeBADENTRY, 3), s)
  | n + 1, s =>
    match walk s w.tower asid va with
    | (.error e, s1) => (.error e, s1)
    | (.ok l, s1) =>
      let bits := 64 + (if wr && pteW l.e then 128 else 0)
      if l.e &&& bits = bits then (.ok l, tlbFill s1 w asid va l)
      else match pteSet s1 w.tower l.at_ l.e bits (n == 0) with
        | (.done, s2) =>
          let l1 := { l with e := l.e ||| bits }
          (.ok l1, tlbFill s2 w asid va l1)
        | (.changed, s2) => walkTries w asid va wr n s2
        | (.closed, s2) => if bits = 64 then (.ok l, s2) else (.error (causeBADENTRY, l.level), s2)

/-- The walk of a TLB miss (R157). -/
def walkFill (s : State) (w : Who) (asid va : Nat) (wr : Bool) : Except (Nat × Nat) Leaf × State :=
  walkTries w asid va wr 4 s

/-- Translate an address (R157, R160): a cached translation serves unless a write finds D = 0. -/
def translate (s : State) (w : Who) (asid : Nat) (va : Word) (wr : Bool) : Except (Nat × Nat) Xlat × State :=
  let a := va.toNat
  match tlbFind s w asid a with
  | some t =>
    if wr && pteW t.leaf && !pteD t.leaf then
      match walkFill s w asid a wr with
      | (.error e, s1) => (.error e, s1)
      | (.ok l, s1) => (.ok (xlatOf l.e l.level a (peerEntry s1 (ptePA l.e))), s1)
    else (.ok (xlatOf t.leaf t.level a t.peer), s)
  | none =>
    match walkFill s w asid a wr with
    | (.error e, s1) => (.error e, s1)
    | (.ok l, s1) => (.ok (xlatOf l.e l.level a (peerEntry s1 (ptePA l.e))), s1)

/-- What an access needs of its leaf (R156 Table 10). -/
inductive Need where
  | read | write | exec
deriving DecidableEq, Repr

/-- The permission check (R156). -/
def permitted (e : Nat) (n : Need) (priv : Bool) : Bool :=
  (priv || pteU e) && (match n with | .read => pteR e | .write => pteR e && pteW e | .exec => pteX e)

/-- Translate and check one address. -/
def reach (s : State) (w : Who) (asid : Nat) (priv : Bool) (va : Word) (n : Need) : Except Err Xlat × State :=
  match translate s w asid va (n == .write) with
  | (.error (c, l), s1) => (.error ⟨c, l, va⟩, s1)
  | (.ok x, s1) => if permitted x.leaf n priv then (.ok x, s1) else (.error ⟨causePERMISSION, 0, va⟩, s1)

/-- An access of the hart that acts. -/
def State.reachH (s : State) (va : Word) (n : Need) : Except Err Xlat × State :=
  reach s s.h.who s.h.asid.toNat s.h.priv va n

/-- Whether n bytes at a place lie in a frame of a guarded page (R212). -/
def guardedPa (s : State) (pa n : Nat) : Bool :=
  s.guards.any fun g => rangesMeet pa n g.old g.oldN || rangesMeet pa n g.new g.newN

/-- Whether a write of the hart that acts translates to a page under a write guard, by its ASID or through any translation of
the page's frames (R210, R212). -/
def guarded (s : State) (va : Word) : Bool :=
  (s.guards.any fun g => g.asid == s.h.asid.toNat && g.page == va.toNat / 65536) ||
    (!s.guards.isEmpty && match (s.reachH va .write).1 with | .ok x => guardedPa s x.pa 1 | .error _ => false)

/-! ## TLBI (R163, R449) -/

/-- Which translations a TLBI removes. -/
inductive TlbiKind where
  | va (asid : Nat) (a : Nat)
  | asid (asid : Nat)
  | all
deriving DecidableEq, Repr

def tlbiHits (k : TlbiKind) (t : TlbEntry) : Bool :=
  match k with
  | .va asid a => tlbCovers t asid a
  | .asid asid => t.asid == asid && !pteG t.leaf
  | .all => true

def pwcHits (k : TlbiKind) (p : PwcEntry) : Bool :=
  match k with
  | .va asid a => p.asid == asid && p.idx == a / 2 ^ levelShift p.level
  | .asid asid => p.asid == asid
  | .all => true

/-- Remove translations from every TLB and page-walk cache. -/
def tlbRemove (s : State) (k : TlbiKind) : State :=
  { s with tlb := s.tlb.filter fun t => !tlbiHits k t, pwc := s.pwc.filter fun p => !pwcHits k p }

end Sys2Proof.Machine
end

