-- ==== Sys2Proof/Machine/UndoLog.lean ====
section
/-! DEFINITION. Machine/UndoLog.lean: the log controller of a context. Its region and records, what is logged, and what
happens when the ring fills (R272 to R285). -/

namespace Sys2Proof.Machine

/-! ## Memory through the translations a launch holds (R80, R268, R272) -/

/-- Physical address and key of a virtual address of the held regions; none outside them. -/
def heldAt (e : LEntry) (va : Nat) : Option (Nat × Nat) :=
  (SMap.get none e.pages (va / 65536)).map fun p => (p.1 + va % 65536, p.2)

/-- Physical address and key of a virtual address of the held regions, 0 outside them. -/
def heldPa (e : LEntry) (va : Nat) : Nat × Nat := (heldAt e va).getD (0, 0)

/-- Read a line of a held region at its home: this part's memory, a host's, or a peer's (R29, R30, R40, R79). -/
def heldRead (s : State) (pa k : Nat) : LineVal × State :=
  match regionOf s pa with
  | .host _ => (hostRead s pa 0, s)
  | .peer n off => peerRead s n off
  | _ => homeRead s pa k

/-- Write bits of a line of a held region at its home, with the tag RAW, VALID where the tier holds tags (R30, R40, R268, R272). -/
def heldWrite (s : State) (pa k mask data : Nat) : State := writeBits s pa k ⟨homeTower pa, none⟩ true mask data rawTag

/-- Write n bytes within one line of a held region: the line keeps its other bytes. A peer merges them at its home (R268, R272). -/
def heldPut (s : State) (l : Nat) (va n v : Nat) : State :=
  match heldAt (s.entry l) va with
  | none => s
  | some (pa, k) =>
    let far := match regionOf s pa with | .peer _ _ => true | _ => false
    let (old, s1) := if far then (⟨0, rawTag, false⟩, s) else heldRead s pa k
    heldWrite s1 pa k (byteMask (pa % 64) n) (putBytes old.bytes (pa % 64) n v)

/-- Write whole lines of a held region. -/
def heldPutLines (l : Nat) : Nat → State → Nat → Nat → State
  | 0, s, _, _ => s
  | n + 1, s, va, v =>
    match heldAt (s.entry l) va with
    | none => s
    | some (pa, k) => heldPutLines l n (heldWrite s pa k (2 ^ 512 - 1) (v % 2 ^ 512)) (va + 64) (v / 2 ^ 512)

/-- Read whole lines of a held region: the bytes, and whether one met an integrity fault or came back poisoned. -/
def heldGetLines (l : Nat) : Nat → State → Nat → Nat × Bool × State
  | 0, s, _ => (0, false, s)
  | n + 1, s, va =>
    match heldAt (s.entry l) va with
    | none => (0, false, s)
    | some (pa, k) =>
      let (v, s1) := heldRead s pa k
      let (rest, bad, s2) := heldGetLines l n s1 (va + 64)
      (v.bytes + 2 ^ 512 * rest, v.bad || bad, s2)

/-- Read n bytes within one line of a held region. -/
def heldGet (s : State) (l va n : Nat) : Nat × State :=
  match heldAt (s.entry l) va with
  | none => (0, s)
  | some (pa, k) =>
    let (v, s1) := heldRead s pa k
    (v.bytes / 2 ^ (8 * (pa % 64)) % 2 ^ (8 * n), s1)

/-! ## The ring (R272 to R275) -/

/-- Bytes of the region. -/
def LaunchRec.logBytes (r : LaunchRec) : Nat := r.logsize * 65536

/-- Units of the ring. -/
def LaunchRec.ringUnits (r : LaunchRec) : Nat := (r.logBytes - 128) / 128

/-- Free units of the ring. -/
def LEntry.freeUnits (e : LEntry) : Nat := e.recd.ringUnits - e.undo.used

/-- Whether the free ring space is below the reserve (R284). -/
def LEntry.lowRing (e : LEntry) : Bool := decide (e.freeUnits * 128 < e.recd.logBytes / 16)

/-- Whether a task's FULL reads 1 (R284). -/
def State.logFull (s : State) (h : Hart) : Bool :=
  match h.launch with
  | some l => h.hold && (s.entry l).lowRing
  | none => false

/-- Change a context's log controller. -/
def State.updLog (s : State) (l : Nat) (f : LogCtl → LogCtl) : State :=
  let e := s.entry l
  s.setEntry l { e with undo := f e.undo }

/-- Units that a PAD takes so that `units` do not wrap (R275). -/
def padUnits (e : LEntry) (units : Nat) : Nat :=
  if e.recd.logBytes < e.undo.tail + 128 * units then (e.recd.logBytes - e.undo.tail) / 128 else 0

/-- Whether a record of some units, with its PAD, fits; in a ring that holds nothing HEAD passes the PAD (R275). -/
def recFits (e : LEntry) (units : Nat) : Bool :=
  decide ((if e.undo.recs.isEmpty then 0 else padUnits e units) + units ≤ e.freeUnits)

/-- Whether a window lies from `g` on, as windows wrap modulo 2^32 and the current one is `win` (R274, R287). -/
def windowFrom (win g : BitVec 32) (w : Nat) : Bool :=
  decide ((BitVec.ofNat 32 w - g).toNat ≤ (win + 1 - g).toNat)

/-- Newest window holding a kept exit record (R273 EXITW). -/
def newestExit (recs : List (Nat × Nat × Nat × Nat)) : BitVec 32 :=
  match (recs.filter fun r => r.2.1 == 4).getLast? with
  | some r => BitVec.ofNat 32 r.2.2.1
  | none => 0xFFFFFFFF#32

/-- Whether HEAD moves past a record of the ring: a PAD, or space that has been reclaimed (R275, R283). -/
def passed (r : Nat × Nat × Nat × Nat) : Bool := r.2.1 == 0 || r.2.1 == 6

/-- Take the records of a list for the ring: HEAD moves past PADs and reclaimed space, and the units in use and EXITW follow.
Reclaimed space behind a record that is kept stays in use until HEAD reaches it. -/
def LogCtl.keep (c : LogCtl) (all : List (Nat × Nat × Nat × Nat)) : LogCtl :=
  let recs := all.dropWhile passed
  { c with
    recs := recs
    used := recs.foldl (fun n r => n + r.2.2.2) 0
    head := match recs.head? with | some r => r.1 | none => c.tail
    exitw := newestExit recs
    snapAt := c.snapAt.filter fun x => recs.any fun r => r.1 == x.2.2 && r.2.1 == 5 }

/-- Free the records and PADs of the windows before one, as HEAD passes them. -/
def LogCtl.dropBefore (c : LogCtl) (g : BitVec 32) : LogCtl :=
  c.keep (c.recs.map fun r => if windowFrom c.win g r.2.2.1 then r else (r.1, 6, r.2.2))

/-- Whether the ring holds a record of a window before the horizon, which no rewind restores: window 0 has no SNAP. -/
def LogCtl.stale (c : LogCtl) : Bool := c.recs.any fun r => r.2.1 != 6 && !windowFrom c.win c.hzn r.2.2.1

/-- Reclaim the oldest window: its records and PADs become free as HEAD passes them (R283). -/
def LogCtl.reclaim (c : LogCtl) : LogCtl := { c.dropBefore (c.hzn + 1) with hzn := c.hzn + 1 }

/-- Discard the whole log (R283): writes make no record until the next collective. A collective in progress loses the
SNAP records made so far (R285). -/
def LogCtl.discard (c : LogCtl) : LogCtl :=
  { c.keep [] with hzn := c.win + 1, off := true, lost := c.lost || !c.arrived.isEmpty, head := c.tail }

/-- Reclaim windows older than the current one until a record fits, `n` of them at most: first what stands before the horizon,
then the horizon (R283). -/
def reclaimUntil (units : Nat) : Nat → LEntry → LEntry
  | 0, e => e
  | n + 1, e =>
    let c := e.undo
    if recFits e units then e
    else if c.stale && c.hzn != c.win + 1 then reclaimUntil units n { e with undo := c.dropBefore c.hzn }
    else if c.hzn == c.win || c.hzn == c.win + 1 then e
    else reclaimUntil units n { e with undo := c.reclaim }

/-- Who makes a logged write: the context, the agent, the hart, and whether its mode is HOLD (R275, R284). -/
structure LogWho where
  l     : Nat
  agent : Nat
  id    : HartId
  hold  : Bool
deriving DecidableEq, Repr

/-- The fields that every record has (R275 Table 3). -/
def recHead (type win agent : Nat) (id : HartId) (key : Nat) : Nat :=
  type + 2 ^ 8 * win + 2 ^ 40 * agent + 2 ^ 44 * id.tower + 2 ^ 47 * id.core + 2 ^ 54 * id.group + 2 ^ 56 * key

/-- Write one 128-byte record at an offset of the region. -/
def putRec (s : State) (l off v : Nat) : State :=
  heldPutLines l 2 s ((s.entry l).recd.logbase.toNat + off) v

/-- Take room for a record of some units, PAD included: the offset of its first unit. TAIL at the end of the ring goes on at
offset 128 (R275). Records stand in the order in which they are made: of two tasks one may put the SNAP of the next window before
a record of this window of the other (R279; DEDUCED, log 155). -/
def takeRoom (s : State) (l type win units : Nat) : Nat × State :=
  let e := s.entry l
  let pad := padUnits e units
  let cur := e.undo.win.toNat
  let s1 := if pad = 0 then s else putRec s l e.undo.tail (recHead 0 cur 0 ⟨0, 0, 0⟩ 0)
  let off := if pad = 0 then e.undo.tail else 128
  let c := e.undo
  let recs := c.recs ++ (if pad = 0 then [] else [(c.tail, 0, cur, pad)]) ++ [(off, type, win, units)]
  let tail := off + 128 * units
  (off, s1.updLog l fun _ => { c.keep recs with tail := if e.recd.logBytes ≤ tail then 128 else tail })

/-- Append one record (R280 to R284). RING mode reclaims; a HOLD task's write that has used up the reserve is performed
without a record, with a discard and an error-log entry. -/
def appendRec (s : State) (w : LogWho) (type key : Nat) (body : Nat) : State :=
  let e := s.entry w.l
  if e.undo.off then s
  else
    let e1 := if w.hold then e else reclaimUntil 1 (e.undo.recs.length + 2) e
    let win := e1.undo.win.toNat
    if recFits e1 1 then
      let (off, s1) := takeRoom (s.setEntry w.l e1) w.l type win 1
      let v := recHead type win w.agent w.id key + body
      (putRec s1 w.l off v).updLog w.l fun c => { c with heads := SMap.set 0 c.heads off (v % 2 ^ 512) }
    else
      let s1 := s.setEntry w.l { e1 with undo := e1.undo.discard }
      if w.hold then
        let base := e.recd.logbase.toNat
        logError s1 (homeTower (heldPa e base).1) 2 2 w.l base win
      else s1

/-- The mark of the context's current window (R281). -/
def logMark (s : State) (l : Nat) : Nat × Bool := (l, (s.entry l).undo.win.toNat % 2 == 1)

/-- Log a write of a line: LINE, or ADDR on an NL page, on its first write in the window (R280, R281). -/
def logLine (s : State) (w : LogWho) (pa va key : Nat) (nl : Bool) (old : LineVal) : State :=
  let d := dirOf s pa
  let m := logMark s w.l
  if d.l2 && d.mark == some m then s
  else
    let addr := 2 ^ 64 * lineAddr pa + 2 ^ 128 * (va / 64 * 64)
    let s1 := if nl then appendRec s w 2 key addr
      else appendRec s w 1 key (addr + 2 ^ 192 * old.tag.toNat + 2 ^ 512 * old.data)
    if pa < hbmSize then
      let d1 := dirOf s1 pa
      setDir s1 pa { d1 with l2 := true, mark := some m, key := if cached d1 then d1.key else key }
    else s1

/-- Log an exit (R280). -/
def logExit (s : State) (w : LogWho) (kind addr count : Nat) : State :=
  appendRec s w 4 0 (2 ^ 64 * addr + 2 ^ 192 * kind + 2 ^ 224 * count)

/-- Log an operation on a counter of this part: its first in the window (R280, R281). -/
def logCounter (s : State) (w : LogWho) (key : Nat) (handle old : Word) : State :=
  let m := logMark s w.l
  match SMap.get none s.cc key with
  | some e =>
    if e.mark == some m then s
    else
      let s1 := appendRec s w 3 0 (2 ^ 64 * handle.toNat + 2 ^ 256 * old.toNat)
      { s1 with cc := SMap.set none s1.cc key (some ⟨(slotRaw s1 key), some m⟩) }
  | none => appendRec s w 3 0 (2 ^ 64 * handle.toNat + 2 ^ 256 * old.toNat)

/-- The hart's own log identity for an agent number; none for a hart without a launch (a service hart). -/
def Hart.logWho (h : Hart) (agent : Nat) : Option LogWho := h.launch.map fun l => ⟨l, agent, h.id, h.hold⟩

/-- Clear the context's marks in the L2s and counter caches (R278). -/
def clearMarks (s : State) (l : Nat) : State :=
  let hit := fun (m : Option (Nat × Bool)) => match m with | some x => x.1 == l | none => false
  { s with
    dir := s.dir.map fun p => if hit p.2.mark then (p.1, { p.2 with mark := none }) else p
    cc := s.cc.map fun p => match p.2 with
      | some e => if hit e.mark then (p.1, some { e with mark := none }) else p
      | none => p }

/-- Write the log header to memory (R273 Table 1). HOLD is 1 when a live task of the context is in HOLD mode. -/
def putHeader (s : State) (l : Nat) (hold : Bool) : State :=
  let e := s.entry l
  let c := e.undo
  let full := hold && e.lowRing
  heldPutLines l 2 s e.recd.logbase.toNat
    (c.head + 2 ^ 64 * c.tail + 2 ^ 128 * c.hzn.toNat + 2 ^ 160 * c.win.toNat + (if hold then 2 ^ 192 else 0) +
      (if full then 2 ^ 193 else 0) + 2 ^ 256 * c.exitw.toNat)

end Sys2Proof.Machine
end

