-- ==== Sys2Proof/Machine/Access.lean ====
section
/-! DEFINITION. Machine/Access.lean: what an access does to the lines it touches. Scalar pieces, elements of vector
accesses, the fill of an entry, the contents a store gives a line, atomics, and the scratchpad
(R143, R144, R195, R197, R203 to R206, R208, R226, R362 to R380, R440, R441). -/

namespace Sys2Proof.Machine

/-! ## Scalar accesses -/

/-- The pieces of an access by line: address and bytes (R226). -/
def pieces (va : Word) (n : Nat) : List (Word × Nat) :=
  let o := va.toNat % 64
  if o + n ≤ 64 then [(va, n)] else [(va, 64 - o), (va + BitVec.ofNat 64 (64 - o), n - (64 - o))]

/-- Translate and check every piece, the first failure reported. -/
def reachPieces (s : State) (need : Need) : List (Word × Nat) → Except Err (List (Word × Nat × Xlat)) × State
  | [] => (.ok [], s)
  | (va, n) :: ps =>
    match s.reachH va need with
    | (.error e, s1) => (.error e, s1)
    | (.ok x, s1) =>
      match reachPieces s1 need ps with
      | (.error e, s2) => (.error e, s2)
      | (.ok xs, s2) => (.ok ((va, n, x) :: xs), s2)

/-- Compaction ratio of a translation; blocks have ratio 1 (R155). -/
def Xlat.ratio (x : Xlat) : Nat := if x.level = 3 then pteRatio x.leaf else 1

/-- A format that is neither an integer format nor RAW. -/
def fmtFloat (f : Nat) : Bool := fmtDefined f && !fmtInt f && f % 16 != 0

/-- Element widths at which a compacted page may be loaded, and the conversion up (R367): the element's bits in LFMT. -/
def compactElem (x : Xlat) (va : Word) (l : LineVal) (n : Nat) : Option Nat :=
  let f := pteLFMT x.leaf
  let c := x.ratio
  let g := tagFmt l.tag
  if va.toNat % n ≠ 0 ∨ elemSize f ≠ 8 * n ∨ fmtScaled f then none
  else if tagVc l.tag = .uninit then some 0
  else if fmtScaled g ∨ elemSize g ≠ elemSize f / c ∨ ¬((fmtInt f ∧ fmtInt g) ∨ (fmtFloat f ∧ fmtFloat g)) then none
  else
    let bit := 8 * (x.pa % 64) + 8 * (va.toNat % 64) / c
    some (roundTo f rmRNE 0 (elemValue g (l.bytes / 2 ^ bit % 2 ^ elemSize g))).1

/-- Read the bytes of translated pieces, lowest first (R226, R367). -/
def readPieces (s : State) : List (Word × Nat × Xlat) → Except Err Nat × State
  | [] => (.ok 0, s)
  | (va, n, x) :: ps =>
    let (l, s1) := readLine s x.pa (pteKEY x.leaf) (pteLFMT x.leaf) s.h.who s.h.noL1
    if vcBad (tagVc l.tag) then (.error ⟨causePOISONED, 0, va⟩, s1)
    else
      let here := if x.ratio = 1 then some (l.bytes / 2 ^ (8 * (x.pa % 64)) % 2 ^ (8 * n)) else compactElem x va l n
      match here with
      | none => (.error ⟨causeFMTSIZE, 0, va⟩, s1)
      | some v =>
        match readPieces s1 ps with
        | (.error e, s2) => (.error e, s2)
        | (.ok rest, s2) => (.ok (v + 2 ^ (8 * n) * rest), s2)

/-- A scalar load of n bytes (R366, R367). On a page with CR ≠ 00 it does not cross a line. -/
def scalarLoad (s : State) (va : Word) (n : Nat) : Except Err Nat × State :=
  match reachPieces s .read (pieces va n) with
  | (.error e, s1) => (.error e, s1)
  | (.ok xs, s1) =>
    if xs.any (fun x => x.2.2.ratio != 1) && decide (1 < xs.length) then (.error ⟨causeFMTSIZE, 0, va⟩, s1)
    else readPieces s1 xs

/-- The tag a line takes when a scalar store writes bytes of it (R197). -/
def scalarTag (lfmt : Nat) (t : BitVec 32) : BitVec 32 :=
  if tagVc t = .uninit then mkTag lfmt .valid 0 127 127 else t

/-- Where the lines of a translated access lie. -/
def isHost (r : Region) : Bool := match r with | .host _ => true | _ => false
def isPeer (r : Region) : Bool := match r with | .peer _ _ => true | _ => false

/-- Whether an address of the map is host memory (R135). -/
def inHostMap (pa : Nat) : Bool := decide (0x8000000000000 ≤ pa) && decide (pa < 0xA000000000000)

/-- The exit records of an instruction that writes at addresses `pas` of the map, of those that its active elements name, `named`:
one per kind of target off the chip that is written, with the lowest line and the count of the lines of that kind that are
named, those that a fault leaves unwritten among them (R280). -/
def logExitsOf (s : State) (w : Option LogWho) (pas named : List Nat) : State :=
  match w with
  | none => s
  | some w =>
    let one := fun (s : State) (kind : Nat) (p : Nat → Bool) =>
      match ((named.map lineAddr).dedup).filter p with
      | [] => s
      | x :: rest => if pas.any p then logExit s w kind (rest.foldl Nat.min x) (rest.length + 1) else s
    one (one s 1 inHostMap) 2 inPeerMap

/-- The exit records of an instruction that writes all that it names (R280). -/
def logExits (s : State) (w : Option LogWho) (pas : List Nat) : State := logExitsOf s w pas pas

/-- The places in the map that addresses of a write translate to, whatever the permission check says of them (R280). -/
def namedPas (s : State) (vas : List Word) : List Nat :=
  vas.filterMap fun va => match (translate s s.h.who s.h.asid.toNat va true).1 with | .ok x => some x.ppa | .error _ => none

/-- Log a line of this part before it is written (R280). Its virtual address is that of the first byte that the line holds, on a
compacted page too (log 132). -/
def logIfHome (s : State) (w : Option LogWho) (x : Xlat) (va : Word) (old : LineVal) : State :=
  match w with
  | none => s
  | some w =>
    match regionOf s x.pa with
    | .host _ | .peer _ _ | .hole => s
    | _ => logLine s w x.pa (va.toNat / (64 * x.ratio) * (64 * x.ratio)) (pteKEY x.leaf) (pteNL x.leaf) old

/-- Write one piece of a scalar store through its leaf (R197, R368). None: performed. -/
def writePiece (s : State) (w : Option LogWho) (va : Word) (n v : Nat) (x : Xlat) : Option Nat × State :=
  if x.ratio ≠ 1 then (some causePERMISSION, s)
  else
    let unreach := match regionOf s x.pa with | .peer node _ => !reachable s node | _ => false
    if unreach then (some causeUNREACH, s)
    else
      let (l, s1) := readLine s x.pa (pteKEY x.leaf) (pteLFMT x.leaf) s.h.who s.h.noL1
      let s2 := logIfHome s1 w x va l
      (none, writeBits s2 x.pa (pteKEY x.leaf) s.h.who s.h.noL1 (byteMask (x.pa % 64) n)
        (putBytes l.bytes (x.pa % 64) n v) (scalarTag (pteLFMT x.leaf) l.tag))

/-- A store that has been tried: performed, held back by a write guard, or recorded (R212, R256). -/
inductive StoreRes where
  | done
  | guard
  | fail (cause level : Nat) (faultVa : Word) (nunw undone : Nat)
deriving DecidableEq, Repr

/-- The pieces of a scalar store one after another; the first that fails names the record (R256). -/
def storePieces (w : Option LogWho) : List (Word × Nat) → Nat → State → StoreRes × State
  | [], _, s => (.done, s)
  | (va, n) :: ps, v, s =>
    let (r, s1) : Option (Nat × Nat) × State := match s.reachH va .write with
      | (.error e, s1) => (some (e.cause, e.level), s1)
      | (.ok x, s1) =>
        match writePiece s1 w va n (v % 2 ^ (8 * n)) x with
        | (some c, s2) => (some (c, 0), s2)
        | (none, s2) => (none, s2)
    let (rest, s2) := storePieces w ps (v / 2 ^ (8 * n)) s1
    match r with
    | some (c, l) => (.fail c l va 1 1, s2)
    | none => (rest, s2)

/-- Physical addresses that the pieces reach, for the exit records. -/
def piecePas (s : State) (ps : List (Word × Nat)) : List Nat :=
  ps.filterMap fun p => match (s.reachH p.1 .write).1 with | .ok x => some x.ppa | .error _ => none

/-- A scalar store of n bytes (R256, R368). -/
def scalarStore (s : State) (w : Option LogWho) (va : Word) (n : Nat) (v : Nat) : StoreRes × State :=
  let ps := pieces va n
  if ps.any fun p => guarded s p.1 then (.guard, s)
  else storePieces w ps v (logExitsOf s w (piecePas s ps) (namedPas s (ps.map fun p => p.1)))

/-! ## Tags (R370, R371) -/

/-- The tag of a line, for TAGR: never POISONED (R370). -/
def tagLoad (s : State) (va : Word) : Except Err (BitVec 32) × State :=
  match s.reachH va .read with
  | (.error e, s1) => (.error e, s1)
  | (.ok x, s1) =>
    let (l, s2) := readLine s1 x.pa (pteKEY x.leaf) (pteLFMT x.leaf) s.h.who s.h.noL1
    (.ok l.tag, s2)

/-- Write the tag of the line at a place, with the bytes that it keeps; a peer keeps its own (R40, R371). -/
def writeTagAt (s : State) (pa k : Nat) (w : Who) (noL1 : Bool) (data : Nat) (tag : BitVec 32) : State :=
  match regionOf s pa with
  | .peer n off => sendPeer s n (lineAddr off) (.writeTag (lineAddr off) tag)
  | _ => writeLine s pa k w noL1 data tag

/-- TAGW when it is resolved (R371). -/
def tagStore (s : State) (w : Option LogWho) (va : Word) (v : Nat) : StoreRes × State :=
  if guarded s va then (.guard, s)
  else match s.reachH va .write with
    | (.error e, s1) => (.fail e.cause e.level va 1 1, s1)
    | (.ok x, s1) =>
      let r := regionOf s1 x.pa
      let unreach := match r with | .peer node _ => !reachable s1 node | _ => false
      if x.ratio ≠ 1 ∨ r = .flash ∨ isHost r then (.fail causePERMISSION 0 va 1 1, s1)
      else if unreach then (.fail causeUNREACH 0 va 1 1, s1)
      else
        let (l, s2) := readLine s1 x.pa (pteKEY x.leaf) (pteLFMT x.leaf) s.h.who s.h.noL1
        let s3 := logIfHome (logExits s2 w [x.ppa]) w x va l
        let t := BitVec.ofNat 32 (v % 2 ^ 25)
        (.done, writeTagAt s3 x.pa (pteKEY x.leaf) s.h.who s.h.noL1 (if tagVc t = .uninit then 0 else l.bytes) t)

/-! ## Elements of a vector access -/

/-- An element that translates: its index, address, leaf, line and first bit in the line. -/
structure ElemAt where
  i    : Nat
  va   : Word
  x    : Xlat
  line : Nat
  bit  : Nat
deriving DecidableEq, Repr

/-- Place of an element whose address is given in bits (R158, R203, R204). -/
def elemPlace (i ba : Nat) (x : Xlat) : ElemAt :=
  let va := BitVec.ofNat 64 (ba / 8)
  let bit := if x.ratio = 1 then 8 * (x.pa % 64) + ba % 8
    else 8 * (x.pa % 64) + (8 * (va.toNat % 64) + ba % 8) / x.ratio
  ⟨i, va, x, lineAddr x.pa, bit⟩

/-- Translate and check elements, given with their addresses in bits: those that pass, those that fail (R162, R255, R256,
R364). -/
def reachElems (need : Need) (ew : Nat) : List (Nat × Nat) → State → List ElemAt × List (Nat × Err) × State
  | [], s => ([], [], s)
  | (i, ba) :: rest, s =>
    let va := BitVec.ofNat 64 (ba / 8)
    match s.reachH va need with
    | (.error e, s1) =>
      let (oks, bads, s2) := reachElems need ew rest s1
      (oks, (i, e) :: bads, s2)
    | (.ok x, s1) =>
      let (oks, bads, s2) := reachElems need ew rest s1
      if elemSize (pteLFMT x.leaf) ≠ ew then (oks, (i, ⟨causeFMTSIZE, 0, va⟩) :: bads, s2)
      else (elemPlace i ba x :: oks, bads, s2)

/-- Read each touched line once. -/
def readElemLines : List ElemAt → List (Nat × LineVal) → State → List (Nat × LineVal) × State
  | [], acc, s => (acc, s)
  | e :: es, acc, s =>
    if acc.any fun p => p.1 == e.line then readElemLines es acc s
    else
      let (l, s1) := readLine s e.x.pa (pteKEY e.x.leaf) (pteLFMT e.x.leaf) s.h.who s.h.noL1
      readElemLines es (acc ++ [(e.line, l)]) s1

/-- The line of an element among those read. -/
def lineIn (ls : List (Nat × LineVal)) (line : Nat) : LineVal :=
  match ls.find? fun p => p.1 == line with
  | some p => p.2
  | none => ⟨0, resetTag, false⟩

/-- A read element: index, line, first bit, element bits its page gives a line of, address. -/
structure GotElem where
  i    : Nat
  l    : LineVal
  bit  : Nat
  size : Nat
  va   : Word
deriving DecidableEq, Repr

/-- Whether a line carries elements. -/
def LineVal.live (l : LineVal) : Bool := tagVc l.tag != .uninit

/-- Format of an entry: the one named, the first element's line, the lowest-addressed line that is not UNINIT, or the
page's (R205). -/
def entryFmt (named : Option Nat) (lfmt : Nat) (es : List GotElem) : Nat :=
  match named with
  | some f => f
  | none =>
    match es with
    | [] => lfmt
    | e :: _ =>
      if e.l.live then tagFmt e.l.tag
      else
        let low := es.foldl (fun (b : Option GotElem) x =>
          if x.l.live then match b with
            | none => some x
            | some y => if x.va.toNat < y.va.toNat then some x else some y
          else b) none
        match low with
        | some x => tagFmt x.l.tag
        | none => lfmt

/-- The tag check of one element: its line's element size, and no conversion to or from RAW (R203, R205). -/
def elemBad (f : Nat) (e : GotElem) : Bool :=
  e.l.live && (elemSize (tagFmt e.l.tag) != e.size ||
    (tagFmt e.l.tag != f && (tagFmt e.l.tag == 0 || f == 0)))

/-- HROT that the entry would have: that of the first line that is not UNINIT (R208, R375). -/
def entryHrot (es : List GotElem) : Nat :=
  match es.find? fun e => e.l.live with
  | some e => tagHrot e.l.tag
  | none => 0

/-- Whether the first element stands at the start of a rotation group, by its number in its page (R208). -/
def groupStart (hrot : Nat) (ew : Nat) (es : List GotElem) : Bool :=
  match es with
  | [] => true
  | e :: _ => hrot == 0 || decide (8 * (e.va.toNat % 65536) / ew % rotSize hrot = 0)

/-- Code of a read element in its line's format. -/
def GotElem.code (e : GotElem) : Nat := e.l.bytes / 2 ^ e.bit % 2 ^ elemSize (tagFmt e.l.tag)

/-- Scale of the element's block in its line. -/
def GotElem.scale (e : GotElem) : Nat := tagScale e.l.tag (e.bit / 256)

/-- Value of a read element. -/
def GotElem.val (e : GotElem) : Val :=
  if e.l.live then codeValue (tagFmt e.l.tag) e.code e.scale else .zero

/-- What an entry's element receives (R205). -/
def gotElt (f : Nat) (e : Option GotElem) : Elt :=
  match e with
  | none => .code 0
  | some e =>
    if !e.l.live then .code 0
    else if tagFmt e.l.tag = f then (if fmtScaled f then .move e.code e.scale e.val else .code e.code)
    else .val e.val

/-- Scale of a block of an entry from which no element is loaded: that of the place in the line of a loaded element where
consecutive elements put the block's start (R205, R464); 127 where no loaded line holds that place or the loaded elements are not
consecutive. DEDUCED, log 192. -/
def restScale (f : Nat) (es : List GotElem) (j : Nat) : Nat :=
  let start := fun (e : GotElem) => (e.bit : Int) + ((j * (256 / elemSize f) : Nat) - (e.i : Int)) * (e.size : Int)
  let even := match es with | [] => true | e :: rest => rest.all fun x => (start x - start e) % 512 == 0
  match es.find? fun e => e.l.live && tagFmt e.l.tag == f && decide (0 ≤ start e) && decide (start e < 512) with
  | some e => if even then tagScale e.l.tag ((start e).toNat / 256) else 127
  | none => 127

/-- Scale of block j of an entry: the source block's when every element of the block has the entry's format and one scale,
else FIT (R205). DESIGN CHOICE (log 192): a block gathered from lines of the entry's format whose scales differ takes FIT, and
its elements are rounded once under it. -/
def gotScale (f : Nat) (es : List GotElem) (j : Nat) : Nat :=
  let per := 256 / elemSize f
  let mine := es.filter fun e => e.i / per == j && e.l.live
  match mine with
  | [] => restScale f es j
  | e :: rest =>
    if mine.all (fun x => tagFmt x.l.tag == f) && rest.all (fun x => x.scale == e.scale) then e.scale
    else fitScale f (mine.map fun x => x.val)

/-- xrm as loads and stores use it: SR is replaced by RNE (R205, R206). -/
def memRm (rm : BitVec 3) : Nat := if rm.toNat = rmSR then rmRNE else rm.toNat

/-- The filled entry and its flags (R205). -/
def fillEntry (bits f : Nat) (rm : BitVec 3) (hrot : Nat) (es : List GotElem) : VReg × Nat :=
  let conv := es.any fun e => e.l.live && tagFmt e.l.tag != f
  let (r, rnd) := writeReg bits f (.named (gotScale f es)) (fun i => gotElt f (es.find? fun e => e.i == i))
    .reset (es.map fun e => tagVc e.l.tag) hrot ⟨memRm rm, 0, 0⟩
  (r, rnd.flags ||| (if conv then flagFMTMIX else 0))

/-- The entry of a load that accesses no element (R374). -/
def emptyEntry (f : Nat) : VReg := zeroReg f .uninit 0

/-- Index entries: element i as a signed integer, unsigned for UINT8, 0 for UNINIT (R374). -/
def indexOf (r : VReg) (i : Nat) : Int := if r.vc = .uninit then 0 else valToInt (elemValue r.fmt.toNat (regCode r i))

/-- An index format (R374). -/
def indexFmt (f : Nat) : Bool := fmtPlainInt f

/-! ## What a store gives a line (R206) -/

/-- Position p of a line holds what: element i of the register, or what it held. -/
abbrev Slots := List (Option Nat)

/-- Old value of position p. -/
def oldVal (old : LineVal) (w p : Nat) : Val :=
  if old.live then codeValue (tagFmt old.tag) (old.bytes / 2 ^ (w * p) % 2 ^ w) (tagScale old.tag (w * p / 256)) else .zero

/-- Old code of position p. -/
def oldCode (old : LineVal) (w p : Nat) : Nat := old.bytes / 2 ^ (w * p) % 2 ^ w

/-- Whether the slots of a block hold exactly the elements of one register block, in any order; its number. -/
def oneBlock (per : Nat) (sl : Slots) : Option Nat :=
  match sl with
  | some i :: _ =>
    if (List.range per).all fun k => sl.contains (some (i / per * per + k)) then some (i / per) else none
  | _ => none

/-- Codes of a list of values under one scale, with flags. -/
def roundAll (f s rm : Nat) : List Val → List Nat × Bool × Nat
  | [] => ([], false, 0)
  | x :: xs =>
    let (c, bad, fl) := fixedVal f s rm x
    let (cs, bad2, fl2) := roundAll f s rm xs
    (c :: cs, bad || bad2, fl ||| fl2)

/-- The slots of a block of an UNINIT line that is written in part, where it will hold exactly one register block: each element
written stands at its own place in that register block, whose other elements are zero as those of the line are. Such a block takes
the register block's scale, as the store of R467 does (DEDUCED, log 172). -/
def filledSlots (r : VReg) (per : Nat) (sl : Slots) : Slots :=
  match (sl.zipIdx.findSome? fun o => o.1.map fun i => (i, o.2)) with
  | none => sl
  | some (i, p) =>
    let own := i / per * per
    let full := (List.range per).map fun p => some (own + p)
    let fits := sl.zipIdx.all fun o => match o.1 with
      | some k => k == own + o.2
      | none => regCode r (own + o.2) == 0
    if i = own + p ∧ fits then full else sl

/-- One block of a line under DPOL = 0: codes, scale, flags (R206). -/
def blockPlain (r : VReg) (old : LineVal) (w b rm : Nat) (sl : Slots) : List Nat × Nat × Nat :=
  let f := r.fmt.toNat
  let per := 256 / w
  let same := old.live && tagFmt old.tag == f
  let ps := List.range per
  let at_ := fun p => (listAt sl p).getD none
  if !fmtScaled f then
    let out := ps.map fun p => match at_ p with
      | some i => (regCode r i, false, 0)
      | none => if same || !old.live then (if same then oldCode old w (per * b + p) else 0, false, 0)
                else fixedVal f 127 rm (oldVal old w (per * b + p))
    (out.map fun o => o.1, 127, out.foldl (fun a o => a ||| o.2.2) 0)
  else
    let held := if old.live then sl else filledSlots r per sl
    match oneBlock per held with
    | some j => (ps.map fun p => regCode r (((listAt held p).getD none).getD 0), regScale r j, 0)
    | none =>
      if sl.all (fun o => o.isNone) && (same || !old.live) then
        (ps.map fun p => if same then oldCode old w (per * b + p) else 0, tagScale old.tag b, 0)
      else
        let vs := ps.map fun p => match at_ p with
          | some i => regVal r i
          | none => oldVal old w (per * b + p)
        let s := fitScale f vs
        let (cs, bad, fl) := roundAll f s rm vs
        (cs, if bad then 0xFF else s, fl)

/-- One block of a line under DPOL = 1, into format t (R206). -/
def blockDemote (r : VReg) (old : LineVal) (t w b rm : Nat) (sl : Slots) : List Nat × Nat × Nat :=
  let per := 256 / w
  let ps := List.range per
  let at_ := fun p => (listAt sl p).getD none
  let vs := sl.filterMap fun o => o.map fun i => regVal r i
  let whole := sl.all fun o => o.isSome
  let s := if !fmtScaled t then 127 else if whole then fitScale t vs else tagScale old.tag b
  let out := ps.map fun p => match at_ p with
    | some i => if r.fmt.toNat = t ∧ ¬ fmtScaled t then (regCode r i, false, 0) else fixedVal t s rm (regVal r i)
    | none => (if old.live then oldCode old w (per * b + p) else 0, false, 0)
  let bad := out.any fun o => o.2.1
  (out.map fun o => o.1, if fmtScaled t && bad then 0xFF else s, out.foldl (fun a o => a ||| o.2.2) 0)

/-- Formats a line of some element size may hold, RAW apart (R203). -/
def sizedFormats (w : Nat) : List Nat := formatOrder.filter fun f => elemSize f == w

/-- The new contents of one line of a vector store: a cause, or data, tag and flags. A constant of the element size and the
two formats chooses the format of an UNINIT line of a compacted page, which the manual leaves open (R184, log 20). -/
def storeLine (r : VReg) (dpol : Bool) (lfmt c rm : Nat) (old : LineVal) (sl : Slots) :
    Except Nat (Nat × BitVec 32 × Nat) :=
  let w := elemSize lfmt / c
  let f := r.fmt.toNat
  let part := sl.any fun o => o.isNone
  let vc := if part then combineVc [tagVc old.tag, r.vc] else r.vc
  let half := fun b => (sl.drop (256 / w * b)).take (256 / w)
  let pack := fun (x y : List Nat × Nat × Nat) (fmt hrot : Nat) =>
    let data := packCodes w (x.1 ++ y.1)
    (if vc = .uninit then 0 else data, mkTag fmt vc hrot x.2.1 y.2.1, x.2.2 ||| y.2.2)
  if w < 4 ∨ (old.live ∧ elemSize (tagFmt old.tag) ≠ w) then .error causeFMTSIZE
  else if !dpol then
    if elemSize f ≠ w ∨ (part ∧ old.live ∧ tagFmt old.tag ≠ f ∧ (tagFmt old.tag = 0 ∨ f = 0)) then .error causeFMTSIZE
    else .ok (pack (blockPlain r old w 0 rm (half 0)) (blockPlain r old w 1 rm (half 1)) f r.hrot.toNat)
  else
    let t? := if old.live then some (tagFmt old.tag)
      else if c = 1 then some lfmt
      else match sizedFormats w with
        | [] => none
        | f0 :: fs => some ((listAt (f0 :: fs) (Config.compactFmt w lfmt f % (fs.length + 1))).getD f0)
    match t? with
    | none => .error causeFMTSIZE
    | some t =>
      if f ≠ t ∧ (f = 0 ∨ t = 0) then .error causeFMTSIZE
      else .ok (pack (blockDemote r old t w 0 rm (half 0)) (blockDemote r old t w 1 rm (half 1)) t (tagHrot old.tag))

/-- The slots of one line: at each position the highest-numbered element written there (R377). -/
def lineSlots (w : Nat) (es : List ElemAt) : Slots :=
  (List.range (512 / w)).map fun p => ((es.filter fun e => e.bit / w == p).getLast?).map fun e => e.i

/-- The bits of a line that a vector store changes: those of the slots it writes where the line keeps its format and scales,
else all. -/
def slotMask (old : LineVal) (tag : BitVec 32) (sl : Slots) : Nat :=
  let w := 512 / sl.length
  let kept := old.live && tagFmt old.tag == tagFmt tag && tagScale old.tag 0 == tagScale tag 0 && tagScale old.tag 1 == tagScale tag 1
  if kept then (sl.zipIdx.filter fun o => o.1.isSome).foldl (fun m o => m + (2 ^ w - 1) * 2 ^ (w * o.2)) 0 else 2 ^ 512 - 1

/-- Store the elements of each line: failing elements with their cause, flags, state (R256, R377). -/
def storeLines (r : VReg) (w : Option LogWho) (ew : Nat) (rm : BitVec 3) (all : List ElemAt) :
    List Nat → State → List (Nat × Err) × Nat × State
  | [], s => ([], 0, s)
  | line :: rest, s =>
    let mine := all.filter fun e => e.line == line
    match mine with
    | [] => storeLines r w ew rm all rest s
    | e :: _ =>
      let (bads, fl, s1) : List (Nat × Err) × Nat × State :=
        let unreach := match regionOf s line with | .peer node _ => !reachable s node | _ => false
        if unreach then (mine.map fun x => (x.i, ⟨causeUNREACH, 0, x.va⟩), 0, s)
        else
          let (old, s1) := readLine s e.x.pa (pteKEY e.x.leaf) (pteLFMT e.x.leaf) s.h.who s.h.noL1
          let c := e.x.ratio
          let slots := lineSlots (ew / c) mine
          match storeLine r (pteDPOL e.x.leaf) (pteLFMT e.x.leaf) c (memRm rm) old slots with
          | .error cause => (mine.map fun x => (x.i, ⟨cause, 0, x.va⟩), 0, s1)
          | .ok (data, tag, fl) =>
            let s2 := logIfHome s1 w e.x e.va old
            ([], fl, writeBits s2 e.x.pa (pteKEY e.x.leaf) s.h.who s.h.noL1 (slotMask old tag slots) data tag)
      let (more, fl2, s2) := storeLines r w ew rm all rest s1
      (bads ++ more, fl ||| fl2, s2)

/-- Bits of a number set at the given positions. -/
def bitsOfList (is : List Nat) : Nat := is.dedup.foldl (fun a i => a + 2 ^ i) 0

/-- A vector store of elements whose addresses are given in bits, with the RM in force when it issued (R256, R377, R378). The
flags of its conversions join xflags as it is performed (R206). -/
def vectorStore (s : State) (w : Option LogWho) (r : VReg) (ew : Nat) (rm : BitVec 3) (els : List (Nat × Nat)) : StoreRes × State :=
  if els.any fun e => guarded s (BitVec.ofNat 64 (e.2 / 8)) then (.guard, s)
  else
    let (oks, bads, s1) := reachElems .write ew els s
    let lines := (oks.map fun e => e.line).dedup
    let s2 := logExitsOf s1 w (oks.map fun e => e.x.ppa) (namedPas s1 (els.map fun e => BitVec.ofNat 64 (e.2 / 8)))
    let (more, fl, s3) := storeLines r w ew rm oks lines s2
    let s4 : State := { s3 with h := s3.h.addFlags fl }
    let failed := bads ++ more
    match failed with
    | [] => (.done, s4)
    | b :: bs =>
      let low := bs.foldl (fun (m : Nat × Err) x => if x.1 < m.1 then x else m) b
      let is := failed.map fun x => x.1
      (.fail low.2.cause low.2.level low.2.va is.dedup.length (bitsOfList is), s4)

/-! ## Atomics (R440) -/

/-- The new value of an atomic on w-bit values (R440). -/
def atomNew (op : AtomOp) (w old v expected : Nat) : Nat :=
  match op with
  | .add => (old + v) % 2 ^ w
  | .min => if signExt w v < signExt w old then v else old
  | .max => if signExt w old < signExt w v then v else old
  | .and => old &&& v
  | .or => old ||| v
  | .xor => old ^^^ v
  | .swap => v
  | .cas => if old = expected then v else old

/-- Whether host memory carries an atomic (R29). -/
def hostCarries (op : AtomOp) (w : Nat) : Bool :=
  match op with
  | .add | .swap => true
  | .cas => w == 64
  | _ => false

/-- One atomic at a translated address: the old value, or a cause (R440). The caller has checked alignment. -/
def atomAt (s : State) (w : Option LogWho) (va : Word) (x : Xlat) (op : AtomOp) (bits v expected : Nat) :
    Except Nat Nat × State :=
  if x.ratio ≠ 1 then (.error causePERMISSION, s)
  else match regionOf s x.pa with
    | .flash => (.error causePERMISSION, s)
    | .host _ =>
      if !hostCarries op bits then (.error causeATOMUNSUP, s)
      else if hostBad s x.pa then (.error causePOISONED, s)
      else
        let s1 := logExits s w [x.ppa]
        let old := readMem s1.mem x.pa (bits / 8)
        let s2 := setDir s1 x.pa { dirOf s1 x.pa with rdc := [] }
        (.ok old, { s2 with mem := writeMem s2.mem x.pa (atomNew op bits old v expected) (bits / 8) })
    | .peer node off =>
      if !reachable s node then (.error causeUNREACH, s)
      else
        let (d, s1) := draw (logExits s w [x.ppa])
        let s2 := sendPeer s1 node (lineAddr off) (.atomic off op (bits == 64) (BitVec.ofNat 64 v) (BitVec.ofNat 64 expected))
        if vcBad (tagVc (Config.peerTag d off)) then (.error causePOISONED, s2)
        else (.ok ((Config.peerAtom d off).toNat % 2 ^ bits), s2)
    | _ =>
      let (l, s1) := readLine s x.pa (pteKEY x.leaf) (pteLFMT x.leaf) s.h.who s.h.noL1
      if vcBad (tagVc l.tag) then (.error causePOISONED, s1)
      else
        let o := x.pa % 64
        let old := l.bytes / 2 ^ (8 * o) % 2 ^ bits
        let s2 := logIfHome s1 w x va l
        (.ok old, writeLine s2 x.pa (pteKEY x.leaf) s.h.who s.h.noL1
          (putBytes l.bytes o (bits / 8) (atomNew op bits old v expected)) (scalarTag (pteLFMT x.leaf) l.tag))

/-! ## The scratchpad (R143, R144, R369, R379, R380) -/

/-- Tag of a scratchpad line. -/
def Hart.spTagAt (h : Hart) (off : Nat) : BitVec 32 := SMap.get h.spDef h.spTag (off / 64)

/-- A scratchpad line. -/
def Hart.spLine (h : Hart) (off : Nat) : LineVal := ⟨readMem h.sp (off / 64 * 64) 64, h.spTagAt off, false⟩

/-- Write a scratchpad line. -/
def Hart.setSpLine (h : Hart) (off data : Nat) (tag : BitVec 32) : Hart :=
  { h with sp := writeMem h.sp (off / 64 * 64) data 64, spTag := SMap.set h.spDef h.spTag (off / 64) tag }

/-- Whether n bytes at an offset lie wholly in the hart's share (R144, R369). -/
def Hart.spOk (h : Hart) (off n : Nat) : Bool := decide (off + n ≤ h.share)

/-- The pieces of a scratchpad access. -/
def spPieces (off n : Nat) : List (Nat × Nat) :=
  let o := off % 64
  if o + n ≤ 64 then [(off, n)] else [(off, 64 - o), (off + (64 - o), n - (64 - o))]

/-- Read the pieces; none where a line is POISON or UNRESTORED (R369). -/
def spReadPieces (h : Hart) : List (Nat × Nat) → Option Nat
  | [] => some 0
  | (off, n) :: ps =>
    let l := h.spLine off
    if vcBad (tagVc l.tag) then none
    else (spReadPieces h ps).map fun rest => l.bytes / 2 ^ (8 * (off % 64)) % 2 ^ (8 * n) + 2 ^ (8 * n) * rest

/-- Write the pieces: an UNINIT line takes FMT from vfmt_A (R369). -/
def spWritePieces : List (Nat × Nat) → Nat → Hart → Hart
  | [], _, h => h
  | (off, n) :: ps, v, h =>
    let l := h.spLine off
    spWritePieces ps (v / 2 ^ (8 * n))
      (h.setSpLine off (putBytes l.bytes (off % 64) n v) (scalarTag h.a.vfmt.toNat l.tag))

/-- Elements of a VLDL as read (R379). -/
def spGot (h : Hart) (ew : Nat) (els : List (Nat × Nat)) : List GotElem :=
  els.map fun e => ⟨e.1, h.spLine (e.2 / 8), 8 * (e.2 / 8 % 64) + e.2 % 8, ew, BitVec.ofNat 64 (e.2 / 8)⟩

/-- The old line of a VSTL in the element size that it stores: only the register's format is checked, so a line of another
size is taken into that format, by bytes that the manual leaves open where the line is written in part (R379, log 177). Part of a
RAW line is converted to no other format (R206). -/
def resized (r : VReg) (ew : Nat) (part : Bool) (old : LineVal) : LineVal :=
  let f := tagFmt old.tag
  if !old.live || elemSize f == ew || (part && (f == 0 || r.fmt == 0)) then old
  else { old with
    data := (Config.resizedLine f r.fmt.toNat old.bytes).toNat, tag := mkTag r.fmt.toNat (tagVc old.tag) r.hrot.toNat 127 127 }

/-- Lines of a VSTL one after another: a cause with the first address of the line, or the hart with its flags (R379). -/
def spStoreLines (r : VReg) (ew rm : Nat) (els : List (Nat × Nat)) : List Nat → Hart → Except (Nat × Nat) Hart
  | [], h => .ok h
  | line :: rest, h =>
    let mine := els.filter fun e => e.2 / 512 == line
    let slots := (List.range (512 / ew)).map fun p =>
      ((mine.filter fun e => e.2 % 512 / ew == p).getLast?).map fun e => e.1
    let old := resized r ew (slots.any fun o => o.isNone) (h.spLine (64 * line))
    match storeLine r false (match ew with | 4 => 6 | 8 => 1 | 16 => 3 | 32 => 4 | _ => 5) 1 rm old slots with
    | .error c => .error (c, match mine with | e :: _ => e.2 / 8 | [] => 64 * line)
    | .ok (data, tag, fl) => spStoreLines r ew rm els rest ((h.setSpLine (64 * line) data tag).addFlags fl)

/-- Line j of the slot of a register: bytes, and a tag with sidecar scales 2j and 2j + 1 (R380). -/
def spillLine (r : VReg) (j : Nat) : Nat × BitVec 32 :=
  let sc := fun b => (SMap.get 127#8 r.scales b).toNat
  (r.data.toNat / 2 ^ (512 * j) % 2 ^ 512, mkTag r.fmt.toNat r.vc r.hrot.toNat (sc (2 * j)) (sc (2 * j + 1)))

/-- Write the n last lines of a register's slot. -/
def spillLines (r : VReg) (off : Nat) : Nat → Nat → Hart → Hart
  | 0, _, h => h
  | n + 1, j, h =>
    let (d, t) := spillLine r j
    spillLines r off n (j + 1) (h.setSpLine (off + 64 * j) d t)

/-- The register that a slot of `n` lines holds; in an unscaled format every sidecar scale is 127 (R191, R380). -/
def fillFrom (h : Hart) (off n : Nat) : VReg :=
  let ls := (List.range n).map fun j => h.spLine (off + 64 * j)
  let live := ls.filter fun l => l.live
  let t0 := h.spTagAt off
  let mixed := match live with
    | [] => false
    | l :: rest => rest.any fun x => tagFmt x.tag != tagFmt l.tag || tagHrot x.tag != tagHrot l.tag
  let vc := if mixed then .poison else combineVc (ls.map fun l => tagVc l.tag)
  let data := (List.range n).foldl (fun a j => a + ((listAt ls j).getD ⟨0, 0, false⟩).bytes * 2 ^ (512 * j)) 0
  let sc := (List.range n).foldl (fun m j =>
    let t := h.spTagAt (off + 64 * j)
    SMap.set 127#8 (SMap.set 127#8 m (2 * j) (BitVec.ofNat 8 (tagScale t 0))) (2 * j + 1) (BitVec.ofNat 8 (tagScale t 1))) []
  ⟨BitVec.ofNat 16384 data, BitVec.ofNat 5 (tagFmt t0), vc, BitVec.ofNat 2 (tagHrot t0), if fmtScaled (tagFmt t0) then sc else []⟩

end Sys2Proof.Machine
end

