-- ==== Sys2Proof/Machine/Counters.lean ====
section
/-! DEFINITION. Machine/Counters.lean: counter references, the checks of an operation, and the operations at the home
(R236 to R247, R250, R251, R436, R437). -/

namespace Sys2Proof.Machine

/-! ## References (R236, R237) -/

/-- What a counter reference names. -/
inductive Ref where
  | bad
  | near (k : Nat)
  | slot (tower slot : Nat)
  | host (h : HostId) (pa : Nat)
  | peer (node : Nat)
deriving DecidableEq, Repr

/-- Address in the physical map of a counter homed on a host (R135, R239). -/
def hostCounterPa (home slot : Nat) : Nat := home * 2 ^ 48 + 16 * slot

/-- Decode a reference (R236); `bad` where R237 refuses its form. -/
def refOf (s : State) (r : Word) : Ref :=
  let v := r.toNat
  if v % 16 = 1 then (if v / 1024 = 0 then .near (v / 16) else .bad)
  else if v % 16 ≠ 0 then .bad
  else
    let node := v / 2 ^ 52
    let home := v / 2 ^ 48 % 16
    let slot := v / 16 % 2 ^ 44
    if 10 ≤ home ∨ (home < 8 ∧ 2 ^ 20 ≤ slot) then .bad
    else if node ≠ 0xFFF ∧ node ≠ s.node then .peer node
    else if home < 8 then .slot home slot
    else .host (if home = 8 then .a else .b) (hostCounterPa home slot)

/-- Handle of a slot of this part. -/
def slotHandle (tower slot : Nat) : Word := BitVec.ofNat 64 (0xFFF * 2 ^ 52 + tower * 2 ^ 48 + 16 * slot)

/-! ## Near counters (R240) -/

/-- Key of near counter p of a core. -/
def nearKey (tower core p : Nat) : Nat := 64 * (65 * tower + core) + p

/-- The physical near counter that K names for a hart. -/
def Hart.nearIdx (h : Hart) (k : Nat) : Nat :=
  if h.joined then k else 16 * ((k / 16 + h.id.group) % 4) + k % 16

/-- Whether two slots are on one core. -/
def sameCore (a b : HartId) : Bool := a.tower == b.tower && a.core == b.core

/-- The hart that stands at a quarter of a core. -/
def quarterHart (s : State) (id : HartId) (q : Nat) : Option Hart :=
  s.harts.find? fun o => sameCore o.id id && o.id.group == q

/-- Whether a hart may use a physical near counter: its own quarter, or one owned by a task of its launch. -/
def nearOk (s : State) (h : Hart) (p : Nat) : Bool :=
  h.joined || p / 16 == h.id.group ||
    match quarterHart s h.id (p / 16) with
    | some o => h.launch.isSome && o.launch == h.launch && o.gen == h.gen
    | none => false

/-- Value of a near counter. -/
def nearVal (s : State) (key : Nat) : Word := SMap.get 0 s.near key

/-- Write a near counter. -/
def putNear (s : State) (key : Nat) (v : Word) : State := { s with near := SMap.set 0 s.near key v }

/-- The threshold that a hart waits for on near counter p of its core, if it does. -/
def nearThr (s : State) (h : Hart) (p : Nat) : Option Word :=
  match h.a.st, h.a.wait with
  | .wait, .cwait r thr _ _ =>
    match refOf s r with
    | .near k => if h.nearIdx k = p then some thr else none
    | _ => none
  | _, _ => none

/-- Whether a stream of the core waits on near counter p (R436). -/
def nearHasWaiter (s : State) (id : HartId) (p : Nat) : Bool :=
  s.harts.any fun h => sameCore h.id id && (nearThr s h p).isSome

/-- Wake the waits of a core that a near counter's new value satisfies (R245). -/
def wakeNear (s : State) (id : HartId) (p : Nat) (v : Word) : State :=
  let hit := s.harts.filter fun h => sameCore h.id id && (match nearThr s h p with | some t => satisfied v t | none => false)
  s.later (hit.map fun h => .cwaitWake h.id v)

/-- Add to a near counter of a core. -/
def nearAdd (s : State) (id : HartId) (p : Nat) (d : Word) : State :=
  let key := nearKey id.tower id.core p
  let v := nearVal s key + d
  wakeNear (putNear s key v) id p v

/-! ## Permission (R241) -/

/-- The counter group check for an issuer. -/
def groupOk (s : State) (tower slot : Nat) (priv : Bool) (asid : Nat) : Bool :=
  let e := SMap.get 0#64 s.cgroup (256 * tower + slot / 4096)
  priv || (e.getLsbD 16 && (e.getLsbD 17 || e.toNat % 2 ^ 16 == asid))

/-- The counter group check for a peer. -/
def groupPeerOk (s : State) (tower slot : Nat) : Bool :=
  let e := SMap.get 0#64 s.cgroup (256 * tower + slot / 4096)
  e.getLsbD 16 && e.getLsbD 18

/-! ## Operations -/

/-- The operations of R436 Table 3. -/
inductive COp where
  | add (d : Word)
  | xadd (d : Word)
  | read
  | test (thr : Word)
  | set (v : Word)
deriving DecidableEq, Repr

/-- Whether an operation writes, and is logged (R280). -/
def COp.writes : COp → Bool
  | .add _ | .xadd _ | .set _ => true
  | .read | .test _ => false

/-- The delta check of R237. -/
def COp.deltaOk : COp → Bool
  | .add d | .xadd d => decide (d.toNat < 2 ^ 32)
  | _ => true

/-- What an operation returns of a counter's value (R436). CADD returns nothing. -/
def COp.result (op : COp) (v : Word) : Word :=
  match op with
  | .add _ | .set _ => 0
  | .xadd _ | .read => v
  | .test t => if satisfied v t then 1 else 0

/-- Interrupt waiter entries that an add to a slot fires (R280 kind 5). -/
def firedIrqs (s : State) (key : Nat) (v : Word) : Nat :=
  (s.waiters.filter fun w => w.key == key && satisfied v w.thr && (match w.who with | .interrupt _ => true | _ => false)).length

/-- CSET of a slot that holds `old`: refused while the slot has a waiter (R250, R436). -/
def slotSet (s : State) (w : Option LogWho) (tower slot : Nat) (old v : Word) : Option Word × State :=
  let key := slotKey tower slot
  if s.waiters.any fun x => x.key == key then (some 1, s)
  else
    let s1 := putSlot s key old
    let s2 := match w with | some w => logCounter s1 w key (slotHandle tower slot) old | none => s1
    (some 0, putSlot s2 key v)

/-- One operation on a slot of this part at its home, logged for a context (R243, R245, R250, R251). None: counter fault. An
operation whose own read meets an integrity fault raises it, CSET too, and leaves the slot POISON; a CSET of a slot that is POISON
already rewrites it. DESIGN CHOICE (log 193): the old value that such a CSET logs is 0. -/
def slotOp (s : State) (w : Option LogWho) (tower slot : Nat) (op : COp) : Option Word × State :=
  let key := slotKey tower slot
  let (v?, s1) := slotRead s key
  match op, v? with
  | .set v, some old => slotSet s1 w tower slot old v
  | .set v, none => if SMap.get false s.slotPois key then slotSet s1 w tower slot 0 v else (none, s1)
  | _, none => (none, s1)
  | .add d, some v | .xadd d, some v =>
    let s2 := match w with
      | some w =>
        let t := logCounter s1 w key (slotHandle tower slot) v
        let n := firedIrqs t key (v + d)
        if n = 0 then t else logExit t w 5 (slotHandle tower slot).toNat n
      | none => s1
    (some (op.result v), addSlot s2 key d)
  | .read, some v | .test _, some v => (some (op.result v), s1)

/-- The record that an operation on a counter off the chip makes before it is performed (R280). -/
def logFar (s : State) (w : Option LogWho) (r : Word) (op : COp) : State :=
  match w with | some w => if op.writes then logExit s w 4 r.toNat 1 else s | none => s

/-- A counter homed on a host: 64-bit FetchAdd at its address, which takes back what remote data caches hold of its line (R29,
R150, R239). The poison indication of that line plays no part (DESIGN CHOICE, log 127). In CONTAINED no host port issues a write
(R43). -/
def hostCounter (s : State) (w : Option LogWho) (r : Word) (pa : Nat) (op : COp) : Word × State :=
  let v := BitVec.ofNat 64 (readMem s.mem pa 8)
  match op with
  | .add d | .xadd d =>
    if s.cfg.cont then (op.result v, s)
    else
      let s1 := logFar s w r op
      let s2 := setDir s1 pa { dirOf s1 pa with rdc := [] }
      (op.result v, { s2 with mem := writeMem s2.mem pa (v + d).toNat 8 })
  | _ => (op.result v, s)

/-- The request that carries an operation to a peer's counter (R40); CSET goes to no peer (R436). -/
def COp.request (op : COp) (r : Word) : PeerReq :=
  match op with
  | .add d => .counterAdd r d
  | .xadd d => .counterXadd r d
  | .test t => .counterTest r t
  | .read | .set _ => .counterRead r

/-- A counter of a peer: refused, or carried out there (R40, R41, R437). The cause of a precise fault, or the result. A CADD,
which does not wait for the answer, is logged before it is sent; an operation that waits is logged where it is carried out. A
refused request has been sent and is answered in error (R241). -/
def peerCounter (s : State) (w : Option LogWho) (tower : Nat) (r : Word) (node : Nat) (op : COp) :
    Except Nat Word × State :=
  let isAdd := match op with | .add _ => true | _ => false
  if !reachable s node then
    if isAdd then (.ok 0, logError (logFar s w r op) tower 2 4 node r.toNat 0) else (.error causeUNREACH, s)
  else
    let (d, s1) := draw s
    let granted := Config.peerGrants d r
    let s2 := if isAdd || granted then logFar s1 w r op else s1
    let s3 := sendPeer s2 node r.toNat (op.request r)
    if granted then (.ok (op.result (Config.peerCounter d r)), s3)
    else if isAdd then (.ok 0, logError s3 tower 5 8 node r.toNat 0)
    else (.error causeCOUNTER, s3)

/-- One counter operation of the hart that acts: the checks of R237 and R436, then the operation. -/
def counterOp (s : State) (r : Word) (op : COp) : Except Nat Word × State :=
  let h := s.h
  let isSet := match op with | .set _ => true | _ => false
  if !op.deltaOk then (.error causeCOUNTER, s)
  else match refOf s r with
    | .bad => (.error causeCOUNTER, s)
    | .near k =>
      let p := h.nearIdx k
      if !nearOk s h p then (.error causeCOUNTER, s)
      else
        let key := nearKey h.id.tower h.id.core p
        match op with
        | .add d | .xadd d => (.ok (op.result (nearVal s key)), nearAdd s h.id p d)
        | .set v => if nearHasWaiter s h.id p then (.ok 1, s) else (.ok 0, putNear s key v)
        | .read | .test _ => (.ok (op.result (nearVal s key)), s)
    | .slot t n =>
      if !groupOk s t n h.priv h.asid.toNat then (.error causeCOUNTER, s)
      else if op.writes && s.logFull h then (.error causeLOGFULL, s)
      else match slotOp s (h.logWho 2) t n op with
        | (none, s1) => (.error causeCOUNTER, s1)
        | (some v, s1) => (.ok v, s1)
    | .host _ pa =>
      if isSet then (.error causeCOUNTER, s)
      else if op.writes && s.logFull h then (.error causeLOGFULL, s)
      else
        let (v, s1) := hostCounter s (h.logWho 2) r pa op
        (.ok v, s1)
    | .peer n =>
      if isSet then (.error causeCOUNTER, s)
      else if op.writes && s.logFull h then (.error causeLOGFULL, s)
      else peerCounter s (h.logWho 2) h.id.tower r n op

/-- A far add by a unit of the part with a privilege and an ASID, never logged (R250). False: refused or dropped. A delta
above 2^32 - 1 is refused (R237); an add to a peer that cannot be reached or refuses it leaves its error-log entry (R41,
R437, R480). -/
def farAdd (s : State) (tower : Nat) (priv : Bool) (asid : Nat) (r d : Word) : Bool × State :=
  if 2 ^ 32 ≤ d.toNat then (false, s)
  else match refOf s r with
  | .bad | .near _ => (false, s)
  | .slot t n =>
    if !groupOk s t n priv asid then (false, s)
    else match slotOp s none t n (.add d) with
      | (none, s1) => (false, s1)
      | (some _, s1) => (true, s1)
  | .host _ pa => (true, (hostCounter s none r pa (.add d)).2)
  | .peer n =>
    if !reachable s n then (false, logError s tower 2 4 n r.toNat 0)
    else
      let (k, s1) := draw s
      let s2 := sendPeer s1 n r.toNat (.counterAdd r d)
      if Config.peerGrants k r then (true, s2) else (false, logError s2 tower 5 8 n r.toNat 0)

/-! ## Waiters (R244 to R247) -/

/-- Entries of a tower's waiter table. -/
def waiterRoom : Nat := 16384

/-- Waiters that a tower's table holds. -/
def waitersAt (s : State) (tower : Nat) : Nat := (s.waiters.filter fun w => w.key / 2 ^ 20 == tower).length

/-- Register a waiter at a slot's home: satisfied at once, registered, or turned away by a full table (R245). -/
inductive RegRes where
  | now (v : Word)
  | queued
  | full
  | bad
deriving DecidableEq, Repr

def registerWaiter (s : State) (tower slot : Nat) (thr : Word) (who : WaiterId) : RegRes × State :=
  let key := slotKey tower slot
  match slotRead s key with
  | (none, s1) => (.bad, s1)
  | (some v, s1) =>
    if satisfied v thr then (.now v, s1)
    else if waitersAt s1 tower < waiterRoom then
      (.queued, { s1 with waiters := s1.waiters ++ [⟨key, thr, who, s1.arrival⟩], arrival := s1.arrival + 1 })
    else (.full, { s1 with pflag := SMap.set false s1.pflag key true })

/-- Register a wait at the home of a peer's counter, under a token of its own (R40). -/
def peerWait (s : State) (node : Nat) (r thr : Word) (who : WaiterId) : State :=
  sendPeer { s with remote := s.remote ++ [⟨s.arrival, who, r, thr, false⟩], arrival := s.arrival + 1 } node r.toNat
    (.counterWait r thr s.arrival)

/-- Ask the home of a peer's counter to remove a wait, if it stands in a table there (R246). -/
def unwait (s : State) (w : RemoteWait) : State :=
  match refOf s w.handle with
  | .peer n => if w.polls || !reachable s n then s else sendPeer s n w.handle.toNat (.counterUnwait w.handle w.token)
  | _ => s

/-- Forget the waits at peers' homes of a waiter. -/
def dropRemote (s : State) (who : WaiterId) : State :=
  (s.remote.filter fun w => w.who == who).foldl unwait { s with remote := s.remote.filter fun w => w.who != who }

/-- Take a waiter out of every table, at the peers' homes too (R246). -/
def dropWaiter (s : State) (who : WaiterId) : State :=
  dropRemote { s with waiters := s.waiters.filter fun w => w.who != who } who

end Sys2Proof.Machine
end

