-- ==== Sys2Proof/Machine/Context.lean ====
section
/-! DEFINITION. Machine/Context.lean: what a stop writes and a resumption reads. Cause words, the stop record, store-fault
records, the CSR slots, the context save area and SNAP images (R252, R258, R259, R261, R268 to R270, R276, R419, R482). -/

namespace Sys2Proof.Machine

/-! ## Causes -/

/-- A cause as it is raised: stream, code, access kind, walk level, tval (R252, R262). -/
structure Cause where
  onX   : Bool
  code  : Nat
  acc   : Nat
  level : Nat
  tval  : Word
deriving DecidableEq, Repr

/-- The cause word of R262. -/
def causeWord (c : Cause) (both : Bool) : Word :=
  BitVec.ofNat 64 (c.code + (if c.onX then 2 ^ 16 else 0) + (if both then 2 ^ 17 else 0) + c.acc * 2 ^ 18 + c.level * 2 ^ 22)

/-! ## Per-hart CSR values -/

/-- The launch-table entry of a hart's task. -/
def State.entryOf (s : State) (h : Hart) : LEntry :=
  match h.launch with | some l => s.entry l | none => LEntry.reset

/-- A Bool as a bit. -/
def b2n (b : Bool) : Nat := if b then 1 else 0

/-- mk (R323). -/
def Hart.mk64 (h : Hart) : Nat := h.mkW.toNat + 8 * b2n h.mkLV

/-- xrm, with the generator (R175). -/
def Hart.xrm64 (h : Hart) : Nat := h.rm.toNat + 2 ^ 32 * h.lfsr.toNat

/-- ulogmode (R274). -/
def ulogmode64 (s : State) (h : Hart) : Nat :=
  b2n h.hold + 2 * b2n (s.logFull h) + 2 ^ 32 * (s.entryOf h).undo.hzn.toNat

/-- ulogstat (R274). -/
def ulogstat64 (s : State) (h : Hart) : Nat :=
  (s.entryOf h).undo.used % 2 ^ 32 + 2 ^ 32 * (s.entryOf h).undo.exitw.toNat

/-- ptbase: the ROOT of the hart's ASID entry, in use or not (R159). DESIGN CHOICE (log 183): it reads 0 where the line of that entry
is POISON or UNRESTORED or meets an integrity fault. -/
def ptbase64 (s : State) (h : Hart) : Nat :=
  match (walkRead s h.id.tower (s.asidtab + 8 * h.asid.toNat)).1 with | some e => fieldOf e 51 12 * 4096 | none => 0

/-- The 34 saved CSR values, in slot order (R482). -/
def csrSlots (s : State) (h : Hart) : List Nat :=
  [h.a.vl.toNat, h.x.vl.toNat, h.a.vfmt.toNat, h.x.vfmt.toNat,
   h.mk64, h.xrm64, h.xflags.toNat, h.xtrapen.toNat,
   h.tvec.toNat, h.tcause.toNat, h.tval.toNat, b2n h.th, h.csa.toNat, h.sfrqcnt.toNat,
   h.asid.toNat, ptbase64 s h] ++
  [h.win.toNat, h.ulogbase.toNat, h.ulogsize.toNat, ulogmode64 s h, ulogstat64 s h,
   b2n h.svEn, h.svuse.toNat, h.svmask.toNat, h.svbvl.toNat, h.svstart.toNat, h.svstall.toNat, h.svcyc.toNat,
   h.svmcyc.toNat] ++
  [h.tenidx.toNat, h.peeridx.toNat, h.keyidx.toNat, h.cgidx.toNat, 8 * h.cfgoff.toNat]

/-- 64-bit words packed from the lowest. -/
def pack64 : List Nat → Nat
  | [] => 0
  | v :: vs => v % 2 ^ 64 + 2 ^ 64 * pack64 vs

/-- Word i of a packed number. -/
def word64 (v i : Nat) : Nat := v / 2 ^ (64 * i) % 2 ^ 64

/-- x0 to x63 of a stream, packed. -/
def packRegs (t : Stream) : Nat := pack64 ((List.range 64).map fun n => (t.reg n).toNat)

/-- Registers from their packed values. -/
def unpackRegs (v : Nat) : SMap Word :=
  (List.range 64).foldl (fun m n => if n = 0 then m else SMap.set 0 m n (BitVec.ofNat 64 (word64 v n))) []

/-! ## The stop record (R261) -/

/-- Code of a stream state. -/
def stCode : StreamSt → Nat
  | .idle => 0 | .run => 1 | .qblock => 2 | .wait => 3 | .stopped => 4

/-- State of a stream before the stop: a stream that a trap had stopped stays STOPPED. -/
def stopState (t : Stream) (trapStopped : Bool) : Nat :=
  if trapStopped then 4 else if t.st = .stopped then stCode t.stBefore else stCode t.st

/-- Stage-enable bits of the present trip (R261). -/
def stageBits (t : Stream) : Nat :=
  ((List.range t.blk.stages).map fun j => if j ≤ t.trip ∧ t.k + t.trip < t.last + j then 2 ^ j else 0).foldl (· + ·) 0

/-- Position of a stream as the record holds it: PC, header, N, StartIteration, trip, last, stage bits. A stream about to
enter a block stands at that block's header; the fields of its trips are then those of the block it has left. -/
def posFields (t : Stream) : List Nat :=
  match t.pos with
  | .enter h _ _ => [h.toNat, h.toNat, t.n, 0, t.trip, t.last, stageBits t]
  | .reload h _ => [t.pc.toNat, h.toNat, t.n, t.k, t.trip, t.last, stageBits t]
  | .word _ => [t.pc.toNat, t.blk.hdr.toNat, t.n, t.k, t.trip, t.last, stageBits t]

/-- Numbers placed at bit offsets. -/
def placed : List (Nat × Nat) → Nat
  | [] => 0
  | (at_, v) :: r => v * 2 ^ at_ + placed r

/-- Head and tail of each of the ten queues as the A-stream sees them (R126, R261). -/
def queueEnds (h : Hart) (q : Nat) : Nat × Nat :=
  if q < 8 then
    let d := h.queue q
    (d.head.toNat, (qTail d.head (d.entries.length - d.unseen)).toNat)
  else
    let d := if q = 8 then h.qx else h.qa
    (d.head.toNat, (qTail d.head (d.entries.length - d.unseen)).toNat)

/-- Pending bits of q0 to q5 (R261). -/
def pendBits (h : Hart) : Nat :=
  ((List.range 6).map fun q =>
    let d := h.queue q
    (d.entries.zipIdx.map fun e => if e.1.pending then 2 ^ (8 * q + (d.head.toNat + e.2) % 8) else 0).foldl (· ||| ·) 0).foldl
      (· ||| ·) 0

/-- A stop record of a hart (R261 Table 3). SFRQN counts the records that the SFRQ area holds already, within a handler, and
those that the stop adds. An instruction that has not begun has made no progress (R380). -/
def stopRecord (h : Hart) (kind : Nat) : Nat :=
  let a := posFields h.a
  let x := posFields h.x
  let g := fun (l : List Nat) (i : Nat) => (listAt l i).getD 0
  let notBegun := h.a.wait != .none && !h.a.begun && (stopState h.a false == 3 || stopState h.a false == 1)
  let ref := match h.refill with | some (q, n, _) => 2 ^ 520 + q * 2 ^ 521 + n.toNat * 2 ^ 544 | none => 0
  placed [(0, kind), (4, b2n h.priv), (5, b2n h.th), (6, 1), (8, (h.sfrqcnt.toNat + h.sfrq.length) % 32), (64, h.strip.toNat)] +
  placed [(128, g a 0), (192, g a 1), (256, g a 2), (320, g a 3), (384, g a 4), (448, g a 5), (512, g a 6),
    (516, stopState h.a false), (519, b2n notBegun)] + ref +
  placed [(528, if notBegun then 0 else h.aprog), (576, h.acause.toNat), (640, h.atval.toNat)] +
  placed [(704, g x 0), (768, g x 1), (832, g x 2), (896, g x 3), (960, g x 4), (1024, g x 5), (1088, g x 6),
    (1092, stopState h.x h.th), (1152, h.xcause.toNat), (1216, h.xtval.toNat)] +
  placed ((List.range 10).map fun q => (1280 + 64 * q, (queueEnds h q).1 + 2 ^ 32 * (queueEnds h q).2)) +
  placed [(1920, pendBits h)] +
  placed ((List.range 16).map fun j => (2048 + 32 * j, (SMap.get 0#32 h.slseq j).toNat)) +
  placed [(2560, h.panseq.toNat), (2592, h.rcseq.toNat), (2624, h.tdirty.toNat)]

/-! ## Store-fault records (R258, R259) -/

/-- Tag word of a register or entry, in the line-tag layout (R259, R268). -/
def regTagWord (r : VReg) : Nat := (mkTag r.fmt.toNat r.vc r.hrot.toNat 0 0).toNat % 512

/-- Sidecar scales packed, 64 bytes. -/
def packScales (r : VReg) : Nat :=
  ((List.range 64).map fun j => (SMap.get 127#8 r.scales j).toNat * 2 ^ (8 * j)).foldl (· + ·) 0

/-- Scales from their packed bytes. -/
def unpackScales (v : Nat) : SMap Byte :=
  (List.range 64).foldl (fun m j => SMap.set 127#8 m j (BitVec.ofNat 8 (v / 2 ^ (8 * j)))) []

/-- A register from its data, tag word and sidecar. -/
def regFrom (data tag scales : Nat) : VReg :=
  let t := BitVec.ofNat 32 tag
  ⟨BitVec.ofNat 16384 data, BitVec.ofNat 5 (tagFmt t), tagVc t, BitVec.ofNat 2 (tagHrot t), unpackScales scales⟩

/-- A store-fault record (R258 Table 2). -/
def sfWord (r : SfRec) : Nat :=
  placed [(0, r.st.base.toNat), (64, r.faultVa.toNat), (128, r.st.pc.toNat), (192, r.st.data.toNat),
    (256, r.st.strip.toNat), (320, r.cause), (336, r.st.kind), (340, r.level), (343, r.st.ew), (351, r.nunw),
    (384, r.st.seq % 2 ^ 64)]

/-! ## The context save area (R268 Table 5) -/

/-- Write whole lines of a held region at an address. -/
def areaPut (l : Nat) (s : State) (va lines v : Nat) : State := heldPutLines l lines s va v

/-- Read whole lines. -/
def areaGet (l : Nat) (s : State) (va lines : Nat) : Nat × State :=
  let (v, _, s1) := heldGetLines l lines s va
  (v, s1)

/-- Write a list of pieces: offset, bytes, value. A piece is whole lines, or lies within one line, whose other bytes stay. -/
def areaPuts (l base : Nat) : List (Nat × Nat × Nat) → State → State
  | [], s => s
  | (off, n, v) :: r, s =>
    areaPuts l base r (if n % 64 = 0 then areaPut l s (base + off) (n / 64) v else heldPut s l (base + off) n v)

/-- Sizes in a mode: bytes of a register, a mask and a tile. -/
def regBytes (joined : Bool) : Nat := if joined then 2048 else 512
def maskBytes (joined : Bool) : Nat := if joined then 512 else 128
def tileBytes (joined : Bool) : Nat := if joined then 65536 else 16384

/-- Cells of a tile packed row-major (R419). -/
def packCells (t : Tile) (tlen : Nat) : Nat :=
  (t.cells.map fun c => c.2.toNat * 2 ^ (32 * (tlen * (c.1 / 128) + c.1 % 128))).foldl (· + ·) 0

/-- Cells from their packed words, n of them from index i. -/
def unpackCells (tlen v : Nat) : Nat → Nat → SMap (BitVec 32)
  | 0, _ => []
  | n + 1, i =>
    let w := BitVec.ofNat 32 (v / 2 ^ (32 * i))
    let rest := unpackCells tlen v n (i + 1)
    if w = 0 then rest else (128 * (i / tlen) + i % tlen, w) :: rest

/-- Tile tag slot (R419 Table 1). -/
def tileTagWord (h : Hart) (t : Tile) : Nat :=
  (if t.int then 4 else 8) + 32 * vcCode t.vc + 128 * t.trot.toNat + 512 * h.mkW.toNat

/-- Tag word, sidecar and data of a register in the area. -/
def regPieces (joined : Bool) (tagOff dataOff : Nat) (r : VReg) : List (Nat × Nat × Nat) :=
  [(tagOff, 4, regTagWord r), (tagOff + 64, 64, packScales r), (dataOff, regBytes joined, r.data.toNat)]

/-- A queue entry in its slot. A pending entry has no scales yet: the first byte of its sidecar keeps the format that it takes
if it becomes POISON (R479, log 128). -/
def entryReg (e : QEntry) : VReg :=
  if e.pending then { e.reg with scales := SMap.set 127#8 e.reg.scales 0 (e.fmt.setWidth 8) } else e.reg

/-- The near counters that a hart owns, packed (R240). -/
def packNear (s : State) (h : Hart) : Nat :=
  let n := if h.joined then 64 else 16
  pack64 ((List.range n).map fun k => (nearVal s (nearKey h.id.tower h.id.core (h.nearIdx k))).toNat)

/-- Tiles granted to the hart's task (R89). -/
def tilesOf (s : State) (h : Hart) : Nat := (s.entryOf h).recd.tiles

/-- Pieces of the image common to a park and a SNAP. A queue entry's deferred flags stand in the byte after its tag word (log 174).
A park writes the four tile tag slots, each with mk.W (R419). -/
def imagePieces (s : State) (h : Hart) (kind : Nat) (snap : Bool) : List (Nat × Nat × Nat) :=
  let j := h.joined
  [(0x0, 512, stopRecord h kind), (0x440, 256, pack64 ((csrSlots s h).take 32)), (0x540, 16, pack64 ((csrSlots s h).drop 32)),
   (0x800, 512, packRegs h.a), (0xC00, 512, packRegs h.x), (0x1800, 1024, h.pt.toNat),
   (0x1C00, if j then 512 else 128, packNear s h)] ++
  ((List.range 8).map fun n => (0x2000 + n * maskBytes j, maskBytes j, (h.mask n).toNat)) ++
  ((List.range 32).flatMap fun n => regPieces j (0x3000 + 128 * n) (0x10000 + n * regBytes j) (h.vreg n)) ++
  ((List.range 8).flatMap fun q =>
    let d := h.queue q
    d.entries.zipIdx.flatMap fun e =>
      let slot := 8 * q + (d.head.toNat + e.2) % 8
      (0x4004 + 128 * slot, 1, e.1.flags.toNat) ::
        regPieces j (0x4000 + 128 * slot) (0x20000 + slot * regBytes j) (entryReg e.1)) ++
  ((List.range (if snap then tilesOf s h else 4)).flatMap fun n =>
    let t := h.tile n
    let whole := decide (n < tilesOf s h) && (if snap then decide (t.vc ≠ .uninit) else h.tdirty.getLsbD n)
    [(0x6000 + 64 * n, 64, tileTagWord h t)] ++
    (if whole then [(0x40000 + n * tileBytes j, tileBytes j, packCells t h.tlen)] else []))

/-- Entries of a scalar queue written in their slots (R268). -/
def putScalarQ (l base off : Nat) (q : SQueue) (s : State) : State :=
  q.entries.zipIdx.foldl (fun s e => heldPut s l (base + off + 8 * ((q.head.toNat + e.2) % 16)) 8 e.1.toNat) s

/-- Record k of the SFRQ area and its data slot (R258, R259). -/
def sfPieces (joined : Bool) (k : Nat) (r : SfRec) : List (Nat × Nat × Nat) :=
  let at_ := 0x80000 + 8192 * k
  (0x1400 + 64 * k, 64, sfWord r) :: match r.st.src with
    | none => []
    | some v =>
      [(at_, regBytes joined, v.data.toNat)] ++
      (match r.st.index with | some x => [(at_ + 2048, regBytes joined, x.data.toNat)] | none => []) ++
      [(at_ + 4096, 64, packScales v), (at_ + 4160, 4, regTagWord v), (at_ + 4608, 512, r.undone)]

/-- Store-fault records of a hart, after those that its area holds already (R258, R259). -/
def putSfrq (l base : Nat) (h : Hart) (s : State) : State :=
  areaPuts l base (h.sfrq.zipIdx.flatMap fun r => sfPieces h.joined ((h.sfrqcnt.toNat + r.2) % 16) r.1) s

/-- Write an image of a hart's context at an address of a held region. -/
def putImage (s : State) (l base : Nat) (h : Hart) (kind : Nat) (snap : Bool) : State :=
  let s1 := areaPuts l base (imagePieces s h kind snap) s
  let s2 := putScalarQ l base 0x1E80 h.qa (putScalarQ l base 0x1E00 h.qx s1)
  if snap then s2 else putSfrq l base h s2

/-- The context save area of a task of a launch (R78, R268). -/
def areaOf (r : LaunchRec) (tn : Nat) : Nat := r.csa.toNat + 655360 * tn

/-! ## Reading a context back (R270) -/

/-- Bits of a record. -/
def bitsAt (v pos n : Nat) : Nat := v / 2 ^ pos % 2 ^ n

/-- The stream state of a code; a stream that was blocked or waiting executes its instruction again. -/
def stOfCode (n : Nat) : StreamSt :=
  match n with | 0 => .idle | 4 => .stopped | _ => .run

/-- A stream from its fields in a record: at position `o`, PC, header, N, K, trip, last. -/
def streamFrom (rec o st : Nat) (t : Stream) : Stream :=
  let pc := BitVec.ofNat 64 (bitsAt rec o 64)
  let hdr := BitVec.ofNat 64 (bitsAt rec (o + 64) 64)
  { t with
    st := stOfCode st
    blk := { Block.none with hdr := hdr }
    filled := false
    pos := if pc = hdr ∧ bitsAt rec (o + 192) 64 = 0 then .enter hdr hdr none else .reload hdr ((pc - hdr).toNat / 4)
    n := bitsAt rec (o + 128) 64
    k := bitsAt rec (o + 192) 64
    trip := bitsAt rec (o + 256) 64
    last := bitsAt rec (o + 320) 64
    wait := .none
    begun := false
    stBefore := .run
    stepPast := false
    tried := false }

/-- Read registers, one after another. -/
def getRegs (l base tagOff dataOff : Nat) (joined : Bool) (i : Nat) (s : State) : VReg × State :=
  let (t, s1) := areaGet l s (base + tagOff + 128 * i) 2
  let (d, s2) := areaGet l s1 (base + dataOff + regBytes joined * i) (regBytes joined / 64)
  (regFrom d (t % 2 ^ 32) (t / 2 ^ 512), s2)

/-- The deferred flags of the queue entry in a slot (log 174). -/
def getFlags (l base slot : Nat) (s : State) : BitVec 6 :=
  BitVec.ofNat 6 ((areaGet l s (base + 0x4000 + 128 * slot) 1).1 / 2 ^ 32)

/-- The entries of a data queue from its head and tail. -/
def getQueue (l base : Nat) (joined : Bool) (q head pend : Nat) : Nat → Nat → State → List QEntry × State
  | 0, _, s => ([], s)
  | n + 1, i, s =>
    let slot := 8 * q + (head + i) % 8
    let (r, s1) := getRegs l base 0x4000 0x20000 joined slot s
    let (rest, s2) := getQueue l base joined q head pend n (i + 1) s1
    let e : QEntry := if pend.testBit slot
      then ⟨{ r with scales := SMap.set 127#8 r.scales 0 127#8 }, true, 0, (SMap.get 127#8 r.scales 0).setWidth 5⟩
      else ⟨r, false, getFlags l base slot s, 0⟩
    (e :: rest, s2)

/-- The entries of a scalar queue. -/
def getScalars (v head : Nat) (n : Nat) : List Word :=
  (List.range n).map fun i => BitVec.ofNat 64 (word64 v ((head + i) % 16))

/-- A store-fault record read back from its area. -/
def getSf (l base : Nat) (joined : Bool) (k : Nat) (s : State) : SfRec × State :=
  let (v, s1) := areaGet l s (base + 0x1400 + 64 * k) 1
  let kind := bitsAt v 336 4
  let w := fun o => BitVec.ofNat 64 (bitsAt v o 64)
  let st : PStore := ⟨kind, w 0, w 128, w 192, bitsAt v 343 8, 0, none, none, 0, bitsAt v 384 64, w 256, 0, 0⟩
  let mk := fun st u => (⟨st, w 64, bitsAt v 320 16, bitsAt v 340 3, bitsAt v 351 13, u⟩ : SfRec)
  if kind < 4 ∨ kind = 7 then (mk st 1, s1)
  else
    let at_ := base + 0x80000 + 8192 * k
    let (d, s2) := areaGet l s1 at_ (regBytes joined / 64)
    let (x, s3) := areaGet l s2 (at_ + 2048) (regBytes joined / 64)
    let (t, s4) := areaGet l s3 (at_ + 4096) 2
    let (u, s5) := areaGet l s4 (at_ + 4608) 8
    let src := regFrom d (t / 2 ^ 512 % 2 ^ 32) (t % 2 ^ 512)
    (mk { st with src := some src, index := if kind = 6 then some (regFrom x 0 0) else none } u, s5)

def getSfs (l base : Nat) (joined : Bool) : Nat → Nat → State → List SfRec × State
  | 0, _, s => ([], s)
  | n + 1, k, s =>
    let (r, s1) := getSf l base joined k s
    let (rs, s2) := getSfs l base joined n (k + 1) s1
    (r :: rs, s2)

/-- Vector registers, masks, queues and tiles read back. -/
def getVregs (l base : Nat) : Nat → Nat → Hart → State → Hart × State
  | 0, _, h, s => (h, s)
  | n + 1, i, h, s =>
    let (r, s1) := getRegs l base 0x3000 0x10000 h.joined i s
    getVregs l base n (i + 1) (h.setVreg i r) s1

def getMasks (l base : Nat) : Nat → Nat → Hart → State → Hart × State
  | 0, _, h, s => (h, s)
  | n + 1, i, h, s =>
    let (v, s1) := areaGet l s (base + 0x2000 + maskBytes h.joined * i) (maskBytes h.joined / 64)
    getMasks l base n (i + 1) (h.setMask i (BitVec.ofNat 4096 v)) s1

def getQueues (l base rec : Nat) : Nat → Nat → Hart → State → Hart × State
  | 0, _, h, s => (h, s)
  | n + 1, q, h, s =>
    let head := bitsAt rec (1280 + 64 * q) 32
    let tail := bitsAt rec (1312 + 64 * q) 32
    let (es, s1) := getQueue l base h.joined q head (bitsAt rec 1920 48) (Nat.min 8 ((tail + 2 ^ 32 - head) % 2 ^ 32)) 0 s
    getQueues l base rec n (q + 1) (h.setQueue q ⟨BitVec.ofNat 32 head, es, 0, 0⟩) s1

def getTiles (l base : Nat) : Nat → Nat → Hart → State → Hart × State
  | 0, _, h, s => (h, s)
  | n + 1, i, h, s =>
    let (t, s1) := areaGet l s (base + 0x6000 + 64 * i) 1
    let vc := vcOfCode (bitsAt t 5 2)
    let tag : Tile := ⟨[], bitsAt t 0 5 == 4, vc, BitVec.ofNat 2 (bitsAt t 7 2)⟩
    let h1 := { h with mkW := BitVec.ofNat 3 (bitsAt t 9 3) }
    if vc = .uninit then getTiles l base n (i + 1) { h1 with tiles := SMap.set Tile.reset h1.tiles i tag } s1
    else
      let (d, s2) := areaGet l s1 (base + 0x40000 + tileBytes h.joined * i) (tileBytes h.joined / 64)
      let cells := unpackCells h.tlen d (h.tlen * h.tlen) 0
      getTiles l base n (i + 1) { h1 with tiles := SMap.set Tile.reset h1.tiles i { tag with cells := cells } } s2

/-- Near counters restored into the quarter that the hart owns now (R240). -/
def restoreNear (s : State) (h : Hart) (v : Nat) : State :=
  (List.range (if h.joined then 64 else 16)).foldl
    (fun s k => putNear s (nearKey h.id.tower h.id.core (h.nearIdx k)) (BitVec.ofNat 64 (word64 v k))) s

/-- The per-hart CSRs from their saved slots; csa, asid and ptbase keep their values (R482). HZN and FULL of ulogmode and the
whole of ulogstat read the context's log controller, which other tasks share, and hold nothing of their own (log 129). -/
def csrsFrom (h : Hart) (v : Nat) : Hart :=
  let w := fun i => word64 v i
  { h with
    a := { h.a with vl := BitVec.ofNat 13 (w 0), vfmt := BitVec.ofNat 5 (w 2) }
    x := { h.x with vl := BitVec.ofNat 13 (w 1), vfmt := BitVec.ofNat 5 (w 3) }
    mkW := BitVec.ofNat 3 (w 4), rm := BitVec.ofNat 3 (w 5), lfsr := BitVec.ofNat 32 (w 5 / 2 ^ 32)
    xflags := BitVec.ofNat 6 (w 6), xtrapen := BitVec.ofNat 3 (w 7)
    tvec := BitVec.ofNat 64 (w 8), tcause := BitVec.ofNat 64 (w 9), tval := BitVec.ofNat 64 (w 10)
    th := w 11 % 2 == 1, sfrqcnt := BitVec.ofNat 5 (w 13)
    win := BitVec.ofNat 32 (w 16), ulogbase := BitVec.ofNat 64 (w 17), ulogsize := BitVec.ofNat 64 (w 18), hold := w 19 % 2 == 1
    svEn := w 21 % 2 == 1, svuse := BitVec.ofNat 64 (w 22), svmask := BitVec.ofNat 64 (w 23)
    svbvl := BitVec.ofNat 64 (w 24), svstart := BitVec.ofNat 64 (w 25), svstall := BitVec.ofNat 64 (w 26)
    svcyc := BitVec.ofNat 64 (w 27), svmcyc := BitVec.ofNat 64 (w 28)
    tenidx := BitVec.ofNat 7 (w 29), peeridx := BitVec.ofNat 10 (w 30), keyidx := BitVec.ofNat 7 (w 31)
    cgidx := BitVec.ofNat 11 (w 32), cfgoff := BitVec.ofNat 15 (w 33 / 8) }

/-- The fields of a park record that are not in another region. The privilege of a task is fixed by its tenant and is not
taken from the record, so that no change of the record raises it (R8, R88). -/
def recFields (h : Hart) (rec : Nat) : Hart :=
  let ref := if bitsAt rec 520 1 = 1 then some (bitsAt rec 521 3, BitVec.ofNat 32 (bitsAt rec 544 32), none) else none
  let begun := bitsAt rec 516 3 == 3 && bitsAt rec 519 1 == 0
  let a := streamFrom rec 128 (bitsAt rec 516 3) h.a
  { h with
    a := if begun then { a with st := .wait, begun := true } else a
    x := streamFrom rec 704 (bitsAt rec 1092 3) h.x
    strip := BitVec.ofNat 64 (bitsAt rec 64 64)
    refill := ref
    aprog := bitsAt rec 528 16
    acause := BitVec.ofNat 64 (bitsAt rec 576 64)
    atval := BitVec.ofNat 64 (bitsAt rec 640 64)
    xcause := BitVec.ofNat 64 (bitsAt rec 1152 64)
    xtval := BitVec.ofNat 64 (bitsAt rec 1216 64)
    slseq := (List.range 16).foldl (fun m j => SMap.set 0#32 m j (BitVec.ofNat 32 (bitsAt rec (2048 + 32 * j) 32))) []
    panseq := BitVec.ofNat 32 (bitsAt rec 2560 32)
    rcseq := BitVec.ofNat 32 (bitsAt rec 2592 32) }

/-- Read a parked task's context into a fresh hart slot, and clear the park record's VALID bit (R270). -/
def getImage (s : State) (l base tiles : Nat) (h : Hart) : Hart × State :=
  let (rec, s1) := areaGet l s base 8
  let (csr, s2) := areaGet l s1 (base + 0x440) 5
  let (ra, s3) := areaGet l s2 (base + 0x800) 8
  let (rx, s4) := areaGet l s3 (base + 0xC00) 8
  let (pt, s5) := areaGet l s4 (base + 0x1800) 16
  let (nr, s6) := areaGet l s5 (base + 0x1C00) 8
  let (sq, s7) := areaGet l s6 (base + 0x1E00) 4
  let h1 := csrsFrom (recFields h rec) csr
  let h2 := { h1 with
    a := { h1.a with regs := unpackRegs ra }, x := { h1.x with regs := unpackRegs rx }, pt := BitVec.ofNat 8192 pt }
  let sc := fun q off => let hd := bitsAt rec (1280 + 64 * q) 32
    (⟨BitVec.ofNat 32 hd, getScalars (sq / 2 ^ (1024 * off)) hd
      (Nat.min 16 ((bitsAt rec (1312 + 64 * q) 32 + 2 ^ 32 - hd) % 2 ^ 32)), 0, 0⟩ : SQueue)
  let h3 := { h2 with qx := sc 8 0, qa := sc 9 1 }
  let (h4, s8) := getMasks l base 7 1 h3 s7
  let (h5, s9) := getVregs l base 32 0 h4 s8
  let (h6, s10) := getQueues l base rec 8 0 h5 s9
  let (h7, s11) := getTiles l base tiles 0 h6 s10
  let (sf, s12) := getSfs l base h7.joined (Nat.min 16 (bitsAt rec 8 5) - h7.sfrqcnt.toNat) h7.sfrqcnt.toNat s11
  let h8 := { h7 with sfrq := sf, spDef := mkTag 0 .unrestored 0 127 127 }
  (h8, areaPut l (restoreNear s12 h8 nr) base 1 (rec % 2 ^ 512 - 64 * bitsAt rec 6 1))

end Sys2Proof.Machine
end

