-- ==== Sys2Proof/Machine/InFlight.lean ====
section
/-! DEFINITION. Machine/InFlight.lean: vector loads until their tag checks pass, stores until they are resolved, and the
X-stream instructions that have not retired (R124, R126, R129, R203 to R208, R254 to R258, R365, R374 to R378). -/

namespace Sys2Proof.Machine

/-! ## Element addresses (R374) -/

/-- Address in bits of element i from a base address with a step in bits. -/
def bitAddr (base : Word) (step : Int) (i : Nat) : Nat :=
  ((8 * (base.toNat : Int) + (i : Int) * step) % (2 ^ 67 : Nat)).toNat

/-- Elements of a unit or strided access. -/
def stepEls (base : Word) (step : Int) (n : Nat) : List (Nat × Nat) :=
  (List.range n).map fun i => (i, bitAddr base step i)

/-- Active elements of an indexed access, at base plus index times the element size. -/
def indexEls (base : Word) (idx : VReg) (mask : MaskBits) (ew n : Nat) : List (Nat × Nat) :=
  ((List.range n).filter fun i => mask.getLsbD i).map fun i =>
    (i, ((8 * (base.toNat : Int) + indexOf idx i * (ew : Int)) % (2 ^ 67 : Nat)).toNat)

/-- Elements that a load accesses. -/
def loadEls (p : PLoad) : List (Nat × Nat) :=
  match p.form, p.index with
  | .strided, _ => stepEls p.base (8 * p.stride.toInt) p.n
  | .gather, some x => indexEls p.base x p.mask p.ew p.n
  | .gather, none => []
  | _, _ => stepEls p.base (p.ew : Int) p.n

/-! ## Arrival of a vector load (R124, R205, R208, R365) -/

/-- Access kind of a load (R262). -/
def PLoad.acc (p : PLoad) : Nat := match p.form with | .gather => 5 | _ => 4

/-- The format that a load names (R375). -/
def PLoad.named (p : PLoad) : Option Nat := match p.form with | .explicit f => some f.toNat | _ => none

/-- The first failing tag check of a load, FMTSIZE before ROT_OP: its cause and tval. -/
def tagCause (ew f hrot : Nat) (es : List GotElem) : Option (Nat × Word) :=
  match es.find? fun e => elemBad f e with
  | some e => some (causeFMTSIZE, e.va)
  | none =>
    match es.find? fun e => e.l.live && tagHrot e.l.tag != hrot with
    | some e => some (causeROT_OP, BitVec.ofNat 64 (hrot + 4 * tagHrot e.l.tag))
    | none => if groupStart hrot ew es then none else some (causeROT_OP, BitVec.ofNat 64 hrot)

/-- The failing tag check of a load over some of its elements, in the format that they give its entry (R205, R208). -/
def arrivalCause (p : PLoad) (lfmt : Nat) (es : List GotElem) : Option (Nat × Word) :=
  tagCause p.ew (entryFmt p.named lfmt es) (entryHrot es) es

/-- Elements that a first-fault load delivers: element 0, and those after it with which no check fails, `k` at least and `m`
more at most (R255, R376). -/
def ffDelivered (p : PLoad) (lfmt : Nat) (es : List GotElem) : Nat → Nat → Nat
  | 0, k => k
  | m + 1, k => if (arrivalCause p lfmt (es.take (k + 1))).isSome then k else ffDelivered p lfmt es m (k + 1)

/-- Fill the entry with a sequence number. -/
def fillAt (q : DQueue) (seq : BitVec 32) (r : VReg) (flags : Nat) : DQueue :=
  { q with entries := listSet q.entries (seq - q.head).toNat ⟨r, false, BitVec.ofNat 6 flags, 0⟩ }

/-- The format that a pending entry takes if it becomes POISON (R479). -/
def poisonFmt (q : DQueue) (seq : BitVec 32) : Nat :=
  match listAt q.entries (seq - q.head).toNat with | some e => e.fmt.toNat | none => 0x08

/-- The entry with a sequence number as it becomes POISON without its data (R479). -/
def poisonReg (q : DQueue) (seq : BitVec 32) : VReg := zeroReg (poisonFmt q seq) .poison 0

/-- Give back what a younger vector load took: its entry and its popped index (R365). -/
def unissue (p : PLoad) (h : Hart) : Hart :=
  let d := h.queue p.queue
  let h1 := h.setQueue p.queue { d with entries := d.entries.dropLast }
  match p.instr, p.index with
  | .vldx _ _ x _ _, some r =>
    let iq := 6 + x.toNat
    let di := h1.queue iq
    h1.setQueue iq { di with head := di.head - 1, entries := ⟨r, false, 0, 0⟩ :: di.entries }
  | _, _ => h1

/-- The hart with the A-stream back at a failing load: younger loads given back, one that has itself failed at issue among
them; kept registers restored; its own entry reserved (R254, R365). -/
def failLoad (p : PLoad) (younger : List PLoad) (h : Hart) : Hart :=
  let h1 := younger.reverse.foldl (fun h y => unissue y h) h
  let a := { h1.a with blk := p.blk, pos := .word p.w, n := p.tn, k := p.k, trip := p.trip, last := p.last, regs := p.regs
                       st := .run, wait := .none, begun := false }
  { h1 with a := a, loads := [], refill := some (p.queue, p.seq, p.index) }

/-- The lines of a vector load arrive: what they give its entry (R205, R208, R376). At a park, an uncorrectable error makes
the entry POISON with zero elements (R268, R479). -/
def arrivalOf (s : State) (p : PLoad) (park : Bool) : Arrival × State :=
  let at_ := p.els.map fun e => elemPlace e.1 e.2.1 e.2.2
  let (ls, s1) := readElemLines at_ [] s
  let got := at_.map fun e => (⟨e.i, lineIn ls e.line, e.bit, p.ew / e.x.ratio, e.va⟩ : GotElem)
  let lfmt := match at_ with | e :: _ => pteLFMT e.x.leaf | [] => p.vfmt.toNat
  let n := if p.ff then ffDelivered p lfmt got (got.length - 1) (Nat.min p.n 1) else p.n
  let es := if p.ff then got.take n else got
  let (r, flags) := if es.isEmpty then (emptyEntry p.vfmt.toNat, 0)
    else if park && es.any (fun e => e.l.bad) then (poisonReg (s.h.queue p.queue) p.seq, 0)
    else fillEntry s1.h.bits (entryFmt p.named lfmt es) s1.h.rm (entryHrot es) es
  (⟨r, BitVec.ofNat 6 flags, n, (arrivalCause p lfmt es).map fun c => (c.1, 0, c.2)⟩, s1)

/-- The entry of a load takes what its lines gave, whatever older loads are on their way (R124); one whose tag check fails
leaves it pending (R254). -/
def fillLoad (p : PLoad) (g : Arrival) (h : Hart) : Hart :=
  if g.fail.isSome then h else h.setQueue p.queue (fillAt (h.queue p.queue) p.seq g.reg g.flags.toNat)

/-- A load is confirmed: a first-fault load that has delivered fewer elements than vl_A asks for shortens it (R376). -/
def confirmLoad (p : PLoad) (g : Arrival) (h : Hart) : Hart :=
  if p.ff && decide (g.n < Nat.min h.a.vl.toNat (h.bits / p.ew)) then { h with a := { h.a with vl := BitVec.ofNat 13 g.n } }
  else h

/-- The loads whose lines have arrived are confirmed, oldest first, as far as no older one is still on its way; the first
that has failed gives its cause, with the A-stream back at it (R124, R365). -/
def confirmFrom : List PLoad → Hart → Option Cause × Hart
  | [], h => (none, { h with loads := [] })
  | p :: ps, h =>
    match p.got with
    | none => (none, { h with loads := p :: ps })
    | some g =>
      match g.fail with
      | some (c, l, v) => (some ⟨false, c, p.acc, l, v⟩, failLoad p ps h)
      | none => confirmFrom ps (confirmLoad p g h)

/-- The lines of load n of those in flight arrive. -/
def arriveAt (s : State) (n : Nat) (park : Bool) : Option Cause × State :=
  match listAt s.h.loads n with
  | none => (none, s)
  | some p =>
    let (g, s1) := match p.got with | some g => (g, s) | none => arrivalOf s p park
    let (c, h) := confirmFrom (listSet s1.h.loads n { p with got := some g }) (fillLoad p g s1.h)
    (c, { s1 with h := h })

/-- The lines that a load reads. -/
def PLoad.lines (p : PLoad) : List Nat := (p.els.map fun e => (elemPlace e.1 e.2.1 e.2.2).line).dedup

/-- Loads whose lines have not arrived and may arrive next: no older one on its way reads a line of theirs (R215). -/
def loadsDue (s : State) : List Nat :=
  (List.range s.h.loads.length).filter fun n =>
    match listAt s.h.loads n with
    | none => false
    | some p => p.got.isNone &&
        (s.h.loads.take n).all fun o => o.got.isSome || !(o.lines.any fun l => p.lines.contains l)

/-- The lines of a load arrive; where there are several on their way a free value chooses (R124). -/
def arriveOne (s : State) : Option Cause × State :=
  let park := softRequest s.h.req && s.h.a.canStop
  match loadsDue s with
  | [] => (none, s)
  | [n] => arriveAt s n park
  | n :: ns =>
    let (d, s1) := draw s
    arriveAt s1 ((listAt (n :: ns) (Config.freeNat d % (ns.length + 1))).getD n) park

/-- Let every issued load arrive, up to the first that fails. -/
def settleFrom (park : Bool) : Nat → State → Option Cause × State
  | 0, s => (none, s)
  | n + 1, s =>
    match s.h.loads with
    | [] => (none, s)
    | _ :: _ =>
      match arriveAt s 0 park with
      | (some c, s1) => (some c, s1)
      | (none, s1) => settleFrom park n s1

def settleLoads (s : State) (park : Bool) : Option Cause × State := settleFrom park s.h.loads.length s

/-! ## Resolution of stores (R256) -/

/-- Elements that a vector store writes. -/
def storeEls (st : PStore) : List (Nat × Nat) :=
  match st.kind, st.index with
  | 5, _ => stepEls st.base (8 * st.data.toInt) st.n
  | 6, some x => indexEls st.base x st.mask st.ew st.n
  | _, _ => stepEls st.base (st.ew : Int) st.n

/-- Try a store. -/
def tryStore (s : State) (st : PStore) : StoreRes × State :=
  if st.kind < 4 then scalarStore s (s.h.logWho 0) st.base (2 ^ st.kind) st.data.toNat
  else if st.kind = 7 then tagStore s (s.h.logWho 0) st.base st.data.toNat
  else vectorStore s (s.h.logWho 1) (st.src.getD VReg.reset) st.ew st.rm (storeEls st)

/-- Addresses of the lines or elements that a store writes. -/
def storeVas (st : PStore) : List Word :=
  if st.kind < 4 then (pieces st.base (2 ^ st.kind)).map fun p => p.1
  else if st.kind = 7 then [st.base]
  else (storeEls st).map fun e => BitVec.ofNat 64 (e.2 / 8)

/-- What an access through one port of host memory is ordered by: the port, in a key past every line (R231). -/
def portKey (h : HostId) : Bool × Nat := (true, 2 ^ 60 + (match h with | .a => 0 | .b => 1))

/-- What an access of the acting hart is ordered by: the physical line where the address translates, and for host memory the
port (R215, R231). -/
def lineKey (s : State) (va : Word) : Bool × Nat :=
  match (translate s s.h.who s.h.asid.toNat va false).1 with
  | .ok x => (match regionOf s x.pa with | .host h => portKey h | _ => (true, x.pa / 64))
  | .error _ => (false, va.toNat / 64)

/-- Whether a store writes one of some lines. -/
def storeMeets (s : State) (keys : List (Bool × Nat)) (st : PStore) : Bool :=
  (storeVas st).any fun va => keys.contains (lineKey s va)

/-- A store-fault record takes its place in ascending SEQ (R259). -/
def insertRec (r : SfRec) : List SfRec → List SfRec
  | [] => [r]
  | x :: xs => if x.st.seq < r.st.seq then x :: insertRec r xs else r :: x :: xs

/-- Try unresolved store n: performed, recorded, or held back by a write guard. -/
def resolveAt (s : State) (n : Nat) : State :=
  match listAt s.h.stores n with
  | none => s
  | some st =>
    match tryStore s st with
    | (.guard, s1) => s1
    | (.done, s1) => { s1 with h := { s1.h with stores := s1.h.stores.eraseIdx n } }
    | (.fail c l va k u, s1) =>
      { s1 with h := { s1.h with stores := s1.h.stores.eraseIdx n, sfrq := insertRec ⟨st, va, c, l, k, u⟩ s1.h.sfrq } }

/-- Resolve the oldest store. -/
def resolveOne (s : State) : State := resolveAt s 0

/-- Resolve every store, in order, as far as no write guard holds one back. -/
def settleStoresFrom : Nat → State → State
  | 0, s => s
  | n + 1, s => settleStoresFrom n (resolveOne s)

def settleStores (s : State) : State := settleStoresFrom s.h.stores.length s

/-- Unresolved stores that may be resolved next: those that no older one shares a line with (R215). -/
def readyStores (s : State) : List Nat :=
  (List.range s.h.stores.length).filter fun n =>
    match listAt s.h.stores n with
    | none => false
    | some st =>
      let keys := (storeVas st).map (lineKey s)
      (s.h.stores.take n).all fun o => !storeMeets s keys o

/-- Resolve a store that may be resolved next; where there are several a free value chooses (R215, R256). -/
def resolveSome (s : State) : State :=
  match readyStores s with
  | [] => s
  | [n] => resolveAt s n
  | n :: ns =>
    let (d, s1) := draw s
    resolveAt s1 ((listAt (n :: ns) (Config.freeNat d % (ns.length + 1))).getD n)

/-- The first unresolved store that writes one of some lines. -/
def meetingStore (s : State) (keys : List (Bool × Nat)) : Option Nat :=
  (List.range s.h.stores.length).find? fun n => (listAt s.h.stores n).any (storeMeets s keys)

/-- Resolve the unresolved stores that write one of some lines, in order, as far as no write guard holds one back (R256). -/
def resolveMeeting (keys : List (Bool × Nat)) : Nat → State → State
  | 0, s => s
  | n + 1, s => match meetingStore s keys with | some i => resolveMeeting keys n (resolveAt s i) | none => s

/-- The first unresolved store that sixteen A-stream instructions have followed (R256). -/
def overdueStore (h : Hart) : Option Nat := (List.range h.stores.length).find? fun n => (listAt h.stores n).any fun st => decide (16 ≤ st.past)

/-! ## X-stream instructions that have not retired -/

/-- Counts taken off a list of queue counts, with a function for each queue. -/
def forCounts (cs : List (Nat × Nat)) (f : Nat → Nat → Hart → Hart) (h : Hart) : Hart :=
  cs.foldl (fun h c => f c.1 c.2 h) h

/-- Change a data or scalar queue. -/
def Hart.onQueue (h : Hart) (q : Nat) (f : DQueue → DQueue) (g : SQueue → SQueue) : Hart :=
  if q < 8 then h.setQueue q (f (h.queue q))
  else if q = 8 then { h with qx := g h.qx } else { h with qa := g h.qa }

/-- Commit the queue effects of a retiring instruction: popped entries are freed, pushed ones seen (R126). -/
def commitEntry (e : XEntry) (h : Hart) : Hart :=
  let h1 := forCounts e.pops (fun q n h => h.onQueue q
    (fun d => { d with head := d.head + BitVec.ofNat 32 n, entries := d.entries.drop n, popped := d.popped - n })
    (fun d => { d with head := d.head + BitVec.ofNat 32 n, entries := d.entries.drop n, popped := d.popped - n })) h
  forCounts e.pushes (fun q n h => h.onQueue q (fun d => { d with unseen := d.unseen - n })
    (fun d => { d with unseen := d.unseen - n })) h1

/-- Cancel the queue effects of a discarded instruction (R129). -/
def cancelEntry (e : XEntry) (h : Hart) : Hart :=
  let h1 := forCounts e.pops (fun q n h => h.onQueue q (fun d => { d with popped := d.popped - n })
    (fun d => { d with popped := d.popped - n })) h
  forCounts e.pushes (fun q n h => h.onQueue q
    (fun d => { d with entries := d.entries.take (d.entries.length - n), unseen := d.unseen - n })
    (fun d => { d with entries := d.entries.take (d.entries.length - n), unseen := d.unseen - n })) h1

/-- Whether an entry waits for admission. -/
def XEntry.waiting (e : XEntry) : Bool := !e.admitted && e.op.isSome

/-- Entries before the oldest unadmitted instruction, and from it on. -/
def splitWaiting : List XEntry → List XEntry × List XEntry
  | [] => ([], [])
  | e :: es => if e.waiting then ([], e :: es) else
    let (a, b) := splitWaiting es
    (e :: a, b)

/-- The scalar register of the X-stream that a queued instruction writes when it is admitted (R393). -/
def scalarOut : Instr → Option Nat
  | .vext d _ _ => some d.toNat
  | .vgtag d _ _ => some d.toNat
  | .mpopc d _ | .mfirst d _ => some d.toNat
  | _ => none

/-- The scalar register that an unadmitted entry is to write. -/
def XEntry.owes (e : XEntry) : Option Nat :=
  if e.waiting then (e.op.bind fun o => scalarOut o.instr).filter fun d => decide (d ≠ 0) else none

/-- The scalar registers whose newest value a queued instruction is still to write (R127). -/
def Hart.owed (h : Hart) : List Nat :=
  h.xl.foldl (fun l e => ((match e.owes with | some d => d :: l | none => l)).filter fun d => !e.scalars.contains d) []

/-- Retire the oldest instruction if it has completed (R126). -/
def retireOne (h : Hart) : Hart :=
  match h.xl with
  | [] => h
  | e :: es => if e.waiting then h else { commitEntry e h with xl := es }

/-- Retire every admitted instruction before the oldest that is not. -/
def retireAll (h : Hart) : Hart :=
  let (done, rest) := splitWaiting h.xl
  { done.foldl (fun h e => commitEntry e h) h with xl := rest }

/-- The X-stream at the position of an instruction, as it issued (R129, R344). The loop buffer holds its block no more where the
stream has entered another since (R347). -/
def streamAt (o : XOp) (t : Stream) : Stream :=
  { t with blk := o.blk, filled := t.filled && t.blk == o.blk, pos := .word o.w, n := o.n, k := o.k, trip := o.trip
           last := o.last, regs := o.regs, vl := o.ovl, vfmt := o.ovfmt, st := if t.st = .qblock then .qblock else .run, wait := .none, begun := false }

/-- Discard the oldest unadmitted instruction and everything younger: the history restored, queue effects cancelled, the
X-stream at that instruction (R129, R257). -/
def undoX (h : Hart) : Hart :=
  let (_, rest) := splitWaiting h.xl
  match rest with
  | [] => h
  | e :: _ =>
    let h1 := rest.reverse.foldl (fun h e => cancelEntry e h) h
    let x := match e.op with | some o => streamAt o h1.x | none => h1.x
    { h1 with x := x, xl := (splitWaiting h.xl).1 }

/-- History-buffer entries in use (R129). -/
def Hart.history (h : Hart) : Nat := h.xl.foldl (fun n e => n + e.scalars.length) 0

/-- Kept A-stream registers in use (R365). -/
def Hart.keptA (h : Hart) : Nat := h.loads.foldl (fun n p => n + p.kept) 0

/-- Whether the issuing stream may write a scalar register or CSR now (R129, R365). -/
def State.canWrite (s : State) : Bool :=
  if s.onX then !(s.h.unadmitted && decide (32 ≤ s.h.history)) else decide (s.h.loads = []) || decide (s.h.keptA < 32)

/-- Add a history entry for register d to the first unadmitted instruction of a list. -/
def noteFirst (d : Nat) : List XEntry → List XEntry
  | [] => []
  | e :: es => if e.waiting then { e with scalars := d :: e.scalars } :: es else e :: noteFirst d es

/-- Add a history entry for register d to the youngest unadmitted instruction. -/
def noteLast (d : Nat) (es : List XEntry) : List XEntry := (noteFirst d es.reverse).reverse

/-- Add a kept register to the youngest unconfirmed load. -/
def keepLast : List PLoad → List PLoad
  | [] => []
  | [p] => [{ p with kept := p.kept + 1 }]
  | p :: ps => p :: keepLast ps

/-- Take a history or kept-register entry for register d where one is needed (R129, R365). -/
def State.noteWrite (s : State) (d : Nat) : State :=
  if s.onX then (if s.h.unadmitted then { s with h := { s.h with xl := noteLast d s.h.xl } } else s)
  else { s with h := { s.h with loads := keepLast s.h.loads } }

/-- Write a scalar register and move past the instruction; the stream waits where no entry is free to keep the old value. -/
def State.writeReg (s : State) (d : BitVec 6) (v : Word) : State :=
  if s.canWrite then ((s.noteWrite d.toNat).setReg d.toNat v).advance else s

end Sys2Proof.Machine
end

