-- ==== Sys2Proof/Machine/VectorOps.lean ====
section
/-! DEFINITION. Machine/VectorOps.lean: what each vector, mask, tag and queue instruction of the X-stream does when it is
admitted (R128, R381, R387 to R417). Every trap is decided before any effect. -/

namespace Sys2Proof.Machine

/-! ## Arithmetic -/

/-- The shape of VADD, VSUB, VMUL, VDIV, VMIN, VMAX: two sources, result format from the promotion table (R394, R396). -/
def binaryEffect (rotOk : Bool) (f : Bool → Val → Val → Val) (op : XOp) (h : Hart) (d : BitVec 5) (a b : BitVec 6)
    (m r : BitVec 3) (z : BitVec 1) : XRes :=
  withSrcs h [a.toNat, b.toNat] false rotOk fun s =>
    let fmts := effFmts op.vfmt.toNat s.regs
    match joinSrcs h.pt fmts s.regs with
    | .forbidden k => .trap causeFMT_FORBID k
    | .ok g mx =>
      let x := srcAt s 0
      let y := srcAt s 1
      let rep := repSize r
      let rdn := op.rm.toNat == rmRDN
      elementwise s op d.toNat m.toNat (z == 1#1) g (joinRule mx rep s.regs) (if rotOk then x.hrot.toNat else 0)
        (srcVcs s) fmts 0 false fun i => .val (f rdn (regVal x i) (regVal y (repIdx rep i)))

/-- VADD (R394). -/
def vaddEffect := binaryEffect true fun rdn x y => valAdd rdn x y
/-- VSUB (R394). -/
def vsubEffect := binaryEffect true fun rdn x y => valAdd rdn x (valNeg y)
/-- VMUL (R394). -/
def vmulEffect := binaryEffect false fun _ x y => valMul x y
/-- VDIV (R394). -/
def vdivEffect := binaryEffect false fun _ x y => valDiv x y
/-- VMIN (R396). -/
def vminEffect := binaryEffect false fun _ x y => valMinMax false x y
/-- VMAX (R396). -/
def vmaxEffect := binaryEffect false fun _ x y => valMinMax true x y

/-- The shape of VFMA and VFMS: the old VD is the third source (R395). -/
def fusedEffect (minus : Bool) (op : XOp) (h : Hart) (d : BitVec 5) (a b : BitVec 6) (m r : BitVec 3) (z : BitVec 1) :
    XRes :=
  withSrcs h [a.toNat, b.toNat, d.toNat] false false fun s =>
    let fmts := effFmts op.vfmt.toNat s.regs
    match joinSrcs h.pt fmts s.regs with
    | .forbidden k => .trap causeFMT_FORBID k
    | .ok g mx =>
      let x := srcAt s 0
      let y := srcAt s 1
      let c := srcAt s 2
      let rep := repSize r
      let rdn := op.rm.toNat == rmRDN
      elementwise s op d.toNat m.toNat (z == 1#1) g (joinRule mx rep s.regs) 0 (srcVcs s) fmts 0 false fun i =>
        let t := regVal c i
        .val (valAdd rdn (valMul (regVal x i) (regVal y (repIdx rep i))) (if minus then valNeg t else t))

/-- VFMA (R395). -/
def vfmaEffect := fusedEffect false
/-- VFMS (R395). -/
def vfmsEffect := fusedEffect true

/-- The shape of VABS and VNEG: the source's format, and its scale for blocks written whole (R397). -/
def signEffect (f : Val → Val) (op : XOp) (h : Hart) (d : BitVec 5) (a : BitVec 6) (m : BitVec 3) (z : BitVec 1) : XRes :=
  withSrcs h [a.toNat] false false fun s =>
    let g := fmtAt op.vfmt.toNat s 0
    let x := srcAt s 0
    elementwise s op d.toNat m.toNat (z == 1#1) g (.whole (regScale x)) 0 (srcVcs s) [g] 0 false fun i =>
      .val (f (regVal x i))

/-- VABS (R397). -/
def vabsEffect := signEffect valAbs
/-- VNEG (R397). -/
def vnegEffect := signEffect valNeg

/-- The shape of VRCP and VRSQRT: no integer or RAW source, scales by FIT (R398). -/
def reciprocalEffect (f : Val → Val) (op : XOp) (h : Hart) (d : BitVec 5) (a : BitVec 6) (m : BitVec 3) (z : BitVec 1) :
    XRes :=
  withSrcs h [a.toNat] false false fun s =>
    let g := fmtAt op.vfmt.toNat s 0
    let x := srcAt s 0
    if fmtInt g || g == 0 then .trap causeFMT_FORBID (33 * g)
    else elementwise s op d.toNat m.toNat (z == 1#1) g .fit 0 (srcVcs s) [g] 0 false fun i => .val (f (regVal x i))

/-- VRCP (R398). -/
def vrcpEffect := reciprocalEffect fun x => valDiv (valOfInt 1) x
/-- VRSQRT (R398). -/
def vrsqrtEffect := reciprocalEffect valRsqrt

/-! ## Bitwise operations and shifts -/

/-- The shape of VAND, VOR, VXOR: bit patterns in a's format with a's scales (R399). -/
def bitwiseEffect (f : Nat → Nat → Nat) (op : XOp) (h : Hart) (d : BitVec 5) (a b : BitVec 6) (m r : BitVec 3)
    (z : BitVec 1) : XRes :=
  withSrcs h [a.toNat, b.toNat] false false fun s =>
    let fmts := effFmts op.vfmt.toNat s.regs
    let g := fmtAt op.vfmt.toNat s 0
    let k := fmtAt op.vfmt.toNat s 1
    let x := srcAt s 0
    let y := srcAt s 1
    if elemSize g ≠ elemSize k then .trap causeFMT_FORBID (32 * g + k)
    else elementwise s op d.toNat m.toNat (z == 1#1) g (.named (regScale x)) 0 (srcVcs s) fmts 0 false fun i =>
      .code (f (regCode x i) (regCode y (repIdx (repSize r) i)))

/-- VAND (R399). -/
def vandEffect := bitwiseEffect Nat.land
/-- VOR (R399). -/
def vorEffect := bitwiseEffect Nat.lor
/-- VXOR (R399). -/
def vxorEffect := bitwiseEffect Nat.xor

/-- A left shift of a w-bit element by k (R400). -/
def shiftLeftElem (w c : Nat) (k : Int) : Nat := if 0 ≤ k ∧ k < w then (c <<< k.toNat) % 2 ^ w else 0

/-- A right shift of a w-bit element by k, arithmetic for a signed format (R400). -/
def shiftRightElem (signed : Bool) (w c : Nat) (k : Int) : Nat :=
  if 0 ≤ k ∧ k < w then
    if signed then truncInt w (signExt w c / (2 ^ k.toNat : Nat)) else c >>> k.toNat
  else if signed && c.testBit (w - 1) then 2 ^ w - 1 else 0

/-- The shape of VSHL and VSHR (R400). -/
def shiftEffect (f : Bool → Nat → Nat → Int → Nat) (op : XOp) (h : Hart) (d : BitVec 5) (a b : BitVec 6) (m r : BitVec 3)
    (z : BitVec 1) : XRes :=
  withSrcs h [a.toNat, b.toNat] false false fun s =>
    let fmts := effFmts op.vfmt.toNat s.regs
    let g := fmtAt op.vfmt.toNat s 0
    let k := fmtAt op.vfmt.toNat s 1
    let x := srcAt s 0
    let y := srcAt s 1
    if !fmtInt g || !fmtPlainInt k then .trap causeFMT_FORBID (32 * g + k)
    else elementwise s op d.toNat m.toNat (z == 1#1) g (.named (regScale x)) 0 (srcVcs s) fmts 0 false fun i =>
      .code (f (g != 2) (elemSize g) (regCode x i) (valToInt (regVal y (repIdx (repSize r) i))))

/-- VSHL (R400). -/
def vshlEffect := shiftEffect fun _ w c k => shiftLeftElem w c k
/-- VSHR (R400). -/
def vshrEffect := shiftEffect shiftRightElem

/-! ## Compare, select, moves -/

/-- A compare condition: whether the bit is set for unordered operands and for an ordering, and whether a quiet NaN sets NV
(R401 Table 2). -/
structure Cond where
  onNan : Bool
  onCmp : Ordering → Bool
  loud  : Bool

/-- One compared element: the bit and its flag. -/
def compareElem (c : Cond) (x y : Val) : Bool × Nat :=
  match x, y with
  | .nan p, .nan q => (c.onNan, if c.loud || p || q then flagNV else 0)
  | .nan p, _ => (c.onNan, if c.loud || p then flagNV else 0)
  | _, .nan q => (c.onNan, if c.loud || q then flagNV else 0)
  | x, y => (c.onCmp (valCmp x y), 0)

/-- The mask after the compares of indices i to i + n - 1, with the flags. -/
def compareFrom (c : Cond) (x y : VReg) (rep : Nat) (mask : MaskBits) (z : Bool) : Nat → Nat → Nat → Nat → Nat × Nat
  | 0, _, acc, fl => (acc, fl)
  | n + 1, i, acc, fl =>
    let cleared := if acc.testBit i then acc - 2 ^ i else acc
    if mask.getLsbD i then
      let (bit, g) := compareElem c (regVal x i) (regVal y (repIdx rep i))
      compareFrom c x y rep mask z n (i + 1) (if bit then cleared + 2 ^ i else cleared) (fl ||| g)
    else compareFrom c x y rep mask z n (i + 1) (if z then cleared else acc) fl

/-- The shape of the compares: a mask destination (R401). -/
def compareEffect (c : Cond) (op : XOp) (h : Hart) (d : BitVec 3) (a b : BitVec 6) (m r : BitVec 3) (z : BitVec 1) : XRes :=
  withSrcs h [a.toNat, b.toNat] true false fun s =>
    let fmts := effFmts op.vfmt.toNat s.regs
    match joinSrcs h.pt fmts s.regs with
    | .forbidden k => .trap causeFMT_FORBID k
    | .ok _ _ =>
      let n := effLen h.bits op.vl.toNat fmts
      let (bits, fl) := compareFrom c (srcAt s 0) (srcAt s 1) (repSize r) (h.mask m.toNat) (z == 1#1) n 0
        (s.h.mask d.toNat).toNat 0
      .done ((s.h.addFlags (s.flags ||| fl)).setMask d.toNat (BitVec.ofNat 4096 bits)) s.pops []

/-- VCMP.eq (R401). -/
def vcmpEqEffect := compareEffect ⟨false, fun o => o == .eq, false⟩
/-- VCMP.ne (R401). -/
def vcmpNeEffect := compareEffect ⟨true, fun o => o != .eq, false⟩
/-- VCMP.lt (R401). -/
def vcmpLtEffect := compareEffect ⟨false, fun o => o == .lt, true⟩
/-- VCMP.le (R401). -/
def vcmpLeEffect := compareEffect ⟨false, fun o => o != .gt, true⟩
/-- VCMP.gt (R401). -/
def vcmpGtEffect := compareEffect ⟨false, fun o => o == .gt, true⟩
/-- VCMP.ge (R401). -/
def vcmpGeEffect := compareEffect ⟨false, fun o => o != .lt, true⟩
/-- VCMP.un (R401). -/
def vcmpUnEffect := compareEffect ⟨true, fun _ => false, false⟩
/-- VCMP.or (R401). -/
def vcmpOrEffect := compareEffect ⟨false, fun _ => true, false⟩

/-- VSEL (R402). -/
def vselEffect (op : XOp) (h : Hart) (d : BitVec 5) (a b : BitVec 6) (m r : BitVec 3) : XRes :=
  withSrcs h [a.toNat, b.toNat] false false fun s =>
    let fmts := effFmts op.vfmt.toNat s.regs
    match joinSrcs h.pt fmts s.regs with
    | .forbidden k => .trap causeFMT_FORBID k
    | .ok g mx =>
      let mask := h.mask m.toNat
      elementwise s op d.toNat 0 false g (joinRule mx (repSize r) s.regs) 0 (srcVcs s) fmts 0 true fun i =>
        .val (if mask.getLsbD i then regVal (srcAt s 0) i else regVal (srcAt s 1) (repIdx (repSize r) i))

/-- VMOV (R403). -/
def vmovEffect (op : XOp) (h : Hart) (d : BitVec 5) (a : BitVec 6) (m : BitVec 3) (z : BitVec 1) : XRes :=
  withSrcs h [a.toNat] false false fun s =>
    let g := fmtAt op.vfmt.toNat s 0
    let x := srcAt s 0
    elementwise s op d.toNat m.toNat (z == 1#1) g (.whole (regScale x)) 0 (srcVcs s) [g] 0 false fun i =>
      .move (regCode x i) (regScaleAt x i) (regVal x i)

/-- VSPLAT (R404). -/
def vsplatEffect (op : XOp) (h : Hart) (d : BitVec 5) (_a : BitVec 6) : XRes :=
  let f := op.vfmt.toNat
  let w := elemSize f
  .done (h.setVreg d.toNat (regOfCodes f (List.replicate (elemsIn h.bits f) (op.sa.toNat % 2 ^ w)))) [] []

/-- A scalar value written at admission reaches the register files that younger instructions of the list would restore, up to
the next one that writes its register; true where it is then the register's newest value (R129). -/
def spreadX (n : Nat) (v : Word) : List XEntry → List XEntry × Bool
  | [] => ([], true)
  | e :: es =>
    let e1 := { e with op := e.op.map fun o => { o with regs := SMap.set 0 o.regs n v } }
    if e.owes = some n ∨ n ∈ e.scalars then (e1 :: es, false)
    else
      let (rest, b) := spreadX n v es
      (e1 :: rest, b)

/-- The list from the oldest unadmitted instruction on, which writes register n as it is admitted. -/
def spreadFrom (n : Nat) (v : Word) : List XEntry → List XEntry × Bool
  | [] => ([], true)
  | e :: es =>
    if !e.waiting then
      let (rest, b) := spreadFrom n v es
      (e :: rest, b)
    else if n ∈ e.scalars then (e :: es, false)
    else
      let (rest, b) := spreadX n v es
      (e :: rest, b)

/-- Write X-stream scalar register n at admission. A younger instruction that traps does not undo it, and the value of a
younger scalar instruction that has written the register stands (R127, R129). -/
def Hart.setX (h : Hart) (n : Nat) (v : Word) : Hart :=
  if n = 0 then h
  else
    let (xl, newest) := spreadFrom n v h.xl
    { h with x := if newest then h.x.setReg n v else h.x, xl := xl }

/-- Formats whose extracted element is sign-extended (R405). -/
def extSigned (f : Nat) : Bool := fmtInt f && f != 2

/-- VEXT (R405). -/
def vextEffect (op : XOp) (h : Hart) (d : BitVec 5) (a _b : BitVec 6) : XRes :=
  withSrcs h [a.toNat] true false fun s =>
    let f := fmtAt op.vfmt.toNat s 0
    let k := op.sb.toNat
    let c := if k < elemsIn h.bits f then regCode (srcAt s 0) k else 0
    let v := if extSigned f then truncInt 64 (signExt (elemSize f) c) else c
    .done ((s.h.addFlags s.flags).setX d.toNat (BitVec.ofNat 64 v)) s.pops []

/-- Replace the bits of element i of a register (R106). -/
def setElem (r : VReg) (i c : Nat) : VReg :=
  let w := elemSize r.fmt.toNat
  let old := (r.data.toNat >>> (i * w)) % 2 ^ w
  { r with data := BitVec.ofNat 16384 (r.data.toNat - old <<< (i * w) + (c % 2 ^ w) <<< (i * w)) }

/-- VINS (R405). -/
def vinsEffect (op : XOp) (h : Hart) (d : BitVec 5) (_a _b : BitVec 6) : XRes :=
  withSrcs h [d.toNat] false false fun s =>
    let old := srcAt s 0
    let base := if old.vc = .uninit then zeroReg op.vfmt.toNat .uninit 0 else old
    let k := op.sb.toNat
    if elemsIn h.bits base.fmt.toNat ≤ k then .done h [] []
    else .done (h.setVreg d.toNat { setElem base k op.sa.toNat with vc := combineVc [old.vc, .valid] }) [] []

/-! ## Tags and conversion -/

/-- An admission that raises ILLEGAL_FMT for a code before any other cause: not before the operand and its tag are there (R123, R128,
R196). -/
def fmtChecked (h : Hart) (a f : Nat) (k : XRes) : XRes :=
  if fmtDefined f then k
  else match readSrcs ⟨h, [], 0, [], []⟩ [a] with
    | none => .wait
    | some _ => .trap causeILLEGAL_FMT f

/-- VTAG (R406): ILLEGAL_FMT comes first (R196). -/
def vtagEffect (op : XOp) (h : Hart) (d : BitVec 5) (a _b : BitVec 6) : XRes :=
  let t := op.sb.toNat
  let f := t % 32
  fmtChecked h a.toNat f <| withSrcs h [a.toNat] false false fun s =>
    let x := srcAt s 0
    let want := vcOfCode (fieldOf t 6 5)
    let vc := if vcRank x.vc < vcRank want then want else x.vc
    let sc : SMap Byte := if !fmtScaled f then []
      else if t.testBit 17 then
        (List.range (h.bits / 256)).foldl (fun m j => SMap.set 127#8 m j (BitVec.ofNat 8 (fieldOf t 16 9))) []
      else x.scales
    .done ((s.h.addFlags s.flags).setVreg d.toNat
      ⟨x.data, BitVec.ofNat 5 f, vc, BitVec.ofNat 2 (fieldOf t 8 7), sc⟩) s.pops []

/-- VGTAG (R407): reads the register by name and raises nothing. -/
def vgtagEffect (op : XOp) (h : Hart) (d a : BitVec 5) (_b : BitVec 6) : XRes :=
  let x := h.vreg a.toNat
  let sc := (SMap.get 127#8 x.scales (op.sb.toNat % (h.bits / 256))).toNat
  .done (h.setX d.toNat (BitVec.ofNat 64 (x.fmt.toNat + 32 * vcCode x.vc + 128 * x.hrot.toNat + 512 * sc))) [] []

/-- VCVT (R408). -/
def vcvtEffect (op : XOp) (h : Hart) (d : BitVec 5) (a : BitVec 6) (f : BitVec 5) (m : BitVec 3) (z : BitVec 1) : XRes :=
  let g := f.toNat
  fmtChecked h a.toNat g <| withSrcs h [a.toNat] false false fun s =>
    let k := fmtAt op.vfmt.toNat s 0
    let x := srcAt s 0
    if (k == 0) != (g == 0) then .trap causeFMT_FORBID (32 * k + g)
    else elementwise s op d.toNat m.toNat (z == 1#1) g .fit 0 (srcVcs s) [k] 0 false fun i =>
      if g = 0 then .code (regCode x i) else .val (regVal x i)

/-- VSCALE (R409). -/
def vscaleEffect (op : XOp) (h : Hart) (d : BitVec 5) (a _b : BitVec 6) (m : BitVec 3) (z : BitVec 1) : XRes :=
  withSrcs h [a.toNat] false false fun s =>
    let g := op.vfmt.toNat
    let k := fmtAt g s 0
    if !fmtScaled g || k == 0 then .trap causeFMT_FORBID (33 * g)
    else elementwise s op d.toNat m.toNat (z == 1#1) g (.named fun _ => op.sb.toNat % 256) 0 (srcVcs s) [k] 0 false
      fun i => .val (regVal (srcAt s 0) i)

/-- VUNROT (R410): the whole register, whatever vl and the masks. -/
def vunrotEffect (op : XOp) (h : Hart) (d : BitVec 5) (a : BitVec 6) : XRes :=
  match readSrcs ⟨h, [], 0, [], []⟩ [a.toNat] with
  | none => .wait
  | some s =>
    match vcTrap h.xtrapen false s.regs s.codes with
    | some (c, v) => .trap c v
    | none =>
      let x := srcAt s 0
      let g := fmtAt op.vfmt.toNat s 0
      let n := elemsIn h.bits g
      if n < rotSize x.hrot.toNat then .trap causeROT_OP x.hrot.toNat
      else if x.hrot = 0 then
        let r := if x.vc = .uninit then zeroReg g .uninit 0 else x
        .done ((s.h.addFlags s.flags).setVreg d.toNat r) s.pops []
      else
        let ys := rotateAll x.hrot.toNat (op.rm.toNat == rmRDN) n ((List.range n).map (regVal x))
        let (r, rnd) := writeReg h.bits g .fit (fun i => .val ((listAt ys i).getD .zero)) (h.vreg d.toNat) [x.vc] 0
          (startRnd s.h op.rm)
        .done (((s.h.endRnd rnd).addFlags s.flags).setVreg d.toNat r) s.pops []

/-! ## Permutes -/

/-- One bits of a number below position n. -/
def onesBelow (v : Nat) : Nat → Nat
  | 0 => 0
  | n + 1 => onesBelow v n + (if v.testBit n then 1 else 0)

/-- VIOTA (R411). -/
def viotaEffect (op : XOp) (h : Hart) (d : BitVec 5) (a m : BitVec 3) (z : BitVec 1) : XRes :=
  let f := if fmtPlainInt op.vfmt.toNat then op.vfmt.toNat else 4
  let src := (h.mask a.toNat).toNat
  elementwise ⟨h, [], 0, [], []⟩ op d.toNat m.toNat (z == 1#1) f .fit 0 [.valid] [] 0 false fun i =>
    .val (valOfInt (onesBelow src i))

/-- Element k of a as a slide or permute moves it: zero beyond the register, exact in an unscaled format (R412, R413). DESIGN CHOICE
(log 182): under SR an element that receives zero, or an exact copy as VMOV's, takes no step of the generator (R179). -/
def movedElem (bits g : Nat) (x : VReg) (k : Nat) : Elt :=
  if elemsIn bits g ≤ k then .code 0
  else if fmtScaled g then .val (regVal x k) else .code (regCode x k)

/-- VSLIDEUP (R412). -/
def vslideupEffect (op : XOp) (h : Hart) (d : BitVec 5) (a _b : BitVec 6) (m : BitVec 3) (z : BitVec 1) : XRes :=
  withSrcs h [a.toNat] false false fun s =>
    let g := fmtAt op.vfmt.toNat s 0
    let k := op.sb.toNat
    elementwise s op d.toNat m.toNat (z == 1#1) g .fit 0 (srcVcs s) [g] (Nat.min k (elemsIn h.bits g)) false fun i =>
      movedElem h.bits g (srcAt s 0) (i - k)

/-- VSLIDEDN (R412). -/
def vslidednEffect (op : XOp) (h : Hart) (d : BitVec 5) (a _b : BitVec 6) (m : BitVec 3) (z : BitVec 1) : XRes :=
  withSrcs h [a.toNat] false false fun s =>
    let g := fmtAt op.vfmt.toNat s 0
    elementwise s op d.toNat m.toNat (z == 1#1) g .fit 0 (srcVcs s) [g] 0 false fun i =>
      movedElem h.bits g (srcAt s 0) (i + op.sb.toNat)

/-- VPERM (R413). -/
def vpermEffect (op : XOp) (h : Hart) (d : BitVec 5) (a b : BitVec 6) (m r : BitVec 3) (z : BitVec 1) : XRes :=
  withSrcs h [a.toNat, b.toNat] false false fun s =>
    let fmts := effFmts op.vfmt.toNat s.regs
    let g := fmtAt op.vfmt.toNat s 0
    let k := fmtAt op.vfmt.toNat s 1
    if !fmtPlainInt k then .trap causeFMT_FORBID (32 * g + k)
    else elementwise s op d.toNat m.toNat (z == 1#1) g .fit 0 (srcVcs s) fmts 0 false fun i =>
      let v := valToInt (regVal (srcAt s 1) (repIdx (repSize r) i))
      if v < 0 then .code 0 else movedElem h.bits g (srcAt s 0) v.toNat

/-! ## Reductions -/

/-- The operation at a node (R181). -/
inductive RedOp where
  | sum | max | min
deriving DecidableEq

/-- Node format of a source format (R414 Table 3). -/
def nodeFmt (f : Nat) : Nat :=
  match elemFmt f with
  | 5 => 5 | 8 => 8 | 9 => 9 | 10 => 10
  | n => if fmtInt n then 4 else 8

/-- A node with two present children (R181). -/
def redNode (k : RedOp) (nf : Nat) (x y : Val) (r : Rnd) : Val × Rnd :=
  match k with
  | .sum =>
    let (c, _, r1) := rndVal nf 127 (valAdd (r.rm == rmRDN) x y) r
    (elemValue nf c, r1)
  | .max => (valMinMax true x y, r)
  | .min => (valMinMax false x y, r)

/-- One level of the tree, in ascending node number. -/
def redLevel (k : RedOp) (nf : Nat) : List (Option Val) → Rnd → List (Option Val) × Rnd
  | some x :: some y :: rest, r =>
    let (v, r1) := redNode k nf x y r
    let (vs, r2) := redLevel k nf rest r1
    (some v :: vs, r2)
  | x :: y :: rest, r =>
    let (vs, r2) := redLevel k nf rest r
    (x.or y :: vs, r2)
  | [x], r => ([x], r)
  | [], r => ([], r)

/-- The root of the tree, level by level. -/
def redTree (k : RedOp) (nf : Nat) : Nat → List (Option Val) → Rnd → Option Val × Rnd
  | 0, vs, r => (vs.head?.getD none, r)
  | fuel + 1, vs, r =>
    match vs with
    | [v] => (v, r)
    | [] => (none, r)
    | vs => let (ws, r1) := redLevel k nf vs r; redTree k nf fuel ws r1

/-- The value of an absent root (R181). -/
def absentRoot (k : RedOp) (nf : Nat) : Val :=
  match k with
  | .sum => .zero
  | .max => if fmtInt nf then valOfInt (intRange nf).1 else .inf true
  | .min => if fmtInt nf then valOfInt (intRange nf).2 else .inf false

/-- The shape of the reductions (R414): the root is element 0 of VD, the others are kept. A root that the node format does
not hold, which only a scaled integer source can give, is rounded under xrm with no generator step (log 13). -/
def reduceEffect (k : RedOp) (op : XOp) (h : Hart) (d : BitVec 5) (a : BitVec 6) (m : BitVec 3) : XRes :=
  withSrcs h [a.toNat] false false fun s =>
    let g := fmtAt op.vfmt.toNat s 0
    if g = 0 then .trap causeFMT_FORBID 0
    else
      let nf := nodeFmt g
      let x := srcAt s 0
      let old := h.vreg d.toNat
      let n := Nat.min op.vl.toNat (elemsIn h.bits g)
      match keepTrap old nf 0 with
      | some (c, v) => .trap c v
      | none =>
        if n = 0 then .done (s.h.addFlags s.flags) s.pops []
        else
          let mask := h.mask m.toNat
          let leaves := (List.range n).map fun i => if mask.getLsbD i then some (regVal x i) else none
          let (root, r1) := redTree k nf 13 leaves (startRnd s.h op.rm)
          let rm := if op.rm.toNat = rmSR then rmRNE else op.rm.toNat
          let (c, _, fl) := fixedVal nf 127 rm (root.getD (absentRoot k nf))
          let (r, r2) := writeReg h.bits nf .fit (fun i => if i = 0 then .code c else .keep) old [x.vc, old.vc] 0
            (r1.flag fl)
          .done (((s.h.endRnd r2).addFlags s.flags).setVreg d.toNat r) s.pops []

/-- VREDSUM (R414). -/
def vredsumEffect := reduceEffect .sum
/-- VREDMAX (R414). -/
def vredmaxEffect := reduceEffect .max
/-- VREDMIN (R414). -/
def vredminEffect := reduceEffect .min

/-! ## Masks -/

/-- The shape of the mask logicals: every bit, whatever vl (R415). -/
def maskEffect (f : MaskBits → MaskBits → MaskBits) (h : Hart) (d a b : BitVec 3) : XRes :=
  .done (h.setMask d.toNat (f (h.mask a.toNat) (h.mask b.toNat))) [] []

/-- Lowest one bit among positions i to i + n - 1. -/
def firstOne (v : Nat) : Nat → Nat → Option Nat
  | 0, _ => none
  | n + 1, i => if v.testBit i then some i else firstOne v n (i + 1)

/-- MPOPC (R416). -/
def mpopcEffect (op : XOp) (h : Hart) (d : BitVec 5) (a : BitVec 3) : XRes :=
  .done (h.setX d.toNat (BitVec.ofNat 64 (onesBelow (h.mask a.toNat).toNat op.vl.toNat))) [] []

/-- MFIRST (R416). -/
def mfirstEffect (op : XOp) (h : Hart) (d : BitVec 5) (a : BitVec 3) : XRes :=
  let v := match firstOne (h.mask a.toNat).toNat op.vl.toNat 0 with
    | some i => BitVec.ofNat 64 i
    | none => BitVec.allOnes 64
  .done (h.setX d.toNat v) [] []

/-! ## Queue moves of the X-stream (R381) -/

/-- Entries a queue may hold: 8 in a data queue, 16 in a scalar queue (R122). -/
def qCapacity (q : Nat) : Nat := if q < 8 then 8 else 16

/-- QPUSH of a vector to q6 or q7: the register whole (R381). The entry is seen by the A-stream when the instruction
retires (R126). -/
def qpushXEffect (h : Hart) (q : BitVec 3) (v : BitVec 5) : XRes :=
  let dq := h.queue q.toNat
  if qCapacity q.toNat ≤ dq.entries.length then .wait
  else withSrcs h [v.toNat] false false fun s =>
    .done (s.h.setQueue q.toNat { dq with entries := dq.entries ++ [⟨srcAt s 0, false, 0, 0⟩], unseen := dq.unseen + 1 }) []
      [(q.toNat, 1)]

/-- QPOP of a vector: the entry whole (R381). -/
def qpopXEffect (h : Hart) (q : BitVec 3) (v : Option (BitVec 5)) : XRes :=
  withSrcs h [32 + q.toNat] false false fun s =>
    let h1 := s.h.addFlags s.flags
    .done (match v with | some d => h1.setVreg d.toNat (srcAt s 0) | none => h1) s.pops []

end Sys2Proof.Machine
end

