-- ==== Sys2Proof/Machine/MatrixOps.lean ====
section
/-! DEFINITION. Machine/MatrixOps.lean: what each matrix instruction does when it is admitted (R180, R418 to R433). -/

namespace Sys2Proof.Machine

/-! ## Exact sums (R180) -/

/-- A running exact sum of terms: NaN or an invalid term met, infinities of each sign, the finite sum as an integer times
2^q with q the least exponent so far, and whether every term so far is -0. -/
structure ExactSum where
  nan    : Bool
  nv     : Bool
  pinf   : Bool
  ninf   : Bool
  v      : Int
  q      : Int
  negZ   : Bool

/-- The empty sum. -/
def ExactSum.zero : ExactSum := ⟨false, false, false, false, 0, 0, true⟩

/-- Add one term. -/
def ExactSum.add (s : ExactSum) (x : Val) : ExactSum :=
  match valFix x with
  | .nan nv => { s with nan := true, nv := s.nv || nv, negZ := false }
  | .inf neg => { s with pinf := s.pinf || !neg, ninf := s.ninf || neg, negZ := false }
  | .fin neg m e =>
    if m = 0 then { s with negZ := s.negZ && neg }
    else
      let t : Int := if neg then -(m : Int) else (m : Int)
      if s.v = 0 then { s with v := t, q := e, negZ := false }
      else
        let q := min s.q e
        { s with v := s.v * (2 ^ (s.q - q).toNat : Nat) + t * (2 ^ (e - q).toNat : Nat), q := q, negZ := false }
  | .divz _ => s

/-- The value of a sum: NaN with NV for an invalid term or infinities of both signs (R180). A NaN operand of a cell sets
NV whether or not it is signalling. -/
def ExactSum.value (s : ExactSum) : Val :=
  if s.nan || (s.pinf && s.ninf) then .nan true
  else if s.pinf then .inf false
  else if s.ninf then .inf true
  else if s.v = 0 then .fin s.negZ 0 0
  else .fin (decide (s.v < 0)) s.v.natAbs s.q

/-- Products k to k + n - 1 of cell (i, j) added to a sum, each with the sign of the instruction (R424). -/
def cellSum (minus : Bool) (a b : VReg) (tlen i j : Nat) : Nat → Nat → ExactSum → ExactSum
  | 0, _, s => s
  | n + 1, k, s =>
    let p := valMul (regVal a (k * tlen + i)) (regVal b (k * tlen + j))
    cellSum minus a b tlen i j n (k + 1) (s.add (if minus then valNeg p else p))

/-- Value of a cell pattern in the tile's format. -/
def cellVal (int : Bool) (c : BitVec 32) : Val := elemValue (if int then 4 else 8) c.toNat

/-- A value rounded into the tile's format with RNE (R180, R429). -/
def cellRound (int : Bool) (x : Val) : BitVec 32 × Nat :=
  let (c, fl) := roundTo (if int then 4 else 8) rmRNE 0 x
  (BitVec.ofNat 32 c, fl)

/-- The cells of row i from column j on, n of them, after an accumulation. -/
def accRow (minus int : Bool) (a b : VReg) (tlen kk : Nat) (t : Tile) (mc : MaskBits) (i : Nat) :
    Nat → Nat → SMap (BitVec 32) × Nat → SMap (BitVec 32) × Nat
  | 0, _, acc => acc
  | n + 1, j, acc =>
    let acc1 :=
      if mc.getLsbD j then
        let s := cellSum minus a b tlen i j kk 0 (ExactSum.zero.add (cellVal int (tileCell t i j)))
        let (c, fl) := cellRound int s.value
        (SMap.set 0 acc.1 (128 * i + j) c, acc.2 ||| fl)
      else acc
    accRow minus int a b tlen kk t mc i n (j + 1) acc1

/-- The rows from i on, n of them. -/
def accRows (minus int : Bool) (a b : VReg) (tlen kk : Nat) (t : Tile) (mr mc : MaskBits) :
    Nat → Nat → SMap (BitVec 32) × Nat → SMap (BitVec 32) × Nat
  | 0, _, acc => acc
  | n + 1, i, acc =>
    accRows minus int a b tlen kk t mr mc n (i + 1)
      (if mr.getLsbD i then accRow minus int a b tlen kk t mc i tlen 0 acc else acc)

/-- Element bits of an mk.W code (R421). -/
def mkBits (w : Nat) : Nat := match w with | 1 => 4 | 2 => 8 | 3 => 16 | 4 => 32 | _ => 0

/-- Mask bits that govern rows or columns of the mode: those below TLEN (R424). -/
def tileMask (h : Hart) (n : Nat) : MaskBits := BitVec.ofNat 4096 ((h.mask n).toNat % 2 ^ h.tlen)

/-- The cells of an UNINIT tile count as zero, whatever they hold. -/
def liveCells (t : Tile) : SMap (BitVec 32) := if t.vc = .uninit then [] else t.cells

/-- The rotation check of an accumulation (R208, R426). -/
def tileRotTrap (tlen : Nat) (x y : VReg) (t : Tile) : Option (Nat × Nat) :=
  if x.hrot ≠ y.hrot then some (causeROT_OP, rotTval [x, y])
  else if tlen < rotSize x.hrot.toNat then some (causeROT_OP, rotTval [x, y])
  else if t.vc ≠ .uninit ∧ t.trot ≠ x.hrot then some (causeROT_OP, x.hrot.toNat + 4 * t.trot.toNat)
  else none

/-- OPADD and OPSUB (R424 to R426). With no active cell an UNINIT tile takes its format and rotation and stays UNINIT (R433,
log 24). -/
def outerEffect (minus : Bool) (op : XOp) (h : Hart) (t : BitVec 2) (a b : BitVec 6) (r c : BitVec 3) : XRes :=
  match readSrcs ⟨h, [], 0, [], []⟩ [a.toNat, b.toNat] with
  | none => .wait
  | some s =>
    match vcTrap h.xtrapen false s.regs s.codes with
    | some (cz, v) => .trap cz v
    | none =>
      let x := srcAt s 0
      let y := srcAt s 1
      let tl := h.tile t.toNat
      match tileRotTrap h.tlen x y tl with
      | some (cz, v) => .trap cz v
      | none =>
        let fa := fmtAt op.vfmt.toNat s 0
        let fb := fmtAt op.vfmt.toNat s 1
        let int := fmtPlainInt fa && fmtPlainInt fb
        let w := mkBits h.mkW.toNat
        let bad := h.mkW = 0 ∨ elemSize fa ≠ w ∨ elemSize fb ≠ w ∨ (ptEntry h.pt fa fb).2 = 0 ∨
          (tl.vc ≠ .uninit ∧ tl.int ≠ int)
        let cls := combineVc [x.vc, y.vc]
        let h1 := s.h.addFlags s.flags
        if bad ∧ ¬ vcBad cls then .trap causeFMT_FORBID (32 * fa + fb)
        else if bad then .done (h1.setTile t.toNat { tl with cells := liveCells tl, vc := cls }) s.pops []
        else
          let mr := tileMask h r.toNat
          let mc := tileMask h c.toNat
          let none_ := mr = 0 ∨ mc = 0
          if none_ ∧ tl.vc = .uninit then
            .done (h1.setTile t.toNat { tl with int := int, trot := x.hrot }) s.pops []
          else
            let kk := h.bits / (h.tlen * w)
            let (cells, fl) := accRows minus int x y h.tlen kk tl mr mc h.tlen 0 (liveCells tl, 0)
            let t1 : Tile := { tl with
              cells := cells, vc := combineVc [x.vc, y.vc, tl.vc]
              int := if tl.vc = .uninit then int else tl.int
              trot := if tl.vc = .uninit then x.hrot else tl.trot }
            .done ((h1.addFlags fl).setTile t.toNat t1) s.pops []

/-- OPADD (R424). -/
def opaddEffect := outerEffect false
/-- OPSUB (R424). -/
def opsubEffect := outerEffect true

/-- MMODE at admission: mk.W (R421). The leave is released by the caller for W = 0. -/
def mmodeEffect (h : Hart) (w : BitVec 3) : XRes := .done { h with mkW := w } [] []

/-- Clear the cells of row i from column j on, n of them, under a mask. -/
def zeroRow (mc : MaskBits) (i : Nat) : Nat → Nat → SMap (BitVec 32) → SMap (BitVec 32)
  | 0, _, cs => cs
  | n + 1, j, cs => zeroRow mc i n (j + 1) (if mc.getLsbD j then SMap.set 0 cs (128 * i + j) 0 else cs)

/-- MZERO (R427). -/
def mzeroEffect (h : Hart) (t : BitVec 2) (r c : BitVec 3) : XRes :=
  let tl := h.tile t.toNat
  let full := BitVec.ofNat 4096 (2 ^ h.tlen - 1)
  let mr := tileMask h r.toNat
  let mc := tileMask h c.toNat
  if mr = full ∧ mc = full then .done (h.setTile t.toNat { tl with cells := [], vc := .uninit, trot := 0 }) [] []
  else
    let rows := (List.range h.tlen).filter fun i => mr.getLsbD i
    let cells := rows.foldl (fun cs i => zeroRow mc i h.tlen 0 cs) (liveCells tl)
    .done (h.setTile t.toNat { tl with cells := cells }) [] []

/-- Row r or column r of a tile: the cell that element j stands for. -/
def lineCell (col : Bool) (r j : Nat) : Nat × Nat := if col then (j, r) else (r, j)

/-- MRD and MTR: a row or a column into VD in vfmt, with the clear of the cells read (R428). -/
def tileReadEffect (col : Bool) (op : XOp) (h : Hart) (t : BitVec 2) (d : BitVec 5) (_x : BitVec 6) (c : BitVec 3)
    (s : BitVec 1) : XRes :=
  let f := op.vfmt.toNat
  if f = 0 then .trap causeFMT_FORBID 0
  else
    let tl := h.tile t.toNat
    let r := op.sb.toNat % h.tlen
    let mc := tileMask h c.toNat
    let cellOf := fun j => let p := lineCell col r j; tileCell tl p.1 p.2
    let elt : Nat → Elt := fun j =>
      if j < h.tlen ∧ mc.getLsbD j then .val (cellVal tl.int (cellOf j)) else .code 0
    let (v, rnd) := writeReg h.bits f .fit elt (h.vreg d.toNat) [tl.vc] tl.trot.toNat (startRnd h op.rm)
    let h1 := (h.endRnd rnd).setVreg d.toNat v
    if s = 1#1 then
      let js := (List.range h.tlen).filter fun j => mc.getLsbD j
      let cells := js.foldl (fun cs j => let p := lineCell col r j; SMap.set 0 cs (128 * p.1 + p.2) 0) tl.cells
      .done (h1.setTile t.toNat { tl with cells := cells }) [] []
    else .done h1 [] []

/-- MRD (R428). -/
def mrdEffect := tileReadEffect false
/-- MTR (R428). -/
def mtrEffect := tileReadEffect true

/-- The cells written by MWR, elements j on, n of them. -/
def writeTileLine (col int : Bool) (r : Nat) (x : VReg) (mc : MaskBits) :
    Nat → Nat → SMap (BitVec 32) × Nat → SMap (BitVec 32) × Nat
  | 0, _, acc => acc
  | n + 1, j, acc =>
    let acc1 :=
      if mc.getLsbD j then
        let p := lineCell col r j
        let (c, fl) := cellRound int (regVal x j)
        (SMap.set 0 acc.1 (128 * p.1 + p.2) c, acc.2 ||| fl)
      else acc
    writeTileLine col int r x mc n (j + 1) acc1

/-- MWR (R429). -/
def mwrEffect (op : XOp) (h : Hart) (t : BitVec 2) (a _x : BitVec 6) (c : BitVec 3) (s : BitVec 1) : XRes :=
  match readSrcs ⟨h, [], 0, [], []⟩ [a.toNat] with
  | none => .wait
  | some src =>
    match vcTrap h.xtrapen false src.regs src.codes with
    | some (cz, v) => .trap cz v
    | none =>
      let x := srcAt src 0
      let tl := h.tile t.toNat
      let fa := fmtAt op.vfmt.toNat src 0
      let trot : Nat := if tl.vc = .uninit then 0 else tl.trot.toNat
      if x.hrot ≠ 0 ∨ trot ≠ 0 then .trap causeROT_OP (x.hrot.toNat + 4 * trot)
      else if fa = 0 then .trap causeFMT_FORBID (if tl.int then 4 else 8)
      else
        let int := if tl.vc = .uninit then fmtPlainInt fa else tl.int
        let r := op.sb.toNat % h.tlen
        let (cells, fl) := writeTileLine (s == 1#1) int r x (tileMask h c.toNat) h.tlen 0 (liveCells tl, 0)
        .done ((src.h.addFlags (src.flags ||| fl)).setTile t.toNat
          { tl with cells := cells, int := int, vc := combineVc [x.vc, tl.vc], trot := BitVec.ofNat 2 trot }) src.pops []

/-! ## Every X-stream instruction that goes through the VIQ -/

/-- The effect at admission of an instruction of the VIQ (R127, R128); an instruction that never enters it has none. -/
def xEffect (op : XOp) (h : Hart) : XRes :=
  match op.instr with
  | .vadd d a b m r z => vaddEffect op h d a b m r z
  | .vsub d a b m r z => vsubEffect op h d a b m r z
  | .vmul d a b m r z => vmulEffect op h d a b m r z
  | .vfma d a b m r z => vfmaEffect op h d a b m r z
  | .vfms d a b m r z => vfmsEffect op h d a b m r z
  | .vmin d a b m r z => vminEffect op h d a b m r z
  | .vmax d a b m r z => vmaxEffect op h d a b m r z
  | .vabs d a m z => vabsEffect op h d a m z
  | .vneg d a m z => vnegEffect op h d a m z
  | .vdiv d a b m r z => vdivEffect op h d a b m r z
  | .vrcp d a m z => vrcpEffect op h d a m z
  | .vrsqrt d a m z => vrsqrtEffect op h d a m z
  | .vand d a b m r z => vandEffect op h d a b m r z
  | .vor d a b m r z => vorEffect op h d a b m r z
  | .vxor d a b m r z => vxorEffect op h d a b m r z
  | .vshl d a b m r z => vshlEffect op h d a b m r z
  | .vshr d a b m r z => vshrEffect op h d a b m r z
  | .vsel d a b m r => vselEffect op h d a b m r
  | .vmov d a m z => vmovEffect op h d a m z
  | .vsplat d a => vsplatEffect op h d a
  | .vext d a b => vextEffect op h d a b
  | .vins d a b => vinsEffect op h d a b
  | .vredsum d a m => vredsumEffect op h d a m
  | .vredmax d a m => vredmaxEffect op h d a m
  | .vredmin d a m => vredminEffect op h d a m
  | .vcmpEq d a b m r z => vcmpEqEffect op h d a b m r z
  | .vcmpNe d a b m r z => vcmpNeEffect op h d a b m r z
  | .vcmpLt d a b m r z => vcmpLtEffect op h d a b m r z
  | .vcmpLe d a b m r z => vcmpLeEffect op h d a b m r z
  | .vcmpGt d a b m r z => vcmpGtEffect op h d a b m r z
  | .vcmpGe d a b m r z => vcmpGeEffect op h d a b m r z
  | .vcmpUn d a b m r z => vcmpUnEffect op h d a b m r z
  | .vcmpOr d a b m r z => vcmpOrEffect op h d a b m r z
  | .viota d a m z => viotaEffect op h d a m z
  | .vslideup d a b m z => vslideupEffect op h d a b m z
  | .vslidedn d a b m z => vslidednEffect op h d a b m z
  | .vperm d a b m r z => vpermEffect op h d a b m r z
  | .mand d a b => maskEffect (fun x y => x &&& y) h d a b
  | .mor d a b => maskEffect (fun x y => x ||| y) h d a b
  | .mxor d a b => maskEffect (fun x y => x ^^^ y) h d a b
  | .mandn d a b => maskEffect (fun x y => x &&& ~~~ y) h d a b
  | .mnot d a => maskEffect (fun x _ => ~~~ x) h d a a
  | .mpopc d a => mpopcEffect op h d a
  | .mfirst d a => mfirstEffect op h d a
  | .mmode w => mmodeEffect h w
  | .mzero t r c => mzeroEffect h t r c
  | .opadd t a b r c => opaddEffect op h t a b r c
  | .opsub t a b r c => opsubEffect op h t a b r c
  | .mrd t v x c s => mrdEffect op h t v x c s
  | .mwr t a x c s => mwrEffect op h t a x c s
  | .mtr t v x c s => mtrEffect op h t v x c s
  | .vtag d a b => vtagEffect op h d a b
  | .vgtag d a b => vgtagEffect op h d a b
  | .vcvt d a f m z => vcvtEffect op h d a f m z
  | .vscale d a b m z => vscaleEffect op h d a b m z
  | .vunrot d a => vunrotEffect op h d a
  | .qpushX q v => qpushXEffect h q v
  | .qpopX q v => qpopXEffect h q (some v)
  | .qpopXDiscard q => qpopXEffect h q none
  | _ => .done h [] []

end Sys2Proof.Machine
end

