-- ==== Sys2Proof/Machine/Ops.lean ====
section
/-! DEFINITION. Machine/Ops.lean: the operations that every family of instructions shares. Taking an exception and returning
from one, transfers and block entry, the end of a task, stops and parks (R82 to R89, R97, R100, R111 to R120, R240,
R252 to R270, R346, R347, R353). -/

namespace Sys2Proof.Machine

/-! ## Leaving a hart slot -/

/-- Change the governor of every tower. -/
def updGovs (s : State) (f : Gov → Gov) : State :=
  { s with gov := (List.range 8).foldl (fun m t => SMap.upd Gov.reset m t f) s.gov }

/-- The engine command of a hart that waits for its leave, or has not issued since the grant, gives up its slot and its leave: its
instruction has not begun (R23, R292). -/
def withdrawCmd (s : State) (id : HartId) : State :=
  let mine := fun (c : Cmd) => c.asks && c.h == id
  let theirs := fun (l : Leave) => match l.who with | .inr k => !(s.cmds.any fun c => mine c && c.id == k) | .inl _ => true
  let s1 := updGovs s fun g => { g with held := g.held.filter theirs, asked := g.asked.filter theirs }
  { s1 with cmds := s1.cmds.filter fun c => !mine c }

/-- Withdraw and release the leaves of a hart (R21, R23). -/
def dropLeaves (s : State) (id : HartId) : State :=
  updGovs (withdrawCmd s id) fun g => { g with
    held := g.held.filter fun x => x.who != .inl id
    asked := g.asked.filter fun x => x.who != .inl id }

/-- Withdraw what the streams of a hart wait for leave for; the X-stream's leave that is granted stays (R23). -/
def withdrawAsks (s : State) (id : HartId) : State :=
  updGovs (withdrawCmd s id) fun g => { g with asked := g.asked.filter fun x => x.who != .inl id }

/-- Withdraw the request of a stream that has been stopped while it waited for leave: the A-stream's is of an engine command, the
X-stream's of matrix work (R21, R23). -/
def withdrawStopped (s : State) (id : HartId) (onX : Bool) (t : Stream) : State :=
  if t.st = .stopped ∧ t.wait = .leave then
    if onX then updGovs s fun g => { g with asked := g.asked.filter fun x => x.who != .inl id } else withdrawCmd s id
  else s

/-- End the wait of a hart's A-stream with a value for its destination register: one more instruction past its unresolved stores
(R256). -/
def finishWait (h : Hart) (d : Nat) (v : Word) : Hart :=
  match h.a.pos with
  | .word w =>
    let t : Stream := { h.a.setReg d v with st := .run, wait := .none, begun := false, stepPast := false }
    { h with a := t.past (softRequest h.req) w, stores := h.stores.map fun st => { st with past := st.past + 1 } }
  | _ => h

/-- A hart whose CWAIT names the quarter of a hart that leaves its core ends it with status 2 (R240). One of which a stop is asked
is left to that stop, whose status comes first (R246). -/
def endQuarterWait (s : State) (gone h : Hart) : Hart :=
  match h.a.st, h.a.wait with
  | .wait, .cwait r _ d _ =>
    match refOf s r with
    | .near k =>
      if h.req = none ∧ sameCore h.id gone.id ∧ h.id ≠ gone.id ∧ h.nearIdx k / 16 = gone.id.group then finishWait h d 2 else h
    | _ => h
  | _, _ => h

/-- What the departure of a hart does to the rest of the part. -/
def leaveSlot (s : State) (gone : Hart) : State :=
  let s1 := dropWaiter (dropLeaves s gone.id) (.stream gone.id)
  { s1 with h := endQuarterWait s1 gone s1.h, rest := s1.rest.map fun h => endQuarterWait s1 gone h }

/-! ## Launch-table entries at the end of a task (R83, R86, R97) -/

/-- Harts that hold tasks of a launch. -/
def tasksOf (s : State) (l : Nat) : List Hart := s.harts.filter fun h => h.launch == some l

/-- Whether an engine command of the acting hart's task is outstanding (R293). -/
def State.engineBusy (s : State) : Bool :=
  s.cmds.any fun c => match s.h.launch with
    | some l => c.launch == some l && c.tn == s.h.tn
    | none => c.launch.isNone && c.h == s.h.id

/-- Value of a counter as the Launch Unit reads it. DESIGN CHOICE (log 194): of a slot that is POISON, or whose read meets an
integrity fault, it reads a free value (R83, R95, R251). -/
def counterValue (s : State) (r : Word) : Word :=
  match refOf s r with
  | .slot t n => ((slotRead s (slotKey t n)).1).getD (BitVec.ofNat 64 (Config.freeNat s.draws))
  | .host _ pa => BitVec.ofNat 64 (readMem s.mem pa 8)
  | .peer _ => Config.peerCounter s.draws r
  | _ => 0

/-- What the Launch Unit's read of a counter does to the counter cache: a read that meets an integrity fault leaves the slot POISON
(R238, R251). -/
def counterTouch (s : State) (r : Word) : State :=
  match refOf s r with
  | .slot t n => (slotRead s (slotKey t n)).2
  | _ => s

/-- Claims exhausted (R83). -/
def claimsDone (s : State) (e : LEntry) : Bool :=
  e.recd.strips == 0 || decide (e.recd.strips.toNat ≤ (counterValue s e.recd.claim - e.base).toNat)

/-- Free an entry: the completion add, with its check (R86, R241). An add that the counter group check refuses is logged; one whose
slot is POISON is dropped without an entry (DESIGN CHOICE, log 178: R480 names no such event). DESIGN CHOICE (log 179): the issuing
tower of an add to a peer is tower 0, where the Launch Unit is taken to stand. -/
def freeEntry (s : State) (l : Nat) : State :=
  let e := s.entry l
  let d := e.recd.done
  let s1 := if d = 0 then s
    else
      let (ok, s1) := farAdd s (homeTower 0) (e.recd.tenant == 0) e.recd.asid.toNat d 1
      if ok then s1
      else match refOf s d with
        | .slot t n => if groupOk s t n (e.recd.tenant == 0) e.recd.asid.toNat then s1 else logError s1 t 5 7 l d.toNat 0
        | _ => s1
  clearMarks (s1.setEntry l { LEntry.reset with gen := e.gen }) l

/-- Whether a launch whose tasks have been placed may place another: a strip farm that is no gang and has claims left
(R83, R91, R96). -/
def mayDispatch (s : State) (e : LEntry) : Bool := e.recd.strips != 0 && !e.recd.gang && !claimsDone s e

/-- The transitions that follow the end of a task, a claim or a stop (R83 Table 5): a launch ends with its last task, once no
task is parked and no further dispatch is possible. -/
def settleEntry (s : State) (l : Nat) : State :=
  let e := s.entry l
  let e1 := if e.state = .running ∧ claimsDone s e then { e with state := LState.closing } else e
  let s1 := (if e.state = .running ∧ e.recd.strips ≠ 0 then counterTouch s e.recd.claim else s).setEntry l e1
  let ended := match e1.state with | .closing | .killing => true | .running => !mayDispatch s e1 | _ => false
  if ended && (tasksOf s l).isEmpty && e1.parked.isEmpty && !(s.cmds.any fun c => c.launch == some l) then freeEntry s1 l else s1

/-- Send a request to a hart; a kill stands over every other, and the first request keeps its time. -/
def requestStop (r : StopReq) (now : Nat) (h : Hart) : Hart :=
  if h.req = some .kill then h
  else { h with req := some r, reqAt := if h.req.isSome && r != .kill then h.reqAt else now, wdraw := h.wdraw || r == .withdraw }

/-- Change every hart that holds a task of a launch. -/
def updTasks (s : State) (l : Nat) (f : Hart → Hart) : State :=
  let g := fun (h : Hart) => if h.launch = some l then f h else h
  { s with h := g s.h, rest := s.rest.map g }

/-- A task that has ended owns no near counter any more: the adds due to its counters are dropped when they come, although a
later dispatch may take its number (R88, R240). -/
def disown (s : State) (l : Nat) (ended : List Nat) : State :=
  let gone := fun (o : Option (Nat × Nat)) => match o with | some (k, tn) => k == l && ended.contains tn | none => false
  { s with
    cmds := s.cmds.map fun c => if gone c.owner then { c with owner := none } else c
    tlbis := s.tlbis.map fun p => if gone p.owner then { p with owner := none } else p }

/-- Cancel a launch whose tasks have been dispatched: its parked tasks are discarded and its running ones asked to stop
(R83, R97). -/
def killLaunch (s : State) (l : Nat) : State :=
  let e := s.entry l
  let s0 := disown (s.setEntry l { e with state := .killing, parked := [], rw := none }) l (e.parked.map fun p => p.tn)
  let s1 := updTasks s0 l (requestStop .kill s.cycle)
  settleEntry s1 l

/-- Whether some live task of a launch is in HOLD mode (R273). -/
def contextHold (s : State) (l : Nat) : Bool :=
  ((tasksOf s l).any fun h => h.hold) || (s.entry l).parked.any fun p => p.hold

/-- The log header is written when every task that is left of a context is parked (R273). -/
def quietHeader (s : State) (l : Nat) : State :=
  if (tasksOf s l).isEmpty && !(s.entry l).parked.isEmpty then putHeader s l (contextHold s l) else s

/-- The task of the acting hart is gone from its slot (R86). -/
def freeSlot (s : State) (l : Nat) : State := settleEntry (quietHeader (leaveSlot s.dropHart s.h) l) l

/-- The acting hart's task, one of a launch, has ended. -/
def freeTaskSlot (s : State) (l : Nat) : State := freeSlot (disown s l [s.h.tn]) l

/-- The task of the acting hart ends and its slot is freed (R86). A hart without a launch keeps its slot, idle. -/
def endTask (s : State) : State :=
  match s.h.launch with
  | none => s.setCur { s.cur with st := .idle, wait := .none, begun := false }
  | some l => freeTaskSlot s l

/-- A killed task whose streams have stopped ends unsaved: its stores are resolved and its engine commands performed first,
and a store that a write guard holds delays it (R86, R97, R293). -/
def killTask (s : State) : State :=
  let s1 := settleStores (withdrawCmd s s.h.id)
  if !s1.h.stores.isEmpty || s1.engineBusy then s1
  else match s1.h.launch with
    | none => s1
    | some l => freeTaskSlot s1 l

/-! ## Taking an exception (R252 to R264) -/

/-- The X-stream's QBLOCK ends as soon as its oldest unadmitted instruction waits for no queue entry any more (R110, R123). -/
def unblockX (h : Hart) : Hart :=
  if h.x.st ≠ .qblock then h
  else match (splitWaiting h.xl).2 with
    | ⟨some op, _, _, _, _⟩ :: _ =>
      match xEffect op h with
      | .wait => h
      | .trap _ _ | .done _ _ _ => { h with x := { h.x with st := .run } }
    | _ => h

/-- Stop the X-stream for a stop of the hart: younger work is undone, admitted instructions complete (R257). -/
def haltX (h : Hart) : Hart := retireAll (undoX (unblockX h))

/-- Stop a stream where it stands, its state before the stop kept; one that a request has stopped already keeps the state that it
had before that (R120, R257). -/
def stopStream (t : Stream) : Stream := if t.st = .stopped then t else { t with stBefore := t.st, st := .stopped }

/-- Stop both streams for a trap (R257). -/
def stopStreams (h : Hart) : Hart := { h with a := stopStream h.a, x := stopStream h.x }

/-- The A-stream enters the handler (R260). Where no word of its own has been issued for the cause, a first word that is to step
past a breakpoint is still to come (R317). -/
def enterHandler (h : Hart) (issued : Bool) : Hart :=
  { h with a := { h.a with st := .run, wait := .none, begun := false, pos := .enter h.tvec h.tvec none
                           stepPast := h.a.stepPast && !issued }
           refill := none, aprog := 0, acause := 0, atval := 0, xcause := 0, xtval := 0 }

/-- Access kind of a store-fault record, by its TYPE (R258, R262). -/
def storeAcc (r : SfRec) : Nat :=
  if r.st.kind ≤ 3 then 2 else if r.st.kind = 7 then 11 else if r.st.kind = 6 then 7 else 6

/-- The primary cause as it is delivered: a STORE delivery reports the number of its records and the access kind of the
oldest (R252, R262, R455). -/
def deliveredCause (sfrq : List SfRec) (c : Cause) : Cause :=
  if c.code = causeSTORE then
    { c with tval := BitVec.ofNat 64 sfrq.length, acc := match sfrq with | r :: _ => storeAcc r | [] => c.acc }
  else c

/-- Take a cause (R260). Unconfirmed loads are confirmed first, and an older one that fails gives the primary cause; stores
are resolved; the stop record, the A-stream's registers and the store-fault records are written; tcause, tval and TH are
set; and the A-stream enters the handler at tvec. With tvec 0 or TH 1 the cause is fatal: the record has KIND 6 and the
launch is killed (R264). A store held back by a write guard delays the cause. -/
def takeTrap (s : State) (c : Cause) : State :=
  let (lc, s1) := settleLoads s false
  let s2 := settleStores s1
  if !s2.h.stores.isEmpty then s2
  else
    let p := deliveredCause s2.h.sfrq (lc.getD c)
    let both := lc.isSome && c.onX
    let h := s2.h
    let h1 := stopStreams (if c.onX then retireAll h else haltX h)
    let fatal := h.th || h.tvec == 0
    let h2 := { h1 with
      acause := if p.onX then 0 else causeWord p both
      atval := if p.onX then 0 else p.tval
      xcause := if c.onX then causeWord c both else 0
      xtval := if c.onX then c.tval else 0 }
    let s3 := dropWaiter (withdrawAsks { s2 with h := h2 } h.id) (.stream h.id)
    let s4 := match h.launch with
      | none => s3
      | some l =>
        let base := h.csa.toNat
        let t := putSfrq l base h s3
        if h.th then areaPut l t base 8 (stopRecord h2 6)
        else areaPut l (areaPut l t (base + 0x200) 8 (stopRecord h2 (if fatal then 6 else 1))) (base + 0x1000) 8 (packRegs h.a)
    let h3 := { h2 with
      tcause := causeWord p both, tval := p.tval, th := true
      sfrqcnt := BitVec.ofNat 5 h.sfrq.length, sfrq := [] }
    if !fatal then { s4 with h := enterHandler h3 (!c.onX && c.code != causeSTORE), onX := false }
    else match h.launch with
      | none => { s4 with h := { h3 with a := { h3.a with st := .idle }, x := { h3.x with st := .idle } } }
      | some l => killLaunch { s4 with h := h3 } l

/-- Raise a cause at the present instruction of the issuing stream. In the X-stream it is taken once every older vector
and matrix instruction has been admitted (R128, R129). -/
def raise (s : State) (code acc level : Nat) (tval : Word) : State :=
  if s.onX && s.h.unadmitted then s else takeTrap s ⟨s.onX, code, acc, level, tval⟩

/-- Raise the failure of an access. -/
def raiseErr (s : State) (acc : Nat) (e : Err) : State := raise s e.cause acc e.level e.va

/-! ## Returning from an exception (R266) -/

/-- A stream resumes at the position of a record: from its loop buffer if that still holds the block, else after a
reload. A first word that is to step past a breakpoint and has not run still does (R317). -/
def resumeAt (rec o st : Nat) (stopping : Bool) (t : Stream) : Stream :=
  let u := { streamFrom rec o st t with stepPast := t.stepPast }
  match u.pos with
  | .reload h w =>
    if t.filled ∧ t.blk.hdr = h ∧ t.blk.lead ≤ w ∧ w - t.blk.lead < t.blk.body.length then
      ({ u with blk := t.blk, filled := true } : Stream).goOn stopping (w - t.blk.lead)
    else u
  | _ => u

/-- Empty the queues that QFLUSH names (R266). -/
def flushQueues (mask : Nat) (h : Hart) : Hart :=
  (List.range 10).foldl (fun h q =>
    if mask.testBit q then h.onQueue q
      (fun d => { head := qTail d.head d.entries.length, entries := [], popped := 0, unseen := 0 })
      (fun d => { head := qTail d.head d.entries.length, entries := [], popped := 0, unseen := 0 })
    else h) h

/-- The entry of a data queue with a sequence number becomes POISON (R254, R266, R479). -/
def poisonEntry (q : Nat) (seq : BitVec 32) (h : Hart) : Hart :=
  let d := h.queue q
  h.setQueue q (fillAt d seq (poisonReg d seq) 0)

/-- ERET with TH = 1: resume from the trap record (R266). -/
def returnTrap (s : State) : State :=
  match s.h.launch with
  | none => s.setCur { s.cur with st := .idle }
  | some l =>
    let base := s.h.csa.toNat
    let (rec, s1) := areaGet l s (base + 0x200) 8
    let (ra, s2) := areaGet l s1 (base + 0x1000) 8
    let h := flushQueues (bitsAt rec 1992 10) s2.h
    let flag := fun n => bitsAt rec n 1 == 1
    let hdrOf := fun o => BitVec.ofNat 64 (bitsAt rec o 64)
    let enter := fun (t : Stream) (hd : Word) =>
      { t with st := .run, pos := .enter hd hd none, wait := .none, begun := false, filled := false }
    let x := if flag 1986 then { h.x with st := .idle, wait := .none, begun := false }
      else if flag 1985 then enter h.x (hdrOf 768)
      else resumeAt rec 704 (bitsAt rec 1092 3) (softRequest h.req) h.x
    let a0 := { h.a with regs := unpackRegs ra }
    let refq := bitsAt rec 521 3
    let seq := BitVec.ofNat 32 (bitsAt rec 544 32)
    let refill := flag 520 && !(bitsAt rec 1992 10).testBit refq
    let begun := bitsAt rec 516 3 == 3 && !flag 519
    let a := if flag 1984 then enter a0 (hdrOf 192)
      else { resumeAt rec 128 (bitsAt rec 516 3) (softRequest h.req) a0 with begun := begun, wait := if begun then .retry else .none }
    let h1 := { h with a := a, x := x, sfrqcnt := 0, th := false, aprog := if flag 1984 then 0 else bitsAt rec 528 16
                       refill := if refill && !flag 1984 then some (refq, seq, none) else none }
    { s2 with h := if refill && flag 1984 then poisonEntry refq seq h1 else h1 }

/-! ## Fetch, transfers and block entry (R112 to R117, R346, R347) -/

/-- Fetch one word: translation, the X check, the class of its line (R115, R156). -/
def fetchAt (s : State) (va : Word) : Except Err (BitVec 32) × State :=
  match s.reachH va .exec with
  | (.error e, s1) => (.error e, s1)
  | (.ok x, s1) =>
    let (l, s2) := readLine s1 x.pa (pteKEY x.leaf) (pteLFMT x.leaf) s.h.who s.h.noL1
    if vcBad (tagVc l.tag) then (.error ⟨causePOISONED, 0, va⟩, s2)
    else (.ok (BitVec.ofNat 32 (l.bytes / 2 ^ (8 * (x.pa % 64)))), s2)

/-- Fetch n words in order. -/
def fetchMany : Nat → Word → State → Except Err (List (BitVec 32)) × State
  | 0, _, s => (.ok [], s)
  | n + 1, va, s =>
    match fetchAt s va with
    | (.error e, s1) => (.error e, s1)
    | (.ok w, s1) =>
      match fetchMany n (va + 4) s1 with
      | (.error e, s2) => (.error e, s2)
      | (.ok ws, s2) => (.ok (w :: ws), s2)

/-- Opcode of a word. -/
def opOf (w : BitVec 32) : Nat := w.toNat / 2 ^ 24

/-- The header checks of R113 that read the header alone. -/
def headerOk (w : BitVec 32) : Bool :=
  let v := w.toNat
  let count := v % 4096
  (v.testBit 23 || (!v.testBit 22 && fieldOf v 21 20 == 0 && count == 0)) && (!v.testBit 22 || count / 64 == 0)

/-- The boundaries of a stage map that are in force, and the rest (R112 Table 6). -/
def mapBounds (stages : Nat) (w : BitVec 32) : List Nat × List Nat :=
  let v := w.toNat
  let all := [fieldOf v 23 16, fieldOf v 15 8, fieldOf v 7 0]
  (all.take (stages - 1), all.drop (stages - 1))

/-- Strictly increasing from a bound up, all below a limit. -/
def risingBelow (limit : Nat) : Nat → List Nat → Bool
  | _, [] => true
  | lo, b :: bs => decide (lo ≤ b) && decide (b < limit) && risingBelow limit (b + 1) bs

/-- The checks of R113 on the stage map and the body. -/
def stagesOk (stages len : Nat) (map : BitVec 32) (body : List (BitVec 32)) : Bool :=
  let (inForce, beyond) := mapBounds stages map
  opOf map == 0xFE && risingBelow len 1 inForce && beyond.all (· == 0) &&
    body.all fun w => decide (opOf w = 1) || decide (16 ≤ opOf w)

/-- Read and check the block at a header: BAD_TARGET is for the caller, whose program counter it names. -/
inductive BlockRes where
  | ok (b : Block)
  | notHeader
  | fault (e : Err)
  | illegal (w : BitVec 32)

/-- The block at a header, whose header word is fetched unless it is known. The words are fetched in order, and a fetch fault on
any of them comes before the checks of the stage map and the body (DESIGN CHOICE, log 173: R113 and R115 give no order). -/
def loadBlock (s : State) (hdr : Word) (known : Option (BitVec 32)) : BlockRes × State :=
  let first : Except Err (BitVec 32) × State := match known with | some w => (.ok w, s) | none => fetchAt s hdr
  match first with
  | (.error e, s1) => (.fault e, s1)
  | (.ok w, s1) =>
    if opOf w ≠ 0xFF then (.notHeader, s1)
    else if !headerOk w then (.illegal w, s1)
    else
      let stages := fieldOf w.toNat 21 20 + 1
      let lead := if stages = 1 then 0 else 1
      let len := fieldOf w.toNat 19 12 + 1
      match fetchMany (lead + len) (hdr + 4) s1 with
      | (.error e, s2) => (.fault e, s2)
      | (.ok ws, s2) =>
        if stages = 1 then (.ok ⟨hdr, ws, 1, [], w⟩, s2)
        else
          let map := ws.headD 0
          let body := ws.drop 1
          if stagesOk stages len map body then (.ok ⟨hdr, body, stages, (mapBounds stages map).1, w⟩, s2)
          else (.illegal w, s2)

/-- The trip count of a block (R114). -/
def tripCount (t : Stream) (w : BitVec 32) : Nat :=
  if !w.getLsbD 23 then 1 else if w.getLsbD 22 then (t.reg (w.toNat % 64)).toNat else w.toNat % 4096

/-- Whether a block's trip count is a register that a queued instruction is still to write (R114, R127). -/
def countOwed (s : State) (w : BitVec 32) : Bool :=
  s.onX && w.getLsbD 23 && w.getLsbD 22 && s.h.owed.contains (w.toNat % 64)

/-- Start a block that is in the loop buffer at iteration 0 (R117). A stream whose trip count is still to come waits at the
header (R127). -/
def startBlock (s : State) (b : Block) : State :=
  let t := s.cur
  let n := tripCount t b.head
  if countOwed s b.head then s
  else s.setCur (({ t with blk := b, filled := true, n := n, k := 0, trip := 0, last := n } : Stream).tripStart (softRequest s.h.req))

/-- The stream back at the last word of its block, for a BAD_TARGET of the fall-through (R116). -/
def backToLast (t : Stream) : Stream :=
  { t with pos := .word (t.blk.body.length - 1), trip := t.trip - 1 }

/-- BAD_TARGET of a fall-through, with the PC of the body's last word (R116, R346). While it cannot be taken yet, the stream
stays before the header. -/
def raiseFall (s : State) (hdr : Word) : State :=
  let u := raise (s.setCur (backToLast s.cur)) causeBAD_TARGET 0 0 hdr
  if u.cur.st = s.cur.st ∧ u.cur.pos = (backToLast s.cur).pos then u.setCur { u.cur with pos := s.cur.pos, trip := s.cur.trip } else u

/-- The issuing stream enters the block at a header (R113, R115, R346, R347). -/
def enterBlock (s : State) (hdr via : Word) (head : Option (BitVec 32)) : State :=
  let t := s.cur
  let bad := fun (u : State) => if via = hdr then raise u causeBAD_TARGET 0 0 hdr else raiseFall u hdr
  if t.filled ∧ t.blk.hdr = hdr then startBlock s t.blk
  else if hdr.toNat % 4 ≠ 0 then bad s
  else match loadBlock s hdr head with
    | (.ok b, s1) => startBlock s1 b
    | (.notHeader, s1) => bad s1
    | (.fault e, s1) => raiseErr s1 0 e
    | (.illegal w, s1) => raise s1 causeILLEGAL_OP 0 0 (w.setWidth 64)

/-- The issuing stream reloads its block. It goes on at the recorded word (R120, R266), or at word 0 enters the block again
at its prologue, from StartIteration (R119, R270). -/
def reloadBlock (s : State) (hdr : Word) (w : Nat) : State :=
  match loadBlock s hdr none with
  | (.ok b, s1) =>
    let t : Stream := { s1.cur with blk := b, filled := true }
    s1.setCur
      (if w = 0 then ({ t with trip := 0, last := t.n } : Stream).tripStart (softRequest s.h.req)
      else if b.lead ≤ w ∧ w - b.lead < b.body.length then t.goOn (softRequest s.h.req) (w - b.lead)
      else { t with pos := .enter hdr hdr none })
  | (.notHeader, s1) => raise s1 causeBAD_TARGET 0 0 hdr
  | (.fault e, s1) => raiseErr s1 0 e
  | (.illegal w, s1) => raise s1 causeILLEGAL_OP 0 0 (w.setWidth 64)

/-- The block ends: the link is written and the stream stands at a header, whose word has been read or is in the loop buffer
(R346). -/
def goTo (s : State) (t : Word) (head : Option (BitVec 32)) (link : Option (BitVec 6 × Word)) : State :=
  let s1 := match link with | some (d, v) => (s.noteWrite d.toNat).setReg d.toNat v | none => s
  s1.setCur { s1.cur with pos := .enter t s.cur.pc head, st := .run, wait := .none, begun := false, stepPast := false }

/-- A taken transfer to an address (R346, R347). -/
def transfer (s : State) (t : Word) (link : Option (BitVec 6 × Word)) : State :=
  if link.isSome && !s.canWrite then s
  else if t.toNat % 4 ≠ 0 then raise s causeBAD_TARGET 0 0 t
  else if s.cur.filled ∧ s.cur.blk.hdr = t then goTo s t (some s.cur.blk.head) link
  else match fetchAt s t with
    | (.error e, s1) => if s.onX && s.h.unadmitted then s1 else raiseErr (goTo s1 t none link) 0 e
    | (.ok w, s1) => if opOf w = 0xFF then goTo s1 t (some w) link else raise s1 causeBAD_TARGET 0 0 t

/-! ## Stops and parks (R100, R118 to R120, R268) -/

/-- KIND of the record that a request makes (R261). -/
def stopKind (r : StopReq) : Nat :=
  match r with | .soft | .withdraw => 2 | .freeze | .freezeSoft => 4 | .kill => 3

/-- A stream in RUN stops at a block-iteration boundary: within a block it stands at the header, to enter the block again at
the first iteration not started (R117, R119). A waiting stream stops at its instruction. -/
def stopAtBoundary (t : Stream) : Stream :=
  match t.st, t.pos with
  | .run, .word _ =>
    let u := stopStream t
    { u with pos := .reload t.blk.hdr 0, k := t.k + (if t.blk.stages ≤ 1 then t.trip else 0), trip := 0, last := t.n }
  | _, _ => stopStream t

/-- Whether both streams are stopped. -/
def Hart.bothStopped (h : Hart) : Bool :=
  decide (h.a.st = .stopped) && (decide (h.x.st = .stopped) || decide (h.x.st = .idle))

/-- Begin the save of a hart whose streams have stopped. -/
def startPark (s : State) (kind : Nat) : State :=
  let s1 := dropWaiter (dropLeaves s s.h.id) (.stream s.h.id)
  { s1 with h := { s1.h with parking := kind, mkLV := false } }

/-- A soft request reaches the streams of the acting hart: each that stands at a pre-emption point stops, its entry among the
waiters removed, and when both have, the task is parked (R100, R118, R120, R246). An unconfirmed load holds the stop back (R365). -/
def softStop (s : State) (kind : Nat) : State :=
  let h := s.h
  if !h.loads.isEmpty then s
  else
    let a := if h.a.canStop then stopAtBoundary h.a else h.a
    let x := if h.x.canStop && !h.unadmitted then stopAtBoundary h.x else h.x
    let h1 := { h with a := a, x := x }
    let s0 := withdrawStopped (withdrawStopped { s with h := h1 } h.id false a) h.id true x
    let s1 := if a.st = .stopped then dropWaiter s0 (.stream h.id) else s0
    if h1.bothStopped then startPark { s1 with h := retireAll h1 } kind else s1

/-- A hard stop of the acting hart at instruction boundaries (R120, R257): an unconfirmed load that fails gives its cause
first (R267). -/
def hardStop (s : State) (kind : Nat) : State :=
  match settleLoads s true with
  | (some c, s1) => takeTrap s1 c
  | (none, s1) =>
    let h := haltX s1.h
    startPark { s1 with h := { h with a := stopStream h.a, x := stopStream h.x } } kind

/-- End a command of the debug unit with its status and results (R314, R315). The add to dbgdone comes from tower 0 (log 179). -/
def endDebug (s : State) (status res0 res1 : Nat) : State :=
  let d := s.dbg
  let s1 : State := { s with dbg := { d with
    cmd := 0, status := BitVec.ofNat 16 status, res0 := BitVec.ofNat 32 res0
    res1 := BitVec.ofNat 16 (Nat.min res1 65535) } }
  if d.done = 0 then s1 else (farAdd s1 0 true 0 d.done 1).2

/-- A launch handle (R82). -/
def handleOf (e : LEntry) (l : Nat) : BitVec 32 := BitVec.ofNat 32 (l + 4096 * e.gen.toNat)

/-- After a park, the freeze command of its launch ends if no task holds a slot (R315). -/
def afterPark (s : State) (l : Nat) : State :=
  let e := s.entry l
  if (tasksOf s l).isEmpty && e.frozen && (s.dbg.cmd == 1#4 || s.dbg.cmd == 2#4) && s.dbg.lh == handleOf e l
  then endDebug s 0 0 0 else s

/-- Save the acting hart's context and free its slot (R268). Unresolved stores are resolved first, and one that a write
guard holds delays the save. The task of a launch that has been cancelled meanwhile is discarded (R97). -/
def parkSave (s : State) : State :=
  if (s.entryOf s.h).state = .killing then killTask s
  else
    let s1 := settleStores s
    if !s1.h.stores.isEmpty then s1
    else match s1.h.launch with
      | none => s1
      | some l =>
        let h := s1.h
        let s2 := putImage s1 l h.csa.toNat h h.parking false
        let e := s2.entry l
        let p : Parked := ⟨h.tn, s.cycle, h.id.group, h.storeSeq, h.wdraw, h.a.stepPast, h.x.stepPast, h.hold⟩
        afterPark (freeSlot (s2.setEntry l { e with parked := e.parked ++ [p] }) l) l

end Sys2Proof.Machine
end

