-- ==== Sys2Proof/Machine/Sched.lean ====
section
/-! DEFINITION. Machine/Sched.lean: the Launch Unit. Acceptance of a record, start conditions, placement, growth,
resumption, pre-emption, cancel and strip claims (R75 to R102). -/

namespace Sys2Proof.Machine

/-! ## The record and its checks (R78, R79) -/

/-- Low bits set from 0: the number of ones of an n-bit field. -/
def onesIn (n v : Nat) : Nat := ((List.range n).filter fun i => v.testBit i).length

/-- A launch record from its 128 bytes (R78 Table 1). -/
def launchRecOf (v : Nat) : LaunchRec :=
  let f := fun hi lo => fieldOf v hi lo
  let w := fun lo => BitVec.ofNat 64 (v >>> lo)
  { aentry := w 0, argptr := w 64, xoff := BitVec.ofNat 32 (f 159 128), strips := BitVec.ofNat 32 (f 191 160)
    minh := f 203 192, maxh := f 215 204, mint := f 219 216, maxt := f 223 220, affin := BitVec.ofNat 8 (f 231 224)
    tenant := f 238 232, prio := f 242 239, split := v.testBit 243, gang := v.testBit 244, tiles := f 247 245
    lsplit := f 251 248, cvalid := BitVec.ofNat 4 (f 255 252), claim := w 256, done := w 320
    logsize := f 398 384, logmode := v.testBit 399, csa := BitVec.ofNat 64 (f 447 400 * 65536)
    asid := BitVec.ofNat 16 (f 463 448), logbase := BitVec.ofNat 64 (f 511 464 * 65536)
    conds := (List.range 4).map fun j => (w (512 + 128 * j), w (576 + 128 * j)) }

/-- Hart slots of one tower in a mode (R75). -/
def slotsPerTower (split : Bool) : Nat := if split then 256 else 64

/-- The checks of acceptance code 1 that read the record alone (R79 Table 2). -/
def recordOk (r : LaunchRec) : Bool :=
  let limit := if r.split then 2048 else 512
  let towers := onesIn 8 r.affin.toNat
  let aligned := fun (w : Word) => w.toNat % 16 == 0
  r.aentry.toNat % 4 == 0 && r.minh != 0 && decide (r.minh ≤ r.maxh) && decide (r.maxh ≤ limit)
  && r.mint != 0 && decide (r.mint ≤ r.maxt) && decide (r.maxt ≤ 8) && decide (r.mint ≤ towers) && decide (r.mint ≤ r.minh)
  && !(r.strips == 0 && r.maxh != r.minh) && !(r.gang && r.maxh != r.minh) && !(r.strips != 0 && r.claim == 0)
  && decide (r.tiles ≤ 4) && decide (r.lsplit ≤ 12) && r.logsize != 0
  && (r.strips == 0 || aligned r.claim) && aligned r.done
  && (r.conds.zipIdx.all fun c => !r.cvalid.getLsbD c.2 || (aligned c.1.1 && c.1.1 != 0))
  && decide (r.minh ≤ Nat.min r.maxt towers * slotsPerTower r.split)

/-- Translate the pages of a held region: every page must be mapped, readable and writable with U = 0 (R79, R80), and not compacted,
since a compacted page has no place for whole lines (R158; DESIGN CHOICE, log 187). -/
def holdPages (asid : Nat) : Nat → Nat → SMap (Option (Nat × Nat)) → State → Option (SMap (Option (Nat × Nat))) × State
  | 0, _, m, s => (some m, s)
  | n + 1, page, m, s =>
    match translate s ⟨0, none⟩ asid (BitVec.ofNat 64 (page * 65536)) true with
    | (.error _, s1) => (none, s1)
    | (.ok x, s1) =>
      if pteR x.leaf && pteW x.leaf && !pteU x.leaf && x.ratio == 1 then
        holdPages asid n (page + 1) (SMap.set none m page (some (x.pa, pteKEY x.leaf))) s1
      else (none, s1)

/-- Who issues a LAUNCH: privilege, address space, and the tenant and priority of its launch. -/
structure Issuer where
  priv   : Bool
  asid   : BitVec 16
  tenant : Nat
  prio   : Nat
deriving DecidableEq, Repr

/-- TENCFG fields (R81). -/
def State.tenant (s : State) (t : Nat) : Nat := (SMap.get tencfgReset s.tencfg t).toNat
def tenEn (c : Nat) : Bool := c.testBit 0
def tenCeil (c : Nat) : Nat := fieldOf c 4 1
def tenQuantum (c : Nat) : Nat := fieldOf c 23 8
def tenAge (c : Nat) : Nat := fieldOf c 39 24
def tenCap (c : Nat) : Nat := fieldOf c 51 40

/-- The checks of acceptance code 2. -/
def launchPermitted (s : State) (r : LaunchRec) (by_ : Issuer) : Bool :=
  let c := s.tenant r.tenant
  tenEn c && decide (r.prio ≤ tenCeil c) && (tenCap c == 0 || decide (r.minh ≤ tenCap c))
  && (by_.priv || (r.asid == by_.asid && r.tenant == by_.tenant && decide (r.prio ≤ by_.prio)))

/-- The lowest FREE entry. -/
def freeIndex (s : State) : Option Nat := (List.range 4096).find? fun i => (s.entry i).state == .free

/-- The home tower of a counter reference, for a log entry. -/
def refTower (s : State) (r : Word) : Nat := match refOf s r with | .slot t _ => t | _ => 0

/-- A start condition that its check refuses is never satisfied (R241). -/
def refuseCondition (s : State) (l j : Nat) : State :=
  let e := s.entry l
  s.setEntry l { e with refused := e.refused ||| BitVec.ofNat 4 (2 ^ j) }

/-- Register start condition j of a launch, or meet it at once (R85, R241). A peer that cannot be reached, or that refuses the
wait, never satisfies it (R41). On a slot that is POISON the condition stays unmet, without a waiter, and polls (DESIGN CHOICE,
log 180; R251). -/
def startCondition (s : State) (l j : Nat) (handle thr : Word) : State :=
  let e := s.entry l
  match refOf s handle with
  | .slot t n =>
    if !groupOk s t n (e.recd.tenant == 0) e.recd.asid.toNat then logError (refuseCondition s l j) t 5 6 l handle.toNat j
    else match registerWaiter s t n thr (.start l j) with
      | (.now _, s1) => condMet s1 l j
      | (_, s1) => s1
  | .host _ pa => if satisfied (BitVec.ofNat 64 (readMem s.mem pa 8)) thr then condMet s l j else s
  | .peer n =>
    let (d, s1) := draw s
    if reachable s n && Config.peerGrants d handle then peerWait s1 n handle thr (.start l j) else refuseCondition s1 l j
  | _ => s

/-- Register the conditions in force. -/
def startConditions (s : State) (l : Nat) : State :=
  let r := (s.entry l).recd
  r.conds.zipIdx.foldl (fun s c => if r.cvalid.getLsbD c.2 then startCondition s l c.2 c.1.1 c.1.2 else s) s

/-- Accept or refuse a record: the acceptance code and the handle (R79, R80, R82, R84). -/
def acceptLaunch (s : State) (v : Nat) (by_ : Issuer) : Nat × BitVec 32 × State :=
  let r := launchRecOf v
  if !recordOk r then (1, 0, s)
  else match holdPages r.asid.toNat (10 * r.maxh) (r.csa.toNat / 65536) [] s with
    | (none, s1) => (1, 0, s1)
    | (some m1, s1) =>
      match holdPages r.asid.toNat r.logsize (r.logbase.toNat / 65536) m1 s1 with
      | (none, s2) => (1, 0, s2)
      | (some m2, s2) =>
        if !launchPermitted s2 r by_ then (2, 0, s2)
        else match freeIndex s2 with
          | none => (3, 0, s2)
          | some l =>
            let e : LEntry := { LEntry.reset with
              state := if r.cvalid = 0 then .ready else .waiting
              gen := (s2.entry l).gen + 1, recd := r, order := s2.orders, readyAt := s2.cycle, pages := m2 }
            let s3 := { s2.setEntry l e with orders := s2.orders + 1 }
            (0, handleOf e l, startConditions s3 l)

/-! ## Slots (R76, R77, R91) -/

/-- Whether a core is SPLIT. -/
def State.isSplit (s : State) (t c : Nat) : Bool := SMap.get false s.modes (65 * t + c)

/-- Harts on a core. -/
def coreHarts (s : State) (t c : Nat) : List Hart := s.harts.filter fun h => h.id.tower == t && h.id.core == c

/-- Slots reserved for launches other than one, and whether each is a whole core (R99). -/
def reservedFromL (s : State) (l : Nat) : List (HartId × Bool) :=
  (s.entries.filter fun e => e.1 != l).flatMap fun e => e.2.reserve

/-- Whether a slot, a whole core or a quarter, overlaps a reserved one (R75, R99). -/
def overlaps (x : HartId) (joined : Bool) (r : HartId × Bool) : Bool :=
  sameCore x r.1 && (joined || r.2 || x.group == r.1.group)

/-- Free slots of a core for a launch. -/
def coreSlots (s : State) (e : LEntry) (t c : Nat) : List HartId :=
  let hs := coreHarts s t c
  if hs.isEmpty then
    (if e.recd.split then (List.range 4).map fun g => ⟨t, c, g⟩ else [⟨t, c, 0⟩])
  else if e.recd.split && s.isSplit t c && (hs.all fun h => h.lsplit.toNat == e.recd.lsplit) then
    ((List.range 4).filter fun g => hs.all fun h => h.id.group != g).map fun g => ⟨t, c, g⟩
  else []

/-- Free slots of a tower for launch l: cores in ascending number, whatever mode they are in (DEDUCED, log 51). -/
def towerSlots (s : State) (l t : Nat) : List HartId :=
  let e := s.entry l
  let taken := reservedFromL s l
  if e.recd.affin.getLsbD t then
    ((List.range 64).flatMap fun c => coreSlots s e t c).filter fun x => !taken.any (overlaps x (!e.recd.split))
  else []

/-- All sublists of a list, those that take the first elements first. -/
def subLists : List Nat → List (List Nat)
  | [] => [[]]
  | x :: xs => ((subLists xs).map fun l => x :: l) ++ subLists xs

/-- Share n tasks over towers in ascending order, each keeping one for every later tower. -/
def shareOut (n : Nat) : List (List HartId) → List HartId
  | [] => []
  | f :: fs =>
    let k := Nat.min f.length (n - fs.length)
    f.take k ++ shareOut (n - k) fs

/-- A placement of n tasks whose lowest tower is t, on between `lo` and `hi` towers (R91): on as few towers as hold them, and of the
sets of that size the first in ascending order, which may pass over a tower with free slots (DEDUCED, log 51). -/
def placement (s : State) (l t n lo hi : Nat) : Option (List HartId) :=
  let own := towerSlots s l t
  let later := ((List.range 8).filter fun u => decide (t < u) && !(towerSlots s l u).isEmpty)
  let ok := fun (us : List Nat) =>
    let k := us.length + 1
    let room := us.foldl (fun a u => a + (towerSlots s l u).length) own.length
    decide (lo ≤ k) && decide (k ≤ hi) && decide (k ≤ n) && decide (n ≤ room)
  if own.isEmpty then none
  else
    let sets := (List.range 8).flatMap fun k => (subLists later).filter fun us => us.length == k && ok us
    match sets with
    | [] => none
    | us :: _ => some (shareOut n (own :: us.map fun u => towerSlots s l u))

/-! ## Dispatch and resumption (R88, R101) -/

/-- Write back and drop the lines that a core's L1 holds. -/
def dropL1 (s : State) (tower core : Nat) : State :=
  let mine := fun (c : Nat × Nat × L1St) => c.1 == tower && c.2.1 == core
  (s.dir.filter fun p => p.2.l1.any mine).foldl (fun s p =>
    let pa := 64 * p.1
    let d := dirOf s pa
    let d1 := { d with l1 := d.l1.filter fun c => !mine c }
    if cached d1 then setDir s pa d1 else evictLine s pa) s

/-- The core is converted to the mode of the task placed on it (R76). On an empty core the split between scratchpad and L1
becomes the launch's, and the lines that the L1 held leave it (R143, R145, log 42). -/
def convertCore (s : State) (id : HartId) (split : Bool) : State :=
  let s1 := if (coreHarts s id.tower id.core).isEmpty then dropL1 s id.tower id.core else s
  { s1 with modes := SMap.set false s1.modes (65 * id.tower + id.core) split }

/-- The lowest task number that no live task holds (R88). -/
def freeTask (s : State) (l : Nat) : Nat :=
  let e := s.entry l
  let used := (tasksOf s l).map (fun h => h.tn) ++ e.parked.map (fun p => p.tn)
  ((List.range e.recd.maxh).find? fun n => !used.contains n).getD 0

/-- Sign-extended word offset. -/
def wordOffset (off : BitVec 32) : Word := (off.signExtend 64) * 4

/-- The fields of a hart that the launch fixes. -/
def hartFor (s : State) (l : Nat) (id : HartId) (tn : Nat) : Hart :=
  let e := s.entry l
  { Hart.blank id (!e.recd.split) with
    launch := some l, gen := e.gen.toNat, tn := tn, since := s.cycle
    priv := e.recd.tenant == 0, asid := e.recd.asid, csa := BitVec.ofNat 64 (areaOf e.recd tn)
    lsplit := BitVec.ofNat 4 e.recd.lsplit, win := e.undo.win, hold := e.recd.logmode
    ulogbase := e.recd.logbase, ulogsize := BitVec.ofNat 64 e.recd.logBytes }

/-- The state of the rounding generator at dispatch (R175, R178). -/
def lfsrSeed (tn : Nat) : BitVec 32 :=
  let v := BitVec.ofNat 32 (tn * 0x9E3779B9 + 1)
  if v = 0 then 1 else v

/-- A newly dispatched task (R88 Table 6). -/
def newTask (s : State) (l : Nat) (id : HartId) : Hart :=
  let e := s.entry l
  let tn := freeTask s l
  let h := hartFor s l id tn
  let regs : SMap Word := [(1, e.recd.argptr), (2, BitVec.ofNat 64 tn), (3, (handleOf e l).setWidth 64),
    (4, BitVec.ofNat 64 id.tower)].filter fun p => p.2 ≠ 0
  let start := fun (hdr : Word) => { Stream.reset with st := .run, pos := .enter hdr hdr none, regs := regs }
  { h with
    lfsr := lfsrSeed tn
    a := start e.recd.aentry
    x := if e.recd.xoff = 0 then { Stream.reset with regs := regs } else start (e.recd.aentry + wordOffset e.recd.xoff) }

/-- Near counters of a slot read 0 at dispatch (R240). -/
def clearNear (s : State) (h : Hart) : State :=
  (List.range (if h.joined then 64 else 16)).foldl
    (fun s k => putNear s (nearKey h.id.tower h.id.core (h.nearIdx k)) 0) s

/-- Dispatch one task on a slot. -/
def dispatch (s : State) (l : Nat) (id : HartId) : State :=
  let s1 := convertCore s id (s.entry l).recd.split
  let h := newTask s1 l id
  let s2 := clearNear s1 h
  { s2 with rest := s2.rest ++ [h] }

/-- Resume one parked task on a slot (R101, R270). -/
def resumeTask (s : State) (l : Nat) (p : Parked) (id : HartId) : State :=
  let s1 := convertCore s id (s.entry l).recd.split
  let e := s1.entry l
  let (h, s2) := getImage s1 l (areaOf e.recd p.tn) e.recd.tiles (hartFor s1 l id p.tn)
  let tower := BitVec.ofNat 64 id.tower
  let h1 := { h with
    storeSeq := p.seq
    a := { h.a.setReg 4 tower with stepPast := p.stepA }, x := { h.x.setReg 4 tower with stepPast := p.stepX } }
  let e2 := s2.entry l
  let s3 := s2.setEntry l { e2 with parked := e2.parked.filter fun q => q.tn != p.tn }
  { s3 with rest := s3.rest ++ [h1] }

/-- Towers that the tasks of a launch span. -/
def towersOf (s : State) (l : Nat) : List Nat := ((tasksOf s l).map fun h => h.id.tower).dedup

/-- Towers that a farm holds and keeps: no withdrawal of them is under way (R96). -/
def heldTowers (s : State) (l : Nat) : List Nat := (towersOf s l).filter fun t => !(s.entry l).towers.contains t

/-- Whether a parked task may resume on a tower: on none that is being withdrawn from its farm, and one parked by a withdrawal on
a tower that its farm still holds, if there is one (R96, R101). -/
def mayResume (s : State) (l t : Nat) (p : Parked) : Bool :=
  !(s.entry l).towers.contains t && (!p.wdrawn || (heldTowers s l).isEmpty || (heldTowers s l).contains t)

/-- Resume the oldest parked tasks on slots, one each. -/
def resumeTasks (l : Nat) : List HartId → State → State
  | [], s => s
  | id :: ids, s =>
    match (s.entry l).parked with
    | [] => s
    | p :: _ => resumeTasks l ids (resumeTask s l p id)

/-! ## Order (R91 to R93) -/

/-- Slots that a tenant's tasks hold. -/
def tenantSlots (s : State) (t : Nat) : Nat :=
  (s.harts.filter fun h => match h.launch with | some l => (s.entry l).recd.tenant == t | none => false).length

/-- Effective priority (R93). -/
def effPrio (s : State) (e : LEntry) : Nat :=
  let c := s.tenant e.recd.tenant
  let aged := fun (since : Nat) =>
    if tenAge c = 0 then e.recd.prio else e.recd.prio + (s.cycle - since) / (tenAge c * 2 ^ 20)
  let p := match e.state, e.parked with
    | .ready, _ => aged e.readyAt
    | _, p :: ps => aged (ps.foldl (fun a q => Nat.min a q.since) p.since)
    | _, [] => e.recd.prio
  Nat.min (tenCeil c) p

/-- Whether an entry's state lets its tasks be placed or resumed. A gang waits until the last of its tasks has been parked
(R94). -/
def placeable (s : State) (l : Nat) : Bool :=
  let e := s.entry l
  !e.frozen && (e.state == .ready ||
    ((e.state == .running || e.state == .closing) && !e.parked.isEmpty && !(e.recd.gang && !(tasksOf s l).isEmpty)))

/-- Whether a strip farm may grow on a tower (R91, R96): not while a task of it is parked, nor while the tower is being withdrawn
(log 53). -/
def mayGrow (s : State) (l t : Nat) : Bool :=
  let e := s.entry l
  let span := towersOf s l
  !e.frozen && e.state == .running
  && e.parked.isEmpty && decide ((tasksOf s l).length < e.recd.maxh) && mayDispatch s e && !e.towers.contains t
  && (span.contains t || decide (span.length < e.recd.maxt))

/-- Tasks that a launch needs placed together: MINH at first, a whole gang at its resumption, else one. -/
def needed (e : LEntry) : Nat :=
  if e.state = .ready then e.recd.minh else if e.recd.gang then e.parked.length else 1

/-- Whether a tenant's HARTCAP leaves room for a launch beside the tasks that hold slots (R81, R91). -/
def withinCap (s : State) (e : LEntry) (n : Nat) : Bool :=
  let cap := tenCap (s.tenant e.recd.tenant)
  cap == 0 || decide (tenantSlots s e.recd.tenant + n ≤ cap)

/-- CanUse(L, t) (R91). -/
def canUse (s : State) (l t : Nat) : Bool :=
  let e := s.entry l
  let resumes := placeable s l && (e.state == .ready || e.recd.gang || e.parked.any (mayResume s l t))
  (resumes || mayGrow s l t) && !(towerSlots s l t).isEmpty && withinCap s e (if resumes then needed e else 1)

/-- Gain of a tenant's quantum, n times, never above twice the quantum (R92). -/
def gain (s : State) (t τ n : Nat) : State :=
  let g : Int := (tenQuantum (s.tenant τ) * 65536 : Nat)
  { s with deficit := SMap.upd 0 s.deficit (128 * t + τ) fun d => if n = 0 then d else min (d + g * n) (2 * g) }

/-- No deficit of a tenant stands above twice its quantum, a quantum that has been lowered included (R92). -/
def clipDeficits (s : State) (τ : Nat) : State :=
  let g : Int := (2 * tenQuantum (s.tenant τ) * 65536 : Nat)
  { s with deficit := (List.range 8).foldl (fun m t => SMap.upd 0 m (128 * t + τ) fun d => min d g) s.deficit }

/-- Rounds of gain that a tenant needs before its deficit is positive. -/
def roundsFor (s : State) (t τ : Nat) : Nat :=
  let d := SMap.get 0 s.deficit (128 * t + τ)
  if 0 < d then 0 else (-d).toNat / (tenQuantum (s.tenant τ) * 65536) + 1

/-- The tenant that deficit round robin serves among some tenants; the pointer stays on it (R92). -/
def drrServe (s : State) (t p : Nat) (ts : List Nat) : Nat × State :=
  let n := match ts with | [] => 0 | τ :: r => r.foldl (fun a u => Nat.min a (roundsFor s t u)) (roundsFor s t τ)
  let s1 := ts.foldl (fun s τ => gain s t τ n) s
  let at_ := SMap.get 0 s1.drr (16 * t + p) % 128
  let order := (List.range 128).map fun i => (at_ + i) % 128
  let τ := (order.find? fun τ => ts.contains τ && decide (0 < SMap.get 0 s1.deficit (128 * t + τ))).getD (ts.headD 0)
  (τ, { s1 with drr := SMap.set 0 s1.drr (16 * t + p) (τ + 128) })

/-- First(Order(t), CanUse) among the launches not blocked (R91, R92). -/
def firstLaunch (s : State) (t : Nat) (blocked : List Nat) : Option Nat × State :=
  let cands := (s.entries.filter fun e => !blocked.contains e.1 && canUse s e.1 t)
  match cands with
  | [] => (none, s)
  | c :: cs =>
    let p := cs.foldl (fun a e => Nat.max a (effPrio s e.2)) (effPrio s c.2)
    let best := cands.filter fun e => effPrio s e.2 == p
    let (τ, s1) := drrServe s t p ((best.map fun e => e.2.recd.tenant).dedup)
    let mine := best.filter fun e => e.2.recd.tenant == τ
    let low := mine.foldl (fun (a : Option (Nat × LEntry)) e =>
      match a with | none => some e | some b => if e.2.order < b.2.order then some e else some b) none
    (low.map fun e => e.1, s1)

/-! ## The selection pass (R91) -/

/-- The first placement of a launch: MINH tasks together, BASE read (R83, R95). -/
def firstPlace (s : State) (l : Nat) (ids : List HartId) : State :=
  let e := s.entry l
  let (base, s0) := if e.recd.strips = 0 then (0, s) else (counterValue s e.recd.claim, counterTouch s e.recd.claim)
  let s1 := s0.setEntry l { e with state := .running, base := base, reserve := [] }
  settleEntry (ids.foldl (fun s id => dispatch s l id) s1) l

/-- Resume one parked task of a launch on a slot: the oldest that may resume on its tower (R91, R96, R101). -/
def resumeOne (s : State) (l : Nat) (id : HartId) : State :=
  match (s.entry l).parked.find? (mayResume s l id.tower) with
  | none => s
  | some p => resumeTask s l p id

/-- One choice of the pass on a tower: the state, the launches blocked so far, and whether the tower has more to do. DESIGN CHOICE
(log 131): a whole gang resumes on between 1 and MAXT towers, MINT not being asked for again. -/
def passOnce (s : State) (t : Nat) (blocked placed : List Nat) : State × List Nat × List Nat × Bool :=
  match firstLaunch s t blocked with
  | (none, s1) => (s1, blocked, placed, false)
  | (some l, s1) =>
    let e := s1.entry l
    if e.state = .ready then
      match placement s1 l t e.recd.minh e.recd.mint e.recd.maxt with
      | none => (s1, l :: blocked, placed, true)
      | some ids => (firstPlace s1 l ids, blocked, l :: placed, true)
    else if placeable s1 l && e.recd.gang then
      match placement s1 l t (needed e) 1 e.recd.maxt with
      | none => (s1, l :: blocked, placed, true)
      | some ids => (resumeTasks l ids (s1.setEntry l { e with reserve := [] }), blocked, l :: placed, true)
    else if placeable s1 l && e.parked.any (mayResume s1 l t) then
      match towerSlots s1 l t with
      | [] => (s1, l :: blocked, placed, true)
      | id :: _ => (resumeOne (s1.setEntry l { e with reserve := [] }) l id, blocked, l :: placed, true)
    else
      match towerSlots s1 l t with
      | [] => (s1, l :: blocked, placed, true)
      | id :: _ => (dispatch s1 l id, blocked, l :: placed, true)

/-- The choices of the pass on a tower. -/
def passTower (t : Nat) : Nat → State → List Nat → List Nat → State × List Nat × List Nat
  | 0, s, b, p => (s, b, p)
  | n + 1, s, b, p =>
    let (s1, b1, p1, more) := passOnce s t b p
    if more then passTower t n s1 b1 p1 else (s1, b1, p1)

/-- Tower after tower. -/
def passTowers : List Nat → State → List Nat → List Nat → State × List Nat
  | [], s, _, p => (s, p)
  | t :: ts, s, b, p =>
    let (s1, b1, p1) := passTower t 8192 s b p
    passTowers ts s1 b1 p1

/-- Each task that holds a slot costs its tenant some cycles (R92). -/
def chargeDeficits (s : State) (cycles : Nat) : State :=
  s.harts.foldl (fun s h =>
    match h.launch with
    | some l =>
      let k := 128 * h.id.tower + (s.entry l).recd.tenant
      { s with deficit := SMap.upd 0 s.deficit k fun d => d - cycles }
    | none => s) s

/-! ## Pre-emption (R99) -/

/-- Whether a request for slots of a launch is pending: a task that it asked to stop still holds one. -/
def requestPending (s : State) (e : LEntry) : Bool :=
  e.reserve.any fun r => s.harts.any fun h => h.id == r.1 && h.launch.isSome && h.req.isSome

/-- Launches that a pass leaves blocked, and for which no request is pending, the most urgent first. -/
def blockedLaunches (s : State) (placed : List Nat) : List Nat :=
  let bs := s.entries.filter fun e => placeable s e.1 && !placed.contains e.1 && !requestPending s e.2
  let insert := fun (l : List (Nat × LEntry)) (e : Nat × LEntry) =>
    let before := l.takeWhile fun x => decide (effPrio s e.2 < effPrio s x.2) ||
      (effPrio s x.2 == effPrio s e.2 && decide (x.2.order < e.2.order))
    before ++ e :: l.drop before.length
  (bs.foldl insert []).map fun e => e.1

/-- Whether the tower of a task can be withdrawn from its farm, beside the withdrawals under way and those chosen already, by
launch and tower (R96). -/
def withdrawable (s : State) (chosen : List (Nat × Nat)) (h : Hart) : Bool :=
  match h.launch with
  | some l =>
    let e := s.entry l
    let left := (heldTowers s l).filter fun t => !chosen.contains (l, t)
    e.recd.strips != 0 && !e.recd.gang && (e.state == .running || e.state == .closing) && left.contains h.id.tower
      && decide (e.recd.mint < left.length)
  | none => false

/-- Victims in the order of R99: withdrawable towers, then lowest priority, then most recent. -/
def victimBefore (s : State) (chosen : List (Nat × Nat)) (a b : Hart) : Bool :=
  let p := fun (h : Hart) => effPrio s (s.entryOf h)
  let wa := withdrawable s chosen a
  let wb := withdrawable s chosen b
  if wa != wb then wa
  else if p a != p b then decide (p a < p b)
  else decide (b.since < a.since)

/-- The first victim of a list in that order. -/
def firstVictim (s : State) (chosen : List (Nat × Nat)) : List Hart → Option Hart
  | [] => none
  | v :: vs => some (vs.foldl (fun b h => if victimBefore s chosen h b then h else b) v)

/-- Tasks of lower priority that could make room for a launch. -/
def victimsFor (s : State) (l : Nat) : List Hart :=
  let e := s.entry l
  s.harts.filter fun h => match h.launch with
    | some k => k != l && decide (effPrio s (s.entry k) < effPrio s e) && e.recd.affin.getLsbD h.id.tower && h.req.isNone
    | none => false

/-- The tasks that go with a victim: its whole gang, or the farm's tasks on a withdrawn tower that no pending request has taken
(R94, R96, R99). -/
def withVictim (s : State) (chosen : List (Nat × Nat)) (h : Hart) : List Hart :=
  match h.launch with
  | none => []
  | some l =>
    if (s.entry l).recd.gang then tasksOf s l
    else if withdrawable s chosen h then (tasksOf s l).filter fun x => x.id.tower == h.id.tower && x.req.isNone
    else [h]

/-- The first tower on which a launch finds a free slot: the one at which a pass places it or passes it over (R91). -/
def firstTower (s : State) (l : Nat) : Option Nat := (List.range 8).find? fun u => !(towerSlots s l u).isEmpty

/-- Whether a pass could place a launch, within its tenant's HARTCAP, with some harts gone: at its first tower, or for a single
parked task on any. -/
def placeableWithout (s : State) (l : Nat) (gone : List HartId) : Bool :=
  let keep := fun (h : Hart) => !gone.contains h.id
  let t : State := { s with
    h := if keep s.h then s.h else { s.h with id := ⟨8, 0, 0⟩, launch := none }, rest := s.rest.filter keep }
  let e := s.entry l
  let hi := if e.state = .ready ∨ e.recd.gang then e.recd.maxt else 1
  let lo := if e.state = .ready then e.recd.mint else 1
  let places := fun (u : Nat) => (placement t l u (needed e) lo hi).isSome
  withinCap t e (needed e) &&
    if e.state = .ready ∨ e.recd.gang then (firstTower t l).any places
    else (List.range 8).any fun u => e.parked.any (mayResume s l u) && places u

/-- The victims, chosen one after another until their slots give a placement, and the towers withdrawn; `n` choices at
most. -/
def chooseVictims (s : State) (l : Nat) (vs : List Hart) : Nat → List (Nat × Nat) → List HartId →
    Option (List HartId × List (Nat × Nat))
  | 0, _, _ => none
  | n + 1, chosen, gone =>
    match firstVictim s chosen (vs.filter fun h => !gone.contains h.id) with
    | none => none
    | some v =>
      let gone1 := (gone ++ (withVictim s chosen v).map fun h => h.id).dedup
      let chosen1 := if withdrawable s chosen v then chosen ++ [(v.launch.getD 0, v.id.tower)] else chosen
      if placeableWithout s l gone1 then some (gone1, chosen1) else chooseVictims s l vs n chosen1 gone1

/-- A task on a tower that is withdrawn from its farm is told so; a freeze or a kill that is under way stays what it is (R96). -/
def askWithdraw (now : Nat) (h : Hart) : Hart :=
  match h.req with
  | none | some .soft | some .withdraw => requestStop .withdraw now h
  | _ => { h with wdraw := true }

/-- Request the pre-emption of the victims for a launch, their slots being reserved for it; every task on a tower that is
withdrawn is told. A launch that free slots would serve asks for none (R96, R99). -/
def requestFor (s : State) (l : Nat) : State :=
  let vs := victimsFor s l
  match if placeableWithout s l [] then none else chooseVictims s l vs vs.length [] [] with
  | none => s
  | some (ids, chosen) =>
    let e := s.entry l
    let mine := (s.harts.filter fun h => ids.contains h.id).map fun h => (h.id, h.joined)
    let s1 := s.setEntry l { e with reserve := e.reserve ++ mine }
    let leaves := fun (h : Hart) => match h.launch with | some k => chosen.contains (k, h.id.tower) | none => false
    let ask := fun (h : Hart) =>
      if leaves h then askWithdraw s.cycle h
      else if ids.contains h.id && h.req.isNone then requestStop .soft s.cycle h else h
    let s2 : State := { s1 with h := ask s1.h, rest := s1.rest.map ask }
    chosen.foldl (fun t c =>
      let ek := t.entry c.1
      t.setEntry c.1 { ek with towers := ek.towers ++ [c.2] }) s2

/-- A withdrawal is over once no task of the farm stands on the tower (R96). -/
def endWithdrawals (s : State) : State :=
  (s.entries.filter fun p => !p.2.towers.isEmpty).foldl (fun t p =>
    t.setEntry p.1 { p.2 with towers := p.2.towers.filter fun u => (towersOf s p.1).contains u }) s

/-- One selection pass (R90 to R99). -/
def selectionPass (s : State) : State :=
  let (s1, placed) := passTowers (List.range 8) (endWithdrawals s) [] []
  (blockedLaunches s1 placed).foldl requestFor s1

/-- A cycle of the tenants: each task that holds a slot costs its tenant 1, and a pointer whose tenant has used up its deficit
moves to the next (R92). -/
def tenantCycle (s : State) : State :=
  let s1 := chargeDeficits s 1
  let spent := s1.drr.filter fun p => decide (128 ≤ p.2) && decide (SMap.get 0 s1.deficit (128 * (p.1 / 16) + p.2 % 128) ≤ 0)
  { s1 with drr := spent.foldl (fun m p => SMap.set 0 m p.1 ((p.2 + 1) % 128)) s1.drr }

/-! ## Cancel and strip claims (R95, R97, R444) -/

/-- Take a launch that has not been placed out of the table, and its start waiters out of theirs, at peers' homes too (R97). -/
def dropUnstarted (s : State) (l : Nat) : State :=
  freeEntry ((List.range 4).foldl (fun t j => dropWaiter t (.start l j)) s) l

/-- CANCEL of a handle: the status (R97). -/
def cancelLaunch (s : State) (handle : Nat) : Nat × State :=
  let l := handle % 4096
  let e := s.entry l
  if e.gen.toNat ≠ handle / 4096 % 2 ^ 20 ∨ e.state = .free then (2, s)
  else match e.state with
    | .waiting | .ready => (0, dropUnstarted s l)
    | _ => (1, killLaunch s l)

/-- STRIP: the claim of the acting hart's task (R95, R439). -/
def claimStrip (s : State) : Except Nat Word × State :=
  match s.h.launch with
  | none => (.ok (BitVec.allOnes 64), s)
  | some l =>
    let e := s.entry l
    if e.recd.strips = 0 then (.ok (BitVec.allOnes 64), s)
    else match counterOp s e.recd.claim (.xadd 1) with
      | (.error c, s1) => (.error c, s1)
      | (.ok v, s1) =>
        let i := v - e.base
        let r := if i.toNat < e.recd.strips.toNat then i else BitVec.allOnes 64
        let s2 := settleEntry s1 l
        (.ok r, { s2 with h := { s2.h with strip := r } })

end Sys2Proof.Machine
end

