-- ==== Sys2Proof/Machine/Rewind.lean ====
section
/-! DEFINITION. Machine/Rewind.lean: SNAP records and the WMARK collective, and the rewind of a frozen context
(R276 to R279, R285 to R290). -/

namespace Sys2Proof.Machine

/-! ## Snapshots and the collective (R277, R278, R285) -/

/-- Units of a SNAP record with its image (R276, R285). -/
def snapUnits : Nat := 4097

/-- The acting hart as its SNAP holds it: the X-stream at the consistent cut of a stop, the A-stream past the WMARK, whose
destination holds the window it opens with bit 32 set, as a task that a rewind resumes reads it (R257, R276, R277). -/
def snapHart (h : Hart) (d : Nat) (win : BitVec 32) : Hart :=
  finishWait { haltX h with req := none, win := win } d (BitVec.ofNat 64 (win.toNat + 2 ^ 32))

/-- Copy lines within held regions; true if one met an integrity fault. -/
def copyLines (l src dst : Nat) : Nat → State → Bool × State
  | 0, s => (false, s)
  | n + 1, s =>
    let (v, bad, s1) := heldGetLines l 1 s src
    let (rest, s2) := copyLines l (src + 64) (dst + 64) n (heldPutLines l 1 s1 dst v)
    (bad || rest, s2)

def copyParts (l src dst : Nat) : List (Nat × Nat) → State → Bool × State
  | [], s => (false, s)
  | (off, n) :: r, s =>
    let (b, s1) := copyLines l (src + off) (dst + off) n s
    let (rest, s2) := copyParts l src dst r s1
    (b || rest, s2)

/-- The parts of a context save area that a SNAP copies as they stand in it: the trap scalar save area, and the engine error
count and ring (R276). -/
def standingParts : List (Nat × Nat) := [(0x1000, 8), (0x6100, 1), (0x6400, 32)]

/-- Append the acting task's SNAP record and image for the next window and note its arrival (R277 step 3, R285). -/
def appendSnap (s : State) (d : Nat) : State :=
  match s.h.launch with
  | none => s
  | some l =>
    let h := s.h
    let e := s.entry l
    let win := e.undo.win + 1
    let arrive := fun (c : LogCtl) => { c with arrived := if c.arrived.contains h.tn then c.arrived else c.arrived ++ [h.tn] }
    if e.recd.ringUnits < snapUnits then s.updLog l fun c => arrive { c.discard with small := true }
    else
      let e1 := if h.hold then e else reclaimUntil snapUnits (e.undo.recs.length + 2) e
      let e2 := if recFits e1 snapUnits then e1 else { e1 with undo := e1.undo.discard }
      let (off, s1) := takeRoom (s.setEntry l e2) l 5 win.toNat snapUnits
      let s2 := putRec s1 l off (recHead 5 win.toNat 6 h.id 0 + h.tn * 2 ^ 224 + 4096 * 2 ^ 256)
      let img := e.recd.logbase.toNat + off + 128
      let s3 := (copyParts l h.csa.toNat img standingParts (putImage s2 l img (snapHart h d win) 4 true)).2
      s3.updLog l fun c => arrive { c with snapAt := c.snapAt ++ [(h.tn, win, off)] }

/-- Task numbers that are live: holding slots or parked (R88). -/
def liveTasks (s : State) (l : Nat) : List Nat :=
  (tasksOf s l).map (fun h => h.tn) ++ (s.entry l).parked.map fun p => p.tn

/-- Whether the collective of a launch can complete: some task has arrived and every live one has (R278). -/
def collectiveReady (s : State) (l : Nat) : Bool :=
  let c := (s.entry l).undo
  !c.arrived.isEmpty && (liveTasks s l).all fun n => c.arrived.contains n

/-- The collective completes: WIN increments, marks clear, waiting tasks go on; a task that is being
parked takes its destination when it resumes. One that has lost SNAP records leaves no window
to restore; in a ring too small for a SNAP the new window's writes make no record either (R278, R285). -/
def completeCollective (s : State) (l : Nat) : State :=
  let s1 := s.updLog l fun c =>
    let w := c.win + 1
    { c with win := w, arrived := [], off := c.small, lost := false, small := false, hzn := if c.lost || c.small then w + 1 else c.hzn }
  let w := (s1.entry l).undo.win
  let go := fun (h : Hart) =>
    let h1 := { h with win := w }
    match h1.a.st, h1.a.wait with
    | .wait, .wmark d => finishWait h1 d (w.setWidth 64)
    | _, _ => h1
  clearMarks (updTasks s1 l go) l

/-! ## The rewind (R287 to R290) -/

/-- A line becomes UNRESTORED (R192). -/
def makeUnrestored (s : State) (pa k : Nat) : State :=
  let (l, s1) := homeRead s pa k
  writeLine s1 pa k ⟨homeTower pa, none⟩ true l.bytes (mkTag (tagFmt l.tag) .unrestored (tagHrot l.tag) (tagScale l.tag 0)
    (tagScale l.tag 1))

/-- Records from a window on, newest first; windows wrap modulo 2^32 (R274). -/
def recsFrom (c : LogCtl) (g : Nat) : List (Nat × Nat × Nat × Nat) :=
  (c.recs.filter fun r => windowFrom c.win (BitVec.ofNat 32 g) r.2.2.1).reverse

/-- Logical bytes of a line in lines, by the format that its tag had and the LFMT of its page: the compaction ratio under
which it was written (R203, log 132). -/
def lineSpan (lfmt : Nat) (t : BitVec 32) : Nat :=
  if tagVc t = .uninit ∨ elemSize (tagFmt t) = 0 then 1 else Nat.max 1 (elemSize lfmt / elemSize (tagFmt t))

/-- Whether a context may itself write through a leaf, at the privilege of its tasks (R88, R156). -/
def ownLeaf (e : LEntry) (leaf : Nat) : Bool := pteW leaf && (e.recd.tenant == 0 || pteU leaf)

/-- Every line that now holds one of the logical bytes of a line becomes UNRESTORED: n steps of 64 bytes from an address, where
the leaf passes a test (R287). -/
def unrestoreFrom (ok : Nat → Bool) (tower asid : Nat) : Nat → Nat → State → State
  | 0, _, s => s
  | n + 1, va, s =>
    match translate s ⟨tower, none⟩ asid (BitVec.ofNat 64 va) false with
    | (.ok x, s1) =>
      unrestoreFrom ok tower asid n (va + 64) (if ok x.leaf then makeUnrestored s1 x.pa (pteKEY x.leaf) else s1)
    | (.error _, s1) => unrestoreFrom ok tower asid n (va + 64) s1

/-- A LINE record with its first 64 bytes `v` is applied. One that software has altered (`mine` false) restores nothing but what
its context may itself write (R8, R287). -/
def applyLine (mine : Bool) (e : LEntry) (v old : Nat) (bad : Bool) (s : State) : Nat × State :=
  let addr := bitsAt v 64 64
  let va := bitsAt v 128 64
  let tag := BitVec.ofNat 32 (bitsAt v 192 32)
  let t := homeTower addr
  let asid := e.recd.asid.toNat
  let ok := fun leaf => mine || ownLeaf e leaf
  match translate s ⟨t, none⟩ asid (BitVec.ofNat 64 va) false with
  | (.ok x, s1) =>
    if lineAddr x.pa = addr ∧ ok x.leaf then
      if bad then (1, makeUnrestored s1 addr (pteKEY x.leaf))
      else (0, writeLine s1 addr (if mine then bitsAt v 56 7 else pteKEY x.leaf) ⟨t, none⟩ true old tag)
    else (1, unrestoreFrom ok t asid (lineSpan (pteLFMT x.leaf) tag) va s1)
  | (.error _, s1) => (1, unrestoreFrom ok t asid (lineSpan (tagFmt tag) tag) va s1)

/-- An ADDR record is applied: its line becomes UNRESTORED; where software has altered the record, only a line that the
context may itself write (R8, R287). -/
def applyAddr (mine : Bool) (e : LEntry) (v : Nat) (s : State) : State :=
  let addr := bitsAt v 64 64
  if mine then makeUnrestored s addr (bitsAt v 56 7)
  else match translate s ⟨homeTower addr, none⟩ e.recd.asid.toNat (BitVec.ofNat 64 (bitsAt v 128 64)) false with
    | (.ok x, s1) => if lineAddr x.pa = addr ∧ ownLeaf e x.leaf then makeUnrestored s1 addr (pteKEY x.leaf) else s1
    | (.error _, s1) => s1

/-- A COUNTER record is applied: the counter takes its old value and its waiters are woken; where software has altered the
record, only a counter that the context may use (R8, R241, R287). A slot that is POISON stays so, for only a CSET rewrites it (R251);
the record then restores nothing (DESIGN CHOICE, log 195). -/
def applyCounter (mine : Bool) (e : LEntry) (v : Nat) (s : State) : State :=
  match refOf s (BitVec.ofNat 64 (bitsAt v 64 64)) with
  | .slot t n =>
    let k := slotKey t n
    let v1 := BitVec.ofNat 64 (bitsAt v 256 64)
    if !SMap.get false s.slotPois k && (mine || groupOk s t n (e.recd.tenant == 0) e.recd.asid.toNat) then wakeSatisfied (putSlot s k v1) k v1 v1 else s
  | _ => s

/-- Apply one record: the records that leave lines UNRESTORED are counted (R287). The controller knows a record that software
has altered by the head that it wrote (log 170). -/
def applyRec (s : State) (l : Nat) (r : Nat × Nat × Nat × Nat) : Nat × State :=
  let e := s.entry l
  let at_ := e.recd.logbase.toNat + r.1
  let (v, _, s1) := heldGetLines l 1 s at_
  let (old, bad, s2) := heldGetLines l 1 s1 (at_ + 64)
  let mine := SMap.get 0 e.undo.heads r.1 == v
  match r.2.1 with
  | 1 => applyLine mine e v old bad s2
  | 2 => (0, applyAddr mine e v s2)
  | 3 => (0, applyCounter mine e v s2)
  | _ => (0, s2)

def applyRecs (l : Nat) : List (Nat × Nat × Nat × Nat) → Nat → State → Nat × State
  | [], u, s => (u, s)
  | r :: rs, u, s =>
    let (n, s1) := applyRec s l r
    applyRecs l rs (u + n) s1

/-- Records whose first 64 bytes meet an integrity fault (R287). -/
def headFaults (l : Nat) : List (Nat × Nat × Nat × Nat) → State → Nat × State
  | [], s => (0, s)
  | r :: rs, s =>
    let (_, bad, s1) := heldGetLines l 1 s ((s.entry l).recd.logbase.toNat + r.1)
    let (n, s2) := headFaults l rs s1
    (n + b2n bad, s2)

/-- The parts of an image that RestoreTasks copies: offsets and lines. The trap record, the reply area and the SFRQ area are
not in a SNAP (R276). -/
def imageParts : List (Nat × Nat) :=
  [(0x0, 8), (0x440, 15), (0x800, 32), (0x1800, 28), (0x2000, 256), (0x6000, 4), (0x10000, 7168)] ++ standingParts

/-- Restore the tasks that hold a SNAP for a window: those parked again, and the number that could not be restored
(R287, R288). -/
def restoreTasks (l : Nat) (now : Nat) : List (Nat × BitVec 32 × Nat) → State → List Parked × Nat × State
  | [], s => ([], 0, s)
  | (tn, _, off) :: r, s =>
    let e := s.entry l
    let (bad, s1) := copyParts l (e.recd.logbase.toNat + off + 128) (areaOf e.recd tn) imageParts s
    let (mode, s1) := heldGet s1 l (areaOf e.recd tn + 0x440 + 8 * 19) 8
    let (ps, u, s2) := restoreTasks l now r s1
    if bad then (ps, u + 1, s2)
    else
      let seq := match e.parked.find? fun p => p.tn == tn with | some p => p.seq | none => 0
      (⟨tn, now, 0, seq, false, false, false, mode % 2 == 1⟩ :: ps, u, s2)

/-- Drop the rewound records from the end of the ring: those of the window and later ones, but for the SNAP records that open
it. A record of an earlier window stays, wherever it stands (R279, R287; log 155). -/
def keepThrough (win : BitVec 32) (g : Nat) (recs : List (Nat × Nat × Nat × Nat)) : List (Nat × Nat × Nat × Nat) :=
  (recs.reverse.dropWhile fun r => windowFrom win (BitVec.ofNat 32 g) r.2.2.1 && !(r.2.1 == 5 && r.2.2.1 == g)).reverse

/-- Whether the check of a rewind's target fails: below the horizon, above the current window, 0, or with no SNAP kept. A horizon
past the current window leaves none to restore (R285, R287). -/
def badTarget (c : LogCtl) (g : Nat) : Bool :=
  decide (2 ^ 32 ≤ g) || c.hzn == c.win + 1 || decide ((c.win - c.hzn).toNat < (BitVec.ofNat 32 g - c.hzn).toNat) || g == 0
    || !(c.snapAt.any fun x => x.2.1.toNat == g)

/-- A rewind of a context none of whose tasks holds a slot: status, result 0, result 1 (R287). -/
def rewindTo (s : State) (l g : Nat) (force : Bool) : (Nat × Nat × Nat) × State :=
  let e := s.entry l
  let c := e.undo
  let win := c.win.toNat
  let snaps := c.snapAt.filter fun x => x.2.1.toNat == g
  if badTarget c g then ((3, win, 0), s)
  else
    let recs := recsFrom c g
    let n := (recs.filter fun r => r.2.1 == 4).length
    if 0 < n ∧ !force then ((2, win, n), s)
    else
      let (hf, s1) := headFaults l recs s
      if 0 < hf then ((3, win, hf), s1)
      else
        let (u, s2) := applyRecs l recs 0 s1
        let (ps, lost, s3) := restoreTasks l s.cycle snaps s2
        let e3 := s3.entry l
        let kept := keepThrough c.win g e3.undo.recs
        let tail := match kept.getLast? with
          | some r => if e3.recd.logBytes ≤ r.1 + 128 * r.2.2.2 then 128 else r.1 + 128 * r.2.2.2
          | none => e3.undo.tail
        let c3 := { ({ e3.undo with tail := tail } : LogCtl).keep kept with
          win := BitVec.ofNat 32 g, arrived := [], lost := false, small := false, off := false }
        let e4 : LEntry := { e3 with undo := c3, parked := ps }
        let e5 := if e4.state = .closing ∧ !claimsDone s3 e4 then { e4 with state := LState.running } else e4
        let gone := (e.parked.map fun p => p.tn).filter fun t => !(ps.any fun p => p.tn == t)
        ((0, g, n + u + lost), clearMarks (disown (s3.setEntry l e5) l gone) l)

/-- Write the reply area of a task (R64, R268). -/
def writeReply (s : State) (l tn status r0 r1 : Nat) : State :=
  heldPutLines l 1 s (areaOf (s.entry l).recd tn + 0x400) (status % 2 ^ 16 + r0 % 2 ^ 64 * 2 ^ 64 + r1 % 2 ^ 64 * 2 ^ 128)

/-- Run the rewind that stands in an entry and reply: to the debug unit, which leaves the context frozen, or to the task
that called, whose context is thawed (R286 to R288). A call that is refused gets its REPLY add, since its task resumes at
the call (log 57, R64). -/
def runRewind (s : State) (l : Nat) : State :=
  match (s.entry l).rw with
  | none => s
  | some (g, force, caller) =>
    let ((status, r0, r1), s1) := rewindTo s l g force
    let s2 := putHeader s1 l (contextHold s1 l)
    let e := s2.entry l
    match caller with
    | none => endDebug (s2.setEntry l { e with rw := none }) status r0 r1
    | some (tn, reply) =>
      let s3 := writeReply (s2.setEntry l { e with rw := none, frozen := false }) l tn status r0 r1
      if status = 0 then s3 else (farAdd s3 0 true 0 reply 1).2

end Sys2Proof.Machine
end

