-- ==== Sys2Proof/Machine/Issue.lean ====
section
/-! DEFINITION. Machine/Issue.lean: what every instruction has in common when it issues. The fates of R334 that depend on
the state, the waits for older loads and stores, and the X-stream's vector instruction queue with admission
(R107, R127 to R129, R218, R256, R265, R310, R334, R365, R422). -/

namespace Sys2Proof.Machine

/-- The outcome of a step of this machine. -/
abbrev Out := Host.Outcome State Fault Refusal

/-! ## Fates (R334) -/

/-- tval of a fate: the instruction word (R252). -/
def tvalOf (i : Instr) : Word := (encode i).setWidth 64

/-- The instruction may not execute in this stream, or in a handler (R107, R265). -/
def illegalStream (s : State) (i : Instr) : State := raise s causeILLEGAL_STREAM 0 0 (tvalOf i)

/-- A reserved encoding that depends on the state (R334 order 3). -/
def illegalInstr (s : State) (i : Instr) : State := raise s causeILLEGAL_OP 0 0 (tvalOf i)

/-- A privileged instruction in U mode (R334 order 4). -/
def notPrivileged (s : State) (i : Instr) : State := raise s causePRIV 0 0 (tvalOf i)

/-- An instruction of the A-stream only. -/
def inA (i : Instr) (s : State) (k : State → State) : State := if s.onX then illegalStream s i else k s

/-- An instruction of the X-stream only. -/
def inX (i : Instr) (s : State) (k : State → State) : State := if s.onX then k s else illegalStream s i

/-- An A-stream instruction that a handler may not use (R265, R355, R446). -/
def noHandler (i : Instr) (s : State) (k : State → State) : State := if s.h.th then illegalStream s i else k s

/-- An instruction that only S mode may use. -/
def needPriv (i : Instr) (s : State) (k : State → State) : State := if s.h.priv then k s else notPrivileged s i

/-! ## Waits -/

/-- Go on once every older vector load is confirmed; one that fails gives its cause (R365). -/
def confirmed (s : State) (k : State → State) : State :=
  match settleLoads s false with
  | (some c, s1) => takeTrap s1 c
  | (none, s1) => k s1

/-- Go on once every earlier store is resolved. A recorded fault is delivered before the instruction, and a store that a
write guard holds makes it wait (R212, R256). -/
def drained (s : State) (wait k : State → State) : State :=
  let s1 := settleStores s
  if !s1.h.stores.isEmpty then wait s1
  else if !s1.h.sfrq.isEmpty then takeTrap s1 ⟨false, causeSTORE, 0, 0, 0⟩
  else k s1

/-- Some keys, and those of the unresolved stores that must be resolved before the stores that meet them: older ones that share a
line with one of these (R215, R256). -/
def closedKeys (s : State) (keys : List (Bool × Nat)) : List (Bool × Nat) :=
  s.h.stores.foldr (fun st ks => if storeMeets s ks st then ks ++ (storeVas st).map (lineKey s) else ks) keys

/-- An access of the A-stream that is ordered by some keys: it waits for the earlier stores of the hart that meet them, and a
recorded fault of one is delivered before it (R231, R256). -/
def accessedBy (keys : List (Bool × Nat)) (s : State) (k : State → State) : State :=
  match meetingStore s keys with
  | none => k s
  | some _ =>
    let s1 := resolveMeeting (closedKeys s keys) s.h.stores.length s
    if (meetingStore s1 keys).isSome then s1
    else if !s1.h.sfrq.isEmpty then takeTrap s1 ⟨false, causeSTORE, 0, 0, 0⟩
    else k s1

/-- An access of the A-stream at some addresses (R256). -/
def accessed (vas : List Word) (s : State) (k : State → State) : State :=
  accessedBy (if s.h.stores.isEmpty then [] else vas.map (lineKey s)) s k

/-- What an operation on a counter is ordered by: the port of one homed on a host (R231). -/
def counterKeys (s : State) (r : Word) : List (Bool × Nat) := match refOf s r with | .host h _ => [portKey h] | _ => []

/-- Go on once every older vector load is confirmed and every earlier store is resolved (R218, R365). -/
def ordered (s : State) (k : State → State) : State := confirmed s fun s1 => drained s1 id k

/-- A write of the A-stream in HOLD mode with the log full raises LOGFULL before any effect (R284). -/
def notFull (s : State) (acc : Nat) (va : Word) (k : State → State) : State :=
  if s.logFull s.h then raise s causeLOGFULL acc 0 va else k s

/-- A release or acquire: ORD 10 and 11 release (R217, R218). -/
def releasing (o : BitVec 2) : Bool := o.getLsbD 1

/-- Take the release of an ORD field: earlier stores are resolved (R218). -/
def released (o : BitVec 2) (s : State) (k : State → State) : State := if releasing o then drained s id k else k s

/-! ## Admission (R128, R310, R311) -/

/-- Whether an instruction uses the M port. -/
def isMatrix : Instr → Bool
  | .mmode _ | .mzero _ _ _ | .opadd _ _ _ _ _ | .opsub _ _ _ _ _ | .mrd _ _ _ _ _ | .mwr _ _ _ _ _ | .mtr _ _ _ _ _ => true
  | _ => false

/-- The mask register that governs a V-port instruction's elements, m0 where it has none. -/
def maskField : Instr → Nat
  | .vadd _ _ _ m _ _ | .vsub _ _ _ m _ _ | .vmul _ _ _ m _ _ | .vfma _ _ _ m _ _ | .vfms _ _ _ m _ _ | .vmin _ _ _ m _ _
  | .vmax _ _ _ m _ _ | .vdiv _ _ _ m _ _ | .vand _ _ _ m _ _ | .vor _ _ _ m _ _ | .vxor _ _ _ m _ _ | .vshl _ _ _ m _ _
  | .vshr _ _ _ m _ _ | .vperm _ _ _ m _ _ => m.toNat
  | .vabs _ _ m _ | .vneg _ _ m _ | .vrcp _ _ m _ | .vrsqrt _ _ m _ | .vmov _ _ m _ => m.toNat
  | .vcmpEq _ _ _ m _ _ | .vcmpNe _ _ _ m _ _ | .vcmpLt _ _ _ m _ _ | .vcmpLe _ _ _ m _ _ | .vcmpGt _ _ _ m _ _
  | .vcmpGe _ _ _ m _ _ | .vcmpUn _ _ _ m _ _ | .vcmpOr _ _ _ m _ _ => m.toNat
  | .vredsum _ _ m | .vredmax _ _ m | .vredmin _ _ m => m.toNat
  | .viota _ _ m _ | .vcvt _ _ _ m _ => m.toNat
  | .vslideup _ _ _ m _ | .vslidedn _ _ _ m _ | .vscale _ _ _ m _ => m.toNat
  | _ => 0

/-- The source whose elements an instruction walks, where it does not write one vector element for each of them. -/
def walkedSource : Instr → Option Nat
  | .vcmpEq _ a _ _ _ _ | .vcmpNe _ a _ _ _ _ | .vcmpLt _ a _ _ _ _ | .vcmpLe _ a _ _ _ _ | .vcmpGt _ a _ _ _ _
  | .vcmpGe _ a _ _ _ _ | .vcmpUn _ a _ _ _ _ | .vcmpOr _ a _ _ _ _ => some a.toNat
  | .vredsum _ a _ | .vredmax _ a _ | .vredmin _ a _ => some a.toNat
  | .vext _ a _ => some a.toNat
  | .vgtag _ a _ => some a.toNat
  | .qpushX _ v => some v.toNat
  | _ => none

/-- The vector register that an instruction writes. -/
def writtenVector : Instr → Option Nat
  | .vadd d _ _ _ _ _ | .vsub d _ _ _ _ _ | .vmul d _ _ _ _ _ | .vfma d _ _ _ _ _ | .vfms d _ _ _ _ _ | .vmin d _ _ _ _ _
  | .vmax d _ _ _ _ _ | .vdiv d _ _ _ _ _ | .vand d _ _ _ _ _ | .vor d _ _ _ _ _ | .vxor d _ _ _ _ _ | .vshl d _ _ _ _ _
  | .vshr d _ _ _ _ _ | .vperm d _ _ _ _ _ => some d.toNat
  | .vabs d _ _ _ | .vneg d _ _ _ | .vrcp d _ _ _ | .vrsqrt d _ _ _ | .vmov d _ _ _ | .viota d _ _ _ => some d.toNat
  | .vslideup d _ _ _ _ | .vslidedn d _ _ _ _ | .vscale d _ _ _ _ | .vcvt d _ _ _ _ | .vsel d _ _ _ _ => some d.toNat
  | .vsplat d _ | .vunrot d _ | .qpopX _ d => some d.toNat
  | .vins d _ _ | .vtag d _ _ => some d.toNat
  | _ => none

/-- The format whose elements stand in the lanes of a V-port instruction (R106): of its result, or of the source that it
walks. -/
def walkFmt (before after : Hart) (op : XOp) : Nat :=
  match walkedSource op.instr, writtenVector op.instr with
  | some c, _ => match readSrc ⟨before, [], 0, [], []⟩ c with | some s => fmtAt op.vfmt.toNat s 0 | none => op.vfmt.toNat
  | none, some d => (after.vreg d).fmt.toNat
  | none, none => op.vfmt.toNat

/-- Classes of the lanes of walk group g, by the elements that stand in each lane's 4 bytes and the mask as the instruction
reads it (R106, R311). -/
def laneClasses (before after : Hart) (op : XOp) (g : Nat) : Nat × Nat × Nat :=
  let lanes := if before.joined then 128 else 32
  let w := elemSize (walkFmt before after op)
  let mask := before.mask (maskField op.instr)
  let cls := fun l =>
    let bit := 32 * (lanes * g + l)
    let es := (List.range (Nat.max 1 (32 / w))).map fun k => bit / w + k
    let below := es.filter fun i => decide (i < op.vl.toNat)
    if below.any fun i => mask.getLsbD i then 0 else if below.isEmpty then 2 else 1
  let cs := (List.range lanes).map cls
  (cs.count 0, cs.count 1, cs.count 2)

/-- Pipe cycles that svmcyc counts for a matrix instruction (R431): those of R423 Table 4 at the tower's duty (R25) for
OPADD and OPSUB, and one cycle for the others. -/
def matrixCycles (h : Hart) (duty : Nat) (i : Instr) : Nat :=
  match i with
  | .opadd _ _ _ _ _ | .opsub _ _ _ _ _ =>
    let c := (if h.mkW = 4#3 then 32 else 16) / (if h.joined then 1 else 2)
    (c * 256 + duty - 1) / duty
  | .mzero _ _ _ | .mrd _ _ _ _ _ | .mwr _ _ _ _ _ | .mtr _ _ _ _ _ => 1
  | _ => 0

/-- Account for an admitted instruction in the survey's pending lane slots, from the hart before and after it (R311, R431). -/
def surveyAdmit (before h : Hart) (duty : Nat) (op : XOp) : Hart :=
  if isMatrix op.instr then { h with mbusy := h.mbusy + matrixCycles h duty op.instr }
  else { h with lanes := h.lanes ++ (List.range 4).map (laneClasses before h op), svFirst := false }

/-! ## Lane cycles (R309 to R311) -/

/-- Lanes of a hart (R104). -/
def Hart.laneCount (h : Hart) : Nat := if h.joined then 128 else 32

/-- Whether the X-stream runs a trip with some stage off (R311). -/
def partialTrip (t : Stream) : Bool :=
  decide (2 ≤ t.blk.stages) && (t.st == .run || t.st == .qblock || t.st == .wait) && stageBits t != 2 ^ t.blk.stages - 1
    && (match t.pos with | .word _ => true | _ => false)

/-- Classes of the lane slots of one cycle: USEFUL, MASKED, BEYOND_VL, STARTUP, STALLED. -/
def laneSlots (h : Hart) : Nat × Nat × Nat × Nat × Nat :=
  match h.lanes with
  | (u, m, b) :: _ => (u, m, b, 0, 0)
  | [] => if partialTrip h.x || h.svFirst then (0, 0, 0, h.laneCount, 0) else (0, 0, 0, 0, h.laneCount)

/-- One cycle of a hart: its lanes move on, and with EN = 1 every lane adds 1 to one class (R310). -/
def countCycle (h : Hart) : Hart :=
  if h.launch.isNone then h
  else
    let h1 := { h with lanes := h.lanes.drop 1, mbusy := h.mbusy - 1 }
    if !h.svEn then h1
    else
      let (u, m, b, st, sl) := laneSlots h
      { h1 with
        svuse := h.svuse + BitVec.ofNat 64 u
        svmask := h.svmask + BitVec.ofNat 64 m
        svbvl := h.svbvl + BitVec.ofNat 64 b
        svstart := h.svstart + BitVec.ofNat 64 st
        svstall := h.svstall + BitVec.ofNat 64 sl
        svcyc := h.svcyc + 1
        svmcyc := h.svmcyc + (if h.mbusy = 0 then 0 else 1) }

/-- A hart whose admitted instructions end: the cycles in which they still hold the lanes or the matrix pipes are counted (R310, R311,
R431). -/
def countedOut (h : Hart) : Hart :=
  { (List.range (Nat.max h.lanes.length h.mbusy)).foldl (fun h _ => countCycle h) h with lanes := [], mbusy := 0 }

/-! ## The admission itself (R128) -/

/-- Mark the oldest unadmitted entry admitted with its queue effects; scalar instructions up to the next one retire
(R129). -/
def markAdmitted (pops pushes : List (Nat × Nat)) : List XEntry → List XEntry
  | [] => []
  | e :: es =>
    if e.waiting then { e with admitted := true, pops := pops, pushes := pushes, scalars := [] } :: es
    else e :: markAdmitted pops pushes es

/-- Entries taken from a queue by an admitted instruction stay until it retires (R126). -/
def takePops (pops : List (Nat × Nat)) (h : Hart) : Hart :=
  forCounts pops (fun q n h => h.onQueue q (fun d => { d with popped := d.popped + n }) (fun d => { d with popped := d.popped + n })) h

/-- MMODE with W = 0 releases the leave (R421). -/
def releaseMatrix (s : State) : State :=
  let id := s.h.id
  let f := fun (g : Gov) => { g with held := g.held.filter fun x => !(x.who == .inl id && !x.mem) }
  { s with h := { s.h with mkLV := false }, gov := SMap.upd Gov.reset s.gov id.tower f }

/-- Look at the oldest unadmitted instruction of the acting hart: it waits for an operand on a queue, which the scalar part may
run ahead of (R127); it traps with the X-stream back at it; or it is admitted (R128). -/
def admitNext (s : State) : State :=
  match (splitWaiting s.h.xl).2 with
  | [] => s
  | e :: _ =>
    match e.op with
    | none => s
    | some op =>
      match xEffect op s.h with
      | .wait => { s with h := { s.h with x := { s.h.x with st := if s.h.x.st = .run then .qblock else s.h.x.st } } }
      | .trap c v => takeTrap { s with h := undoX (unblockX s.h) } ⟨true, c, 0, 0, BitVec.ofNat 64 v⟩
      | .done h pops pushes =>
        let duty := (SMap.get Gov.reset s.gov h.id.tower).mduty
        let h1 := surveyAdmit s.h (takePops pops h) duty op
        let h2 := { h1 with
          xl := markAdmitted pops pushes h1.xl
          x := { h1.x with st := if h1.x.st = .qblock then .run else h1.x.st } }
        let s1 : State := { s with h := h2 }
        match op.instr with
        | .mmode w => if w = 0 then releaseMatrix s1 else s1
        | _ => s1

/-- Unadmitted instructions of a hart. -/
def Hart.viqLen (h : Hart) : Nat := (h.xl.filter fun e => e.waiting).length

/-- The VIQ entry of an instruction that issues now (R127, R344, R388). -/
def viqEntry (s : State) (i : Instr) (sa sb : Word) : XEntry :=
  let t := s.h.x
  let w := match t.pos with | .word w => w | _ => 0
  { op := some ⟨i, t.vl, t.vfmt, s.h.rm, sa, sb, t.blk, w, t.n, t.k, t.trip, t.last, t.regs, t.vl, t.vfmt⟩
    admitted := false, scalars := [], pops := [], pushes := [] }

/-- A vector or matrix instruction enters the VIQ, is admitted at once if it may be, and its retirement follows (R126 to
R128). A full VIQ makes the stream wait. -/
def issueX (i : Instr) (sa sb : Word) (s : State) : State :=
  if 32 ≤ s.h.viqLen then s
  else
    let s1 : State := { s with h := { s.h with xl := s.h.xl ++ [viqEntry s i sa sb] } }
    let s2 := s1.advance
    if s.h.unadmitted then s2 else admitNext s2

/-- A vector instruction with its scalar operands. -/
def vectorIssue (i : Instr) (sa sb : Word) (s : State) : State := inX i s (issueX i sa sb)

/-! ## Values that queued instructions produce (R127) -/

/-- The scalar registers that an X-stream instruction reads as it issues. -/
def scalarReads : Instr → List (BitVec 6)
  | .brcEq a b _ | .brcNe a b _ | .brcLt a b _ | .brcGe a b _ | .brcLtu a b _ | .brcGeu a b _ => [a, b]
  | .brr a | .callr _ a => [a]
  | .add _ a b | .sub _ a b | .mul _ a b | .mulh _ a b | .mulhu _ a b | .div _ a b | .divu _ a b | .rem _ a b | .remu _ a b
  | .and _ a b | .or _ a b | .xor _ a b | .andn _ a b | .sll _ a b | .srl _ a b | .sra _ a b | .min _ a b | .max _ a b
  | .minu _ a b | .maxu _ a b | .slt _ a b | .sltu _ a b | .seq _ a b | .addsh _ a b _ => [a, b]
  | .sel _ a b f => [a, b, f]
  | .clz _ a | .ctz _ a | .popc _ a | .addi _ a _ | .andi _ a _ | .ori _ a _ | .slli _ a _ | .srli _ a _ | .srai _ a _ => [a]
  | .lih d _ _ => [d]
  | .qputs a | .vsetl _ a _ | .vsetlKeep _ a | .vsplat _ a => [a]
  | .vext _ _ b | .vgtag _ _ b | .vslideup _ _ b _ _ | .vslidedn _ _ b _ _ | .vtag _ _ b | .vscale _ _ b _ _ => [b]
  | .vins _ a b => [a, b]
  | .mrd _ _ x _ _ | .mwr _ _ x _ _ | .mtr _ _ x _ _ => [x]
  | .csrw _ a _ | .csrs _ a _ | .csrc _ a _ => [a]
  | _ => []

/-- Whether the issuing stream waits: the instruction needs a scalar value that a queued instruction is still to produce
(R127). -/
def needsOwed (s : State) (i : Instr) : Bool := s.onX && (scalarReads i).any fun r => s.h.owed.contains r.toNat

/-- Whether mk is still to be written by a queued MMODE (R127, R421). -/
def widthOwed (h : Hart) : Bool :=
  h.xl.any fun e => e.waiting && (match e.op with | some o => (match o.instr with | .mmode _ => true | _ => false) | none => false)

/-! ## Leave for matrix work (R21, R22, R421, R422) -/

/-- Charge of MMODE, 2.5 W or 0.625 W, in units of 0.125 W. -/
def matrixCharge (h : Hart) : Nat := if h.joined then 20 else 5

/-- Ask the tower's governor for a leave; the stream waits (R22). -/
def askLeave (s : State) (l : Leave) : State :=
  let f := fun (g : Gov) => if g.asked.contains l then g else { g with asked := g.asked ++ [l] }
  ({ s with gov := SMap.upd Gov.reset s.gov s.h.id.tower f } : State).stall .wait .leave

/-- A matrix instruction: the tile it names is granted, and a leave is held or asked for (R89, R421, R422). One that needs a
leave waits for an MMODE that is still to be admitted (R127). -/
def matrixIssue (i : Instr) (tile : Option Nat) (needLeave : Bool) (sb : Word) (s : State) : State :=
  inX i s fun s =>
    let bad := match tile with | some t => decide (tilesOf s s.h ≤ t) | none => tilesOf s s.h == 0
    if bad then illegalInstr s i
    else if needLeave && widthOwed s.h then s
    else if needLeave && !s.h.mkLV then askLeave s ⟨.inl s.h.id, matrixCharge s.h, false⟩
    else issueX i 0 sb s

end Sys2Proof.Machine
end

