-- ==== Sys2Proof/Machine/Control.lean ====
section
/-! DEFINITION. Machine/Control.lean: the meanings of the control instructions. Branches, calls, BRK, NOP, EXIT, STEP and
XSTART (R343 to R355). -/

namespace Sys2Proof.Machine

/-- Sign-extended word offset from the address of an instruction (R348, R349, R355). -/
def offsetTarget {w : Nat} (pc : Word) (i : BitVec w) : Word := pc + 4 * i.signExtend 64

/-- NOP (R352). -/
def execNop (s : State) : Out := .next s.advance

/-- BR (R348). -/
def execBr (i : BitVec 18) (s : State) : Out := .next (transfer s (offsetTarget s.cur.pc i) none)

/-- A conditional branch: taken where the condition holds of its two sources, else without effect (R348). -/
def branchIf (c : Word → Word → Bool) (a b : BitVec 6) (o : BitVec 12) (s : State) : State :=
  if c (s.reg a.toNat) (s.reg b.toNat) then transfer s (offsetTarget s.cur.pc o) none else s.advance

/-- BRC.eq (R348). -/
def execBrcEq (a b : BitVec 6) (o : BitVec 12) (s : State) : Out := .next (branchIf (fun x y => x == y) a b o s)
/-- BRC.ne (R348). -/
def execBrcNe (a b : BitVec 6) (o : BitVec 12) (s : State) : Out := .next (branchIf (fun x y => x != y) a b o s)
/-- BRC.lt (R348). -/
def execBrcLt (a b : BitVec 6) (o : BitVec 12) (s : State) : Out := .next (branchIf (fun x y => x.slt y) a b o s)
/-- BRC.ge (R348). -/
def execBrcGe (a b : BitVec 6) (o : BitVec 12) (s : State) : Out := .next (branchIf (fun x y => !x.slt y) a b o s)
/-- BRC.ltu (R348). -/
def execBrcLtu (a b : BitVec 6) (o : BitVec 12) (s : State) : Out := .next (branchIf (fun x y => x.ult y) a b o s)
/-- BRC.geu (R348). -/
def execBrcGeu (a b : BitVec 6) (o : BitVec 12) (s : State) : Out := .next (branchIf (fun x y => !x.ult y) a b o s)

/-- BRR (R348). -/
def execBrr (a : BitVec 6) (s : State) : Out := .next (transfer s (s.reg a.toNat) none)

/-- CALL: the link is the next block's header (R349). -/
def execCall (d : BitVec 6) (i : BitVec 18) (s : State) : Out :=
  .next (transfer s (offsetTarget s.cur.pc i) (some (d, s.cur.blk.next)))

/-- CALLR: the target is read before the link is written (R349). -/
def execCallr (d a : BitVec 6) (s : State) : Out := .next (transfer s (s.reg a.toNat) (some (d, s.cur.blk.next)))

/-- Take cause BRK with the stream past the instruction (R351). A store that a write guard holds delays it (R260). -/
def breakpoint (i : BitVec 18) (s : State) : State :=
  let s1 := settleStores s
  if !s1.h.stores.isEmpty then s1 else takeTrap s1.advance ⟨s1.onX, causeBRK, 0, 0, i.setWidth 64⟩

/-- BRK (R351): in the X-stream once every older vector and matrix instruction has been admitted. -/
def execBrk (i : BitVec 18) (s : State) : Out := .next (if s.onX && s.h.unadmitted then s else breakpoint i s)

/-- Go on once every earlier store is resolved and no engine command of the task is outstanding (R353, R354). -/
def quiet (s : State) (wait k : State → State) : State :=
  drained s wait fun s1 => if s1.engineBusy then wait s1 else k s1

/-- The issuing stream waits in WAIT and executes its instruction afresh. -/
def waitAgain (s : State) : State := s.stall .wait .retry

/-- EXIT in the X-stream: everything older completes and commits, the stream is IDLE, and a held leave is released, mk.W
kept (R353, R422). -/
def exitX (s : State) : State :=
  if s.h.unadmitted then s
  else
    let h := retireAll s.h
    releaseMatrix { s with h := { h with x := { h.x with st := .idle, wait := .none, begun := false, stepPast := false } } }

/-- EXIT in the A-stream (R353). -/
def exitA (s : State) : State :=
  confirmed s fun s1 => quiet s1 waitAgain fun s2 =>
    if !s2.h.th && s2.h.x.st != .idle then waitAgain s2 else endTask s2

/-- EXIT (R353). -/
def execExit (s : State) : Out := .next (if s.onX then exitX s else exitA s)

/-- The STRIPS of the acting hart's launch. -/
def State.strips (s : State) : BitVec 32 := (s.entryOf s.h).recd.strips

/-- A STEP that gives way stays in RUN while it waits: first for stores and engine commands, then, marked by its wait, for
the X-stream to stop (R354). -/
def stepWait (w : Wait) (s : State) : State := s.setCur { s.cur with st := .run, wait := w, begun := true }

/-- STEP with a withdrawal request (R354). Its 130,000 cycles run from the end of the wait for stores and commands, which the
request's cycle then names. -/
def giveWay (s : State) : State :=
  confirmed s fun s1 => quiet s1 (stepWait .none) fun s2 =>
    if s2.h.x.canStop && !s2.h.unadmitted then endTask s2
    else if s2.h.a.wait ≠ .retry then stepWait .retry { s2 with h := { s2.h with reqAt := s2.cycle } }
    else if s2.h.reqAt + 130000 ≤ s2.cycle then endTask s2
    else s2

/-- STEP (R354). -/
def execStep (s : State) : Out :=
  .next (inA .step s fun s => if s.h.wdraw && s.strips != 0 && !s.h.th then giveWay s else s.advance)

/-- Start the X-stream at a header with its registers, vl and vfmt as it left them; its buffer is read again (R111, R347,
R355). One that a THAW left IDLE still steps past its first word (R317). -/
def startX (t : Word) (h : Hart) : Hart :=
  { h with x := { h.x with st := .run, pos := .enter t t none, filled := false, wait := .none, begun := false
                           stBefore := .idle } }

/-- XSTART (R355). -/
def execXstart (i : BitVec 18) (s : State) : Out :=
  .next (inA (.xstart i) s fun s => noHandler (.xstart i) s fun s => confirmed s fun s =>
    if s.h.x.st == .idle then ({ s with h := startX (offsetTarget s.cur.pc i) s.h } : State).advance else waitAgain s)

end Sys2Proof.Machine
end

