-- ==== Sys2Proof/Machine/Scalar.lean ====
section
/-! DEFINITION. Machine/Scalar.lean: the meanings of the scalar integer instructions (R356 to R360). -/

namespace Sys2Proof.Machine

/-- A truth value as a word. -/
def bit64 (b : Bool) : Word := if b then 1 else 0

/-- The shift amount b[5:0] (R356). -/
def shamt (b : Word) : Nat := b.toNat % 64

/-- An operand of a division or high product as the form reads it (R356, R357). -/
def asInt (signed : Bool) (a : Word) : Int := if signed then a.toInt else a.toNat

/-- High 64 bits of a product (R356). -/
def mulHigh (signed : Bool) (a b : Word) : Word := BitVec.ofInt 64 (asInt signed a * asInt signed b / 2 ^ 64)

/-- Quotient towards zero; all ones for a zero divisor (R357). -/
def divQuot (signed : Bool) (a b : Word) : Word :=
  if b = 0 then BitVec.allOnes 64 else BitVec.ofInt 64 ((asInt signed a).tdiv (asInt signed b))

/-- Remainder with the sign of the dividend; the dividend for a zero divisor (R357). -/
def divRem (signed : Bool) (a b : Word) : Word :=
  if b = 0 then a else BitVec.ofInt 64 ((asInt signed a).tmod (asInt signed b))

/-- One bits among the n low bits of a number. -/
def onesAmong (v : Nat) : Nat → Nat
  | 0 => 0
  | n + 1 => onesAmong v n + (if v.testBit n then 1 else 0)

/-- Zero bits above the highest one bit among the n low bits (R358). -/
def leadingZeros (v : Nat) : Nat → Nat
  | 0 => 0
  | n + 1 => if v.testBit n then 0 else leadingZeros v n + 1

/-- Zero bits from bit i up, n bits being left (R358). -/
def trailingZeros (v i : Nat) : Nat → Nat
  | 0 => 0
  | n + 1 => if v.testBit i then 0 else trailingZeros v (i + 1) n + 1

/-- A register-register operation: the sources are read before the destination is written (R343, R356). -/
def binary (f : Word → Word → Word) (d a b : BitVec 6) (s : State) : State :=
  s.writeReg d (f (s.reg a.toNat) (s.reg b.toNat))

/-- An operation of one register (R358, R359). -/
def unary (f : Word → Word) (d a : BitVec 6) (s : State) : State := s.writeReg d (f (s.reg a.toNat))

/-- ADD (R356). -/
def execAdd (d a b : BitVec 6) (s : State) : Out := .next (binary (fun a b => a + b) d a b s)
/-- SUB (R356). -/
def execSub (d a b : BitVec 6) (s : State) : Out := .next (binary (fun a b => a - b) d a b s)
/-- MUL (R356). -/
def execMul (d a b : BitVec 6) (s : State) : Out := .next (binary (fun a b => a * b) d a b s)
/-- MULH: the high half of the signed product (R356). -/
def execMulh (d a b : BitVec 6) (s : State) : Out := .next (binary (mulHigh true) d a b s)
/-- MULHU: the high half of the unsigned product (R356). -/
def execMulhu (d a b : BitVec 6) (s : State) : Out := .next (binary (mulHigh false) d a b s)
/-- DIV (R357). -/
def execDiv (d a b : BitVec 6) (s : State) : Out := .next (binary (divQuot true) d a b s)
/-- DIVU (R357). -/
def execDivu (d a b : BitVec 6) (s : State) : Out := .next (binary (divQuot false) d a b s)
/-- REM (R357). -/
def execRem (d a b : BitVec 6) (s : State) : Out := .next (binary (divRem true) d a b s)
/-- REMU (R357). -/
def execRemu (d a b : BitVec 6) (s : State) : Out := .next (binary (divRem false) d a b s)
/-- AND (R356). -/
def execAnd (d a b : BitVec 6) (s : State) : Out := .next (binary (fun a b => a &&& b) d a b s)
/-- OR (R356). -/
def execOr (d a b : BitVec 6) (s : State) : Out := .next (binary (fun a b => a ||| b) d a b s)
/-- XOR (R356). -/
def execXor (d a b : BitVec 6) (s : State) : Out := .next (binary (fun a b => a ^^^ b) d a b s)
/-- ANDN (R356). -/
def execAndn (d a b : BitVec 6) (s : State) : Out := .next (binary (fun a b => a &&& ~~~b) d a b s)
/-- SLL (R356). -/
def execSll (d a b : BitVec 6) (s : State) : Out := .next (binary (fun a b => a <<< shamt b) d a b s)
/-- SRL (R356). -/
def execSrl (d a b : BitVec 6) (s : State) : Out := .next (binary (fun a b => a >>> shamt b) d a b s)
/-- SRA (R356). -/
def execSra (d a b : BitVec 6) (s : State) : Out := .next (binary (fun a b => a.sshiftRight (shamt b)) d a b s)
/-- MIN (R356). -/
def execMin (d a b : BitVec 6) (s : State) : Out := .next (binary (fun a b => if a.slt b then a else b) d a b s)
/-- MAX (R356). -/
def execMax (d a b : BitVec 6) (s : State) : Out := .next (binary (fun a b => if a.slt b then b else a) d a b s)
/-- MINU (R356). -/
def execMinu (d a b : BitVec 6) (s : State) : Out := .next (binary (fun a b => if a.ult b then a else b) d a b s)
/-- MAXU (R356). -/
def execMaxu (d a b : BitVec 6) (s : State) : Out := .next (binary (fun a b => if a.ult b then b else a) d a b s)
/-- SLT (R356). -/
def execSlt (d a b : BitVec 6) (s : State) : Out := .next (binary (fun a b => bit64 (a.slt b)) d a b s)
/-- SLTU (R356). -/
def execSltu (d a b : BitVec 6) (s : State) : Out := .next (binary (fun a b => bit64 (a.ult b)) d a b s)
/-- SEQ (R356). -/
def execSeq (d a b : BitVec 6) (s : State) : Out := .next (binary (fun a b => bit64 (a == b)) d a b s)

/-- SEL (R358). -/
def execSel (d a b f : BitVec 6) (s : State) : Out :=
  .next (s.writeReg d (if s.reg f.toNat ≠ 0 then s.reg a.toNat else s.reg b.toNat))
/-- CLZ (R358). -/
def execClz (d a : BitVec 6) (s : State) : Out := .next (unary (fun a => BitVec.ofNat 64 (leadingZeros a.toNat 64)) d a s)
/-- CTZ (R358). -/
def execCtz (d a : BitVec 6) (s : State) : Out := .next (unary (fun a => BitVec.ofNat 64 (trailingZeros a.toNat 0 64)) d a s)
/-- POPC (R358). -/
def execPopc (d a : BitVec 6) (s : State) : Out := .next (unary (fun a => BitVec.ofNat 64 (onesAmong a.toNat 64)) d a s)
/-- ADDSH (R358). -/
def execAddsh (d a b sh : BitVec 6) (s : State) : Out := .next (binary (fun a b => a + b <<< sh.toNat) d a b s)

/-- ADDI (R359). -/
def execAddi (d a : BitVec 6) (i : BitVec 12) (s : State) : Out := .next (unary (fun a => a + i.signExtend 64) d a s)
/-- ANDI (R359). -/
def execAndi (d a : BitVec 6) (i : BitVec 12) (s : State) : Out := .next (unary (fun a => a &&& i.signExtend 64) d a s)
/-- ORI (R359). -/
def execOri (d a : BitVec 6) (i : BitVec 12) (s : State) : Out := .next (unary (fun a => a ||| i.signExtend 64) d a s)
/-- SLLI (R359). -/
def execSlli (d a sh : BitVec 6) (s : State) : Out := .next (unary (fun a => a <<< sh.toNat) d a s)
/-- SRLI (R359). -/
def execSrli (d a sh : BitVec 6) (s : State) : Out := .next (unary (fun a => a >>> sh.toNat) d a s)
/-- SRAI (R359). -/
def execSrai (d a sh : BitVec 6) (s : State) : Out := .next (unary (fun a => a.sshiftRight sh.toNat) d a s)
/-- LI (R360). -/
def execLi (d : BitVec 6) (i : BitVec 18) (s : State) : Out := .next (s.writeReg d (i.signExtend 64))

/-- Halfword p of a word replaced (R360). -/
def setHalf (v : Word) (p : BitVec 2) (h : BitVec 16) : Word :=
  (v &&& ~~~((0xFFFF : Word) <<< (16 * p.toNat))) ||| (h.setWidth 64 <<< (16 * p.toNat))

/-- LIH (R360). -/
def execLih (d : BitVec 6) (p : BitVec 2) (h : BitVec 16) (s : State) : Out :=
  .next (s.writeReg d (setHalf (s.reg d.toNat) p h))

end Sys2Proof.Machine
end

