-- ==== Sys2Proof/Machine/ScalarMem.lean ====
section
/-! DEFINITION. Machine/ScalarMem.lean: the meanings of the scalar memory instructions, of the tag accesses, of PREF, and of
the instructions that order or move the hart's accesses (R362 to R372, R382 to R385). -/

namespace Sys2Proof.Machine

/-- The address X(A) + SignExt(12, IMM12) (R366). -/
def memAddr (s : State) (a : BitVec 6) (i : BitVec 12) : Word := s.reg a.toNat + i.signExtend 64

/-! ## Loads (R366, R367) -/

/-- A scalar load of n bytes, extended by a function (R366). -/
def loadScalar (ins : Instr) (d a : BitVec 6) (i : BitVec 12) (n : Nat) (ext : Nat → Word) (s : State) : State :=
  inA ins s fun s => accessed ((pieces (memAddr s a i) n).map fun p => p.1) s fun s =>
    match scalarLoad s (memAddr s a i) n with
    | (.error e, s1) => raiseErr s1 1 e
    | (.ok v, s1) => s1.writeReg d (ext v)

/-- Sign extension of the low w bits. -/
def sextN (w v : Nat) : Word := BitVec.ofInt 64 (signExt w v)

/-- LD.b (R366). -/
def execLdB (d a : BitVec 6) (i : BitVec 12) (s : State) : Out := .next (loadScalar (.ldB d a i) d a i 1 (sextN 8) s)
/-- LD.bu (R366). -/
def execLdBu (d a : BitVec 6) (i : BitVec 12) (s : State) : Out := .next (loadScalar (.ldBu d a i) d a i 1 (BitVec.ofNat 64) s)
/-- LD.h (R366). -/
def execLdH (d a : BitVec 6) (i : BitVec 12) (s : State) : Out := .next (loadScalar (.ldH d a i) d a i 2 (sextN 16) s)
/-- LD.hu (R366). -/
def execLdHu (d a : BitVec 6) (i : BitVec 12) (s : State) : Out := .next (loadScalar (.ldHu d a i) d a i 2 (BitVec.ofNat 64) s)
/-- LD.w (R366). -/
def execLdW (d a : BitVec 6) (i : BitVec 12) (s : State) : Out := .next (loadScalar (.ldW d a i) d a i 4 (sextN 32) s)
/-- LD.wu (R366). -/
def execLdWu (d a : BitVec 6) (i : BitVec 12) (s : State) : Out := .next (loadScalar (.ldWu d a i) d a i 4 (BitVec.ofNat 64) s)
/-- LD.d (R366). -/
def execLdD (d a : BitVec 6) (i : BitVec 12) (s : State) : Out := .next (loadScalar (.ldD d a i) d a i 8 (BitVec.ofNat 64) s)

/-! ## Stores (R256, R368) -/

/-- Issue a store: it joins the unresolved stores and the stream moves on; its resolution follows. While sixteen are
unresolved it waits (R256). -/
def pushStore (p : PStore) (s : State) : State :=
  if 16 ≤ s.h.stores.length then resolveSome s
  else
  let h := { s.h with stores := s.h.stores ++ [{ p with seq := s.h.storeSeq, pc := s.cur.pc, strip := s.h.strip, rm := s.h.rm }]
                      storeSeq := s.h.storeSeq + 1 }
  ({ s with h := h } : State).advance

/-- A scalar store or TAGW as it issues: TYPE, address, data and element bits (R258). -/
def scalarEntry (kind : Nat) (va data : Word) (ew : Nat) : PStore :=
  { kind := kind, base := va, pc := 0, data := data, ew := ew, n := 1, src := none, index := none, mask := 0, seq := 0, strip := 0
    past := 0, rm := 0 }

/-- A scalar store of 2^k bytes (R366, R368). It issues behind unresolved stores to its lines; its resolution waits for theirs
(R256, R455). -/
def storeScalar (ins : Instr) (d a : BitVec 6) (i : BitVec 12) (k : Nat) (s : State) : State :=
  inA ins s fun s => confirmed s fun s =>
    let va := memAddr s a i
    let p := scalarEntry k va (BitVec.ofNat 64 ((s.reg d.toNat).toNat % 2 ^ (8 * 2 ^ k))) (8 * 2 ^ k)
    notFull s 2 va (pushStore p)

/-- ST.b (R366). -/
def execStB (d a : BitVec 6) (i : BitVec 12) (s : State) : Out := .next (storeScalar (.stB d a i) d a i 0 s)
/-- ST.h (R366). -/
def execStH (d a : BitVec 6) (i : BitVec 12) (s : State) : Out := .next (storeScalar (.stH d a i) d a i 1 s)
/-- ST.w (R366). -/
def execStW (d a : BitVec 6) (i : BitVec 12) (s : State) : Out := .next (storeScalar (.stW d a i) d a i 2 s)
/-- ST.d (R366). -/
def execStD (d a : BitVec 6) (i : BitVec 12) (s : State) : Out := .next (storeScalar (.stD d a i) d a i 3 s)

/-! ## The scratchpad (R369) -/

/-- A scratchpad access of n bytes at an offset that must lie in the hart's share (R144, R369). -/
def inShare (s : State) (off : Word) (n : Nat) (k : State → State) : State :=
  if s.h.spOk off.toNat n then k s else raise s causeLSRANGE 12 0 off

/-- LDL (R369). -/
def execLdl (d a : BitVec 6) (i : BitVec 12) (s : State) : Out :=
  .next (inA (.ldl d a i) s fun s =>
    let off := memAddr s a i
    inShare s off 8 fun s =>
      match spReadPieces s.h (spPieces off.toNat 8) with
      | none => raise s causePOISONED 12 0 off
      | some v => s.writeReg d (BitVec.ofNat 64 v))

/-- STL (R369). -/
def execStl (d a : BitVec 6) (i : BitVec 12) (s : State) : Out :=
  .next (inA (.stl d a i) s fun s => confirmed s fun s =>
    let off := memAddr s a i
    inShare s off 8 fun s =>
      ({ s with h := spWritePieces (spPieces off.toNat 8) (s.reg d.toNat).toNat s.h } : State).advance)

/-! ## Tags and PREF (R370 to R372) -/

/-- TAGR (R370). -/
def execTagr (d a : BitVec 6) (i : BitVec 12) (s : State) : Out :=
  .next (inA (.tagr d a i) s fun s => accessed [memAddr s a i] s fun s =>
    match tagLoad s (memAddr s a i) with
    | (.error e, s1) => raiseErr s1 11 e
    | (.ok t, s1) => s1.writeReg d (t.setWidth 64))

/-- TAGW (R371). -/
def execTagw (d a : BitVec 6) (i : BitVec 12) (s : State) : Out :=
  .next (inA (.tagw d a i) s fun s => confirmed s fun s =>
    let va := memAddr s a i
    let v := s.reg d.toNat
    if !fmtDefined (v.toNat % 32) then raise s causeILLEGAL_FMT 11 0 (BitVec.ofNat 64 (v.toNat % 32))
    else notFull s 11 va (pushStore (scalarEntry 7 va v 32)))

/-- Bring a line nearer: nothing that an access returns changes, and a PREF that would fault, or one to host or peer memory,
is dropped (R372). -/
def prefetch (s : State) (va : Word) : State :=
  match s.reachH va .read with
  | (.error _, s1) => s1
  | (.ok x, s1) =>
    match regionOf s1 x.pa with
    | .host _ | .peer _ _ | .hole => s1
    | _ => (readLine s1 x.pa (pteKEY x.leaf) (pteLFMT x.leaf) s.h.who s.h.noL1).2

/-- PREF (R372). -/
def execPref (a : BitVec 6) (i : BitVec 12) (s : State) : Out :=
  .next (inA (.pref a i) s fun s => (prefetch s (memAddr s a i)).advance)

/-! ## Order (R223, R224, R382, R383) -/

/-- SDRAIN: it waits in RUN, and a recorded fault is taken before it (R382). -/
def execSdrain (s : State) : Out := .next (inA .sdrain s fun s => confirmed s fun s => drained s id State.advance)

/-- A FENCE: every earlier access has been performed at every scope, stores resolved (R383). -/
def fence (ins : Instr) (s : State) (k : State → State) : State :=
  inA ins s fun s => confirmed s fun s => drained s id fun s => (k s).advance

/-- FENCE.sv (R383). -/
def execFenceSv (c : BitVec 3) (s : State) : Out := .next (fence (.fenceSv c) s id)
/-- FENCE.vs (R383). -/
def execFenceVs (c : BitVec 3) (s : State) : Out := .next (fence (.fenceVs c) s id)
/-- FENCE.vv (R383). -/
def execFenceVv (c : BitVec 3) (s : State) : Out := .next (fence (.fenceVv c) s id)

/-- The hart's loop buffers may no longer be entered without reading memory (R233, R347). -/
def refetch (h : Hart) : Hart := { h with a := { h.a with filled := false }, x := { h.x with filled := false } }

/-- FENCE.all, which governs block fetch too (R233, R347, R383). -/
def execFenceAll (c : BitVec 3) (s : State) : Out := .next (fence (.fenceAll c) s fun s => { s with h := refetch s.h })

/-! ## LSPLIT (R145, R384) -/

/-- The lines below the new share that stood in banks given up, from split k to split k' (R143). -/
def lostLines (k k' : Nat) : List Nat := (List.range (512 * k')).filter fun j => decide (32 * k' ≤ j % (32 * k))

/-- The scratchpad after a move of the boundary. What it gains reads zero with VC UNINIT; what stood in banks that it gives up
is lost, and the offsets left of it hold free values, numbered from a draw (R143, R145, log 133). -/
def moveShare (k : BitVec 4) (d : Nat) (h : Hart) : Hart :=
  let old := h.share
  let h1 := { h with lsplit := k }
  let new := h1.share
  if new ≤ old then
    let h2 := { h1 with
      sp := h1.sp.filter fun c => decide (c.1 < new), spTag := h1.spTag.filter fun c => decide (c.1 < new / 64) }
    (lostLines h.lsplit.toNat k.toNat).foldl (fun h j =>
      h.setSpLine (64 * j) (Config.freeNat (d + 2 * j) % 2 ^ 512) (BitVec.ofNat 32 (Config.freeNat (d + 2 * j + 1) % 2 ^ 25))) h2
  else if h1.spDef = resetTag then h1
  else (List.range ((new - old) / 64)).foldl (fun h j => h.setSpLine (old + 64 * j) 0 resetTag) h1

/-- Move the boundary to split k. -/
def moveSplit (k : BitVec 4) (s : State) : State :=
  if k = s.h.lsplit then s
  else
    let s1 := if s.h.lsplit < k then dropL1 s s.h.id.tower s.h.id.core else s
    { s1 with h := moveShare k s1.draws s1.h, draws := s1.draws + 1024 * k.toNat }

/-- LSPLIT: every earlier access is performed or resolved first (R384). -/
def execLsplit (k : BitVec 4) (s : State) : Out :=
  .next (inA (.lsplit k) s fun s =>
    if !s.h.joined || decide (12 < k.toNat) then illegalInstr s (.lsplit k)
    else confirmed s fun s => drained s id fun s => (moveSplit k s).advance)

end Sys2Proof.Machine
end

