-- ==== Sys2Proof/Machine/VectorMem.lean ====
section
/-! DEFINITION. Machine/VectorMem.lean: the meanings of the vector memory instructions: loads into and stores from the data
queues, the scratchpad forms, and the register save (R362 to R365, R373 to R380, R386). -/

namespace Sys2Proof.Machine

/-- Bits of an EW code (R363). -/
def ewBits (e : BitVec 3) : Nat := 4 * 2 ^ e.toNat

/-- An address or stride that is not a multiple of the element size (R363). -/
def misaligned (ew : Nat) (a : Word) : Bool := decide (8 * a.toNat % ew ≠ 0)

/-- The count n of R362. -/
def elemCount (h : Hart) (ew : Nat) : Nat := Nat.min h.a.vl.toNat (h.bits / ew)

/-- Body word at which a stream stands. -/
def Stream.wordAt (t : Stream) : Nat := match t.pos with | .word w => w | _ => 0

/-- Entries of a queue that the A-stream sees (R126). -/
def DQueue.seen (q : DQueue) : Nat := q.entries.length - q.unseen

/-- The issuing stream waits on a full or empty queue (R123). -/
def qblock (s : State) : State := s.stall .qblock .none

/-- An A-stream instruction that may use a queue: not in a handler (R265). -/
def queueUse (i : Instr) (s : State) (k : State → State) : State := inA i s fun s => noHandler i s k

/-! ## Reservation (R124, R254) -/

/-- The sequence number of the entry that a load into a queue takes: the reserved entry that it refills, or the tail. None:
the queue is full. -/
def takeEntry (h : Hart) (q : Nat) : Option (BitVec 32 × Bool) :=
  match h.refill with
  | some (r, seq, _) => if r = q then some (seq, true)
    else if qCapacity q ≤ (h.queue q).entries.length then none
    else some (qTail (h.queue q).head (h.queue q).entries.length, false)
  | none =>
    if qCapacity q ≤ (h.queue q).entries.length then none
    else some (qTail (h.queue q).head (h.queue q).entries.length, false)

/-- Reserve the entry, pending, with the format that it takes if it becomes POISON; the index vector of a VLDX is held in its
place until the data arrive (R254, R479). -/
def reserveEntry (q : Nat) (seq : BitVec 32) (refills : Bool) (idx : Option VReg) (f : BitVec 5) (h : Hart) : Hart :=
  let d := h.queue q
  let e : QEntry := ⟨idx.getD VReg.reset, true, 0, f⟩
  if refills then { h with refill := none }.setQueue q { d with entries := listSet d.entries (seq - d.head).toNat e }
  else h.setQueue q { d with entries := d.entries ++ [e] }

/-- A load that faults at issue, with every older load confirmed, keeps its reservation (R254). -/
def reservedFault (q : Nat) (seq : BitVec 32) (idx : Option VReg) (code acc level : Nat) (tval : Word) (s : State) : State :=
  raise { s with h := { s.h with refill := some (q, seq, idx) } } code acc level tval

/-! ## Loads (R374 to R376) -/

/-- A vector load at issue: its form, queue and operands. -/
structure LoadOp where
  instr  : Instr
  q      : Nat
  form   : LoadForm
  ff     : Bool
  ew     : Nat
  n      : Nat
  base   : Word
  stride : Word
  mask   : MaskBits

/-- The format that the entry of a load takes if it becomes POISON (R479). -/
def LoadOp.poisons (o : LoadOp) (s : State) : BitVec 5 :=
  match o.form with | .explicit f => if fmtDefined f.toNat then f else s.h.a.vfmt | _ => s.h.a.vfmt

/-- The pending load of an instruction that issues at the present position of the A-stream (R344, R365). -/
def pendingLoad (o : LoadOp) (seq : BitVec 32) (idx : Option VReg) (t : Stream) : PLoad :=
  { instr := o.instr, queue := o.q, seq := seq, form := o.form, ff := o.ff, ew := o.ew, n := o.n, base := o.base
    stride := o.stride, index := idx, mask := o.mask, vfmt := t.vfmt, els := [], got := none, blk := t.blk, w := t.wordAt
    tn := t.n, k := t.k, trip := t.trip, last := t.last, regs := t.regs, kept := 0 }

/-- Elements that a first-fault load may deliver: up to the first above 0 that fails at issue (R255, R376). -/
def ffCount (n : Nat) (bads : List (Nat × Err)) : Nat := bads.foldl (fun m b => if 0 < b.1 then Nat.min m b.1 else m) n

/-- A load fails as it issues: it joins the loads in flight as one whose check has failed, so that the cause is taken once
every older one is confirmed, and is dropped with the load if an older one fails (R253, R254, R365). -/
def failIssue (p : PLoad) (code level : Nat) (tval : Word) (s : State) : State :=
  let g : Arrival := ⟨VReg.reset, 0, p.n, some (code, level, tval)⟩
  takeTrap { s with h := { s.h with loads := s.h.loads ++ [{ p with got := some g }] } } ⟨false, code, p.acc, level, tval⟩

/-- The elements of an access, in their order, with the translations of those that passed. -/
def withXlats : List (Nat × Nat) → List ElemAt → List (Nat × Nat × Xlat)
  | [], _ => []
  | _ :: _, [] => []
  | (i, ba) :: es, o :: os => if i = o.i then (i, ba, o.x) :: withXlats es os else withXlats es (o :: os)

/-- Issue a load whose entry is settled: every element is translated and checked before the next instruction issues, and the
lines are on their way (R254, R374). -/
def issueLoad (o : LoadOp) (seq : BitVec 32) (refills : Bool) (idx : Option VReg) (s : State) : State :=
  let p := pendingLoad o seq idx s.h.a
  let s1 : State := { s with h := reserveEntry o.q seq refills idx (o.poisons s) s.h }
  let (oks, bads, s2) := reachElems .read o.ew (loadEls p) s1
  let fatal := if o.ff then bads.filter fun b => b.1 == 0 else bads
  match fatal with
  | b :: _ => failIssue p b.2.cause b.2.level b.2.va s2
  | [] =>
    let n := if o.ff then ffCount o.n bads else o.n
    let els := (withXlats (loadEls p) oks).filter fun e => !o.ff || decide (e.1 < n)
    ({ s2 with h := { s2.h with loads := s2.h.loads ++ [{ p with n := n, els := els }] } } : State).advance

/-- Addresses of the elements of an access. -/
def vasOf (es : List (Nat × Nat)) : List Word := es.map fun e => BitVec.ofNat 64 (e.2 / 8)

/-- A load without an index: it waits for room in its queue (R124, R374). -/
def loadPlain (o : LoadOp) (s : State) : State :=
  match takeEntry s.h o.q with
  | none => qblock s
  | some (seq, refills) => issueLoad o seq refills none s

/-- The same once the earlier stores to its lines are resolved (R256). -/
def loadAt (o : LoadOp) (s : State) : State := accessed (vasOf (loadEls (pendingLoad o 0 none s.h.a))) s (loadPlain o)

/-- Go on once the length that an unconfirmed first-fault load may shorten is known (R376). -/
def lengthKnown (s : State) (k : State → State) : State := if s.h.loads.any fun p => p.ff then confirmed s k else k s

/-- The cause that a load's registers and fields alone give: ALIGN, or a reserved format code (R363, R375, log 60). -/
def loadCause (o : LoadOp) : Option (Nat × Word) :=
  if misaligned o.ew o.base || (o.form == .strided && !o.ff && misaligned o.ew o.stride) then some (causeALIGN, o.base)
  else match o.form with
    | .explicit f => if fmtDefined f.toNat then none else some (causeILLEGAL_FMT, f.setWidth 64)
    | _ => none

/-- VLD or VLDFF with its operands: a load that fails has taken its entry (R254, R363, R374, R375). -/
def loadChecked (o : LoadOp) (s : State) : State :=
  match loadCause o with
  | none => loadAt o s
  | some (c, v) => match takeEntry s.h o.q with
    | none => qblock s
    | some (seq, refills) =>
      failIssue (pendingLoad o seq none s.h.a) c 0 v { s with h := reserveEntry o.q seq refills none (o.poisons s) s.h }

/-- VLD or VLDFF, its operands read from the state that it issues in. -/
def vectorLoad (i : Instr) (o : State → LoadOp) (s : State) : State :=
  queueUse i s fun s => lengthKnown s fun s => loadChecked (o s) s

/-- The operands of an unindexed load. The explicit format limits the count (R374). A first-fault strided load with a stride
that no aligned element 1 has delivers element 0 alone (R255). -/
def loadOp (i : Instr) (q : BitVec 3) (a : BitVec 6) (stride : Word) (e : BitVec 3) (form : LoadForm) (ff : Bool) (s : State) :
    LoadOp :=
  let ew := ewBits e
  let n := elemCount s.h ew
  { instr := i, q := q.toNat, form := form, ff := ff, ew := ew
    n := match form with
      | .explicit f => Nat.min n (elemsIn s.h.bits f.toNat)
      | _ => if ff && form == .strided && misaligned ew stride then Nat.min n 1 else n
    base := s.reg a.toNat, stride := stride, mask := 0 }

/-- VLD unit (R374). -/
def execVldUnit (q : BitVec 3) (a : BitVec 6) (e : BitVec 3) (s : State) : Out :=
  .next (vectorLoad (.vldUnit q a e) (loadOp (.vldUnit q a e) q a 0 e .unit false) s)
/-- VLD strided (R374). -/
def execVldStrided (q : BitVec 3) (a b : BitVec 6) (e : BitVec 3) (s : State) : Out :=
  .next (vectorLoad (.vldStrided q a b e) (fun s => loadOp (.vldStrided q a b e) q a (s.reg b.toNat) e .strided false s) s)
/-- VLD explicit format (R375). -/
def execVldExplicit (q : BitVec 3) (a : BitVec 6) (f : BitVec 5) (e : BitVec 3) (s : State) : Out :=
  .next (vectorLoad (.vldExplicit q a f e) (loadOp (.vldExplicit q a f e) q a 0 e (.explicit f) false) s)
/-- VLDFF unit (R376). -/
def execVldffUnit (q : BitVec 3) (a : BitVec 6) (e : BitVec 3) (s : State) : Out :=
  .next (vectorLoad (.vldffUnit q a e) (loadOp (.vldffUnit q a e) q a 0 e .unit true) s)
/-- VLDFF strided (R376). -/
def execVldffStrided (q : BitVec 3) (a b : BitVec 6) (e : BitVec 3) (s : State) : Out :=
  .next (vectorLoad (.vldffStrided q a b e) (fun s => loadOp (.vldffStrided q a b e) q a (s.reg b.toNat) e .strided true s) s)

/-! ## Indexed accesses (R374, R377) -/

/-- The cause of an index entry, if it has one (R374). -/
def indexCause (x : VReg) : Option Nat :=
  if x.vc = .uninit then none
  else if !indexFmt x.fmt.toNat then some causeFMTSIZE
  else if vcBad x.vc then some causePOISONED
  else none

/-- Elements of a register's format in the hart's registers. -/
def regCount (h : Hart) (x : VReg) : Nat := elemsIn h.bits x.fmt.toNat

/-- The oldest entry that the A-stream may pop. -/
def headEntry (h : Hart) (q : Nat) : Option VReg :=
  let d := h.queue q
  match d.entries with
  | e :: _ => if d.seen = 0 then none else some e.reg
  | [] => none

/-- Pop the oldest entry for the A-stream: the effect takes place at issue (R126). -/
def popEntry (q : Nat) (h : Hart) : Hart :=
  let d := h.queue q
  h.setQueue q { d with head := d.head + 1, entries := d.entries.drop 1 }

/-- The index of a VLDX: the one held with its reservation, or the head of its index queue (R254). -/
def gatherIndex (h : Hart) (q iq : Nat) : Option (VReg × Bool) :=
  match h.refill with
  | some (r, seq, held) =>
    if r = q then
      match held with
      | some x => some (x, true)
      | none => (listAt (h.queue q).entries (seq - (h.queue q).head).toNat).map fun e => (e.reg, true)
    else (headEntry h iq).map fun x => (x, false)
  | none => (headEntry h iq).map fun x => (x, false)

/-- The cause that a gather's base or its index entry gives (R363, R374). -/
def gatherCause (o : LoadOp) (x : VReg) : Option Nat := if misaligned o.ew o.base then some causeALIGN else indexCause x

/-- VLDX with an index entry and a destination entry: one that fails has taken both (R254, R374). -/
def gather (o : LoadOp) (iq : Nat) (s : State) : State :=
  match gatherIndex s.h o.q iq, takeEntry s.h o.q with
  | some (x, held), some (seq, refills) =>
    let p : LoadOp := { o with n := Nat.min o.n (regCount s.h x) }
    let pop := fun (s : State) => if held then s else ({ s with h := popEntry iq s.h } : State)
    match gatherCause o x with
    | some c =>
      let s1 := pop s
      failIssue (pendingLoad p seq (some x) s.h.a) c 0 o.base
        { s1 with h := reserveEntry o.q seq refills (some x) (o.poisons s) s1.h }
    | none => accessed (vasOf (loadEls (pendingLoad p seq (some x) s.h.a))) s fun s => issueLoad p seq refills (some x) (pop s)
  | _, _ => qblock s

/-- The operands of a VLDX. -/
def gatherOp (q : BitVec 3) (a : BitVec 6) (x : BitVec 1) (e m : BitVec 3) (s : State) : LoadOp :=
  { loadOp (.vldx q a x e m) q a 0 e .gather false s with mask := s.h.mask m.toNat }

/-- VLDX (R374). -/
def execVldx (q : BitVec 3) (a : BitVec 6) (x : BitVec 1) (e m : BitVec 3) (s : State) : Out :=
  .next (queueUse (.vldx q a x e m) s fun s => lengthKnown s fun s => gather (gatherOp q a x e m s) (6 + x.toNat) s)

/-! ## Stores (R377, R378) -/

/-- A vector store whose entries stand at the heads of some queues: it raises LOGFULL before any effect, and takes its entries; its
resolution waits for earlier stores to its lines. One without an active element is resolved as it issues (R256, R284, R386). -/
def storeIssue (p : PStore) (acc : Nat) (qs : List Nat) (s : State) : State :=
  notFull s acc p.base fun s =>
    let t : State := { s with h := qs.foldl (fun h q => popEntry q h) s.h }
    match storeEls p with
    | [] => ({ t with h := { t.h with storeSeq := t.h.storeSeq + 1 } } : State).advance
    | _ :: _ => if 16 ≤ s.h.stores.length then resolveSome s else pushStore p t

/-- A vector store as it issues. -/
def vectorEntry (kind : Nat) (base stride : Word) (ew n : Nat) (src : VReg) (idx : Option VReg) (mask : MaskBits) : PStore :=
  { kind := kind, base := base, pc := 0, data := stride, ew := ew, n := n, src := some src, index := idx, mask := mask
    seq := 0, strip := 0, past := 0, rm := 0 }

/-- VST of one of its forms (R363, R377). -/
def vectorStoreIssue (i : Instr) (q : BitVec 3) (a : BitVec 6) (stride : Word) (e : BitVec 3) (kind : Nat) (s : State) : State :=
  queueUse i s fun s => confirmed s fun s =>
    let ew := ewBits e
    let base := s.reg a.toNat
    if misaligned ew base || misaligned ew stride then raise s causeALIGN 6 0 base
    else match headEntry s.h q.toNat with
      | none => qblock s
      | some r => storeIssue (vectorEntry kind base stride ew (elemCount s.h ew) r none 0) 6 [q.toNat] s

/-- VST unit (R377). -/
def execVstUnit (q : BitVec 3) (a : BitVec 6) (e : BitVec 3) (s : State) : Out :=
  .next (vectorStoreIssue (.vstUnit q a e) q a 0 e 4 s)
/-- VST strided (R377). -/
def execVstStrided (q : BitVec 3) (a b : BitVec 6) (e : BitVec 3) (s : State) : Out :=
  .next (vectorStoreIssue (.vstStrided q a b e) q a (s.reg b.toNat) e 5 s)

/-- The other of q6 and q7. -/
def otherQueue (q : Nat) : Nat := 13 - q

/-- VSTX (R377): the index is checked before either entry is popped. -/
def execVstx (q : BitVec 3) (a : BitVec 6) (e m : BitVec 3) (s : State) : Out :=
  .next (queueUse (.vstx q a e m) s fun s => confirmed s fun s =>
    let ew := ewBits e
    let base := s.reg a.toNat
    let iq := otherQueue q.toNat
    if misaligned ew base then raise s causeALIGN 7 0 base
    else match headEntry s.h q.toNat, headEntry s.h iq with
      | some r, some x =>
        match indexCause x with
        | some c => raise s c 7 0 base
        | none =>
          storeIssue (vectorEntry 6 base 0 ew (Nat.min (elemCount s.h ew) (regCount s.h x)) r (some x) (s.h.mask m.toNat)) 7
            [q.toNat, iq] s
      | _, _ => qblock s)

/-! ## The scratchpad (R379) -/

/-- Bytes that n elements take. -/
def bytesOf (ew n : Nat) : Nat := (ew * n + 7) / 8

/-- Elements of a scratchpad access, with offsets in bits. -/
def spEls (off : Word) (ew n : Nat) : List (Nat × Nat) := (List.range n).map fun i => (i, 8 * off.toNat + ew * i)

/-- VLDL into its entry (R379). -/
def spLoad (q ew n : Nat) (off : Word) (seq : BitVec 32) (refills : Bool) (s : State) : State :=
  let s1 : State := { s with h := reserveEntry q seq refills none s.h.a.vfmt s.h }
  if n ≠ 0 ∧ !s1.h.spOk off.toNat (bytesOf ew n) then reservedFault q seq none causeLSRANGE 12 0 off s1
  else
    let got := spGot s1.h ew (spEls off ew n)
    let f := entryFmt none s1.h.a.vfmt.toNat got
    let hrot := entryHrot got
    match tagCause ew f hrot got with
    | some (c, v) => reservedFault q seq none c 12 0 v s1
    | none =>
      let (r, flags) := if n = 0 then (emptyEntry s1.h.a.vfmt.toNat, 0) else fillEntry s1.h.bits f s1.h.rm hrot got
      ({ s1 with h := s1.h.setQueue q (fillAt (s1.h.queue q) seq r flags) } : State).advance

/-- VLDL (R379). -/
def execVldl (q : BitVec 3) (a : BitVec 6) (e : BitVec 3) (s : State) : Out :=
  .next (queueUse (.vldl q a e) s fun s => confirmed s fun s =>
    let ew := ewBits e
    let off := s.reg a.toNat
    match takeEntry s.h q.toNat with
    | none => qblock s
    | some (seq, refills) =>
      if misaligned ew off then
        reservedFault q.toNat seq none causeALIGN 12 0 off { s with h := reserveEntry q.toNat seq refills none s.h.a.vfmt s.h }
      else spLoad q.toNat ew (elemCount s.h ew) off seq refills s)

/-- VSTL of a popped register (R379). -/
def spStore (q ew n : Nat) (off : Word) (r : VReg) (s : State) : State :=
  let els := spEls off ew n
  let h := popEntry q s.h
  if elemSize r.fmt.toNat ≠ ew then raise s causeFMTSIZE 12 0 off
  else match spStoreLines r ew (memRm h.rm) els ((els.map fun e => e.2 / 512).dedup) h with
    | .error (c, v) => raise s c 12 0 (BitVec.ofNat 64 v)
    | .ok h1 => ({ s with h := h1 } : State).advance

/-- VSTL (R379). -/
def execVstl (q : BitVec 3) (a : BitVec 6) (e : BitVec 3) (s : State) : Out :=
  .next (queueUse (.vstl q a e) s fun s => confirmed s fun s =>
    let ew := ewBits e
    let off := s.reg a.toNat
    let n := elemCount s.h ew
    if misaligned ew off then raise s causeALIGN 12 0 off
    else match headEntry s.h q.toNat with
      | none => qblock s
      | some r =>
        if n = 0 then ({ s with h := popEntry q.toNat s.h } : State).advance
        else inShare s off (bytesOf ew n) (spStore q.toNat ew n off r))

/-! ## Register save (R380) -/

/-- Lines of a register's slot. -/
def slotLines (h : Hart) : Nat := h.bits / 512

/-- Move registers one after another: the count moved, and whether every slot lay in the share. -/
def moveRegs (one : Nat → Nat → Hart → Hart) (off f : Nat) : Nat → Nat → Hart → Nat × Bool × Hart
  | 0, k, h => (k, true, h)
  | n + 1, k, h =>
    let o := off + k * (64 * slotLines h)
    if h.spOk o (64 * slotLines h) then moveRegs one off f n (k + 1) (one (f + k) o h) else (k, false, h)

/-- VSPILL and VFILL: C − 1 is 4 c + k. They wait for an X-stream that is IDLE or STOPPED, as not begun, and go on from the
register that APROG names; a stop during that wait loses APROG, and a fault after it keeps the count moved (R269, R380). -/
def saveRegs (i : Instr) (c : BitVec 3) (a : BitVec 6) (f : BitVec 5) (k : BitVec 2) (one : Nat → Nat → Hart → Hart)
    (s : State) : State :=
  inA i s fun s =>
    let count := 4 * c.toNat + k.toNat + 1
    let off := s.reg a.toNat
    if 32 < f.toNat + count then illegalInstr s i
    else confirmed s fun s =>
      if off.toNat % 64 ≠ 0 then raise s causeALIGN 12 0 off
      else if s.h.x.st ≠ .idle ∧ s.h.x.st ≠ .stopped then waitAgain s
      else
        let (moved, good, h) := moveRegs one off.toNat f.toNat (count - s.h.aprog) s.h.aprog s.h
        let s1 : State := { s with h := { h with a := { h.a with st := .run, wait := .none }, aprog := if good then 0 else moved } }
        if good then s1.advance
        else raise s1 causeLSRANGE 12 0 (off + BitVec.ofNat 64 (moved * (64 * slotLines h)))

/-- VSPILL (R380). -/
def execVspill (c : BitVec 3) (a : BitVec 6) (f : BitVec 5) (k : BitVec 2) (s : State) : Out :=
  .next (saveRegs (.vspill c a f k) c a f k (fun n o h => spillLines (h.vreg n) o (slotLines h) 0 h) s)
/-- VFILL (R380). -/
def execVfill (c : BitVec 3) (a : BitVec 6) (f : BitVec 5) (k : BitVec 2) (s : State) : Out :=
  .next (saveRegs (.vfill c a f k) c a f k (fun n o h => h.setVreg n (fillFrom h o (slotLines h))) s)

end Sys2Proof.Machine
end

