-- ==== Sys2Proof/Machine/Queues.lean ====
section
/-! DEFINITION. Machine/Queues.lean: the meanings of the queue instructions (R122 to R126, R381). A form that names a queue
of the other stream is a reserved operand (R373). -/

namespace Sys2Proof.Machine

/-- A queue instruction: in a handler none may use a queue (R265). -/
def queueInstr (i : Instr) (s : State) (inAStream inXStream : State → State) : State :=
  if s.onX then inXStream s else noHandler i s fun s => confirmed s inAStream

/-- A reserved operand in this stream. -/
def reserved (i : Instr) (s : State) : State := illegalInstr s i

/-! ## Data queues -/

/-- The entry that QPUSH splats (R381). -/
def splatEntry (h : Hart) (v : Word) : VReg :=
  let f := h.a.vfmt.toNat
  regOfCodes f (List.replicate (Nat.min h.a.vl.toNat (elemsIn h.bits f)) v.toNat)

/-- QPUSH in the A-stream (R381). -/
def execQpushA (q : BitVec 3) (a : BitVec 6) (s : State) : Out :=
  .next (queueInstr (.qpushA q a) s (fun s =>
    let d := s.h.queue q.toNat
    if qCapacity q.toNat ≤ d.entries.length then qblock s
    else
      let e : QEntry := ⟨splatEntry s.h (s.reg a.toNat), false, 0, 0⟩
      ({ s with h := s.h.setQueue q.toNat { d with entries := d.entries ++ [e] } } : State).advance)
    (reserved (.qpushA q a)))

/-- QPOP in the A-stream: the entry is discarded (R381). -/
def execQpopA (q : BitVec 3) (s : State) : Out :=
  .next (queueInstr (.qpopA q) s (fun s =>
    match headEntry s.h q.toNat with
    | none => qblock s
    | some _ => ({ s with h := popEntry q.toNat s.h } : State).advance)
    (reserved (.qpopA q)))

/-- QPUSH in the X-stream (R381). -/
def execQpushX (q : BitVec 3) (v : BitVec 5) (s : State) : Out :=
  .next (queueInstr (.qpushX q v) s (reserved (.qpushX q v)) (issueX (.qpushX q v) 0 0))

/-- QPOP in the X-stream (R381). -/
def execQpopX (q : BitVec 3) (v : BitVec 5) (s : State) : Out :=
  .next (queueInstr (.qpopX q v) s (reserved (.qpopX q v)) (issueX (.qpopX q v) 0 0))

/-- QPOP in the X-stream that discards (R381). -/
def execQpopXDiscard (q : BitVec 3) (s : State) : Out :=
  .next (queueInstr (.qpopXDiscard q) s (reserved (.qpopXDiscard q)) (issueX (.qpopXDiscard q) 0 0))

/-! ## Scalar queues -/

/-- A scalar queue instruction of the X-stream with its queue effects, which it commits when it retires: at once if nothing
older has not retired (R126). -/
def scalarEffects (pops pushes : List (Nat × Nat)) (s : State) : State :=
  let e : XEntry := { op := none, admitted := true, scalars := [], pops := pops, pushes := pushes }
  match s.h.xl with
  | [] => { s with h := commitEntry e s.h }
  | _ :: _ => { s with h := { s.h with xl := s.h.xl ++ [e] } }

/-- QPUTS (R381). -/
def execQputs (a : BitVec 6) (s : State) : Out :=
  .next (queueInstr (.qputs a) s
    (fun s =>
      if 16 ≤ s.h.qx.entries.length then qblock s
      else ({ s with h := { s.h with qx := { s.h.qx with entries := s.h.qx.entries ++ [s.reg a.toNat] } } } : State).advance)
    (fun s =>
      if 16 ≤ s.h.qa.entries.length then qblock s
      else
        let qa := { s.h.qa with entries := s.h.qa.entries ++ [s.reg a.toNat], unseen := s.h.qa.unseen + 1 }
        (scalarEffects [] [(9, 1)] { s with h := { s.h with qa := qa } }).advance))

/-- QGETS (R381). -/
def execQgets (b : BitVec 6) (s : State) : Out :=
  .next (queueInstr (.qgets b) s
    (fun s =>
      let q := s.h.qa
      match q.entries with
      | [] => qblock s
      | v :: rest =>
        if q.entries.length ≤ q.unseen then qblock s
        else ({ s with h := { s.h with qa := { q with head := q.head + 1, entries := rest } } } : State).writeReg b v)
    (fun s =>
      match listAt s.h.qx.entries s.h.qx.popped with
      | none => qblock s
      | some v =>
        if s.canWrite then
          let t : State := { s with h := { s.h with qx := { s.h.qx with popped := s.h.qx.popped + 1 } } }
          (scalarEffects [(8, 1)] [] t).writeReg b v
        else s))

/-- The value of QSTAT: entries seen, the pending bit of the head entry, its sequence number (R381). -/
def statWord (count : Nat) (pending : Bool) (head : BitVec 32) : Word :=
  BitVec.ofNat 64 (count % 65536 + (if pending then 65536 else 0) + 2 ^ 32 * head.toNat)

/-- A data queue as a stream sees it (R126, R381). -/
def queueStat (onX : Bool) (d : DQueue) : Word :=
  let skip := if onX then d.popped else 0
  let count := if onX then d.entries.length - d.popped else d.seen
  let pending := match listAt d.entries skip with | some e => e.pending && decide (0 < count) | none => false
  statWord count pending (d.head + BitVec.ofNat 32 skip)

/-- A scalar queue as a stream sees it. -/
def scalarStat (onX : Bool) (q : SQueue) : Word :=
  let skip := if onX then q.popped else 0
  statWord (q.entries.length - (if onX then q.popped else q.unseen)) false (q.head + BitVec.ofNat 32 skip)

/-- QSTAT of q0 to q7 (R381). -/
def execQstatData (q : BitVec 3) (b : BitVec 6) (s : State) : Out :=
  let k := fun (s : State) => s.writeReg b (queueStat s.onX (s.h.queue q.toNat))
  .next (queueInstr (.qstatData q b) s k k)

/-- QSTAT of qx or qa (R381). -/
def execQstatScalar (q : BitVec 1) (b : BitVec 6) (s : State) : Out :=
  let k := fun (s : State) => s.writeReg b (scalarStat s.onX (if q = 0 then s.h.qx else s.h.qa))
  .next (queueInstr (.qstatScalar q b) s k k)

end Sys2Proof.Machine
end

