-- ==== Sys2Proof/Machine/Vector.lean ====
section
/-! DEFINITION. Machine/Vector.lean: the meanings of the vector and mask instructions (R387 to R416). Each but VSETL enters
the VIQ with what it reads at issue (R388); its effect at admission is in Machine/VectorOps.lean. -/

namespace Sys2Proof.Machine

/-- Set vl and vfmt of the X-stream and write the grant (R387). -/
def setLength (d : BitVec 5) (a : BitVec 6) (f : BitVec 5) (s : State) : State :=
  if !fmtDefined f.toNat then raise s causeILLEGAL_FMT 0 0 (f.setWidth 64)
  else if s.canWrite then
    let n := Nat.min (s.reg a.toNat).toNat (vlmax s.h.joined f.toNat)
    ({ s with h := { s.h with x := { s.h.x with vl := BitVec.ofNat 13 n, vfmt := f } } } : State).writeReg (d.setWidth 6)
      (BitVec.ofNat 64 n)
  else s

/-- VSETL with a format (R387). -/
def execVsetl (d : BitVec 5) (a : BitVec 6) (f : BitVec 5) (s : State) : Out :=
  .next (inX (.vsetl d a f) s (setLength d a f))

/-- VSETL that keeps the format (R387). -/
def execVsetlKeep (d : BitVec 5) (a : BitVec 6) (s : State) : Out :=
  .next (inX (.vsetlKeep d a) s fun s => setLength d a s.h.x.vfmt s)

/-- VADD (R394). -/
def execVadd (d : BitVec 5) (a : BitVec 6) (b : BitVec 6) (m : BitVec 3) (r : BitVec 3) (z : BitVec 1) (s : State) : Out :=
  .next (vectorIssue (.vadd d a b m r z) 0 0 s)
/-- VSUB (R394). -/
def execVsub (d : BitVec 5) (a : BitVec 6) (b : BitVec 6) (m : BitVec 3) (r : BitVec 3) (z : BitVec 1) (s : State) : Out :=
  .next (vectorIssue (.vsub d a b m r z) 0 0 s)
/-- VMUL (R394). -/
def execVmul (d : BitVec 5) (a : BitVec 6) (b : BitVec 6) (m : BitVec 3) (r : BitVec 3) (z : BitVec 1) (s : State) : Out :=
  .next (vectorIssue (.vmul d a b m r z) 0 0 s)
/-- VFMA (R395). -/
def execVfma (d : BitVec 5) (a : BitVec 6) (b : BitVec 6) (m : BitVec 3) (r : BitVec 3) (z : BitVec 1) (s : State) : Out :=
  .next (vectorIssue (.vfma d a b m r z) 0 0 s)
/-- VFMS (R395). -/
def execVfms (d : BitVec 5) (a : BitVec 6) (b : BitVec 6) (m : BitVec 3) (r : BitVec 3) (z : BitVec 1) (s : State) : Out :=
  .next (vectorIssue (.vfms d a b m r z) 0 0 s)
/-- VMIN (R396). -/
def execVmin (d : BitVec 5) (a : BitVec 6) (b : BitVec 6) (m : BitVec 3) (r : BitVec 3) (z : BitVec 1) (s : State) : Out :=
  .next (vectorIssue (.vmin d a b m r z) 0 0 s)
/-- VMAX (R396). -/
def execVmax (d : BitVec 5) (a : BitVec 6) (b : BitVec 6) (m : BitVec 3) (r : BitVec 3) (z : BitVec 1) (s : State) : Out :=
  .next (vectorIssue (.vmax d a b m r z) 0 0 s)
/-- VABS (R397). -/
def execVabs (d : BitVec 5) (a : BitVec 6) (m : BitVec 3) (z : BitVec 1) (s : State) : Out :=
  .next (vectorIssue (.vabs d a m z) 0 0 s)
/-- VNEG (R397). -/
def execVneg (d : BitVec 5) (a : BitVec 6) (m : BitVec 3) (z : BitVec 1) (s : State) : Out :=
  .next (vectorIssue (.vneg d a m z) 0 0 s)
/-- VDIV (R394). -/
def execVdiv (d : BitVec 5) (a : BitVec 6) (b : BitVec 6) (m : BitVec 3) (r : BitVec 3) (z : BitVec 1) (s : State) : Out :=
  .next (vectorIssue (.vdiv d a b m r z) 0 0 s)
/-- VRCP (R398). -/
def execVrcp (d : BitVec 5) (a : BitVec 6) (m : BitVec 3) (z : BitVec 1) (s : State) : Out :=
  .next (vectorIssue (.vrcp d a m z) 0 0 s)
/-- VRSQRT (R398). -/
def execVrsqrt (d : BitVec 5) (a : BitVec 6) (m : BitVec 3) (z : BitVec 1) (s : State) : Out :=
  .next (vectorIssue (.vrsqrt d a m z) 0 0 s)
/-- VAND (R399). -/
def execVand (d : BitVec 5) (a : BitVec 6) (b : BitVec 6) (m : BitVec 3) (r : BitVec 3) (z : BitVec 1) (s : State) : Out :=
  .next (vectorIssue (.vand d a b m r z) 0 0 s)
/-- VOR (R399). -/
def execVor (d : BitVec 5) (a : BitVec 6) (b : BitVec 6) (m : BitVec 3) (r : BitVec 3) (z : BitVec 1) (s : State) : Out :=
  .next (vectorIssue (.vor d a b m r z) 0 0 s)
/-- VXOR (R399). -/
def execVxor (d : BitVec 5) (a : BitVec 6) (b : BitVec 6) (m : BitVec 3) (r : BitVec 3) (z : BitVec 1) (s : State) : Out :=
  .next (vectorIssue (.vxor d a b m r z) 0 0 s)
/-- VSHL (R400). -/
def execVshl (d : BitVec 5) (a : BitVec 6) (b : BitVec 6) (m : BitVec 3) (r : BitVec 3) (z : BitVec 1) (s : State) : Out :=
  .next (vectorIssue (.vshl d a b m r z) 0 0 s)
/-- VSHR (R400). -/
def execVshr (d : BitVec 5) (a : BitVec 6) (b : BitVec 6) (m : BitVec 3) (r : BitVec 3) (z : BitVec 1) (s : State) : Out :=
  .next (vectorIssue (.vshr d a b m r z) 0 0 s)
/-- VSEL (R402). -/
def execVsel (d : BitVec 5) (a : BitVec 6) (b : BitVec 6) (m : BitVec 3) (r : BitVec 3) (s : State) : Out :=
  .next (vectorIssue (.vsel d a b m r) 0 0 s)
/-- VMOV (R403). -/
def execVmov (d : BitVec 5) (a : BitVec 6) (m : BitVec 3) (z : BitVec 1) (s : State) : Out :=
  .next (vectorIssue (.vmov d a m z) 0 0 s)
/-- VSPLAT (R404). -/
def execVsplat (d : BitVec 5) (a : BitVec 6) (s : State) : Out :=
  .next (vectorIssue (.vsplat d a) (s.reg a.toNat) 0 s)
/-- VEXT (R405). -/
def execVext (d : BitVec 5) (a : BitVec 6) (b : BitVec 6) (s : State) : Out :=
  .next (vectorIssue (.vext d a b) 0 (s.reg b.toNat) s)
/-- VINS (R405). -/
def execVins (d : BitVec 5) (a : BitVec 6) (b : BitVec 6) (s : State) : Out :=
  .next (vectorIssue (.vins d a b) (s.reg a.toNat) (s.reg b.toNat) s)
/-- VREDSUM (R414). -/
def execVredsum (d : BitVec 5) (a : BitVec 6) (m : BitVec 3) (s : State) : Out :=
  .next (vectorIssue (.vredsum d a m) 0 0 s)
/-- VREDMAX (R414). -/
def execVredmax (d : BitVec 5) (a : BitVec 6) (m : BitVec 3) (s : State) : Out :=
  .next (vectorIssue (.vredmax d a m) 0 0 s)
/-- VREDMIN (R414). -/
def execVredmin (d : BitVec 5) (a : BitVec 6) (m : BitVec 3) (s : State) : Out :=
  .next (vectorIssue (.vredmin d a m) 0 0 s)
/-- VCMPEQ (R401). -/
def execVcmpEq (d : BitVec 3) (a : BitVec 6) (b : BitVec 6) (m : BitVec 3) (r : BitVec 3) (z : BitVec 1) (s : State) : Out :=
  .next (vectorIssue (.vcmpEq d a b m r z) 0 0 s)
/-- VCMPNE (R401). -/
def execVcmpNe (d : BitVec 3) (a : BitVec 6) (b : BitVec 6) (m : BitVec 3) (r : BitVec 3) (z : BitVec 1) (s : State) : Out :=
  .next (vectorIssue (.vcmpNe d a b m r z) 0 0 s)
/-- VCMPLT (R401). -/
def execVcmpLt (d : BitVec 3) (a : BitVec 6) (b : BitVec 6) (m : BitVec 3) (r : BitVec 3) (z : BitVec 1) (s : State) : Out :=
  .next (vectorIssue (.vcmpLt d a b m r z) 0 0 s)
/-- VCMPLE (R401). -/
def execVcmpLe (d : BitVec 3) (a : BitVec 6) (b : BitVec 6) (m : BitVec 3) (r : BitVec 3) (z : BitVec 1) (s : State) : Out :=
  .next (vectorIssue (.vcmpLe d a b m r z) 0 0 s)
/-- VCMPGT (R401). -/
def execVcmpGt (d : BitVec 3) (a : BitVec 6) (b : BitVec 6) (m : BitVec 3) (r : BitVec 3) (z : BitVec 1) (s : State) : Out :=
  .next (vectorIssue (.vcmpGt d a b m r z) 0 0 s)
/-- VCMPGE (R401). -/
def execVcmpGe (d : BitVec 3) (a : BitVec 6) (b : BitVec 6) (m : BitVec 3) (r : BitVec 3) (z : BitVec 1) (s : State) : Out :=
  .next (vectorIssue (.vcmpGe d a b m r z) 0 0 s)
/-- VCMPUN (R401). -/
def execVcmpUn (d : BitVec 3) (a : BitVec 6) (b : BitVec 6) (m : BitVec 3) (r : BitVec 3) (z : BitVec 1) (s : State) : Out :=
  .next (vectorIssue (.vcmpUn d a b m r z) 0 0 s)
/-- VCMPOR (R401). -/
def execVcmpOr (d : BitVec 3) (a : BitVec 6) (b : BitVec 6) (m : BitVec 3) (r : BitVec 3) (z : BitVec 1) (s : State) : Out :=
  .next (vectorIssue (.vcmpOr d a b m r z) 0 0 s)
/-- VIOTA (R411). -/
def execViota (d : BitVec 5) (a : BitVec 3) (m : BitVec 3) (z : BitVec 1) (s : State) : Out :=
  .next (vectorIssue (.viota d a m z) 0 0 s)
/-- VSLIDEUP (R412). -/
def execVslideup (d : BitVec 5) (a : BitVec 6) (b : BitVec 6) (m : BitVec 3) (z : BitVec 1) (s : State) : Out :=
  .next (vectorIssue (.vslideup d a b m z) 0 (s.reg b.toNat) s)
/-- VSLIDEDN (R412). -/
def execVslidedn (d : BitVec 5) (a : BitVec 6) (b : BitVec 6) (m : BitVec 3) (z : BitVec 1) (s : State) : Out :=
  .next (vectorIssue (.vslidedn d a b m z) 0 (s.reg b.toNat) s)
/-- VPERM (R413). -/
def execVperm (d : BitVec 5) (a : BitVec 6) (b : BitVec 6) (m : BitVec 3) (r : BitVec 3) (z : BitVec 1) (s : State) : Out :=
  .next (vectorIssue (.vperm d a b m r z) 0 0 s)
/-- MAND (R415). -/
def execMand (d : BitVec 3) (a : BitVec 3) (b : BitVec 3) (s : State) : Out :=
  .next (vectorIssue (.mand d a b) 0 0 s)
/-- MOR (R415). -/
def execMor (d : BitVec 3) (a : BitVec 3) (b : BitVec 3) (s : State) : Out :=
  .next (vectorIssue (.mor d a b) 0 0 s)
/-- MXOR (R415). -/
def execMxor (d : BitVec 3) (a : BitVec 3) (b : BitVec 3) (s : State) : Out :=
  .next (vectorIssue (.mxor d a b) 0 0 s)
/-- MANDN (R415). -/
def execMandn (d : BitVec 3) (a : BitVec 3) (b : BitVec 3) (s : State) : Out :=
  .next (vectorIssue (.mandn d a b) 0 0 s)
/-- MNOT (R415). -/
def execMnot (d : BitVec 3) (a : BitVec 3) (s : State) : Out :=
  .next (vectorIssue (.mnot d a) 0 0 s)
/-- MPOPC (R416). -/
def execMpopc (d : BitVec 5) (a : BitVec 3) (s : State) : Out :=
  .next (vectorIssue (.mpopc d a) 0 0 s)
/-- MFIRST (R416). -/
def execMfirst (d : BitVec 5) (a : BitVec 3) (s : State) : Out :=
  .next (vectorIssue (.mfirst d a) 0 0 s)
/-- VTAG (R406). -/
def execVtag (d : BitVec 5) (a : BitVec 6) (b : BitVec 6) (s : State) : Out :=
  .next (vectorIssue (.vtag d a b) 0 (s.reg b.toNat) s)
/-- VGTAG (R407). -/
def execVgtag (d : BitVec 5) (a : BitVec 5) (b : BitVec 6) (s : State) : Out :=
  .next (vectorIssue (.vgtag d a b) 0 (s.reg b.toNat) s)
/-- VCVT (R408). -/
def execVcvt (d : BitVec 5) (a : BitVec 6) (f : BitVec 5) (m : BitVec 3) (z : BitVec 1) (s : State) : Out :=
  .next (vectorIssue (.vcvt d a f m z) 0 0 s)
/-- VSCALE (R409). -/
def execVscale (d : BitVec 5) (a : BitVec 6) (b : BitVec 6) (m : BitVec 3) (z : BitVec 1) (s : State) : Out :=
  .next (vectorIssue (.vscale d a b m z) 0 (s.reg b.toNat) s)
/-- VUNROT (R410). -/
def execVunrot (d : BitVec 5) (a : BitVec 6) (s : State) : Out :=
  .next (vectorIssue (.vunrot d a) 0 0 s)

end Sys2Proof.Machine
end

