-- ==== Sys2Proof/Machine/Matrix.lean ====
section
/-! DEFINITION. Machine/Matrix.lean: the meanings of the matrix instructions (R417 to R433). Each enters the VIQ once its
leave is held; its effect at admission is in Machine/MatrixOps.lean. -/

namespace Sys2Proof.Machine

/-- MMODE (R421): a nonzero width needs a leave. -/
def execMmode (w : BitVec 3) (s : State) : Out :=
  .next (if !s.onX then illegalStream s (.mmode w)
    else if 4 < w.toNat then illegalInstr s (.mmode w)
    else matrixIssue (.mmode w) none (w != 0) 0 s)

/-- A matrix instruction other than MMODE needs a leave while mk.W is nonzero (R422). -/
def matrixOther (i : Instr) (t : BitVec 2) (sb : Word) (s : State) : State :=
  matrixIssue i (some t.toNat) (s.h.mkW != 0) sb s

/-- MZERO (R427). -/
def execMzero (t : BitVec 2) (r c : BitVec 3) (s : State) : Out := .next (matrixOther (.mzero t r c) t 0 s)

/-- OPADD (R424). -/
def execOpadd (t : BitVec 2) (a b : BitVec 6) (r c : BitVec 3) (s : State) : Out :=
  .next (matrixOther (.opadd t a b r c) t 0 s)

/-- OPSUB (R424). -/
def execOpsub (t : BitVec 2) (a b : BitVec 6) (r c : BitVec 3) (s : State) : Out :=
  .next (matrixOther (.opsub t a b r c) t 0 s)

/-- MRD (R428): the row index is read at issue. -/
def execMrd (t : BitVec 2) (v : BitVec 5) (x : BitVec 6) (c : BitVec 3) (k : BitVec 1) (s : State) : Out :=
  .next (matrixOther (.mrd t v x c k) t (s.reg x.toNat) s)

/-- MWR (R429): the row or column index is read at issue. -/
def execMwr (t : BitVec 2) (a x : BitVec 6) (c : BitVec 3) (k : BitVec 1) (s : State) : Out :=
  .next (matrixOther (.mwr t a x c k) t (s.reg x.toNat) s)

/-- MTR (R428): the column index is read at issue. -/
def execMtr (t : BitVec 2) (v : BitVec 5) (x : BitVec 6) (c : BitVec 3) (k : BitVec 1) (s : State) : Out :=
  .next (matrixOther (.mtr t v x c k) t (s.reg x.toNat) s)

end Sys2Proof.Machine
end

