-- ==== Sys2Proof/Machine/CounterInstrs.lean ====
section
/-! DEFINITION. Machine/CounterInstrs.lean: the meanings of the counter instructions (R436 to R439). -/

namespace Sys2Proof.Machine

/-- A counter operation of the A-stream: its checks come before its release, and a failed one has no effect (R436). One on a
host's counter follows the hart's earlier stores through the same port (R231). -/
def counterInstr (r : Word) (op : COp) (o : BitVec 2) (done : Word → State → State) (s : State) : State :=
  confirmed s fun s =>
    match counterOp s r op with
    | (.error c, s1) => raise s1 c 10 0 r
    | (.ok _, _) => released o s fun s => accessedBy (counterKeys s r) s fun s =>
      match counterOp s r op with
      | (.error c, s1) => raise s1 c 10 0 r
      | (.ok v, s1) => done v s1

/-- CADD (R436). -/
def execCadd (a b : BitVec 6) (o : BitVec 2) (c : BitVec 3) (s : State) : Out :=
  .next (inA (.cadd a b o c) s fun s =>
    counterInstr (s.reg a.toNat) (.add (s.reg b.toNat)) o (fun _ s => s.advance) s)

/-- CXADD (R436). -/
def execCxadd (d a b : BitVec 6) (o : BitVec 2) (c : BitVec 3) (s : State) : Out :=
  .next (inA (.cxadd d a b o c) s fun s =>
    counterInstr (s.reg a.toNat) (.xadd (s.reg b.toNat)) o (fun v s => s.writeReg d v) s)

/-- CRD (R436). -/
def execCrd (d a : BitVec 6) (o : BitVec 2) (c : BitVec 3) (s : State) : Out :=
  .next (inA (.crd d a o c) s fun s => counterInstr (s.reg a.toNat) .read o (fun v s => s.writeReg d v) s)

/-- CTST (R436). -/
def execCtst (d a b : BitVec 6) (o : BitVec 2) (c : BitVec 3) (s : State) : Out :=
  .next (inA (.ctst d a b o c) s fun s =>
    counterInstr (s.reg a.toNat) (.test (s.reg b.toNat)) o (fun v s => s.writeReg d v) s)

/-- CSET (R436). -/
def execCset (d a b : BitVec 6) (c : BitVec 3) (s : State) : Out :=
  .next (inA (.cset d a b c) s fun s => needPriv (.cset d a b c) s fun s =>
    counterInstr (s.reg a.toNat) (.set (s.reg b.toNat)) 0 (fun v s => s.writeReg d v) s)

/-! ## CWAIT (R244 to R247, R438) -/

/-- The A-stream enters WAIT on an instruction that has begun. -/
def waitOn (w : Wait) (s : State) : State := s.setCur { s.cur with st := .wait, wait := w, begun := true }

/-- Register the wait: an immediate status, a wait, or a cause (R245 to R247, R438). -/
def startWait (r t : Word) (d : BitVec 6) (deadline : Nat) (s : State) : State :=
  let bad := fun (s : State) => raise s causeCOUNTER 10 0 r
  let now := fun (s : State) => s.writeReg d 0
  let hold := waitOn (.cwait r t d.toNat deadline)
  match refOf s r with
  | .bad => bad s
  | .near k =>
    let p := s.h.nearIdx k
    if !nearOk s s.h p then bad s
    else if satisfied (nearVal s (nearKey s.h.id.tower s.h.id.core p)) t then now s else hold s
  | .slot tw n =>
    if !groupOk s tw n s.h.priv s.h.asid.toNat then bad s
    else match registerWaiter s tw n t (.stream s.h.id) with
      | (.now _, s1) => now s1
      | (.queued, s1) => hold s1
      | (.full, s1) => waitOn (.cwaitFull r t d.toNat deadline (s1.cycle + 4096)) s1
      | (.bad, s1) => bad s1
  | .host _ pa => if satisfied (BitVec.ofNat 64 (readMem s.mem pa 8)) t then now s else hold s
  | .peer n =>
    if !reachable s n then hold s
    else
      let (k, s1) := draw s
      if Config.peerGrants k r then hold (peerWait s1 n r t (.stream s1.h.id)) else bad s1

/-- CWAIT (R438): one that was taken at a park or freeze ends with status 3; one that a trap interrupted waits again with a
fresh timeout. -/
def execCwait (d a b : BitVec 6) (c : BitVec 3) (s : State) : Out :=
  .next (inA (.cwait d a b c) s fun s => confirmed s fun s =>
    if s.cur.begun && s.cur.wait == .none then s.writeReg d 3
    else
      let timeout := (s.reg d.toNat).toNat
      accessedBy (counterKeys s (s.reg a.toNat)) s fun s =>
        startWait (s.reg a.toNat) (s.reg b.toNat) d (if timeout = 0 then 0 else s.cycle + timeout) s)

/-- STRIP (R95, R439). -/
def execStrip (d : BitVec 6) (s : State) : Out :=
  .next (inA (.strip d) s fun s => confirmed s fun s => accessedBy (counterKeys s (s.entryOf s.h).recd.claim) s fun s =>
    match claimStrip s with
    | (.error c, s1) => raise s1 c 10 0 (s1.entryOf s1.h).recd.claim
    | (.ok v, s1) => s1.writeReg d v)

end Sys2Proof.Machine
end

