-- ==== Sys2Proof/Machine/Atomics.lean ====
section
/-! DEFINITION. Machine/Atomics.lean: the meanings of ATOM, CAS and VATOM (R440, R441). -/

namespace Sys2Proof.Machine

/-- Bits of the W field (R440). -/
def atomBits (w : BitVec 1) : Nat := if w = 1 then 64 else 32

/-- The atomic at an address that translates, once the release is made and no write guard stands (R212, R440). -/
def performAtomic (op : AtomOp) (d : BitVec 6) (bits : Nat) (va v expected : Word) (s : State) : State :=
  if guarded s va then s
  else match s.reachH va .write with
    | (.error e, s1) => raiseErr s1 3 e
    | (.ok x, s1) =>
      match atomAt s1 (s1.h.logWho 0) va x op bits (v.toNat % 2 ^ bits) (expected.toNat % 2 ^ bits) with
      | (.error c, s2) => raise s2 c 3 0 va
      | (.ok old, s2) => s2.writeReg d (BitVec.ofNat 64 old)

/-- The order of an atomic: a release after every earlier store, any other after those to its lines (R218, R256). -/
def settled (o : BitVec 2) (vas : List Word) (s : State) (k : State → State) : State :=
  if releasing o then drained s id k else accessed vas s k

/-- ATOM and CAS (R440): alignment, translation, the release, then the operation. -/
def atomic (op : AtomOp) (d a b : BitVec 6) (o : BitVec 2) (w : BitVec 1) (s : State) : State :=
  confirmed s fun s =>
    let bits := atomBits w
    let va := s.reg a.toNat
    if va.toNat % (bits / 8) ≠ 0 then raise s causeALIGN 3 0 va
    else match s.reachH va .write with
      | (.error e, s1) => raiseErr s1 3 e
      | (.ok _, s1) => settled o [va] s1 fun s2 =>
        notFull s2 3 va (performAtomic op d bits va (s2.reg b.toNat) (s2.reg d.toNat))

/-- ATOM.add (R440). -/
def execAtomAdd (d a b : BitVec 6) (o : BitVec 2) (c : BitVec 3) (w : BitVec 1) (s : State) : Out :=
  .next (inA (.atomAdd d a b o c w) s (atomic .add d a b o w))
/-- ATOM.min (R440). -/
def execAtomMin (d a b : BitVec 6) (o : BitVec 2) (c : BitVec 3) (w : BitVec 1) (s : State) : Out :=
  .next (inA (.atomMin d a b o c w) s (atomic .min d a b o w))
/-- ATOM.max (R440). -/
def execAtomMax (d a b : BitVec 6) (o : BitVec 2) (c : BitVec 3) (w : BitVec 1) (s : State) : Out :=
  .next (inA (.atomMax d a b o c w) s (atomic .max d a b o w))
/-- ATOM.and (R440). -/
def execAtomAnd (d a b : BitVec 6) (o : BitVec 2) (c : BitVec 3) (w : BitVec 1) (s : State) : Out :=
  .next (inA (.atomAnd d a b o c w) s (atomic .and d a b o w))
/-- ATOM.or (R440). -/
def execAtomOr (d a b : BitVec 6) (o : BitVec 2) (c : BitVec 3) (w : BitVec 1) (s : State) : Out :=
  .next (inA (.atomOr d a b o c w) s (atomic .or d a b o w))
/-- ATOM.xor (R440). -/
def execAtomXor (d a b : BitVec 6) (o : BitVec 2) (c : BitVec 3) (w : BitVec 1) (s : State) : Out :=
  .next (inA (.atomXor d a b o c w) s (atomic .xor d a b o w))
/-- ATOM.swap (R440). -/
def execAtomSwap (d a b : BitVec 6) (o : BitVec 2) (c : BitVec 3) (w : BitVec 1) (s : State) : Out :=
  .next (inA (.atomSwap d a b o c w) s (atomic .swap d a b o w))
/-- CAS (R440). -/
def execCas (d a b : BitVec 6) (o : BitVec 2) (c : BitVec 3) (w : BitVec 1) (s : State) : Out :=
  .next (inA (.cas d a b o c w) s (atomic .cas d a b o w))

/-! ## VATOM (R228, R441) -/

/-- The operation of a VATOM code. -/
def vatomOp (p : BitVec 3) : AtomOp :=
  match p.toNat with | 0 => .add | 1 => .min | 2 => .max | 3 => .and | 4 => .or | 5 => .xor | _ => .swap

/-- The failure of one element of a VATOM, if it has one (R29, R41, R204). -/
def vatomFault (s : State) (va : Word) (x : Xlat) : Option Err :=
  let r := regionOf s x.pa
  let far := match r with | .peer n _ => !reachable s n | _ => false
  if x.ratio ≠ 1 ∨ r = .flash then some ⟨causePERMISSION, 0, va⟩
  else if isHost r then some ⟨causeATOMUNSUP, 0, va⟩
  else if far then some ⟨causeUNREACH, 0, va⟩
  else none

/-- Translate and check the active elements in ascending order: the first failure, or every element's place (R162, R255). -/
def vatomReach : List (Nat × Nat) → State → Except Err (List ElemAt) × State
  | [], s => (.ok [], s)
  | (i, ba) :: rest, s =>
    let va := BitVec.ofNat 64 (ba / 8)
    match s.reachH va .write with
    | (.error e, s1) => (.error e, s1)
    | (.ok x, s1) =>
      match vatomFault s1 va x with
      | some e => (.error e, s1)
      | none =>
        match vatomReach rest s1 with
        | (.error e, s2) => (.error e, s2)
        | (.ok es, s2) => (.ok (elemPlace i ba x :: es), s2)

/-- Take an element out of a list. -/
def takeAt {α : Type} : List α → Nat → Option (α × List α)
  | [], _ => none
  | x :: xs, 0 => some (x, xs)
  | x :: xs, n + 1 => (takeAt xs n).map fun p => (p.1, x :: p.2)

/-- Some order of a list: each choice is a free value (R228). -/
def someOrder {α : Type} : Nat → List α → Nat → List α × Nat
  | 0, _, k => ([], k)
  | n + 1, l, k =>
    match takeAt l (Config.freeNat k % Nat.max 1 l.length) with
    | none => ([], k)
    | some (x, rest) =>
      let (xs, k1) := someOrder n rest (k + 1)
      (x :: xs, k1)

/-- Perform one element at a peer's home, which holds the line: the old value, and the lines read with the new one (R40, R228,
R441). -/
def vatomFar (op : AtomOp) (bits v : Nat) (e : ElemAt) (node off : Nat) (ls : List (Nat × LineVal)) (s : State) :
    Nat × List (Nat × LineVal) × State :=
  let l := lineIn ls e.line
  let o := e.x.pa % 64
  let old := l.bytes / 2 ^ (8 * o) % 2 ^ bits
  let new : LineVal := { l with
    data := putBytes l.bytes o (bits / 8) (atomNew op bits old v 0), tag := scalarTag (pteLFMT e.x.leaf) l.tag }
  (old, (e.line, new) :: ls.filter fun p => p.1 != e.line,
   sendPeer s node (lineAddr off) (.atomic off op (bits == 64) (BitVec.ofNat 64 v) 0))

/-- Perform the elements one after another, on lines of which none is bad: the old value of each. -/
def vatomRun (w : Option LogWho) (op : AtomOp) (bits : Nat) (data : VReg) :
    List ElemAt → List (Nat × LineVal) → State → List (Nat × Nat) × State
  | [], _, s => ([], s)
  | e :: es, ls, s =>
    let v := regCode data e.i % 2 ^ bits
    match regionOf s e.x.pa with
    | .peer node off =>
      let (old, ls1, s1) := vatomFar op bits v e node off ls s
      let (rest, s2) := vatomRun w op bits data es ls1 s1
      ((e.i, old) :: rest, s2)
    | _ =>
      match atomAt s w e.va e.x op bits v 0 with
      | (.error _, s1) => vatomRun w op bits data es ls s1
      | (.ok old, s1) =>
        let (rest, s2) := vatomRun w op bits data es ls s1
        ((e.i, old) :: rest, s2)

/-- The return entry (R441). -/
def vatomEntry (bits n : Nat) (olds : List (Nat × Nat)) : VReg :=
  let f := if bits = 32 then 4 else 5
  if n = 0 then zeroReg f .uninit 0
  else regOfCodes f ((List.range n).map fun i => match olds.find? fun p => p.1 == i with | some p => p.2 | none => 0)

/-- Operands of a VATOM. -/
structure VatomOp where
  op      : AtomOp
  ordered : Bool
  ord     : BitVec 2
  bits    : Nat
  base    : Word
  mask    : MaskBits
  ret     : Option Nat
  dq      : Nat
  iq      : Nat

/-- The entry that a VATOM reserves at issue: none where it returns nothing, else its sequence number and whether it refills
(R254, R441). -/
abbrev RetEntry := Option (BitVec 32 × Bool)

/-- The hart with the return entry of a VATOM reserved, in the format that it would take as POISON (R441, R479). -/
def vatomReserve (o : VatomOp) (e : RetEntry) (h : Hart) : Hart :=
  match o.ret, e with
  | some q, some (seq, refills) => reserveEntry q seq refills none (if o.bits = 32 then 4 else 5) h
  | _, _ => h

/-- A VATOM that faults keeps its return entry reserved (R254, R441). -/
def vatomFail (o : VatomOp) (e : RetEntry) (code level : Nat) (tval : Word) (s : State) : State :=
  let s1 : State := { s with h := vatomReserve o e s.h }
  match o.ret, e with
  | some q, some (seq, _) => reservedFault q seq none code 8 level tval s1
  | _, _ => raise s1 code 8 level tval

/-- The hart with the old values in the return entry. -/
def vatomReturn (o : VatomOp) (e : RetEntry) (n : Nat) (olds : List (Nat × Nat)) (h : Hart) : Hart :=
  match o.ret, e with
  | some q, some (seq, _) =>
    let h1 := vatomReserve o e h
    h1.setQueue q (fillAt (h1.queue q) seq (vatomEntry o.bits n olds) 0)
  | _, _ => h

/-- Perform a VATOM whose elements translate: the lines are checked, then every active element is performed, the operands are
popped and the return entry is filled. -/
def vatomPerform (o : VatomOp) (e : RetEntry) (data : VReg) (n : Nat) (es : List ElemAt) (s : State) : State :=
  if es.any fun e => guarded s e.va then s
  else
    let (ls, s1) := readElemLines es [] s
    match es.find? fun e => vcBad (tagVc (lineIn ls e.line).tag) with
    | some x => vatomFail o e causePOISONED 0 x.va s1
    | none =>
      let w := s1.h.logWho 1
      let s2 := logExits s1 w (es.map fun e => e.x.ppa)
      let (order, k) := if o.ordered then (es, s2.draws) else someOrder es.length es s2.draws
      let (olds, s3) := vatomRun w o.op o.bits data order ls { s2 with draws := k }
      ({ s3 with h := vatomReturn o e n olds (popEntry o.iq (popEntry o.dq s3.h)) } : State).advance

/-- The checks of a VATOM on its base and its popped entries (R441). -/
def vatomCause (o : VatomOp) (data idx : VReg) : Option Nat :=
  if o.base.toNat % (o.bits / 8) ≠ 0 then some causeALIGN
  else match indexCause idx with
    | some c => some c
    | none =>
      if elemSize data.fmt.toNat ≠ o.bits then some causeFMTSIZE
      else if vcBad data.vc then some causePOISONED
      else none

/-- VATOM (R441): it waits for its operands and for room in its return queue, which it takes as a load does (R124). -/
def vatomIssue (o : VatomOp) (s : State) : State :=
  let entry : Option RetEntry := match o.ret with | none => some none | some q => (takeEntry s.h q).map some
  match entry, headEntry s.h o.dq, headEntry s.h o.iq with
  | some e, some data, some idx =>
    match vatomCause o data idx with
    | some c => vatomFail o e c 0 o.base s
    | none =>
      let n := Nat.min (Nat.min s.h.a.vl.toNat (s.h.bits / o.bits)) (Nat.min (regCount s.h idx) (regCount s.h data))
      let els := indexEls o.base idx o.mask o.bits n
      settled o.ord (vasOf els) s fun s => notFull s 8 o.base fun s =>
        match vatomReach els s with
        | (.error x, s1) => vatomFail o e x.cause x.level x.va s1
        | (.ok es, s1) => vatomPerform o e data n es s1
  | _, _, _ => qblock s

/-- Both forms of VATOM. -/
def vatomForm (i : Instr) (ordered : Bool) (p m : BitVec 3) (a : BitVec 6) (q : BitVec 3) (t x : BitVec 1) (o : BitVec 2)
    (w : BitVec 1) (s : State) : State :=
  queueUse i s fun s =>
    if p = 7 ∨ (t = 1 ∧ 6 ≤ q.toNat) then illegalInstr s i
    else confirmed s fun s =>
      vatomIssue { op := vatomOp p, ordered := ordered, ord := o, bits := atomBits w, base := s.reg a.toNat, mask := s.h.mask m.toNat
                   ret := if t = 1 then some q.toNat else none, dq := otherQueue (6 + x.toNat), iq := 6 + x.toNat } s

/-- VATOM (R441). -/
def execVatom (p m : BitVec 3) (a : BitVec 6) (q : BitVec 3) (t x : BitVec 1) (o : BitVec 2) (c : BitVec 3) (w : BitVec 1)
    (s : State) : Out := .next (vatomForm (.vatom p m a q t x o c w) false p m a q t x o w s)

/-- VATOM.oi (R441). -/
def execVatomOi (p m : BitVec 3) (a : BitVec 6) (q : BitVec 3) (t x : BitVec 1) (o : BitVec 2) (c : BitVec 3) (w : BitVec 1)
    (s : State) : Out := .next (vatomForm (.vatomOi p m a q t x o c w) true p m a q t x o w s)

end Sys2Proof.Machine
end

