-- ==== Sys2Proof/Machine/EngineCmd.lean ====
section
/-! DEFINITION. Machine/EngineCmd.lean: the meanings of SLUICE, PANC and RCODE: reading the record, its checks, the pages
that the command pins, its queue slot, its leave and its issue (R21, R209, R292 to R295, R299, R301, R302, R307, R308,
R442). -/

namespace Sys2Proof.Machine

/-! ## Records -/

/-- Read whole lines of a record: the first failure, with a cause of its own for a POISON or UNRESTORED line (R442). -/
def readRecord (poison : Nat) : Nat → Word → State → Except Err Nat × State
  | 0, _, s => (.ok 0, s)
  | n + 1, va, s =>
    match s.reachH va .read with
    | (.error e, s1) => (.error e, s1)
    | (.ok x, s1) =>
      if x.ratio ≠ 1 then (.error ⟨causeFMTSIZE, 0, va⟩, s1)
      else
        let (l, s2) := readLine s1 x.pa (pteKEY x.leaf) (pteLFMT x.leaf) s.h.who s.h.noL1
        if vcBad (tagVc l.tag) then (.error ⟨poison, 0, va⟩, s2)
        else match readRecord poison n (va + 64) s2 with
          | (.error e, s3) => (.error e, s3)
          | (.ok rest, s3) => (.ok (l.bytes + 2 ^ 512 * rest), s3)

/-- A signed 48-bit stride. -/
def stride48 (v : Nat) : Int := signExt 48 v

/-- Dimension d of a shape record (R294 Table 2). -/
def dimOf (v d : Nat) : Dim :=
  ⟨fieldOf v (128 * d + 543) (128 * d + 512), stride48 (v >>> (128 * d + 544)), stride48 (v >>> (128 * d + 592))⟩

/-- A shape record from its 256 bytes (R294 Table 2). -/
def shapeOf (v : Nat) : ShapeRec :=
  { sbase := BitVec.ofNat 64 v, dbase := BitVec.ofNat 64 (v >>> 64), prog := BitVec.ofNat 64 (v >>> 128)
    append := fieldOf v 197 196 == 1, qmode := fieldOf v 199 198, hopt := BitVec.ofNat 2 (v >>> 200)
    stopErr := v.testBit 202, sfmt := BitVec.ofNat 5 (v >>> 204), dfmt := BitVec.ofNat 5 (v >>> 209)
    scale := BitVec.ofNat 8 (v >>> 214), pgran := fieldOf v 223 222, pscope := fieldOf v 226 224
    dims := (List.range (fieldOf v 195 192)).map (dimOf v) }

/-- Extent of dimension 0. -/
def ShapeRec.ext0 (r : ShapeRec) : Nat := match r.dims with | d :: _ => d.ext | [] => 0

/-- Bits that a run moves: those of the destination's lines, and those that address the source. -/
def ShapeRec.runBits (r : ShapeRec) : Nat := r.ext0 * (if r.qmode = 1 then elemSize r.dfmt.toNat else 8)
def ShapeRec.srcBits (r : ShapeRec) : Nat := r.ext0 * (if r.qmode = 1 then elemSize r.sfmt.toNat else 8)

/-- Runs of a shape. -/
def ShapeRec.runs (r : ShapeRec) : Nat := ((r.dims.drop 1).map fun d => d.ext).foldl (fun a b => a * b) 1

/-- The shape total in bytes (R294). -/
def ShapeRec.total (r : ShapeRec) : Nat := r.runBits / 8 * r.runs

/-- Offset of run n (R296: dimension 1 innermost). -/
def runOffset (stride : Dim → Int) : List Dim → Nat → Int
  | [], _ => 0
  | d :: ds, n => ((n % d.ext : Nat) : Int) * stride d + runOffset stride ds (n / d.ext)

/-- Address of run n at the source, and at the destination. -/
def ShapeRec.srcRun (r : ShapeRec) (n : Nat) : Word := r.sbase + BitVec.ofInt 64 (runOffset Dim.sstr (r.dims.drop 1) n)
def ShapeRec.dstRun (r : ShapeRec) (n : Nat) : Word := r.dbase + BitVec.ofInt 64 (runOffset Dim.dstr (r.dims.drop 1) n)

/-- The least and the greatest offset that strides reach. -/
def offsetSpan (stride : Dim → Int) (ds : List Dim) : Int × Int :=
  ds.foldl (fun p d =>
    let far := ((d.ext - 1 : Nat) : Int) * stride d
    (p.1 + min 0 far, p.2 + max 0 far)) (0, 0)

/-- Whether the bounding ranges of source and destination meet, by the bytes of address that a run of each takes (R295). -/
def ShapeRec.overlaps (r : ShapeRec) (sn dn : Nat) : Bool :=
  let ds := r.dims.drop 1
  let a := offsetSpan Dim.sstr ds
  let b := offsetSpan Dim.dstr ds
  let s0 := (r.sbase.toNat : Int)
  let d0 := (r.dbase.toNat : Int)
  decide (s0 + a.1 < d0 + b.2 + dn) && decide (d0 + b.1 < s0 + a.2 + sn)

/-- A format that CONVERT and RETAG may name. -/
def realFmt (f : Nat) : Bool := fmtDefined f && f != 0

/-- The checks of R295 and R299 that the record alone decides. A reserved format code is rejected under every QMODE (R6); RAW
where the QMODE uses the field. -/
def shapeOk (v : Nat) (priv : Bool) : Bool :=
  let r := shapeOf v
  let nd := fieldOf v 195 192
  let opk := fieldOf v 197 196
  let later := r.dims.drop 1
  let strideOk := fun (n : Int) (z : Int) => z % n == 0
  let unit : Int := if r.qmode = 1 then max 1 (elemSize r.sfmt.toNat / 8 : Nat) else 64
  1 ≤ nd && nd ≤ 9 && opk ≤ 1 && r.qmode ≤ 2 && r.pscope ≤ 4 && !v.testBit 203
  && fieldOf v 511 227 == 0 && fieldOf v 2047 1664 == 0 && fieldOf v 1663 (128 * nd + 512) == 0
  && r.dims.all (fun d => d.ext != 0)
  && (match r.dims with | d :: _ => d.sstr == 0 && d.dstr == 0 | [] => false)
  && fmtDefined r.sfmt.toNat && fmtDefined r.dfmt.toNat
  && (r.qmode != 1 || (r.sfmt != 0 && r.dfmt != 0)) && (r.qmode != 2 || r.dfmt != 0)
  && r.dbase.toNat % 64 == 0 && later.all (fun d => strideOk 64 d.dstr) && r.runBits % 512 == 0
  && strideOk unit (r.sbase.toNat : Int) && later.all (fun d => strideOk unit d.sstr)
  && (r.qmode != 1 || r.ext0 % rotSize r.hopt.toNat == 0)
  && !(r.hopt != 0 && r.qmode == 0)
  && (r.append || !r.overlaps ((r.srcBits + 7) / 8) (r.runBits / 8)) && decide (r.total ≤ 2 ^ 40)
  && (!r.append || (priv && r.qmode == 0 && nd == 1 && r.ext0 % 4096 == 0))

/-! ## Pages (R156, R164, R292) -/

/-- Page numbers of a byte range. -/
def pagesIn (va : Word) (n : Nat) : List Nat :=
  if n = 0 then [] else (List.range ((va.toNat % 65536 + n - 1) / 65536 + 1)).map fun i => va.toNat / 65536 + i

/-- Pinned pages of a command: leaf, level and PEERMAP entry by page number. -/
abbrev Pins := SMap (Nat × Nat × Word)

/-- The page of a pin that is absent. -/
def noPin : Nat × Nat × Word := (0, 0, 0)

/-- The PEERMAP entry that a translation of the hart that acts has used (R136, R323). -/
def usedPeer (s : State) (va : Word) (leaf : Nat) : Word :=
  match tlbFind s s.h.who s.h.asid.toNat va.toNat with
  | some t => t.peer
  | none => peerEntry s (ptePA leaf)

/-- Translate and check pages, pinning the leaf of each. -/
def pinPages (need : Need) : List Nat → Pins → State → Except Err Pins × State
  | [], m, s => (.ok m, s)
  | p :: ps, m, s =>
    let va := BitVec.ofNat 64 (65536 * p)
    match s.reachH va need with
    | (.error e, s1) => (.error e, s1)
    | (.ok x, s1) => pinPages need ps (SMap.set noPin m p (x.leaf, x.level, usedPeer s1 va x.leaf)) s1

/-- A pinned translation of an address. -/
def pinned (m : Pins) (va : Word) : Xlat :=
  let p := SMap.get noPin m (va.toNat / 65536)
  xlatOf p.1 p.2.1 va.toNat p.2.2

/-- Ratio and element size of the pinned page with some number. -/
def pageRatio (m : Pins) (p : Nat) : Nat :=
  let q := SMap.get noPin m p
  if q.2.1 = 3 then pteRatio q.1 else 1
def pageSize (m : Pins) (p : Nat) : Nat := elemSize (pteLFMT (SMap.get noPin m p).1)

/-- Bits that the rest of an address's page holds: a page with ratio c holds 512 / c bits for each 64 bytes of address (R158). -/
def pageRoom (m : Pins) (va : Nat) : Nat := (65536 - va % 65536) / 64 * (512 / pageRatio m (va / 65536))

/-- The next page's address. -/
def nextPage (va : Nat) : Nat := (va / 65536 + 1) * 65536 % 2 ^ 64

/-- Pin the pages of a run of some bits, page by page. -/
def pinRun (need : Need) : Nat → Nat → Nat → Pins → State → Except Err Pins × State
  | 0, _, _, m, s => (.ok m, s)
  | n + 1, va, bits, m, s =>
    if bits = 0 then (.ok m, s)
    else match pinPages need [va / 65536] m s with
      | (.error e, s1) => (.error e, s1)
      | (.ok m1, s1) => if bits ≤ pageRoom m1 va then (.ok m1, s1) else pinRun need n (nextPage va) (bits - pageRoom m1 va) m1 s1

/-- Pages that a run may take. -/
def runFuel (bits : Nat) : Nat := bits / 131072 + 2

/-- Pin the pages of runs. -/
def pinRuns (need : Need) (bits : Nat) : List Nat → Pins → State → Except Err Pins × State
  | [], m, s => (.ok m, s)
  | va :: vas, m, s =>
    match pinRun need (runFuel bits) va bits m s with
    | (.error e, s1) => (.error e, s1)
    | (.ok m1, s1) => pinRuns need bits vas m1 s1

/-- Addresses of the runs at the source, and at the destination. -/
def ShapeRec.srcRuns (r : ShapeRec) : List Nat := (List.range r.runs).map fun n => (r.srcRun n).toNat
def ShapeRec.dstRuns (r : ShapeRec) : List Nat := if r.append then [] else (List.range r.runs).map fun n => (r.dstRun n).toNat

/-- The pages of a run, and the bytes of address that it takes. -/
def runPages (m : Pins) : Nat → Nat → Nat → List Nat
  | 0, _, _ => []
  | n + 1, va, bits =>
    if bits = 0 then [] else va / 65536 :: runPages m n (nextPage va) (bits - pageRoom m va)
def runSpan (m : Pins) : Nat → Nat → Nat → Nat
  | 0, _, _ => 0
  | n + 1, va, bits =>
    if bits ≤ pageRoom m va then (bits + 512 / pageRatio m (va / 65536) - 1) / (512 / pageRatio m (va / 65536)) * 64
    else 65536 - va % 65536 + runSpan m n (nextPage va) (bits - pageRoom m va)

/-- Source pages of a CONVERT, whose elements are addressed by the size of SFMT. -/
def ShapeRec.convertPages (r : ShapeRec) : List Nat :=
  ((List.range r.runs).flatMap fun n => pagesIn (r.srcRun n) ((r.srcBits + 7) / 8)).dedup

/-- The pages that a shape reads, and those that it writes. -/
def ShapeRec.srcPages (r : ShapeRec) (m : Pins) : List Nat :=
  if r.qmode = 1 then r.convertPages else (r.srcRuns.flatMap fun va => runPages m (runFuel r.srcBits) va r.srcBits).dedup
def ShapeRec.dstPages (r : ShapeRec) (m : Pins) : List Nat :=
  (r.dstRuns.flatMap fun va => runPages m (runFuel r.runBits) va r.runBits).dedup

/-- Where 64 bytes of address stand of a run: the base of their line, the bit that they begin at in it, the run, the first bit
of the run that they hold, and how many (R158, R296). -/
structure Visit where
  line  : Nat
  off   : Nat
  run   : Nat
  start : Nat
  bits  : Nat
deriving DecidableEq, Repr

/-- The visits of a run, in ascending address. -/
def runVisits (ratio : Nat → Nat) (run : Nat) : Nat → Nat → Nat → Nat → List Visit
  | 0, _, _, _ => []
  | n + 1, va, start, left =>
    if left = 0 then []
    else
      let c := ratio (va / 65536)
      let w := Nat.min (512 / c) left
      ⟨va / (64 * c) * (64 * c), va / 64 % c * (512 / c), run, start, w⟩ ::
        runVisits ratio run n ((va + 64) % 2 ^ 64) (start + w) (left - w)

/-- The visits of a shape's destination in iteration order; a line of the flash tier is addressed as it lies (R294, R296). -/
def ShapeRec.visits (r : ShapeRec) (m : Pins) : List Visit :=
  (List.range r.runs).flatMap fun n =>
    runVisits (if r.append then fun _ => 1 else pageRatio m) n (r.runBits / 128 + 1) (r.dstRun n).toNat 0 r.runBits

/-- Where bit p of a run that begins at an address lies: 64 bytes of address, and the bit in what they hold. -/
def runPlace (m : Pins) : Nat → Nat → Nat → Nat × Nat
  | 0, va, p => (va, p)
  | n + 1, va, p =>
    if p < pageRoom m va then
      let w := 512 / pageRatio m (va / 65536)
      (va + 64 * (p / w), p % w)
    else runPlace m n (nextPage va) (p - pageRoom m va)

/-- The page of bit p of run n at the source. -/
def ShapeRec.srcPage (r : ShapeRec) (m : Pins) (n p : Nat) : Nat :=
  (runPlace m (runFuel r.srcBits) (r.srcRun n).toNat p).1 / 65536

/-- The page rules of R295. Under NONE the format that a line is written in has the element size of the page that it was read
through (R203). -/
def shapePagesOk (r : ShapeRec) (m : Pins) : Bool :=
  let src := r.srcPages m
  let dst := r.dstPages m
  let fits := fun (f : Nat) => dst.all fun p => pageSize m p / pageRatio m p == elemSize f
  let apart := r.append || !r.overlaps
    (if r.qmode = 1 then (r.srcBits + 7) / 8 else (r.srcRuns.map fun va => runSpan m (runFuel r.srcBits) va r.srcBits).foldl Nat.max 0)
    ((r.dstRuns.map fun va => runSpan m (runFuel r.runBits) va r.runBits).foldl Nat.max 0)
  apart && match r.qmode with
  | 0 => ((src ++ dst).all fun p => pageRatio m p == 1) &&
      (r.append || (r.visits m).all fun v => pageSize m (v.line / 65536) == pageSize m (r.srcPage m v.run v.start))
  | 1 => src.all (fun p => pageSize m p == elemSize r.sfmt.toNat) && fits r.dfmt.toNat
  | _ => src.all (fun p => pageSize m p == elemSize r.dfmt.toNat) && fits r.dfmt.toNat

/-! ## Issue (R292, R293) -/

/-- Whether two commands share an engine's queue: one Sluice queue of a task, a task's pan queue, a tower's Crystalliser. -/
def sameQueue (a b : Cmd) : Bool :=
  let task := a.launch == b.launch && a.tn == b.tn && (a.launch.isSome || a.h == b.h)
  match a.body, b.body with
  | .sluice _, .sluice _ => task && a.queue == b.queue
  | .pan _, .pan _ => task
  | .recode _ _ _, .recode _ _ _ => a.unit == b.unit
  | _, _ => false

/-- The task that a near reference names when a command issues (R240). -/
def nearOwner (s : State) (r : Word) : Option (Nat × Nat) :=
  match refOf s r with
  | .near k =>
    let p := s.h.nearIdx k
    if s.h.joined || p / 16 == s.h.id.group then s.h.launch.map fun l => (l, s.h.tn)
    else if nearOk s s.h p then
      match quarterHart s s.h.id (p / 16) with
      | some o => o.launch.map fun l => (l, o.tn)
      | none => none
    else none
  | _ => none

/-- A command as it is accepted. -/
def newCmd (s : State) (body : CmdBody) (queue : Nat) (seq : BitVec 32) (scope : Nat) (pins : Pins) (ref : Word)
    (unit : Nat) : Cmd :=
  { id := s.nextCmd, body := body, h := s.h.id, launch := s.h.launch, tn := s.h.tn, priv := s.h.priv, asid := s.h.asid
    queue := queue, seq := seq, scope := scope, pins := pins, owner := nearOwner s ref, asks := false, started := false, ended := false
    done := 0, added := 0, spoilt := 0, unit := unit }

/-- A command counts in its hart's state as it issues (R261, R442). -/
def countCmd (c : Cmd) (h : Hart) : Hart :=
  match c.body with
  | .sluice _ => { h with slseq := SMap.set 0#32 h.slseq c.queue (c.seq + 1) }
  | .pan _ => { h with panseq := c.seq + 1 }
  | .recode _ _ _ => { h with rcseq := c.seq + 1 }

/-- The command of the acting hart that has asked for its leave. The part keeps its own copy of the record from the first step on, so
the instruction reads nothing again when the leave comes (R292, R442). -/
def askedCmd (s : State) : Option Cmd := s.cmds.find? fun c => c.asks && c.h == s.h.id

/-- Whether a governor has granted the leave of a command. -/
def leaveHeld (s : State) (cmd : Nat) : Bool :=
  (List.range 8).any fun t => (SMap.get Gov.reset s.gov t).held.any fun l => l.who == .inr cmd

/-- Steps 3 to 5 of R292: a full queue keeps the A-stream in RUN; the command takes its slot; and where it needs leave, the stream
waits for the grant (R22), else the command issues. `leave` is a governor's tower and a charge. -/
def issueCmd (c : Cmd) (room : Nat) (leave : Option (Nat × Nat)) (s : State) : State :=
  if room ≤ (s.cmds.filter fun d => sameQueue d c).length then s
  else match leave with
    | some (t, ch) =>
      ({ s with
        cmds := s.cmds ++ [{ c with asks := true }], nextCmd := s.nextCmd + 1
        gov := SMap.upd Gov.reset s.gov t fun g => { g with asked := g.asked ++ [⟨.inr c.id, ch, true⟩] } } : State).stall .wait .leave
    | none => ({ s with cmds := s.cmds ++ [c], nextCmd := s.nextCmd + 1, h := countCmd c s.h } : State).advance

/-- A command whose leave was asked for issues once it is granted (R22, R292). -/
def issueAsked (c : Cmd) (s : State) : State :=
  if leaveHeld s c.id then
    ({ s with cmds := s.cmds.map fun d => if d.id = c.id then { d with asks := false } else d, h := countCmd c s.h } : State).advance
  else s.stall .wait .leave

/-- An engine instruction's common part: the older loads, the release, the alignment and the record (R218, R292, R442), or the grant
that it has waited for. -/
def engineInstr (lines : Nat) (logged : Bool) (va : Word) (k : Nat → State → State) (s : State) : State :=
  match askedCmd s with
  | some c => issueAsked c s
  | none =>
  ordered s fun s =>
    if va.toNat % 64 ≠ 0 then raise s causeALIGN 9 0 va
    else
      let go := fun (s : State) => match readRecord causeENGREJECT lines va s with
        | (.error e, s1) => raise s1 e.cause 9 e.level (if e.cause = causeENGREJECT then va else e.va)
        | (.ok v, s1) => k v s1
      if logged then notFull s 9 va go else go s

/-- Whether a reference for the adds of a command or a TLBI passes R237; 0 asks for no add. -/
def doneOk (s : State) (ref : Word) : Bool :=
  ref == 0 || match refOf s ref with
    | .bad => false
    | .near k => nearOk s s.h (s.h.nearIdx k)
    | .slot t n => groupOk s t n s.h.priv s.h.asid.toNat
    | _ => true

/-- A record that its engine rejects (R6). -/
def reject (va : Word) (s : State) : State := raise s causeENGREJECT 9 0 va

/-! ## SLUICE -/

/-- Pin the pages of a shape: source pages for reading, destination pages for writing. -/
def pinShape (r : ShapeRec) (s : State) : Except Err Pins × State :=
  match (if r.qmode = 1 then pinPages .read r.convertPages [] s else pinRuns .read r.srcBits r.srcRuns [] s) with
  | (.error e, s1) => (.error e, s1)
  | (.ok m, s1) => pinRuns .write r.runBits r.dstRuns m s1

/-- Leave for a shape total of 1 MiB or more: 2 W of the memory pool (R21). -/
def shapeLeave (r : ShapeRec) (tower : Nat) : Option (Nat × Nat) := if 2 ^ 20 ≤ r.total then some (tower, 16) else none

/-- A shape record that was read (R292, R295). -/
def sluiceRecord (va : Word) (j scope : Nat) (v : Nat) (s : State) : State :=
  if !shapeOk v s.h.priv || !doneOk s (shapeOf v).prog then reject va s
  else
    let r := shapeOf v
    match pinShape r s with
    | (.error e, s1) => raiseErr s1 9 e
    | (.ok m, s1) =>
      if !shapePagesOk r m then reject va s1
      else
        issueCmd (newCmd s1 (.sluice r) j (SMap.get 0#32 s1.h.slseq j) scope m r.prog s1.h.id.tower) 4
          (shapeLeave r s1.h.id.tower) s1

/-- SLUICE (R442). -/
def execSluice (a : BitVec 6) (j : BitVec 4) (c : BitVec 3) (s : State) : Out :=
  .next (inA (.sluice a j c) s fun s =>
    let va := s.reg a.toNat
    engineInstr 4 true va (sluiceRecord va j.toNat c.toNat) s)

/-! ## PANC -/

/-- A pan command record from its 64 bytes (R301 Table 3). -/
def panOf (v : Nat) : PanRec :=
  { opc := fieldOf v 3 0, mom := v.testBit 4, acc := v.testBit 5, ofmt := BitVec.ofNat 5 (v >>> 6)
    n := fieldOf v 47 16, kk := fieldOf v 79 48, w := BitVec.ofNat 64 (v >>> 128), x := BitVec.ofNat 64 (v >>> 192)
    y := BitVec.ofNat 64 (v >>> 256), done := BitVec.ofNat 64 (v >>> 320), p0 := BitVec.ofNat 32 (v >>> 384)
    p1 := BitVec.ofNat 32 (v >>> 416), p2 := BitVec.ofNat 32 (v >>> 448) }

/-- The checks of R301. -/
def panOk (v : Nat) : Bool :=
  let r := panOf v
  let gemv := r.opc == 1
  let axpby := r.opc == 2
  1 ≤ r.opc && r.opc ≤ 3 && fieldOf v 15 11 == 0 && fieldOf v 127 80 == 0 && fieldOf v 511 480 == 0 && r.n != 0
  && (if gemv then 1 ≤ r.kk && r.kk ≤ 16384 else r.kk == 0)
  && fmtDefined r.ofmt.toNat && (!gemv || [0x08, 0x0A, 0x09].contains r.ofmt.toNat) && (r.opc != 3 || realFmt r.ofmt.toNat)
  && (r.opc != 3 || (r.x == 0 && r.y == 0)) && (!axpby || r.mom || r.y == 0)
  && (gemv || (r.w.toNat % 64 == 0 && r.y.toNat % 64 == 0))

/-- Bytes that n elements of some bits take. -/
def spanBytes (bits n : Nat) : Nat := (bits * n + 7) / 8

/-- The operand ranges of a pan command, as address and count: W, X, Y. -/
def PanRec.counts (r : PanRec) : Nat × Nat × Nat :=
  match r.opc with
  | 1 => (r.n * r.kk, r.kk, r.n)
  | 2 => (r.n, r.n, if r.mom then r.n else 0)
  | _ => (r.n, 0, 0)

/-- Pin an operand's pages; element size from the page of its first element. -/
def pinOperand (need : Need) (base : Word) (n : Nat) (m : Pins) (s : State) : Except Err (Nat × Pins) × State :=
  if n = 0 then (.ok (8, m), s)
  else match s.reachH base need with
    | (.error e, s1) => (.error e, s1)
    | (.ok x, s1) =>
      let w := elemSize (pteLFMT x.leaf)
      match pinPages need (pagesIn base (spanBytes w n)) m s1 with
      | (.error e, s2) => (.error e, s2)
      | (.ok m1, s2) => (.ok (w, m1), s2)

/-- HBM4E stack of a physical address (R137). -/
def stackOf (pa : Nat) : Nat := pa / gib48

/-- Whether an operand's pages have one element size, and each frame passes a test. -/
def operandOk (m : Pins) (base : Word) (w n : Nat) (frame : Nat → Nat → Bool) : Bool :=
  n == 0 || (pagesIn base (spanBytes w n)).all fun p =>
    let e := (SMap.get noPin m p).1
    pageSize m p == w && frame (pteTIER e) (pinned m (BitVec.ofNat 64 (65536 * p))).pa

/-- Frames of one stack; frames of HBM4E or CXL-local memory (R302). -/
def inStack (k : Nat) (tier pa : Nat) : Bool := tier == 0 && stackOf pa == k
def nearTier (tier _pa : Nat) : Bool := tier == 0 || tier == 2

/-- The rules of R302 on the operands' pages. -/
def panPagesOk (r : PanRec) (m : Pins) (ww wx wy : Nat) : Bool :=
  let (nw, nx, ny) := r.counts
  let k := stackOf (pinned m r.w).pa
  let ofs := elemSize r.ofmt.toNat
  let lineOf := fun (base : Word) (w n : Nat) => (pagesIn base (spanBytes w n)).all fun p => pageSize m p / pageRatio m p == ofs
  operandOk m r.w ww nw (inStack k) && operandOk m r.x wx nx nearTier
  && operandOk m r.y wy ny (if r.opc = 2 then inStack k else nearTier)
  && (match r.opc with
    | 1 => ww == wx && lineOf r.y wy ny
    | 2 => ww == wx && (!r.mom || ww == wy) && r.n * ww % 512 == 0
    | _ => r.n * ofs % 512 == 0 && lineOf r.w ww nw)

/-- A pan record that was read. -/
def panRecord (va : Word) (scope : Nat) (v : Nat) (s : State) : State :=
  if !panOk v || !doneOk s (panOf v).done then reject va s
  else
    let r := panOf v
    let (nw, nx, ny) := r.counts
    match pinOperand (if r.opc = 1 then .read else .write) r.w nw [] s with
    | (.error e, s1) => raiseErr s1 9 e
    | (.ok (ww, m), s1) =>
      match pinOperand .read r.x nx m s1 with
      | (.error e, s2) => raiseErr s2 9 e
      | (.ok (wx, m), s2) =>
        match pinOperand .write r.y ny m s2 with
        | (.error e, s3) => raiseErr s3 9 e
        | (.ok (wy, m), s3) =>
          if !panPagesOk r m ww wx wy then reject va s3
          else
            let stack := stackOf (pinned m r.w).pa
            let charge := if r.opc = 3 then 32 else 96
            issueCmd (newCmd s3 (.pan r) 0 s3.h.panseq scope m r.done stack) 4 (some (stack / 2, charge)) s3

/-- PANC (R442). -/
def execPanc (a : BitVec 6) (c : BitVec 3) (s : State) : Out :=
  .next (inA (.panc a c) s fun s =>
    let va := s.reg a.toNat
    engineInstr 1 true va (panRecord va c.toNat) s)

/-! ## RCODE -/

/-- A recode job record from its 64 bytes, its page list apart (R307 Table 4). -/
def recodeOf (v : Nat) (pages : List (Nat × Nat)) : RecodeRec :=
  let tcr := fieldOf v 22 21
  { asid := BitVec.ofNat 16 v, tfmt := BitVec.ofNat 5 (v >>> 16), tcr := tcr, tdpol := v.testBit 23 || tcr != 0
    rot := BitVec.ofNat 2 (v >>> 24), done := BitVec.ofNat 64 (v >>> 128), pages := pages }

/-- The checks of R307 and R308 on the record itself. -/
def recodeOk (v : Nat) : Bool :=
  let n := fieldOf v 63 32
  fieldOf v 22 21 != 3 && fieldOf v 31 26 == 0 && 1 ≤ n && n ≤ 4096 && fieldOf v 67 64 == 0 && fieldOf v 191 128 != 0
  && fieldOf v 511 192 == 0 && realFmt (fieldOf v 20 16)

/-- Read the page list, entry by entry (R307). -/
def readList : Nat → Word → State → Except Err (List (Nat × Nat)) × State
  | 0, _, s => (.ok [], s)
  | n + 1, va, s =>
    match readRecord causeENGREJECT 1 (va - BitVec.ofNat 64 (va.toNat % 64)) s with
    | (.error e, s1) => (.error e, s1)
    | (.ok v, s1) =>
      let o := 8 * (va.toNat % 64)
      match readList n (va + 16) s1 with
      | (.error e, s2) => (.error e, s2)
      | (.ok ps, s2) => (.ok ((v / 2 ^ o % 2 ^ 64, v / 2 ^ (o + 64) % 2 ^ 64) :: ps), s2)

/-- Pages strictly ascending from a bound, 64 KiB aligned. -/
def pagesAscend : Nat → List (Nat × Nat) → Bool
  | _, [] => true
  | lo, p :: ps => decide (lo ≤ p.1) && p.1 % 65536 == 0 && pagesAscend (p.1 + 1) ps

/-- Frames of a job that do not meet one another. -/
def framesApart (n : Nat) : List Nat → Bool
  | [] => true
  | f :: fs => fs.all (fun g => !rangesMeet f n g n) && framesApart n fs

/-- The leaves of a job's pages, with the checks of R209 on each: `.error none` where the record is rejected. A page that may
not be read raises the permission fault (R156, log 135). -/
def recodeLeaves (tower : Nat) (r : RecodeRec) : List (Nat × Nat) → Pins → State → Except (Option Err) Pins × State
  | [], m, s => (.ok m, s)
  | (va, pa) :: ps, m, s =>
    match walkFill s ⟨tower, none⟩ r.asid.toNat va false with
    | (.error _, s1) => (.error none, s1)
    | (.ok l, s1) =>
      let c := 2 ^ r.tcr
      let frame := 65536 / c
      let good := l.level == 3 && (pteTIER l.e == 0 || pteTIER l.e == 2) && pa % frame == 0 && frameOk s1 (pteTIER l.e) pa frame
        && elemSize (pteLFMT l.e) / c == elemSize r.tfmt.toNat && elemSize (pteLFMT l.e) % c == 0
      if !good then (.error none, s1)
      else if !permitted l.e .read true then (.error (some ⟨causePERMISSION, 0, BitVec.ofNat 64 va⟩), s1)
      else recodeLeaves tower r ps (SMap.set noPin m (va / 65536) (l.e, l.level, 0)) s1

/-- Whether a destination frame meets a source frame of the job (R308). -/
def meetsSource (r : RecodeRec) (m : Pins) : Bool :=
  let n := 65536 / 2 ^ r.tcr
  r.pages.any fun p => m.any fun q => rangesMeet p.2 n (ptePA q.2.1) (frameSize q.2.1 3)

/-- A job record and its page list that were read. -/
def recodeJob (va : Word) (scope : Nat) (r : RecodeRec) (s : State) : State :=
  let n := 65536 / 2 ^ r.tcr
  if !pagesAscend 0 r.pages || !framesApart n (r.pages.map fun p => p.2) then reject va s
  else match recodeLeaves s.h.id.tower r r.pages [] s with
    | (.error none, s1) => reject va s1
    | (.error (some e), s1) => raiseErr s1 9 e
    | (.ok m, s1) =>
      if meetsSource r m then reject va s1
      else issueCmd (newCmd s1 (.recode r .queued []) 0 s1.h.rcseq scope m r.done s1.h.id.tower) 16 none s1

/-- A recode record that was read. -/
def recodeRecord (va : Word) (scope : Nat) (v : Nat) (s : State) : State :=
  if !recodeOk v || !doneOk s (recodeOf v []).done then reject va s
  else match readList (fieldOf v 63 32) (BitVec.ofNat 64 (v >>> 64)) s with
    | (.error e, s1) => raise s1 e.cause 9 e.level (if e.cause = causeENGREJECT then va else e.va)
    | (.ok ps, s1) => recodeJob va scope (recodeOf v ps) s1

/-- RCODE (R442). -/
def execRcode (a : BitVec 6) (c : BitVec 3) (s : State) : Out :=
  .next (inA (.rcode a c) s fun s => needPriv (.rcode a c) s fun s =>
    let va := s.reg a.toNat
    engineInstr 1 false va (recodeRecord va c.toNat) s)

end Sys2Proof.Machine
end

