-- ==== Sys2Proof/Machine/Engines.lean ====
section
/-! DEFINITION. Machine/Engines.lean: what the Sluice, the pan units and the Crystalliser do with a command. A command works
line by line, one line a step (R209 to R213, R229, R230, R271, R292 to R308). -/

namespace Sys2Proof.Machine

/-! ## Commands in progress -/

/-- A command by its number. -/
def State.cmd? (s : State) (id : Nat) : Option Cmd := s.cmds.find? fun c => c.id == id && !c.asks

/-- Change a command. -/
def State.updCmd (s : State) (id : Nat) (f : Cmd → Cmd) : State :=
  { s with cmds := s.cmds.map fun c => if c.id = id then f c else c }

/-- A command is over: its leave is released, and its launch may end (R21, R86, R293). -/
def State.dropCmd (s : State) (id : Nat) : State :=
  let free := fun (g : Gov) => { g with held := g.held.filter fun l => l.who != .inr id }
  let s1 := updGovs { s with cmds := s.cmds.filter fun c => c.id != id } free
  match s.cmd? id with
  | some c => (match c.launch with | some l => settleEntry s1 l | none => s1)
  | none => s1

/-- Whether no command issued before it is outstanding in its queue (R292 Table 1). -/
def firstInQueue (s : State) (c : Cmd) : Bool := s.cmds.all fun d => !(sameQueue d c && decide (d.id < c.id))

/-- Whether a task is parked. -/
def isParked (s : State) (l tn : Nat) : Bool := (s.entry l).parked.any fun p => p.tn == tn

/-- The hart that holds a task. -/
def taskHart (s : State) (l tn : Nat) : Option Hart := (tasksOf s l).find? fun h => h.tn == tn

/-- Whether a task is in HOLD mode, parked or not. -/
def taskHold (s : State) (l tn : Nat) : Bool :=
  match taskHart s l tn with
  | some h => h.hold
  | none => (s.entry l).parked.any fun p => p.tn == tn && p.hold

/-- The log identity of a command's writes (R275). -/
def cmdWho (s : State) (c : Cmd) (agent : Nat) : Option LogWho :=
  c.launch.map fun l => ⟨l, agent, c.h, taskHold s l c.tn⟩

/-- Whether FULL of the task that issued a command reads 1 (R284). -/
def taskFull (s : State) (c : Cmd) : Bool :=
  match c.launch with
  | some l => taskHold s l c.tn && (s.entry l).lowRing
  | none => false

/-- Whether the write of a line must wait while FULL is set: it would make a record (R280, R281, R284). -/
def recordHeld (s : State) (c : Cmd) (x : Xlat) : Bool :=
  taskFull s c && match regionOf s x.pa with
    | .host _ | .peer _ _ | .hole => false
    | _ =>
      let d := dirOf s x.pa
      match c.launch with
      | some l => !(d.l2 && d.mark == some (logMark s l))
      | none => false

/-- Whether a command's write stalls under a write guard: one that it translates to after the guard was set (R210, R212). -/
def guardHeld (s : State) (c : Cmd) (va : Nat) (x : Xlat) : Bool :=
  s.guards.any fun g => decide (g.since ≤ c.id) && ((g.asid == c.asid.toNat && g.page == va / 65536)
    || rangesMeet (lineAddr x.pa) 64 g.old g.oldN || rangesMeet (lineAddr x.pa) 64 g.new g.newN)

/-- Whether the write of a line waits. -/
def writeHeld (s : State) (c : Cmd) (va : Nat) (x : Xlat) : Bool := guardHeld s c va x || recordHeld s c x

/-- Write an engine error record and raise the count (R271). A command of a hart without a launch has no ring. -/
def errorRecord (s : State) (c : Cmd) (code va pa detail : Nat) : State :=
  match c.launch with
  | none => s
  | some l =>
    let base := areaOf (s.entry l).recd c.tn
    let engine := match c.body with | .sluice _ => 0 | .pan _ => 1 | .recode _ _ _ => 2
    let (n, s1) := heldGet s l (base + 0x6100) 8
    let body := code + 2 ^ 16 * engine + 2 ^ 20 * c.queue + 2 ^ 32 * c.seq.toNat + 2 ^ 64 * (va % 2 ^ 64) + 2 ^ 128 * pa +
      2 ^ 192 * (c.done - c.spoilt) + 2 ^ 256 * detail
    heldPut (heldPutLines l 1 s1 (base + 0x6400 + 64 * (n % 32)) body) l (base + 0x6100) 8 (n + 1)

/-- Apply an add to a near counter of the task that owned it at the issue, wherever that task stands; `h` is the slot of an
issuer that had no launch (R240). False: that task has ended. -/
def ownerAdd (s : State) (launch : Option Nat) (owner : Option (Nat × Nat)) (h : HartId) (k : Nat) (d : Word) : Bool × State :=
  match launch, owner with
  | none, _ =>
    match s.hart? h with
    | some h => (true, nearAdd s h.id (h.nearIdx k) d)
    | none => (false, s)
  | some _, none => (false, s)
  | some _, some (l, tn) =>
    let split := (s.entry l).recd.split
    let j := if split then k % 16 else k
    match taskHart s l tn with
    | some h => (true, nearAdd s h.id (h.nearIdx j) d)
    | none =>
      if isParked s l tn then
        let at_ := areaOf (s.entry l).recd tn + 0x1C00 + 8 * j
        let (v, s1) := heldGet s l at_ 8
        (true, heldPut s1 l at_ 8 ((v + d.toNat) % 2 ^ 64))
      else (false, s)

/-- A counter add of a command; one that is refused or dropped leaves an error record of code 4 (R237, R271, R300). -/
def cmdAdd (s : State) (c : Cmd) (ref : Word) (d : Nat) : State :=
  let (good, s1) :=
    if 2 ^ 32 ≤ d then (false, s)
    else match refOf s ref with
      | .near k => ownerAdd s c.launch c.owner c.h k (BitVec.ofNat 64 d)
      | _ => farAdd s c.h.tower c.priv c.asid.toNat ref (BitVec.ofNat 64 d)
  if good then s1 else errorRecord s1 c 4 0 0 0

/-! ## Lines -/

/-- Read the line of each element once, at its home. -/
def engineLines (w : Who) : List ElemAt → List (Nat × LineVal) → State → List (Nat × LineVal) × State
  | [], acc, s => (acc, s)
  | e :: es, acc, s =>
    if acc.any fun p => p.1 == e.line then engineLines w es acc s
    else
      let (l, s1) := readLine s e.x.pa (pteKEY e.x.leaf) (pteLFMT e.x.leaf) w true
      engineLines w es (acc ++ [(e.line, l)]) s1

/-- Element at an address in bits, through a command's pins. -/
def pinnedElem (m : Pins) (i ba : Nat) : ElemAt := elemPlace i ba (pinned m (BitVec.ofNat 64 (ba / 8)))

/-- Value of a read element, zero in an UNINIT line (R173, R185). -/
def lineElem (l : LineVal) (bit : Nat) : Val :=
  if l.live then codeValue (tagFmt l.tag) (l.bytes / 2 ^ bit % 2 ^ elemSize (tagFmt l.tag)) (tagScale l.tag (bit / 256)) else .zero

/-- Whether a line holds elements of some bits that a command can read. -/
def readable (size : Nat) (l : LineVal) : Bool := !l.live || (tagFmt l.tag != 0 && elemSize (tagFmt l.tag) == size)

/-- Where an address cannot be reached (R41). -/
def farOff (s : State) (pa : Nat) : Bool := match regionOf s pa with | .peer n _ => !reachable s n | _ => false

/-- Write one line for a command, at its home, logged first (R230, R280). False: the destination cannot be reached. -/
def engineWrite (s : State) (w : Option LogWho) (va : Word) (x : Xlat) (data : Nat) (tag : BitVec 32) : Bool × State :=
  if farOff s x.pa then (false, s)
  else
    let who : Who := ⟨homeTower x.pa, none⟩
    match regionOf s x.pa with
    | .host _ | .peer _ _ | .hole => (true, writeLine s x.pa (pteKEY x.leaf) who true data tag)
    | _ =>
      let (old, s1) := readLine s x.pa (pteKEY x.leaf) (pteLFMT x.leaf) who true
      (true, writeLine (logIfHome s1 w x va old) x.pa (pteKEY x.leaf) who true data tag)

/-- Bytes of a line that is written POISON because its contents cannot be known: a free value of its address and of the lines
read (R184). -/
def openBytes (va : Nat) (ls : List (Nat × LineVal)) : Nat := (Config.openLine va (ls.map fun l => l.2.bytes)).toNat

/-- Codes and scale of one block of values, rounded with RNE (R173, R201). -/
def encodeBlock (f : Nat) (vs : List Val) : List Nat × Nat :=
  let sc := if fmtScaled f then fitScale f vs else 127
  let (cs, bad, _) := roundAll f sc rmRNE vs
  (cs, if fmtScaled f && bad then 0xFF else sc)

/-- A whole line of values: data and the scales of its two blocks. -/
def encodeLine (f : Nat) (vs : List Val) : Nat × Nat × Nat :=
  let per := 256 / elemSize f
  let (a, s0) := encodeBlock f (vs.take per)
  let (b, s1) := encodeBlock f (vs.drop per)
  (packCodes (elemSize f) (a ++ b), s0, s1)

/-- One block of a line in place: new values at some positions, the others kept (R202, R302). -/
def updateBlock (f b : Nat) (old : LineVal) (new : Nat → Option Val) : List Nat × Nat :=
  let w := elemSize f
  let per := 256 / w
  let ps := List.range per
  let same := old.live && tagFmt old.tag == f
  let keep := fun p => if same then oldCode old w (per * b + p) else 0
  if ps.all fun p => (new (per * b + p)).isNone then (ps.map keep, if same then tagScale old.tag b else 127)
  else if fmtScaled f then encodeBlock f (ps.map fun p => (new (per * b + p)).getD (oldVal old w (per * b + p)))
  else (ps.map (fun p => match new (per * b + p) with | some v => (fixedVal f 127 rmRNE v).1 | none => keep p), 127)

/-- A line updated in place: data and scales. -/
def updateLine (f : Nat) (old : LineVal) (new : Nat → Option Val) : Nat × Nat × Nat :=
  let (a, s0) := updateBlock f 0 old new
  let (b, s1) := updateBlock f 1 old new
  (packCodes (elemSize f) (a ++ b), s0, s1)

/-! ## Sluice (R296 to R300) -/

/-- Keep the first of each value. -/
def firstsOf : List Nat → List Nat → List Nat
  | [], acc => acc
  | x :: xs, acc => firstsOf xs (if acc.contains x then acc else acc ++ [x])

/-- The distinct destination lines in order (R296). -/
def destLines (c : Cmd) (r : ShapeRec) : List Nat := firstsOf ((r.visits c.pins).map fun v => v.line) []

/-- The run and its bit that stand at a bit of a destination line: those of the last visit (R295). None: the line keeps what it
holds there (log 136). -/
def placedBit (vs : List Visit) (b : Nat) : Option (Nat × Nat) :=
  ((vs.filter fun v => decide (v.off ≤ b) && decide (b < v.off + v.bits)).getLast?).map fun v => (v.run, v.start + (b - v.off))

/-- Contents of a destination line: data, tag, and an error code with its DETAIL, source address and line, if any. -/
structure LineOut where
  data   : Nat
  tag    : BitVec 32
  err    : Option (Nat × Nat)
  va     : Nat
  pa     : Nat

/-- Where bit p of run n lies at the source of a command that moves bytes. -/
def sourceBit (c : Cmd) (r : ShapeRec) (n p : Nat) : ElemAt :=
  let q := runPlace c.pins (runFuel r.srcBits) (r.srcRun n).toNat p
  let va := BitVec.ofNat 64 q.1
  let x := pinned c.pins va
  ⟨p, va, x, lineAddr x.pa, 8 * (x.pa % 64) + q.2⟩

/-- Read the destination line that a command writes in part. -/
def keptLine (c : Cmd) (whole : Bool) (va : Nat) (s : State) : Option LineVal × State :=
  if whole then (none, s)
  else
    let x := pinned c.pins (BitVec.ofNat 64 va)
    let (l, s1) := readLine s x.pa (pteKEY x.leaf) (pteLFMT x.leaf) ⟨homeTower x.pa, none⟩ true
    (some l, s1)

/-- NONE and RETAG, a quarter of a line at a time (R297, R300). -/
def copyLine (c : Cmd) (r : ShapeRec) (va : Nat) (vs : List Visit) (s : State) : LineOut × State :=
  let qs := (List.range 4).map fun q => (placedBit vs (128 * q)).map fun p => sourceBit c r p.1 p.2
  let es := qs.filterMap id
  let (ls, s1) := engineLines ⟨c.unit, none⟩ es [] s
  let (old, s2) := keptLine c (qs.all Option.isSome) va s1
  let quarter := fun (q : Nat) (e : Option ElemAt) => match e with
    | some e => (lineIn ls e.line).bytes / 2 ^ e.bit % 2 ^ 128
    | none => match old with | some l => l.bytes / 2 ^ (128 * q) % 2 ^ 128 | none => 0
  let data := (qs.zipIdx.map fun q => quarter q.2 q.1 * 2 ^ (128 * q.2)).foldl (fun a b => a + b) 0
  let off := es.find? fun e => farOff s e.x.pa
  let bad := es.find? fun e => (lineIn ls e.line).bad
  let spoilt := if r.qmode = 2 then es.find? fun e => vcBad (tagVc (lineIn ls e.line).tag) else none
  let vcs := es.map fun e => tagVc (lineIn ls e.line).tag
  let vc := if off.isSome || bad.isSome then .poison
    else combineVc (match old with | some l => tagVc l.tag :: vcs | none => vcs)
  let tag := if r.qmode = 0 then
      (match es with
      | e :: _ =>
        let t := (lineIn ls e.line).tag
        if off.isSome || bad.isSome then poisonTag t else t
      | [] => resetTag)
    else mkTag r.dfmt.toNat vc r.hopt.toNat r.scale.toNat r.scale.toNat
  let named := fun (code : Nat) (e : ElemAt) => (⟨data, tag, some (code, 0), e.va.toNat, e.line⟩ : LineOut)
  match off, bad, spoilt with
  | some e, _, _ => (named 3 e, s2)
  | none, some e, _ => (named 1 e, s2)
  | none, none, some e => (named 2 e, s2)
  | none, none, none => (⟨data, tag, none, 0, 0⟩, s2)

/-- The element in bits of run n and index e at the source. -/
def srcBit (r : ShapeRec) (n e : Nat) : Nat := 8 * (r.srcRun n).toNat + e * elemSize r.sfmt.toNat

/-- Elements of the source rotation group that holds the element at an address in bits; `h` is its HROT. -/
def groupBits (w h ba : Nat) : List Nat :=
  let page := ba / 524288 * 524288
  let i := (ba - page) / w
  let m := rotSize h
  (List.range m).map fun j => page + (i / m * m + j) * w

/-- Value of a source element, unrotated if its line is rotated (R207, R297). -/
def plainVal (pins : Pins) (w : Nat) (ls : List (Nat × LineVal)) (ba : Nat) : Val :=
  let e := pinnedElem pins 0 ba
  let l := lineIn ls e.line
  let h := if l.live then tagHrot l.tag else 0
  if h = 0 then lineElem l e.bit
  else
    let bs := groupBits w h ba
    let vs := rotateGroup h false (bs.map fun b => let e := pinnedElem pins 0 b; lineElem (lineIn ls e.line) e.bit)
    (listAt vs ((ba % 524288) / w % rotSize h)).getD .zero

/-- Read the source lines of some elements and the lines that their rotation groups need: all of these elements, with the
lines. -/
def sourceLines (w : Who) (pins : Pins) (size : Nat) (bas : List Nat) (s : State) : List ElemAt × List (Nat × LineVal) × State :=
  let own := bas.map (pinnedElem pins 0)
  let (ls, s1) := engineLines w own [] s
  let more := bas.flatMap fun ba =>
    let l := lineIn ls (pinnedElem pins 0 ba).line
    if l.live ∧ tagHrot l.tag ≠ 0 then groupBits size (tagHrot l.tag) ba else []
  let all := own ++ more.map (pinnedElem pins 0)
  let (ls, s2) := engineLines w all ls s1
  (all, ls, s2)

/-- The elements of runs that a destination line takes, by position: run and index (R297). -/
def lineElems (f : Nat) (vs : List Visit) : List (Option (Nat × Nat)) :=
  (List.range (512 / elemSize f)).map fun p => (placedBit vs (p * elemSize f)).map fun q => (q.1, q.2 / elemSize f)

/-- The elements of the rotation group of an element of a run. -/
def runGroup (g : Nat) (e : Nat × Nat) : List (Nat × Nat) := (List.range g).map fun j => (e.1, e.2 / g * g + j)

/-- CONVERT (R297, R300). -/
def convertLine (c : Cmd) (r : ShapeRec) (va : Nat) (vs : List Visit) (s : State) : LineOut × State :=
  let ws := elemSize r.sfmt.toNat
  let f := r.dfmt.toNat
  let g := rotSize r.hopt.toNat
  let ps := lineElems f vs
  let bitOf := fun (e : Nat × Nat) => srcBit r e.1 e.2
  let (all, ls, s1) := sourceLines ⟨c.unit, none⟩ c.pins ws (ps.filterMap id |>.flatMap fun e => (runGroup g e).map bitOf).dedup s
  let (old, s2) := keptLine c (ps.all Option.isSome) va s1
  let poisoned := fun (code d : Nat) (e : ElemAt) =>
    ((⟨openBytes va ls, mkTag f .poison r.hopt.toNat 127 127, some (code, d), e.va.toNat, e.line⟩ : LineOut), s2)
  match all.find? (fun e => farOff s e.x.pa), all.find? (fun e => (lineIn ls e.line).bad),
      all.find? (fun e => !readable (ws / e.x.ratio) (lineIn ls e.line)) with
  | some e, _, _ => poisoned 3 0 e
  | none, some e, _ => poisoned 1 0 e
  | none, none, some e => poisoned 2 1 e
  | none, none, none =>
    let vcs := all.map fun e => tagVc (lineIn ls e.line).tag
    let vc := combineVc (match old with | some l => tagVc l.tag :: vcs | none => vcs)
    let val := fun (e : Nat × Nat) =>
      (listAt (rotateAll r.hopt.toNat false 1 ((runGroup g e).map fun e => plainVal c.pins ws ls (bitOf e))) (e.2 % g)).getD .zero
    let new := fun p => ((listAt ps p).getD none).map val
    let (data, sc0, sc1) := updateLine f (old.getD ⟨0, resetTag, false⟩) new
    let data := if vc = .uninit then 0 else data
    let tag := mkTag f vc r.hopt.toNat sc0 sc1
    match all.find? fun e => vcBad (tagVc (lineIn ls e.line).tag) with
    | some e => (⟨data, tag, some (2, 0), e.va.toNat, e.line⟩, s2)
    | none => (⟨data, tag, none, 0, 0⟩, s2)

/-- Lines of a PGRAN code; none: at the end only (R294). -/
def granLines (g : Nat) : Option Nat := match g with | 0 => some 1 | 1 => some 32 | 2 => some 1024 | _ => none

/-- The progress add that a delivered line makes due (R298). -/
def progressAdd (r : ShapeRec) (id : Nat) (s : State) : State :=
  match s.cmd? id with
  | none => s
  | some c =>
    match granLines r.pgran with
    | none => s
    | some g =>
      if r.prog = 0 ∨ c.done - c.added < g then s
      else (cmdAdd s c r.prog (c.done - c.added)).updCmd id fun c => { c with added := c.done }

/-- The command ends: its one end add, then it is no longer outstanding (R293, R298). -/
def endSluice (r : ShapeRec) (id : Nat) (s : State) : State :=
  match s.cmd? id with
  | none => s
  | some c => (if r.prog = 0 then s else cmdAdd s c r.prog (c.done - c.added)).dropCmd id

/-- Write a line of an append at its flash address, after every cached copy has been recalled, under the key of the source
page's leaf (R152, R190, R299). -/
def appendLine (c : Cmd) (r : ShapeRec) (pa : Nat) (vs : List Visit) (o : LineOut) (s : State) : State :=
  if regionOf s pa = .flash then
    let key := match placedBit vs 0 with | some p => pteKEY (sourceBit c r p.1 p.2).x.leaf | none => 0
    freshCheck (putLine (setDir s pa .none) pa o.data (o.tag &&& 0x1FFFFFF#32)) pa key
  else s

/-- Write a line of a Sluice command. False: its destination cannot be reached (R41, R297). -/
def sluiceWrite (c : Cmd) (r : ShapeRec) (va : Nat) (vs : List Visit) (o : LineOut) (s : State) : Bool × State :=
  if r.append then (true, appendLine c r va vs o s)
  else
    let w := BitVec.ofNat 64 va
    engineWrite s (cmdWho s c 3) w (pinned c.pins w) o.data o.tag

/-- Deliver the next destination line of a command that has started. Its source and its destination may each leave an error
record (R296 to R300). -/
def deliverLine (c : Cmd) (r : ShapeRec) (s : State) : State :=
  let lines := destLines c r
  match listAt lines c.done with
  | none => endSluice r c.id s
  | some va =>
    let x := pinned c.pins (BitVec.ofNat 64 va)
    if !r.append && writeHeld s c va x then s
    else
      let vs := (r.visits c.pins).filter fun v => v.line == va
      let (o, s1) := if r.qmode = 1 then convertLine c r va vs s else copyLine c r va vs s
      let (landed, s2) := sluiceWrite c r va vs o s1
      let s3 := match o.err with | some (code, d) => errorRecord s2 c code o.va o.pa d | none => s2
      let s4 := if landed then s3 else errorRecord s3 c 3 va (lineAddr x.pa) 0
      let s5 := progressAdd r c.id (s4.updCmd c.id fun c => { c with done := c.done + 1 })
      if lines.length ≤ c.done + 1 ∨ (r.stopErr ∧ (o.err.isSome ∨ !landed)) then endSluice r c.id s5 else s5

/-- Addresses in the map of the lines off the chip that a command writes. -/
def exitLines (c : Cmd) (r : ShapeRec) : List Nat :=
  if r.append then [] else
    ((destLines c r).map fun va => (pinned c.pins (BitVec.ofNat 64 va)).ppa).filter fun p => inHostMap p || inPeerMap p

/-- Whether a command's start waits: it would make an exit record while FULL is set (R284). -/
def startHeld (s : State) (c : Cmd) (r : ShapeRec) : Bool := taskFull s c && (r.append || !(exitLines c r).isEmpty)

/-- Exit records of a command that starts (R280). -/
def sluiceExits (c : Cmd) (r : ShapeRec) (s : State) : State :=
  match cmdWho s c 3 with
  | none => s
  | some w =>
    if r.append then logExit s w 3 r.dbase.toNat (destLines c r).length
    else logExits s (some w) (exitLines c r)

/-- The pages of an append's run read as UNINIT until the command writes them (R299). -/
def clearRun (pa n : Nat) (s : State) : State :=
  { s with
    mem := s.mem.filter fun m => !(decide (pa ≤ m.1) && decide (m.1 < pa + n))
    side := s.side.filter fun m => !(decide (pa ≤ 64 * m.1) && decide (64 * m.1 < pa + n))
    dir := s.dir.filter fun m => !(decide (pa ≤ 64 * m.1) && decide (64 * m.1 < pa + n)) }

/-- Act on a Sluice command of a kind, if it stands as a test asks. -/
def onSluice (id : Nat) (s : State) (test : Cmd → ShapeRec → Bool) (k : Cmd → ShapeRec → State → State) : State :=
  match s.cmd? id with
  | some c =>
    match c.body with
    | .sluice r => if !s.cfg.cont && test c r then k c r s else s
    | _ => s
  | none => s

/-- A COPY command starts (R296). -/
def execSluiceCopy (cmd : Nat) (s : State) : Out :=
  .next (onSluice cmd s (fun c r => !c.started && !r.append && firstInQueue s c && !startHeld s c r) fun c r s =>
    (sluiceExits c r s).updCmd c.id fun c => { c with started := true })

/-- An APPEND starts: DBASE is compared with FLAPP, which advances by the whole run (R299). -/
def execSluiceAppend (cmd : Nat) (s : State) : Out :=
  .next (onSluice cmd s (fun c r => !c.started && r.append && firstInQueue s c && !startHeld s c r) fun c r s =>
    if r.dbase.toNat = s.flapp then
      (sluiceExits c r { clearRun s.flapp r.ext0 s with flapp := s.flapp + r.ext0 }).updCmd c.id fun c => { c with started := true }
    else endSluice r c.id (errorRecord s c 3 0 r.dbase.toNat 1))

/-- A destination line is delivered, with the adds that follow (R298). -/
def execSluiceLineDelivered (cmd : Nat) (s : State) : Out :=
  .next (onSluice cmd s (fun c _ => c.started) deliverLine)

/-! ## Pan units (R302 to R306) -/

/-- Elements of an operand. -/
def operandElems (m : Pins) (base : Word) (n : Nat) : List ElemAt :=
  let w := pageSize m (base.toNat / 65536)
  (List.range n).map fun i => pinnedElem m i (8 * base.toNat + w * i)

/-- Element i of an operand. -/
def operandElem (m : Pins) (base : Word) (i : Nat) : ElemAt :=
  pinnedElem m i (8 * base.toNat + pageSize m (base.toNat / 65536) * i)

/-- Output elements of a pan command: those of y, or of w. -/
def panOutputs (c : Cmd) (r : PanRec) : List ElemAt := operandElems c.pins (if r.opc = 1 then r.y else r.w) r.n

/-- Output lines in ascending address. -/
def panLines (c : Cmd) (r : PanRec) : List Nat := firstsOf ((panOutputs c r).map fun e => e.line) []

/-- What becomes of an output line: lines written, with address and translation, an error with its source place, and whether
the command stops. -/
structure PanOut where
  writes : List (ElemAt × Nat × BitVec 32)
  err    : Option (Nat × Nat × Nat × Nat)
  stop   : Bool

/-- The fault of lines among which one is uncorrectable or came poisoned over a link: the command stops (R306). -/
def stopFault (ls : List (Nat × LineVal)) (es : List ElemAt) : Option (Nat × Nat × ElemAt) :=
  (es.find? fun e => (lineIn ls e.line).bad).map fun e => (6, 0, e)

/-- The fault of lines whose bytes an output line takes: one that stops the command; else a class (R306). -/
def lineFault (ls : List (Nat × LineVal)) (es : List ElemAt) : Option (Nat × Nat × ElemAt) :=
  (stopFault ls es).or ((es.find? fun e => vcBad (tagVc (lineIn ls e.line).tag)).map fun e => (2, 0, e))

/-- The fault of source lines: as above, or else a format or a rotation (R303, R306). -/
def panFault (ls : List (Nat × LineVal)) (rot : LineVal → Bool) (es : List ElemAt) : Option (Nat × Nat × ElemAt) :=
  (lineFault ls es).or
    (((es.find? fun e => !readable (elemSize (pteLFMT e.x.leaf) / e.x.ratio) (lineIn ls e.line)).map fun e => (2, 1, e)).or
      ((es.find? fun e => rot (lineIn ls e.line)).map fun e => (2, 2, e)))

/-- Lines written POISON with an error: each with its format and rotation. -/
def panPoison (ls : List (Nat × LineVal)) (outs : List (ElemAt × Nat × Nat)) (code detail : Nat) (e : ElemAt) : PanOut :=
  ⟨outs.map fun o => (o.1, openBytes o.1.va.toNat ls, mkTag o.2.1 .poison o.2.2 127 127),
    some (code, detail, e.va.toNat, e.line), code == 6⟩

/-- Positions of a line with what is written there. -/
def placed? (es : List (ElemAt × Val)) (w p : Nat) : Option Val := (es.find? fun e => e.1.bit / w == p).map fun e => e.2

/-- A line that is live and rotated. -/
def rotatedLine (l : LineVal) : Bool := l.live && tagHrot l.tag != 0

/-- Sum of row i times x (R303). -/
def rowSum (ls : List (Nat × LineVal)) : List (ElemAt × ElemAt) → ExactSum → ExactSum
  | [], acc => acc
  | (b, x) :: rest, acc =>
    rowSum ls rest (acc.add (valMul (lineElem (lineIn ls b.line) b.bit) (lineElem (lineIn ls x.line) x.bit)))

/-- An output line of GEMV (R303). -/
def gemvLine (c : Cmd) (r : PanRec) (outs : List ElemAt) (s : State) : PanOut × State :=
  let rowOf := fun i => (List.range r.kk).map fun k => (operandElem c.pins r.w (i * r.kk + k), operandElem c.pins r.x k)
  let rows := outs.map fun y => (y, rowOf y.i)
  let srcs := rows.flatMap fun q => q.2.flatMap fun p => [p.1, p.2]
  let (ls, s1) := engineLines ⟨c.unit / 2, none⟩ (srcs ++ outs) [] s
  let whole := outs.length * elemSize r.ofmt.toNat == 512
  let used := if r.acc then srcs ++ outs else srcs
  let olds := if whole then [] else outs
  match outs with
  | [] => (⟨[], none, false⟩, s1)
  | y0 :: _ =>
    let f := r.ofmt.toNat
    match (stopFault ls (used ++ olds)).or ((panFault ls rotatedLine used).or (lineFault ls olds)) with
    | some (code, d, e) => (panPoison ls [(y0, f, 0)] code d e, s1)
    | none =>
      let valOf := fun (q : ElemAt × List (ElemAt × ElemAt)) =>
        let acc := if r.acc then ExactSum.zero.add (lineElem (lineIn ls q.1.line) q.1.bit) else ExactSum.zero
        (q.1, (rowSum ls q.2 acc).value)
      let old := lineIn ls y0.line
      let (data, sc0, sc1) := updateLine f old (placed? (rows.map valOf) (elemSize f))
      let vcs := used.map fun e => tagVc (lineIn ls e.line).tag
      let vc := combineVc (if whole then vcs else tagVc old.tag :: vcs)
      (⟨[(y0, if vc = .uninit then 0 else data, mkTag f vc 0 sc0 sc1)], none, false⟩, s1)

/-- Format that an element's line has or takes: an UNINIT line takes its page's LFMT (log 21). -/
def updateFmt (l : LineVal) (e : ElemAt) : Nat :=
  if l.live ∨ e.x.ratio ≠ 1 then tagFmt l.tag else pteLFMT e.x.leaf

/-- FP32 value of a parameter. -/
def fp32 (p : BitVec 32) : Val := elemValue 8 p.toNat

/-- Whether the logical offsets of W and X agree modulo a rotation group (R304). -/
def sameGroups (r : PanRec) (w hrot : Nat) : Bool :=
  hrot == 0 || 8 * (r.w.toNat % 65536) % (w * rotSize hrot) == 8 * (r.x.toNat % 65536) % (w * rotSize hrot)

/-- The updated momentum of an element, in its line's format and under its new block scale. -/
def storedVal (f : Nat) (line : Nat × Nat × Nat) (bit : Nat) : Val :=
  codeValue f (line.1 / 2 ^ bit % 2 ^ elemSize f) (if bit / 256 = 0 then line.2.1 else line.2.2)

/-- An output line of AXPBY with its momentum lines (R304, R306). -/
def axpbyLine (c : Cmd) (r : PanRec) (outs : List ElemAt) (s : State) : PanOut × State :=
  let gOf := fun (w : ElemAt) => operandElem c.pins r.x w.i
  let mOf := fun (w : ElemAt) => operandElem c.pins r.y w.i
  let ms := if r.mom then outs.map mOf else []
  let used := outs ++ outs.map gOf ++ ms
  let (ls, s1) := engineLines ⟨c.unit / 2, none⟩ used [] s
  match outs with
  | [] => (⟨[], none, false⟩, s1)
  | w0 :: _ =>
    let old := lineIn ls w0.line
    let fw := updateFmt old w0
    let hrots := (used.map fun e => lineIn ls e.line).filter fun l => l.live
    let hrot := match hrots with | l :: _ => tagHrot l.tag | [] => 0
    let odd := fun (l : LineVal) => l.live && (tagHrot l.tag != hrot || !sameGroups r (pageSize c.pins (r.w.toNat / 65536)) hrot)
    let mLines := (firstsOf (ms.map fun e => e.line) []).filterMap fun ln => ms.find? fun e => e.line == ln
    let mFmt := fun (e : ElemAt) => updateFmt (lineIn ls e.line) e
    let unset := (w0 :: mLines).find? fun e =>
      let f := updateFmt (lineIn ls e.line) e
      f == 0 || elemSize f != elemSize (pteLFMT e.x.leaf) / e.x.ratio
    let outsP := (w0 :: mLines).map fun e => (e, mFmt e, tagHrot (lineIn ls e.line).tag)
    match panFault ls odd used, unset with
    | some (code, d, e), _ => (panPoison ls outsP code d e, s1)
    | none, some e => (panPoison ls outsP 2 1 e, s1)
    | none, none =>
      let val := fun (e : ElemAt) => lineElem (lineIn ls e.line) e.bit
      let mNew := mLines.map fun m0 =>
        let f := mFmt m0
        let news := (outs.filter fun w => (mOf w).line == m0.line).map fun w =>
          (mOf w, valAdd false (valMul (fp32 r.p2) (val (mOf w))) (val (gOf w)))
        (m0, updateLine f (lineIn ls m0.line) (placed? news (elemSize f)))
      let dOf := fun (w : ElemAt) =>
        if r.mom then
          match mNew.find? fun q => q.1.line == (mOf w).line with
          | some q => storedVal (mFmt q.1) q.2 (mOf w).bit
          | none => .zero
        else val (gOf w)
      let a := valAdd false (valOfInt 1) (valNeg (valMul (fp32 r.p0) (fp32 r.p1)))
      let news := outs.map fun w =>
        (w, valAdd false (valMul (val w) a) (valNeg (valMul (fp32 r.p0) (dOf w))))
      let (data, sc0, sc1) := updateLine fw old (placed? news (elemSize fw))
      let vcOf := fun (es : List ElemAt) => combineVc (es.map fun e => tagVc (lineIn ls e.line).tag)
      let vcW := vcOf used
      let line := fun (e : ElemAt) (f : Nat) (vc : Vc) (d : Nat × Nat × Nat) =>
        (e, if vc = .uninit then 0 else d.1, mkTag f vc hrot d.2.1 d.2.2)
      (⟨mNew.map (fun q => line q.1 (mFmt q.1) (vcOf (ms ++ outs.map gOf)) q.2) ++ [line w0 fw vcW (data, sc0, sc1)],
        none, false⟩, s1)

/-- An output line of FILL (R305). -/
def fillLine (c : Cmd) (r : PanRec) (outs : List ElemAt) (s : State) : PanOut × State :=
  match outs with
  | [] => (⟨[], none, false⟩, s)
  | w0 :: _ =>
    let f := r.ofmt.toNat
    let w := elemSize f
    let sc := if fmtScaled f then r.p1.toNat % 256 else 127
    let reg : VReg := { regOfCodes f (List.replicate (512 / w) r.p0.toNat) with
      scales := if sc = 127 then [] else [(0, BitVec.ofNat 8 sc), (1, BitVec.ofNat 8 sc)] }
    if outs.length * w = 512 then
      (⟨[(w0, packCodes w (List.replicate (512 / w) r.p0.toNat), mkTag f .valid 0 sc sc)], none, false⟩, s)
    else
      let (ls, s1) := engineLines ⟨c.unit / 2, none⟩ [w0] [] s
      let slots : Slots := (List.range (512 / w)).map fun p => (outs.find? fun e => e.bit / w == p).map fun _ => p
      match lineFault ls [w0], storeLine reg false (pteLFMT w0.x.leaf) w0.x.ratio rmRNE (lineIn ls w0.line) slots with
      | some (code, d, e), _ => (panPoison ls [(w0, f, 0)] code d e, s1)
      | none, .ok (data, tag, _) => (⟨[(w0, data, tag)], none, false⟩, s1)
      | none, .error _ => (panPoison ls [(w0, f, 0)] 2 1 w0, s1)

/-- Write the lines of an output line. -/
def panWrites (c : Cmd) : List (ElemAt × Nat × BitVec 32) → State → State
  | [], s => s
  | (e, d, t) :: rest, s => panWrites c rest (engineWrite s (cmdWho s c 4) e.va e.x d t).2

/-- The elements whose lines an output line writes: those of y, or of w and, with MOM = 1, of m (R306). -/
def writtenElems (c : Cmd) (r : PanRec) (outs : List ElemAt) : List ElemAt :=
  if r.opc = 2 && r.mom then outs ++ outs.map fun w => operandElem c.pins r.y w.i else outs

/-- Process the next output line of a pan command, in ascending address order; after the last, or at a stop, its end is due. A line
written POISON is passed and does not count as completed (R306, R478; DEDUCED, log 167). -/
def panLine (c : Cmd) (r : PanRec) (f : Cmd → PanRec → List ElemAt → State → PanOut × State) (s : State) : State :=
  let lines := panLines c r
  match listAt lines c.done with
  | none => s.updCmd c.id fun c => { c with ended := true }
  | some ln =>
    let outs := (panOutputs c r).filter fun e => e.line == ln
    if (writtenElems c r outs).any (fun e => writeHeld s c e.va.toNat e.x) then s
    else
      let (o, s1) := f c r outs s
      let s2 := panWrites c o.writes s1
      let s3 := match o.err with | some (code, d, va, pa) => errorRecord s2 c code va pa d | none => s2
      if o.stop then s3.updCmd c.id fun c => { c with ended := true }
      else s3.updCmd c.id fun c =>
        { c with done := c.done + 1, spoilt := c.spoilt + b2n o.err.isSome, ended := decide (lines.length ≤ c.done + 1) }

/-- Whether a pan unit may work on a command: the first of its hart's queue, and no command that arrived earlier at its
stack is in progress (R292). -/
def panReady (s : State) (c : Cmd) : Bool :=
  firstInQueue s c && !s.cfg.cont && s.cmds.all fun d => match d.body with
    | .pan _ => !(d.unit == c.unit && decide (d.id < c.id))
    | _ => true

/-- Work on a pan command with an operation code. -/
def onPan (id opc : Nat) (s : State) (f : Cmd → PanRec → List ElemAt → State → PanOut × State) : State :=
  match s.cmd? id with
  | some c =>
    match c.body with
    | .pan r => if r.opc == opc && !c.ended && panReady s c then
        panLine c r f (s.updCmd c.id fun c => { c with started := true }) else s
    | _ => s
  | none => s

/-- GEMV (R303): the next line of y. -/
def execPanGemv (cmd : Nat) (s : State) : Out := .next (onPan cmd 1 s gemvLine)
/-- AXPBY (R304): the next line of w. -/
def execPanAxpby (cmd : Nat) (s : State) : Out := .next (onPan cmd 2 s axpbyLine)
/-- FILL (R305): the next line. -/
def execPanFill (cmd : Nat) (s : State) : Out := .next (onPan cmd 3 s fillLine)

/-- A pan command that has completed or stopped makes its end add: the output lines completed (R306). -/
def execPanCommandEnd (cmd : Nat) (s : State) : Out :=
  .next (match s.cmd? cmd with
    | some c =>
      match c.body with
      | .pan r => if c.ended && !s.cfg.cont then (if r.done = 0 then s else cmdAdd s c r.done (c.done - c.spoilt)).dropCmd cmd else s
      | _ => s
    | none => s)

/-! ## Crystalliser (R209 to R213) -/

/-- The job at the head of a tower's Crystalliser. -/
def recodeHead (s : State) (tower : Nat) : Option (Cmd × RecodeRec × RecodeSt × List Nat) :=
  match s.cmds.find? fun c => c.unit == tower && (match c.body with | .recode _ _ _ => true | _ => false) with
  | some c => match c.body with
    | .recode r st leaves => some (c, r, st, leaves)
    | _ => none
  | none => none

/-- Whether the issuer of a job stands at a stop, or the part is CONTAINED (R213). -/
def jobStopped (s : State) (c : Cmd) : Bool :=
  s.cfg.cont || match c.launch with
    | some l => isParked s l c.tn
    | none => false

/-- Act on the job of a tower in a state. -/
def onJob (tower : Nat) (st : RecodeSt) (s : State) (k : Cmd → RecodeRec → List Nat → State → State) : State :=
  match recodeHead s tower with
  | some (c, r, st1, leaves) => if st1 == st && !s.cfg.cont then k c r leaves s else s
  | none => s

/-- Put a job in a state. -/
def setJob (s : State) (c : Cmd) (r : RecodeRec) (st : RecodeSt) (leaves : List Nat) : State :=
  s.updCmd c.id fun c => { c with body := .recode r st leaves }

/-- The address space of a command's pinned pages: a job's record names its own (R209). -/
def Cmd.pageAsid (c : Cmd) : Nat := match c.body with | .recode r _ _ => r.asid.toNat | _ => c.asid.toNat

/-- Set the write guards of a job, in the order of its pages; a page that another job guards waits, and those after it with it
(R210). -/
def placeGuards (c : Cmd) (r : RecodeRec) : List (Nat × Nat) → State → State
  | [], s => s
  | (va, pa) :: ps, s =>
    let p := va / 65536
    if s.guards.any (fun g => g.cmd == c.id && g.page == p) then placeGuards c r ps s
    else if s.guards.any (fun g => g.asid == r.asid.toNat && g.page == p) then s
    else
      let e := (SMap.get noPin c.pins p).1
      let g : Guard := ⟨c.id, r.asid.toNat, p, ptePA e, frameSize e 3, pa, 65536 / 2 ^ r.tcr, s.nextCmd⟩
      placeGuards c r ps { s with guards := s.guards ++ [g] }

/-- A queued job starts and guards its pages (R210). -/
def execRecodeJobStart (tower : Nat) (s : State) : Out :=
  .next (onJob tower .queued s fun c r _ s => setJob (placeGuards c r r.pages s) c r .guard [])

/-- The pages that an engine command writes. -/
def writtenPages (c : Cmd) : List Nat :=
  let span := fun (b : Word) (n : Nat) => pagesIn b (spanBytes (pageSize c.pins (b.toNat / 65536)) n)
  match c.body with
  | .sluice r => r.dstPages c.pins
  | .pan r => if r.opc = 1 then span r.y r.n else if r.opc = 2 && r.mom then span r.w r.n ++ span r.y r.n else span r.w r.n
  | .recode _ _ _ => []

/-- Whether a command that had translated to a guarded page before its guard has still to write it (R210). -/
def writesBefore (s : State) (g : Guard) : Bool :=
  s.cmds.any fun d => decide (d.id < g.since) && (writtenPages d).any fun p =>
    let q := SMap.get noPin d.pins p
    (d.pageAsid == g.asid && p == g.page) || rangesMeet (ptePA q.1) (frameSize q.1 q.2.1) g.old g.oldN

/-- The present leaf of each page of a job, and the address of its entry. -/
def jobLeaves (tower : Nat) (r : RecodeRec) : List (Nat × Nat) → State → List Nat × State
  | [], s => ([], s)
  | (va, _) :: ps, s =>
    let (e, s1) := match walk s tower r.asid.toNat va with
      | (.ok l, s1) => (l.e, s1)
      | (.error _, s1) => (0, s1)
    let (es, s2) := jobLeaves tower r ps s1
    (e :: es, s2)

/-- Once every page is guarded and every write that translated to one before its guard is performed, the leaves are read and
recoding begins (R210). -/
def execRecodeGuardDone (tower : Nat) (s : State) : Out :=
  .next (onJob tower .guard s fun c r _ s =>
    let s1 := placeGuards c r r.pages s
    let mine := s1.guards.filter fun g => g.cmd == c.id
    if mine.length < r.pages.length || mine.any (writesBefore s1) then s1
    else
      let (leaves, s2) := jobLeaves tower r r.pages s1
      setJob s2 c r .recode leaves)

/-- HROT of the source rotation group that holds element i: of the largest aligned group of which a line that is not UNINIT
carries that rotation (R207, R211). `hs` gives the HROT of each element's line, 0 for an UNINIT one. -/
def groupHrot (hs : List Nat) (i : Nat) : Nat :=
  ([3, 2, 1].find? fun h => ((hs.drop (i / rotSize h * rotSize h)).take (rotSize h)).contains h).getD 0

/-- Values of 256 elements that begin at a multiple of 256, each unrotated within its aligned source group (R207, R211). -/
def unrotAll (xs : List (Val × Nat)) : List Val :=
  let vs := xs.map fun x => x.1
  let hs := xs.map fun x => x.2
  (List.range xs.length).map fun i =>
    let h := groupHrot hs i
    let m := rotSize h
    (listAt (rotateGroup h false ((vs.drop (i / m * m)).take m)) (i % m)).getD .zero

/-- The tag that a line has at its home; nothing is read. -/
def peekTag (s : State) (x : Xlat) : BitVec 32 :=
  let t := (sideOf s x.pa).tag
  if cached (dirOf s x.pa) then t
  else match checkOf s x.pa (pteKEY x.leaf) with
    | .correct => t
    | .corrected _ _ t1 => BitVec.ofNat 32 t1
    | .bad => poisonTag t

/-- HROT of a tag, 00 for an UNINIT line. -/
def liveHrot (t : BitVec 32) : Nat := if tagVc t = .uninit then 0 else tagHrot t

/-- The group of element i of a window of 256, as first element and size: the aligned block that its target group and the source
groups of the elements of that group take. `hs` gives the HROT of each element's line (R207, R211). -/
def jobGroup (rot : Nat) (hs : List Nat) (i : Nat) : Nat × Nat :=
  let m := rotSize rot
  let n := (List.range m).foldl (fun n j => Nat.max n (rotSize (groupHrot hs (i / m * m + j)))) m
  (i / n * n, n)

/-- One destination line of page i of a job: number b of the page. A group whose source lines fail makes its lines POISON, with
one error record, made by the line that holds its first element (R211, R308). -/
def recodeLine (c : Cmd) (r : RecodeRec) (va pa b : Nat) (s : State) : State :=
  let f := r.tfmt.toNat
  let per := 512 / elemSize f
  let ws := pageSize c.pins (va / 65536)
  let base := per * b / 256 * 256
  let o := per * b - base
  let es := (List.range 256).map fun i => pinnedElem c.pins (base + i) (8 * va + ws * (base + i))
  let hs := es.map fun e => liveHrot (peekTag s e.x)
  let groups := ((List.range per).map fun i => jobGroup r.rot.toNat hs (o + i)).dedup
  let members := fun (g : Nat × Nat) => (es.drop g.1).take g.2
  let need := groups.flatMap members
  let (ls, s1) := engineLines ⟨c.unit, none⟩ need [] s
  let lineOf := fun (e : ElemAt) => lineIn ls e.line
  let odd := fun (e : ElemAt) => (lineOf e).bad || vcBad (tagVc (lineOf e).tag) || !readable (ws / e.x.ratio) (lineOf e)
  let s2 := (groups.filter fun g => decide (o ≤ g.1)).foldl (fun s g =>
    match (members g).find? odd with
    | some e => errorRecord s c (if (lineOf e).bad then 1 else 2) e.va.toNat e.line
        (if !(lineOf e).bad && !vcBad (tagVc (lineOf e).tag) then 1 else 0)
    | none => s) s1
  let (data, tag) :=
    if need.any odd then (openBytes (va + 64 * b) ls, mkTag f .poison r.rot.toNat 127 127)
    else if need.all fun e => !(lineOf e).live then (0, mkTag f .uninit r.rot.toNat 127 127)
    else
      let xs := unrotAll ((es.map fun e => lineElem (lineOf e) e.bit).zip hs)
      let (d, sc0, sc1) := encodeLine f (((rotateAll r.rot.toNat false 256 xs).drop o).take per)
      (d, mkTag f .valid r.rot.toNat sc0 sc1)
  let key := pteKEY (SMap.get noPin c.pins (va / 65536)).1
  writeLine s2 (pa + 64 * b) key ⟨homeTower pa, none⟩ true data tag

/-- Lines of a destination frame. -/
def frameLines (r : RecodeRec) : Nat := 1024 / 2 ^ r.tcr

/-- The leaf that a remap writes: PA, CR and DPOL take the target values (R210). -/
def remapLeaf (r : RecodeRec) (e pa : Nat) : Nat :=
  let kept := e % 2 ^ 26 - pteCR e * 2 ^ 9 - (if pteDPOL e then 2 ^ 11 else 0)
  kept + r.tcr * 2 ^ 9 + (if r.tdpol then 2 ^ 11 else 0) + pa / 2 ^ 14 * 2 ^ 26

/-- Remap each page by compare-and-swap and remove its translations. One that fails, as that of an entry in flash does, leaves the
page unchanged with an error record (R139, R210). -/
def remapPages (c : Cmd) (r : RecodeRec) : List (Nat × Nat) → List Nat → State → State
  | (va, pa) :: ps, e :: es, s =>
    let s1 := match walk s c.unit r.asid.toNat va with
      | (.ok l, s1) =>
        if l.e = e ∧ l.level = 3 then
          match pteSwap s1 c.unit l.at_ e (remapLeaf r e pa) false with
          | (.done, s2) => s2
          | (_, s2) => errorRecord s2 c 5 va 0 0
        else errorRecord s1 c 5 va 0 0
      | (.error _, s1) => errorRecord s1 c 5 va 0 0
    remapPages c r ps es (tlbRemove s1 (.va r.asid.toNat va))
  | _, _, s => s

/-- The next destination line of a job, and, once all are written, the remap and its TLBI (R210). -/
def execRecodeLinesDone (tower : Nat) (s : State) : Out :=
  .next (onJob tower .recode s fun c r leaves s =>
    if jobStopped s c then s
    else
      let per := frameLines r
      match listAt r.pages (c.done / per) with
      | some (va, pa) => (recodeLine c r va pa (c.done % per) s).updCmd c.id fun c => { c with done := c.done + 1 }
      | none => setJob (remapPages c r r.pages leaves s) c r .shoot leaves)

/-- A command whose writes wait for a job, or a job that waits for it, translates afresh after DONE (R210, R212). -/
def takesAfresh (d : Cmd) (g : Guard) : Bool :=
  decide (g.since ≤ d.id) || match d.body with | .recode _ st _ => st == .queued || st == .guard | _ => false

/-- Whether a command pins the page of a guard. -/
def pinsPage (d : Cmd) (g : Guard) : Bool := d.pageAsid == g.asid && d.pins.any fun p => p.1 == g.page

/-- Take the present leaf of a guarded page into a command's pins, where a walk finds one. -/
def refreshPins (tower id : Nat) : List Guard → State → State
  | [], s => s
  | g :: gs, s =>
    match walk s tower g.asid (65536 * g.page) with
    | (.ok l, s1) =>
      let fresh := (l.e, l.level, peerEntry s1 (ptePA l.e))
      let take := fun (d : Cmd) =>
        if d.id != id && pinsPage d g && takesAfresh d g then { d with pins := SMap.set noPin d.pins g.page fresh } else d
      refreshPins tower id gs { s1 with cmds := s1.cmds.map take }
    | (.error _, s1) => refreshPins tower id gs s1

/-- Whether a vector load whose lines are on their way issued with a translation of a guarded page other than the one that the
job gives it: its access is still to be performed (R163, R212). -/
def readsOld (s : State) (g : Guard) : Bool :=
  s.harts.any fun h => h.asid.toNat == g.asid && h.loads.any fun p => p.got.isNone &&
    p.els.any fun e => e.2.1 / 8 / 65536 == g.page && ptePA e.2.2.leaf != g.new

/-- The job's TLBI has completed: no other command and no vector load holds an old translation, the guards go, the writes that waited translate
afresh, and the completion add is made (R163, R164, R210, R212). -/
def execRecodeShootDone (tower : Nat) (s : State) : Out :=
  .next (onJob tower .shoot s fun c r _ s =>
    let mine := s.guards.filter fun g => g.cmd == c.id
    if mine.any (fun g => readsOld s g || s.cmds.any fun d => d.id != c.id && pinsPage d g && !takesAfresh d g) then s
    else
      let s1 := refreshPins tower c.id mine s
      let s2 : State := { s1 with guards := s1.guards.filter fun g => g.cmd != c.id }
      (cmdAdd s2 c r.done 1).dropCmd c.id)

end Sys2Proof.Machine
end

