-- ==== Sys2Proof/Machine/CfgRead.lean ====
section
/-! DEFINITION. Machine/CfgRead.lean: what CFGWIN registers read (R26, R39, R44, R45, R48, R49, R51, R54, R57, R59, R61,
R70). -/

namespace Sys2Proof.Machine

/-- Cycles of one millisecond at 1.3 GHz (R16). -/
def cyclesPerMs : Nat := 1300000

/-- LEASESTAT (R51): LEFT is 0 while no lease runs. -/
def leaseStat (s : State) : Nat :=
  let c := s.cfg
  let left := if c.active = 0 then 0 else Nat.min 65535 ((c.leaseEnd - s.cycle) / cyclesPerMs)
  c.active.toNat + 4 * b2n c.claimed + 2 ^ 16 * c.epoch.toNat + 2 ^ 48 * left

/-- CONTSTAT (R70). -/
def contStat (c : Cfg) : Nat :=
  b2n c.cont + 2 * c.ccause.toNat + 2 ^ 5 * c.cindex.toNat + 2 ^ 10 * b2n c.preserved + 2 ^ 16 * c.more.toNat +
    2 ^ 32 * c.prcount.toNat

/-- GOVSTAT of a tower (R26). -/
def govStat (g : Gov) : Nat :=
  g.mduty + 2 ^ 9 * g.sduty + 2 ^ 24 * Nat.min 255 g.asked.length + 2 ^ 32 * Nat.min 4095 g.held.length +
    2 ^ 44 * Nat.min 255 g.temp + 2 ^ 52 * b2n g.throt + 2 ^ 53 * b2n g.tcrit

/-- ZLSTAT of a link (R39). -/
def zlStat (z : ZLink) : Nat :=
  b2n z.up + 2 * z.width.toNat + 2 ^ 5 * b2n z.fatal + 2 ^ 6 * b2n z.misroute + 2 ^ 16 * z.replays.toNat +
    2 ^ 32 * z.peer.toNat + 2 ^ 44 * z.peerPort.toNat

/-- The slot of this part that a host counter window slot binds. -/
def windowKey (s : State) (slot : Nat) : Option Nat :=
  match SMap.get 0#64 s.cfg.hcw slot with
  | 0 => none
  | h => match refOf s h with
    | .slot t n => some (slotKey t n)
    | _ => none

/-- What the ACCESS field of a host counter window slot reads (R54, R55). The manual gives no value for a counter that faults:
a free value (R251, log 139). -/
def windowValue (s : State) (slot : Nat) : Word :=
  match windowKey s slot with
  | none => 0
  | some k => ((slotRead s k).1).getD (BitVec.ofNat 64 (Config.freeNat s.draws))

/-- What the read of an ACCESS field does to the counter cache (R238, R251). -/
def windowTouch (s : State) (slot : Nat) : State :=
  match windowKey s slot with
  | none => s
  | some k => { (slotRead s k).2 with draws := s.draws + 1 }

/-- Whether an offset is that of an ACCESS field. -/
def isAccess (off : Nat) : Bool := decide (0x20000 ≤ off) && decide (off < 0x24000) && off % 16 == 8

/-- What reading a CFGWIN register does. -/
def cfgTouch (s : State) (off : Nat) : State := if isAccess off then windowTouch s ((off - 0x20000) / 16) else s

/-- The 8-byte register at an aligned CFGWIN offset; an offset that is not listed reads zero (R45). -/
def cfgRead (s : State) (off : Nat) : Nat :=
  let c := s.cfg
  if off = 0x0 then 0x0768 + 2 ^ 16 * 0x01 + 2 ^ 24 * 0x58 + 2 ^ 32 * 0x01
  else if off = 0x8 then Config.serial.toNat
  else if off = 0x10 then c.phase.toNat + 2 ^ 8 * c.failcode.toNat
  else if off = 0x100 then c.period.toNat
  else if off = 0x110 then leaseStat s
  else if off = 0x208 then contStat c
  else if off = 0x300 then c.pwrcap.toNat
  else if off = 0x400 then 4 * c.fwKind.toNat
  else if off = 0x408 then c.fwState.toNat
  else if off = 0x410 then 2 ^ 28 * c.fwarea.toNat
  else if 0x418 ≤ off ∧ off < 0x460 then (SMap.get 0#64 c.fwpoint ((off - 0x418) / 8)).toNat
  else if off = 0x460 then b2n c.fwready
  else if off = 0x800 then 2 ^ 16 * c.rqbase.toNat
  else if off = 0x808 then c.rqent.toNat
  else if off = 0x810 then 2 ^ 14 * c.hfbase.toNat
  else if off = 0x818 then c.memkey.toNat
  else if 0x1000 ≤ off ∧ off < 0x1400 then
    (SMap.get 0#512 c.mslot ((off - 0x1000) / 64)).toNat / 2 ^ (8 * (off % 64)) % 2 ^ 64
  else if 0x2000 ≤ off ∧ off < 0x2040 then govStat (SMap.get Gov.reset s.gov ((off - 0x2000) / 8))
  else if off = 0x3000 then c.znode.toNat
  else if 0x3008 ≤ off ∧ off < 0x3098 then zlStat (SMap.get ZLink.reset c.zlink ((off - 0x3008) / 8))
  else if 0x4000 ≤ off ∧ off < 0xC000 then (SMap.get 0#18 c.zroute ((off - 0x4000) / 8)).toNat
  else if 0x10000 ≤ off ∧ off < 0x12000 then
    (SMap.get 0#256 c.errlog ((off - 0x10000) / 32)).toNat / 2 ^ (8 * (off % 32)) % 2 ^ 64
  else if 0x20000 ≤ off ∧ off < 0x24000 then
    let slot := (off - 0x20000) / 16
    if off % 16 = 0 then (SMap.get 0#64 c.hcw slot).toNat else (windowValue s slot).toNat
  else if 0x30000 ≤ off ∧ off < 0x38000 then
    (SMap.get 0#128 c.ivt ((off - 0x30000) / 16)).toNat / 2 ^ (8 * (off % 16)) % 2 ^ 64
  else 0

end Sys2Proof.Machine
end

