-- ==== Sys2Proof/Machine/Boot.lean ====
section
/-! DEFINITION. Machine/Boot.lean: CONTAINED, boot and measurement, and the two resets (R32 to R34, R42, R43, R47 to R49,
R69 to R74, R189). -/

namespace Sys2Proof.Machine

/-! ## CONTAINED (R42, R43, R70, R71) -/

/-- Freeze the hart of a slot as a hard pre-emption would, its stop record written with KIND 5 (R71, R268): a load that fails
gives its cause first, the leaves go, the admitted instructions end, and the stores resolve; those that would leave the
package have no effect, and a hart with a store that a write guard holds has no record written, since not every store of it is
resolved (DESIGN CHOICE, log 137: R268 resolves every store and R43 lets none of these out). A service hart, which has no context
save area, has none written either (DESIGN CHOICE, log 171). Its slot stays taken: nothing leaves CONTAINED but a reset. -/
def containHart (id : HartId) (s : State) : State :=
  let s1 := match settleLoads (s.focus id) true with
    | (some c, t) => takeTrap t c
    | (none, t) => t
  let s2 := settleStores s1
  let h := haltX s2.h
  let h1 := countedOut { h with a := stopStream h.a, x := stopStream h.x, mkLV := false }
  let s3 := dropWaiter (dropLeaves { s2 with h := h1 } h1.id) (.stream h1.id)
  match h1.launch with
  | none => s3
  | some l => if s3.h.stores.isEmpty then putImage s3 l h1.csa.toNat h1 5 false else s3

/-- The ROM monitor's hart (R47). -/
def romMonitor : HartId := ⟨0, 64, 0⟩

/-- Whether an entry's launch has been placed: its log is in use until the entry is freed (R83, R272). -/
def LEntry.live (e : LEntry) : Bool := match e.state with | .running | .closing | .killing => true | .free | .waiting | .ready => false

/-- The log headers of the contexts in use (R273). -/
def putHeaders (s : State) : State :=
  (s.entries.filter fun e => e.2.live).foldl (fun s e => putHeader s e.1 (contextHold s e.1)) s

/-- Freeze every hart of the part but the ROM monitor (R71). -/
def freezeAll (s : State) : State :=
  putHeaders (((s.harts.map fun h => h.id).filter fun i => i != romMonitor).foldl (fun s id => containHart id s) s)

/-- Links that are up. -/
def linksUp (s : State) : List Nat := (List.range 18).filter fun l => (SMap.get ZLink.reset s.cfg.zlink l).up

/-- Enter CONTAINED for a cause; a later cause counts in MORE (R70). -/
def enterContained (s : State) (cause index : Nat) : State :=
  let c := s.cfg
  if c.cont then { s with cfg := { c with more := if c.more = 65535#16 then c.more else c.more + 1 } }
  else
    let s1 : State := { s with cfg := { c with cont := true, ccause := BitVec.ofNat 4 cause, cindex := BitVec.ofNat 5 index } }
    let s2 := freezeAll (logError s1 (if cause = 6 then index else 8) 3 cause index 0 0)
    (linksUp s2).foldl (fun s l => s.emit (.containment l)) ((s2.emit (.viral .a)).emit (.viral .b))

/-! ## Boot (R47 to R49, R33, R34) -/

/-- An MSLOT value (R49 Table 6). -/
def slotValue (digest : BitVec 384) (version : BitVec 64) (size : BitVec 32) (sigok : Bool) : BitVec 512 :=
  BitVec.ofNat 512 (digest.toNat + 2 ^ 384 * version.toNat + 2 ^ 448 * size.toNat + 2 ^ 480 + 2 ^ 481 * b2n sigok)

/-- Write a measurement slot. -/
def Cfg.setSlot (c : Cfg) (n : Nat) (v : BitVec 512) : Cfg := { c with mslot := SMap.set 0#512 c.mslot n v }

/-- MSLOT 0 or 1 once the ROM monitor has filled it: valid, its reserved bits zero (R49 Table 6). -/
def romMslot (slot : Nat) : BitVec 512 := BitVec.ofNat 512 ((Config.romSlot slot).toNat % 2 ^ 482) ||| BitVec.ofNat 512 (2 ^ 480)

/-- Bytes of n lines of memory as the ROM monitor reads them, an UNINIT line being zeros (R185, log 138). -/
def deviceLines (s : State) (pa : Nat) : Nat → Nat
  | 0 => 0
  | n + 1 => (if tagVc (sideOf s pa).tag = .uninit then 0 else lineData s pa) + 2 ^ 512 * deviceLines s (pa + 64) n

/-- Bytes of n units of 4 KiB from unit q of an image, `at_` giving the address of each unit. -/
def imageBytes (s : State) (at_ : Nat → Nat) (q : Nat) : Nat → Nat
  | 0 => 0
  | n + 1 => deviceLines s (at_ q) 64 + 2 ^ 32768 * imageBytes s at_ (q + 1) n

/-- Measure the image that begins at unit 0: its MSLOT value, and whether its header names a kind and its signature verifies
(R48, R49). -/
def measureImage (s : State) (at_ : Nat → Nat) (kind : Nat) : BitVec 512 × Bool × Bool :=
  let header := imageBytes s at_ 0 1
  let size := Config.headerSize header
  let digest := Config.sha384 (4096 * size.toNat) (imageBytes s at_ 1 size.toNat)
  let named := Config.headerKind header == some kind
  let good := named && Config.signatureGood (Config.headerSignature header) digest
  (slotValue digest (Config.headerVersion header) size good, named, good)

/-- Address of a unit of the boot area's image of a kind: the area is the first 1 GiB of flash stack 0, which holds every
fourth page of the flash range (R47, R137). -/
def bootUnit (kind q : Nat) : Nat := 0x100000000000 + 4096 * (4 * ((Config.bootImageAt kind + q) % 2 ^ 18))

/-- Boot fails: PHASE 15 and FAILCODE; no image is in service (R48, R69). -/
def bootFail (s : State) (code : Nat) : State :=
  { s with cfg := { s.cfg with phase := 15, failcode := BitVec.ofNat 8 code, served := false } }

/-- The next step of boot, and the phase on its entry. -/
def bootNext (s : State) (step phase : Nat) : State :=
  { s with cfg := { s.cfg with step := step, phase := BitVec.ofNat 4 phase } }

/-- Load and measure the image of a kind at boot step 3 (R47, R48, R69). At a preserving reset an image of kinds 0 to 2 that was
in service comes from its copy, unless the copy has changed. False: the image is missing, and has no slot, or its signature
fails. The slots that a preserving reset has kept are those of images in service (DEDUCED, log 176). -/
def measureKind (s : State) (kind : Nat) : Bool × State :=
  let slot := kind + 2
  let held := SMap.get 0#512 s.cfg.mslot slot
  let again := s.cfg.served && decide (kind < 3) && held.getLsbD 480 && held.getLsbD 481
  if again && Config.copyGood kind s.cfg.prcount.toNat then (true, s)
  else
    let (v, named, good) := measureImage s (bootUnit kind) kind
    let s1 : State := { s with cfg := s.cfg.setSlot slot (if named then v else 0) }
    (good, if again && named then logError s1 9 6 2 kind 0 (v.toNat / 2 ^ 384 % 2 ^ 64) else s1)

/-- Measure kinds in order, up to the first that fails. -/
def measureKinds : List Nat → State → State
  | [], s => bootNext s 4 2
  | k :: ks, s =>
    match measureKind s k with
    | (true, s1) => measureKinds ks s1
    | (false, s1) => bootFail s1 k

/-- Tag carriage of a memory port: 0 EMD64, 1 EMD32, 2 SHADOW (R34). -/
def metaMode (p : Nat) : Nat := if 64 ≤ Config.memPortMeta p then 0 else if 32 ≤ Config.memPortMeta p then 1 else 2

/-- Usable capacity of a port in units of 4 KiB (R32, R34). DESIGN CHOICE (log 153): 15/16 and 7/8 are rounded down to a unit,
which the manual leaves open. -/
def portUsable (p : Nat) : Nat :=
  let c := Nat.min (Config.memPortCapacity p) (2 ^ 29)
  match metaMode p with | 0 => c | 1 => c * 15 / 16 | _ => c * 7 / 8

/-- Members of the interleave set (R33). -/
def interleaveSet (good : List Nat) : List Nat :=
  let n := good.length
  good.take (if 8 ≤ n then 8 else if 4 ≤ n then 4 else if 2 ≤ n then 2 else if 1 ≤ n then 1 else 0)

/-- Firmware trains the memory ports and forms the interleave set, with its log entries (R33, R480). -/
def formSet (s : State) : State :=
  let there := (List.range 8).filter fun p => Config.memPortPopulated p
  let ms := interleaveSet (there.filter fun p => Config.memPortTrained p)
  let size := match ms.map portUsable with | [] => 0 | c :: cs => ms.length * cs.foldl Nat.min c * 4096
  let s1 : State := { s with cfg := { s.cfg with
    members := ms, cxlSize := size, cxlMeta := (List.range 8).foldl (fun m p => SMap.set 0 m p (metaMode p)) [] } }
  let s2 := (there.filter fun p => !ms.contains p).foldl
    (fun s p => logError s 10 0 2 p 0 (if Config.memPortTrained p then 2 else 1)) s1
  if ms.isEmpty then logError s2 10 0 1 0 0 (there.foldl (fun a p => a + 2 ^ p) 0) else s2

/-- The flash append pointer with a value in its PTR field; one outside the flash region leaves it (R323). -/
def setFlapp (s : State) (ptr : Nat) : State :=
  if regionOf s (4096 * ptr) = .flash then { s with flapp := 4096 * ptr } else s

/-- Firmware sets ZNODE, to a number from 0x000 to 0xFFE (log 96), ZROUTE, the bindings of window slots 0 to 4, and at a cold boot FLAPP (R39, R47, R54, R299). -/
def firmwareSet (s : State) : State :=
  let c := s.cfg
  let route := (List.range 4096).foldl (fun m n => SMap.set 0#18 m n (Config.bootRoute n)) c.zroute
  let hcw := (List.range 5).foldl (fun m n => SMap.set 0#64 m n (slotHandle 0 n)) c.hcw
  let s1 : State := { s with cfg := { c with znode := BitVec.ofNat 12 (Config.bootNode.toNat % 0xFFF), zroute := route, hcw := hcw } }
  if c.prcount = 0 then setFlapp s1 Config.bootFlapp.toNat else s1

/-- The service harts start on the firmware that step 4 has loaded (R47). -/
def startService (s : State) : State :=
  let start := fun (h : Hart) =>
    if h.service ∧ h.id ≠ romMonitor then
      let e := Config.serviceEntry h.id.tower h.id.group
      { h with a := { h.a with st := .run, pos := .enter e e none } }
    else h
  { s with h := start s.h, rest := s.rest.map start }

/-- The boot step in progress completes and the next begins (R47, R48). -/
def bootAdvance (s : State) : State :=
  if s.cfg.phase = 15 ∨ s.cfg.cont then s
  else match s.cfg.step with
    | 1 => bootNext s 2 0
    | 2 =>
      if Config.trainingGood 2 then
        bootNext { s with cfg := (s.cfg.setSlot 0 (romMslot 0)).setSlot 1 (romMslot 1) } 3 1
      else bootFail s 0xFF
    | 3 => measureKinds [0, 1, 2, 3, 4] s
    | 4 =>
      if Config.trainingGood 4 then
        bootNext (startService { s with cfg := { s.cfg with fwarea := BitVec.ofNat 12 (Config.fwArea % 0xC00), served := true } }) 5 3
      else bootFail s 0xFF
    | 5 => bootNext (firmwareSet (formSet s)) 6 4
    | _ => s

/-- BOOT step (R47). -/
def execBootStep (s : State) : Out := .next (bootAdvance s)

/-! ## Resets (R69, R72 to R74) -/

/-- A write-back of a preserving reset under a key: one that fails leaves the line POISON and an error-log entry (R72, R480). -/
def writeBack (s : State) (pa key : Nat) : State :=
  let s1 : State := { s with draws := s.draws + 1 }
  if Config.writebackFails s.draws (lineAddr pa) then
    logError (freshCheck (putLine s1 pa (lineData s1 pa) (poisonTag (sideOf s1 pa).tag)) pa key)
      (homeTower pa) 2 3 (homeTower pa) (lineAddr pa) 0
  else s1

/-- Bring every slot with a PFLAG bit into the cache, clear the bits, and write every slot back (R72, R238). -/
def flushCounters (s : State) : State :=
  let s1 := s.pflag.foldl (fun s p => (slotRead s p.1).2) s
  s1.cc.foldl (fun s p => writeBack (slotEvict s p.1) (slotAddr p.1) 0) { s1 with pflag := [] }

/-- Write back every dirty line (R72, R190). -/
def flushLines (s : State) : State :=
  s.dir.foldl (fun s p =>
    let d := dirOf s (64 * p.1)
    let s1 := evictLine s (64 * p.1)
    if d.dirty then writeBack s1 (64 * p.1) d.key else s1) s

/-- CALLHEAD and CALLPUB of a tower take its CALLTAIL (R73). -/
def alignCalls (s : State) (t : Nat) : State :=
  let v := slotRaw s (slotKey t 8)
  slotEvict (slotEvict (putSlot (putSlot s (slotKey t 9) v) (slotKey t 10) v) (slotKey t 9)) (slotKey t 10)

/-- FWSTAT.STATE after a preserving reset (R69). -/
def fwAfterReset (st : BitVec 3) : BitVec 3 := if st = 3 then 5 else 0

/-- CFGWIN after a preserving reset by a host (R5, R69, R72, R73): the fields that no rule keeps take their reset values. -/
def cfgAfter (c : Cfg) (who : BitVec 2) (now : Nat) : Cfg :=
  { Cfg.reset with
    step := 2
    period := c.period
    active := who
    epoch := 1
    leaseEnd := now + c.period.toNat * cyclesPerMs
    preserved := true
    prcount := c.prcount + 1
    fwState := fwAfterReset c.fwState
    mslot := c.mslot.filter fun p => c.served && decide (2 ≤ p.1 ∧ p.1 ≤ 4)
    served := c.served
    errlog := c.errlog
    errN := c.errN
    port := c.port
    coldN := c.coldN }

/-- A preserving reset made by a host (R72, R73, R76, R87). DESIGN CHOICE (log 154): the count of cycles goes on, so the passes of
R90 keep the grid of the cold reset; the manual does not say which reset they are counted from. -/
def preservingOp (s : State) (who : BitVec 2) : State :=
  let s1 := if s.cfg.cont then s else freezeAll s
  let s2 := slotEvict (flushLines (flushCounters s1)) (slotKey 0 4)
  let s3 := (List.range 8).foldl alignCalls s2
  let z := State.reset
  { z with
    cycle := s.cycle
    draws := s3.draws
    mem := s3.mem
    side := s3.side
    hostPois := s3.hostPois
    keys := s3.keys
    asidtab := s3.asidtab
    peermap := s3.peermap
    flapp := s3.flapp
    cgroup := s3.cgroup
    slotPois := s3.slotPois
    tencfg := s3.tencfg
    entries := s3.entries.foldl (fun m e => SMap.set LEntry.reset m e.1 { LEntry.reset with gen := e.2.gen }) []
    cfg := cfgAfter s3.cfg who s.cycle
    out := s3.out }

/-- A cold reset (R74): every register at its reset value, every HBM4E line UNINIT, new keys. What stands in flash, in the
expanders and in host memory is outside the reset. -/
def coldOp (s : State) : State :=
  let z := State.reset
  { z with
    draws := s.draws
    mem := s.mem.filter fun c => decide (hbmSize ≤ c.1)
    side := s.side.filter fun c => decide (hbmSize ≤ 64 * c.1)
    hostPois := s.hostPois
    cfg := { Cfg.reset with coldN := s.cfg.coldN + 1 }
    out := s.out }

/-- The package reset pin (R74). -/
def execResetPin (s : State) : Out := .next (coldOp s)

end Sys2Proof.Machine
end

