-- ==== Sys2Proof/Machine/CfgWrite.lean ====
section
/-! DEFINITION. Machine/CfgWrite.lean: writes to CFGWIN by hosts and through cfgdat: the lease, the window of counters, ring
registers, interrupt waiters, firmware commands, resets; and the SPDM responder (R19, R26, R44, R45, R50 to R60, R66 to R69,
R71, R72, R324). -/

namespace Sys2Proof.Machine

/-- Who writes a CFGWIN register. -/
inductive Writer where
  | host (h : HostId)
  | service
deriving DecidableEq, Repr

/-- INDEX of a writer in an error-log entry (R480). -/
def Writer.code : Writer → Nat
  | .host .a => 0 | .host .b => 1 | .service => 2

/-- ACTIVE code of a host (R51). -/
def hostCode : HostId → BitVec 2
  | .a => 1 | .b => 2

/-- The other host. -/
def otherHost : HostId → HostId
  | .a => .b | .b => .a

/-- Whether a writer is the active host. -/
def isActive (s : State) : Writer → Bool
  | .host h => s.activeHost == some h
  | .service => false

/-- A write that is dropped is logged with CLASS 5 (R45, R480). -/
def dropWrite (s : State) (w : Writer) (code off v : Nat) : State := logError s 8 5 code w.code off v

/-! ## The lease (R51 to R53, R60) -/

/-- End of a lease that starts now. -/
def leaseFrom (s : State) : Nat := s.cycle + s.cfg.period.toNat * cyclesPerMs

/-- A host becomes active; the vectors that were pending are sent (R52, R60). -/
def becomeActive (s : State) (h : HostId) : State :=
  let c := s.cfg
  let s1 : State := { s with cfg := { c with
    active := hostCode h, claimed := false, epoch := c.epoch + 1, leaseEnd := leaseFrom s, irqPend := [] } }
  c.irqPend.foldl (fun s i => s.emit (.msix h i)) s1

/-- The lease of the active host expires (R52). In recovery no host becomes active (R48). -/
def expireLease (s : State) : State :=
  match s.activeHost with
  | none => s
  | some h =>
    if s.cfg.claimed && s.cfg.phase != 15#4 then becomeActive s (otherHost h)
    else { s with cfg := { s.cfg with active := 0, leaseEnd := 0 } }

/-- Whether the lease has run out: a RENEW at the expiry instant still renews it (R52). -/
def leaseOver (s : State) : Bool := s.cfg.active != 0#2 && decide (s.cfg.leaseEnd < s.cycle)

/-- The expiry of a lease that has run out, before anything that depends on which host is active (R52). -/
def settleLease (s : State) : State := if leaseOver s then expireLease s else s

/-- A lease command of a host, in the value that it writes to LEASECTL (R52). -/
def leaseCommand (s : State) (h : HostId) (v : Nat) : State :=
  let mine := s.activeHost == some h
  let drop := dropWrite s (.host h) 1 0x108 v
  match v % 4 with
  | 1 => if mine then { s with cfg := { s.cfg with leaseEnd := leaseFrom s } } else drop
  | 2 =>
    if s.activeHost = none then becomeActive s h
    else if mine then drop
    else { s with cfg := { s.cfg with claimed := true } }
  | 3 => if mine then expireLease s else drop
  | _ => s

/-! ## Firmware commands (R66 to R69) -/

/-- A counter of the part itself on a tower. -/
def ownCounter (s : State) (t n : Nat) : Nat := (slotRaw s (slotKey t n)).toNat

/-- FWCTL with the KIND of a write; an undefined one leaves the field unchanged (R6, R66). -/
def Cfg.setKind (c : Cfg) (v : Nat) : Cfg := if fieldOf v 3 2 < 3 then { c with fwKind := BitVec.ofNat 2 (fieldOf v 3 2) } else c

/-- STAGE (R66). -/
def stageOp (s : State) (w : Writer) (v : Nat) : State :=
  let c := s.cfg
  if c.fwState = 1 ∨ c.fwState = 3 then dropWrite s w 5 0x400 v
  else
    let c1 := c.setKind v
    { s with cfg := { c1 with fwStaged := c1.fwKind, fwState := 1 } }

/-- Measuring a staged image ends: the bytes that stand in the staging area decide (R49, R66). -/
def measureDone (s : State) : State :=
  let c := s.cfg
  if c.fwState ≠ 1 ∨ c.cont then s
  else
    let k := c.fwStaged.toNat
    let (v, _, good) := measureImage s (fun q => 2 ^ 28 * c.fwarea.toNat + 4096 * q) k
    { s with cfg := { c.setSlot (8 + k) v with fwState := if good then 2 else 6 } }

/-- SWITCH takes its switch point (R67). -/
def switchOp (s : State) (w : Writer) (v : Nat) : State :=
  let c := s.cfg
  if c.fwState ≠ 2 then dropWrite s w 5 0x400 v
  else
    let points := (List.range 8).map (fun t => ownCounter s t 8) ++ [ownCounter s 0 0]
    let fp := points.zipIdx.foldl (fun m p => SMap.set 0#64 m p.2 (BitVec.ofNat 64 p.1)) []
    let s1 : State := { s with cfg := { c.setKind v with fwpoint := fp, fwState := 3, drained := false, fwready := false } }
    points.zipIdx.foldl (fun s p => logError s 9 6 1 p.2 0 p.1) s1

/-- DISCARD (R69). -/
def discardOp (s : State) (w : Writer) (v : Nat) : State :=
  let c := s.cfg
  if c.fwState = 0 ∨ c.fwState = 1 ∨ c.fwState = 3 then dropWrite s w 5 0x400 v
  else { s with cfg := { (c.setKind v).setSlot (8 + c.fwStaged.toNat) 0 with fwState := 0 } }

/-- The new image takes over (R68). -/
def finishSwitch (s : State) : State :=
  let c := s.cfg
  let k := c.fwStaged.toNat
  let c1 := (c.setSlot (2 + k) (SMap.get 0#512 c.mslot (8 + k))).setSlot (8 + k) 0
  { s with cfg := { c1 with fwState := 4, fwready := false, drained := false } }

/-- Whether every call and request below the switch point has replied (R67). -/
def drainDone (s : State) : Bool :=
  let point := fun n => (SMap.get 0#64 s.cfg.fwpoint n).toNat
  (List.range 8).all (fun t => decide (point t ≤ ownCounter s t 10)) && decide (point 8 ≤ ownCounter s 0 1)
    && s.cfg.fwd.isEmpty && s.entries.all fun e => match e.2.rw with | some (_, _, some _) => false | _ => true

/-- The drain of a switch ends (R67 to R69). -/
def drainEnd (s : State) : State :=
  if s.cfg.fwState = 3 ∧ !s.cfg.drained ∧ drainDone s ∧ !s.cfg.cont then
    let s1 : State := { s with cfg := { s.cfg with drained := true, drainAt := s.cycle } }
    if s.cfg.fwready then finishSwitch s1 else s1
  else s

/-- Whether the ready signal is overdue: 100 ms after the drain (R68). -/
def readyOverdue (s : State) : Bool :=
  s.cfg.fwState == 3 && s.cfg.drained && decide (s.cfg.drainAt + 100 * cyclesPerMs < s.cycle) && !s.cfg.cont

/-- The old image resumes (R68). -/
def revertSwitch (s : State) : State :=
  if readyOverdue s then { s with cfg := { s.cfg with fwState := 5, fwready := false, drained := false } } else s

/-- A write of FWREADY by a service hart (R69). The 100 ms limit comes first (R68). -/
def readyOp (s : State) (v : Nat) : State :=
  let s1 := revertSwitch s
  let c := s1.cfg
  if c.fwState ≠ 3 then dropWrite s1 .service 5 0x460 v
  else if v % 2 = 0 then { s1 with cfg := { c with fwready := false } }
  else if c.drained then finishSwitch s1
  else { s1 with cfg := { c with fwready := true } }

/-- FWCTL (R66). -/
def fwctlWrite (s : State) (w : Writer) (v : Nat) : State :=
  match v % 4 with
  | 1 => stageOp s w v
  | 2 => switchOp s w v
  | 3 => discardOp s w v
  | _ => { s with cfg := s.cfg.setKind v }

/-! ## Interrupt waiters (R59) -/

/-- Whether an interrupt waiter entry is armed. -/
def irqArmed (s : State) (i : Nat) : Bool := (SMap.get 0#128 s.cfg.ivt i).getLsbD 0

/-- Write an interrupt waiter entry. -/
def setIvt (s : State) (i : Nat) (e : BitVec 128) : State := { s with cfg := { s.cfg with ivt := SMap.set 0#128 s.cfg.ivt i e } }

/-- Arm an entry with the handle and threshold it holds: it fires at once, waits, or is refused. On a slot that is POISON, ARM stays 1
without a waiter, and the entry polls (DESIGN CHOICE, log 180; R59, R251). -/
def armIrq (s : State) (i : Nat) : State :=
  let e := (SMap.get 0#128 s.cfg.ivt i).toNat
  let body := e / 16 * 16
  match refOf s (BitVec.ofNat 64 body) with
  | .slot t n =>
    match registerWaiter (setIvt s i (BitVec.ofNat 128 (body + 1))) t n (BitVec.ofNat 64 (e / 2 ^ 64)) (.interrupt i) with
    | (.now _, s1) => fireIrq s1 i
    | (_, s1) => s1
  | _ => setIvt s i (BitVec.ofNat 128 (body + 2))

/-- Write half of an entry: its waiter goes first, and it is armed afresh if ARM then reads 1. -/
def ivtWrite (s : State) (i : Nat) (upper : Bool) (v : Nat) : State :=
  let s1 := dropWaiter s (.interrupt i)
  let e := (SMap.get 0#128 s1.cfg.ivt i).toNat
  let new := if upper then e % 2 ^ 64 + v % 2 ^ 64 * 2 ^ 64
    else e / 2 ^ 64 * 2 ^ 64 + v % 2 ^ 64 / 16 * 16 + e / 2 % 2 * 2 + v % 2
  let s2 := setIvt s1 i (BitVec.ofNat 128 new)
  if new % 2 = 1 then armIrq s2 i else s2

/-! ## Rings and the window of counters (R54 to R57) -/

/-- Whether requests are outstanding (R56). -/
def ringBusy (s : State) : Bool := ownCounter s 0 0 != ownCounter s 0 1

/-- Whether a ring of some bytes at an address ends at or below 768 GiB (R57). -/
def ringFits (base bytes : Nat) : Bool := decide (base + bytes ≤ hbmSize)

/-- Slot counts that RQENT may hold (R56). -/
def ringSize (n : Nat) : Bool := (List.range 11).any fun k => n == 64 * 2 ^ k

/-- A host's add through the window (R54, R55). One to a slot that is POISON is dropped and logged as a refused window write, CLASS 5
CODE 4 (DESIGN CHOICE, log 191). -/
def windowAdd (s : State) (w : Writer) (slot v : Nat) : State :=
  let drop := dropWrite s w 4 slot v
  if !isActive s w || decide (2 ^ 32 ≤ v) then drop
  else match SMap.get 0#64 s.cfg.hcw slot with
    | 0 => drop
    | h => match refOf s h with
      | .slot t n => match slotOp s none t n (.add (BitVec.ofNat 64 v)) with
        | (some _, s1) => s1
        | (none, s1) => dropWrite s1 w 4 slot v
      | _ => drop

/-- Whether a window slot may hold a HANDLE: none, or a far counter homed on this part (R54, R236). -/
def windowHandle (s : State) (v : Nat) : Bool :=
  v == 0 || match refOf s (BitVec.ofNat 64 v) with | .slot _ _ => true | _ => false

/-- A write to the window: HANDLE by a service hart from slot 5 on, ACCESS by the active host. A HANDLE that the slot may not
hold is a field outside its range (CODE 2: DESIGN CHOICE, log 140); a host's write of HANDLE is a window write that is dropped
(CODE 4: DESIGN CHOICE, log 141). -/
def windowWrite (s : State) (w : Writer) (off full raw : Nat) : State :=
  let slot := (off - 0x20000) / 16
  match w with
  | .service =>
    if off % 16 ≠ 0 ∨ slot < 5 then dropWrite s w 1 off raw
    else if !windowHandle s full then dropWrite s w 2 off raw
    else { s with cfg := { s.cfg with hcw := SMap.set 0#64 s.cfg.hcw slot (BitVec.ofNat 64 full) } }
  | .host _ => if off % 16 = 8 then windowAdd s w slot raw else dropWrite s w 4 slot raw

/-! ## Resets by RESETCTL (R72) -/

/-- A write of RESETCTL. -/
def resetWrite (s : State) (w : Writer) (v : Nat) : State :=
  let code := v % 256
  match w with
  | .service => dropWrite s w 1 0x200 v
  | .host h =>
    if code ≠ 0xA5 ∧ code ≠ 0xC3 then s
    else if s.cfg.cont || s.cfg.phase == 15#4 || isActive s w then
      if code = 0xA5 then preservingOp s (hostCode h) else coldOp s
    else dropWrite s w 1 0x200 v

/-! ## Register writes (R45, R57, R71) -/

/-- Registers that the active host writes, with `full` the new contents of the register; `low` says that the write covers its
low half (R44). DESIGN CHOICE (log 190): reserved bits of a value are not looked at, so RQBASE and HFBASE take the field of a value
whose reserved bits are not 0. -/
def activeWrite (s : State) (w : Writer) (off full raw : Nat) (low : Bool) : State :=
  let c := s.cfg
  let range := dropWrite s w 2 off raw
  if !isActive s w then dropWrite s w 1 off raw
  else if off = 0x100 then
    let p := full % 2 ^ 14
    if 10 ≤ p ∧ p ≤ 10000 then { s with cfg := { c with period := BitVec.ofNat 14 p } } else s
  else if off = 0x300 then
    let p := full % 64
    if 16 ≤ p ∧ p ≤ 32 then { s with cfg := { c with pwrcap := BitVec.ofNat 6 p } } else range
  else if off = 0x400 then (if low then fwctlWrite s w raw else s)
  else if off = 0x800 then
    let b := fieldOf full 39 16
    if ringBusy s || !ringFits (b * 65536) (c.rqent.toNat * 256) then range
    else { s with cfg := { c with rqbase := BitVec.ofNat 24 b } }
  else if off = 0x808 then
    let n := fieldOf full 16 0
    if ringBusy s || !ringSize n || !ringFits (c.rqbase.toNat * 65536) (n * 256) then range
    else { s with cfg := { c with rqent := BitVec.ofNat 17 n } }
  else if off = 0x810 then
    let b := fieldOf full 39 14
    if !ringFits (b * 16384) 16384 then range else { s with cfg := { c with hfbase := BitVec.ofNat 26 b } }
  else if off = 0x818 then { s with cfg := { c with memkey := BitVec.ofNat 7 full } }
  else ivtWrite s ((off - 0x30000) / 16) (off % 16 == 8) full

/-- Clear the flags of a register that a host writes with ones. -/
def w1cWrite (s : State) (off raw : Nat) : State :=
  if off = 0x208 then { s with cfg := { s.cfg with preserved := s.cfg.preserved && !raw.testBit 10 } }
  else if 0x3008 ≤ off then
    let clear := fun (z : ZLink) => { z with fatal := z.fatal && !raw.testBit 5, misroute := z.misroute && !raw.testBit 6 }
    { s with cfg := { s.cfg with zlink := SMap.upd ZLink.reset s.cfg.zlink ((off - 0x3008) / 8) clear } }
  else
    let clear := fun (g : Gov) => { g with throt := g.throt && !raw.testBit 52, tcrit := g.tcrit && !raw.testBit 53 }
    { s with gov := SMap.upd Gov.reset s.gov ((off - 0x2000) / 8) clear }

/-- Registers that service harts write, 8 bytes at a time (R324). -/
def serviceWrite (s : State) (w : Writer) (off full raw : Nat) : State :=
  let c := s.cfg
  if w ≠ .service then dropWrite s w 1 off raw
  else if off = 0x460 then readyOp s raw
  else if off = 0x3000 then
    (if full % 4096 = 0xFFF then s else { s with cfg := { c with znode := BitVec.ofNat 12 full } })
  else { s with cfg := { c with zroute := SMap.set 0#18 c.zroute ((off - 0x4000) / 8) (BitVec.ofNat 18 full) } }

/-- Writers of a register (R45 Table 1). -/
inductive RegClass where
  | reset | lease | w1c | active | service | window | readOnly | unlisted
deriving DecidableEq, Repr

/-- Class of the register at an aligned offset. -/
def regClass (off : Nat) : RegClass :=
  if off = 0x200 then .reset
  else if off = 0x108 then .lease
  else if off = 0x208 ∨ (0x2000 ≤ off ∧ off < 0x2040) ∨ (0x3008 ≤ off ∧ off < 0x3098) then .w1c
  else if [0x100, 0x300, 0x400, 0x800, 0x808, 0x810, 0x818].contains off ∨ (0x30000 ≤ off ∧ off < 0x38000) then .active
  else if off = 0x460 ∨ off = 0x3000 ∨ (0x4000 ≤ off ∧ off < 0xC000) then .service
  else if 0x20000 ≤ off ∧ off < 0x24000 then .window
  else if [0x0, 0x8, 0x10, 0x110, 0x408, 0x410].contains off ∨ (0x418 ≤ off ∧ off < 0x460) ∨ (0x1000 ≤ off ∧ off < 0x1400)
    ∨ (0x10000 ≤ off ∧ off < 0x12000) then .readOnly
  else .unlisted

/-- Whether a host write is dropped whole: in CONTAINED all but RESETCTL and flags that ones clear, in recovery all but
RESETCTL (R48, R71). -/
def hostShut (s : State) (w : Writer) (k : RegClass) : Bool :=
  match w with
  | .service => false
  | .host _ => k != .reset && (s.cfg.phase == 15#4 || (s.cfg.cont && k != .w1c))

/-- A write of 4 or 8 bytes to a CFGWIN offset (R44, R45). DESIGN CHOICE (log 142): a refused write of 4 bytes is logged
under its register's offset with the value in its place there. -/
def cfgWrite (s : State) (w : Writer) (off size : Nat) (v : BitVec 64) : State :=
  let s := settleLease s
  if (size ≠ 4 ∧ size ≠ 8) ∨ off % size ≠ 0 then
    match w with | .host h => s.emit (.unsupported h) | .service => s
  else
    let reg := off / 8 * 8
    let part := v.toNat % 2 ^ (8 * size)
    let raw := part * 2 ^ (8 * (off % 8))
    let full := putBytes (cfgRead s reg) (off % 8) size part
    let k := regClass reg
    if hostShut s w k then s
    else match k with
      | .reset => resetWrite s w raw
      | .lease => match w with
        | .host h => leaseCommand s h raw
        | .service => dropWrite s w 1 reg raw
      | .w1c => if w = .service then dropWrite s w 1 reg raw else w1cWrite s reg raw
      | .active => activeWrite s w reg full raw (off % 8 == 0)
      | .service => serviceWrite s w reg full raw
      | .window => windowWrite s w reg full raw
      | .readOnly => dropWrite s w 1 reg raw
      | .unlisted => if w = .service then dropWrite s w 1 reg raw else s

/-- A write through cfgdat at an offset; none where it raises PRIV (R26, R324). -/
def aliasWrite (s : State) (off : Nat) (v : Word) : Option State :=
  if 0x2000 ≤ off ∧ off < 0x2040 ∧ (v.getLsbD 52 ∨ v.getLsbD 53) then none else some (cfgWrite s .service off 8 v)

/-- Bytes of a number, low byte first. -/
def bytesLE (n v : Nat) : List Byte := (List.range n).map fun i => BitVec.ofNat 8 (v / 2 ^ (8 * i))

/-- A host's read of n bytes of CFGWIN (R44). -/
def hostReadOp (s : State) (host : HostId) (off n : Nat) : State :=
  if (n ≠ 4 ∧ n ≠ 8) ∨ off % n ≠ 0 ∨ 2 ^ 18 ≤ off then s.emit (.unsupported host)
  else
    let reg := off / 8 * 8
    (cfgTouch s reg).emit (.readData host (bytesLE n (cfgRead s reg / 2 ^ (8 * (off % 8)))) false)

/-! ## Host writes as events -/

/-- PWRCAP (R19). -/
def execPwrcapWrite (host : HostId) (v : BitVec 64) (s : State) : Out := .next (cfgWrite s (.host host) 0x300 8 v)
/-- GOVSTAT (R26). -/
def execGovstatWrite (host : HostId) (tower : Nat) (v : BitVec 64) (s : State) : Out :=
  .next (if tower < 8 then cfgWrite s (.host host) (0x2000 + 8 * tower) 8 v else s)
/-- LEASECFG (R51). -/
def execLeasecfgWrite (host : HostId) (v : BitVec 64) (s : State) : Out := .next (cfgWrite s (.host host) 0x100 8 v)
/-- RENEW (R52). -/
def execRenew (host : HostId) (s : State) : Out := .next (cfgWrite s (.host host) 0x108 8 1)
/-- CLAIM (R52). -/
def execClaim (host : HostId) (s : State) : Out := .next (cfgWrite s (.host host) 0x108 8 2)
/-- RELEASE (R52). -/
def execRelease (host : HostId) (s : State) : Out := .next (cfgWrite s (.host host) 0x108 8 3)

/-- The lease expires (R52). -/
def execLeaseExpiry (s : State) : Out := .next (settleLease s)

/-- A host read of ACCESS (R55). -/
def execHostCounterRead (host : HostId) (slot : Nat) (s : State) : Out :=
  .next (if slot < 1024 then (windowTouch s slot).emit (.hostValue host (windowValue s slot)) else s)

/-- RQBASE (R56). -/
def execRqbaseWrite (host : HostId) (v : BitVec 64) (s : State) : Out := .next (cfgWrite s (.host host) 0x800 8 v)
/-- RQENT (R56). -/
def execRqentWrite (host : HostId) (v : BitVec 64) (s : State) : Out := .next (cfgWrite s (.host host) 0x808 8 v)

/-- An interrupt waiter entry (R59). -/
def execInterruptWaiterWrite (host : HostId) (index off size : Nat) (v : BitVec 64) (s : State) : Out :=
  .next (if index < 2048 ∧ off < 16 then cfgWrite s (.host host) (0x30000 + 16 * index + off) size v else s)

/-- STAGE (R66). -/
def execStage (host : HostId) (kind : Nat) (s : State) : Out :=
  .next (cfgWrite s (.host host) 0x400 8 (BitVec.ofNat 64 (1 + 4 * (kind % 4))))
/-- SWITCH (R67). -/
def execSwitch (host : HostId) (s : State) : Out := .next (cfgWrite s (.host host) 0x400 8 2)
/-- DISCARD (R69). -/
def execDiscard (host : HostId) (s : State) : Out := .next (cfgWrite s (.host host) 0x400 8 3)
/-- Measuring ends (R66). -/
def execFwMeasureDone (s : State) : Out := .next (measureDone s)
/-- The drain ends (R67). -/
def execFwDrainEnd (s : State) : Out := .next (drainEnd s)
/-- No ready signal in time (R68). -/
def execFwReadyTimeout (s : State) : Out := .next (revertSwitch s)
/-- FWREADY, written by a service hart through cfgdat (R69). -/
def execFwreadyWrite (v : BitVec 64) (s : State) : Out := .next (cfgWrite s .service 0x460 8 v)

/-- RESETCTL code 0xA5 (R72). -/
def execPreservingReset (host : HostId) (s : State) : Out := .next (cfgWrite s (.host host) 0x200 8 0xA5)
/-- RESETCTL code 0xC3 (R74). -/
def execColdReset (host : HostId) (s : State) : Out := .next (cfgWrite s (.host host) 0x200 8 0xC3)

/-! ## SPDM (R50) -/

/-- An answer of the ROM monitor. -/
def spdmAnswer (s : State) (host : HostId) (r : SpdmResp) : State := s.emit (.spdm host r)

/-- GET_VERSION: SPDM 1.3. -/
def execGetVersion (host : HostId) (s : State) : Out := .next (spdmAnswer s host (.version 1 3))
/-- GET_CAPABILITIES. -/
def execGetCapabilities (host : HostId) (s : State) : Out := .next (spdmAnswer s host (.capabilities Config.spdmFlags))
/-- NEGOTIATE_ALGORITHMS: one asymmetric algorithm and one hash are offered. -/
def execNegotiateAlgorithms (host : HostId) (s : State) : Out :=
  .next (spdmAnswer s host (.algorithms [.ecdsaP384] [.sha384]))
/-- GET_DIGESTS: certificate slot 0 alone holds a chain. -/
def execGetDigests (host : HostId) (s : State) : Out := .next (spdmAnswer s host (.digests [0] Config.chainDigest))
/-- GET_CERTIFICATE: certificate slot 0 alone. -/
def execGetCertificate (host : HostId) (slot off len : Nat) (s : State) : Out :=
  .next (spdmAnswer s host (if slot = 0 then .certificate 0 (Config.chainBytes off len) else .invalidRequest))
/-- CHALLENGE. -/
def execChallenge (host : HostId) (slot : Nat) (nonce : BitVec 256) (s : State) : Out :=
  .next (spdmAnswer s host (if slot = 0 then .challengeAuth 0 (Config.challengeSignature nonce) else .invalidRequest))

/-- Measurement indices with their slots (R50): index i + 1 reports MSLOT i. -/
def measurementSlots (c : Cfg) : List (Nat × BitVec 512) :=
  (List.range 16).map fun i => (i + 1, SMap.get 0#512 c.mslot i)

/-- GET_MEASUREMENTS: index 0xFF reports every valid slot, index 0 how many indices there are. -/
def execGetMeasurements (host : HostId) (index : Nat) (s : State) : Out :=
  let all := measurementSlots s.cfg
  .next (spdmAnswer s host (
    if index = 0xFF then .measurements (all.filter fun m => m.2.getLsbD 480)
    else if index = 0 then .measurementCount all.length
    else if index ≤ 16 then .measurements (all.filter fun m => m.1 == index)
    else .invalidRequest))

/-- A request that is not supported: ERROR with code UnsupportedRequest. -/
def execSpdmUnsupported (host : HostId) (_code : Nat) (s : State) : Out := .next (spdmAnswer s host .unsupportedRequest)

end Sys2Proof.Machine
end

