-- ==== Sys2Proof/Machine/Links.lean ====
section
/-! DEFINITION. Machine/Links.lean: host ports, MEMWIN, Zalarn links and peers, memory ports, and the link events that
place the part in CONTAINED (R27, R28, R31, R36 to R42, R46, R53, R150). -/

namespace Sys2Proof.Machine

/-! ## Host ports (R27, R42) -/

/-- A port trains at x4 or wider and 16 GT/s or faster, or stays down (R27). -/
def execHostPortTrain (host : HostId) (lanes rate : Nat) (cxl : Bool) (s : State) : Out :=
  let good := (lanes == 16 || lanes == 8 || lanes == 4) && (rate == 64 || rate == 32 || rate == 16)
  let old := SMap.get HostPort.reset s.cfg.port (portOf host)
  let new : HostPort := if good then ⟨true, true, lanes, rate, cxl⟩ else { old with up := false, lanes := 0, rate := 0 }
  .next (if old.up then s else { s with cfg := { s.cfg with port := SMap.set HostPort.reset s.cfg.port (portOf host) new } })

/-- Surprise link-down or an uncorrectable error on a host port that has trained (R42). -/
def execHostLinkDown (host : HostId) (s : State) : Out :=
  let old := SMap.get HostPort.reset s.cfg.port (portOf host)
  .next (if old.trained then
      enterContained { s with cfg := { s.cfg with
        port := SMap.set HostPort.reset s.cfg.port (portOf host) { old with up := false } } } 1 (portOf host)
    else s)

/-- A CXL viral indication (R42). -/
def execCxlViralIndication (onMemPort : Bool) (port : Nat) (s : State) : Out :=
  .next (enterContained s (if onMemPort then 3 else 2) port)

/-- Link-down on a configured memory port (R42). -/
def execMemoryPortLinkDown (port : Nat) (s : State) : Out :=
  .next (if s.cfg.members.contains port then enterContained s 4 port else s)

/-- An uncorrectable error in a control structure (R70). -/
def execControlStructureError (tower : Nat) (s : State) : Out := .next (enterContained s 6 tower)

/-! ## MEMWIN (R31, R46, R53) -/

/-- Whether some byte of a range lies in a counter store (R46). -/
def meetsStore (off n : Nat) : Bool := meetsCounterStore off n

/-- Whether an access completes as an unsupported request. -/
def memwinRefused (s : State) (off n : Nat) : Bool :=
  s.cfg.phase == 15#4 || !decide (off + n ≤ hbmSize) || meetsStore off n

/-- The lines of a range: address of the first byte in the line and bytes. -/
def rangeLines : Nat → Nat → Nat → List (Nat × Nat)
  | 0, _, _ => []
  | fuel + 1, off, n =>
    if n = 0 then []
    else
      let k := Nat.min n (64 - off % 64)
      (off, k) :: rangeLines fuel (off + k) (n - k)

/-- Read a MEMWIN line at its home, which recalls every copy. -/
def memwinLine (s : State) (pa : Nat) : LineVal × State :=
  readLine s pa s.cfg.memkey.toNat 0 ⟨homeTower pa, none⟩ true

/-- Bytes of a range, and whether a line of it is POISON or UNRESTORED. -/
def memwinBytes : List (Nat × Nat) → State → List Byte × Bool × State
  | [], s => ([], false, s)
  | (pa, k) :: rest, s =>
    let (l, s1) := memwinLine s pa
    let (bs, p, s2) := memwinBytes rest s1
    ((List.range k).map (fun i => BitVec.ofNat 8 (l.bytes / 2 ^ (8 * (pa % 64 + i)))) ++ bs, vcBad (tagVc l.tag) || p, s2)

/-- Class of a line after a host write (R31). -/
def hostClass (old : Vc) (whole poison : Bool) : Vc :=
  if poison then .poison else if whole then .valid else if vcBad old then old else .valid

/-- Write k bytes of one line at its home; FMT, HROT and scales stay (R31). -/
def memwinPut (s : State) (pa k v : Nat) (poison : Bool) : State :=
  let (l, s1) := memwinLine s pa
  let vc := hostClass (tagVc l.tag) (k == 64) poison
  let tag := mkTag (tagFmt l.tag) vc (tagHrot l.tag) (fieldOf l.tag.toNat 16 9) (fieldOf l.tag.toNat 24 17)
  writeLine s1 pa s.cfg.memkey.toNat ⟨homeTower pa, none⟩ true (putBytes l.bytes (pa % 64) k v) tag

/-- Little-endian number of some bytes. -/
def bytesNum : List Byte → Nat
  | [] => 0
  | b :: bs => b.toNat + 256 * bytesNum bs

/-- Write bytes line by line. -/
def memwinPuts (poison : Bool) : List (Nat × Nat) → List Byte → State → State
  | [], _, s => s
  | (pa, k) :: rest, bs, s => memwinPuts poison rest (bs.drop k) (memwinPut s pa k (bytesNum (bs.take k)) poison)

/-- The result of an AtomicOp, and of a CAS that may store nothing. -/
def hostAtomicNew (op : HostAtomic) (bits old v e : Nat) : Nat :=
  match op with
  | .fetchAdd => (old + v) % 2 ^ bits
  | .swap => v % 2 ^ bits
  | .cas => if old = e % 2 ^ bits then v % 2 ^ bits else old

/-- The MEMWIN bytes that a host's access writes. -/
def writtenRange : HostIn → Option (Nat × Nat)
  | .write _ off data _ => some (off, data.length)
  | .atomic _ off _ wide _ _ => some (off, if wide then 8 else 4)
  | .read .. | .add .. => none

/-- A host read through MEMWIN (R31, R46). -/
def memwinRead (host : HostId) (off n : Nat) (s : State) : State :=
  if memwinRefused s off n then s.emit (.unsupported host)
  else
    let (bs, p, s1) := memwinBytes (rangeLines n off n) s
    s1.emit (.readData host bs p)

/-- A host write through MEMWIN: from the active host, outside the counter stores (R31, R46, R53, R71). -/
def memwinWrite (host : HostId) (off : Nat) (data : List Byte) (poison : Bool) (s : State) : State :=
  let n := data.length
  if s.cfg.cont then s
  else if s.cfg.phase = 15 ∨ hbmSize < off + n then s.emit (.unsupported host)
  else if meetsStore off n then dropWrite (s.emit (.unsupported host)) (.host host) 3 off 0
  else if !isActive s (.host host) then dropWrite s (.host host) 3 off 0
  else memwinPuts poison (rangeLines n off n) data s

/-- A host AtomicOp on MEMWIN: 32 and 64 bits, CAS 64 bits only; an operation that the port does not complete is an unsupported
request (R28). So is a misaligned one (DESIGN CHOICE, log 143), and one that meets a counter store, which is logged as the refused
write that it also is (R46; DESIGN CHOICE, log 144). On a line that is POISON or UNRESTORED it completes with the old value, without
a poison indication, and the line keeps its class (DESIGN CHOICE, log 189). -/
def memwinAtomic (host : HostId) (off : Nat) (op : HostAtomic) (wide : Bool) (operand expected : Word) (s : State) : State :=
  let n := if wide then 8 else 4
  if s.cfg.cont then s
  else if s.cfg.phase = 15 ∨ hbmSize < off + n ∨ off % n ≠ 0 ∨ (op = .cas ∧ !wide) then s.emit (.unsupported host)
  else if meetsStore off n then dropWrite (s.emit (.unsupported host)) (.host host) 3 off 0
  else if !isActive s (.host host) then dropWrite s (.host host) 3 off 0
  else
    let (l, s1) := memwinLine s off
    let old := l.bytes / 2 ^ (8 * (off % 64)) % 2 ^ (8 * n)
    let s2 := memwinPut s1 off n (hostAtomicNew op (8 * n) old operand.toNat expected.toNat) false
    s2.emit (.hostValue host (BitVec.ofNat 64 old))

/-- Whether a write guard stalls an access: it would write a guarded page (R212). One that is dropped or refused, in CONTAINED, in
recovery or from a host that is not active, does not wait (R48, R53, R71). -/
def accessStalls (s : State) (x : HostIn) : Bool :=
  match writtenRange x with
  | some (off, n) => !s.cfg.cont && s.cfg.phase != 15#4 && isActive s (.host x.host) && guardedPa s off n
  | none => false

/-- Perform a host's access. -/
def performAccess (x : HostIn) (s : State) : State :=
  let s := settleLease s
  match x with
  | .write h off data p => memwinWrite h off data p s
  | .read h off n => memwinRead h off n s
  | .atomic h off op w v e => memwinAtomic h off op w v e s
  | .add h slot v => cfgWrite s (.host h) (0x20008 + 16 * slot) 8 v

/-- A host's access arrives: it waits where a write guard stalls it, or stalls an earlier one of the same host (R55, R212,
R231). -/
def hostAccess (x : HostIn) (s : State) : State :=
  if accessStalls s x || s.stalledIn.any (fun y => y.host == x.host) then { s with stalledIn := s.stalledIn ++ [x] }
  else performAccess x s

/-- The first waiting access that may go on, with those before and after it: its host has none waiting before it. -/
def readyAccess (s : State) : List HostIn → List HostIn → Option (HostIn × List HostIn)
  | _, [] => none
  | before, x :: xs =>
    if accessStalls s x || before.any (fun y => y.host == x.host) then readyAccess s (before ++ [x]) xs
    else some (x, before ++ xs)

/-- A host's access that has waited is performed. -/
def resumeAccess (s : State) : State :=
  match readyAccess s [] s.stalledIn with
  | some (x, rest) => performAccess x { s with stalledIn := rest }
  | none => s

/-- A host read through MEMWIN (R46). -/
def execMemwinRead (host : HostId) (off n : Nat) (s : State) : Out := .next (hostAccess (.read host off n) s)
/-- A host write through MEMWIN (R31). -/
def execMemwinWrite (host : HostId) (off : Nat) (data : List (BitVec 8)) (poison : Bool) (s : State) : Out :=
  .next (hostAccess (.write host off data poison) s)
/-- A host AtomicOp on MEMWIN (R28). -/
def execHostAtomicOp (host : HostId) (off : Nat) (op : HostAtomic) (wide : Bool) (operand expected : BitVec 64) (s : State) :
    Out := .next (hostAccess (.atomic host off op wide operand expected) s)
/-- A host write of ACCESS (R55). -/
def execHostCounterAdd (host : HostId) (slot : Nat) (v : BitVec 64) (s : State) : Out :=
  .next (if slot < 1024 then hostAccess (.add host slot v) s else s)

/-- A CFGWIN register without a row of its own (R45); an ACCESS field is an add in its order (R55). -/
def execCfgwinWrite (host : HostId) (off size : Nat) (v : BitVec 64) (s : State) : Out :=
  .next (if isAccess (off / 8 * 8) && (size == 4 || size == 8) && off % size == 0 then
      hostAccess (.add host ((off - 0x20000) / 16) (BitVec.ofNat 64 (v.toNat % 2 ^ (8 * size) * 2 ^ (8 * (off % 8))))) s
    else cfgWrite s (.host host) off size v)

/-- A host's snoop invalidates its line in every RDC (R150). -/
def execHostSnoop (pa : Nat) (s : State) : Out :=
  .next (match regionOf s pa with
    | .host _ => setDir s pa { dirOf s pa with rdc := [] }
    | _ => s)

/-! ## Peers (R40, R41, R241) -/

/-- The memory of this part that a peer's request may name: HBM4E outside the counter stores; anything else is a hole of a
peer's map (R136, R238). -/
def peerPlace (pa : Nat) : Bool := decide (pa < hbmSize) && !inCounterStore pa

/-- Answer a peer. -/
def answer (s : State) (node : Nat) (ok : Bool) (v : Nat) (tag : BitVec 32) : State :=
  s.emit (.peerReply node ok (BitVec.ofNat 512 v) tag)

/-- A peer's atomic at its home (R40); a line whose class is POISON or UNRESTORED is answered in error, unchanged. -/
def peerAtomic (s : State) (node pa : Nat) (op : AtomOp) (wide : Bool) (operand expected : BitVec 64) : State :=
  let n := if wide then 8 else 4
  let k := Config.peerKey node
  let (l, s1) := readLine s pa k.toNat 0 ⟨homeTower pa, none⟩ true
  if vcBad (tagVc l.tag) then answer s1 node false 0 l.tag
  else
    let old := l.bytes / 2 ^ (8 * (pa % 64)) % 2 ^ (8 * n)
    let new := atomNew op (8 * n) old (operand.toNat % 2 ^ (8 * n)) (expected.toNat % 2 ^ (8 * n))
    let s2 := writeLine s1 pa k.toNat ⟨homeTower pa, none⟩ true (putBytes l.bytes (pa % 64) n new)
      (scalarTag (tagFmt l.tag) l.tag)
    answer s2 node true old 0

/-- A counter request of a peer, checked by the group entry of its slot (R241). -/
def peerCounterOp (s : State) (node : Nat) (handle : Word) (op : COp) : State :=
  match refOf s handle with
  | .slot t n =>
    if !groupPeerOk s t n || !op.deltaOk then answer s node false 0 0
    else match slotOp s none t n op with
      | (some v, s1) => answer s1 node true v.toNat 0
      | (none, s1) => answer s1 node false 0 0
  | _ => answer s node false 0 0

/-- A peer's CWAIT at this part's home (R40, R245). -/
def peerWaitOp (s : State) (node : Nat) (handle thr : Word) (token : Nat) : State :=
  match refOf s handle with
  | .slot t n =>
    if !groupPeerOk s t n then answer s node false 0 0
    else match registerWaiter s t n thr (.peer node token) with
      | (.now v, s1) => s1.emit (.peerWake node token v)
      | (.queued, s1) => s1
      | (.full, s1) => s1.emit (.peerFull node token)
      | (.bad, s1) => answer s1 node false 0 0
  | _ => answer s node false 0 0

/-- Write the bits of a line that a peer's partial store names, at its home: the class of a line that is POISON or UNRESTORED
stays (R40, R197). -/
def peerMerge (s : State) (node pa : Nat) (mask data : BitVec 512) (tag : BitVec 32) : State :=
  let k := (Config.peerKey node).toNat
  let (l, s1) := readLine s pa k 0 ⟨homeTower pa, none⟩ true
  let new := (BitVec.ofNat 512 l.bytes &&& ~~~mask) ||| (data &&& mask)
  writeLine s1 pa k ⟨homeTower pa, none⟩ true new.toNat (if vcBad (tagVc l.tag) then l.tag else tag)

/-- Write the tag of a line for a peer's TAGW (R40, R371). -/
def peerRetag (s : State) (node pa : Nat) (tag : BitVec 32) : State :=
  let k := (Config.peerKey node).toNat
  let (l, s1) := readLine s pa k 0 ⟨homeTower pa, none⟩ true
  writeLine s1 pa k ⟨homeTower pa, none⟩ true (if tagVc tag = .uninit then 0 else l.bytes) tag

/-- Perform a peer's request. DESIGN CHOICE (log 186): memory that it may not name is a hole. -/
def peerPerform (s : State) (node : Nat) (req : PeerReq) : Out :=
  match req with
  | .readLine pa =>
    if !peerPlace pa then .fault (.hole pa)
    else
      let (l, s1) := readLine s pa (Config.peerKey node).toNat 0 ⟨homeTower pa, none⟩ true
      .next (answer s1 node true l.bytes l.tag)
  | .writeLine pa data tag =>
    if !peerPlace pa then .fault (.hole pa)
    else .next (answer (writeLine s pa (Config.peerKey node).toNat ⟨homeTower pa, none⟩ true data.toNat tag) node true 0 0)
  | .writePart pa mask data tag =>
    if !peerPlace pa then .fault (.hole pa) else .next (answer (peerMerge s node pa mask data tag) node true 0 0)
  | .writeTag pa tag =>
    if !peerPlace pa then .fault (.hole pa) else .next (answer (peerRetag s node pa tag) node true 0 0)
  | .atomic pa op wide operand expected =>
    if !peerPlace pa then .fault (.hole pa) else .next (peerAtomic s node pa op wide operand expected)
  | .counterAdd h d => .next (peerCounterOp s node h (.add d))
  | .counterXadd h d => .next (peerCounterOp s node h (.xadd d))
  | .counterRead h => .next (peerCounterOp s node h .read)
  | .counterTest h t => .next (peerCounterOp s node h (.test t))
  | .counterWait h t k => .next (peerWaitOp s node h t k)
  | .counterUnwait _ k => .next { s with waiters := s.waiters.filter fun w => w.who != .peer node k }

/-- A request of a peer (R40). In CONTAINED the part performs none and answers none, a read among them (DESIGN CHOICE, log 185: R43
bars writes and counter adds alone). -/
def execPeerRequest (node : Nat) (req : PeerReq) (s : State) : Out :=
  if s.cfg.cont then .next s else peerPerform s node req

/-- Take the wait of a token out of the list of those at peers' homes. -/
def takeRemote (s : State) (token : Nat) : State := { s with remote := s.remote.filter fun w => w.token != token }

/-- A wake on the counter channel, for the wait that its token numbers; one whose wait has ended is discarded (R40, R245,
R246). -/
def remoteWakeOp (s : State) (token : Nat) (v : Word) : State :=
  match s.remote.find? fun w => w.token == token with
  | none => s
  | some w =>
    let s1 := takeRemote s token
    match w.who with
    | .stream id => s1.later [.cwaitWake id v]
    | .start l j => condMet s1 l j
    | .interrupt _ | .peer _ _ => s1

/-- A stream that a full table has turned away tests the counter 4,096 cycles later (R247). -/
def fullWait (now : Nat) (h : Hart) : Hart :=
  match h.a.wait with
  | .cwait r t d dl => { h with a := { h.a with wait := .cwaitFull r t d dl (now + 4096) } }
  | _ => h

/-- A peer's answer FULL to a wait: a stream tests once, a start condition polls that home (R247). -/
def remoteFull (s : State) (token : Nat) : State :=
  match s.remote.find? fun w => w.token == token with
  | none => s
  | some w =>
    match w.who with
    | .stream id => (takeRemote s token).updHart id (fullWait s.cycle)
    | _ => { s with remote := s.remote.map fun x => if x.token = token then { x with polls := true } else x }

/-- A wake from a peer's home. -/
def execRemoteWake (token : Nat) (value : BitVec 64) (s : State) : Out :=
  .next (if s.cfg.cont then s else remoteWakeOp s token value)

/-- A peer that has sent a containment message is unreachable (R41). -/
def markUnreachable (s : State) (node : Nat) : State :=
  if s.cfg.unreach.contains node then s else { s with cfg := { s.cfg with unreach := s.cfg.unreach ++ [node] } }

/-- A containment message (R41). -/
def execContainmentMessage (node : Nat) (s : State) : Out := .next (markUnreachable s node)

/-! ## Zalarn links (R36 to R39, R42) -/

/-- Change a link. -/
def updLink (s : State) (link : Nat) (f : ZLink → ZLink) : State :=
  { s with cfg := { s.cfg with zlink := SMap.upd ZLink.reset s.cfg.zlink link f } }

/-- A fatal error of a link (R38, R42). DESIGN CHOICE (log 145): the link is down from then on, whichever error it was, so that no
containment message goes out on it. DESIGN CHOICE (log 184): WIDTH keeps the lanes that were in use. -/
def fatalLink (s : State) (link : Nat) : State :=
  enterContained (updLink s link fun z => { z with fatal := true, up := false, fails := 0 }) 5 link

/-- Take the messages of a flit in order (R37, R39 to R41). -/
def takeMsgs (link : Nat) : List FlitMsg → State → Out
  | [], s => .next s
  | m :: ms, s =>
    match m with
    | .request node req =>
      match execPeerRequest node req s with
      | .next s1 => takeMsgs link ms s1
      | o => o
    | .wake k v => takeMsgs link ms (if s.cfg.cont then s else remoteWakeOp s k v)
    | .full k => takeMsgs link ms (if s.cfg.cont then s else remoteFull s k)
    | .containment node => takeMsgs link ms (markUnreachable s node)
    | .otherNode _ => takeMsgs link ms (updLink s link fun z => { z with misroute := true, misrouted := z.misrouted + 1 })

/-- A flit is received (R38): a CRC that still fails asks for a replay, the eighth failure in a row is fatal. -/
def execFlitReceive (link : Nat) (flit : FlitIn) (s : State) : Out :=
  let z := SMap.get ZLink.reset s.cfg.zlink link
  if !z.up then .next s
  else if flit.creditOverflow then .next (fatalLink s link)
  else if !flit.crcOk then
    if 8 ≤ z.fails + 1 then .next (fatalLink s link)
    else .next ((updLink s link fun z => { z with
      fails := z.fails + 1, replays := if z.replays = 65535#16 then z.replays else z.replays + 1 }).emit (.replay link))
  else takeMsgs link flit.msgs (updLink s link fun z => { z with fails := 0 })

/-- A link loses lane lock for 1 ms (R38). -/
def execLaneLockLoss (link : Nat) (s : State) : Out :=
  .next (if (SMap.get ZLink.reset s.cfg.zlink link).up then fatalLink s link else s)

/-- A link trains (R39). -/
def execZalarnLinkTrain (link width peer peerPort : Nat) (s : State) : Out :=
  .next (if link < 18 ∧ 1 ≤ width ∧ width ≤ 8 ∧ peerPort < 18 ∧ peer < 0xFFF then
      updLink s link fun z => { z with
        up := true, width := BitVec.ofNat 4 width, peer := BitVec.ofNat 12 peer, peerPort := BitVec.ofNat 5 peerPort, fails := 0 }
    else s)

end Sys2Proof.Machine
end

