-- ==== Sys2Proof/Machine/Survey.lean ====
section
/-! DEFINITION. Machine/Survey.lean: the lane-cycle survey and the survey buffer (R309 to R313). -/

namespace Sys2Proof.Machine

/-! ## Lane-cycle survey (R309 to R311) -/

/-- A write of svctl: EN, and CLR sets every counter to 0. -/
def svctlSet (h : Hart) (v : Word) : Hart :=
  let h1 := { h with svEn := v.getLsbD 0 }
  if v.getLsbD 1 then
    { h1 with svuse := 0, svmask := 0, svbvl := 0, svstart := 0, svstall := 0, svcyc := 0, svmcyc := 0 }
  else h1

/-- A counted cycle of a hart. -/
def execCountedCycle (h : HartId) (s : State) : Out := .next (s.updHart h countCycle)

/-- Writing svctl. -/
def execSvctlWrite (v : BitVec 64) (s : State) : Out := .next { s with h := svctlSet s.h v }

/-! ## Survey buffer (R312, R313) -/

/-- The survey buffer of a tower. -/
def State.buf (s : State) (t : Nat) : SBuf := SMap.get SBuf.reset s.sbuf t

/-- Change a survey buffer. -/
def State.updBuf (s : State) (t : Nat) (f : SBuf → SBuf) : State := { s with sbuf := SMap.upd SBuf.reset s.sbuf t f }

/-- sbctl as it reads. -/
def sbctl64 (b : SBuf) : Nat :=
  b2n b.arm + 2 * b2n b.trigd + 4 * b.core.toNat + 2 ^ 9 * b.sel.toNat + 2 ^ 11 * b.trig.toNat + 2 ^ 16 * b.post.toNat

/-- A write of sbctl: while ARM = 1 one with ARM = 1 is dropped, and one with ARM = 0 abandons the recording; else the fields are
written, and ARM = 1 starts recording. -/
def sbctlSet (b : SBuf) (v : Word) : SBuf :=
  let arm := v.getLsbD 0
  if b.arm && arm then b
  else
    let core := fieldOf v.toNat 8 2
    let trig := fieldOf v.toNat 13 11
    let post := BitVec.ofNat 16 (v.toNat / 2 ^ 16)
    let b1 := { b with
      core := if core ≤ 64 then BitVec.ofNat 7 core else b.core
      sel := BitVec.ofNat 2 (v.toNat / 2 ^ 9)
      trig := if trig ≤ 3 then BitVec.ofNat 3 trig else b.trig
      post := post }
    if arm then
      { b1 with arm := true, trigd := b1.trig == 0, left := post.toNat, full := false, dumped := false, recs := [], cur := 0 }
    else if b.arm then { b1 with arm := false, full := false, dumped := false, recs := [] }
    else b1

/-- Writing sbctl. -/
def execSbctlWrite (v : BitVec 64) (s : State) : Out := .next (s.updBuf s.h.id.tower fun b => sbctlSet b v)

/-- The trigger of a buffer. -/
def SBuf.fire (b : SBuf) : SBuf := if b.arm && !b.full then { b with trigd := true } else b

/-- The record of a cycle as it is written: what was noted of the cycle, the blocked streams and the low bits of the cycle
number (R313 Table 3). -/
def surveyRecord (s : State) (t : Nat) (b : SBuf) : BitVec 128 :=
  let hs := coreHarts s t b.core.toNat
  let waits := fun (x : Stream) => x.st == .qblock || x.st == .wait
  let blocked := (hs.map fun h => if waits h.a || waits h.x then 2 ^ (28 + h.id.group) else 0).foldl (· + ·) 0
  b.cur ||| BitVec.ofNat 128 (blocked + s.cycle % 65536 * 2 ^ 112)

/-- One record; recording stops POST cycles after the trigger. -/
def recordCycle (s : State) (t : Nat) : State :=
  let b := s.buf t
  if !b.arm || b.full || s.cfg.cont then s
  else
    let r := surveyRecord s t b
    s.updBuf t fun b => { b with
      recs := (r :: b.recs).take 65536
      cur := 0
      full := b.trigd && b.left == 0
      left := if b.trigd then b.left - 1 else b.left }

/-- A record of a cycle. -/
def execSurveyBufferRecord (tower : Nat) (s : State) : Out := .next (recordCycle s tower)

/-- Write records four to a line from an address, oldest first. -/
def dumpLines (t : Nat) : Nat → Nat → List (BitVec 128) → State → State
  | 0, _, _, s => s
  | n + 1, pa, rs, s =>
    let v := (rs.take 4).zipIdx.foldl (fun a r => a + r.1.toNat * 2 ^ (128 * r.2)) 0
    dumpLines t n (pa + 64) (rs.drop 4) (writeLine s pa 0 ⟨t, none⟩ true v rawTag)

/-- The buffer is written out. -/
def execSurveyDump (tower : Nat) (s : State) : Out :=
  let b := s.buf tower
  .next (if b.full && b.arm && !b.dumped && !s.cfg.cont then
      (dumpLines tower ((b.recs.length + 3) / 4) b.dest.toNat b.recs.reverse s).updBuf tower fun b => { b with dumped := true }
    else s)

/-- The dump ends: ARM clears and sbdone receives its add. -/
def execSurveyDumpDone (tower : Nat) (s : State) : Out :=
  let b := s.buf tower
  .next (if b.dumped && b.arm && !s.cfg.cont then
      let s1 := s.updBuf tower fun b => { b with arm := false, full := false, dumped := false, recs := [] }
      if b.done = 0 then s1 else (farAdd s1 tower true 0 b.done 1).2
    else s)

end Sys2Proof.Machine
end

