-- ==== Sys2Proof/Machine/Debug.lean ====
section
/-! DEFINITION. Machine/Debug.lean: the debug unit. Freezes, thaws, rewinds by command, breakpoints and BKPT (R314 to R317,
R450). -/

namespace Sys2Proof.Machine

/-- The live entry that a handle names. -/
def handleEntry (s : State) (lh : BitVec 32) : Option Nat :=
  let l := lh.toNat % 4096
  let e := s.entry l
  if e.state ≠ .free ∧ handleOf e l = lh then some l else none

/-- Whether a launch is attached: a valid breakpoint entry names its handle (R314). -/
def attached (s : State) (l : Nat) : Bool :=
  (List.range 8).any fun n =>
    let c := SMap.get 0#64 s.dbg.bpc n
    c.getLsbD 0 && c.toNat / 2 ^ 32 == (handleOf (s.entry l) l).toNat

/-! ## Freezing (R315) -/

/-- Whether a STEP that gives way is waiting in the A-stream: the task ends at it, whatever reaches it (R354). -/
def Hart.inStep (h : Hart) : Bool := h.a.st == .run && h.a.begun

/-- Hard-stop the task in a slot for a freeze. -/
def freezeHart (id : HartId) (s : State) : State :=
  let s1 := s.focus id
  let s2 : State := { s1 with h := requestStop .freeze s1.cycle s1.h }
  if s2.h.id ≠ id ∨ s2.h.parking ≠ 0 ∨ s2.h.req = some .kill then s else if s2.h.inStep then s2 else hardStop s2 4

/-- Freeze a launch: hard at instruction boundaries, or soft at the next pre-emption points. -/
def freezeLaunch (s : State) (l : Nat) (soft : Bool) : State :=
  let s1 := s.setEntry l { s.entry l with frozen := true }
  if soft then updTasks s1 l (requestStop .freezeSoft s1.cycle)
  else ((tasksOf s1 l).map fun h => h.id).foldl (fun s id => freezeHart id s) s1

/-- A freeze command ends when no task of its launch holds a slot. -/
def endFreeze (s : State) (l : Nat) : State :=
  if (s.dbg.cmd == 1#4 || s.dbg.cmd == 2#4) && s.dbg.lh == handleOf (s.entry l) l && (tasksOf s l).isEmpty then
    endDebug s 0 0 0
  else s

/-- FREEZE and FREEZE.SOFT. -/
def freezeCommand (s : State) (soft : Bool) : State :=
  match handleEntry s s.dbg.lh with
  | none => endDebug s 2 0 0
  | some l =>
    if (s.entry l).state = .killing then endDebug s 2 0 0
    else if (s.entry l).frozen then endDebug s 4 0 0
    else endFreeze (freezeLaunch s l soft) l

/-- A stream steps past the first word that it issues from now on. -/
def stepsPast (h : Hart) : Hart := { h with a := { h.a with stepPast := true }, x := { h.x with stepPast := true } }

/-- THAW: the tasks compete as parked tasks, and each steps past the word it stands at, one whose save is still to be made too
(R315, R317). -/
def thawCommand (s : State) : State :=
  match handleEntry s s.dbg.lh with
  | none => endDebug s 3 0 0
  | some l =>
    let e := s.entry l
    if !e.frozen then endDebug s 3 0 0
    else endDebug (updTasks (s.setEntry l { e with
      frozen := false, parked := e.parked.map fun p => { p with stepA := true, stepX := true } }) l stepsPast) 0 0 0

/-- UNDO.STEP and UNDO.TO: the rewind runs once no task holds a slot; one rewind of a context runs at a time (R286). -/
def undoCommand (s : State) (target : LEntry → Nat) : State :=
  match handleEntry s s.dbg.lh with
  | none => endDebug s 3 0 0
  | some l =>
    let e := s.entry l
    if !e.frozen then endDebug s 3 0 0
    else match e.rw with
      | some _ => s
      | none => s.setEntry l { e with rw := some (target e, s.dbg.force, none) }

/-- FREEZE. -/
def execFreeze (s : State) : Out := .next (if s.dbg.cmd = 1 then freezeCommand s false else s)
/-- FREEZE.SOFT. -/
def execFreezeSoft (s : State) : Out := .next (if s.dbg.cmd = 2 then freezeCommand s true else s)
/-- THAW. -/
def execThaw (s : State) : Out := .next (if s.dbg.cmd = 3 then thawCommand s else s)
/-- UNDO.STEP: the target is the current window. -/
def execUndoStep (s : State) : Out := .next (if s.dbg.cmd = 4 then undoCommand s (fun e => e.undo.win.toNat) else s)
/-- UNDO.TO: the target is dbgarg.WIN. -/
def execUndoTo (s : State) : Out := .next (if s.dbg.cmd = 5 then undoCommand s (fun _ => s.dbg.arg.toNat) else s)

/-! ## Breakpoints (R316, R317) -/

/-- The trigger of the buffers that wait for the breakpoint freeze of a task on their core (R312 TRIG 3). -/
def triggerFreeze (s : State) (l : Nat) : State :=
  (tasksOf s l).foldl (fun s h => s.updBuf h.id.tower fun b => if b.trig = 3 ∧ b.core.toNat = h.id.core then b.fire else b) s

/-- A hit by a hart's stream freezes the launch and records it. -/
def breakHit (s : State) (l : Nat) (id : HartId) (onX : Bool) (n : Nat) : State :=
  let d := s.dbg
  let who := id.tower + 2 ^ 3 * id.core + 2 ^ 10 * id.group + 2 ^ 12 * b2n onX
  let s1 : State := { s with dbg := { d with
    frzLH := handleOf (s.entry l) l, frzWho := BitVec.ofNat 32 who, status := 0, res0 := BitVec.ofNat 32 n, res1 := 0 } }
  freezeLaunch (triggerFreeze s1 l) l false

/-- Whether a stream is about to issue the word at an address: one that is blocked there has not issued it (R316). -/
def atWord (t : Stream) (pc : Word) : Bool :=
  (t.st == .run || t.st == .qblock) && !t.begun && !t.stepPast && (match t.pos with | .word w => t.blk.wordAddr w == pc | _ => false)

/-- Whether slot a stands before slot b: lowest tower, core, hart. -/
def slotBefore (a b : HartId) : Bool :=
  decide (a.tower < b.tower) || (a.tower == b.tower && (decide (a.core < b.core) || (a.core == b.core && decide (a.group < b.group))))

/-- The first of some harts. -/
def firstHart : List Hart → Option Hart
  | [] => none
  | h :: hs => match firstHart hs with
    | none => some h
    | some g => if slotBefore g.id h.id then some g else some h

/-- The launch and the hart that hit a breakpoint entry. -/
def breakAt (s : State) (n : Nat) : Option (Nat × Hart) :=
  let c := SMap.get 0#64 s.dbg.bpc n
  let pc := SMap.get 0#64 s.dbg.bpa n
  if !c.getLsbD 0 || c.getLsbD 3 then none
  else match handleEntry s (BitVec.ofNat 32 (c.toNat / 2 ^ 32)) with
    | none => none
    | some l =>
      if (s.entry l).frozen then none
      else
        let at_ := fun (h : Hart) => h.parking == 0 && atWord (if c.getLsbD 1 then h.x else h.a) pc
        (firstHart ((tasksOf s l).filter at_)).map fun h => (l, h)

/-- A breakpoint hits (R316). -/
def execBreakpointHit (entry : Nat) (s : State) : Out :=
  .next (match breakAt s entry with
    | none => s
    | some (l, h) =>
      let c := SMap.get 0#64 s.dbg.bpc entry
      let kept := if c.getLsbD 2 then c &&& ~~~1#64 else c
      breakHit { s with dbg := { s.dbg with bpc := SMap.set 0#64 s.dbg.bpc entry kept } } l h.id (c.getLsbD 1) entry)

/-- The lowest valid entry that names a launch. -/
def attachEntry (s : State) (l : Nat) : Nat :=
  ((List.range 8).find? fun n =>
    let c := SMap.get 0#64 s.dbg.bpc n
    c.getLsbD 0 && c.toNat / 2 ^ 32 == (handleOf (s.entry l) l).toNat).getD 0

/-- BKPT (R316, R317, R450): a hit in an attached launch, nothing at the first word after a THAW, else the cause BKPT. -/
def execBkpt (s : State) : Out :=
  .next (inA .bkpt s fun s =>
    if s.cur.stepPast then s.advance
    else match s.h.launch with
    | none => raise s causeBKPT 0 0 0
    | some l =>
      if !attached s l then raise s causeBKPT 0 0 0
      else if (s.entry l).frozen then s
      else breakHit s l s.h.id false (attachEntry s l))

/-! ## Registers of the unit (R314 Table 4) -/

/-- A write of dbgcmd. -/
def dbgcmdSet (s : State) (v : Word) : State :=
  let d := s.dbg
  if d.cmd ≠ 0 then s
  else
    let c := v.toNat % 16
    let go := 1 ≤ c ∧ c ≤ 5
    let d1 := { d with
      cmd := if go then BitVec.ofNat 4 c else d.cmd, force := v.getLsbD 4, lh := BitVec.ofNat 32 (v.toNat / 2 ^ 32) }
    ({ s with dbg := d1 } : State).later (match c with
      | 1 => [.freeze] | 2 => [.freezeSoft] | 3 => [.thaw] | 4 => [.undoStep] | 5 => [.undoTo] | _ => [])

/-- dbgcmd as it reads. -/
def dbgcmd64 (d : Dbg) : Nat := d.cmd.toNat + 16 * b2n d.force + 2 ^ 32 * d.lh.toNat
/-- dbgres as it reads. -/
def dbgres64 (d : Dbg) : Nat := d.status.toNat + 2 ^ 16 * d.res0.toNat + 2 ^ 48 * d.res1.toNat
/-- dbgfrz as it reads. -/
def dbgfrz64 (d : Dbg) : Nat := d.frzLH.toNat + 2 ^ 32 * d.frzWho.toNat

end Sys2Proof.Machine
end

