-- ==== Sys2Proof/Machine/Csr.lean ====
section
/-! DEFINITION. Machine/Csr.lean: what each CSR reads and what writing it does, and the CSR instructions (R5, R6, R175, R182,
R194, R262, R274, R309, R312, R314, R320 to R324, R334, R448). -/

namespace Sys2Proof.Machine

/-! ## Numbers and privilege (R320, R321) -/

/-- Privilege of a CSR number: 0 both, 1 S mode, 2 S mode on core 64; none for a number not in Table 2. -/
def csrPriv (c : Nat) : Option Nat :=
  if c ≤ 0x005 ∨ c = 0x010 ∨ (0x020 ≤ c ∧ c ≤ 0x028) ∨ (0x030 ≤ c ∧ c ≤ 0x033) ∨ (0x040 ≤ c ∧ c ≤ 0x044)
    ∨ (0x050 ≤ c ∧ c ≤ 0x057) then some 0
  else if c = 0x100 ∨ (0x110 ≤ c ∧ c ≤ 0x113) ∨ (0x120 ≤ c ∧ c ≤ 0x124) ∨ (0x130 ≤ c ∧ c ≤ 0x13F) then some 1
  else if 0x200 ≤ c ∧ c ≤ 0x20B then some 2
  else none

/-- Whether a hart's privilege meets a level of Table 2. -/
def csrMeets (h : Hart) (level : Nat) : Bool :=
  match level with
  | 0 => true
  | 1 => h.priv
  | _ => h.priv && h.id.core == 64

/-! ## Reads -/

/-- Address of a place in the reply area of the acting hart's task (R262). -/
def Hart.replyAt (h : Hart) (off : Nat) : Word := h.csa + 0x400 + BitVec.ofNat 64 off

/-- n bytes of the reply area of the acting hart's task at an offset, as a scalar load reads them (R262); none: its line is POISON or
UNRESTORED (R192, R193). -/
def replyRead (s : State) (off n : Nat) : Option Nat × State :=
  match s.h.launch.bind fun l => heldAt (s.entry l) (s.h.replyAt off).toNat with
  | none => (some 0, s)
  | some (pa, k) =>
    let (v, s1) := heldRead s pa k
    (if vcBad (tagVc v.tag) then none else some (v.bytes / 2 ^ (8 * (pa % 64)) % 2 ^ (8 * n)), s1)

/-- Offset of a field of the reply area, by the CSR that reads it (R262). -/
def replyOff (c : Nat) : Option Nat := match c with | 0x026 => some 0 | 0x027 => some 8 | 0x028 => some 16 | _ => none

/-- POISONED of a read of the reply area. -/
def raiseReply (off : Nat) (s : State) : State := raise s causePOISONED 1 0 (s.h.replyAt off)

/-- Key of the counter group entry that cgidx selects. -/
def Hart.cgKey (h : Hart) : Nat := 256 * (h.cgidx.toNat / 256) + h.cgidx.toNat % 256

/-- The per-hart CSRs, numbers below 0x100. -/
def csrHart (s : State) (c : Nat) : Nat :=
  let h := s.h
  match c with
  | 0x000 => s.cur.vl.toNat
  | 0x001 => s.cur.vfmt.toNat
  | 0x002 => h.tlen
  | 0x003 => h.mk64
  | 0x004 => h.xrm64
  | 0x005 => h.xflags.toNat
  | 0x010 => h.xtrapen.toNat
  | 0x020 => h.tvec.toNat
  | 0x021 => h.tcause.toNat
  | 0x022 => h.tval.toNat
  | 0x023 => b2n h.th
  | 0x024 => h.csa.toNat
  | 0x025 => h.sfrqcnt.toNat
  | 0x030 => h.asid.toNat
  | 0x031 => ptbase64 s h
  | 0x032 => h.lsplit.toNat
  | 0x033 => h.id.group
  | 0x040 => h.win.toNat
  | 0x041 => h.ulogbase.toNat
  | 0x042 => h.ulogsize.toNat
  | 0x043 => ulogmode64 s h
  | 0x044 => ulogstat64 s h
  | 0x050 => b2n h.svEn
  | 0x051 => h.svuse.toNat
  | 0x052 => h.svmask.toNat
  | 0x053 => h.svbvl.toNat
  | 0x054 => h.svstart.toNat
  | 0x055 => h.svstall.toNat
  | 0x056 => h.svcyc.toNat
  | 0x057 => h.svmcyc.toNat
  | _ => 0

/-- The CSRs of a tower or the package, numbers from 0x100. -/
def csrShared (s : State) (c : Nat) : Nat :=
  let h := s.h
  let b := s.buf h.id.tower
  match c with
  | 0x100 => s.asidtab
  | 0x110 => sbctl64 b
  | 0x111 => b.pc.toNat
  | 0x112 => b.dest.toNat
  | 0x113 => b.done.toNat
  | 0x120 => dbgcmd64 s.dbg
  | 0x121 => s.dbg.arg.toNat
  | 0x122 => s.dbg.done.toNat
  | 0x123 => dbgres64 s.dbg
  | 0x124 => dbgfrz64 s.dbg
  | 0x200 => h.tenidx.toNat
  | 0x201 => s.tenant h.tenidx.toNat
  | 0x202 => h.peeridx.toNat
  | 0x203 => (SMap.get 0#64 s.peermap h.peeridx.toNat).toNat
  | 0x204 => h.keyidx.toNat
  | 0x207 => h.cgidx.toNat
  | 0x208 => (SMap.get 0#64 s.cgroup h.cgKey).toNat
  | 0x209 => s.flapp
  | 0x20A => 8 * h.cfgoff.toNat
  | _ =>
    if 0x130 ≤ c ∧ c < 0x138 then (SMap.get 0#64 s.dbg.bpc (c - 0x130)).toNat
    else if 0x138 ≤ c ∧ c < 0x140 then (SMap.get 0#64 s.dbg.bpa (c - 0x138)).toNat
    else 0

/-- What a CSR reads; cfgdat reads CFGWIN (R324). -/
def csrValue (s : State) (c : Nat) : Word × State :=
  match c with
  | 0x20B => (BitVec.ofNat 64 (cfgRead s (8 * s.h.cfgoff.toNat)), cfgTouch s (8 * s.h.cfgoff.toNat))
  | _ => (BitVec.ofNat 64 (if c < 0x100 then csrHart s c else csrShared s c), s)

/-! ## Writes -/

/-- What a write of a CSR gives. -/
inductive CsrRes where
  | ok (s : State)
  | fmt (code : Nat)
  | priv

/-- xrm: an undefined RM leaves RM, and an LFSR of 0 stores 1 (R175). -/
def xrmSet (h : Hart) (v : Word) : Hart :=
  let rm := v.toNat % 8
  let l := BitVec.ofNat 32 (v.toNat / 2 ^ 32)
  { h with rm := if rm ≤ 4 then BitVec.ofNat 3 rm else h.rm, lfsr := if l = 0 then 1 else l }

/-- TENCFG of the tenant that tenidx selects: a QUANTUM of 0 leaves QUANTUM, and a smaller one clips the deficits (R81, R92). -/
def tendatSet (s : State) (v : Word) : State :=
  let t := s.h.tenidx.toNat
  let n := v.toNat
  let q := if tenQuantum n = 0 then tenQuantum (s.tenant t) else tenQuantum n
  let e := n % 32 + 2 ^ 8 * q + 2 ^ 24 * tenAge n + 2 ^ 40 * tenCap n
  clipDeficits { s with tencfg := SMap.set tencfgReset s.tencfg t (BitVec.ofNat 64 e) } t

/-- PEERMAP entry that peeridx selects: a NODE of 0xFFF leaves NODE (R6, R136). -/
def peerdatSet (s : State) (v : Word) : State :=
  let p := s.h.peeridx.toNat
  let old := (SMap.get 0#64 s.peermap p).toNat % 4096
  let node := if v.toNat % 4096 = 0xFFF then old else v.toNat % 4096
  { s with peermap := SMap.set 0#64 s.peermap p (BitVec.ofNat 64 (node + 4096 * b2n (v.getLsbD 12))) }

/-- Key K takes HI and LO; key 0 cannot be written (R189, R323). -/
def keyhiSet (s : State) (v : Word) : State :=
  let k := s.h.keyidx.toNat
  if k = 0 then s
  else { s with keys := SMap.set (none, 0) s.keys k (some (BitVec.ofNat 128 (v.toNat * 2 ^ 64 + s.keylo.toNat)), keyVersion s k + 1) }

/-- The counter group entry that cgidx selects, in every tower's copy (R241, R436). -/
def cgdatSet (s : State) (v : Word) : State :=
  { s with cgroup := SMap.set 0#64 s.cgroup s.h.cgKey (v &&& 0x7FFFF#64) }

/-- flapp (R323). -/
def flappSet (s : State) (v : Word) : State := setFlapp s (fieldOf v.toNat 51 12)

/-- Writing a per-hart CSR. -/
def csrSetHart (s : State) (c : Nat) (v : Word) : CsrRes :=
  let h := s.h
  let n := v.toNat
  match c with
  | 0x000 => .ok (s.setCur { s.cur with vl := BitVec.ofNat 13 (Nat.min n (vlmax h.joined s.cur.vfmt.toNat)) })
  | 0x001 => if fmtDefined (n % 32) then .ok (s.setCur { s.cur with vfmt := BitVec.ofNat 5 n }) else .fmt (n % 32)
  | 0x004 => .ok { s with h := xrmSet h v }
  | 0x005 => .ok { s with h := { h with xflags := BitVec.ofNat 6 n } }
  | 0x010 => .ok { s with h := { h with xtrapen := BitVec.ofNat 3 n } }
  | 0x020 => .ok { s with h := { h with tvec := BitVec.ofNat 64 (n / 4 * 4) } }
  | 0x043 => .ok { s with h := { h with hold := v.getLsbD 0 } }
  | 0x050 => .ok { s with h := svctlSet h v }
  | _ => .ok s

/-- Writing a CSR of the survey buffer or the debug unit. -/
def csrSetDebug (s : State) (c : Nat) (v : Word) : State :=
  let t := s.h.id.tower
  let armed := (s.buf t).arm
  let d := s.dbg
  let n := v.toNat
  if c = 0x110 then s.updBuf t fun b => sbctlSet b v
  else if c = 0x111 then (if armed then s else s.updBuf t fun b => { b with pc := BitVec.ofNat 64 (n / 4 * 4) })
  else if c = 0x112 then
    (if armed then s else s.updBuf t fun b => { b with dest := BitVec.ofNat 64 (fieldOf n 51 20 * 2 ^ 20) })
  else if c = 0x113 then (if armed then s else s.updBuf t fun b => { b with done := v })
  else if c = 0x120 then dbgcmdSet s v
  else if c = 0x121 then { s with dbg := { d with arg := BitVec.ofNat 32 n } }
  else if c = 0x122 then { s with dbg := { d with done := v } }
  else if 0x130 ≤ c ∧ c < 0x138 then
    { s with dbg := { d with bpc := SMap.set 0#64 d.bpc (c - 0x130) (BitVec.ofNat 64 (n % 16 + n / 2 ^ 32 * 2 ^ 32)) } }
  else if 0x138 ≤ c ∧ c < 0x140 then
    { s with dbg := { d with bpa := SMap.set 0#64 d.bpa (c - 0x138) (BitVec.ofNat 64 (n / 4 * 4)) } }
  else s

/-- Writing a CSR of the service harts. -/
def csrSetService (s : State) (c : Nat) (v : Word) : CsrRes :=
  let h := s.h
  let n := v.toNat
  match c with
  | 0x200 => .ok { s with h := { h with tenidx := BitVec.ofNat 7 n } }
  | 0x201 => .ok (tendatSet s v)
  | 0x202 => .ok { s with h := { h with peeridx := BitVec.ofNat 10 n } }
  | 0x203 => .ok (peerdatSet s v)
  | 0x204 => .ok { s with h := { h with keyidx := BitVec.ofNat 7 n } }
  | 0x205 => .ok { s with keylo := v }
  | 0x206 => .ok (keyhiSet s v)
  | 0x207 => .ok { s with h := { h with cgidx := BitVec.ofNat 11 n } }
  | 0x208 => .ok (cgdatSet s v)
  | 0x209 => .ok (flappSet s v)
  | 0x20A => .ok { s with h := { h with cfgoff := BitVec.ofNat 15 (n / 8) } }
  | 0x20B => match aliasWrite s (8 * h.cfgoff.toNat) v with
    | some s1 => .ok s1
    | none => .priv
  | _ => .ok s

/-- Writing a CSR: read-only fields and reserved bits are ignored (R5, R6, R321). -/
def csrStore (s : State) (c : Nat) (v : Word) : CsrRes :=
  if c < 0x100 then csrSetHart s c v
  else if c = 0x100 then .ok { s with asidtab := fieldOf v.toNat 51 19 * 2 ^ 19 }
  else if c < 0x200 then .ok (csrSetDebug s c v)
  else csrSetService s c v

/-! ## Instructions (R448) -/

/-- callstat, callres0 and callres1 read the reply area as a scalar load in program order does, and what is written to them is
ignored (R5, R262). -/
def csrReply (d : BitVec 6) (off : Nat) (s : State) : State :=
  if !s.canWrite then s
  else accessed [s.h.replyAt off] s fun s =>
    match replyRead s off (if off = 0 then 2 else 8) with
    | (none, s1) => raiseReply off s1
    | (some v, s1) => s1.writeReg d (BitVec.ofNat 64 v)

/-- Read the old value, write, and write the destination, as one action. -/
def csrAct (i : Instr) (d : BitVec 6) (c : Nat) (f : Word → Option Word) (s : State) : State :=
  if !s.canWrite then s
  else
    let (old, s1) := csrValue s c
    match f old with
    | none => s1.writeReg d old
    | some v => match csrStore s1 c v with
      | .ok s2 => s2.writeReg d old
      | .fmt code => raise s1 causeILLEGAL_FMT 0 0 (BitVec.ofNat 64 code)
      | .priv => notPrivileged s1 i

/-- A CSR instruction with the checks of R321 and R334. In the X-stream, xrm and xflags wait for the older vector and matrix
instructions, and mk for an MMODE among them (R127, R183). -/
def csrInstr (i : Instr) (d : BitVec 6) (n : BitVec 12) (f : Word → Option Word) (s : State) : State :=
  let c := n.toNat
  if s.onX && decide (6 ≤ c) then illegalStream s i
  else match csrPriv c with
    | none => illegalInstr s i
    | some level =>
      if !csrMeets s.h level then notPrivileged s i
      else if s.onX then (if (s.h.unadmitted && (c == 4 || c == 5)) || (c == 3 && widthOwed s.h) then s else csrAct i d c f s)
      else confirmed s fun s => match replyOff c with
        | some off => csrReply d off s
        | none => csrAct i d c f s

/-- CSRR (R448). -/
def execCsrr (d : BitVec 6) (c : BitVec 12) (s : State) : Out := .next (csrInstr (.csrr d c) d c (fun _ => none) s)

/-- CSRW (R448). -/
def execCsrw (d a : BitVec 6) (c : BitVec 12) (s : State) : Out :=
  .next (csrInstr (.csrw d a c) d c (fun _ => some (s.reg a.toNat)) s)

/-- CSRS (R448): no write for a source of 0. -/
def execCsrs (d a : BitVec 6) (c : BitVec 12) (s : State) : Out :=
  .next (csrInstr (.csrs d a c) d c (fun old => if s.reg a.toNat = 0 then none else some (old ||| s.reg a.toNat)) s)

/-- CSRC (R448): no write for a source of 0. -/
def execCsrc (d a : BitVec 6) (c : BitVec 12) (s : State) : Out :=
  .next (csrInstr (.csrc d a c) d c (fun old => if s.reg a.toNat = 0 then none else some (old &&& ~~~(s.reg a.toNat))) s)

/-- CSRWI (R448): A-stream only. -/
def execCsrwi (d i : BitVec 6) (c : BitVec 12) (s : State) : Out :=
  .next (inA (.csrwi d i c) s (csrInstr (.csrwi d i c) d c fun _ => some (i.setWidth 64)))

/-! ## Data CSR writes as events: those that the acting hart makes -/

/-- keyhi (R323). -/
def execKeyhiWrite (v : BitVec 64) (s : State) : Out := .next (keyhiSet s v)
/-- cgdat (R436). -/
def execCgdatWrite (v : BitVec 64) (s : State) : Out := .next (cgdatSet s v)
/-- tendat (R81). -/
def execTendatWrite (v : BitVec 64) (s : State) : Out := .next (tendatSet s v)
/-- peerdat (R136). -/
def execPeerdatWrite (v : BitVec 64) (s : State) : Out := .next (peerdatSet s v)
/-- flapp (R299). -/
def execFlappWrite (v : BitVec 64) (s : State) : Out := .next (flappSet s v)
/-- cfgdat (R324): a write that would clear a flag of GOVSTAT raises PRIV (R26). -/
def execCfgdatWrite (v : BitVec 64) (s : State) : Out :=
  .next (match aliasWrite s (8 * s.h.cfgoff.toNat) v with
    | some s1 => s1
    | none => notPrivileged s (.csrw 0 0 0x20B))

end Sys2Proof.Machine
end

