-- ==== Sys2Proof/Machine/System.lean ====
section
/-! DEFINITION. Machine/System.lean: the meanings of LAUNCH, CANCEL, PTSET, PTGET, WMARK, SCALL, TLBI and ERET (R443 to R447,
R449, R450). -/

namespace Sys2Proof.Machine

/-! ## LAUNCH and CANCEL (R443, R444) -/

/-- The issuing context of the acting hart (R79). A service hart acts for tenant 0. -/
def issuerOf (s : State) : Issuer :=
  match s.h.launch with
  | some l => ⟨s.h.priv, s.h.asid, (s.entry l).recd.tenant, (s.entry l).recd.prio⟩
  | none => ⟨s.h.priv, s.h.asid, 0, 15⟩

/-- What LAUNCH writes: the handle and the acceptance code. -/
def launchWord (code : Nat) (handle : BitVec 32) : Word := BitVec.ofNat 64 (handle.toNat + 2 ^ 32 * code)

/-- Hand a record that was read to the Launch Unit. -/
def launchRecord (d : BitVec 6) (v : Nat) (s : State) : State :=
  let (code, handle, s1) := acceptLaunch s v (issuerOf s)
  s1.writeReg d (launchWord code handle)

/-- LAUNCH (R443). -/
def execLaunch (d a : BitVec 6) (s : State) : Out :=
  .next (inA (.launch d a) s fun s => ordered s fun s =>
    let va := s.reg a.toNat
    if va.toNat % 128 ≠ 0 then raise s causeALIGN 9 0 va
    else match readRecord causePOISONED 2 va s with
      | (.error e, s1) => raiseErr s1 9 e
      | (.ok v, s1) => launchRecord d v s1)

/-- Whether a CANCEL is refused: in U mode, another tenant or address space (R444). -/
def cancelRefused (s : State) (handle : Nat) : Bool :=
  let e := s.entry (handle % 4096)
  let me := issuerOf s
  e.state != .free && e.gen.toNat == handle / 4096 % 2 ^ 20 && !s.h.priv
    && (e.recd.tenant != me.tenant || e.recd.asid != me.asid)

/-- CANCEL (R444). -/
def execCancel (d a : BitVec 6) (s : State) : Out :=
  .next (inA (.cancel d a) s fun s => confirmed s fun s =>
    let handle := (s.reg a.toNat).toNat % 2 ^ 32
    if cancelRefused s handle then s.writeReg d 3
    else
      let (st, s1) := cancelLaunch s handle
      s1.writeReg d (BitVec.ofNat 64 st))

/-! ## Promotion table (R445) -/

/-- PTSET of entry k with e: a status and the table, or the reserved code that raises ILLEGAL_FMT. -/
def ptSet (pt : BitVec 8192) (k e : Nat) : Except Nat (Nat × BitVec 8192) :=
  if !fmtDefined (k / 32) || !fmtDefined (k % 32) || decide (3 ≤ e / 32) then .ok (1, pt)
  else if e / 32 ≠ 0 ∧ !fmtDefined (e % 32) then .error (e % 32)
  else .ok (0, ptSetByte pt k (if e / 32 = 0 then 0 else e))

/-- PTSET (R445). -/
def execPtset (d a b : BitVec 6) (s : State) : Out :=
  .next (inA (.ptset d a b) s fun s => confirmed s fun s =>
    match ptSet s.h.pt ((s.reg a.toNat).toNat % 1024) ((s.reg b.toNat).toNat % 256) with
    | .error c => raise s causeILLEGAL_FMT 0 0 (BitVec.ofNat 64 c)
    | .ok (st, pt) => ({ s with h := { s.h with pt := pt } } : State).writeReg d (BitVec.ofNat 64 st))

/-- Entries 8q to 8q + 7 of a table. -/
def ptEight (pt : BitVec 8192) (q : Nat) : Word := BitVec.ofNat 64 (pt.toNat / 2 ^ (64 * q))

/-- PTGET (R445). -/
def execPtget (d a : BitVec 6) (s : State) : Out :=
  .next (inA (.ptget d a) s fun s => confirmed s fun s =>
    s.writeReg d (ptEight s.h.pt (fieldOf (s.reg a.toNat).toNat 9 3)))

/-! ## WMARK (R277, R278, R446) -/

/-- The room that a HOLD task's WMARK needs is missing (R277). -/
def wmarkFull (s : State) (l : Nat) : Bool :=
  let e := s.entry l
  s.h.hold && (s.logFull s.h || decide (e.freeUnits * 128 < snapUnits * 128 + e.recd.logBytes / 16))

/-- Whether a SLUICE or PANC of the acting hart's task is outstanding. -/
def enginesOut (s : State) (l : Nat) : Bool :=
  s.cmds.any fun c => c.launch == some l && c.tn == s.h.tn && (match c.body with | .recode _ _ _ => false | _ => true)

/-- WMARK of a task: the release, the engines, the snapshot, and the wait for the collective. -/
def wmarkOp (d : BitVec 6) (l : Nat) (s : State) : State :=
  if s.cur.begun then
    (if (s.entry l).undo.arrived.contains s.h.tn then waitOn (.wmark d.toNat) s
     else
       let w := (s.entry l).undo.win
       ({ s with h := { s.h with win := w } } : State).writeReg d (w.setWidth 64))
  else if wmarkFull s l then raise s causeLOGFULL 0 0 0
  else drained s waitAgain fun s1 =>
    if enginesOut s1 l then waitAgain s1 else waitOn (.wmark d.toNat) (appendSnap s1 d.toNat)

/-- WMARK (R446). A hart without a launch has no log and no collective. -/
def execWmark (d : BitVec 6) (s : State) : Out :=
  .next (inA (.wmark d) s fun s => noHandler (.wmark d) s fun s => confirmed s fun s =>
    match s.h.launch with
    | none => s.writeReg d (s.h.win.setWidth 64)
    | some l => wmarkOp d l s)

/-! ## Service calls (R62 to R64, R447) -/

/-- A call record (R62 Table 12). -/
def callRecord (h : Hart) (ticket func : Nat) (block : Nat) : BitVec 512 :=
  let caller := h.id.tower * 512 + h.id.core * 4 + h.id.group
  BitVec.ofNat 512 (ticket % 2 ^ 64 + 2 ^ 64 * (func % 65536) + 2 ^ 80 * h.asid.toNat + 2 ^ 96 * caller +
    2 ^ 128 * (fieldOf block 319 256) + 2 ^ 192 * (fieldOf block 383 320) + 2 ^ 256 * (block % 2 ^ 256))

/-- Claim a ticket and publish the record; the task that calls is noted for its reply. DESIGN CHOICE (log 147): the manual
gives the ring no address in the tower's HBM4E, and the model keeps its records beside memory, in CFGWIN's state. -/
def publish (s : State) (func block : Nat) : State :=
  let t := s.h.id.tower
  let ticket := ownCounter s t 8
  let k := 256 * t + ticket % 256
  let owner := match s.h.launch with | some l => (l + 1, s.h.gen, s.h.tn) | none => (0, 0, 0)
  let s1 := partAdd s t 8 1
  let s2 : State := { s1 with cfg := { s1.cfg with
    callring := SMap.set 0#512 s1.cfg.callring k (callRecord s1.h ticket func block)
    callOwner := SMap.set (0, 0, 0) s1.cfg.callOwner k owner } }
  partAdd s2 t 9 1

/-- Whether a tower's call ring is full (R63). -/
def ringFull (s : State) (t : Nat) : Bool := decide (256 ≤ (slotRaw s (slotKey t 8) - slotRaw s (slotKey t 10)).toNat)

/-- WaitSpace: a wait on CALLHEAD for one record fewer than the failed claim saw; whatever ends it leads to another claim. A
full waiter table has the stream test CALLHEAD after 4,096 cycles, and an error of the slot is one of the control structures
(R63, R70, R247, R447). -/
def waitSpace (s : State) : State :=
  let t := s.h.id.tower
  match registerWaiter s t 10 (slotRaw s (slotKey t 8) - 255) (.stream s.h.id) with
  | (.queued, s1) => s1.stall .wait (.space none)
  | (.full, s1) => s1.stall .wait (.space (some (s1.cycle + 4096)))
  | (.now _, s1) => waitAgain s1
  | (.bad, s1) => waitAgain { s1 with ctlErr := s1.ctlErr ++ [t] }

/-- Finish a blocking call: the destination takes the status of the reply area, whose line may be POISON (log 168). -/
def endCall (d : Nat) (s : State) : State :=
  match replyRead s 0 2 with
  | (none, s1) => raiseReply 0 s1
  | (some v, s1) => s1.writeReg (BitVec.ofNat 6 d) (BitVec.ofNat 64 v)

/-- WaitReply (R447): at once where the reply counter has reached its threshold, else a wait. A full waiter table has the
stream test the counter after 4,096 cycles, and a slot that is POISON raises the counter fault (R247, R251). -/
def waitReply (d : BitVec 6) (reply thr : Word) (s : State) : State :=
  match refOf s reply with
  | .slot t n =>
    match registerWaiter s t n thr (.stream s.h.id) with
    | (.now _, s1) => endCall d.toNat s1
    | (.queued, s1) => waitOn (.reply reply thr d.toNat none) s1
    | (.full, s1) => waitOn (.reply reply thr d.toNat (some (s1.cycle + 4096))) s1
    | (.bad, s1) => raise s1 causeCOUNTER 10 0 reply
  | _ => waitOn .retry s

/-- Whether a REPLY names a counter of this part that the caller may use (R237, R241, R447). -/
def replyOk (s : State) (reply : Word) : Bool :=
  match refOf s reply with
  | .slot t n => groupOk s t n s.h.priv s.h.asid.toNat
  | _ => false

/-- A call with its argument block. -/
def callOp (nb : Bool) (d : BitVec 6) (func block : Nat) (s : State) : State :=
  let reply := BitVec.ofNat 64 (block / 2 ^ 256)
  let thr := BitVec.ofNat 64 (block / 2 ^ 320)
  if !replyOk s reply then raise s causeCOUNTER 10 0 reply
  else if !nb && s.cur.begun then waitReply d reply thr s
  else if ringFull s s.h.id.tower then (if nb then s.writeReg d 4 else waitSpace s)
  else
    let s1 := publish s func block
    if nb then s1.writeReg d 0 else waitReply d reply thr s1

/-- SCALL and SCALL.NB: the checks and the argument block (R447). -/
def callInstr (nb : Bool) (d a b : BitVec 6) (s : State) : State :=
  ordered s fun s =>
    let va := s.reg b.toNat
    if b = 0 then raise s causeCOUNTER 10 0 0
    else if va.toNat % 16 ≠ 0 then raise s causeALIGN 1 0 va
    else match scalarLoad s va 48 with
      | (.error e, s1) => raiseErr s1 1 e
      | (.ok v, s1) => callOp nb d ((s1.reg a.toNat).toNat % 65536) v s1

/-- SCALL (R447). -/
def execScall (d a b : BitVec 6) (s : State) : Out := .next (inA (.scall d a b) s (callInstr false d a b))

/-- SCALL.NB (R447). -/
def execScallNb (d a b : BitVec 6) (s : State) : Out := .next (inA (.scallNb d a b) s (callInstr true d a b))

/-! ## TLBI (R163, R164, R449) -/

/-- Whether a pinned page is among those that a TLBI removes: a recode job's pages belong to its record's ASID. -/
def pinHit (k : TlbiKind) (c : Cmd) : Bool :=
  c.pins.any fun p =>
    tlbiHits k ⟨0, none, c.pageAsid, p.2.2.1, p.1 * 65536 / 2 ^ levelShift p.2.2.1, p.2.1, p.2.2.2⟩

/-- Whether a vector load whose lines are on their way issued with a translation that a TLBI removes. -/
def loadHit (k : TlbiKind) (h : Hart) (p : PLoad) : Bool :=
  p.got.isNone && p.els.any fun e =>
    tlbiHits k ⟨h.id.tower, none, h.asid.toNat, e.2.2.level, e.2.1 / 8 / 2 ^ levelShift e.2.2.level, e.2.2.leaf, 0⟩

/-- The vector loads of the part that issued with a removed translation and have not been performed (R163). -/
def loadsHit (s : State) (k : TlbiKind) : List (HartId × Nat × BitVec 32) :=
  s.harts.flatMap fun h => (h.loads.filter fun p => loadHit k h p).map fun p => (h.id, p.queue, p.seq)

/-- Remove translations and note the completion add that is due (R163). -/
def shootDown (k : TlbiKind) (ref : Word) (s : State) : State :=
  let s1 := tlbRemove s k
  if ref = 0 then s1
  else
    let held := (s1.cmds.filter fun c => pinHit k c).map fun c => c.id
    { s1 with tlbis :=
        s1.tlbis ++ [⟨s1.h.id, s1.h.priv, s1.h.asid, ref, s1.h.launch, nearOwner s1 ref, held, loadsHit s1 k⟩] }

/-- A TLBI: a privileged release, then the removal. -/
def tlbi (i : Instr) (d : BitVec 6) (k : TlbiKind) (s : State) : State :=
  inA i s fun s => needPriv i s fun s => ordered s fun s =>
    let ref := s.reg d.toNat
    if !doneOk s ref then raise s causeCOUNTER 10 0 ref else (shootDown k ref s).advance

/-- TLBI.va (R449). -/
def execTlbiVa (d a b : BitVec 6) (s : State) : Out :=
  .next (tlbi (.tlbiVa d a b) d (.va ((s.reg b.toNat).toNat % 65536) ((s.reg a.toNat).toNat / 65536 * 65536)) s)
/-- TLBI.asid (R449). -/
def execTlbiAsid (d b : BitVec 6) (s : State) : Out :=
  .next (tlbi (.tlbiAsid d b) d (.asid ((s.reg b.toNat).toNat % 65536)) s)
/-- TLBI.all (R449). -/
def execTlbiAll (d : BitVec 6) (s : State) : Out := .next (tlbi (.tlbiAll d) d .all s)

/-- The completion add of a TLBI: a near counter goes with the task that owned it at issue (R240). -/
def tlbiAdd (s : State) (p : PTlbi) : State :=
  match refOf s p.ref with
  | .near k => (ownerAdd s p.launch p.owner p.h k 1).2
  | _ => (farAdd s p.h.tower p.priv p.asid.toNat p.ref 1).2

/-- Whether the lines of a vector load, by hart, queue and entry, are still on their way. -/
def loadOut (s : State) (x : HartId × Nat × BitVec 32) : Bool :=
  (s.hart? x.1).any fun h => h.loads.any fun p => p.queue == x.2.1 && p.seq == x.2.2 && p.got.isNone

/-- Whether no command and no vector load uses a translation that a TLBI removed (R163, R164). -/
def tlbiFree (s : State) (p : PTlbi) : Bool :=
  (p.cmds.all fun id => s.cmds.all fun c => c.id != id) && p.loads.all fun x => !loadOut s x

/-- The oldest TLBI of a hart none of whose removed translations is still in use, and the list without it. -/
def readyTlbi (s : State) : List PTlbi → List PTlbi → Option (PTlbi × List PTlbi)
  | _, [] => none
  | before, p :: ps =>
    if (before.all fun q => q.h != p.h) && tlbiFree s p then some (p, before ++ ps)
    else readyTlbi s (before ++ [p]) ps

/-- The completion add of the next TLBI that is complete (R163). -/
def execTlbiCompletionAdd (s : State) : Out :=
  .next (if s.cfg.cont then s
    else match readyTlbi s [] s.tlbis with
      | none => s
      | some (p, rest) => tlbiAdd { s with tlbis := rest } p)

/-! ## ERET (R266, R450) -/

/-- ERET. -/
def execEret (s : State) : Out :=
  .next (inA .eret s fun s => if !s.h.th then illegalInstr s .eret else ordered s returnTrap)

end Sys2Proof.Machine
end

