-- ==== Sys2Proof/Machine/Stops.lean ====
section
/-! DEFINITION. Machine/Stops.lean: how a requested stop reaches a hart. Soft stops and kills at pre-emption points, the
deadlines that make them hard, the queue deadlock, and the end of a park's save (R97, R100, R118 to R120, R268, R315,
R354). -/

namespace Sys2Proof.Machine

/-- Cycles within which a victim must reach a boundary: 100 µs (R97, R100). -/
def boundaryLimit : Nat := 130000

/-- Act on the hart of a slot, which then acts: nothing happens in CONTAINED, on a slot that holds nothing, or while its
save is in progress. -/
def onHart (id : HartId) (s : State) (k : State → State) : State :=
  let s1 : State := { s.focus id with onX := false }
  if s.cfg.cont || s1.h.id != id || s1.h.parking != 0 then s else k s1

/-! ## Kills (R97) -/

/-- Each stream that stands at a pre-emption point stops (R118). -/
def stopBoth (h : Hart) : Hart :=
  { h with
    a := if h.a.canStop then stopStream h.a else h.a
    x := if h.x.canStop && !h.unadmitted then stopStream h.x else h.x }

/-- A kill reaches the streams of the acting hart; when both have stopped, the task is gone. An unconfirmed load holds it
back (R365). -/
def killSoft (s : State) : State :=
  if !s.h.loads.isEmpty then s
  else
    let h := stopBoth s.h
    let s1 := if h.a.st = .stopped then dropWaiter { s with h := h } (.stream h.id) else { s with h := h }
    if h.bothStopped then killTask { s1 with h := retireAll h } else s1

/-- A kill at an instruction boundary; an unconfirmed load that fails gives its cause first (R267). -/
def killHard (s : State) : State :=
  match settleLoads s true with
  | (some c, s1) => takeTrap s1 c
  | (none, s1) =>
    let h := haltX s1.h
    killTask { s1 with h := { h with a := stopStream h.a, x := stopStream h.x } }

/-- A task of a KILLING launch at its next boundary (R97). -/
def execKillStop (h : HartId) (s : State) : Out := .next (onHart h s fun t => if t.h.req = some .kill then killSoft t else s)

/-- Whether a request has stood for longer than its limit. A STEP that waits for the X-stream ends its task itself (R354). -/
def stopOverdue (h : Hart) (now : Nat) : Bool :=
  h.parking == 0 && h.req.isSome && decide (h.reqAt + boundaryLimit ≤ now) && !(h.inStep && h.a.wait == .retry)

/-- A killed task that reaches no boundary (R97). -/
def execKillTimeout (h : HartId) (s : State) : Out :=
  .next (onHart h s fun t => if t.h.req = some .kill ∧ stopOverdue t.h s.cycle then killHard t else s)

/-! ## Pre-emptions and freezes (R100, R118, R315) -/

/-- A request reaches the streams of the acting hart. -/
def reachStop (s : State) : State :=
  match s.h.req with
  | none | some .kill => s
  | some .freeze => if s.h.inStep then s else hardStop s 4
  | some r => softStop s (stopKind r)

/-- A soft pre-emption or freeze takes a stream at its next pre-emption point (R100, R315). -/
def execSoftPreemptStop (h : HartId) (s : State) : Out := .next (onHart h s reachStop)

/-- KIND of a stop that has become hard (R261): a freeze stays a freeze. -/
def hardKind (r : Option StopReq) : Nat :=
  match r with | some .freeze | some .freezeSoft => 4 | _ => 3

/-- A STEP still waiting for stores or commands is stopped before it: it has not begun (R354). -/
def unstep (h : Hart) : Hart := if h.inStep then { h with a := { h.a with begun := false, wait := .retry } } else h

/-- Turn a request into a hard stop. -/
def makeHard (s : State) : State := hardStop { s with h := unstep s.h } (hardKind s.h.req)

/-- A victim that reaches no boundary is hard-stopped (R100). -/
def execPreemptTimeout (h : HartId) (s : State) : Out :=
  .next (onHart h s fun t => if stopOverdue t.h s.cycle && t.h.req != some .kill then makeHard t else s)

/-- One stream has stopped for a request and the other is blocked on a queue, with no load on its way (R120). -/
def queueDeadlock (h : Hart) : Bool :=
  let gone := fun (t : Stream) => t.st == .stopped || t.st == .idle
  h.parking == 0 && softRequest h.req && h.loads.isEmpty
    && ((h.a.st == .qblock && gone h.x) || (h.x.st == .qblock && h.a.st == .stopped))

/-- The request becomes a hard pre-emption (R120). -/
def execQblockHardPreempt (h : HartId) (s : State) : Out :=
  .next (onHart h s fun t =>
    if !queueDeadlock t.h then s else if t.h.req = some .kill then killHard t else makeHard t)

/-! ## The save (R268) -/

/-- Whether a hart's save can be made: both streams have stopped, and the lane slots and pipe cycles of every admitted instruction
have been counted (R311, R431). -/
def saveDue (h : Hart) : Bool := h.parking != 0 && h.bothStopped && h.mbusy == 0 && h.lanes.isEmpty

/-- A parked task's state has been saved (R268). -/
def execParkSaveComplete (h : HartId) (s : State) : Out :=
  let s1 : State := { s.focus h with onX := false }
  .next (if s.cfg.cont || s1.h.id != h || !saveDue s1.h then s else parkSave s1)

/-- Whether a freeze command of the debug unit is over: no task of its launch holds a slot (R315). -/
def freezeOver (s : State) : Bool :=
  (s.dbg.cmd == 1#4 || s.dbg.cmd == 2#4) && (tasksOf s (s.dbg.lh.toNat % 4096)).isEmpty

end Sys2Proof.Machine
end

