-- ==== Sys2Proof/Machine/Waits.lean ====
section
/-! DEFINITION. Machine/Waits.lean: how a wait ends. Wakes, timeouts and polls of counters, the WMARK collective and the
rewind of a frozen context (R244 to R247, R278, R287, R447). -/

namespace Sys2Proof.Machine

/-! ## Streams (R245 to R247) -/

/-- The A-stream of a hart ends its wait with a status. -/
def endWait (s : State) (id : HartId) (d : Nat) (status : Word) : State :=
  (dropWaiter s (.stream id)).updHart id fun h => finishWait h d status

/-- A stream that waits for space in its call ring claims again (R63, R447). -/
def claimAgain (s : State) (id : HartId) : State :=
  (dropWaiter s (.stream id)).updHart id fun h => { h with a := { h.a with wait := .retry } }

/-- A wake with a value reaches a stream: one that does not wait for it discards it (R245, R246, R447). -/
def wakeStream (s : State) (id : HartId) (v : Word) : State :=
  match s.hart? id with
  | none => s
  | some h =>
    if s.cfg.cont || h.parking != 0 || h.a.st != .wait then s
    else match h.a.wait with
      | .cwait _ t d _ => if satisfied v t then endWait s id d 0 else s
      | .reply _ t d _ => if satisfied v t then endCall d { s.focus id with onX := false } else s
      | .space _ => claimAgain s id
      | _ => s

/-- A wake from a counter's home (R245). -/
def execCwaitWake (h : HartId) (value : BitVec 64) (s : State) : Out := .next (wakeStream s h value)

/-- The destination register and deadline of a CWAIT in progress. -/
def waitDeadline (h : Hart) : Option (Nat × Nat) :=
  if h.a.st ≠ .wait ∨ h.parking ≠ 0 then none
  else match h.a.wait with
    | .cwait _ _ d dl | .cwaitFull _ _ d dl _ => some (d, dl)
    | _ => none

/-- Whether a deadline has passed; 0 is none (R246). -/
def overdue (deadline now : Nat) : Bool := deadline != 0 && decide (deadline ≤ now)

/-- A CWAIT's timeout elapses: status 1 (R246). -/
def execCwaitTimeout (h : HartId) (s : State) : Out :=
  .next (match s.hart? h with
    | none => s
    | some x =>
      match waitDeadline x with
      | some (d, dl) => if overdue dl s.cycle && !s.cfg.cont then endWait s h d 1 else s
      | none => s)

/-- The cycle at which a hart that a full table turned away tests its counter (R247). -/
def fullPoll (h : Hart) : Option Nat :=
  if h.a.st ≠ .wait ∨ h.parking ≠ 0 then none
  else match h.a.wait with
    | .cwaitFull _ _ _ _ at_ => some at_
    | .space at_ => at_
    | .reply _ _ _ at_ => at_
    | _ => none

/-- What a poll's test leaves: status 0, else 1 if the timeout has passed, else 2 (R246, R247). -/
def pollStatus (dl now : Nat) (met : Bool) : Word := if met then 0 else if overdue dl now then 1 else 2

/-- What the test of a poll does to the stream that waits. Where a stop is asked for, a test that fails leaves it to the stop, whose
status comes first (R246). -/
def pollEnds (s : State) (id : HartId) (d dl : Nat) (r t : Word) (met : Bool) : State :=
  if !met && (s.hart? id).any (fun h => h.req.isSome) then
    s.updHart id fun h => { h with a := { h.a with wait := .cwaitFull r t d dl (s.cycle + 4096) } }
  else endWait s id d (pollStatus dl s.cycle met)

/-- The counter is tested once at its home. A slot that cannot be read, or a peer that refuses, gives the counter fault (R241,
R251); a peer that cannot be reached leaves a CWAIT that nothing satisfies (R41). -/
def pollFull (s : State) (id : HartId) (d : Nat) (r t : Word) (dl : Nat) : State :=
  let bad := fun (s : State) => onHart id s fun t => takeTrap t ⟨false, causeCOUNTER, 10, 0, r⟩
  match refOf s r with
  | .slot tw n =>
    match slotRead s (slotKey tw n) with
    | (some v, s1) => pollEnds s1 id d dl r t (satisfied v t)
    | (none, s1) => bad s1
  | .peer n =>
    if !reachable s n then s.updHart id fun h => { h with a := { h.a with wait := .cwait r t d dl } }
    else
      let (k, s1) := draw s
      let s2 := sendPeer s1 n r.toNat (.counterTest r t)
      if Config.peerGrants k r then pollEnds s2 id d dl r t (satisfied (Config.peerCounter k r) t) else bad s2
  | _ => s

/-- The single test of a call that waits for its reply: the call ends, or it waits for the reply again (R247, R447; DEDUCED,
log 168). -/
def pollReply (s : State) (id : HartId) (r t : Word) (d : Nat) : State :=
  match refOf s r with
  | .slot tw n =>
    match slotRead s (slotKey tw n) with
    | (some v, s1) =>
      if satisfied v t then onHart id s1 (endCall d)
      else s1.updHart id fun h => { h with a := { h.a with wait := .retry } }
    | (none, s1) => onHart id s1 fun t => takeTrap t ⟨false, causeCOUNTER, 10, 0, r⟩
  | _ => s

/-- A stream's poll: the test of a CWAIT or of a call's reply, or another claim of a call record (R63, R247). -/
def pollStream (s : State) (id : HartId) (w : Wait) : State :=
  match w with
  | .cwaitFull r t d dl _ => pollFull s id d r t dl
  | .reply r t d _ => pollReply s id r t d
  | .space _ => claimAgain s id
  | _ => s

/-- A stream turned away by a full table tests the counter (R247). -/
def execCwaitFullPoll (h : HartId) (s : State) : Out :=
  .next (match s.hart? h with
    | none => s
    | some x =>
      match fullPoll x with
      | some at_ => if at_ ≤ s.cycle ∧ !s.cfg.cont then pollStream s h x.a.wait else s
      | none => s)

/-- A CWAIT on a host-homed counter tests it (R29, R246). -/
def execHostCounterPoll (h : HartId) (s : State) : Out :=
  .next (match s.hart? h with
    | none => s
    | some x =>
      if s.cfg.cont || x.a.st != .wait || x.parking != 0 then s
      else match x.a.wait with
        | .cwait r t d _ =>
          match refOf s r with
          | .host _ pa => if satisfied (BitVec.ofNat 64 (readMem s.mem pa 8)) t then endWait s h d 0 else s
          | _ => s
        | _ => s)

/-! ## Waiters that are not streams (R247) -/

/-- Whether a waiter is in a table. -/
def registered (s : State) (w : WaiterId) : Bool := s.waiters.any fun x => x.who == w

/-- A start condition that a peer's full table turned away polls that home: it is met, or it asks for an entry again (R247). A
peer that cannot be reached leaves it as it is (R41). -/
def pollPeerStart (s : State) (l j n : Nat) (r t : Word) : State :=
  let turnedAway := s.remote.any fun w => w.who == .start l j && w.polls
  if !turnedAway || !reachable s n then s
  else
    let s1 : State := { s with remote := s.remote.filter fun w => w.who != .start l j }
    let (k, s2) := draw s1
    let s3 := sendPeer s2 n r.toNat (.counterTest r t)
    if satisfied (Config.peerCounter k r) t then condMet s3 l j else peerWait s3 n r t (.start l j)

/-- A start condition that is neither met nor refused by its check is tested or registered afresh (R241, R247). -/
def pollStart (s : State) (l j : Nat) : State :=
  let e := s.entry l
  if e.state ≠ .waiting ∨ !e.recd.cvalid.getLsbD j ∨ e.sat.getLsbD j ∨ e.refused.getLsbD j then s
  else match listAt e.recd.conds j with
    | none => s
    | some (r, t) =>
      match refOf s r with
      | .slot _ _ | .host _ _ => startCondition s l j r t
      | .peer n => pollPeerStart s l j n r t
      | _ => s

/-- An interrupt waiter or start condition that a full table turned away polls (R59, R247). -/
def pollWaiter (s : State) (w : WaiterId) : State :=
  if s.cfg.cont || registered s w then s
  else match w with
    | .interrupt i => if irqArmed s i then armIrq s i else s
    | .start l j => pollStart s l j
    | .stream _ | .peer _ _ => s

/-- WAITER_POLL. -/
def execWaiterPoll (w : WaiterId) (s : State) : Out := .next (pollWaiter s w)

/-! ## Contexts -/

/-- The collective of a launch completes once every live task has arrived (R278). -/
def execWmarkCollectiveComplete (lix : Nat) (s : State) : Out :=
  .next (if !s.cfg.cont && collectiveReady s lix then completeCollective s lix else s)

/-- Whether every SLUICE and PANC of a launch has ended. -/
def enginesDone (s : State) (l : Nat) : Bool :=
  s.cmds.all fun c => c.launch != some l || (match c.body with | .recode _ _ _ => true | _ => false)

/-- Whether a rewind can run: its context holds no slot, and its target fails the check or every engine command of the context
has ended (R287). -/
def rewindReady (s : State) (l : Nat) : Bool :=
  (tasksOf s l).isEmpty && !s.cfg.cont &&
    match (s.entry l).rw with
    | some (g, _, _) => badTarget (s.entry l).undo g || enginesDone s l
    | none => false

/-- A rewind runs (R287). -/
def execRewind (lix : Nat) (s : State) : Out := .next (if rewindReady s lix then runRewind s lix else s)

end Sys2Proof.Machine
end

