-- ==== Sys2Proof/Machine/Governor.lean ====
section
/-! DEFINITION. Machine/Governor.lean: the power governors. Grants of leave, the duties, and heat (R18 to R26). -/

namespace Sys2Proof.Machine

/-- A tower's governor. -/
def State.governor (s : State) (t : Nat) : Gov := SMap.get Gov.reset s.gov t

/-- Change a tower's governor. -/
def State.updGov (s : State) (t : Nat) (f : Gov → Gov) : State := { s with gov := SMap.upd Gov.reset s.gov t f }

/-! ## Leave (R22) -/

/-- A stream that waits for leave goes on with the instruction that asked. -/
def leaveCame (t : Stream) : Stream := if t.st = .wait ∧ t.wait = .leave then { t with st := .run, wait := .none } else t

/-- Grant the leave that has waited longest: the X-stream of a hart goes on with its matrix work, the A-stream with its engine
command. -/
def grantLeave (s : State) (t : Nat) : State :=
  match (s.governor t).asked with
  | [] => s
  | l :: rest =>
    let s1 := s.updGov t fun g => { g with asked := rest, held := g.held ++ [l] }
    match l.who with
    | .inl id => s1.updHart id fun h => { h with x := leaveCame h.x, mkLV := true }
    | .inr k => match s1.cmds.find? fun c => c.asks && c.id == k with
      | some c => s1.updHart c.h fun h => { h with a := leaveCame h.a }
      | none => s1

/-- LEAVE_GRANT. -/
def execLeaveGrant (tower : Nat) (s : State) : Out := .next (if s.cfg.cont then s else grantLeave s tower)

/-! ## Duty (R18, R19, R24, R26) -/

/-- Sum of the charges of one pool, in units of 0.125 W. -/
def chargeSum (g : Gov) (mem : Bool) : Nat := (g.held.filter fun l => l.mem == mem).foldl (fun n l => n + l.charge) 0

/-- The duty that an allowance of `num / den` units gives a sum. -/
def dutyOf (num den sum : Nat) : Nat := if sum * den ≤ num then 256 else Nat.max 1 (Nat.min 256 (256 * num / (den * sum)))

/-- The matrix duty: 175 W of the full limit, scaled by the cap and the thermal allowance. -/
def matrixDuty (g : Gov) (cap : Nat) : Nat := dutyOf (1400 * g.allow * cap) (16 * 32) (chargeSum g false)

/-- The memory duty: 70 W of the full limit, scaled by the cap. -/
def memoryDuty (g : Gov) (cap : Nat) : Nat := dutyOf (560 * cap) 32 (chargeSum g true)

/-- New duties of a governor; THROT is set when either falls below 256. DEDUCED (log 148): an update that leaves a duty below 256
sets a THROT that was cleared meanwhile. -/
def newDuties (cap : Nat) (g : Gov) : Gov :=
  let m := matrixDuty g cap
  let d := memoryDuty g cap
  { g with mduty := m, sduty := d, throt := g.throt || decide (m < 256) || decide (d < 256) }

/-- DUTY_UPDATE. -/
def execDutyUpdate (tower : Nat) (s : State) : Out :=
  .next (if tower < 8 then s.updGov tower (newDuties s.cfg.pwrcap.toNat) else s)

/-! ## Heat (R20) -/

/-- One step of 1 ms at a temperature: the allowance falls while the tower is hot and rises again after. -/
def heatStep (temp : Nat) (g : Gov) : Gov :=
  let hot := decide (105 ≤ temp) || (g.hot && decide (100 ≤ temp))
  { g with temp := temp, hot := hot, allow := if hot then Nat.max 1 (g.allow - 1) else Nat.min 16 (g.allow + 1) }

/-- A tower reaches 115 °C: the allowance is 1/16, TCRIT is set and the event is logged (R20, R480). -/
def thermalCritical (s : State) (tower temp : Nat) : State :=
  logError (s.updGov tower fun g => { g with temp := temp, hot := true, allow := 1, tcrit := true }) tower 4 1 tower 0 temp

/-- THERMAL_STEP: a step that finds the tower at 115 °C or above, coming from below it, is also the critical event. -/
def execThermalStep (tower temp : Nat) (s : State) : Out :=
  .next (if 8 ≤ tower then s
    else if 115 ≤ temp ∧ (s.governor tower).temp < 115 then thermalCritical s tower temp
    else s.updGov tower (heatStep temp))

/-- THERMAL_CRITICAL (R20). -/
def execThermalCritical (tower temp : Nat) (s : State) : Out :=
  .next (if tower < 8 ∧ 115 ≤ temp then thermalCritical s tower temp else s)

end Sys2Proof.Machine
end

