-- ==== Sys2Proof/Machine/Caches.lean ====
section
/-! DEFINITION. Machine/Caches.lean: what the caches and the table walkers do beside the instructions: a walk's end, a request
at a line's home, and evictions (R147 to R151, R161, R190, R251). -/

namespace Sys2Proof.Machine

/-- A walk made ahead of an access ends: A is set in its leaf and the TLBs are filled, or nothing is held (R161). -/
def execWalkComplete (tower core asid va : Nat) (s : State) : Out :=
  .next (if s.cfg.cont then s else (walkFill s ⟨tower, some core⟩ asid va false).2)

/-- Ownership of a line is granted to a core: every other copy is recalled (R147, R150). -/
def grantOwner (s : State) (pa tower core key : Nat) : State :=
  let (_, s1) := homeRead s pa key
  let d := dirOf s1 pa
  let s2 := own s1 pa key ⟨tower, some core⟩ false
  setDir s2 pa { dirOf s2 pa with l1 := [(tower, core, L1St.e)], dirty := d.dirty }

/-- A request for a line at its home: a shared copy, or ownership of an HBM4E or CXL-local line; a flash line is only ever
shared, and host and peer lines have no home here (R147, R150, R151). -/
def homeServe (s : State) (pa tower core key : Nat) (own : Bool) : State :=
  match regionOf s pa with
  | .hbm | .cxl =>
    if own then grantOwner s pa tower core key else (readLine s pa key 0 ⟨tower, some core⟩ false).2
  | .flash => (readLine s pa key 0 ⟨tower, some core⟩ false).2
  | _ => s

/-- HOME_REQUEST. -/
def execHomeRequest (pa tower core key : Nat) (own : Bool) (s : State) : Out :=
  .next (if s.cfg.cont || inCounterStore pa then s else homeServe s pa tower core key own)

/-- L2_EVICTION: an HBM4E line that the L2 holds leaves it (R148). -/
def execL2Eviction (pa : Nat) (s : State) : Out :=
  .next (if s.cfg.cont || !decide (pa < hbmSize) || !(dirOf s pa).l2 then s else evictLine s pa)

/-- Whether a line has an entry in its home's snoop filter: a flash or CXL-local line that a cache holds (R149). -/
def snooped (s : State) (pa : Nat) : Bool :=
  match regionOf s pa with
  | .flash | .cxl => cached (dirOf s pa)
  | _ => false

/-- SNOOP_FILTER_EVICTION: a flash or CXL-local line leaves every cache (R149). -/
def execSnoopFilterEviction (pa : Nat) (s : State) : Out :=
  .next (if s.cfg.cont || !snooped s pa then s else evictLine s pa)

/-- COUNTER_CACHE_EVICTION (R251). -/
def execCounterCacheEviction (tower slot : Nat) (s : State) : Out :=
  let key := slotKey tower slot
  .next (if s.cfg.cont || decide (8 ≤ tower) || decide (2 ^ 20 ≤ slot) || s.waiters.any (fun w => w.key == key) then s
    else slotEvict s key)

/-! ## Sizes (R13, R139, R143, R149, R160, R238)

A structure that a fill has taken past its size gives an entry up in the moves that follow (log 149). -/

/-- Lines of an L2 (192 MiB), of an RDC (32 MiB), entries of a snoop filter, of the TLBs of a core and a tower, of a page-walk
cache and of a counter cache. -/
def l2Lines : Nat := 3145728
def rdcLines : Nat := 524288
def snoopEntries : Nat := 262144
def coreTlb : Nat := 64
def towerTlb : Nat := 16384
def walkEntries : Nat := 2048
def counterEntries : Nat := 65536

/-- Lines of a core's L1: 384 - 32k KiB (R143). -/
def l1Lines (s : State) (t c : Nat) : Nat :=
  16 * (384 - 32 * (match coreHarts s t c with | h :: _ => h.lsplit.toNat | [] => 0))

/-- One of a list, by a free value. -/
def pick (s : State) (l : List Nat) : Nat := (listAt l (Config.freeNat s.draws % l.length)).getD 0

/-- Addresses of the lines whose directory entry passes a test. -/
def linesWhere (s : State) (p : Nat → Dir → Bool) : List Nat := (s.dir.filter fun e => p (64 * e.1) e.2).map fun e => 64 * e.1

/-- Take a core's copy of a line; the last copy of a line is written back if it is dirty. -/
def dropCopy (s : State) (t c pa : Nat) : State :=
  let d := dirOf s pa
  let d1 := { d with l1 := d.l1.filter fun x => !(x.1 == t && x.2.1 == c) }
  if cached d1 then setDir s pa d1 else evictLine s pa

/-- Take the copy of a line in a tower's RDC, with the copies of that tower's L1s (R150). -/
def dropRdc (s : State) (t pa : Nat) : State :=
  let d := dirOf s pa
  let d1 := { d with rdc := d.rdc.filter (· != t), l1 := d.l1.filter fun x => x.1 != t }
  if cached d1 then setDir s pa d1 else evictLine s pa

/-- The entry of a tower's counter cache that was used least recently among those without waiters (R238). -/
def coldSlot (s : State) (t : Nat) : Option Nat :=
  let held := (s.cc.filter fun e => e.2.isSome && e.1 / 2 ^ 20 == t && !s.waiters.any fun w => w.key == e.1).map fun e => e.1
  held.foldl (fun b k => match b with
    | none => some k
    | some j => some (if SMap.get 0 s.ccUse k < SMap.get 0 s.ccUse j then k else j)) none

/-- Leave out the element at a position. -/
def dropAt {α : Type} : List α → Nat → List α
  | [], _ => []
  | _ :: xs, 0 => xs
  | x :: xs, n + 1 => x :: dropAt xs n

/-- Leave out one of the entries that pass a test, by a free value. -/
def dropOne {α : Type} (l : List α) (p : α → Bool) (n : Nat) : List α :=
  (l.filter p |> (dropAt · (n % (l.filter p).length))) ++ l.filter fun x => !p x

/-- The cores that hold lines. -/
def holders (s : State) : List (Nat × Nat) := (s.dir.flatMap fun e => e.2.l1.map fun x => (x.1, x.2.1)).eraseDups

/-- Lines held by a core's L1, a tower's L2, RDC and snoop filter. -/
def inL1 (s : State) (t c : Nat) : List Nat := linesWhere s fun _ d => d.l1.any fun x => x.1 == t && x.2.1 == c
def inL2 (s : State) (t : Nat) : List Nat := linesWhere s fun pa d => d.l2 && homeTower pa == t
def inRdc (s : State) (t : Nat) : List Nat := linesWhere s fun _ d => d.rdc.contains t
def inSnoop (s : State) (t : Nat) : List Nat := linesWhere s fun pa _ => snooped s pa && homeTower pa == t

/-- What a structure of a tower that is over its size gives up. -/
def trimTower (s : State) (t : Nat) : Option State :=
  let s1 : State := { s with draws := s.draws + 1 }
  let r := Config.freeNat s.draws
  let full := fun (l : List Nat) (n : Nat) => decide (n < l.length)
  let mine := fun (e : TlbEntry) => e.tower == t && e.core.isNone
  let walks := fun (e : PwcEntry) => e.tower == t
  if full (inL2 s t) l2Lines then some (evictLine s1 (pick s (inL2 s t)))
  else if full (inRdc s t) rdcLines then some (dropRdc s1 t (pick s (inRdc s t)))
  else if full (inSnoop s t) snoopEntries then some (evictLine s1 (pick s (inSnoop s t)))
  else if towerTlb < (s.tlb.filter mine).length then some { s1 with tlb := dropOne s.tlb mine r }
  else if walkEntries < (s.pwc.filter walks).length then some { s1 with pwc := dropOne s.pwc walks r }
  else if counterEntries < (s.cc.filter fun e => e.2.isSome && e.1 / 2 ^ 20 == t).length then (coldSlot s t).map (slotEvict s)
  else none

/-- What a core whose L1 or TLB is over its size gives up. -/
def trimCore (s : State) (t c : Nat) : Option State :=
  let s1 : State := { s with draws := s.draws + 1 }
  let mine := fun (e : TlbEntry) => e.tower == t && e.core == some c
  if l1Lines s t c < (inL1 s t c).length then some (dropCopy s1 t c (pick s (inL1 s t c)))
  else if coreTlb < (s.tlb.filter mine).length then some { s1 with tlb := dropOne s.tlb mine (Config.freeNat s.draws) }
  else none

/-- The cores whose L1 or TLB holds something. -/
def busyCores (s : State) : List (Nat × Nat) :=
  (holders s ++ s.tlb.filterMap fun e => e.core.map fun c => (e.tower, c)).eraseDups

/-- The first structure that is over its size gives an entry up. -/
def trimmed (s : State) : Option State :=
  match (busyCores s).findSome? fun p => trimCore s p.1 p.2 with
  | some t => some t
  | none => (List.range 8).findSome? (trimTower s)

/-- A flash page leaves its page buffer (R139). -/
def leavePage (s : State) (page : Nat) : State := { s with pagebuf := SMap.set false s.pagebuf page false }

end Sys2Proof.Machine
end

