-- ==== Sys2Proof/Machine/Service.lean ====
section
/-! DEFINITION. Machine/Service.lean: what the service harts do. The request ring, the call rings, the host-forward ring and
their replies (R47, R56, R58, R62 to R67, R286). -/

namespace Sys2Proof.Machine

/-- Whether service harts serve: boot is complete and the part is not CONTAINED (R47, R71). -/
def serving (s : State) : Bool := s.cfg.phase == 4#4 && !s.cfg.cont

/-- Whether call or request number n may be taken: during a switch, only those below its switch point (R67). -/
def beforeSwitch (s : State) (point n : Nat) : Bool :=
  s.cfg.fwState != 3#3 || decide (n < (SMap.get 0#64 s.cfg.fwpoint point).toNat)

/-- A line of device memory as service firmware reads it, under the key of MEMWIN. -/
def serviceLine (s : State) (pa : Nat) : Nat × State :=
  let (l, s1) := memwinLine s pa
  (l.bytes, s1)

/-- Write n bytes of a line of device memory; the line is RAW, VALID. -/
def servicePut (s : State) (pa n v : Nat) : State :=
  let (old, s1) := serviceLine s pa
  writeLine s1 pa s.cfg.memkey.toNat ⟨homeTower pa, none⟩ true (putBytes old (pa % 64) n v) rawTag

/-! ## Requests (R56, R58) -/

/-- Number of the request to be served next, if one is posted. -/
def nextRequest (s : State) : Option Nat :=
  let n := ownCounter s 0 1
  if serving s && decide (n < ownCounter s 0 0) && beforeSwitch s 8 n then some n else none

/-- Address of a request's slot. -/
def requestAddr (s : State) (n : Nat) : Nat := s.cfg.rqbase.toNat * 65536 + n % s.cfg.rqent.toNat * 256

/-- The 256 bytes of a slot. -/
def requestSlot (s : State) (n : Nat) : Nat × State :=
  let pa := requestAddr s n
  let (a, s1) := serviceLine s pa
  let (b, s2) := serviceLine s1 (pa + 64)
  let (c, s3) := serviceLine s2 (pa + 128)
  let (d, s4) := serviceLine s3 (pa + 192)
  (a + 2 ^ 512 * b + 2 ^ 1024 * c + 2 ^ 1536 * d, s4)

/-- Write STATUS and RESULT and add 1 to RQDONE. -/
def finishRequest (s : State) (n status result : Nat) : State :=
  let s1 := servicePut s (requestAddr s n + 10) 6 (status % 2 ^ 16 + result % 2 ^ 32 * 2 ^ 16)
  partAdd s1 0 1 1

/-- TYPE of a slot. -/
def requestType (v : Nat) : Nat := fieldOf v 79 64

/-- Whether a slot breaks a rule of its own: SEQ, TYPE or a reserved byte (R58). -/
def requestBad (v n : Nat) : Bool :=
  v % 2 ^ 64 != n % 2 ^ 64 || decide (2 < requestType v) || fieldOf v 1023 160 != 0

/-- Serve the next request if its TYPE is one that a test asks for. -/
def onRequest (s : State) (test : Nat → Bool) (k : Nat → Nat → State → State) : State :=
  match nextRequest s with
  | none => s
  | some n =>
    let (v, s1) := requestSlot s n
    if !test (requestType v) then s
    else if requestBad v n then finishRequest s1 n 2 0 else k n v s1

/-- REQUEST_NOP; a slot of an undefined TYPE is malformed. -/
def execRequestNop (s : State) : Out :=
  .next (onRequest s (fun t => t == 0 || decide (2 < t)) fun n _ s => finishRequest s n 1 0)

/-- REQUEST_LAUNCH: the acceptance codes 1, 2 and 3 are the statuses 2, 3 and 4 (R58, R79). -/
def execRequestLaunch (s : State) : Out :=
  .next (onRequest s (· == 1) fun n v s =>
    let (code, handle, s1) := acceptLaunch s (v / 2 ^ 1024) ⟨true, 0, 0, 15⟩
    finishRequest s1 n (code + 1) handle.toNat)

/-- REQUEST_CANCEL: a generation that does not match the entry is status 3 (R58, R97). -/
def execRequestCancel (s : State) : Out :=
  .next (onRequest s (· == 2) fun n v s =>
    let handle := fieldOf v 159 128
    if (s.entry (handle % 4096)).gen.toNat ≠ handle / 4096 then finishRequest s n 3 0
    else
      let (st, s1) := cancelLaunch s handle
      finishRequest s1 n 1 st)

/-! ## Calls (R62 to R65) -/

/-- The record at the head of a tower's call ring, if it may be taken. -/
def headCall (s : State) (t : Nat) : Option (Nat × BitVec 512) :=
  let k := ownCounter s t 10
  let r := SMap.get 0#512 s.cfg.callring (256 * t + k % 256)
  if serving s && decide (t < 8) && decide (k < ownCounter s t 9) && r.toNat % 2 ^ 64 == k && beforeSwitch s t k then some (k, r)
  else none

/-- FUNC of a record. -/
def callFunc (r : BitVec 512) : Nat := fieldOf r.toNat 79 64
/-- Argument i of a record. -/
def callArg (r : BitVec 512) (i : Nat) : Nat := r.toNat / 2 ^ (256 + 64 * i) % 2 ^ 64
/-- REPLY of a record. -/
def callReply (r : BitVec 512) : Word := BitVec.ofNat 64 (r.toNat / 2 ^ 128)

/-- The task that published the record of a ticket: launch-table index and task, if its context still exists, which it does
as long as its launch (log 110). -/
def contextOwner (s : State) (o : Nat × Nat × Nat) : Option (Nat × Nat) :=
  match o.1 with
  | 0 => none
  | l + 1 =>
    let e := s.entry l
    if e.state ≠ .free ∧ e.gen.toNat = o.2.1 then some (l, o.2.2) else none

/-- Reply to a call: the reply area, then the add to REPLY; one whose context is gone is discarded (R64). A service hart has no
reply area. -/
def replyTo (s : State) (t : Nat) (o : Nat × Nat × Nat) (r : BitVec 512) (status r0 r1 : Nat) : State :=
  if o.1 = 0 then (farAdd s t true 0 (callReply r) 1).2
  else match contextOwner s o with
    | none => s
    | some (l, tn) => (farAdd (writeReply s l tn status r0 r1) t true 0 (callReply r) 1).2

/-- The owner noted for a ticket. -/
def callOwnerOf (s : State) (t k : Nat) : Nat × Nat × Nat := SMap.get (0, 0, 0) s.cfg.callOwner (256 * t + k % 256)

/-- Take the head record of a tower if its function passes a test: CALLHEAD is raised, and the function runs. -/
def onCall (t : Nat) (s : State) (test : Nat → Bool) (k : Nat × Nat × Nat → BitVec 512 → State → State) : State :=
  match headCall s t with
  | none => s
  | some (n, r) => if test (callFunc r) then k (callOwnerOf s t n) r (partAdd s t 10 1) else s

/-- The launch of the caller has a rewind in progress: its call waits (R286). -/
def rewindBusy (s : State) (t : Nat) : Bool :=
  match headCall s t with
  | none => false
  | some (n, _) => match contextOwner s (callOwnerOf s t n) with | some (l, _) => (s.entry l).rw.isSome | none => false

/-- A call that rewinds the caller's context: it is frozen first (R286). The call of a service hart, which has no context, is taken
without effect and without a REPLY add (DESIGN CHOICE, log 181; R64). -/
def rewindCall (t : Nat) (s : State) (func : Nat) (target : LEntry → BitVec 512 → Nat) (force : BitVec 512 → Bool) : State :=
  if rewindBusy s t then s
  else onCall t s (· == func) fun o r s =>
    match contextOwner s o with
    | none => s
    | some (l, tn) =>
      let e := s.entry l
      freezeLaunch (s.setEntry l { e with rw := some (target e r, force r, some (tn, callReply r)) }) l false

/-- CALL_NULL. -/
def execCallNull (tower : Nat) (s : State) : Out :=
  .next (onCall tower s (· == 0) fun o r s => replyTo s tower o r 0 0 0)

/-- CALL_UNDO_STEP: the current window. -/
def execCallUndoStep (tower : Nat) (s : State) : Out :=
  .next (rewindCall tower s 1 (fun e _ => e.undo.win.toNat) fun _ => false)

/-- CALL_UNDO_TO: ARG0 and the force bit of ARG1. -/
def execCallUndoTo (tower : Nat) (s : State) : Out :=
  .next (rewindCall tower s 2 (fun _ r => callArg r 0) fun r => (callArg r 1).testBit 0)

/-- CALL_LOG: an entry of CLASS 0 (R64, R480). -/
def execCallLog (tower : Nat) (s : State) : Out :=
  .next (onCall tower s (· == 0x20) fun o r s =>
    let index := fieldOf r.toNat 95 80 + 2 ^ 16 * fieldOf r.toNat 107 96
    replyTo (logError s 10 0 0x100 index (callArg r 0) (callArg r 1)) tower o r 0 0 0)

/-- CALL_UNDEFINED: status 1. -/
def execCallUndefined (tower : Nat) (s : State) : Out :=
  .next (onCall tower s (fun f => !([0, 1, 2, 0x10, 0x20].contains f)) fun o r s => replyTo s tower o r 1 0 0)

/-- Address of record m of the host-forward ring. -/
def forwardAddr (s : State) (m : Nat) : Nat := s.cfg.hfbase.toNat * 16384 + 64 * (m % 256)

/-- The exit record of a forwarded call, for its caller's context (R65, R280). -/
def forwardExit (s : State) (o : Nat × Nat × Nat) (r : BitVec 512) (m : Nat) : State :=
  match contextOwner s o with
  | none => s
  | some (l, tn) =>
    let caller := fieldOf r.toNat 107 96
    logExit s ⟨l, 5, ⟨caller / 512, caller / 4 % 128, caller % 4⟩, taskHold s l tn⟩ 6 (forwardAddr s m) 1

/-- CALL_HOST_FWD: stalls while the ring is full (R65). -/
def execCallHostFwd (tower : Nat) (s : State) : Out :=
  let m := ownCounter s 0 2
  .next (if 256 ≤ m - ownCounter s 0 3 then s
    else onCall tower s (· == 0x10) fun o r s =>
      let s1 := forwardExit s o r m
      let s2 := servicePut s1 (forwardAddr s1 m) 64 r.toNat
      let s3 := partAdd s2 0 2 1
      { s3 with cfg := { s3.cfg with fwd := s3.cfg.fwd ++ [⟨m, tower, r, o⟩] } })

/-- The first forwarded call that the host has answered. -/
def answered (s : State) : Option FwdCall :=
  if serving s then s.cfg.fwd.find? fun f => decide (f.m < ownCounter s 0 3) else none

/-- HOST_FWD_REPLY: the host's status and results go to the caller (R65). -/
def execHostFwdReply (s : State) : Out :=
  .next (match answered s with
    | none => s
    | some f =>
      let (v, s1) := serviceLine s (forwardAddr s f.m)
      let s2 : State := { s1 with cfg := { s1.cfg with fwd := s1.cfg.fwd.filter fun g => g.m != f.m } }
      replyTo s2 f.tower f.owner f.record (fieldOf v 127 112) (fieldOf v 319 256) (fieldOf v 383 320))

end Sys2Proof.Machine
end

