-- ==== Sys2Proof/Machine/Events.lean ====
section
/-! DEFINITION. Machine/Events.lean: what happens to issued instructions, the fate of a word that is no instruction, and the
selection pass (R91, R107, R126, R128, R256, R334, R365). -/

namespace Sys2Proof.Machine

/-- The oldest unadmitted instruction of a hart is looked at (R128). -/
def execXAdmission (h : HartId) (s : State) : Out := .next (onHart h s admitNext)

/-- The oldest X-stream instruction retires if it has completed (R126). -/
def execXRetirement (h : HartId) (s : State) : Out :=
  .next (if s.cfg.cont then s else s.updHart h retireOne)

/-- Lines of a vector load arrive; a failing tag check is taken as a cause once every older load is confirmed (R124, R365). -/
def arrive (s : State) : State :=
  match arriveOne s with
  | (some c, s1) => takeTrap s1 c
  | (none, s1) => s1

/-- VECTOR_LOAD_ARRIVAL. -/
def execVectorLoadArrival (h : HartId) (s : State) : Out := .next (onHart h s arrive)

/-- STORE_RESOLVE (R256). -/
def execStoreResolve (h : HartId) (s : State) : Out := .next (onHart h s resolveSome)

/-- SELECTION_PASS (R91): the Launch Unit serves once boot is complete. -/
def execSelectionPass (s : State) : Out := .next (if serving s then selectionPass s else s)

/-! ## Fates of a word (R334) -/

/-- Whether an OP is assigned to an instruction (R334). -/
def opAssigned (op : Nat) : Bool :=
  decide (1 ≤ op ∧ op ≤ 0x71) || decide (0x90 ≤ op ∧ op ≤ 0x9A) || decide (0xA0 ≤ op ∧ op ≤ 0xA6)
    || decide (0xB0 ≤ op ∧ op ≤ 0xB4) || decide (0xC0 ≤ op ∧ op ≤ 0xD5) || decide (0xE0 ≤ op ∧ op ≤ 0xEF)

/-- Whether the X-stream may fetch a word, by its OP and the CSR it names (R107 Table 3). -/
def allowedX (w : BitVec 32) : Bool :=
  let op := opOf w
  match op / 16 with
  | 0 => op != 0x0E && op != 0x0F
  | 1 | 2 => true
  | 4 => decide (0x4B ≤ op)
  | 5 | 6 | 7 | 8 | 9 | 10 | 11 => true
  | 14 => decide (op ≤ 0xE3) && decide (w.toNat % 4096 < 6)
  | _ => false

/-- Whether the A-stream may fetch a word. -/
def allowedA (w : BitVec 32) : Bool := match opOf w / 16 with | 5 | 6 | 7 | 8 | 9 | 10 | 11 => false | _ => true

/-- The fate of a word that the decoder refuses: unassigned first, then the stream, then the fields (R334). -/
def wordFate (s : State) (w : BitVec 32) : State :=
  let allowed := if s.onX then allowedX w else allowedA w
  raise s (if opAssigned (opOf w) && !allowed then causeILLEGAL_STREAM else causeILLEGAL_OP) 0 0 (w.setWidth 64)

/-- ILLEGAL_OP (R334). -/
def execIllegalOp (w : BitVec 32) (s : State) : Out := .next (wordFate s w)

end Sys2Proof.Machine
end

