-- ==== Sys2Proof/Machine/Dispatch.lean ====
section
/-! DEFINITION. Machine/Dispatch.lean: the one table from an instruction or event to its meaning. -/

namespace Sys2Proof.Machine

open Sys2Proof

def exec (i : Instr) (s : State) : Host.Outcome State Fault Refusal :=
  match i with
  | .nop => Sys2Proof.Machine.execNop s
  | .br v0 => Sys2Proof.Machine.execBr v0 s
  | .brcEq v0 v1 v2 => Sys2Proof.Machine.execBrcEq v0 v1 v2 s
  | .brcNe v0 v1 v2 => Sys2Proof.Machine.execBrcNe v0 v1 v2 s
  | .brcLt v0 v1 v2 => Sys2Proof.Machine.execBrcLt v0 v1 v2 s
  | .brcGe v0 v1 v2 => Sys2Proof.Machine.execBrcGe v0 v1 v2 s
  | .brcLtu v0 v1 v2 => Sys2Proof.Machine.execBrcLtu v0 v1 v2 s
  | .brcGeu v0 v1 v2 => Sys2Proof.Machine.execBrcGeu v0 v1 v2 s
  | .brr v0 => Sys2Proof.Machine.execBrr v0 s
  | .call v0 v1 => Sys2Proof.Machine.execCall v0 v1 s
  | .callr v0 v1 => Sys2Proof.Machine.execCallr v0 v1 s
  | .brk v0 => Sys2Proof.Machine.execBrk v0 s
  | .exit => Sys2Proof.Machine.execExit s
  | .step => Sys2Proof.Machine.execStep s
  | .xstart v0 => Sys2Proof.Machine.execXstart v0 s
  | .add v0 v1 v2 => Sys2Proof.Machine.execAdd v0 v1 v2 s
  | .sub v0 v1 v2 => Sys2Proof.Machine.execSub v0 v1 v2 s
  | .mul v0 v1 v2 => Sys2Proof.Machine.execMul v0 v1 v2 s
  | .mulh v0 v1 v2 => Sys2Proof.Machine.execMulh v0 v1 v2 s
  | .mulhu v0 v1 v2 => Sys2Proof.Machine.execMulhu v0 v1 v2 s
  | .div v0 v1 v2 => Sys2Proof.Machine.execDiv v0 v1 v2 s
  | .divu v0 v1 v2 => Sys2Proof.Machine.execDivu v0 v1 v2 s
  | .rem v0 v1 v2 => Sys2Proof.Machine.execRem v0 v1 v2 s
  | .remu v0 v1 v2 => Sys2Proof.Machine.execRemu v0 v1 v2 s
  | .and v0 v1 v2 => Sys2Proof.Machine.execAnd v0 v1 v2 s
  | .or v0 v1 v2 => Sys2Proof.Machine.execOr v0 v1 v2 s
  | .xor v0 v1 v2 => Sys2Proof.Machine.execXor v0 v1 v2 s
  | .andn v0 v1 v2 => Sys2Proof.Machine.execAndn v0 v1 v2 s
  | .sll v0 v1 v2 => Sys2Proof.Machine.execSll v0 v1 v2 s
  | .srl v0 v1 v2 => Sys2Proof.Machine.execSrl v0 v1 v2 s
  | .sra v0 v1 v2 => Sys2Proof.Machine.execSra v0 v1 v2 s
  | .min v0 v1 v2 => Sys2Proof.Machine.execMin v0 v1 v2 s
  | .max v0 v1 v2 => Sys2Proof.Machine.execMax v0 v1 v2 s
  | .minu v0 v1 v2 => Sys2Proof.Machine.execMinu v0 v1 v2 s
  | .maxu v0 v1 v2 => Sys2Proof.Machine.execMaxu v0 v1 v2 s
  | .slt v0 v1 v2 => Sys2Proof.Machine.execSlt v0 v1 v2 s
  | .sltu v0 v1 v2 => Sys2Proof.Machine.execSltu v0 v1 v2 s
  | .seq v0 v1 v2 => Sys2Proof.Machine.execSeq v0 v1 v2 s
  | .sel v0 v1 v2 v3 => Sys2Proof.Machine.execSel v0 v1 v2 v3 s
  | .clz v0 v1 => Sys2Proof.Machine.execClz v0 v1 s
  | .ctz v0 v1 => Sys2Proof.Machine.execCtz v0 v1 s
  | .popc v0 v1 => Sys2Proof.Machine.execPopc v0 v1 s
  | .addsh v0 v1 v2 v3 => Sys2Proof.Machine.execAddsh v0 v1 v2 v3 s
  | .addi v0 v1 v2 => Sys2Proof.Machine.execAddi v0 v1 v2 s
  | .andi v0 v1 v2 => Sys2Proof.Machine.execAndi v0 v1 v2 s
  | .ori v0 v1 v2 => Sys2Proof.Machine.execOri v0 v1 v2 s
  | .slli v0 v1 v2 => Sys2Proof.Machine.execSlli v0 v1 v2 s
  | .srli v0 v1 v2 => Sys2Proof.Machine.execSrli v0 v1 v2 s
  | .srai v0 v1 v2 => Sys2Proof.Machine.execSrai v0 v1 v2 s
  | .li v0 v1 => Sys2Proof.Machine.execLi v0 v1 s
  | .lih v0 v1 v2 => Sys2Proof.Machine.execLih v0 v1 v2 s
  | .ldB v0 v1 v2 => Sys2Proof.Machine.execLdB v0 v1 v2 s
  | .ldBu v0 v1 v2 => Sys2Proof.Machine.execLdBu v0 v1 v2 s
  | .ldH v0 v1 v2 => Sys2Proof.Machine.execLdH v0 v1 v2 s
  | .ldHu v0 v1 v2 => Sys2Proof.Machine.execLdHu v0 v1 v2 s
  | .ldW v0 v1 v2 => Sys2Proof.Machine.execLdW v0 v1 v2 s
  | .ldWu v0 v1 v2 => Sys2Proof.Machine.execLdWu v0 v1 v2 s
  | .ldD v0 v1 v2 => Sys2Proof.Machine.execLdD v0 v1 v2 s
  | .stB v0 v1 v2 => Sys2Proof.Machine.execStB v0 v1 v2 s
  | .stH v0 v1 v2 => Sys2Proof.Machine.execStH v0 v1 v2 s
  | .stW v0 v1 v2 => Sys2Proof.Machine.execStW v0 v1 v2 s
  | .stD v0 v1 v2 => Sys2Proof.Machine.execStD v0 v1 v2 s
  | .ldl v0 v1 v2 => Sys2Proof.Machine.execLdl v0 v1 v2 s
  | .stl v0 v1 v2 => Sys2Proof.Machine.execStl v0 v1 v2 s
  | .tagr v0 v1 v2 => Sys2Proof.Machine.execTagr v0 v1 v2 s
  | .tagw v0 v1 v2 => Sys2Proof.Machine.execTagw v0 v1 v2 s
  | .pref v0 v1 => Sys2Proof.Machine.execPref v0 v1 s
  | .vldUnit v0 v1 v2 => Sys2Proof.Machine.execVldUnit v0 v1 v2 s
  | .vldStrided v0 v1 v2 v3 => Sys2Proof.Machine.execVldStrided v0 v1 v2 v3 s
  | .vldExplicit v0 v1 v2 v3 => Sys2Proof.Machine.execVldExplicit v0 v1 v2 v3 s
  | .vldx v0 v1 v2 v3 v4 => Sys2Proof.Machine.execVldx v0 v1 v2 v3 v4 s
  | .vldffUnit v0 v1 v2 => Sys2Proof.Machine.execVldffUnit v0 v1 v2 s
  | .vldffStrided v0 v1 v2 v3 => Sys2Proof.Machine.execVldffStrided v0 v1 v2 v3 s
  | .vstUnit v0 v1 v2 => Sys2Proof.Machine.execVstUnit v0 v1 v2 s
  | .vstStrided v0 v1 v2 v3 => Sys2Proof.Machine.execVstStrided v0 v1 v2 v3 s
  | .vstx v0 v1 v2 v3 => Sys2Proof.Machine.execVstx v0 v1 v2 v3 s
  | .vldl v0 v1 v2 => Sys2Proof.Machine.execVldl v0 v1 v2 s
  | .vstl v0 v1 v2 => Sys2Proof.Machine.execVstl v0 v1 v2 s
  | .vspill v0 v1 v2 v3 => Sys2Proof.Machine.execVspill v0 v1 v2 v3 s
  | .vfill v0 v1 v2 v3 => Sys2Proof.Machine.execVfill v0 v1 v2 v3 s
  | .fenceSv v0 => Sys2Proof.Machine.execFenceSv v0 s
  | .fenceVs v0 => Sys2Proof.Machine.execFenceVs v0 s
  | .fenceVv v0 => Sys2Proof.Machine.execFenceVv v0 s
  | .fenceAll v0 => Sys2Proof.Machine.execFenceAll v0 s
  | .lsplit v0 => Sys2Proof.Machine.execLsplit v0 s
  | .qpushA v0 v1 => Sys2Proof.Machine.execQpushA v0 v1 s
  | .qpushX v0 v1 => Sys2Proof.Machine.execQpushX v0 v1 s
  | .qpopA v0 => Sys2Proof.Machine.execQpopA v0 s
  | .qpopX v0 v1 => Sys2Proof.Machine.execQpopX v0 v1 s
  | .qpopXDiscard v0 => Sys2Proof.Machine.execQpopXDiscard v0 s
  | .qputs v0 => Sys2Proof.Machine.execQputs v0 s
  | .qgets v0 => Sys2Proof.Machine.execQgets v0 s
  | .qstatData v0 v1 => Sys2Proof.Machine.execQstatData v0 v1 s
  | .qstatScalar v0 v1 => Sys2Proof.Machine.execQstatScalar v0 v1 s
  | .vsetl v0 v1 v2 => Sys2Proof.Machine.execVsetl v0 v1 v2 s
  | .vsetlKeep v0 v1 => Sys2Proof.Machine.execVsetlKeep v0 v1 s
  | .vadd v0 v1 v2 v3 v4 v5 => Sys2Proof.Machine.execVadd v0 v1 v2 v3 v4 v5 s
  | .vsub v0 v1 v2 v3 v4 v5 => Sys2Proof.Machine.execVsub v0 v1 v2 v3 v4 v5 s
  | .vmul v0 v1 v2 v3 v4 v5 => Sys2Proof.Machine.execVmul v0 v1 v2 v3 v4 v5 s
  | .vfma v0 v1 v2 v3 v4 v5 => Sys2Proof.Machine.execVfma v0 v1 v2 v3 v4 v5 s
  | .vfms v0 v1 v2 v3 v4 v5 => Sys2Proof.Machine.execVfms v0 v1 v2 v3 v4 v5 s
  | .vmin v0 v1 v2 v3 v4 v5 => Sys2Proof.Machine.execVmin v0 v1 v2 v3 v4 v5 s
  | .vmax v0 v1 v2 v3 v4 v5 => Sys2Proof.Machine.execVmax v0 v1 v2 v3 v4 v5 s
  | .vabs v0 v1 v2 v3 => Sys2Proof.Machine.execVabs v0 v1 v2 v3 s
  | .vneg v0 v1 v2 v3 => Sys2Proof.Machine.execVneg v0 v1 v2 v3 s
  | .vdiv v0 v1 v2 v3 v4 v5 => Sys2Proof.Machine.execVdiv v0 v1 v2 v3 v4 v5 s
  | .vrcp v0 v1 v2 v3 => Sys2Proof.Machine.execVrcp v0 v1 v2 v3 s
  | .vrsqrt v0 v1 v2 v3 => Sys2Proof.Machine.execVrsqrt v0 v1 v2 v3 s
  | .vand v0 v1 v2 v3 v4 v5 => Sys2Proof.Machine.execVand v0 v1 v2 v3 v4 v5 s
  | .vor v0 v1 v2 v3 v4 v5 => Sys2Proof.Machine.execVor v0 v1 v2 v3 v4 v5 s
  | .vxor v0 v1 v2 v3 v4 v5 => Sys2Proof.Machine.execVxor v0 v1 v2 v3 v4 v5 s
  | .vshl v0 v1 v2 v3 v4 v5 => Sys2Proof.Machine.execVshl v0 v1 v2 v3 v4 v5 s
  | .vshr v0 v1 v2 v3 v4 v5 => Sys2Proof.Machine.execVshr v0 v1 v2 v3 v4 v5 s
  | .vsel v0 v1 v2 v3 v4 => Sys2Proof.Machine.execVsel v0 v1 v2 v3 v4 s
  | .vmov v0 v1 v2 v3 => Sys2Proof.Machine.execVmov v0 v1 v2 v3 s
  | .vsplat v0 v1 => Sys2Proof.Machine.execVsplat v0 v1 s
  | .vext v0 v1 v2 => Sys2Proof.Machine.execVext v0 v1 v2 s
  | .vins v0 v1 v2 => Sys2Proof.Machine.execVins v0 v1 v2 s
  | .vredsum v0 v1 v2 => Sys2Proof.Machine.execVredsum v0 v1 v2 s
  | .vredmax v0 v1 v2 => Sys2Proof.Machine.execVredmax v0 v1 v2 s
  | .vredmin v0 v1 v2 => Sys2Proof.Machine.execVredmin v0 v1 v2 s
  | .vcmpEq v0 v1 v2 v3 v4 v5 => Sys2Proof.Machine.execVcmpEq v0 v1 v2 v3 v4 v5 s
  | .vcmpNe v0 v1 v2 v3 v4 v5 => Sys2Proof.Machine.execVcmpNe v0 v1 v2 v3 v4 v5 s
  | .vcmpLt v0 v1 v2 v3 v4 v5 => Sys2Proof.Machine.execVcmpLt v0 v1 v2 v3 v4 v5 s
  | .vcmpLe v0 v1 v2 v3 v4 v5 => Sys2Proof.Machine.execVcmpLe v0 v1 v2 v3 v4 v5 s
  | .vcmpGt v0 v1 v2 v3 v4 v5 => Sys2Proof.Machine.execVcmpGt v0 v1 v2 v3 v4 v5 s
  | .vcmpGe v0 v1 v2 v3 v4 v5 => Sys2Proof.Machine.execVcmpGe v0 v1 v2 v3 v4 v5 s
  | .vcmpUn v0 v1 v2 v3 v4 v5 => Sys2Proof.Machine.execVcmpUn v0 v1 v2 v3 v4 v5 s
  | .vcmpOr v0 v1 v2 v3 v4 v5 => Sys2Proof.Machine.execVcmpOr v0 v1 v2 v3 v4 v5 s
  | .viota v0 v1 v2 v3 => Sys2Proof.Machine.execViota v0 v1 v2 v3 s
  | .vslideup v0 v1 v2 v3 v4 => Sys2Proof.Machine.execVslideup v0 v1 v2 v3 v4 s
  | .vslidedn v0 v1 v2 v3 v4 => Sys2Proof.Machine.execVslidedn v0 v1 v2 v3 v4 s
  | .vperm v0 v1 v2 v3 v4 v5 => Sys2Proof.Machine.execVperm v0 v1 v2 v3 v4 v5 s
  | .mand v0 v1 v2 => Sys2Proof.Machine.execMand v0 v1 v2 s
  | .mor v0 v1 v2 => Sys2Proof.Machine.execMor v0 v1 v2 s
  | .mxor v0 v1 v2 => Sys2Proof.Machine.execMxor v0 v1 v2 s
  | .mandn v0 v1 v2 => Sys2Proof.Machine.execMandn v0 v1 v2 s
  | .mnot v0 v1 => Sys2Proof.Machine.execMnot v0 v1 s
  | .mpopc v0 v1 => Sys2Proof.Machine.execMpopc v0 v1 s
  | .mfirst v0 v1 => Sys2Proof.Machine.execMfirst v0 v1 s
  | .mmode v0 => Sys2Proof.Machine.execMmode v0 s
  | .mzero v0 v1 v2 => Sys2Proof.Machine.execMzero v0 v1 v2 s
  | .opadd v0 v1 v2 v3 v4 => Sys2Proof.Machine.execOpadd v0 v1 v2 v3 v4 s
  | .opsub v0 v1 v2 v3 v4 => Sys2Proof.Machine.execOpsub v0 v1 v2 v3 v4 s
  | .mrd v0 v1 v2 v3 v4 => Sys2Proof.Machine.execMrd v0 v1 v2 v3 v4 s
  | .mwr v0 v1 v2 v3 v4 => Sys2Proof.Machine.execMwr v0 v1 v2 v3 v4 s
  | .mtr v0 v1 v2 v3 v4 => Sys2Proof.Machine.execMtr v0 v1 v2 v3 v4 s
  | .vtag v0 v1 v2 => Sys2Proof.Machine.execVtag v0 v1 v2 s
  | .vgtag v0 v1 v2 => Sys2Proof.Machine.execVgtag v0 v1 v2 s
  | .vcvt v0 v1 v2 v3 v4 => Sys2Proof.Machine.execVcvt v0 v1 v2 v3 v4 s
  | .vscale v0 v1 v2 v3 v4 => Sys2Proof.Machine.execVscale v0 v1 v2 v3 v4 s
  | .vunrot v0 v1 => Sys2Proof.Machine.execVunrot v0 v1 s
  | .cadd v0 v1 v2 v3 => Sys2Proof.Machine.execCadd v0 v1 v2 v3 s
  | .cxadd v0 v1 v2 v3 v4 => Sys2Proof.Machine.execCxadd v0 v1 v2 v3 v4 s
  | .cwait v0 v1 v2 v3 => Sys2Proof.Machine.execCwait v0 v1 v2 v3 s
  | .crd v0 v1 v2 v3 => Sys2Proof.Machine.execCrd v0 v1 v2 v3 s
  | .ctst v0 v1 v2 v3 v4 => Sys2Proof.Machine.execCtst v0 v1 v2 v3 v4 s
  | .cset v0 v1 v2 v3 => Sys2Proof.Machine.execCset v0 v1 v2 v3 s
  | .atomAdd v0 v1 v2 v3 v4 v5 => Sys2Proof.Machine.execAtomAdd v0 v1 v2 v3 v4 v5 s
  | .atomMin v0 v1 v2 v3 v4 v5 => Sys2Proof.Machine.execAtomMin v0 v1 v2 v3 v4 v5 s
  | .atomMax v0 v1 v2 v3 v4 v5 => Sys2Proof.Machine.execAtomMax v0 v1 v2 v3 v4 v5 s
  | .atomAnd v0 v1 v2 v3 v4 v5 => Sys2Proof.Machine.execAtomAnd v0 v1 v2 v3 v4 v5 s
  | .atomOr v0 v1 v2 v3 v4 v5 => Sys2Proof.Machine.execAtomOr v0 v1 v2 v3 v4 v5 s
  | .atomXor v0 v1 v2 v3 v4 v5 => Sys2Proof.Machine.execAtomXor v0 v1 v2 v3 v4 v5 s
  | .atomSwap v0 v1 v2 v3 v4 v5 => Sys2Proof.Machine.execAtomSwap v0 v1 v2 v3 v4 v5 s
  | .cas v0 v1 v2 v3 v4 v5 => Sys2Proof.Machine.execCas v0 v1 v2 v3 v4 v5 s
  | .vatom v0 v1 v2 v3 v4 v5 v6 v7 v8 => Sys2Proof.Machine.execVatom v0 v1 v2 v3 v4 v5 v6 v7 v8 s
  | .vatomOi v0 v1 v2 v3 v4 v5 v6 v7 v8 => Sys2Proof.Machine.execVatomOi v0 v1 v2 v3 v4 v5 v6 v7 v8 s
  | .sluice v0 v1 v2 => Sys2Proof.Machine.execSluice v0 v1 v2 s
  | .panc v0 v1 => Sys2Proof.Machine.execPanc v0 v1 s
  | .rcode v0 v1 => Sys2Proof.Machine.execRcode v0 v1 s
  | .launch v0 v1 => Sys2Proof.Machine.execLaunch v0 v1 s
  | .cancel v0 v1 => Sys2Proof.Machine.execCancel v0 v1 s
  | .strip v0 => Sys2Proof.Machine.execStrip v0 s
  | .csrr v0 v1 => Sys2Proof.Machine.execCsrr v0 v1 s
  | .csrw v0 v1 v2 => Sys2Proof.Machine.execCsrw v0 v1 v2 s
  | .csrs v0 v1 v2 => Sys2Proof.Machine.execCsrs v0 v1 v2 s
  | .csrc v0 v1 v2 => Sys2Proof.Machine.execCsrc v0 v1 v2 s
  | .csrwi v0 v1 v2 => Sys2Proof.Machine.execCsrwi v0 v1 v2 s
  | .eret => Sys2Proof.Machine.execEret s
  | .scall v0 v1 v2 => Sys2Proof.Machine.execScall v0 v1 v2 s
  | .scallNb v0 v1 v2 => Sys2Proof.Machine.execScallNb v0 v1 v2 s
  | .wmark v0 => Sys2Proof.Machine.execWmark v0 s
  | .tlbiVa v0 v1 v2 => Sys2Proof.Machine.execTlbiVa v0 v1 v2 s
  | .tlbiAsid v0 v1 => Sys2Proof.Machine.execTlbiAsid v0 v1 s
  | .tlbiAll v0 => Sys2Proof.Machine.execTlbiAll v0 s
  | .bkpt => Sys2Proof.Machine.execBkpt s
  | .ptset v0 v1 v2 => Sys2Proof.Machine.execPtset v0 v1 v2 s
  | .ptget v0 v1 => Sys2Proof.Machine.execPtget v0 v1 s
  | .sdrain => Sys2Proof.Machine.execSdrain s
  | .xAdmission v0 => Sys2Proof.Machine.execXAdmission v0 s
  | .vectorLoadArrival v0 => Sys2Proof.Machine.execVectorLoadArrival v0 s
  | .storeResolve v0 => Sys2Proof.Machine.execStoreResolve v0 s
  | .walkComplete v0 v1 v2 v3 => Sys2Proof.Machine.execWalkComplete v0 v1 v2 v3 s
  | .tlbiCompletionAdd => Sys2Proof.Machine.execTlbiCompletionAdd s
  | .homeRequest v0 v1 v2 v3 v4 => Sys2Proof.Machine.execHomeRequest v0 v1 v2 v3 v4 s
  | .counterCacheEviction v0 v1 => Sys2Proof.Machine.execCounterCacheEviction v0 v1 s
  | .leaveGrant v0 => Sys2Proof.Machine.execLeaveGrant v0 s
  | .dutyUpdate v0 => Sys2Proof.Machine.execDutyUpdate v0 s
  | .callNull v0 => Sys2Proof.Machine.execCallNull v0 s
  | .callUndoStep v0 => Sys2Proof.Machine.execCallUndoStep v0 s
  | .callUndoTo v0 => Sys2Proof.Machine.execCallUndoTo v0 s
  | .callHostFwd v0 => Sys2Proof.Machine.execCallHostFwd v0 s
  | .callLog v0 => Sys2Proof.Machine.execCallLog v0 s
  | .callUndefined v0 => Sys2Proof.Machine.execCallUndefined v0 s
  | .softPreemptStop v0 => Sys2Proof.Machine.execSoftPreemptStop v0 s
  | .preemptTimeout v0 => Sys2Proof.Machine.execPreemptTimeout v0 s
  | .qblockHardPreempt v0 => Sys2Proof.Machine.execQblockHardPreempt v0 s
  | .killStop v0 => Sys2Proof.Machine.execKillStop v0 s
  | .killTimeout v0 => Sys2Proof.Machine.execKillTimeout v0 s
  | .parkSaveComplete v0 => Sys2Proof.Machine.execParkSaveComplete v0 s
  | .cwaitWake v0 v1 => Sys2Proof.Machine.execCwaitWake v0 v1 s
  | .cwaitTimeout v0 => Sys2Proof.Machine.execCwaitTimeout v0 s
  | .cwaitFullPoll v0 => Sys2Proof.Machine.execCwaitFullPoll v0 s
  | .hostCounterPoll v0 => Sys2Proof.Machine.execHostCounterPoll v0 s
  | .waiterPoll v0 => Sys2Proof.Machine.execWaiterPoll v0 s
  | .wmarkCollectiveComplete v0 => Sys2Proof.Machine.execWmarkCollectiveComplete v0 s
  | .rewind v0 => Sys2Proof.Machine.execRewind v0 s
  | .sluiceCopy v0 => Sys2Proof.Machine.execSluiceCopy v0 s
  | .sluiceAppend v0 => Sys2Proof.Machine.execSluiceAppend v0 s
  | .sluiceLineDelivered v0 => Sys2Proof.Machine.execSluiceLineDelivered v0 s
  | .panGemv v0 => Sys2Proof.Machine.execPanGemv v0 s
  | .panAxpby v0 => Sys2Proof.Machine.execPanAxpby v0 s
  | .panFill v0 => Sys2Proof.Machine.execPanFill v0 s
  | .panCommandEnd v0 => Sys2Proof.Machine.execPanCommandEnd v0 s
  | .recodeJobStart v0 => Sys2Proof.Machine.execRecodeJobStart v0 s
  | .recodeGuardDone v0 => Sys2Proof.Machine.execRecodeGuardDone v0 s
  | .recodeLinesDone v0 => Sys2Proof.Machine.execRecodeLinesDone v0 s
  | .recodeShootDone v0 => Sys2Proof.Machine.execRecodeShootDone v0 s
  | .surveyDump v0 => Sys2Proof.Machine.execSurveyDump v0 s
  | .surveyDumpDone v0 => Sys2Proof.Machine.execSurveyDumpDone v0 s
  | .breakpointHit v0 => Sys2Proof.Machine.execBreakpointHit v0 s
  | .xRetirement v0 => Sys2Proof.Machine.execXRetirement v0 s
  | .countedCycle v0 => Sys2Proof.Machine.execCountedCycle v0 s
  | .surveyBufferRecord v0 => Sys2Proof.Machine.execSurveyBufferRecord v0 s
  | .illegalOp v0 => Sys2Proof.Machine.execIllegalOp v0 s
  | .l2Eviction v0 => Sys2Proof.Machine.execL2Eviction v0 s
  | .snoopFilterEviction v0 => Sys2Proof.Machine.execSnoopFilterEviction v0 s
  | .hostSnoop v0 => Sys2Proof.Machine.execHostSnoop v0 s
  | .thermalStep v0 v1 => Sys2Proof.Machine.execThermalStep v0 v1 s
  | .thermalCritical v0 v1 => Sys2Proof.Machine.execThermalCritical v0 v1 s
  | .pwrcapWrite v0 v1 => Sys2Proof.Machine.execPwrcapWrite v0 v1 s
  | .govstatWrite v0 v1 v2 => Sys2Proof.Machine.execGovstatWrite v0 v1 v2 s
  | .hostPortTrain v0 v1 v2 v3 => Sys2Proof.Machine.execHostPortTrain v0 v1 v2 v3 s
  | .flitReceive v0 v1 => Sys2Proof.Machine.execFlitReceive v0 v1 s
  | .laneLockLoss v0 => Sys2Proof.Machine.execLaneLockLoss v0 s
  | .peerRequest v0 v1 => Sys2Proof.Machine.execPeerRequest v0 v1 s
  | .remoteWake v0 v1 => Sys2Proof.Machine.execRemoteWake v0 v1 s
  | .containmentMessage v0 => Sys2Proof.Machine.execContainmentMessage v0 s
  | .hostLinkDown v0 => Sys2Proof.Machine.execHostLinkDown v0 s
  | .cxlViralIndication v0 v1 => Sys2Proof.Machine.execCxlViralIndication v0 v1 s
  | .memoryPortLinkDown v0 => Sys2Proof.Machine.execMemoryPortLinkDown v0 s
  | .controlStructureError v0 => Sys2Proof.Machine.execControlStructureError v0 s
  | .memwinRead v0 v1 v2 => Sys2Proof.Machine.execMemwinRead v0 v1 v2 s
  | .memwinWrite v0 v1 v2 v3 => Sys2Proof.Machine.execMemwinWrite v0 v1 v2 v3 s
  | .cfgwinWrite v0 v1 v2 v3 => Sys2Proof.Machine.execCfgwinWrite v0 v1 v2 v3 s
  | .bootStep => Sys2Proof.Machine.execBootStep s
  | .getVersion v0 => Sys2Proof.Machine.execGetVersion v0 s
  | .getCapabilities v0 => Sys2Proof.Machine.execGetCapabilities v0 s
  | .negotiateAlgorithms v0 => Sys2Proof.Machine.execNegotiateAlgorithms v0 s
  | .getDigests v0 => Sys2Proof.Machine.execGetDigests v0 s
  | .getCertificate v0 v1 v2 v3 => Sys2Proof.Machine.execGetCertificate v0 v1 v2 v3 s
  | .challenge v0 v1 v2 => Sys2Proof.Machine.execChallenge v0 v1 v2 s
  | .getMeasurements v0 v1 => Sys2Proof.Machine.execGetMeasurements v0 v1 s
  | .spdmUnsupported v0 v1 => Sys2Proof.Machine.execSpdmUnsupported v0 v1 s
  | .leasecfgWrite v0 v1 => Sys2Proof.Machine.execLeasecfgWrite v0 v1 s
  | .renew v0 => Sys2Proof.Machine.execRenew v0 s
  | .claim v0 => Sys2Proof.Machine.execClaim v0 s
  | .release v0 => Sys2Proof.Machine.execRelease v0 s
  | .leaseExpiry => Sys2Proof.Machine.execLeaseExpiry s
  | .hostCounterAdd v0 v1 v2 => Sys2Proof.Machine.execHostCounterAdd v0 v1 v2 s
  | .hostCounterRead v0 v1 => Sys2Proof.Machine.execHostCounterRead v0 v1 s
  | .rqbaseWrite v0 v1 => Sys2Proof.Machine.execRqbaseWrite v0 v1 s
  | .rqentWrite v0 v1 => Sys2Proof.Machine.execRqentWrite v0 v1 s
  | .requestNop => Sys2Proof.Machine.execRequestNop s
  | .requestLaunch => Sys2Proof.Machine.execRequestLaunch s
  | .requestCancel => Sys2Proof.Machine.execRequestCancel s
  | .interruptWaiterWrite v0 v1 v2 v3 v4 => Sys2Proof.Machine.execInterruptWaiterWrite v0 v1 v2 v3 v4 s
  | .hostFwdReply => Sys2Proof.Machine.execHostFwdReply s
  | .stage v0 v1 => Sys2Proof.Machine.execStage v0 v1 s
  | .fwMeasureDone => Sys2Proof.Machine.execFwMeasureDone s
  | .switch v0 => Sys2Proof.Machine.execSwitch v0 s
  | .discard v0 => Sys2Proof.Machine.execDiscard v0 s
  | .fwDrainEnd => Sys2Proof.Machine.execFwDrainEnd s
  | .fwreadyWrite v0 => Sys2Proof.Machine.execFwreadyWrite v0 s
  | .fwReadyTimeout => Sys2Proof.Machine.execFwReadyTimeout s
  | .preservingReset v0 => Sys2Proof.Machine.execPreservingReset v0 s
  | .coldReset v0 => Sys2Proof.Machine.execColdReset v0 s
  | .resetPin => Sys2Proof.Machine.execResetPin s
  | .selectionPass => Sys2Proof.Machine.execSelectionPass s
  | .svctlWrite v0 => Sys2Proof.Machine.execSvctlWrite v0 s
  | .sbctlWrite v0 => Sys2Proof.Machine.execSbctlWrite v0 s
  | .freeze => Sys2Proof.Machine.execFreeze s
  | .freezeSoft => Sys2Proof.Machine.execFreezeSoft s
  | .thaw => Sys2Proof.Machine.execThaw s
  | .undoStep => Sys2Proof.Machine.execUndoStep s
  | .undoTo => Sys2Proof.Machine.execUndoTo s
  | .keyhiWrite v0 => Sys2Proof.Machine.execKeyhiWrite v0 s
  | .cgdatWrite v0 => Sys2Proof.Machine.execCgdatWrite v0 s
  | .tendatWrite v0 => Sys2Proof.Machine.execTendatWrite v0 s
  | .peerdatWrite v0 => Sys2Proof.Machine.execPeerdatWrite v0 s
  | .flappWrite v0 => Sys2Proof.Machine.execFlappWrite v0 s
  | .cfgdatWrite v0 => Sys2Proof.Machine.execCfgdatWrite v0 s
  | .zalarnLinkTrain v0 v1 v2 v3 => Sys2Proof.Machine.execZalarnLinkTrain v0 v1 v2 v3 s
  | .hostAtomicOp v0 v1 v2 v3 v4 v5 => Sys2Proof.Machine.execHostAtomicOp v0 v1 v2 v3 v4 v5 s

end Sys2Proof.Machine
end

