-- ==== Sys2Proof/Machine/Turn.lean ====
section
/-! DEFINITION. Machine/Turn.lean: what the machine does next. At each step the part makes one of the moves that are open to
it: a stream issues a word, something issued earlier completes, or a unit acts. Where more than one move is open the manual
gives no order, and a free value chooses (R91, R110, R115 to R120, R256, R310 to R313, R316, R334). -/

namespace Sys2Proof.Machine

/-! ## Issue -/

/-- A hart's stream is the one that issues. -/
def State.at (s : State) (id : HartId) (onX : Bool) : State := { s.focus id with onX := onX }

/-- The word that the issuing stream stands at, from its loop buffer (R112, R115). -/
def State.word? (s : State) : Option (BitVec 32) :=
  match s.cur.pos with
  | .word w => listAt s.cur.blk.body w
  | _ => none

/-- A word is decoded and executed, or meets its fate (R334). An instruction that needs a value still to come waits (R127). -/
def runWord (w : BitVec 32) (s : State) : Out :=
  match decode w with
  | .ok i => if needsOwed s i then .next s else exec i s
  | .error _ => exec (.illegalOp w) s

/-- The issuing stream enters a block, reloads one, or executes a word. -/
def issueWord (s : State) : Out :=
  match s.cur.pos with
  | .enter h via head => .next (enterBlock s h via head)
  | .reload h w => .next (reloadBlock s h w)
  | .word w =>
    match listAt s.cur.blk.body w with
    | some wd => runWord wd s
    | none => .next s

/-- Change the state that an outcome gives. -/
def mapOut (f : State → State) : Out → Out
  | .next s => .next (f s)
  | .fault r => .fault r
  | .refused r => .refused r

/-- Whether a stream has moved on. -/
def hasMoved (a b : Stream) : Bool := a.pos != b.pos || a.trip != b.trip

/-- What a turn leaves of its stream: one that stays at its word has passed the pre-emption test of its trip (R117). -/
def triedAt (old new : Stream) : Stream :=
  match old.pos with
  | .word _ => { new with tried := (new.st == .run || new.st == .qblock) && !hasMoved old new }
  | _ => { new with tried := false }

/-- Count an A-stream instruction past the stores that were unresolved before it (R256). -/
def passStores (before after : List PStore) : List PStore :=
  after.map fun st => if before.any (fun o => o.seq == st.seq) then { st with past := st.past + 1 } else st

/-- Whether a turn of the X-stream issued a scalar instruction while an older instruction is unadmitted, without a history entry
of its own so far (R129). -/
def needsHistory (before after : Hart) : Bool :=
  before.unadmitted && after.unadmitted && hasMoved before.x after.x && (match before.x.pos with | .word _ => true | _ => false)
    && after.viqLen == before.viqLen && after.history == before.history

/-- After the turn of a stream: what it leaves of the stream, the count of A-stream instructions issued past each unresolved
store, and the history entry of an X-stream instruction that writes nothing (R129, R256). -/
def afterTurn (s t : State) : State :=
  t.updHart s.h.id fun h =>
    if s.onX then
      { h with x := triedAt s.h.x h.x, xl := if needsHistory s.h h then noteLast 0 h.xl else h.xl }
    else
      { h with
        a := triedAt s.h.a h.a
        stores := if hasMoved s.h.a h.a then passStores s.h.stores h.stores else h.stores }

/-- Whether a word of the X-stream is a scalar instruction that finds no history entry free (R129). -/
def historyStall (s t : State) : Bool :=
  s.onX && s.h.unadmitted && decide (32 ≤ s.h.history) && s.word?.isSome && decide (t.h.viqLen ≤ s.h.viqLen)

/-- The header that control falls through to from a body's last word that the turn has issued: at once, or at the end of the
wait that the word has begun (R116). -/
def fallTarget (s t : State) : Option Word :=
  match s.cur.pos, t.hart? s.h.id with
  | .word w, some h =>
    let b := s.cur.blk
    let n := if s.onX then h.x else h.a
    let falls := fun (u : Stream) => u.pos == .enter b.next (b.wordAddr w) none
    if w + 1 = b.body.length && b.next != b.hdr
        && (falls n || (n.begun && !s.cur.begun && falls (n.past (softRequest s.h.req) w))) then some b.next
    else none
  | _, _ => none

/-- A fall-through that reaches no header is found with the body's last word: BAD_TARGET is raised there, and that word has
had no effect (R116, R253, R346). -/
def fallChecked (s t : State) : State :=
  match fallTarget s t with
  | none => t
  | some h =>
    match fetchAt s h with
    | (.ok w, s1) => if opOf w = 0xFF then t else raise s1 causeBAD_TARGET 0 0 h
    | (.error _, _) => t

/-- The end of a stream's turn: a word that must wait for a history entry has not executed (R129), nor has one that falls
through to no header (R116). -/
def endTurn (s t : State) : State := if historyStall s t then s else afterTurn s (fallChecked s t)

/-- The issuing stream executes its word, unless it must wait for a history entry. -/
def issueStream (s : State) : Out := mapOut (endTurn s) (issueWord s)

/-- The issuing stream takes its turn: a recorded store fault is delivered at the instruction boundary, and the seventeenth
A-stream instruction past a store waits for that store (R256). -/
def issueTurn (s : State) : Out :=
  if s.onX then issueStream s
  else if !s.h.sfrq.isEmpty then .next (takeTrap s ⟨false, causeSTORE, 0, 0, 0⟩)
  else match overdueStore s.h with
    | some n => .next (resolveAt s n)
    | none => issueStream s

/-- Whether the X-stream stands at a boundary that a soft request would take it at, and older instructions are unadmitted
(R118, R127). -/
def waitsAtBoundary (h : Hart) (t : Stream) : Bool := t.st == .qblock && h.unadmitted && t.atBoundary && !t.begun && !t.tried

/-- Whether a request holds a stream where it stands (R118). -/
def heldBack (h : Hart) (onX : Bool) : Bool :=
  let t := if onX then h.x else h.a
  (softRequest h.req && (t.canStop || (onX && waitsAtBoundary h t))) || (h.req == some .freeze && !h.inStep)

/-- Whether a stream can take a turn (R110). The scalar part of the X-stream runs ahead of an instruction that waits for a
queue (R127). -/
def canIssue (h : Hart) (onX : Bool) : Bool :=
  let t := if onX then h.x else h.a
  h.parking == 0 && !heldBack h onX &&
    match t.st with
    | .run | .qblock => true
    | .wait => t.wait == .none || t.wait == .retry
    | _ => false

/-! ## Survey records (R313) -/

/-- The sequence numbers at the tail of each of a hart's ten queues, and at its head as pops have been made. -/
def queueMarks (h : Hart) : List (BitVec 32 × BitVec 32) :=
  ((List.range 8).map fun q => let d := h.queue q; (qTail d.head d.entries.length, qTail d.head d.popped)) ++
    [h.qx, h.qa].map fun d => (qTail d.head d.entries.length, qTail d.head d.popped)

/-- Whether a sequence number has moved forward: entries that are given back move it backward (R254, R365). -/
def movedOn (a b : BitVec 32) : Bool := a != b && decide ((b - a).toNat < 2 ^ 31)

/-- Whether a move of a hart has pushed to a queue, and whether it has popped one. An ERET, which may empty queues, does neither
(R266, R313). -/
def queueMoves (a b : Hart) (eret : Bool) : Bool × Bool :=
  let ms := (queueMarks a).zip (queueMarks b)
  (!eret && ms.any fun m => movedOn m.1.1 m.2.1, !eret && ms.any fun m => movedOn m.1.2 m.2.2)

/-- Vector and matrix instructions of a hart that are admitted and have not retired. -/
def Hart.admitted (h : Hart) : Nat := (h.xl.filter fun e => e.admitted && e.op.isSome).length

/-- The instruction that a hart has admitted, from its X-stream list before and after: a trap that discards queued ones admits
none. -/
def newlyAdmitted (a b : Hart) : Option Instr :=
  let op := fun (e : XEntry) => e.op.map fun o => o.instr
  match (splitWaiting a.xl).2 with
  | e :: _ => if a.admitted < b.admitted then op e else none
  | [] => if a.xl.length < b.xl.length then (match b.xl.getLast? with | some e => if e.admitted then op e else none | none => none)
    else none

/-- Whether a word is a counter operation. -/
def counterWord (w : BitVec 32) : Bool := decide (0xC0 ≤ opOf w ∧ opOf w ≤ 0xC5) || opOf w == 0xD5

/-- What a move by one hart adds to the record of the cycle (R313 Table 3): the word issued, with its stream and address, if
there was one. -/
def surveyBits (sel : Nat) (a b : Hart) (w : Option (Bool × BitVec 32 × Word)) : BitVec 128 :=
  let g := a.id.group
  let bit := fun (c : Bool) (n : Nat) => if c then 2 ^ (n + g) else 0
  let (push, pop) := queueMoves a b (match w with | some (_, wd, _) => opOf wd == 0xE5 | none => false)
  let op := newlyAdmitted a b
  let isM := match op with | some i => isMatrix i | none => false
  let isV := op.isSome && !isM
  let code := match op with | some i => opOf (encode i) | none => 0
  let (onA, onX, pc, cevt) := match w with
    | some (x, wd, pc) => (!x, x, pc.toNat / 4 % 2 ^ 32, counterWord wd)
    | none => (false, false, 0, false)
  let mine := a.id.group == sel
  BitVec.ofNat 128 (bit onA 0 + bit onX 4 + bit isV 8 + bit isM 12 + bit push 16 + bit pop 20 +
    bit cevt 24 + (if mine && onA then pc * 2 ^ 32 else 0) + (if mine && onX then pc * 2 ^ 64 else 0) +
    (if mine && isV then code * 2 ^ 96 else 0) + (if mine && isM then code * 2 ^ 104 else 0))

/-- Whether a word that issues fires the trigger of a buffer. -/
def triggers (b : SBuf) (g : Nat) (w : Option (Bool × BitVec 32 × Word)) : Bool :=
  match w with
  | some (x, _, pc) => b.trig == (if x then 2#3 else 1#3) && g == b.sel.toNat && pc == b.pc
  | none => false

/-- Whether the cause that an A-stream's turn has taken is that of an older load or store, which comes before its word (R256,
R365). -/
def olderCause (s : State) (t : Option Hart) : Bool :=
  let failed := (settleLoads s false).1.isSome
  match t with
  | none => failed
  | some h => h.th && !s.h.th && (failed || h.tcause.toNat % 2 ^ 16 == causeSTORE)

/-- Whether a turn has issued the word at which the stream stood: the stream has moved on, has begun to wait on it, has ended with
it, or is gone; a word that was begun before has issued already, and the fault of an older load or store is delivered before one (R256, R313). -/
def issuedWord (s t : State) : Bool :=
  let g := t.hart? s.h.id
  !s.cur.begun && (s.onX || (s.h.sfrq.isEmpty && !olderCause s g)) &&
    match g with
    | none => true
    | some h => let n := if s.onX then h.x else h.a; hasMoved s.cur n || n.begun || n.st == .idle

/-- Note a move of a hart in its tower's survey buffer. -/
def noteMove (s : State) (id : HartId) (w : Option (Bool × BitVec 32 × Word)) (t : State) : State :=
  let b := s.buf id.tower
  if !b.arm || b.full || b.core.toNat != id.core then t
  else match s.hart? id with
    | none => t
    | some a =>
      let bits := surveyBits b.sel.toNat a ((t.hart? id).getD a) w
      let fire := triggers b id.group w
      t.updBuf id.tower fun b =>
        let b1 := { b with cur := b.cur ||| bits }
        if fire then b1.fire else b1

/-- A wake that a hart receives is noted. -/
def noteWake (i : Instr) (t : State) : State :=
  match i with
  | .cwaitWake h _ =>
    let b := t.buf h.tower
    if b.arm && b.core.toNat == h.core then t.updBuf h.tower fun b => { b with cur := b.cur ||| BitVec.ofNat 128 (2 ^ (24 + h.group)) }
    else t
  | _ => t

/-! ## Time -/

/-- A cycle passes: the survey records it, every hart counts it and every tenant is charged for it. In CONTAINED every task
counts as parked (R92, R309, R310, R313). -/
def tick (s : State) : State :=
  let s1 := (List.range 8).foldl recordCycle s
  let s2 : State := { s1 with cycle := s1.cycle + 1 }
  if s2.cfg.cont then s2 else tenantCycle { s2 with h := countCycle s2.h, rest := s2.rest.map countCycle }

/-- Waiters that are not in a table and poll (R247). -/
def pollers (s : State) : List WaiterId :=
  (s.cfg.ivt.map fun e => WaiterId.interrupt e.1) ++
    (s.entries.filter fun e => e.2.state == .waiting).flatMap fun e => (List.range 4).map fun j => WaiterId.start e.1 j

/-- The polls of a cycle that is a multiple of 4,096 (R29, R247). -/
def polls (s : State) : State :=
  let s1 := (s.harts.map fun h => h.id).foldl (fun s id =>
    match execHostCounterPoll id s with | .next t => t | _ => s) s
  (pollers s1).foldl pollWaiter s1

/-- What happens at cycles that are multiples of 32: duties at multiples of 256, polls at multiples of 4,096, and the
selection pass. In CONTAINED the duties alone follow what is held (R24, R71, R90). -/
def clockWork (s : State) : State :=
  let s1 := if s.cycle % 256 = 0 then updGovs s (newDuties s.cfg.pwrcap.toNat) else s
  if s.cfg.cont then s1 else selectionPass (if s.cycle % 4096 = 0 then polls s1 else s1)

/-! ## Moves -/

/-- The next line or end of an engine command. -/
def engineMove (s : State) (id : Nat) : Out :=
  match s.cmd? id with
  | none => .next s
  | some c =>
    match c.body with
    | .sluice r => if c.started then execSluiceLineDelivered id s else if r.append then execSluiceAppend id s else execSluiceCopy id s
    | .pan r =>
      if c.ended then execPanCommandEnd id s
      else match r.opc with | 1 => execPanGemv id s | 2 => execPanAxpby id s | _ => execPanFill id s
    | .recode _ st _ =>
      match st with
      | .queued => execRecodeJobStart c.unit s
      | .guard => execRecodeGuardDone c.unit s
      | .recode | .remap => execRecodeLinesDone c.unit s
      | .shoot => execRecodeShootDone c.unit s

/-- The call at the head of a tower's ring is taken. -/
def callMove (s : State) (t : Nat) : Out :=
  match headCall s t with
  | none => .next s
  | some (_, r) =>
    match callFunc r with
    | 0 => execCallNull t s
    | 1 => execCallUndoStep t s
    | 2 => execCallUndoTo t s
    | 0x10 => execCallHostFwd t s
    | 0x20 => execCallLog t s
    | _ => execCallUndefined t s

/-- The next posted request is served. -/
def requestMove (s : State) : Out :=
  match nextRequest s with
  | none => .next s
  | some n =>
    match requestType (requestSlot s n).1 with
    | 1 => execRequestLaunch s
    | 2 => execRequestCancel s
    | _ => execRequestNop s

/-- An uncorrectable error that a control structure has met (R70). -/
def controlMove (s : State) (t : Nat) : Out := execControlStructureError t { s with ctlErr := s.ctlErr.filter (· != t) }

/-- Note the turn of the stream that issues in `s`, with its word where the turn has issued it. -/
def noteIssue (s t : State) : State :=
  noteMove s s.h.id (if issuedWord s t then s.word?.map fun w => (s.onX, w, s.cur.pc) else none) t

/-- A stream of a hart takes its turn, noted in the survey. -/
def issueMove (s : State) (id : HartId) (onX : Bool) : Out :=
  let s1 := s.at id onX
  mapOut (noteIssue s1) (issueTurn s1)

/-- Make a move. -/
def Act.run (a : Act) (s : State) : Out :=
  match a with
  | .boot => execBootStep s
  | .clock => .next (clockWork s)
  | .lease => execLeaseExpiry s
  | .freezeEnd => .next (endDebug s 0 0 0)
  | .brk n => execBreakpointHit n s
  | .poll h => execCwaitFullPoll h s
  | .waitOver h => execCwaitTimeout h s
  | .timeout h => if (s.hart? h).any (fun x => x.req == some .kill) then execKillTimeout h s else execPreemptTimeout h s
  | .measured => execFwMeasureDone s
  | .drainOver => execFwDrainEnd s
  | .readyLate => execFwReadyTimeout s
  | .ctlError t => controlMove s t
  | .trim => .next ((trimmed s).getD s)
  | .grant t => execLeaveGrant t s
  | .dump t => execSurveyDump t s
  | .dumped t => execSurveyDumpDone t s
  | .call t => callMove s t
  | .request => requestMove s
  | .forward => execHostFwdReply s
  | .tlbi => execTlbiCompletionAdd s
  | .debugUndo => if s.dbg.cmd = 4 then execUndoStep s else execUndoTo s
  | .hostIn => .next (resumeAccess s)
  | .closePage p => .next (leavePage s p)
  | .collective l => execWmarkCollectiveComplete l s
  | .rewind l => execRewind l s
  | .engine id => engineMove s id
  | .arrive h => mapOut (noteMove s h none) (execVectorLoadArrival h s)
  | .resolve h => execStoreResolve h s
  | .retire h => execXRetirement h s
  | .admission h => mapOut (noteMove s h none) (execXAdmission h s)
  | .save h => execParkSaveComplete h s
  | .stop h => if (s.hart? h).any (fun x => x.req == some .kill) then execKillStop h s else execSoftPreemptStop h s
  | .deadlock h => execQblockHardPreempt h s
  | .issue h onX => issueMove s h onX

/-! ## The moves that are open -/

/-- A move if a condition holds. -/
def ifso (c : Bool) (a : Act) : List Act := if c then [a] else []

/-- Whether a timeout has elapsed and nothing that R246 puts before it ends the wait: a stop that is asked for takes the
waiting stream first. -/
def timedOut (now : Nat) (h : Hart) : Bool :=
  h.req.isNone && (match waitDeadline h with | some (_, dl) => overdue dl now | none => false)

/-- Moves of a hart that are due now: a poll or else a timeout of its wait, and an overdue stop. -/
def dueOf (now : Nat) (h : Hart) : List Act :=
  (if (fullPoll h).any fun at_ => decide (at_ ≤ now) then [.poll h.id] else ifso (timedOut now h) (.waitOver h.id)) ++
  ifso (stopOverdue h now) (.timeout h.id)

/-- A breakpoint entry that is hit: the slot, the stream and the entry. -/
def breakKey (s : State) (n : Nat) : Option (HartId × Bool × Nat) :=
  (breakAt s n).map fun p => (p.2.id, (SMap.get 0#64 s.dbg.bpc n).getLsbD 1, n)

/-- Whether a hit is recorded before another: the lowest slot, then A before X (R316). -/
def hitBefore (a b : HartId × Bool × Nat) : Bool :=
  slotBefore a.1 b.1 || (a.1 == b.1 && (!a.2.1 && b.2.1))

/-- The hit that is recorded first. -/
def firstHit (s : State) : Option Nat :=
  (((List.range 8).filterMap (breakKey s)).foldl (fun b k => match b with
    | none => some k
    | some c => some (if hitBefore k c then k else c)) none).map fun k => k.2.2

/-- Moves that come before any other: boot, the work of a 32nd cycle, what is due, and breakpoints. -/
def dueActs (s : State) : List Act :=
  if s.cfg.cont || s.cfg.phase == 15#4 then if s.cfg.cont && s.cycle % 256 == 0 then [.clock] else ifso (leaseOver s) .lease
  else if s.cfg.phase ≠ 4 then [.boot]
  else if s.cycle % 32 = 0 then [.clock]
  else (s.ctlErr.take 1).map .ctlError ++ ifso (trimmed s).isSome .trim ++ ifso (leaseOver s) .lease ++
    ifso (readyOverdue s) .readyLate ++ ifso (freezeOver s) .freezeEnd ++ s.harts.flatMap (dueOf s.cycle) ++
    ((firstHit s).map .brk).toList

/-- Whether a request can take a stream of a hart now (R100, R118). -/
def stopOpen (h : Hart) : Bool :=
  if h.parking != 0 then false
  else if h.req = some .freeze then !h.inStep
  else
    softRequest h.req && h.loads.isEmpty &&
      ((h.a.canStop && h.a.st != .stopped) || (h.x.canStop && h.x.st != .stopped && h.x.st != .idle && !h.unadmitted)
        || h.bothStopped)

/-- Whether a blocked A-stream would block again. -/
def stillBlockedA (s : State) (h : Hart) : Bool :=
  match issueMove s h.id false with
  | .next t => match t.hart? h.id with | some g => g.a.st == .qblock | none => false
  | _ => false

/-- Whether the oldest unadmitted instruction of a hart would not be admitted. -/
def admissionBlocked (s : State) (h : Hart) : Bool :=
  match execXAdmission h.id s with
  | .next t => match t.hart? h.id with | some g => g.viqLen == h.viqLen && g.x.st == .qblock | none => false
  | _ => false

/-- Whether the scalar part of an X-stream would not move: it is held at a boundary, or its word waits. -/
def scalarBlocked (s : State) (h : Hart) : Bool :=
  heldBack h true ||
    match issueMove s h.id true with
    | .next t => match t.hart? h.id with | some g => !hasMoved h.x g.x | none => false
    | _ => false

/-- Whether a blocked stream would block again (R120, R127). -/
def stillBlocked (s : State) (h : Hart) (onX : Bool) : Bool :=
  if onX then (!h.unadmitted || admissionBlocked s h) && scalarBlocked s h else stillBlockedA s h

/-- The deadlock of R120. -/
def deadlocked (s : State) (h : Hart) : Bool :=
  queueDeadlock h && (if h.a.st = .qblock then stillBlocked s h false else stillBlocked s h true)

/-- Moves of a hart. -/
def hartActs (s : State) (h : Hart) : List Act :=
  ifso (!h.loads.isEmpty) (.arrive h.id) ++ ifso (!h.stores.isEmpty) (.resolve h.id) ++
  ifso (match h.xl with | e :: _ => !e.waiting | [] => false) (.retire h.id) ++ ifso h.unadmitted (.admission h.id) ++
  ifso (saveDue h) (.save h.id) ++ ifso (stopOpen h) (.stop h.id) ++ ifso (deadlocked s h) (.deadlock h.id) ++
  ifso (canIssue h false) (.issue h.id false) ++ ifso (canIssue h true) (.issue h.id true)

/-- Moves of a tower's units. -/
def towerActs (s : State) (t : Nat) : List Act :=
  let b := s.buf t
  ifso (!(s.governor t).asked.isEmpty) (.grant t) ++ ifso (b.arm && b.full && !b.dumped) (.dump t) ++
  ifso (b.arm && b.dumped) (.dumped t) ++ ifso (headCall s t).isSome (.call t)

/-- Whether a rewind command of the debug unit waits for another rewind of its context (R286). -/
def undoWaits (s : State) : Bool :=
  (s.dbg.cmd == 4#4 || s.dbg.cmd == 5#4) && (s.entry (s.dbg.lh.toNat % 4096)).rw.isNone

/-- Moves that need not come now. -/
def openActs (s : State) : List Act :=
  ifso (readyAccess s [] s.stalledIn).isSome .hostIn ++
  if s.cfg.cont || s.cfg.phase != 4#4 then []
  else
    ifso (s.cfg.fwState == 1#3) .measured ++ ifso (s.cfg.fwState == 3#3 && !s.cfg.drained && drainDone s) .drainOver ++
    (List.range 8).flatMap (towerActs s) ++ ifso (nextRequest s).isSome .request ++ (s.pagebuf.map fun p => .closePage p.1) ++
    ifso (answered s).isSome .forward ++ ifso (readyTlbi s [] s.tlbis).isSome .tlbi ++ ifso (undoWaits s) .debugUndo ++
    (s.entries.flatMap fun e => ifso (collectiveReady s e.1) (.collective e.1) ++ ifso (rewindReady s e.1) (.rewind e.1)) ++
    ((s.cmds.filter fun c => !c.asks).map fun c => .engine c.id) ++ s.harts.flatMap (hartActs s)

/-- The host whose lease command an event is (R52). -/
def leaseHost : Instr → Option HostId
  | .renew h | .claim h | .release h => some h
  | .cfgwinWrite h off _ _ => if off = 0x108 then some h else none
  | _ => none

/-- The place of a host or peer in the order of R243: host A, host B, peers by node. -/
def hostRank : HostId → Nat
  | .a => 0 | .b => 1

/-- Who sends an event from outside the part: a host, by its accesses, or a peer. -/
def eventSource : Instr → Option Nat
  | .renew h | .claim h | .release h | .memwinRead h _ _ | .memwinWrite h _ _ _ | .cfgwinWrite h _ _ _ | .hostCounterAdd h _ _
  | .hostCounterRead h _ | .hostAtomicOp h _ _ _ _ _ | .pwrcapWrite h _ | .govstatWrite h _ _ | .leasecfgWrite h _
  | .rqbaseWrite h _ | .rqentWrite h _ | .interruptWaiterWrite h _ _ _ _ | .stage h _ | .switch h | .discard h
  | .preservingReset h | .coldReset h => some (hostRank h)
  | .peerRequest n _ => some (2 + n)
  | .flitReceive l _ => some (0x2000 + l)
  | _ => none

/-- Whether a peer's request is an operation on a counter. -/
def counterReq : PeerReq → Bool
  | .counterAdd _ _ | .counterXadd _ _ | .counterRead _ | .counterTest _ _ | .counterWait _ _ _ => true
  | _ => false

/-- Whether an offset of CFGWIN is a counter's: an ACCESS word of the window (R54, R55). -/
def accessWord (off : Nat) : Bool := decide (0x20000 ≤ off ∧ off < 0x24000) && off / 8 % 2 == 1

/-- Whether a write of CFGWIN may add to a counter or test one: to an ACCESS word, or to an interrupt waiter entry (R54, R59). -/
def counterOffset (off : Nat) : Bool := accessWord off || decide (0x30000 ≤ off ∧ off < 0x38000)

/-- Node of the first operation on a counter among a flit's messages; the messages of a flit are taken together. -/
def flitNode (ms : List FlitMsg) : Option Nat :=
  ms.findSome? fun m => match m with | .request n r => if counterReq r then some n else none | _ => none

/-- The place of an event among the operations on counters that arrive in one cycle (R243). DEDUCED (log 169): a flit's place is
that of its first operation on a counter. -/
def counterRank : Instr → Option Nat
  | .hostCounterAdd h _ _ | .hostCounterRead h _ | .interruptWaiterWrite h _ _ _ _ => some (hostRank h)
  | .cfgwinWrite h off _ _ => if counterOffset off then some (hostRank h) else none
  | .peerRequest n r => if counterReq r then some (2 + n) else none
  | .flitReceive _ f => (flitNode f.msgs).map fun n => 2 + n
  | _ => none

/-- Whether an event is taken before another of its cycle: host A's lease commands before host B's, and operations on counters
in the order of R243 (R52). -/
def goesBefore (j i : Instr) : Bool :=
  (leaseHost j == some .a && leaseHost i == some .b) ||
    match counterRank j, counterRank i with | some a, some b => decide (a < b) | _, _ => false

/-- Take out of a list the event that goes before one and before every other that does; what one source sends keeps its
order. -/
def takeBefore (i : Instr) (seen : List (Option Nat)) : List Instr → Option (Instr × List Instr)
  | [] => none
  | j :: js =>
    let src := eventSource j
    match takeBefore i (src :: seen) js with
    | some (k, rest) => if goesBefore j i && !goesBefore k j && !seen.contains src then some (j, js) else some (k, j :: rest)
    | none => if goesBefore j i && !seen.contains src then some (j, js) else none

/-- The next event of a cycle and the others (R52, R243). DEDUCED (log 169): of two operations on counters the one of the
source that R243 names first goes first, whatever counters they name. -/
def nextEvent : List Instr → Option (Instr × List Instr)
  | [] => none
  | i :: is => match takeBefore i [eventSource i] is with | some (j, rest) => some (j, i :: rest) | none => some (i, is)

/-- Whether the next read of CFGWIN that a host has asked for goes before an event: one of a counter, where R243 puts its host
first and no event of that host is still to come. Other reads come after the events (log 169). -/
def readFirst (s : State) (i : Instr) : Bool :=
  match s.hostReads, counterRank i with
  | (h, off, _) :: _, some n =>
    accessWord off && decide (hostRank h < n) && !s.agenda.any fun j => eventSource j == some (hostRank h)
  | _, _ => false

/-- The next read of CFGWIN that a host has asked for. -/
def takeRead (s : State) : Out :=
  match s.hostReads with
  | (h, off, n) :: rest => .next (hostReadOp { s with hostReads := rest } h off n)
  | [] => .next s

/-- The moves that are open, those that have stood open before first, in their order. -/
def queueUp (line open_ : List Act) : List Act :=
  let old := line.filter fun a => open_.contains a
  old ++ open_.filter fun a => !old.contains a

/-- The moves open to the part: those that come before any other, or else those that need not come now. -/
def choices (s : State) : List Act :=
  match dueActs s with
  | [] => openActs s
  | d :: ds => d :: ds

/-- Which of several open moves is made: a free value chooses, but every 64th choice is that of the one that has stood open
longest, so that none waits for ever. DESIGN CHOICE (log 150; R102). -/
def chosen (s : State) (line : List Act) : Act :=
  let n := if 63 ≤ s.turns then 0 else Config.freeNat s.draws % line.length
  (listAt line n).getD .clock

/-- One of several moves that are due, by a free value. -/
def dueMove (s : State) (ds : List Act) : Out :=
  ((listAt ds (Config.freeNat s.draws % ds.length)).getD .clock).run { s with draws := s.draws + 1 }

/-- One of several open moves. -/
def openMove (s : State) (as : List Act) : Out :=
  let line := queueUp s.line as
  let a := chosen s line
  a.run { s with draws := s.draws + 1, turns := if 63 ≤ s.turns then 0 else s.turns + 1, line := line.filter (· != a) }

/-- One move, with the cycle that it takes: the only one open, or one of several; with none, time passes. -/
def turn (s : State) : Out :=
  match choices s with
  | [] => .next (tick s)
  | [a] => mapOut tick (a.run s)
  | as => mapOut tick (if (dueActs s).isEmpty then openMove s as else dueMove s as)

end Sys2Proof.Machine
end

