-- ==== Sys2Proof/Machine/Step.lean ====
section
/-! DEFINITION. Machine/Step.lean: one step, and the placing of an instruction where the next step fetches. -/

namespace Sys2Proof.Machine

/-- One step: an event that is due, such as an input from outside the part, a host's read of CFGWIN, or else one move of the
part. -/
def step (s : State) : Host.Outcome State Fault Refusal :=
  match nextEvent s.agenda, s.hostReads with
  | some (i, rest), _ => if readFirst s i then takeRead s else mapOut (noteWake i) (exec i { s with agenda := rest })
  | none, _ :: _ => takeRead s
  | none, [] => turn s

/-- The slot of the task that withFetchWord places. -/
def fetchSlot : HartId := ⟨0, 0, 0⟩

/-- The launch of that task: RUNNING, of tenant 0, with every tile granted. -/
def fetchEntry : LEntry :=
  { LEntry.reset with
    state := .running, gen := 1
    recd := { LaunchRec.none with aentry := 0x10000, minh := 1, maxh := 1, mint := 1, maxt := 1, affin := 1, tiles := 4, logsize := 1 } }

/-- A stream that stands at the one word of a block in its loop buffer. -/
def fetchStream (w : BitVec 32) : Stream :=
  { Stream.reset with
    st := .run, blk := ⟨0x10000, [w], 1, [], 0xFF000000#32⟩, filled := true, pos := .word 0, n := 1, last := 1 }

/-- A state whose next step runs the instruction with the given bits: boot is complete, and one task of tenant 0 stands at
that word in the loop buffer of the stream that its opcode group may use (R107, R112, R115). -/
def State.withFetchWord (s : State) (nbits w : Nat) : State :=
  let word := BitVec.ofNat 32 (w % 2 ^ nbits)
  let onX := !allowedA word
  let blank := { Hart.blank fetchSlot true with launch := some 0, gen := 1, priv := true }
  let h := if onX then { blank with x := fetchStream word } else { blank with a := fetchStream word }
  { s with
    cycle := 1
    agenda := []
    hostReads := []
    onX := onX
    h := h
    rest := s.harts.filter fun g => g.id != fetchSlot
    entries := SMap.set LEntry.reset s.entries 0 fetchEntry
    cfg := { s.cfg with phase := 4, step := 6, cont := false } }

end Sys2Proof.Machine
end

