-- ==== Sys2Proof/Safety.lean ====
section
/-! DEFINITION. Safety.lean: what the claims mean by a good state and a good run. -/

namespace Sys2Proof.Machine

/-- Memory stands in its canonical form: addresses strictly rising, and no entry that an unlisted address reads as. -/
abbrev Memory.wf (m : List Host.Cell) : Prop := SMap.wf 0#8 m = true

/-- The canonical form of the machine's memory. -/
abbrev State.memWf (s : State) : Prop := Memory.wf s.mem

/-- The byte of physical memory at an address. -/
def State.byte (s : State) (pa : Nat) : BitVec 8 := SMap.get 0#8 s.mem pa

/-- The machine answers a next state. -/
def Runs (o : Out) : Prop := ∃ t, o = .next t

/-- A state from which no number of steps stops. -/
def Safe (s : State) : Prop := ∀ n, ∃ t, Host.Core.run Sys2Proof.core n s = .next t

/-! ## What an instruction leaves unchanged

An instruction that moves on changes the place of its stream, and the counts of old values that the stream keeps while older
instructions are in flight (R117, R129, R365). The frames below say that it changes nothing else. -/

/-- A stream without its registers and its place: what an instruction that writes a register may not change. -/
def Stream.still (t : Stream) : Stream :=
  { t with
    st := .run, pos := .word 0, k := 0, trip := 0, last := 0, regs := [], wait := .none, begun := false, stepPast := false
    tried := false }

/-- A hart without one stream and the counts of that stream's kept values. -/
def Hart.without (onX : Bool) (h : Hart) : Hart :=
  if onX then { h with x := .reset, xl := h.xl.map fun e => { e with scalars := [] } }
  else { h with a := .reset, loads := h.loads.map fun p => { p with kept := 0 } }

/-- The whole machine without the stream that issues. -/
def State.frame (s : State) : State := { s with h := s.h.without s.onX }

/-- The issuing stream stands at word w of its block. -/
def AtWord (s : State) (w : Nat) : Prop := s.cur.pos = .word w

/-- The issuing stream has moved past word w, as R117 gives the next place, and runs. -/
def Passed (s t : State) (w : Nat) : Prop :=
  let u := ({ s.cur with st := .run, wait := .none, begun := false, stepPast := false } : Stream).past (softRequest s.h.req) w
  t.cur.pos = u.pos ∧ t.cur.k = u.k ∧ t.cur.trip = u.trip ∧ t.cur.last = u.last ∧ t.cur.st = .run ∧ t.cur.wait = .none ∧
    t.cur.begun = false

/-- The instruction at word w has executed without changing anything but the place of its stream. -/
def Ran (s t : State) (w : Nat) : Prop :=
  t.frame = s.frame ∧ t.cur.still = s.cur.still ∧ Passed s t w ∧ t.cur.regs = s.cur.regs

/-- The instruction at word w has executed; scalar register d of its stream holds v (x0 as before, R319), and nothing but
that and the place of the stream has changed. -/
def Wrote (s t : State) (w : Nat) (d : BitVec 6) (v : Word) : Prop :=
  t.frame = s.frame ∧ t.cur.still = s.cur.still ∧ Passed s t w ∧ t.cur.regs = (s.cur.setReg d.toNat v).regs

/-- The A-stream stands at word w with nothing in flight before it: no unconfirmed load, no unresolved store, no recorded
store fault. -/
def ReadyA (s : State) (w : Nat) : Prop :=
  s.onX = false ∧ s.h.a.pos = .word w ∧ s.h.loads = [] ∧ s.h.stores = [] ∧ s.h.sfrq = []

/-- The X-stream stands at word w and every older instruction has retired. -/
def ReadyX (s : State) (w : Nat) : Prop := s.onX = true ∧ s.h.x.pos = .word w ∧ s.h.xl = []

/-- An instruction writes scalar register d with a value, wherever the issuing stream stands at it and an entry is free to
keep the old value (R129, R365): it executes, and nothing else changes but the place of the stream. -/
def Gives (i : Instr) (d : BitVec 6) (v : State → Word) : Prop :=
  ∀ (s : State) (w : Nat), AtWord s w → s.canWrite = true → ∃ t, exec i s = .next t ∧ Wrote s t w d (v s)

/-- A transfer to an address completes (R346, R347): the address is aligned, and the loop buffer holds its block or the word
fetched there is a block header; `s1` is the state after that fetch. -/
def Reaches (s : State) (tgt : Word) (s1 : State) : Prop :=
  tgt.toNat % 4 = 0 ∧ ((s.cur.filled = true ∧ s.cur.blk.hdr = tgt ∧ s1 = s) ∨
    (¬ (s.cur.filled = true ∧ s.cur.blk.hdr = tgt) ∧ ∃ w, fetchAt s tgt = (.ok w, s1) ∧ opOf w = 0xFF))

/-- The stream of `s` has been sent to the block whose header is at an address, with the header word read, the link written if
there is one; nothing else has changed since `s`. -/
def Sent (s t : State) (tgt : Word) (link : Option (BitVec 6 × Word)) : Prop :=
  t.frame = s.frame ∧ t.cur.still = s.cur.still ∧ (∃ w, t.cur.pos = .enter tgt s.cur.pc (some w)) ∧ t.cur.st = .run ∧ t.cur.wait = .none ∧
    t.cur.begun = false ∧ t.cur.k = s.cur.k ∧ t.cur.n = s.cur.n ∧
    t.cur.regs = (match link with | some (d, v) => (s.cur.setReg d.toNat v).regs | none => s.cur.regs)

/-- An access of the acting hart is served by a cached translation as it stands: the TLB holds it, it permits the access,
and no A or D bit is due (R157, R160). -/
def Hits (s : State) (va : Word) (n : Need) (x : Xlat) : Prop := s.reachH va n = (.ok x, s)

/-- A line of HBM4E that stands in a cache of the part, so that its check field is not read (R188, R190). -/
def Held (s : State) (pa : Nat) : Prop := regionOf s pa = .hbm ∧ cached (dirOf s pa) = true

/-! ## Memory as an access sees it -/

/-- Memory and the sideband of the lines stand in their canonical forms. -/
def State.canon (s : State) : Prop := s.memWf ∧ SMap.wf Side.reset s.side = true

/-- The byte of physical memory at an address as the part reads it: zero in a line that is UNINIT (R185). -/
def State.seen (s : State) (pa : Nat) : BitVec 8 := if tagVc (sideOf s pa).tag = .uninit then 0 else s.byte pa

/-- n bytes as the part reads them, little-endian (R4). -/
def State.seenWord (s : State) (pa : Nat) : Nat → Nat
  | 0 => 0
  | n + 1 => (s.seen pa).toNat + 256 * s.seenWord (pa + 1) n

/-- An access of the acting hart that nothing stands in the way of: a cached translation serves it, of a page that is not
compacted, and its line is held in a cache and is VALID or UNINIT. -/
def Plain (s : State) (va : Word) (n : Need) (x : Xlat) : Prop :=
  Hits s va n x ∧ x.ratio = 1 ∧ Held s x.pa ∧ vcBad (tagVc (sideOf s x.pa).tag) = false

/-- What a scalar load of n bytes at an address reads, where nothing stands in the way of its one or two lines (R226). -/
def LoadsAs (s : State) (va : Word) (n v : Nat) : Prop :=
  (va.toNat % 64 + n ≤ 64 ∧ ∃ x, Plain s va .read x ∧ v = s.seenWord x.pa n) ∨
  (64 < va.toNat % 64 + n ∧ ∃ x y, let k := 64 - va.toNat % 64
    Plain s va .read x ∧ Plain s (va + BitVec.ofNat 64 k) .read y ∧
      v = s.seenWord x.pa k + 256 ^ k * s.seenWord y.pa (n - k))

/-- The byte of a hart's scratchpad at an offset as the part reads it: zero in a line that is UNINIT (R143, R369). -/
def Hart.spSeen (h : Hart) (off : Nat) : BitVec 8 :=
  if tagVc (h.spTagAt off) = .uninit then 0 else SMap.get 0#8 h.sp off

/-- A hart's scratchpad and its tags stand in their canonical forms. -/
def Hart.spCanon (h : Hart) : Prop := SMap.wf 0#8 h.sp = true ∧ SMap.wf h.spDef h.spTag = true

/-- Every byte of memory outside n bytes from an address reads as before. -/
def OnlyBytes (s t : State) (pa n : Nat) : Prop := ∀ a, a < pa ∨ pa + n ≤ a → t.seen a = s.seen a

/-- Every byte of memory reads as before. -/
def SameBytes (s t : State) : Prop := ∀ a, t.seen a = s.seen a

/-! ## Vector and matrix instructions -/

/-- The X-stream has moved past an instruction that stands in the VIQ and is not admitted yet (R126, R127). -/
def queued (s : State) (i : Instr) (sa sb : Word) : State :=
  ({ s with h := { s.h with xl := s.h.xl ++ [viqEntry s i sa sb] } } : State).advance

/-- What the admission of an instruction makes of the machine `q` in which it stands in the VIQ, where its effect is `h` with
the pops and pushes given (R126, R128): registers, masks, tiles, flags, the generator and the stream are those of the
effect; its entry is marked admitted; memory and the A-stream are as they were. -/
def Took (q t : State) (h : Hart) (pops pushes : List (Nat × Nat)) : Prop :=
  t.h.v = h.v ∧ t.h.m = h.m ∧ t.h.tiles = h.tiles ∧ t.h.tdirty = h.tdirty ∧ t.h.mkW = h.mkW ∧ t.h.lfsr = h.lfsr ∧
    t.h.xflags = h.xflags ∧ t.h.x.regs = h.x.regs ∧ t.h.x.pos = h.x.pos ∧ t.h.a = h.a ∧ t.h.sp = h.sp ∧
    t.h.xl = markAdmitted pops pushes h.xl ∧ t.mem = q.mem ∧ t.rest = q.rest

/-- The issuing X-stream has taken an instruction whose effect is `e`: admitted (R128), it has that effect; with an operand
missing it stands in the VIQ and the stream waits in QBLOCK; and where its effect is a trap, that is taken with the stream
back at it (R129). -/
def Enters (i : Instr) (sa sb : Word) (s : State) : Prop :=
  ∀ op, (viqEntry s i sa sb).op = some op →
    let q := queued s i sa sb
    (∀ h pops pushes, xEffect op q.h = .done h pops pushes → ∃ t, exec i s = .next t ∧ Took q t h pops pushes) ∧
    (xEffect op q.h = .wait → ∃ t, exec i s = .next t ∧ t.h.xl = q.h.xl ∧ t.h.v = q.h.v ∧ t.h.x.regs = q.h.x.regs) ∧
    ∀ c v, xEffect op q.h = .trap c v →
      exec i s = .next (takeTrap { q with h := undoX (unblockX q.h) } ⟨true, c, 0, 0, BitVec.ofNat 64 v⟩)

/-- A vector register that holds plain elements of a format that has no scales: VALID and not rotated. -/
def Hart.plainReg (h : Hart) (n f : Nat) : Prop :=
  (h.vreg n).vc = .valid ∧ (h.vreg n).hrot = 0 ∧ (h.vreg n).fmt.toNat = f

/-- Element i of what an instruction leaves in vector register d: beyond its length n the old element; an active one the new; an
inactive one zero under Z, else the old (R389, R390). -/
def maskedElem (h : Hart) (d n : Nat) (mask : MaskBits) (z : BitVec 1) (new : Nat → Nat) (i : Nat) : Nat :=
  if n ≤ i then regCode (h.vreg d) i
  else if mask.getLsbD i then new i
  else if z = 1 then 0
  else regCode (h.vreg d) i

/-- An instruction at admission gives vector register d the elements `new`, plain in format f, and adds flags. But for that, and
for the generator, which takes steps under SR alone (R179), the hart is as it was. -/
def FillsReg (op : XOp) (h : Hart) (d f : Nat) (flags : BitVec 6) (new : Nat → Nat) : Prop :=
  ∃ h1, xEffect op h = .done h1 [] [] ∧ { h1 with v := h.v, lfsr := h.lfsr } = { h with xflags := h.xflags ||| flags } ∧
    (op.rm.toNat ≠ 4 → h1.lfsr = h.lfsr) ∧ h1.plainReg d f ∧ (∀ k, k ≠ d → h1.vreg k = h.vreg k) ∧
    ∀ i, i < elemsIn h.bits f → regCode (h1.vreg d) i = new i

/-- The value of an INT32 element. -/
def int32Of (c : Nat) : Int := (BitVec.ofNat 32 c).toInt

/-- An integer lies beyond INT32. -/
def beyondInt32 (v : Int) : Prop := v < -2 ^ 31 ∨ 2 ^ 31 ≤ v

/-- The INT32 element of an integer: the nearer limit where it lies beyond them (R176 Table 6). -/
def int32Elem (v : Int) : Nat := (BitVec.ofInt 32 (Max.max (-2 ^ 31) (Min.min (2 ^ 31 - 1) v))).toNat

/-- The youngest queued instruction of the X-stream is the one at admission, and no younger scalar instruction has written a
register meanwhile (R127, R129). -/
def Hart.newest (h : Hart) : Prop :=
  h.xl = [] ∨ ∃ l y, h.xl = l ++ [y] ∧ (∀ x ∈ l, x.waiting = false) ∧ y.scalars = []

/-! ## Atomics -/

/-- The table of R440 on w-bit values: what ADD, MIN, MAX, AND, OR, XOR and SWAP make of an old value and an operand. -/
def atomRules (w : Nat) : List (Nat → Nat → Nat) :=
  let signed := fun (c : Nat) => (BitVec.ofNat w c).toInt
  [fun old v => (old + v) % 2 ^ w,
   fun old v => if signed v < signed old then v else old,
   fun old v => if signed old < signed v then v else old,
   fun old v => old &&& v,
   fun old v => old ||| v,
   fun old v => old ^^^ v,
   fun _ v => v]

/-! ## Counters -/

/-- A reference names near counter p of the core of the acting hart, which may use it (R237, R240). -/
def NearRef (s : State) (r : Word) (p : Nat) : Prop :=
  ∃ k, refOf s r = .near k ∧ s.h.nearIdx k = p ∧ nearOk s s.h p = true

/-- A reference names a slot of this part that the acting hart may use and whose value is held in the counter cache. -/
def SlotRef (s : State) (r : Word) (t n : Nat) (v : Word) : Prop :=
  refOf s r = .slot t n ∧ groupOk s t n s.h.priv s.h.asid.toNat = true ∧
    ∃ m, SMap.get none s.cc (slotKey t n) = some ⟨v, m⟩

/-- The state after a use of a slot has been noted in its counter cache (R238). -/
def slotUsed (s : State) (t n : Nat) : State := (slotRead s (slotKey t n)).2

end Sys2Proof.Machine
end

