-- ==== Sys2Proof/Certificates/Slice0/Obligations.lean ====
section
/-! DEFINITION. Certificates/Slice0/Obligations.lean: the statements about the machine. Each says which rules of the spec it
rests on; where it rests on a choice of the model, it names the entry of the assumption log. -/

open Sys2Proof Sys2Proof.Machine

/-! ## Encoding (R325 to R334) -/

/-- The worked encodings of R334: each listed word decodes to the instruction it is listed for. -/
def Obligations.DecodeWorkedWords : Prop :=
  decode 0x100C1080#32 = .ok (.add 3 1 2) ∧ decode 0x361C4010#32 = .ok (.ldD 7 4 0x010) ∧
  decode 0x361C4FF8#32 = .ok (.ldD 7 4 0xFF8) ∧ decode 0x2D145003#32 = .ok (.slli 5 5 3) ∧
  decode 0x2F271234#32 = .ok (.lih 9 3 0x1234) ∧ decode 0x05042FFA#32 = .ok (.brcLt 1 2 0xFFA) ∧
  decode 0x49000004#32 = .ok (.fenceSv 2) ∧ decode 0x511C0129#32 = .ok (.vadd 3 32 2 2 4 1)

/-- Decode and encode agree: every well-formed instruction that has a word is read back from its word, with every
operand at every value that the encoding admits. -/
def Obligations.DecodeOfEncode : Prop :=
  ∀ i : Instr, i.isWord = true → i.wellFormed = true → decode (encode i) = .ok i

/-- Nothing else decodes: a word that the decoder accepts is the word of the instruction it gives, which is well-formed.
So every must-be-zero field, reserved value and unassigned opcode is refused. -/
def Obligations.DecodeIsExact : Prop :=
  ∀ (w : BitVec 32) (i : Instr), decode w = .ok i → i.wellFormed = true ∧ i.isWord = true ∧ encode i = w

/-! ## Steps (R117, R256, R334) -/

/-- A step runs the decoded instruction. With no event and no read of a host due, and with the turn of one stream the
only move open, a word that decodes to i makes the step that of exec i at that stream; around it the model settles the
stream after its turn (R117, R129, R256), notes the turn in the survey buffer (R313) and lets the cycle pass. The same
turn is made where other moves are open and it is the one chosen, by a free value or, at every 64th choice, as the one
that has stood open longest (log 150); and an X-stream instruction that reads a scalar register which an instruction
still to be admitted will write does not execute, and its stream waits (R127). The stream takes its turn unless a recorded store fault or the seventeenth instruction past
an unresolved store comes first (R256). A step takes an event that is due and makes it: the next one, where no other
goes before it, with the rest of the list still due; a counter wake is noted in the survey buffer (R313); of two lease
commands host A’s comes first (R52), and of two operations on counters that of the source named first in R243. A read of
CFGWIN that a host has asked for comes after the events, but for a read of a counter, which goes before a counter operation that R243 puts after its host’s. The model’s own choices in it are those of log entries 8, 9,
150 and 169. -/
def Obligations.StepRunsDecoded : Prop :=
  (∀ (s : State) (id : HartId) (onX : Bool) (w : BitVec 32) (i : Instr),
     s.agenda = [] → s.hostReads = [] → choices s = [.issue id onX] →
     let s1 := s.at id onX
     s1.word? = some w → decode w = .ok i →
     (onX = true ∨ (s1.h.sfrq = [] ∧ ∀ st ∈ s1.h.stores, st.past < 16)) →
     needsOwed s1 i = false →
     step s = mapOut tick (mapOut (noteIssue s1) (mapOut (endTurn s1) (exec i s1)))) ∧
  (∀ (s : State) (id : HartId) (onX : Bool) (w : BitVec 32) (i : Instr),
     let s1 := s.at id onX
     s1.word? = some w → decode w = .ok i →
     (onX = true ∨ (s1.h.sfrq = [] ∧ ∀ st ∈ s1.h.stores, st.past < 16)) →
     (needsOwed s1 i = false →
       (Act.issue id onX).run s = mapOut (noteIssue s1) (mapOut (endTurn s1) (exec i s1))) ∧
     (needsOwed s1 i = true → (Act.issue id onX).run s = .next (noteIssue s1 (endTurn s1 s1)))) ∧
  (∀ (s : State) (a b : Act) (as : List Act), s.agenda = [] → s.hostReads = [] → dueActs s = [] → openActs s = a :: b :: as →
     let line := queueUp s.line (a :: b :: as)
     let n := if 63 ≤ s.turns then 0 else Config.freeNat s.draws % line.length
     ∀ c, listAt line n = some c → step s = mapOut tick (c.run { s with
       draws := s.draws + 1, turns := if 63 ≤ s.turns then 0 else s.turns + 1, line := line.filter (· != c) })) ∧
  (∀ (s : State) (e : Instr) (es : List Instr), s.agenda = e :: es → (∀ j ∈ es, goesBefore j e = false) →
     readFirst s e = false → step s = mapOut (noteWake e) (exec e { s with agenda := es })) ∧
  (∀ (s : State) (a b : Instr) (es : List Instr), s.agenda = b :: a :: es → leaseHost b = some .b → leaseHost a = some .a →
     step s = mapOut (noteWake a) (exec a { s with agenda := b :: es })) ∧
  (∀ (s : State) (a b : Instr) (es : List Instr) (m n : Nat), s.agenda = b :: a :: es → counterRank b = some m →
     counterRank a = some n → n < m → eventSource a ≠ eventSource b → (∀ j ∈ es, goesBefore j a = false) →
     readFirst s a = false → step s = mapOut (noteWake a) (exec a { s with agenda := b :: es })) ∧
  (∀ (s : State) (r : HostId × Nat × Nat) (rs : List (HostId × Nat × Nat)), s.hostReads = r :: rs →
     s.agenda = [] ∨ (∃ (e : Instr) (es : List Instr), s.agenda = e :: es ∧ (∀ j ∈ es, goesBefore j e = false) ∧
       readFirst s e = true) →
     step s = .next (hostReadOp { s with hostReads := rs } r.1 r.2.1 r.2.2))

/-- R334, order 1: a word with one of the 80 unassigned opcodes (the word 0 among them), or with opcode 0xFE or 0xFF, is
no instruction, and it raises ILLEGAL_OP in either stream. The same for a word that decodes to no instruction: the step
makes the event that gives the word its fate (R334). A word that is no instruction meets its fate (R334): ILLEGAL_OP for
order 1, then ILLEGAL_STREAM for a word that its stream may not fetch, then ILLEGAL_OP for its fields; tval is the word.
The cause is taken where no older X-stream instruction waits for admission. Completes: ILLEGAL_OP. -/
def Obligations.RefusedWordsTrap : Prop :=
  (∀ w : BitVec 32, let op := w.toNat / 2 ^ 24
     op = 0 ∨ (0x72 ≤ op ∧ op ≤ 0x8F) ∨ (0x9B ≤ op ∧ op ≤ 0x9F) ∨ (0xA7 ≤ op ∧ op ≤ 0xAF) ∨ (0xB5 ≤ op ∧ op ≤ 0xBF) ∨
       (0xD6 ≤ op ∧ op ≤ 0xDF) ∨ 0xF0 ≤ op →
     (∀ i, decode w ≠ .ok i) ∧ ∀ s : State, s.onX = false ∨ s.h.unadmitted = false →
       exec (.illegalOp w) s = .next (takeTrap s ⟨s.onX, causeILLEGAL_OP, 0, 0, w.setWidth 64⟩)) ∧
  (∀ (s : State) (id : HartId) (onX : Bool) (w : BitVec 32) (r : Reject),
     s.agenda = [] → s.hostReads = [] → choices s = [.issue id onX] →
     let s1 := s.at id onX
     s1.word? = some w → decode w = .error r →
     (onX = true ∨ (s1.h.sfrq = [] ∧ ∀ st ∈ s1.h.stores, st.past < 16)) →
     step s = mapOut tick (mapOut (noteIssue s1) (mapOut (endTurn s1) (exec (.illegalOp w) s1)))) ∧
  (∀ (s : State) (w : BitVec 32), s.onX = false ∨ s.h.unadmitted = false →
     exec (.illegalOp w) s = .next (takeTrap s ⟨s.onX,
       if opAssigned (opOf w) = true ∧ (if s.onX then allowedX w else allowedA w) = false then causeILLEGAL_STREAM
       else causeILLEGAL_OP, 0, 0, w.setWidth 64⟩))

/-- Every step keeps memory and the lines' tags in their canonical form. The model’s own choices in it are those of log
entries 2 and 3. -/
def Obligations.StepKeepsMemoryCanonical : Prop :=
  ∀ s t : State, s.canon → step s = .next t → t.canon

/-! ## Reset and registers (R74, R88, R319) -/

/-- What a cold reset leaves, where the spec gives the value: PHASE 0, no active host, LEASECFG 1,000, PWRCAP 32, RQENT
64, EPOCH 0 and not PRESERVED, every HBM4E line with the tag UNINIT and a check field under key 0, every launch-table
entry FREE, every tenant with QUANTUM 1 and tenant 0 alone enabled, with CEIL 15, no leave held, no link up, no task on
any hart. Memory and tags right after a cold reset are canonical. What a dispatched hart slot holds before the launch's own values (R88, R191,
R192, R200, R258, R262, R322, R418): scalar registers 0, vl 0 and vfmt 0x08 in both streams, vector registers FP32 and
UNINIT with scales 127, masks m1 to m7 zero and m0 all ones, tiles UNINIT, empty queues, the default promotion table,
xrm 0 with LFSR 1, no flags, no trap in progress. The model’s own choices in it are those of log entries 1, 2 and 3. -/
def Obligations.ResetValues : Prop :=
  (State.reset.cfg.phase = 0 ∧ State.reset.cfg.active = 0 ∧ State.reset.cfg.period = 1000 ∧ State.reset.cfg.pwrcap = 32 ∧
   State.reset.cfg.rqent = 64 ∧ State.reset.cfg.epoch = 0 ∧ State.reset.cfg.preserved = false ∧ State.reset.cfg.cont = false ∧
   (∀ pa, sideOf State.reset pa = Side.reset) ∧ tagVc resetTag = .uninit ∧ (∀ l, (State.reset.entry l).state = .free) ∧
   (∀ t, (State.reset.governor t).held = []) ∧ (∀ h ∈ State.reset.harts, h.launch = none ∧ h.id.core = 64) ∧
   (∀ l, (SMap.get ZLink.reset State.reset.cfg.zlink l).up = false) ∧
   (∀ t, tenQuantum (State.reset.tenant t) = 1 ∧ tenEn (State.reset.tenant t) = decide (t = 0) ∧
     tenCeil (State.reset.tenant t) = if t = 0 then 15 else 0)) ∧
  (State.reset.canon) ∧
  (∀ (id : HartId) (joined : Bool), let h := Hart.blank id joined
     (∀ n, h.a.reg n = 0 ∧ h.x.reg n = 0) ∧ h.a.vl = 0 ∧ h.x.vl = 0 ∧ h.a.vfmt = 0x08#5 ∧ h.x.vfmt = 0x08#5 ∧
     (∀ n, h.vreg n = ⟨0, 0x08#5, .uninit, 0, []⟩) ∧ (∀ n, n ≠ 0 → h.mask n = 0) ∧ h.mask 0 = maskOnes joined ∧
     (∀ n, (h.tile n).vc = .uninit) ∧ (∀ q, (h.queue q).entries = [] ∧ (h.queue q).head = 0) ∧ h.qx.entries = [] ∧
     h.qa.entries = [] ∧ h.pt = defaultPt ∧ h.rm = 0 ∧ h.lfsr = 1 ∧ h.xflags = 0 ∧ h.xtrapen = 0 ∧ h.tvec = 0 ∧
     h.th = false ∧ h.sfrq = [] ∧ h.mkW = 0 ∧ h.strip = BitVec.allOnes 64)

/-- A write of n bytes in canonical memory is read back byte by byte, little-endian (R4), changes no byte outside the n
written, and leaves memory canonical. The scalar register file (R319): x0 reads as zero and discards writes; in a
canonical table a written register reads as the value and every other as before, and the table stays canonical. The
model’s own choices in it are those of log entry 2. -/
def Obligations.ReadAfterWrite : Prop :=
  (∀ (m : List Host.Cell) (pa v n : Nat), Memory.wf m →
     Memory.wf (writeMem m pa v n) ∧ readMem (writeMem m pa v n) pa n = v % 256 ^ n ∧
     (∀ a, a < pa ∨ pa + n ≤ a → SMap.get 0#8 (writeMem m pa v n) a = SMap.get 0#8 m a) ∧
     ∀ i, i < n → SMap.get 0#8 (writeMem m pa v n) (pa + i) = BitVec.ofNat 8 (v / 256 ^ i)) ∧
  (∀ (t : Stream) (d n : Nat) (v : Word), t.reg 0 = 0 ∧ t.setReg 0 v = t ∧
     (SMap.wf 0 t.regs = true → SMap.wf 0 (t.setReg d v).regs = true ∧
       (t.setReg d v).reg n = if n = d ∧ d ≠ 0 then v else t.reg n))

/-! ## The loop engine and control (R117, R346 to R355) -/

/-- In a block with one stage every word executes in turn: past word w the stream stands at word w + 1 while there is
one; past the last word the next trip begins at word 0 while trips remain; and past the last trip the stream stands
before the header that follows the block (R112, R117). -/
def Obligations.OneStageSequence : Prop :=
  ∀ (t : Stream) (w : Nat), t.blk.stages = 1 → t.blk.bounds = [] → t.k + t.trip < t.last → t.last = t.n → w < t.blk.body.length →
    ∀ stopping : Bool, let u := t.past stopping w
      (w + 1 < t.blk.body.length → u.pos = .word (w + 1) ∧ u.trip = t.trip ∧ u.k = t.k ∧ u.last = t.last) ∧
      (w + 1 = t.blk.body.length → t.k + t.trip + 1 < t.last → u.pos = .word 0 ∧ u.trip = t.trip + 1 ∧ u.k = t.k) ∧
      (w + 1 = t.blk.body.length → t.k + t.trip + 1 = t.last → u.pos = .enter t.blk.next (t.blk.wordAddr w) none)

/-- NOP moves the stream on and does nothing else; STEP does the same where no withdrawal request has reached the task,
the launch has STRIPS 0, or a trap is in progress (R352, R354). SDRAIN and the fences complete where every earlier
access is performed or resolved, and change nothing; FENCE.all also makes the loop buffers read their blocks afresh
(R233, R347, R382, R383). TAGR reads the whole tag of the line at its address, whatever its class: it is never POISONED
(R370). PREF changes no byte, no register and no tag, and is dropped where it would fault (R372). Completes: NOP, STEP,
TAGR, PREF, FENCE_SV, FENCE_VS, FENCE_VV, FENCE_ALL, SDRAIN. -/
def Obligations.SimpleInstructionsRun : Prop :=
  ((∀ (s : State) (w : Nat), AtWord s w → ∃ t, exec .nop s = .next t ∧ Ran s t w) ∧
   (∀ (s : State) (w : Nat), s.onX = false → AtWord s w → (s.h.wdraw = false ∨ s.strips = 0 ∨ s.h.th = true) →
     ∃ t, exec .step s = .next t ∧ Ran s t w)) ∧
  (∀ (s : State) (w : Nat) (c : BitVec 3), ReadyA s w →
     (∃ t, exec .sdrain s = .next t ∧ Ran s t w) ∧ (∃ t, exec (.fenceSv c) s = .next t ∧ Ran s t w) ∧
     (∃ t, exec (.fenceVs c) s = .next t ∧ Ran s t w) ∧ (∃ t, exec (.fenceVv c) s = .next t ∧ Ran s t w) ∧
     ∃ t, exec (.fenceAll c) s = .next t ∧
       Ran { s with h := { s.h with a := { s.h.a with filled := false }, x := { s.h.x with filled := false } } } t w) ∧
  ((∀ (s : State) (w : Nat) (d a : BitVec 6) (i : BitVec 12) (x : Xlat), ReadyA s w →
     Hits s (s.reg a.toNat + i.signExtend 64) .read x → Held s x.pa →
     ∃ t, exec (.tagr d a i) s = .next t ∧ Wrote { s with dir := t.dir } t w d ((sideOf s x.pa).tag.setWidth 64)) ∧
   (∀ (s : State) (w : Nat) (a : BitVec 6) (i : BitVec 12) (x : Xlat), s.onX = false → s.h.a.pos = .word w →
     Hits s (s.reg a.toNat + i.signExtend 64) .read x → Held s x.pa →
     ∃ t, exec (.pref a i) s = .next t ∧ Ran { s with dir := t.dir } t w) ∧
   ∀ (s s1 : State) (w : Nat) (a : BitVec 6) (i : BitVec 12) (e : Err), s.onX = false → s.h.a.pos = .word w →
     s.reachH (s.reg a.toNat + i.signExtend 64) .read = (.error e, s1) → AtWord s1 w →
     ∃ t, exec (.pref a i) s = .next t ∧ Ran s1 t w)

/-- A taken transfer: BR, BRR, and each BRC whose condition holds end the block and send the stream to the target's
header; the target of BR and BRC is the word's address plus four times its sign-extended offset. A BRC that is not taken
has no effect, and the block continues (R348). CALL and CALLR transfer like BR and BRR and write the link: the header of
the block that follows, h + 4 (1 + L) where the block has no stage map (R349). The target of CALLR is read before the
link is written, and with D = 0 nothing is written. A transfer to an address that is not a multiple of 4 raises
BAD_TARGET at the branch, with the address in tval, and writes no link (R346, R348, R349). Completes: BR, BRC_EQ,
BRC_NE, BRC_LT, BRC_GE, BRC_LTU, BRC_GEU, BRR, CALL, CALLR. -/
def Obligations.BranchesAndCalls : Prop :=
  (∀ (s s1 : State) (tgt : Word), Reaches s tgt s1 →
     (∀ i, s.cur.pc + 4 * i.signExtend 64 = tgt → ∃ t, exec (.br i) s = .next t ∧ Sent s1 t tgt none) ∧
     (∀ a, s.reg a.toNat = tgt → ∃ t, exec (.brr a) s = .next t ∧ Sent s1 t tgt none) ∧
     (∀ a b o, s.cur.pc + 4 * o.signExtend 64 = tgt → s.reg a.toNat = s.reg b.toNat →
       ∃ t, exec (.brcEq a b o) s = .next t ∧ Sent s1 t tgt none) ∧
     (∀ a b o, s.cur.pc + 4 * o.signExtend 64 = tgt → s.reg a.toNat ≠ s.reg b.toNat →
       ∃ t, exec (.brcNe a b o) s = .next t ∧ Sent s1 t tgt none) ∧
     (∀ a b o, s.cur.pc + 4 * o.signExtend 64 = tgt → (s.reg a.toNat).toInt < (s.reg b.toNat).toInt →
       ∃ t, exec (.brcLt a b o) s = .next t ∧ Sent s1 t tgt none) ∧
     (∀ a b o, s.cur.pc + 4 * o.signExtend 64 = tgt → (s.reg b.toNat).toInt ≤ (s.reg a.toNat).toInt →
       ∃ t, exec (.brcGe a b o) s = .next t ∧ Sent s1 t tgt none) ∧
     (∀ a b o, s.cur.pc + 4 * o.signExtend 64 = tgt → (s.reg a.toNat).toNat < (s.reg b.toNat).toNat →
       ∃ t, exec (.brcLtu a b o) s = .next t ∧ Sent s1 t tgt none) ∧
     (∀ a b o, s.cur.pc + 4 * o.signExtend 64 = tgt → (s.reg b.toNat).toNat ≤ (s.reg a.toNat).toNat →
       ∃ t, exec (.brcGeu a b o) s = .next t ∧ Sent s1 t tgt none)) ∧
  (∀ (s : State) (w : Nat) (a b : BitVec 6) (o : BitVec 12), AtWord s w →
     let x := s.reg a.toNat
     let y := s.reg b.toNat
     (x ≠ y → ∃ t, exec (.brcEq a b o) s = .next t ∧ Ran s t w) ∧
     (x = y → ∃ t, exec (.brcNe a b o) s = .next t ∧ Ran s t w) ∧
     (y.toInt ≤ x.toInt → ∃ t, exec (.brcLt a b o) s = .next t ∧ Ran s t w) ∧
     (x.toInt < y.toInt → ∃ t, exec (.brcGe a b o) s = .next t ∧ Ran s t w) ∧
     (y.toNat ≤ x.toNat → ∃ t, exec (.brcLtu a b o) s = .next t ∧ Ran s t w) ∧
     (x.toNat < y.toNat → ∃ t, exec (.brcGeu a b o) s = .next t ∧ Ran s t w)) ∧
  (∀ (s s1 : State) (tgt : Word) (d : BitVec 6), Reaches s tgt s1 → s.canWrite = true → s.cur.blk.stages = 1 →
     s1.cur.blk = s.cur.blk →
     let link := s.cur.blk.hdr + BitVec.ofNat 64 (4 * (1 + s.cur.blk.body.length))
     (∀ i, s.cur.pc + 4 * i.signExtend 64 = tgt → ∃ t, exec (.call d i) s = .next t ∧ Sent s1 t tgt (some (d, link))) ∧
     (∀ a, s.reg a.toNat = tgt → ∃ t, exec (.callr d a) s = .next t ∧ Sent s1 t tgt (some (d, link)))) ∧
  (∀ (s : State) (i : BitVec 18) (d a : BitVec 6), s.onX = false ∨ s.h.unadmitted = false → s.canWrite = true →
     (let tgt := s.cur.pc + 4 * i.signExtend 64
      tgt.toNat % 4 ≠ 0 → exec (.br i) s = .next (takeTrap s ⟨s.onX, causeBAD_TARGET, 0, 0, tgt⟩) ∧
        exec (.call d i) s = .next (takeTrap s ⟨s.onX, causeBAD_TARGET, 0, 0, tgt⟩)) ∧
     ((s.reg a.toNat).toNat % 4 ≠ 0 →
       exec (.brr a) s = .next (takeTrap s ⟨s.onX, causeBAD_TARGET, 0, 0, s.reg a.toNat⟩) ∧
       exec (.callr d a) s = .next (takeTrap s ⟨s.onX, causeBAD_TARGET, 0, 0, s.reg a.toNat⟩)))

/-- BRK raises the cause BRK with its immediate in tval and the program counter past it (R351). BKPT (R316, R317, R450)
does nothing at the first word after a THAW; else, in a launch that the debug unit is attached to, it freezes the launch
with its cause, and elsewhere it raises BKPT. Completes: BRK, BKPT. The model’s own choices in it are those of log entries 93
and 94. -/
def Obligations.BreakInstructions : Prop :=
  (∀ (s : State) (w : Nat) (i : BitVec 18), AtWord s w → s.h.stores = [] → (s.onX = true → s.h.unadmitted = false) →
     ∃ t, Ran s t w ∧ exec (.brk i) s = .next (takeTrap t ⟨s.onX, causeBRK, 0, 0, i.setWidth 64⟩)) ∧
  (∀ (s : State) (w : Nat) (l : Nat), ReadyA s w →
     (s.h.a.stepPast = true → ∃ t, exec .bkpt s = .next t ∧ Ran s t w) ∧
     (s.h.a.stepPast = false → (s.h.launch = none ∨ s.h.launch = some l ∧ attached s l = false) →
       exec .bkpt s = .next (takeTrap s ⟨false, causeBKPT, 0, 0, 0⟩)) ∧
     (s.h.launch = some l → attached s l = true → s.h.a.stepPast = false → (s.entry l).frozen = false →
       exec .bkpt s = .next (breakHit s l s.h.id false (attachEntry s l))))

/-- EXIT of the X-stream, every older instruction admitted, leaves it IDLE with its scalar registers, vl and vfmt, and
releases a held leave of the compute pool; mk.W stays (R353, R422). EXIT of the A-stream with nothing in flight, no
engine command of its task outstanding, and the X-stream IDLE or a trap in progress ends the task (R86, R353): a
launched task's hart gives up its slot, and a hart without a launch is idle. XSTART with the X-stream IDLE hands it the
target and completes: the X-stream runs at the block's header with its scalar registers, vl and vfmt as it left them; in
a handler it raises ILLEGAL_STREAM (R355). Completes: EXIT, XSTART. The model’s own choices in it are those of log entry
64. -/
def Obligations.StartAndExit : Prop :=
  (∀ s : State, s.onX = true → s.h.unadmitted = false → ∃ t, exec .exit s = .next t ∧
     t.h.x.st = .idle ∧ t.h.x.regs = s.h.x.regs ∧ t.h.x.vl = s.h.x.vl ∧ t.h.x.vfmt = s.h.x.vfmt ∧ t.h.mkW = s.h.mkW ∧
     t.h.mkLV = false ∧ t.gov = SMap.upd Gov.reset s.gov s.h.id.tower (fun g =>
       { g with held := g.held.filter fun l => !(l.who == .inl s.h.id && !l.mem) }) ∧
     t.h.a = s.h.a ∧ t.rest = s.rest ∧ t.mem = s.mem ∧ t.entries = s.entries) ∧
  (∀ (s : State) (w : Nat), ReadyA s w → s.engineBusy = false → (s.h.x.st = .idle ∨ s.h.th = true) →
     ∃ t, exec .exit s = .next t ∧
       (s.h.launch = none → t.h.a.st = .idle ∧ t.rest = s.rest ∧ t.entries = s.entries ∧ t.mem = s.mem) ∧
       (s.h.launch ≠ none → s.rest ≠ [] → s.h.id ∉ s.rest.map (fun h => h.id) → ∀ h ∈ t.harts, h.id ≠ s.h.id)) ∧
  ((∀ (s : State) (w : Nat) (i : BitVec 18), ReadyA s w → s.h.th = false → s.h.x.st = .idle →
     ∃ t, exec (.xstart i) s = .next t ∧ t.h.x.st = .run ∧
       (∃ via, t.h.x.pos = .enter (s.cur.pc + 4 * i.signExtend 64) via none) ∧ t.h.x.regs = s.h.x.regs ∧ t.h.x.vl = s.h.x.vl ∧
       t.h.x.vfmt = s.h.x.vfmt ∧ Ran { s with h := { s.h with x := t.h.x } } t w) ∧
   (∀ (s : State) (i : BitVec 18), s.onX = false → s.h.th = true →
     exec (.xstart i) s = .next (takeTrap s ⟨false, causeILLEGAL_STREAM, 0, 0, (encode (.xstart i)).setWidth 64⟩)))

/-! ## Scalar integer instructions (R356 to R360) -/

/-- The register-register operations of R356 Table 3 that are not divisions, with a = X(A) and b = X(B) read before X(D)
is written: results modulo 2^64, shifts by b[5:0], signed and unsigned comparisons. SEL, ADDSH and the bit counts
(R358): the count of zeros above the highest one bit, below the lowest one bit, and the count of one bits; CLZ and CTZ
of 0 are 64. F is zero in the register forms but SEL, BITC and ADDSH (R356): a word of one of their opcodes with another
F is no instruction, and it raises ILLEGAL_OP. Completes: ADD, SUB, MUL, MULH, MULHU, AND, OR, XOR, ANDN, SLL, SRL, SRA,
MIN, MAX, MINU, MAXU, SLT, SLTU, SEQ, SEL, CLZ, CTZ, POPC, ADDSH. -/
def Obligations.ScalarRegisterForms : Prop :=
  (∀ d a b : BitVec 6,
     Gives (.add d a b) d (fun s => BitVec.ofNat 64 ((s.reg a.toNat).toNat + (s.reg b.toNat).toNat)) ∧
     Gives (.sub d a b) d (fun s => BitVec.ofInt 64 ((s.reg a.toNat).toNat - (s.reg b.toNat).toNat)) ∧
     Gives (.mul d a b) d (fun s => BitVec.ofNat 64 ((s.reg a.toNat).toNat * (s.reg b.toNat).toNat)) ∧
     Gives (.mulh d a b) d (fun s => BitVec.ofInt 64 ((s.reg a.toNat).toInt * (s.reg b.toNat).toInt / 2 ^ 64)) ∧
     Gives (.mulhu d a b) d (fun s => BitVec.ofNat 64 ((s.reg a.toNat).toNat * (s.reg b.toNat).toNat / 2 ^ 64)) ∧
     Gives (.and d a b) d (fun s => s.reg a.toNat &&& s.reg b.toNat) ∧
     Gives (.or d a b) d (fun s => s.reg a.toNat ||| s.reg b.toNat) ∧
     Gives (.xor d a b) d (fun s => s.reg a.toNat ^^^ s.reg b.toNat) ∧
     Gives (.andn d a b) d (fun s => s.reg a.toNat &&& ~~~(s.reg b.toNat)) ∧
     Gives (.sll d a b) d (fun s => BitVec.ofNat 64 ((s.reg a.toNat).toNat * 2 ^ ((s.reg b.toNat).toNat % 64))) ∧
     Gives (.srl d a b) d (fun s => BitVec.ofNat 64 ((s.reg a.toNat).toNat / 2 ^ ((s.reg b.toNat).toNat % 64))) ∧
     Gives (.sra d a b) d (fun s => BitVec.ofInt 64 ((s.reg a.toNat).toInt / 2 ^ ((s.reg b.toNat).toNat % 64))) ∧
     Gives (.min d a b) d (fun s => BitVec.ofInt 64 (Min.min (s.reg a.toNat).toInt (s.reg b.toNat).toInt)) ∧
     Gives (.max d a b) d (fun s => BitVec.ofInt 64 (Max.max (s.reg a.toNat).toInt (s.reg b.toNat).toInt)) ∧
     Gives (.minu d a b) d (fun s => BitVec.ofNat 64 (Min.min (s.reg a.toNat).toNat (s.reg b.toNat).toNat)) ∧
     Gives (.maxu d a b) d (fun s => BitVec.ofNat 64 (Max.max (s.reg a.toNat).toNat (s.reg b.toNat).toNat)) ∧
     Gives (.slt d a b) d (fun s => if (s.reg a.toNat).toInt < (s.reg b.toNat).toInt then 1 else 0) ∧
     Gives (.sltu d a b) d (fun s => if (s.reg a.toNat).toNat < (s.reg b.toNat).toNat then 1 else 0) ∧
     Gives (.seq d a b) d (fun s => if s.reg a.toNat = s.reg b.toNat then 1 else 0)) ∧
  ((∀ d a b f, Gives (.sel d a b f) d (fun s => if s.reg f.toNat = 0 then s.reg b.toNat else s.reg a.toNat)) ∧
   (∀ d a b sh, Gives (.addsh d a b sh) d (fun s =>
     BitVec.ofNat 64 ((s.reg a.toNat).toNat + (s.reg b.toNat).toNat * 2 ^ sh.toNat))) ∧
   ∀ (d a : BitVec 6) (s : State) (w : Nat), AtWord s w → s.canWrite = true → ∃ z l p : Nat,
     (∃ t, exec (.clz d a) s = .next t ∧ Wrote s t w d (BitVec.ofNat 64 z)) ∧
     (∃ t, exec (.ctz d a) s = .next t ∧ Wrote s t w d (BitVec.ofNat 64 l)) ∧
     (∃ t, exec (.popc d a) s = .next t ∧ Wrote s t w d (BitVec.ofNat 64 p)) ∧
     (∀ i, 64 - z ≤ i → i < 64 → (s.reg a.toNat).getLsbD i = false) ∧ z ≤ 64 ∧
     (z < 64 → (s.reg a.toNat).getLsbD (63 - z) = true) ∧
     (∀ i, i < l → (s.reg a.toNat).getLsbD i = false) ∧ l ≤ 64 ∧ (l < 64 → (s.reg a.toNat).getLsbD l = true) ∧
     p = ((List.range 64).filter fun i => (s.reg a.toNat).getLsbD i).length) ∧
  (∀ (s : State) (w : BitVec 32), 0x10 ≤ w.toNat / 2 ^ 24 → w.toNat / 2 ^ 24 ≤ 0x26 → w.toNat % 64 ≠ 0 →
     (∀ i, decode w ≠ .ok i) ∧ (s.onX = false ∨ s.h.unadmitted = false →
       exec (.illegalOp w) s = .next (takeTrap s ⟨s.onX, causeILLEGAL_OP, 0, 0, w.setWidth 64⟩)))

/-- Division (R357): quotient towards zero and remainder with the sign of a; for a zero divisor an all-ones quotient and
the dividend as remainder. Neither that nor the overflow of −2^63 by −1 raises a cause. Completes: DIV, DIVU, REM, REMU.
-/
def Obligations.ScalarDivision : Prop :=
  ∀ d a b : BitVec 6,
    Gives (.div d a b) d (fun s => if s.reg b.toNat = 0 then BitVec.allOnes 64
      else BitVec.ofInt 64 ((s.reg a.toNat).toInt.tdiv (s.reg b.toNat).toInt)) ∧
    Gives (.divu d a b) d (fun s => if s.reg b.toNat = 0 then BitVec.allOnes 64
      else BitVec.ofNat 64 ((s.reg a.toNat).toNat / (s.reg b.toNat).toNat)) ∧
    Gives (.rem d a b) d (fun s => if s.reg b.toNat = 0 then s.reg a.toNat
      else BitVec.ofInt 64 ((s.reg a.toNat).toInt.tmod (s.reg b.toNat).toInt)) ∧
    Gives (.remu d a b) d (fun s => if s.reg b.toNat = 0 then s.reg a.toNat
      else BitVec.ofNat 64 ((s.reg a.toNat).toNat % (s.reg b.toNat).toNat))

/-- ADDI, ANDI and ORI combine X(A) with the sign-extended immediate by the operation of ADD, AND or OR; SHI shifts by
its immediate amount, and a word of SHI with the reserved kind 3 or with IMM12[11:8] not zero raises ILLEGAL_OP. LI
writes the sign-extended immediate to X(D); LIH writes h to bits 16p to 16p + 15 of X(D) and keeps the other 48 bits;
with D = 0 both have no effect. Completes: ADDI, ANDI, ORI, SLLI, SRLI, SRAI, LI, LIH. -/
def Obligations.ScalarImmediates : Prop :=
  ((∀ (d a : BitVec 6) (i : BitVec 12),
     Gives (.addi d a i) d (fun s => BitVec.ofNat 64 ((s.reg a.toNat).toNat + (BitVec.ofInt 64 i.toInt).toNat)) ∧
     Gives (.andi d a i) d (fun s => s.reg a.toNat &&& BitVec.ofInt 64 i.toInt) ∧
     Gives (.ori d a i) d (fun s => s.reg a.toNat ||| BitVec.ofInt 64 i.toInt)) ∧
   (∀ d a sh : BitVec 6,
     Gives (.slli d a sh) d (fun s => BitVec.ofNat 64 ((s.reg a.toNat).toNat * 2 ^ sh.toNat)) ∧
     Gives (.srli d a sh) d (fun s => BitVec.ofNat 64 ((s.reg a.toNat).toNat / 2 ^ sh.toNat)) ∧
     Gives (.srai d a sh) d (fun s => BitVec.ofInt 64 ((s.reg a.toNat).toInt / 2 ^ sh.toNat))) ∧
   ∀ (s : State) (w : BitVec 32), w.toNat / 2 ^ 24 = 0x2D → (w.toNat / 2 ^ 6 % 4 = 3 ∨ w.toNat / 2 ^ 8 % 16 ≠ 0) →
     (∀ i, decode w ≠ .ok i) ∧ (s.onX = false ∨ s.h.unadmitted = false →
       exec (.illegalOp w) s = .next (takeTrap s ⟨s.onX, causeILLEGAL_OP, 0, 0, w.setWidth 64⟩))) ∧
  ((∀ (d : BitVec 6) (i : BitVec 18), Gives (.li d i) d (fun _ => BitVec.ofInt 64 i.toInt)) ∧
   (∀ (d : BitVec 6) (p : BitVec 2) (h : BitVec 16) (s : State) (w : Nat), AtWord s w → s.canWrite = true →
     ∃ t v, exec (.lih d p h) s = .next t ∧ Wrote s t w d v ∧ v.extractLsb' (16 * p.toNat) 16 = h ∧
       ∀ q, q < 4 → q ≠ p.toNat → v.extractLsb' (16 * q) 16 = (s.reg d.toNat).extractLsb' (16 * q) 16) ∧
   ∀ (i : BitVec 18) (p : BitVec 2) (h : BitVec 16) (s : State) (w : Nat), AtWord s w → s.canWrite = true →
     (∃ t, exec (.li 0 i) s = .next t ∧ Ran s t w) ∧ ∃ t, exec (.lih 0 p h) s = .next t ∧ Ran s t w)

/-! ## Scalar memory (R256, R366 to R372) -/

/-- The scalar loads (R366): with nothing in flight before them, each width takes its little-endian bytes from the
address X(A) + SignExt(12, IMM12), in one line or across two, and sign- or zero-extends them into X(D). Nothing else
changes but the caches. Completes: LD_B, LD_BU, LD_H, LD_HU, LD_W, LD_WU, LD_D. -/
def Obligations.ScalarLoads : Prop :=
  ∀ (s : State) (w : Nat) (d a : BitVec 6) (i : BitVec 12), ReadyA s w →
    let va := s.reg a.toNat + i.signExtend 64
    (∀ v, LoadsAs s va 1 v →
      (∃ t, exec (.ldB d a i) s = .next t ∧ Wrote { s with dir := t.dir } t w d ((BitVec.ofNat 8 v).signExtend 64)) ∧
      ∃ t, exec (.ldBu d a i) s = .next t ∧ Wrote { s with dir := t.dir } t w d ((BitVec.ofNat 8 v).setWidth 64)) ∧
    (∀ v, LoadsAs s va 2 v →
      (∃ t, exec (.ldH d a i) s = .next t ∧ Wrote { s with dir := t.dir } t w d ((BitVec.ofNat 16 v).signExtend 64)) ∧
      ∃ t, exec (.ldHu d a i) s = .next t ∧ Wrote { s with dir := t.dir } t w d ((BitVec.ofNat 16 v).setWidth 64)) ∧
    (∀ v, LoadsAs s va 4 v →
      (∃ t, exec (.ldW d a i) s = .next t ∧ Wrote { s with dir := t.dir } t w d ((BitVec.ofNat 32 v).signExtend 64)) ∧
      ∃ t, exec (.ldWu d a i) s = .next t ∧ Wrote { s with dir := t.dir } t w d ((BitVec.ofNat 32 v).setWidth 64)) ∧
    ∀ v, LoadsAs s va 8 v → ∃ t, exec (.ldD d a i) s = .next t ∧ Wrote { s with dir := t.dir } t w d (BitVec.ofNat 64 v)

/-- The scalar stores and TAGW issue (R256, R366, R371): with no unconfirmed load before it, fewer than sixteen stores
unresolved, to its lines or to others, and room in the undo log, a store joins the unresolved stores with its TYPE,
its address X(A) + SignExt(12, IMM12) and the low bytes of X(D), and the stream moves on; no byte of memory changes
until it is resolved. TAGW of a tag whose FMT is not defined raises ILLEGAL_FMT with the format in tval and stores
nothing (R371). A store whose address does not translate, or that its page refuses, is recorded with its cause and its
address, and no byte changes: the record takes its place in the store-fault queue, in order of SEQ, and the store leaves
the list (R256, R258, R259). A recorded store fault is delivered before the next instruction of the A-stream: the turn takes the cause STORE instead of
executing the word (R256). Completes: ST_B, ST_H, ST_W, ST_D, TAGW. The model’s own choice of the access kind of
ILLEGAL_FMT is that of log entry 151. -/
def Obligations.ScalarStoresIssue : Prop :=
  (∀ (s : State) (w : Nat) (d a : BitVec 6) (i : BitVec 12), s.onX = false → s.h.a.pos = .word w → s.h.loads = [] →
     s.logFull s.h = false → s.h.stores.length < 16 →
     let va := s.reg a.toNat + i.signExtend 64
     let store := fun (kind data ew : Nat) =>
       (⟨kind, va, s.cur.pc, BitVec.ofNat 64 data, ew, 1, none, none, 0, s.h.storeSeq, s.h.strip, 0, s.h.rm⟩ : PStore)
     let issues := fun (i : Instr) (p : PStore) =>
       ∃ t, exec i s = .next t ∧ Ran { s with h := { s.h with stores := s.h.stores ++ [p], storeSeq := s.h.storeSeq + 1 } } t w
     let v := (s.reg d.toNat).toNat
     issues (.stB d a i) (store 0 (v % 2 ^ 8) 8) ∧ issues (.stH d a i) (store 1 (v % 2 ^ 16) 16) ∧
     issues (.stW d a i) (store 2 (v % 2 ^ 32) 32) ∧ issues (.stD d a i) (store 3 v 64) ∧
     (fmtDefined (v % 32) = true → issues (.tagw d a i) (store 7 v 32))) ∧
  (∀ (s : State) (w : Nat) (d a : BitVec 6) (i : BitVec 12), ReadyA s w →
     fmtDefined ((s.reg d.toNat).toNat % 32) = false →
     exec (.tagw d a i) s =
       .next (takeTrap s ⟨false, causeILLEGAL_FMT, 11, 0, BitVec.ofNat 64 ((s.reg d.toNat).toNat % 32)⟩)) ∧
  (∀ (s : State) (p : PStore) (rest : List PStore) (e : Err) (k : Nat), s.onX = false → s.cfg.cont = false →
     s.h.parking = 0 → s.h.stores = p :: rest → readyStores s = [0] → p.kind = k → k < 4 →
     p.base.toNat % 64 + 2 ^ k ≤ 64 → guarded s p.base = false → s.reachH p.base .write = (.error e, s) →
     ∃ t l m, exec (.storeResolve s.h.id) s = .next t ∧ SameBytes s t ∧ t.h.stores = rest ∧
       s.h.sfrq = l ++ m ∧ t.h.sfrq = l ++ ⟨p, p.base, e.cause, e.level, 1, 1⟩ :: m ∧
       (∀ x ∈ l, x.st.seq < p.seq) ∧ ∀ x ∈ m.head?, ¬ x.st.seq < p.seq) ∧
  (∀ s : State, s.onX = false → s.h.sfrq ≠ [] → issueTurn s = .next (takeTrap s ⟨false, causeSTORE, 0, 0, 0⟩))

/-- The oldest unresolved store of a hart, the only one that may be resolved next, is resolved (R256, R368): a scalar
store of 2^k bytes within one line writes those bytes, little-endian, at the place its address translates to, where no
write guard stands on its page and its line needs no undo record; the line is VALID after; every other byte of memory
reads as before, and the store leaves the list. Completes: STORE_RESOLVE. The model’s own choices in it are those of log
entry 41. -/
def Obligations.StoreResolves : Prop :=
  ∀ (s : State) (p : PStore) (rest : List PStore) (x : Xlat) (k : Nat), s.canon → s.onX = false → s.cfg.cont = false →
    s.h.parking = 0 → s.h.stores = p :: rest → readyStores s = [0] → p.kind = k → k < 4 →
    p.base.toNat % 64 + 2 ^ k ≤ 64 → guarded s p.base = false → Plain s p.base .write x →
    (let rd := readLine s x.pa (pteKEY x.leaf) (pteLFMT x.leaf) s.h.who s.h.noL1
     logIfHome rd.2 (s.h.logWho 0) x p.base rd.1 = rd.2) →
    ∃ t, exec (.storeResolve s.h.id) s = .next t ∧ OnlyBytes s t x.pa (2 ^ k) ∧
      t.seenWord x.pa (2 ^ k) = p.data.toNat % 256 ^ 2 ^ k ∧ tagVc (sideOf t x.pa).tag = .valid ∧
      t.h.stores = rest ∧ t.h.sfrq = s.h.sfrq ∧ t.h.a = s.h.a ∧ t.h.x = s.h.x ∧ t.rest = s.rest

/-- LDL and STL (R369): eight bytes of the hart's scratchpad at an offset within its share, little-endian, in one line
or across two. An UNINIT line reads as zero. STL changes those eight bytes of the scratchpad, and nothing else but the
tags of their lines; an access beyond the share raises LSRANGE with the offset in tval. Completes: LDL, STL. -/
def Obligations.ScratchpadScalars : Prop :=
  ∀ (s : State) (w : Nat) (d a : BitVec 6) (i : BitVec 12), ReadyA s w → s.h.spCanon →
    let off := (s.reg a.toNat + i.signExtend 64).toNat
    (off + 8 ≤ s.h.share →
      ((∀ k, k < 8 → vcBad (tagVc (s.h.spTagAt (off + k))) = false) →
        ∃ t v, exec (.ldl d a i) s = .next t ∧ Wrote s t w d v ∧
          ∀ k, k < 8 → v.extractLsb' (8 * k) 8 = s.h.spSeen (off + k)) ∧
      ∃ t, exec (.stl d a i) s = .next t ∧
        Ran { s with h := { s.h with sp := t.h.sp, spTag := t.h.spTag } } t w ∧ t.h.spCanon ∧
        (∀ k, k < 8 → SMap.get 0#8 t.h.sp (off + k) = (s.reg d.toNat).extractLsb' (8 * k) 8) ∧
        ∀ b, b < off ∨ off + 8 ≤ b → t.h.spSeen b = s.h.spSeen b) ∧
    (s.h.share < off + 8 →
      exec (.ldl d a i) s = .next (takeTrap s ⟨false, causeLSRANGE, 12, 0, s.reg a.toNat + i.signExtend 64⟩) ∧
      exec (.stl d a i) s = .next (takeTrap s ⟨false, causeLSRANGE, 12, 0, s.reg a.toNat + i.signExtend 64⟩))

/-- Every step keeps every hart's scratchpad and its tags in their canonical form. -/
def Obligations.StepKeepsScratchpadsCanonical : Prop :=
  ∀ s t : State, (∀ h ∈ s.harts, h.spCanon) → step s = .next t → ∀ h ∈ t.harts, h.spCanon

/-! ## Vector memory and queues (R122 to R126, R362 to R381) -/

/-- The vector loads without an index issue (R124, R374 to R376): outside a handler, with an aligned address and stride,
a defined format, room in the queue and every element of the access translated and permitted by cached translations, a
VLD or VLDFF reserves the entry at the tail of its queue, pending, joins the loads that are not confirmed, and the
stream moves on. The count is the least of vl, the elements that the hart's register holds, and for an explicit format
the elements of that format (`loadOp`). VLDX issues (R374): it pops the head entry of its index queue, a signed or
unsigned integer register that is not POISON or UNRESTORED, and accesses base plus index times the element size for each
active element. Completes: VLD_UNIT, VLD_STRIDED, VLD_EXPLICIT, VLDX, VLDFF_UNIT, VLDFF_STRIDED. The model’s own choices
in it are those of log entries 45 and 59. -/
def Obligations.VectorLoadsIssue : Prop :=
  (∀ (s : State) (w : Nat) (q : BitVec 3) (a b : BitVec 6) (e : BitVec 3) (f : BitVec 5), ReadyA s w → s.h.th = false →
     s.h.refill = none → (s.h.queue q.toNat).entries.length < 8 → 8 * (s.reg a.toNat).toNat % (4 * 2 ^ e.toNat) = 0 →
     let tail := qTail (s.h.queue q.toNat).head (s.h.queue q.toNat).entries.length
     let issues := fun (i : Instr) (o : LoadOp) =>
       let p := pendingLoad o tail none s.h.a
       let held := reserveEntry q.toNat tail false none (o.poisons s) s.h
       ∀ oks, reachElems .read o.ew (loadEls p) { s with h := held } = (oks, [], { s with h := held }) →
         ∃ t, exec i s = .next t ∧
           Ran { s with h := { held with loads := [{ p with els := withXlats (loadEls p) oks }] } } t w
     let stride := s.reg b.toNat
     issues (.vldUnit q a e) (loadOp (.vldUnit q a e) q a 0 e .unit false s) ∧
     (8 * stride.toNat % (4 * 2 ^ e.toNat) = 0 →
       issues (.vldStrided q a b e) (loadOp (.vldStrided q a b e) q a stride e .strided false s)) ∧
     (fmtDefined f.toNat = true →
       issues (.vldExplicit q a f e) (loadOp (.vldExplicit q a f e) q a 0 e (.explicit f) false s)) ∧
     issues (.vldffUnit q a e) (loadOp (.vldffUnit q a e) q a 0 e .unit true s) ∧
     issues (.vldffStrided q a b e) (loadOp (.vldffStrided q a b e) q a stride e .strided true s)) ∧
  (∀ (s : State) (w : Nat) (q : BitVec 3) (a : BitVec 6) (x : BitVec 1) (e m : BitVec 3) (idx : VReg), ReadyA s w →
     s.h.th = false → s.h.refill = none → (s.h.queue q.toNat).entries.length < 8 →
     headEntry s.h (6 + x.toNat) = some idx → indexCause idx = none → 8 * (s.reg a.toNat).toNat % (4 * 2 ^ e.toNat) = 0 →
     let o : LoadOp := { gatherOp q a x e m s with n := Nat.min (gatherOp q a x e m s).n (regCount s.h idx) }
     let tail := qTail (s.h.queue q.toNat).head (s.h.queue q.toNat).entries.length
     let p := pendingLoad o tail (some idx) s.h.a
     let held := reserveEntry q.toNat tail false (some idx) s.h.a.vfmt (popEntry (6 + x.toNat) s.h)
     ∀ oks, reachElems .read o.ew (loadEls p) { s with h := held } = (oks, [], { s with h := held }) →
       ∃ t, exec (.vldx q a x e m) s = .next t ∧
         Ran { s with h := { held with loads := [{ p with els := withXlats (loadEls p) oks }] } } t w)

/-- The lines of vector loads arrive (R124, R254, R365): the oldest unconfirmed load, once its lines are there and its
tag checks pass, leaves the list; one that fails takes its cause with the A-stream back at it, its registers as they
were when it issued, every younger load given back, and its entry reserved for it. What arrives (R123, R124, R374): a
load of a format without scales, whose lines are VALID in that format or UNINIT, not all of them UNINIT, fills its entry
with a VALID register of that format; element i of it is what memory holds at the place of element i, zero in an UNINIT
line, and zero where the load has no element i. What retires and what is looked at
(R126, R128): the oldest X-stream instruction, once admitted, retires and commits its queue effects; one whose operands
are there is admitted; and where the part serves, a selection pass runs (R91). Completes: X_ADMISSION,
VECTOR_LOAD_ARRIVAL, SELECTION_PASS, X_RETIREMENT. The model’s own choices in it are those of log entry 8. -/
def Obligations.LoadsArriveAndRetire : Prop :=
  (∀ (s : State) (p : PLoad) (rest : List PLoad), s.h.loads = p :: rest → (∀ y ∈ p :: rest, y.got = none) →
     (∀ s1, arriveAt s 0 false = (none, s1) → s1.h.loads = rest ∧ s1.h.a.regs = s.h.a.regs ∧ s1.h.a.pos = s.h.a.pos) ∧
     (∀ c s1, arriveAt s 0 false = (some c, s1) → s1.h.loads = [] ∧ s1.h.a.regs = p.regs ∧ s1.h.a.pos = .word p.w ∧
       s1.h.refill = some (p.queue, p.seq, p.index)) ∧
     (s.cfg.cont = false → s.h.parking = 0 → s.onX = false → rest = [] →
       (∀ s1, arriveOne s = (none, s1) → exec (.vectorLoadArrival s.h.id) s = .next s1) ∧
       ∀ c s1, arriveOne s = (some c, s1) → exec (.vectorLoadArrival s.h.id) s = .next (takeTrap s1 c))) ∧
  (∀ (s : State) (p : PLoad) (f : Nat), s.h.loads = [p] → p.got = none → p.ff = false → s.cfg.cont = false →
     s.h.parking = 0 → s.onX = false → fmtDefined f = true → fmtScaled f = false → elemSize f = p.ew →
     (p.named = none ∨ p.named = some f) → (p.els.map fun e => e.1).Nodup →
     (∀ e ∈ p.els, e.1 < elemsIn s.h.bits f ∧ e.2.2.ratio = 1 ∧ Held s e.2.2.pa ∧
       let tag := (sideOf s e.2.2.pa).tag
       tagVc tag = .uninit ∨ tagVc tag = .valid ∧ tagFmt tag = f ∧ tagHrot tag = 0) →
     (∃ e ∈ p.els, tagVc (sideOf s e.2.2.pa).tag = .valid) →
     let d := s.h.queue p.queue
     ∃ t r, exec (.vectorLoadArrival s.h.id) s = .next t ∧ t.h.loads = [] ∧ SameBytes s t ∧
       t.h.dq = (s.h.setQueue p.queue
         { d with entries := listSet d.entries (p.seq - d.head).toNat ⟨r, false, 0, 0⟩ }).dq ∧
       r.fmt.toNat = f ∧ r.vc = .valid ∧ r.hrot = 0 ∧
       ∀ i, i < elemsIn s.h.bits f → regCode r i = (match p.els.find? fun e => e.1 == i with
         | none => 0
         | some e =>
           let at_ := elemPlace e.1 e.2.1 e.2.2
           s.seenWord at_.line 64 / 2 ^ at_.bit % 2 ^ p.ew)) ∧
  (∀ (s : State) (e : XEntry) (rest : List XEntry), s.cfg.cont = false → s.h.parking = 0 → s.onX = false →
     s.h.xl = e :: rest →
     ((e.admitted = true ∨ e.op = none) → ∃ t, exec (.xRetirement s.h.id) s = .next t ∧ t.h.xl = rest ∧
       t.h = { commitEntry e s.h with xl := rest } ∧ t.h.v = s.h.v ∧ t.h.a = s.h.a ∧ t.mem = s.mem ∧ t.rest = s.rest) ∧
     (∀ op h pops pushes, e.admitted = false → e.op = some op → xEffect op s.h = .done h pops pushes →
       ∃ t, exec (.xAdmission s.h.id) s = .next t ∧ t.h.v = h.v ∧ t.h.m = h.m ∧ t.h.tiles = h.tiles ∧
         t.h.xflags = h.xflags ∧ t.h.xl = markAdmitted pops pushes h.xl ∧ t.mem = s.mem)) ∧
  (∀ s : State, serving s = true → exec .selectionPass s = .next (selectionPass s))

/-- The vector stores and scatters issue (R377, R378): they pop their data entry (and a scatter its index entry) and
join the unresolved stores with their elements still to be written, and with the rounding mode in force; a store with no
active element is resolved as it issues. Their resolution (R196, R256, R378), for a VALID register of a format without
scales whose elements all reach lines of that format, or UNINIT ones, on pages that do not demote: each line written is
VALID in that format, the last element written to a place stands in it, every other place of memory keeps its code, and
the store leaves the list with no record. Completes: VST_UNIT, VST_STRIDED, VSTX. -/
def Obligations.VectorStoresIssue : Prop :=
  (∀ (s : State) (w : Nat) (q : BitVec 3) (a b : BitVec 6) (e m : BitVec 3) (r : VReg), ReadyA s w → s.h.th = false →
    s.logFull s.h = false → headEntry s.h q.toNat = some r → 8 * (s.reg a.toNat).toNat % (4 * 2 ^ e.toNat) = 0 →
    let ew := 4 * 2 ^ e.toNat
    let n := Nat.min s.h.a.vl.toNat (s.h.bits / ew)
    let issues := fun (i : Instr) (h : Hart) (p : PStore) => ∃ t, exec i s = .next t ∧
      Ran { s with h := { h with
        stores := if (storeEls p).isEmpty then [] else [p], storeSeq := s.h.storeSeq + 1 } } t w
    let entry := fun (kind : Nat) (stride : Word) (n : Nat) (idx : Option VReg) (mask : MaskBits) =>
      (⟨kind, s.reg a.toNat, s.cur.pc, stride, ew, n, some r, idx, mask, s.h.storeSeq, s.h.strip, 0, s.h.rm⟩ : PStore)
    issues (.vstUnit q a e) (popEntry q.toNat s.h) (entry 4 0 n none 0) ∧
    (8 * (s.reg b.toNat).toNat % ew = 0 →
      issues (.vstStrided q a b e) (popEntry q.toNat s.h) (entry 5 (s.reg b.toNat) n none 0)) ∧
    ∀ idx, (q = 6 ∨ q = 7) → headEntry s.h (13 - q.toNat) = some idx → indexCause idx = none →
      issues (.vstx q a e m) (popEntry (13 - q.toNat) (popEntry q.toNat s.h))
        (entry 6 0 (Nat.min n (elemsIn s.h.bits idx.fmt.toNat)) (some idx) (s.h.mask m.toNat))) ∧
  (∀ (s : State) (p : PStore) (r : VReg) (f : Nat) (oks : List ElemAt), s.canon → s.onX = false → s.cfg.cont = false →
     s.h.parking = 0 → s.h.stores = [p] → p.kind ∈ [4, 5, 6] → p.src = some r → r.vc = .valid → r.hrot = 0 →
     r.fmt.toNat = f → fmtDefined f = true → fmtScaled f = false → elemSize f = p.ew → s.h.logWho 1 = none →
     (∀ e ∈ storeEls p, guarded s (BitVec.ofNat 64 (e.2 / 8)) = false) →
     reachElems .write p.ew (storeEls p) s = (oks, [], s) →
     (∀ e ∈ oks, e.x.ratio = 1 ∧ Held s e.x.pa ∧ pteDPOL e.x.leaf = false ∧
       (tagVc (sideOf s e.x.pa).tag = .uninit ∨
         tagVc (sideOf s e.x.pa).tag = .valid ∧ tagFmt (sideOf s e.x.pa).tag = f)) →
     let place := fun (e : ElemAt) => (e.line, e.bit / p.ew)
     let code := fun (s : State) (at_ : Nat × Nat) => s.seenWord at_.1 64 / 2 ^ (p.ew * at_.2) % 2 ^ p.ew
     ∃ t, exec (.storeResolve s.h.id) s = .next t ∧ t.h.stores = [] ∧ t.h.sfrq = s.h.sfrq ∧
       (∀ e ∈ oks, (∀ x ∈ oks, place x = place e → x.i ≤ e.i) → code t (place e) = regCode r e.i) ∧
       (∀ line k, line % 64 = 0 → p.ew * (k + 1) ≤ 512 → (∀ e ∈ oks, place e ≠ (line, k)) →
         code t (line, k) = code s (line, k)) ∧
       ∀ e ∈ oks, tagVc (sideOf t e.line).tag = .valid ∧ tagFmt (sideOf t e.line).tag = f)

/-- VLDL and VSTL (R379): the scratchpad forms act at issue. A VLDL whose bytes lie in the share and whose lines pass
the tag checks fills the entry at the tail of its queue with what they hold; a VSTL whose register has the element size,
and whose lines take its elements, writes the share's lines and gives its entry up; neither touches memory. With vl 0 a
VLDL fills its entry with no element and a VSTL writes nothing. VSPILL and VFILL (R380): with the X-stream IDLE or
STOPPED, a line-aligned offset and slots that lie in the share, VSPILL writes the bytes, the format, the class, the
rotation and the scales of each register named to the lines of its slot and nothing beyond the slots, and VFILL gives
each register what its slot holds (`fillFrom`) and leaves the others. Completes: VLDL, VSTL, VSPILL, VFILL. The model’s
own choices in it are those of log entry 62. -/
def Obligations.ScratchpadVectors : Prop :=
  (∀ (s : State) (w : Nat) (q : BitVec 3) (a : BitVec 6) (e : BitVec 3), ReadyA s w → s.h.th = false → s.h.refill = none →
     (Instr.vldl q a e).wellFormed = true ∨ (Instr.vstl q a e).wellFormed = true →
     let ew := 4 * 2 ^ e.toNat
     let n := Nat.min s.h.a.vl.toNat (s.h.bits / ew)
     let off := s.reg a.toNat
     let qd := s.h.queue q.toNat
     let fills := fun (r : VReg) (flags : Nat) =>
       let filled := { qd with entries := qd.entries ++ [⟨r, false, BitVec.ofNat 6 flags, 0⟩] }
       ∃ t, exec (.vldl q a e) s = .next t ∧ Ran { s with h := s.h.setQueue q.toNat filled } t w
     let stores := fun (h : Hart) => ∃ t, exec (.vstl q a e) s = .next t ∧ Ran { s with h := h } t w
     8 * off.toNat % ew = 0 →
     (qd.entries.length < 8 → n = 0 → fills (emptyEntry s.h.a.vfmt.toNat) 0) ∧
     (qd.entries.length < 8 → n ≠ 0 → off.toNat + (ew * n + 7) / 8 ≤ s.h.share →
       let got := spGot s.h ew (spEls off ew n)
       let f := entryFmt none s.h.a.vfmt.toNat got
       tagCause ew f (entryHrot got) got = none →
       let r := fillEntry s.h.bits f s.h.rm (entryHrot got) got
       fills r.1 r.2) ∧
     ∀ r, headEntry s.h q.toNat = some r →
       (n = 0 → stores (popEntry q.toNat s.h)) ∧
       (n ≠ 0 → off.toNat + (ew * n + 7) / 8 ≤ s.h.share → elemSize r.fmt.toNat = ew →
         ∀ h1, spStoreLines r ew (memRm s.h.rm) (spEls off ew n) (((spEls off ew n).map fun e => e.2 / 512).dedup)
           (popEntry q.toNat s.h) = .ok h1 → stores h1)) ∧
  (∀ (s : State) (w : Nat) (c : BitVec 3) (a : BitVec 6) (f : BitVec 5) (k : BitVec 2), ReadyA s w →
     (s.h.x.st = .idle ∨ s.h.x.st = .stopped) → s.h.aprog = 0 →
     let count := 4 * c.toNat + k.toNat + 1
     let off := (s.reg a.toNat).toNat
     let size := 64 * slotLines s.h
     f.toNat + count ≤ 32 → off % 64 = 0 → off + count * size ≤ s.h.share → s.h.spCanon → SMap.wf VReg.reset s.h.v = true →
     (∃ t, exec (.vspill c a f k) s = .next t ∧ Ran { s with h := { s.h with sp := t.h.sp, spTag := t.h.spTag } } t w ∧
       (∀ i j, i < count → j < slotLines s.h →
         let r := s.h.vreg (f.toNat + i)
         let o := off + i * size + 64 * j
         (∀ b, b < 64 → SMap.get 0#8 t.h.sp (o + b) = r.data.extractLsb' (512 * j + 8 * b) 8) ∧
         t.h.spTagAt o = mkTag r.fmt.toNat r.vc r.hrot.toNat (SMap.get 127#8 r.scales (2 * j)).toNat
           (SMap.get 127#8 r.scales (2 * j + 1)).toNat) ∧
       ∀ b, b < off ∨ off + count * size ≤ b → t.h.spSeen b = s.h.spSeen b) ∧
     ∃ t, exec (.vfill c a f k) s = .next t ∧ Ran { s with h := { s.h with v := t.h.v } } t w ∧
       ∀ n, t.h.vreg n = if f.toNat ≤ n ∧ n < f.toNat + count then fillFrom s.h (off + (n - f.toNat) * size) (slotLines s.h)
         else s.h.vreg n)

/-- A load, store or queue instruction that finds its queue full or empty waits in QBLOCK and changes nothing else
(R123). A handler may use no queue: its queue instructions raise ILLEGAL_STREAM (R265). -/
def Obligations.QueuesBlock : Prop :=
  (∀ (s : State) (w : Nat) (q : BitVec 3) (a : BitVec 6) (e : BitVec 3), ReadyA s w → s.h.th = false → s.h.refill = none →
     8 * (s.reg a.toNat).toNat % (4 * 2 ^ e.toNat) = 0 →
     let blocked := fun (i : Instr) => exec i s = .next { s with h := { s.h with a := { s.h.a with st := .qblock, wait := .none } } }
     (8 ≤ (s.h.queue q.toNat).entries.length →
       blocked (.vldUnit q a e) ∧ blocked (.vldl q a e) ∧ blocked (.qpushA q a)) ∧
     ((s.h.queue q.toNat).entries = [] → blocked (.vstUnit q a e) ∧ blocked (.vstl q a e) ∧ blocked (.qpopA q)) ∧
     (16 ≤ s.h.qx.entries.length → blocked (.qputs a)) ∧ (s.h.qa.entries = [] → blocked (.qgets a))) ∧
  (∀ (s : State) (i : Instr) (q : BitVec 3) (a : BitVec 6) (e : BitVec 3), s.onX = false → s.h.th = true →
     i ∈ [Instr.vldUnit q a e, .vldffUnit q a e, .vstUnit q a e, .vldl q a e, .vstl q a e, .qpushA q a, .qpopA q, .qputs a,
       .qgets a] →
     exec i s = .next (takeTrap s ⟨false, causeILLEGAL_STREAM, 0, 0, (encode i).setWidth 64⟩))

/-- The queue instructions of the A-stream (R381): QPUSH splats the scalar into a register of vl_A elements of vfmt_A at
the tail; QPOP takes the head entry; QPUTS puts a scalar at the tail of qx, QGETS takes the head of qa. QPUTS and QGETS
of the X-stream with everything older retired (R126, R381): QPUTS puts a scalar at the tail of qa, where the A-stream
sees it at once; QGETS takes the head of qx. QSTAT (R381) in either stream outside a handler: the number of entries that
the stream sees in bits 15 to 0, whether the head entry is pending in bit 16, zeros to bit 31, and the sequence number
of the head above; the X-stream does not see the entries that it has popped, nor the A-stream those whose push has not
retired (R126). Completes: QPUSH_A, QPOP_A, QPUTS, QGETS, QSTAT_DATA, QSTAT_SCALAR. -/
def Obligations.QueueInstructions : Prop :=
  (∀ (s : State) (w : Nat) (q : BitVec 3) (a : BitVec 6), ReadyA s w → s.h.th = false →
     let qd := s.h.queue q.toNat
     (q.toNat ≤ 5 → qd.entries.length < qCapacity q.toNat →
       let v := (s.reg a.toNat).toNat
       let r := regOfCodes s.h.a.vfmt.toNat (List.replicate (Nat.min s.h.a.vl.toNat (elemsIn s.h.bits s.h.a.vfmt.toNat)) v)
       let pushed := { qd with entries := qd.entries ++ [⟨r, false, 0, 0⟩] }
       ∃ t, exec (.qpushA q a) s = .next t ∧ Ran { s with h := s.h.setQueue q.toNat pushed } t w) ∧
     (∀ r, 6 ≤ q.toNat → headEntry s.h q.toNat = some r →
       let popped := { qd with head := qd.head + 1, entries := qd.entries.drop 1 }
       ∃ t, exec (.qpopA q) s = .next t ∧ Ran { s with h := s.h.setQueue q.toNat popped } t w) ∧
     (s.h.qx.entries.length < 16 → ∃ t, exec (.qputs a) s = .next t ∧
       Ran { s with h := { s.h with qx := { s.h.qx with entries := s.h.qx.entries ++ [s.reg a.toNat] } } } t w) ∧
     ∀ v rest, s.h.qa.entries = v :: rest → s.h.qa.unseen < s.h.qa.entries.length → ∃ t, exec (.qgets a) s = .next t ∧
       Wrote { s with h := { s.h with qa := { s.h.qa with head := s.h.qa.head + 1, entries := rest } } } t w a v) ∧
  (∀ (s : State) (w : Nat) (a : BitVec 6), ReadyX s w →
     (s.h.qa.entries.length < 16 → s.h.qa.unseen = 0 → ∃ t, exec (.qputs a) s = .next t ∧
       Ran { s with h := { s.h with qa := { s.h.qa with entries := s.h.qa.entries ++ [s.reg a.toNat] } } } t w) ∧
     ∀ v rest, s.h.qx.entries = v :: rest → s.h.qx.popped = 0 → ∃ t, exec (.qgets a) s = .next t ∧
       Wrote { s with h := { s.h with qx := { s.h.qx with head := s.h.qx.head + 1, entries := rest } } } t w a v) ∧
  (∀ (s : State) (w : Nat) (q : BitVec 3) (k : BitVec 1) (b : BitVec 6), (ReadyX s w ∨ ReadyA s w ∧ s.h.th = false) →
     let shows := fun (v : Word) (count skip : Nat) (pending : Bool) (head : BitVec 32) =>
       v.extractLsb' 0 16 = BitVec.ofNat 16 count ∧ v.getLsbD 16 = pending ∧ v.extractLsb' 17 15 = 0 ∧
         v.extractLsb' 32 32 = head + BitVec.ofNat 32 skip
     (∃ t v, exec (.qstatData q b) s = .next t ∧ Wrote s t w b v ∧
       let d := s.h.queue q.toNat
       let count := d.entries.length - (if s.onX then d.popped else d.unseen)
       let skip := if s.onX then d.popped else 0
       shows v count skip (match listAt d.entries skip with | some e => e.pending && decide (0 < count) | none => false) d.head) ∧
     ∃ t v, exec (.qstatScalar k b) s = .next t ∧ Wrote s t w b v ∧
       let d := if k = 0 then s.h.qx else s.h.qa
       shows v (d.entries.length - (if s.onX then d.popped else d.unseen)) (if s.onX then d.popped else 0) false d.head)

/-! ## Vector and matrix instructions (R384, R387 to R433) -/

/-- VSETL (R387): vl becomes the lesser of the request and VLMAX of the format, vfmt the format, and the destination the
new vl; the form without a format keeps vfmt; a format code that is not defined raises ILLEGAL_FMT. LSPLIT on a joined
hart (R143, R145, R384): a split up to 12 moves the boundary, and no byte of memory and no register changes; a larger
share keeps what it held and reads zero above it; a smaller one keeps the lines of the banks that it keeps. A split
hart, or a split above 12, raises ILLEGAL_OP. Completes: LSPLIT, VSETL, VSETL_KEEP. The model’s own choices in it are
those of log entries 42 and 133. -/
def Obligations.VectorLengthAndSplit : Prop :=
  (∀ (s : State) (w : Nat) (d f : BitVec 5) (a : BitVec 6), s.onX = true → AtWord s w → s.canWrite = true →
     let grants := fun (i : Instr) (f : BitVec 5) =>
       let n := Nat.min (s.reg a.toNat).toNat (vlmax s.h.joined f.toNat)
       let x := { s.h.x with vl := BitVec.ofNat 13 n, vfmt := f }
       ∃ t, exec i s = .next t ∧ Wrote { s with h := { s.h with x := x } } t w (d.setWidth 6) (BitVec.ofNat 64 n)
     (fmtDefined f.toNat = true → grants (.vsetl d a f) f) ∧
     (fmtDefined s.h.x.vfmt.toNat = true → grants (.vsetlKeep d a) s.h.x.vfmt) ∧
     (fmtDefined f.toNat = false → s.h.unadmitted = false →
       exec (.vsetl d a f) s = .next (takeTrap s ⟨true, causeILLEGAL_FMT, 0, 0, f.setWidth 64⟩))) ∧
  (∀ (s : State) (w : Nat) (k : BitVec 4), ReadyA s w →
     (s.h.joined = true → k.toNat ≤ 12 → s.h.spCanon → (∀ c ∈ s.h.sp, c.1 < s.h.share) →
       (∀ c ∈ s.h.spTag, 64 * c.1 < s.h.share) → ∃ t, exec (.lsplit k) s = .next t ∧ t.h.lsplit = k ∧ t.mem = s.mem ∧
       t.h.share = 32768 * k.toNat ∧ Passed s t w ∧ t.h.a.regs = s.h.a.regs ∧ t.h.x = s.h.x ∧ t.h.v = s.h.v ∧
       (s.h.share ≤ t.h.share → (∀ b, b < s.h.share → t.h.spSeen b = s.h.spSeen b) ∧
         ∀ b, s.h.share ≤ b → b < t.h.share → t.h.spSeen b = 0) ∧
       (t.h.share ≤ s.h.share → ∀ b, b < t.h.share → b / 64 % (32 * s.h.lsplit.toNat) < 32 * k.toNat →
         t.h.spSeen b = s.h.spSeen b)) ∧
     (s.h.joined = false ∨ 12 < k.toNat →
       exec (.lsplit k) s = .next (takeTrap s ⟨false, causeILLEGAL_OP, 0, 0, (encode (.lsplit k)).setWidth 64⟩)))

/-- Every vector and mask instruction, with nothing older in flight, reads its scalar operands at issue, passes the
stream on and takes effect at admission (R126, R128, R388): one definition, xEffect, says what each does to the
registers. Vector and mask instructions complete on plain registers: with every register they name VALID, not rotated
and all FP32 (f = 8) or all INT32 (f = 4), and the promotion table as it is at dispatch, each issues, is admitted at
once and has its effect; the reciprocals ask for FP32, the shifts and VPERM for INT32 (R398, R400, R413), VSCALE for a
scaled vfmt (R409), VTAG for a defined format (R406), VCVT for a defined format but RAW (R408), QPUSH for room and QPOP
for an entry that is there (R381). Completes: QPUSH_X, QPOP_X, QPOP_X_DISCARD, VADD, VSUB, VMUL, VFMA, VFMS, VMIN, VMAX,
VABS, VNEG, VDIV, VRCP, VRSQRT, VAND, VOR, VXOR, VSHL, VSHR, VSEL, VMOV, VSPLAT, VEXT, VINS, VREDSUM, VREDMAX, VREDMIN,
VCMP_EQ, VCMP_NE, VCMP_LT, VCMP_LE, VCMP_GT, VCMP_GE, VCMP_UN, VCMP_OR, VIOTA, VSLIDEUP, VSLIDEDN, VPERM, MAND, MOR,
MXOR, MANDN, MNOT, MPOPC, MFIRST, VTAG, VGTAG, VCVT, VSCALE, VUNROT. -/
def Obligations.VectorInstructionsTakeEffect : Prop :=
  (∀ (s : State) (w : Nat) (d v : BitVec 5) (a b : BitVec 6) (f : BitVec 5) (md ma mb m r q : BitVec 3) (z : BitVec 1),
     ReadyX s w →
     (∀ i ∈ [Instr.vadd d a b m r z, .vsub d a b m r z, .vmul d a b m r z, .vfma d a b m r z, .vfms d a b m r z,
         .vmin d a b m r z, .vmax d a b m r z, .vabs d a m z, .vneg d a m z, .vdiv d a b m r z, .vrcp d a m z,
         .vrsqrt d a m z, .vand d a b m r z, .vor d a b m r z, .vxor d a b m r z, .vshl d a b m r z, .vshr d a b m r z,
         .vsel d a b m r, .vmov d a m z, .vredsum d a m, .vredmax d a m, .vredmin d a m, .vcmpEq md a b m r z,
         .vcmpNe md a b m r z, .vcmpLt md a b m r z, .vcmpLe md a b m r z, .vcmpGt md a b m r z, .vcmpGe md a b m r z,
         .vcmpUn md a b m r z, .vcmpOr md a b m r z, .viota d ma m z, .vperm d a b m r z, .mand md ma mb, .mor md ma mb,
         .mxor md ma mb, .mandn md ma mb, .mnot md ma, .mpopc d ma, .mfirst d ma, .vcvt d a f m z, .vunrot d a,
         .qpushX q v, .qpopX q v, .qpopXDiscard q], Enters i 0 0 s) ∧
     (∀ i ∈ [Instr.vext d a b, .vslideup d a b m z, .vslidedn d a b m z, .vtag d a b, .vgtag d v b, .vscale d a b m z],
       Enters i 0 (s.reg b.toNat) s) ∧
     Enters (.vsplat d a) (s.reg a.toNat) 0 s ∧ Enters (.vins d a b) (s.reg a.toNat) (s.reg b.toNat) s) ∧
  (∀ (s : State) (w g : Nat) (d v : BitVec 5) (a b : BitVec 6) (f : BitVec 5) (md ma mb m r q : BitVec 3) (z : BitVec 1),
     ReadyX s w → a.toNat < 32 → b.toNat < 32 → (g = 4 ∨ g = 8) → s.h.pt = defaultPt → s.h.plainReg a.toNat g →
     s.h.plainReg b.toNat g → s.h.plainReg d.toNat g → s.h.plainReg v.toNat g →
     let completes := fun (i : Instr) (sa sb : Word) => ∃ op h pops pushes t, (viqEntry s i sa sb).op = some op ∧
       xEffect op (queued s i sa sb).h = .done h pops pushes ∧ exec i s = .next t ∧ Took (queued s i sa sb) t h pops pushes
     (∀ i ∈ [Instr.vadd d a b m r z, .vsub d a b m r z, .vmul d a b m r z, .vfma d a b m r z, .vfms d a b m r z,
         .vmin d a b m r z, .vmax d a b m r z, .vabs d a m z, .vneg d a m z, .vdiv d a b m r z, .vand d a b m r z,
         .vor d a b m r z, .vxor d a b m r z, .vsel d a b m r, .vmov d a m z, .vredsum d a m, .vredmax d a m,
         .vredmin d a m, .vcmpEq md a b m r z, .vcmpNe md a b m r z, .vcmpLt md a b m r z, .vcmpLe md a b m r z,
         .vcmpGt md a b m r z, .vcmpGe md a b m r z, .vcmpUn md a b m r z, .vcmpOr md a b m r z, .viota d ma m z,
         .mand md ma mb, .mor md ma mb, .mxor md ma mb, .mandn md ma mb, .mnot md ma, .mpopc d ma, .mfirst d ma,
         .vunrot d a], completes i 0 0) ∧
     (∀ i ∈ [Instr.vext d a b, .vslideup d a b m z, .vslidedn d a b m z, .vgtag d v b], completes i 0 (s.reg b.toNat)) ∧
     completes (.vsplat d a) (s.reg a.toNat) 0 ∧ completes (.vins d a b) (s.reg a.toNat) (s.reg b.toNat) ∧
     (g = 8 → completes (.vrcp d a m z) 0 0 ∧ completes (.vrsqrt d a m z) 0 0) ∧
     (g = 4 → completes (.vshl d a b m r z) 0 0 ∧ completes (.vshr d a b m r z) 0 0 ∧ completes (.vperm d a b m r z) 0 0) ∧
     (fmtScaled s.h.x.vfmt.toNat = true → completes (.vscale d a b m z) 0 (s.reg b.toNat)) ∧
     (fmtDefined ((s.reg b.toNat).toNat % 32) = true → completes (.vtag d a b) 0 (s.reg b.toNat)) ∧
     (fmtDefined f.toNat = true → f ≠ 0 → completes (.vcvt d a f m z) 0 0) ∧
     ((s.h.queue q.toNat).entries.length < 8 → completes (.qpushX q v) 0 0) ∧
     ∀ e, listAt (s.h.queue q.toNat).entries (s.h.queue q.toNat).popped = some e → e.pending = false → e.reg.vc = .valid →
       e.reg.hrot = 0 → completes (.qpopX q v) 0 0 ∧ completes (.qpopXDiscard q) 0 0)

/-- What the admission of a vector or matrix instruction may change in its hart (R388 to R433): vector and mask
registers, tiles, mk.W, the generator, the flags, the X-stream's scalar registers, what the younger queued instructions
keep of those, and the entries of the data queues; nothing else. -/
def Obligations.VectorEffectsChangeOnlyRegisters : Prop :=
  ∀ (op : XOp) (h h1 : Hart) (pops pushes : List (Nat × Nat)), xEffect op h = .done h1 pops pushes →
    { h1 with v := h.v, m := h.m, tiles := h.tiles, tdirty := h.tdirty, mkW := h.mkW, lfsr := h.lfsr, xflags := h.xflags
              x := { h1.x with regs := h.x.regs }, dq := h.dq, xl := h.xl } = h ∧
    let bare := fun (e : XEntry) => { e with op := e.op.map fun (x : XOp) => { x with regs := [] } }
    h1.xl.map bare = h.xl.map bare

/-- Results element by element on plain registers, VALID and not rotated (R389, R390): each active element below the length
takes the new element, each inactive one is zero under Z and else the old one, each beyond the length is the old one, and
nothing else of the hart changes but the flags named, and the generator under SR (log entry 182 says which elements step it).
In a format without scales: VAND, VOR and VXOR give the bitwise result of the two elements, that of VB under REP (R329, R399);
VMOV the element (R403); VSLIDEUP element i − k, those below k being kept, and VSLIDEDN element i + k, or zero beyond the
register (R412); VPERM the element that an INT32 index names, or zero for an index below zero or beyond the register (R413);
VINS puts the low bits of its scalar in element k, and does nothing where there is no element k; VEXT gives element k,
sign-extended for INT4, INT8, INT16, INT32 and INT64 and else zero-extended, and 0 where there is none, which is
written unless a younger scalar instruction has written the register (R127, R405). VSPLAT gives every element of vfmt the low bits of
its scalar (R404). On INT32: VADD, VSUB and VMUL give the exact sum, difference and product brought to the nearer limit of INT32,
with SAT set where an active result lay beyond it (R174, R176, R394); VSEL the element of VA where the mask bit is 1, else that of
VB (R402); VIOTA the number of one bits of its mask below the index, where vfmt is INT32 or no unscaled integer format (R411);
and the compares their condition on the two values, in a mask whose other bits are kept (R401). -/
def Obligations.BitwiseElements : Prop :=
  (∀ (op : XOp) (h : Hart) (d : BitVec 5) (a b : BitVec 6) (m r : BitVec 3) (z : BitVec 1) (f : Nat), a.toNat < 32 →
    b.toNat < 32 → fmtDefined f = true → fmtScaled f = false → h.plainReg a.toNat f → h.plainReg d.toNat f →
    SMap.wf VReg.reset h.v = true →
    let count := elemsIn h.bits f
    let n := Nat.min op.vl.toNat count
    let old := fun i => regCode (h.vreg d.toNat) i
    let x := fun i => regCode (h.vreg a.toNat) i
    let masked := fun (n : Nat) (new : Nat → Nat) => maskedElem h d.toNat n (h.mask m.toNat) z new
    let gives := fun (i : Instr) (new : Nat → Nat) => op.instr = i → FillsReg op h d.toNat f 0 new
    (h.plainReg b.toNat f →
      let y := fun i => regCode (h.vreg b.toNat) (repIdx (repSize r) i)
      gives (.vand d a b m r z) (masked n fun i => Nat.land (x i) (y i)) ∧
      gives (.vor d a b m r z) (masked n fun i => Nat.lor (x i) (y i)) ∧
      gives (.vxor d a b m r z) (masked n fun i => Nat.xor (x i) (y i))) ∧
    gives (.vmov d a m z) (masked n x) ∧
    (let k := op.sb.toNat
     gives (.vslideup d a b m z) (fun i => if i < k then old i else masked n (fun i => x (i - k)) i) ∧
     gives (.vslidedn d a b m z) (masked n fun i => if i + k < count then x (i + k) else 0) ∧
     gives (.vins d a b) (fun i => if i = k then op.sa.toNat % 2 ^ elemSize f else old i) ∧
     (h.newest → op.instr = .vext d a b →
       let v : Word := if k < count then
         (if f ∈ [1, 3, 4, 5, 6] then (BitVec.ofNat (elemSize f) (x k)).signExtend 64 else BitVec.ofNat 64 (x k)) else 0
       xEffect op h = .done { h with x := h.x.setReg d.toNat v } [] [])) ∧
    (h.plainReg b.toNat 4 →
      let y := fun i => int32Of (regCode (h.vreg b.toNat) (repIdx (repSize r) i))
      gives (.vperm d a b m r z) (masked (Nat.min n (elemsIn h.bits 4)) fun i =>
        if 0 ≤ y i ∧ y i < (count : Int) then x (y i).toNat else 0))) ∧
  (∀ (op : XOp) (h : Hart) (d : BitVec 5) (a : BitVec 6), SMap.wf VReg.reset h.v = true → fmtDefined op.vfmt.toNat = true →
    op.instr = .vsplat d a →
    FillsReg op h d.toNat op.vfmt.toNat 0 fun _ => op.sa.toNat % 2 ^ elemSize op.vfmt.toNat) ∧
  (∀ (op : XOp) (h : Hart) (d : BitVec 5) (a b : BitVec 6) (md ma m r : BitVec 3) (z : BitVec 1), a.toNat < 32 →
    b.toNat < 32 → h.plainReg a.toNat 4 → h.plainReg b.toNat 4 → h.plainReg d.toNat 4 → SMap.wf VReg.reset h.v = true →
    SMap.wf 0 h.m = true → h.pt = defaultPt →
    let n := Nat.min op.vl.toNat (elemsIn h.bits 4)
    let mask := h.mask m.toNat
    let x := fun i => regCode (h.vreg a.toNat) i
    let y := fun i => regCode (h.vreg b.toNat) (repIdx (repSize r) i)
    let computes := fun (i : Instr) (g : Int → Int → Int) => op.instr = i →
      let v := fun i => g (int32Of (x i)) (int32Of (y i))
      ∃ flags, FillsReg op h d.toNat 4 flags (maskedElem h d.toNat n mask z fun i => int32Elem (v i)) ∧
        ((∃ i, i < n ∧ mask.getLsbD i = true ∧ beyondInt32 (v i)) → flags = 16) ∧
        ((∀ i, i < n → mask.getLsbD i = true → ¬ beyondInt32 (v i)) → flags = 0)
    let compares := fun (i : Instr) (g : Int → Int → Bool) => op.instr = i → ∃ h1, xEffect op h = .done h1 [] [] ∧
      { h1 with m := h.m } = h ∧ (∀ k, k ≠ md.toNat → h1.mask k = h.mask k) ∧
      ∀ i, i < (if h.joined then 4096 else 1024) → (h1.mask md.toNat).getLsbD i =
        if n ≤ i then (h.mask md.toNat).getLsbD i
        else if mask.getLsbD i then g (int32Of (x i)) (int32Of (y i))
        else if z = 1 then false else (h.mask md.toNat).getLsbD i
    computes (.vadd d a b m r z) (fun x y => x + y) ∧ computes (.vsub d a b m r z) (fun x y => x - y) ∧
    computes (.vmul d a b m r z) (fun x y => x * y) ∧
    (op.instr = .vsel d a b m r → FillsReg op h d.toNat 4 0 fun i =>
      if n ≤ i then regCode (h.vreg d.toNat) i else if mask.getLsbD i then x i else y i) ∧
    (op.vfmt = 4 ∨ fmtPlainInt op.vfmt.toNat = false → op.instr = .viota d ma m z →
      FillsReg op h d.toNat 4 0 (maskedElem h d.toNat n mask z fun i =>
        ((List.range i).filter fun k => (h.mask ma.toNat).getLsbD k).length)) ∧
    (md ≠ 0 →
      compares (.vcmpEq md a b m r z) (fun x y => decide (x = y)) ∧ compares (.vcmpNe md a b m r z) (fun x y => decide (x ≠ y)) ∧
      compares (.vcmpLt md a b m r z) (fun x y => decide (x < y)) ∧ compares (.vcmpLe md a b m r z) (fun x y => decide (x ≤ y)) ∧
      compares (.vcmpGt md a b m r z) (fun x y => decide (y < x)) ∧ compares (.vcmpGe md a b m r z) (fun x y => decide (y ≤ x)) ∧
      compares (.vcmpUn md a b m r z) (fun _ _ => false) ∧ compares (.vcmpOr md a b m r z) (fun _ _ => true)))

/-- MAND, MOR, MXOR and MANDN give mA and mB, mA or mB, mA xor mB, and mA and not mB; MNOT gives not mA; each on every
bit of the mask, whatever vl holds. m0 as a source reads as all ones, and no form has it as its destination (R415).
MPOPC writes the number of one bits below vl_X and MFIRST the lowest such position, or all ones if there is none (R416);
where a younger scalar instruction has written the register meanwhile, that value stands (R127, R129). -/
def Obligations.MaskOperations : Prop :=
  ∀ (op : XOp) (h : Hart) (d a b : BitVec 3) (e : BitVec 5),
    let ones := maskOnes h.joined
    let acts := fun (i : Instr) (v : MaskBits) => op.instr = i → xEffect op h = .done (h.setMask d.toNat v) [] []
    h.mask 0 = ones ∧
    (∀ i ∈ [Instr.mand 0 a b, .mor 0 a b, .mxor 0 a b, .mandn 0 a b, .mnot 0 a], i.wellFormed = false) ∧
    acts (.mand d a b) (h.mask a.toNat &&& h.mask b.toNat) ∧ acts (.mor d a b) (h.mask a.toNat ||| h.mask b.toNat) ∧
    acts (.mxor d a b) (h.mask a.toNat ^^^ h.mask b.toNat) ∧
    acts (.mandn d a b) (h.mask a.toNat &&& ~~~(h.mask b.toNat)) ∧
    (SMap.wf 0 h.m = true → d ≠ 0 → ∀ h1, op.instr = .mnot d a → xEffect op h = .done h1 [] [] →
      h1.mask d.toNat = ~~~(h.mask a.toNat) &&& ones ∧ ∀ k, k ≠ d.toNat → h1.mask k = h.mask k) ∧
    (∀ l y, h.xl = l ++ [y] → (∀ x ∈ l, x.waiting = false) → y.waiting = true → e.toNat ∈ y.scalars →
      op.instr = .mpopc e a ∨ op.instr = .mfirst e a → xEffect op h = .done h [] []) ∧
    (∀ n, n = ((List.range op.vl.toNat).filter fun i => (h.mask a.toNat).getLsbD i).length → h.newest → op.instr = .mpopc e a →
        xEffect op h = .done { h with x := h.x.setReg e.toNat (BitVec.ofNat 64 n) } [] []) ∧
    (h.newest → op.instr = .mfirst e a → ∃ v, xEffect op h = .done { h with x := h.x.setReg e.toNat v } [] [] ∧
      ((∀ i, i < op.vl.toNat → (h.mask a.toNat).getLsbD i = false) → v = BitVec.allOnes 64) ∧
      ∀ i, i < op.vl.toNat → (h.mask a.toNat).getLsbD i = true → (∀ k, k < i → (h.mask a.toNat).getLsbD k = false) →
        v = BitVec.ofNat 64 i)

/-- The matrix instructions (R89, R421, R422): where the launch has the tile and, with mk.W nonzero, a leave is held,
each enters the VIQ and takes effect at admission; MMODE sets mk.W; one that needs a leave it does not hold asks the
tower's governor for it and waits; and a tile that the launch does not have is a reserved operand. Matrix instructions
complete: with the tile in the launch and the leave held, MZERO always, MRD and MTR with a vfmt that is not RAW, MWR and
the accumulations of FP32 or INT32 registers into an UNINIT tile with the 32-bit width in force. What cells and registers hold after (R427
to R429): MZERO makes each active cell zero and keeps the others, and a tile of which every cell is active becomes UNINIT;
MWR of a plain INT32 register into an UNINIT tile, or into a VALID one of INT32 that is not rotated, puts each active element in
its cell of the row, or of the column, and keeps the others; MRD and MTR with vfmt INT32 give the active elements their cells of
the row or the column of such a VALID tile, and zero to the others, and with S = 1 clear the cells read; and a row written by
MWR, or a column, is read back by MRD, or by MTR. Completes: MMODE,
MZERO, OPADD, OPSUB, MRD, MWR, MTR. The model’s own choices in it are those of log entry 65. -/
def Obligations.MatrixInstructionsTakeEffect : Prop :=
  (∀ (s : State) (w : Nat) (t : BitVec 2) (v : BitVec 5) (a b x : BitVec 6) (r c u : BitVec 3) (k : BitVec 1), ReadyX s w →
     let others := [(Instr.mzero t r c, (0 : Word)), (.opadd t a b r c, 0), (.opsub t a b r c, 0),
       (.mrd t v x c k, s.reg x.toNat), (.mwr t a x c k, s.reg x.toNat), (.mtr t v x c k, s.reg x.toNat)]
     (t.toNat < tilesOf s s.h → (s.h.mkW = 0 ∨ s.h.mkLV = true) → ∀ p ∈ others, Enters p.1 0 p.2 s) ∧
     (t.toNat < tilesOf s s.h → s.h.mkW ≠ 0 → s.h.mkLV = false → ∀ p ∈ others,
       exec p.1 s = .next (askLeave s ⟨.inl s.h.id, matrixCharge s.h, false⟩)) ∧
     (tilesOf s s.h ≤ t.toNat → ∀ p ∈ others,
       exec p.1 s = .next (takeTrap s ⟨true, causeILLEGAL_OP, 0, 0, (encode p.1).setWidth 64⟩)) ∧
     (u.toNat ≤ 4 → tilesOf s s.h ≠ 0 → (u = 0 ∨ s.h.mkLV = true) → Enters (.mmode u) 0 0 s ∧
       ∃ t, exec (.mmode u) s = .next t ∧ t.h.mkW = u ∧ t.h.v = s.h.v ∧ t.h.tiles = s.h.tiles ∧ Passed s t w) ∧
     (u.toNat ≤ 4 → tilesOf s s.h ≠ 0 → u ≠ 0 → s.h.mkLV = false →
       exec (.mmode u) s = .next (askLeave s ⟨.inl s.h.id, matrixCharge s.h, false⟩))) ∧
  (∀ (s : State) (w g : Nat) (t : BitVec 2) (v : BitVec 5) (a b x : BitVec 6) (r c : BitVec 3) (k : BitVec 1), ReadyX s w →
     t.toNat < tilesOf s s.h → (s.h.mkW = 0 ∨ s.h.mkLV = true) →
     let completes := fun (i : Instr) (sb : Word) => ∃ op h pops pushes u, (viqEntry s i 0 sb).op = some op ∧
       xEffect op (queued s i 0 sb).h = .done h pops pushes ∧ exec i s = .next u ∧ Took (queued s i 0 sb) u h pops pushes
     completes (.mzero t r c) 0 ∧
     (s.h.x.vfmt ≠ 0 → completes (.mrd t v x c k) (s.reg x.toNat) ∧ completes (.mtr t v x c k) (s.reg x.toNat)) ∧
     ((g = 4 ∨ g = 8) → a.toNat < 32 → b.toNat < 32 → s.h.plainReg a.toNat g → s.h.plainReg b.toNat g →
       (s.h.tile t.toNat).vc = .uninit →
       completes (.mwr t a x c k) (s.reg x.toNat) ∧
       (s.h.pt = defaultPt → s.h.mkW = 4 → completes (.opadd t a b r c) 0 ∧ completes (.opsub t a b r c) 0))) ∧
  (∀ (op : XOp) (h : Hart) (t : BitVec 2) (r c : BitVec 3), SMap.wf Tile.reset h.tiles = true →
     SMap.wf 0 (h.tile t.toNat).cells = true → op.instr = .mzero t r c →
     let old := h.tile t.toNat
     let on := fun (m : BitVec 3) (i : Nat) => (h.mask m.toNat).getLsbD i
     let full := ∀ i, i < h.tlen → on r i = true ∧ on c i = true
     ∃ h1, xEffect op h = .done h1 [] [] ∧ { h1 with tiles := h.tiles, tdirty := h.tdirty } = h ∧
       (∀ k, k ≠ t.toNat → h1.tile k = h.tile k) ∧
       (∀ i j, i < h.tlen → j < h.tlen →
         tileCell (h1.tile t.toNat) i j = if on r i && on c j then 0 else tileCell old i j) ∧
       (h1.tile t.toNat).int = old.int ∧ (full → (h1.tile t.toNat).vc = .uninit ∧ (h1.tile t.toNat).trot = 0) ∧
       (¬ full → (h1.tile t.toNat).vc = old.vc ∧ (h1.tile t.toNat).trot = old.trot)) ∧
  (∀ (op : XOp) (h : Hart) (t : BitVec 2) (v : BitVec 5) (a x : BitVec 6) (c : BitVec 3) (k : BitVec 1),
     SMap.wf Tile.reset h.tiles = true → SMap.wf 0 (h.tile t.toNat).cells = true → SMap.wf VReg.reset h.v = true →
     let old := h.tile t.toNat
     let plain := old.vc = .valid ∧ old.int = true ∧ old.trot = 0
     let line := op.sb.toNat % h.tlen
     let on := fun (j : Nat) => (h.mask c.toNat).getLsbD j
     (op.instr = .mwr t a x c k → a.toNat < 32 → h.plainReg a.toNat 4 → (old.vc = .uninit ∨ plain) →
       ∃ h1, xEffect op h = .done h1 [] [] ∧ { h1 with tiles := h.tiles, tdirty := h.tdirty } = h ∧
         (∀ n, n ≠ t.toNat → h1.tile n = h.tile n) ∧
         (h1.tile t.toNat).vc = .valid ∧ (h1.tile t.toNat).int = true ∧ (h1.tile t.toNat).trot = 0 ∧
         (∀ i j, i < h.tlen → j < h.tlen → tileCell (h1.tile t.toNat) i j =
           if k = 0 ∧ i = line ∧ on j = true then BitVec.ofNat 32 (regCode (h.vreg a.toNat) j)
           else if k = 1 ∧ j = line ∧ on i = true then BitVec.ofNat 32 (regCode (h.vreg a.toNat) i)
           else tileCell old i j) ∧
         ∀ (op2 : XOp) (h2 : Hart), op2.instr = (if k = 0 then .mrd t v x c 0 else .mtr t v x c 0) → op2.vfmt = 4 →
           op2.sb.toNat % h.tlen = line → xEffect op2 h1 = .done h2 [] [] →
           ∀ j, j < h.tlen → on j = true → regCode (h2.vreg v.toNat) j = regCode (h.vreg a.toNat) j) ∧
     let reads := fun (i : Instr) (col : Bool) => op.instr = i → plain → op.vfmt = 4 →
       ∃ h1, xEffect op h = .done h1 [] [] ∧
         { h1 with v := h.v, lfsr := h.lfsr, tiles := h.tiles, tdirty := h.tdirty } = h ∧
         (op.rm.toNat ≠ 4 → h1.lfsr = h.lfsr) ∧ h1.plainReg v.toNat 4 ∧ (∀ n, n ≠ v.toNat → h1.vreg n = h.vreg n) ∧
         (∀ j, j < elemsIn h.bits 4 → regCode (h1.vreg v.toNat) j =
           if j < h.tlen ∧ on j = true then (if col then tileCell old j line else tileCell old line j).toNat else 0) ∧
         (∀ n, n ≠ t.toNat → h1.tile n = h.tile n) ∧ (h1.tile t.toNat).vc = .valid ∧
         ∀ i j, i < h.tlen → j < h.tlen → tileCell (h1.tile t.toNat) i j =
           if k = 1 ∧ (if col then j else i) = line ∧ on (if col then i else j) = true then 0 else tileCell old i j
     reads (.mrd t v x c k) false ∧ reads (.mtr t v x c k) true)

/-! ## Counters, waits and atomics (R236 to R247, R436 to R441) -/

/-- The counter instructions on a near counter that the hart may use (R240, R436): CADD adds, CXADD adds and returns the
old value, CRD returns the value, CTST tests the wait condition, and CSET in S mode sets the value with status 0, or
leaves it with status 1 where a stream waits on it. A delta of 2^32 or more raises COUNTER (R237). Completes: CADD,
CXADD, CRD, CTST, CSET. -/
def Obligations.NearCounters : Prop :=
  ∀ (s : State) (w : Nat) (d a b : BitVec 6) (o : BitVec 2) (c : BitVec 3) (p : Nat), ReadyA s w →
    NearRef s (s.reg a.toNat) p →
    let key := nearKey s.h.id.tower s.h.id.core p
    let v := nearVal s key
    let put := fun (v : Word) (t : State) => { s with near := SMap.set 0 s.near key v, agenda := t.agenda }
    ((s.reg b.toNat).toNat < 2 ^ 32 →
      (∃ t, exec (.cadd a b o c) s = .next t ∧ Ran (put (v + s.reg b.toNat) t) t w) ∧
      ∃ t, exec (.cxadd d a b o c) s = .next t ∧ Wrote (put (v + s.reg b.toNat) t) t w d v) ∧
    (∃ t, exec (.crd d a o c) s = .next t ∧ Wrote s t w d v) ∧
    (∃ t, exec (.ctst d a b o c) s = .next t ∧ Wrote s t w d (if satisfied v (s.reg b.toNat) then 1 else 0)) ∧
    (s.h.priv = true → nearHasWaiter s s.h.id p = false →
      ∃ t, exec (.cset d a b c) s = .next t ∧ Wrote (put (s.reg b.toNat) t) t w d 0) ∧
    (s.h.priv = true → nearHasWaiter s s.h.id p = true →
      ∃ t, exec (.cset d a b c) s = .next t ∧ Wrote s t w d 1) ∧
    (2 ^ 32 ≤ (s.reg b.toNat).toNat →
      exec (.cadd a b o c) s = .next (takeTrap s ⟨false, causeCOUNTER, 10, 0, s.reg a.toNat⟩))

/-- The counter instructions on a slot of this part whose value its counter cache holds (R238, R243, R436), by a hart
that keeps no log: the add wakes the waiters it satisfies; a slot of a group that the hart may not use raises COUNTER
(R241). An add to a slot wakes exactly the waiters it satisfies (R242, R245): the slot holds the sum, its PFLAG is
clear, and a waiter of the slot stays registered only where the sum does not satisfy it; waiters of other slots stay.
Completes: CADD, CXADD, CRD, CTST. -/
def Obligations.SlotCounters : Prop :=
  (∀ (s : State) (w : Nat) (d a b : BitVec 6) (o : BitVec 2) (c : BitVec 3) (n k : Nat) (v : Word), ReadyA s w →
     s.h.logWho 2 = none → s.logFull s.h = false →
     (SlotRef s (s.reg a.toNat) n k v →
       let s1 := slotUsed s n k
       ((s.reg b.toNat).toNat < 2 ^ 32 →
         exec (.cadd a b o c) s = .next (addSlot s1 (slotKey n k) (s.reg b.toNat)).advance ∧
         exec (.cxadd d a b o c) s = .next ((addSlot s1 (slotKey n k) (s.reg b.toNat)).writeReg d v)) ∧
       (∃ t, exec (.crd d a o c) s = .next t ∧ Wrote s1 t w d v) ∧
       ∃ t, exec (.ctst d a b o c) s = .next t ∧ Wrote s1 t w d (if satisfied v (s.reg b.toNat) then 1 else 0)) ∧
     (refOf s (s.reg a.toNat) = .slot n k → groupOk s n k s.h.priv s.h.asid.toNat = false →
       exec (.crd d a o c) s = .next (takeTrap s ⟨false, causeCOUNTER, 10, 0, s.reg a.toNat⟩))) ∧
  (∀ (s : State) (key : Nat) (d : Word), SMap.wf none s.cc = true → SMap.wf false s.pflag = true → s.cfg.cont = false →
     (∀ w ∈ s.waiters, w.key = key → ∃ h, w.who = .stream h) →
     let t := addSlot s key d
     slotRaw t key = slotRaw s key + d ∧ SMap.get false t.pflag key = false ∧
       t.waiters = s.waiters.filter fun w => w.key != key || !satisfied (slotRaw s key + d) w.thr)

/-- CWAIT (R244 to R247, R438): a counter whose value satisfies the threshold ends it at once with status 0; a near
counter that does not, and a slot that does not while its tower's table has room, put the stream into WAIT; and one
taken up again after a park or a freeze ends with status 3. A wait ends (R245 to R247): a wake whose value satisfies the
threshold, a host-homed counter found to satisfy it, or the first test after a full table gives its status to the
destination and moves the stream on; the deadline gives status 1; where a stop is asked for, a first test that fails leaves the
stream waiting for that stop. Completes: CWAIT, CWAIT_WAKE, CWAIT_TIMEOUT,
CWAIT_FULL_POLL, HOST_COUNTER_POLL. The model’s own choices in it are those of log entries 99 and 100. -/
def Obligations.CounterWaits : Prop :=
  (∀ (s : State) (w : Nat) (d a b : BitVec 6) (c : BitVec 3) (p n k : Nat) (v : Word), ReadyA s w →
     let r := s.reg a.toNat
     let thr := s.reg b.toNat
     let gives := fun (s1 : State) (v : Word) => ∃ t, exec (.cwait d a b c) s = .next t ∧ Wrote s1 t w d v
     let deadline := if (s.reg d.toNat).toNat = 0 then 0 else s.cycle + (s.reg d.toNat).toNat
     let waits := ∃ t, exec (.cwait d a b c) s = .next t ∧ t.h.a = { s.h.a with
       st := .wait, wait := .cwait r thr d.toNat deadline, begun := true } ∧ t.mem = s.mem ∧ t.near = s.near
     (s.h.a.begun = true → s.h.a.wait = .none → gives s 3) ∧
     (s.h.a.begun = false → NearRef s r p → let v := nearVal s (nearKey s.h.id.tower s.h.id.core p)
       (satisfied v thr = true → gives s 0) ∧ (satisfied v thr = false → waits)) ∧
     (s.h.a.begun = false → SlotRef s r n k v → (satisfied v thr = true → gives (slotUsed s n k) 0) ∧
       (satisfied v thr = false → waitersAt s n < waiterRoom → waits))) ∧
  (∀ (s : State) (w : Nat) (r thr v : Word) (d dl at_ : Nat), s.onX = false → s.cfg.cont = false → s.h.parking = 0 →
     s.h.a.st = .wait → s.h.a.pos = .word w → s.h.loads = [] →
     let ends := fun (i : Instr) (st : Word) => ∃ t, exec i s = .next t ∧ t.h.a.st = .run ∧ t.h.a.wait = .none ∧
       t.h.a.begun = false ∧ t.h.a.regs = (s.h.a.setReg d st).regs ∧ t.mem = s.mem ∧
       (∀ x ∈ t.waiters, x.who ≠ .stream s.h.id) ∧ t.h.x = s.h.x
     (s.h.a.wait = .cwait r thr d dl →
       (satisfied v thr = true → ends (.cwaitWake s.h.id v) 0) ∧
       (0 < dl → dl ≤ s.cycle → ends (.cwaitTimeout s.h.id) 1) ∧
       ∀ h pa, refOf s r = .host h pa → satisfied (BitVec.ofNat 64 (readMem s.mem pa 8)) thr = true →
         ends (.hostCounterPoll s.h.id) 0) ∧
     (s.h.a.wait = .cwaitFull r thr d dl at_ → at_ ≤ s.cycle → ∀ n k v m, refOf s r = .slot n k →
       SMap.get none s.cc (slotKey n k) = some ⟨v, m⟩ →
       (satisfied v thr = true → ends (.cwaitFullPoll s.h.id) 0) ∧
       (satisfied v thr = false → s.h.req = none →
         ends (.cwaitFullPoll s.h.id) (if 0 < dl ∧ dl ≤ s.cycle then 1 else 2)) ∧
       (satisfied v thr = false → s.h.req ≠ none → ∃ t, exec (.cwaitFullPoll s.h.id) s = .next t ∧
         t.h.a = { s.h.a with wait := .cwaitFull r thr d dl (s.cycle + 4096) } ∧ t.mem = s.mem ∧ t.waiters = s.waiters)))

/-- ATOM and CAS (R440) at an aligned address of a line that nothing stands in the way of: the old value, zero-extended,
goes to the destination, memory takes the new value, and no other byte changes. The new value is the sum modulo 2^w, the
smaller or the larger as signed values, the and, the or, the exclusive or, the operand itself, or for CAS the operand where
the old value is the one expected and else the old value. An address that is not aligned raises ALIGN. Completes: ATOM_ADD, ATOM_MIN, ATOM_MAX, ATOM_AND, ATOM_OR, ATOM_XOR, ATOM_SWAP, CAS. -/
def Obligations.Atomics : Prop :=
  ∀ (s : State) (w : Nat) (d a b : BitVec 6) (o : BitVec 2) (c : BitVec 3) (e : BitVec 1) (x : Xlat), ReadyA s w → s.canon →
    let n := if e = 1 then 8 else 4
    let va := s.reg a.toNat
    let signed := fun (v : Nat) => (BitVec.ofNat (8 * n) v).toInt
    let forms : List (Instr × (Nat → Nat → Nat → Nat)) := [
      (.atomAdd d a b o c e, fun old v _ => (old + v) % 2 ^ (8 * n)),
      (.atomMin d a b o c e, fun old v _ => if signed v < signed old then v else old),
      (.atomMax d a b o c e, fun old v _ => if signed old < signed v then v else old),
      (.atomAnd d a b o c e, fun old v _ => old &&& v),
      (.atomOr d a b o c e, fun old v _ => old ||| v),
      (.atomXor d a b o c e, fun old v _ => old ^^^ v),
      (.atomSwap d a b o c e, fun _ v _ => v),
      (.cas d a b o c e, fun old v expected => if old = expected then v else old)]
    (va.toNat % n = 0 → guarded s va = false → s.logFull s.h = false → Plain s va .write x →
      (let rd := readLine s x.pa (pteKEY x.leaf) (pteLFMT x.leaf) s.h.who s.h.noL1
       logIfHome rd.2 (s.h.logWho 0) x va rd.1 = rd.2) →
      let old := s.seenWord x.pa n
      ∀ p ∈ forms, ∃ t, exec p.1 s = .next t ∧ OnlyBytes s t x.pa n ∧
        t.seenWord x.pa n = p.2 old ((s.reg b.toNat).toNat % 256 ^ n) ((s.reg d.toNat).toNat % 256 ^ n) ∧
        t.h.a.regs = (s.h.a.setReg d.toNat (BitVec.ofNat 64 old)).regs ∧ Passed s t w ∧ t.h.x = s.h.x) ∧
    (va.toNat % n ≠ 0 → ∀ p ∈ forms, exec p.1 s = .next (takeTrap s ⟨false, causeALIGN, 3, 0, va⟩))

/-- VATOM (R228, R440, R441): outside a handler, with its two entries there, room for the return and an aligned base, on
elements of its size that translate to lines of HBM4E held in a cache, VALID or UNINIT, with no write guard on them and no
undo record due. It performs every active element once by the table of R440: the word at each element’s place becomes what the
elements of that place make of it one after another, VATOM.oi in ascending order and VATOM in some order; every other byte
reads as before. It pops its two entries, and if asked pushes one of INT32 or INT64: element i is the old value that active
element i found, zero for an inactive one. Completes: VATOM, VATOM_OI. The model’s own choices in it are those of log entries 63
and 123. -/
def Obligations.VatomRuns : Prop :=
  ∀ (s : State) (w : Nat) (p m : BitVec 3) (a : BitVec 6) (q : BitVec 3) (u x : BitVec 1) (o : BitVec 2) (c : BitVec 3)
    (e : BitVec 1) (data idx : VReg) (es : List ElemAt) (rule : Nat → Nat → Nat), ReadyA s w → s.canon →
    SMap.wf Dir.none s.dir = true → SMap.wf DQueue.reset s.h.dq = true → s.h.th = false → (u = 1 → q.toNat < 6) →
    s.logFull s.h = false →
    let k := if e = 1 then 8 else 4
    let va := s.reg a.toNat
    let iq := 6 + x.toNat
    let dq := 13 - iq
    headEntry s.h dq = some data → headEntry s.h iq = some idx →
    (u = 1 → s.h.refill = none ∧ (s.h.queue q.toNat).entries.length < 8) →
    va.toNat % k = 0 → indexCause idx = none → elemSize data.fmt.toNat = 8 * k → vcBad data.vc = false →
    let n := Nat.min (Nat.min s.h.a.vl.toNat (s.h.bits / (8 * k))) (Nat.min (regCount s.h idx) (regCount s.h data))
    vatomReach (indexEls va idx (s.h.mask m.toNat) (8 * k) n) s = (.ok es, s) →
    (∀ y ∈ es, guarded s y.va = false ∧ Held s y.x.pa ∧ vcBad (tagVc (sideOf s y.x.pa).tag) = false ∧
      ∀ l, s.h.launch = some l → (dirOf s y.x.pa).l2 = true ∧ (dirOf s y.x.pa).mark = some (logMark s l)) →
    listAt (atomRules (8 * k)) p.toNat = some rule →
    let after := fun (done : List ElemAt) (pa : Nat) =>
      (done.filter fun y => y.x.pa == pa).foldl (fun old y => rule old (regCode data y.i)) (s.seenWord pa k)
    let runs := fun (i : Instr) (ordered : Bool) => ∃ t order r, exec i s = .next t ∧ order.Perm es ∧
      (ordered = true → order = es) ∧
      (∀ y ∈ es, t.seenWord y.x.pa k = after order y.x.pa) ∧
      (∀ b, (∀ y ∈ es, b < y.x.pa ∨ y.x.pa + k ≤ b) → t.seen b = s.seen b) ∧
      r.fmt.toNat = (if e = 1 then 5 else 4) ∧
      (∀ before y later, order = before ++ y :: later → regCode r y.i = after before y.x.pa) ∧
      (∀ j, j < s.h.bits / (8 * k) → (∀ y ∈ es, y.i ≠ j) → regCode r j = 0) ∧
      let popped := popEntry iq (popEntry dq s.h)
      let ret := popped.queue q.toNat
      Ran { s with
        mem := t.mem, side := t.side, dir := t.dir, draws := t.draws
        h := if u = 1 then popped.setQueue q.toNat { ret with entries := ret.entries ++ [⟨r, false, 0, 0⟩] } else popped } t w
    runs (.vatom p m a q u x o c e) false ∧ runs (.vatomOi p m a q u x o c e) true

/-! ## Engines, launches, CSRs (R79 to R95, R292 to R308, R320 to R324, R442 to R450) -/

/-- SLUICE and PANC issue (R292, R295, R301, R442): with its record read and well formed, its references permitted, its
pages pinned and their form right, and room in its queue, a command joins the queue of its unit. A SLUICE of less than 1 MiB
needs no leave: it takes the next sequence number, and the A-stream moves on. A larger one, and every PANC, asks the
governor of its tower or of its stack for its leave of the memory pool, 2 W, 12 W for GEMV and AXPBY, 4 W for FILL, and the A-stream
waits (R21, R22); once the leave is granted the instruction goes on with the command that it made, reads nothing again, takes
the next sequence number and moves on; until then it waits. A record that its engine rejects raises ENGREJECT.
RCODE issues (R307, R308, R442): in S mode, with its record and page list read and well formed, its leaves as they must
be and its frames apart, the job joins its tower’s recode queue; in U mode it raises PRIV. Completes: SLUICE, PANC,
RCODE. The model’s own choices in it are those of log entries 68, 71, 75 and 122. -/
def Obligations.EngineCommandsIssue : Prop :=
  (∀ (s : State) (w : Nat) (a : BitVec 6) (j : BitVec 4) (c : BitVec 3) (v : Nat), ReadyA s w → askedCmd s = none →
     s.logFull s.h = false → (s.reg a.toNat).toNat % 64 = 0 →
     let va := s.reg a.toNat
     let issued := fun (i : Instr) (s2 : State) (cmd : Cmd) => ∃ t, exec i s = .next t ∧ t.cmds = s2.cmds ++ [cmd] ∧
       t.nextCmd = s2.nextCmd + 1 ∧ t.h.slseq = (countCmd cmd s2.h).slseq ∧ t.mem = s2.mem ∧ t.rest = s2.rest
     let asks := fun (i : Instr) (s2 : State) (cmd : Cmd) (tower charge : Nat) => ∃ t, exec i s = .next t ∧
       t.cmds = s2.cmds ++ [{ cmd with asks := true }] ∧ t.nextCmd = s2.nextCmd + 1 ∧
       t.gov = SMap.upd Gov.reset s2.gov tower (fun g => { g with asked := g.asked ++ [⟨.inr cmd.id, charge, true⟩] }) ∧
       t.h.a.st = .wait ∧ t.h.a.wait = .leave ∧ t.h.a.pos = s2.h.a.pos ∧ t.h.slseq = s2.h.slseq ∧ t.h.panseq = s2.h.panseq ∧
       t.mem = s2.mem ∧ t.rest = s2.rest
     let room := fun (s2 : State) (cmd : Cmd) => (s2.cmds.filter fun d => sameQueue d cmd).length < 4
     (let rd := readRecord causeENGREJECT 4 va s
      let r := shapeOf v
      let pin := pinShape r rd.2
      let s2 := pin.2
      rd.1 = .ok v → shapeOk v rd.2.h.priv = true → doneOk rd.2 r.prog = true → ∀ m, pin.1 = .ok m →
      shapePagesOk r m = true →
      let cmd := newCmd s2 (.sluice r) j.toNat (SMap.get 0#32 s2.h.slseq j.toNat) c.toNat m r.prog s2.h.id.tower
      room s2 cmd → (r.total < 2 ^ 20 → issued (.sluice a j c) s2 cmd) ∧
        (2 ^ 20 ≤ r.total → asks (.sluice a j c) s2 cmd s2.h.id.tower 16)) ∧
     (let rd := readRecord causeENGREJECT 4 va s
      rd.1 = .ok v → (shapeOk v rd.2.h.priv && doneOk rd.2 (shapeOf v).prog) = false → rd.2.onX = false →
      exec (.sluice a j c) s = .next (takeTrap rd.2 ⟨false, causeENGREJECT, 9, 0, va⟩)) ∧
     (let rd := readRecord causeENGREJECT 1 va s
      let r := panOf v
      let p1 := pinOperand (if r.opc = 1 then .read else .write) r.w r.counts.1 [] rd.2
      rd.1 = .ok v → panOk v = true → doneOk rd.2 r.done = true → ∀ ww m1, p1.1 = .ok (ww, m1) →
      let p2 := pinOperand .read r.x r.counts.2.1 m1 p1.2
      ∀ wx m2, p2.1 = .ok (wx, m2) →
      let p3 := pinOperand .write r.y r.counts.2.2 m2 p2.2
      ∀ wy m3, p3.1 = .ok (wy, m3) → panPagesOk r m3 ww wx wy = true →
      let stack := stackOf (pinned m3 r.w).pa
      let cmd := newCmd p3.2 (.pan r) 0 p3.2.h.panseq c.toNat m3 r.done stack
      room p3.2 cmd → asks (.panc a c) p3.2 cmd (stack / 2) (if r.opc = 3 then 32 else 96))) ∧
  (∀ (s : State) (w : Nat) (a : BitVec 6) (j : BitVec 4) (c : BitVec 3) (cmd : Cmd), ReadyA s w → askedCmd s = some cmd →
     ∀ i ∈ [Instr.sluice a j c, .panc a c],
       (leaveHeld s cmd.id = true → ∃ t, exec i s = .next t ∧ Ran { s with
         cmds := s.cmds.map fun d => if d.id = cmd.id then { d with asks := false } else d
         h := countCmd cmd s.h } t w) ∧
       (leaveHeld s cmd.id = false → exec i s = .next (s.stall .wait .leave))) ∧
  (∀ (s : State) (w : Nat) (a : BitVec 6) (c : BitVec 3) (v : Nat), ReadyA s w → askedCmd s = none →
     let va := s.reg a.toNat
     let rd := readRecord causeENGREJECT 1 va s
     let l := readList (fieldOf v 63 32) (BitVec.ofNat 64 (v >>> 64)) rd.2
     (s.h.priv = true → va.toNat % 64 = 0 → rd.1 = .ok v → recodeOk v = true → doneOk rd.2 (recodeOf v []).done = true →
       ∀ ps, l.1 = .ok ps → pagesAscend 0 ps = true →
       let r := recodeOf v ps
       framesApart (65536 / 2 ^ r.tcr) (ps.map fun p => p.2) = true →
       let lv := recodeLeaves l.2.h.id.tower r r.pages [] l.2
       ∀ m, lv.1 = .ok m → meetsSource r m = false →
       let cmd := newCmd lv.2 (.recode r .queued []) 0 lv.2.h.rcseq c.toNat m r.done lv.2.h.id.tower
       (lv.2.cmds.filter fun d => sameQueue d cmd).length < 16 →
       ∃ t, exec (.rcode a c) s = .next t ∧ t.cmds = lv.2.cmds ++ [cmd] ∧ t.mem = lv.2.mem) ∧
     (s.h.priv = false →
       exec (.rcode a c) s = .next (takeTrap s ⟨false, causePRIV, 0, 0, (encode (.rcode a c)).setWidth 64⟩)))

/-- LAUNCH and CANCEL (R79 to R83, R443, R444): a record that is accepted takes a FREE entry, whose handle the
destination receives with code 0; CANCEL of a launch that has not started frees it with status 0, of one that has kills
it with status 1, of a handle that names none gives 2, and of another tenant's in U mode gives 3 and changes nothing.
STRIP (R95, R439): a task whose launch has no strips gets −1; with a claim counter in a near counter or a slot, each
claim adds one to it and gives the claim's number past the launch's base, or −1 past the last strip. Completes: LAUNCH,
CANCEL, STRIP. The model’s own choices in it are those of log entry 97. -/
def Obligations.LaunchesAndStrips : Prop :=
  (∀ (s : State) (w : Nat) (d a : BitVec 6), ReadyA s w →
     let handle := (s.reg a.toNat).toNat % 2 ^ 32
     let e := s.entry (handle % 4096)
     let named := e.gen.toNat = handle / 4096 % 2 ^ 20 ∧ e.state ≠ .free
     let gives := fun (s1 : State) (v : Word) => exec (.cancel d a) s = .next (s1.writeReg d v)
     (∀ v h s2, (s.reg a.toNat).toNat % 128 = 0 →
       let rd := readRecord causePOISONED 2 (s.reg a.toNat) s
       rd.1 = .ok v → acceptLaunch rd.2 v (issuerOf rd.2) = (0, h, s2) →
       exec (.launch d a) s = .next (s2.writeReg d (BitVec.ofNat 64 h.toNat)) ∧
       (rd.2.entry (h.toNat % 4096)).state = .free) ∧
     (named → cancelRefused s handle = true → gives s 3) ∧
     (cancelRefused s handle = false → (e.state = .waiting ∨ e.state = .ready) → named →
       gives (dropUnstarted s (handle % 4096)) 0) ∧
     (cancelRefused s handle = false → e.state ≠ .waiting → e.state ≠ .ready → named →
       gives (killLaunch s (handle % 4096)) 1) ∧
     (¬ named → gives s 2)) ∧
  (∀ (s : State) (w : Nat) (d : BitVec 6), ReadyA s w →
     ((∀ l, s.h.launch = some l → (s.entry l).recd.strips = 0) →
       ∃ t, exec (.strip d) s = .next t ∧ Wrote s t w d (BitVec.allOnes 64)) ∧
     ∀ l v s1, s.h.launch = some l → (s.entry l).recd.strips ≠ 0 →
       counterOp s (s.entry l).recd.claim (.xadd 1) = (.ok v, s1) →
       let i := v - (s.entry l).base
       let r := if i.toNat < (s.entry l).recd.strips.toNat then i else BitVec.allOnes 64
       let s2 := settleEntry s1 l
       exec (.strip d) s = .next ({ s2 with h := { s2.h with strip := r } }.writeReg d r))

/-- What the CSRs of a hart read (R320 to R323, R448). What writing the CSRs of a hart does, with the old value to the
destination (R175, R182, R194, R260, R448): xflags and xtrapen take their bits, tvec clears its low two bits, vl is cut
to VLMAX; CSRS sets and CSRC clears the bits of the source, CSRWI writes its immediate; a read-only CSR keeps its value;
an undefined format code raises ILLEGAL_FMT. Which CSRs a stream may name (R320, R321, R334): a number that Table 2 does
not give is a reserved operand; one of S mode in U mode, and one of core 64 elsewhere, raises PRIV; the X-stream may
name only the first six, and any other raises ILLEGAL_STREAM there. That it does so for a number that Table 2 does not give is
the model’s choice, log entry 76 (DEDUCED from the order of R334). Completes: CSRR, CSRW, CSRS, CSRC, CSRWI. -/
def Obligations.CsrInstructions : Prop :=
  (∀ (s : State) (w : Nat) (d : BitVec 6), ReadyA s w →
     ∀ p ∈ [(0x000#12, s.h.a.vl.setWidth 64), (0x001#12, s.h.a.vfmt.setWidth 64), (0x005#12, s.h.xflags.setWidth 64),
       (0x010#12, s.h.xtrapen.setWidth 64), (0x020#12, s.h.tvec), (0x021#12, s.h.tcause), (0x022#12, s.h.tval),
       (0x023#12, if s.h.th then 1 else 0), (0x024#12, s.h.csa), (0x025#12, s.h.sfrqcnt.setWidth 64),
       (0x030#12, s.h.asid.setWidth 64), (0x033#12, BitVec.ofNat 64 s.h.id.group), (0x040#12, s.h.win.setWidth 64)],
       ∃ t, exec (.csrr d p.1) s = .next t ∧ Wrote s t w d p.2) ∧
  (∀ (s : State) (w : Nat) (d a i : BitVec 6), ReadyA s w →
     let v := s.reg a.toNat
     let gives := fun (i : Instr) (h : Hart) (old : Word) =>
       ∃ t, exec i s = .next t ∧ Wrote { s with h := h } t w d old
     let flags := s.h.xflags
     let len := Nat.min v.toNat (vlmax s.h.joined s.h.a.vfmt.toNat)
     let tv := v &&& ~~~3#64
     gives (.csrw d a 0x005) { s.h with xflags := v.setWidth 6 } (flags.setWidth 64) ∧
     gives (.csrs d a 0x005) { s.h with xflags := flags ||| v.setWidth 6 } (flags.setWidth 64) ∧
     gives (.csrc d a 0x005) { s.h with xflags := flags &&& ~~~(v.setWidth 6) } (flags.setWidth 64) ∧
     gives (.csrwi d i 0x005) { s.h with xflags := i } (flags.setWidth 64) ∧
     gives (.csrw d a 0x010) { s.h with xtrapen := v.setWidth 3 } (s.h.xtrapen.setWidth 64) ∧
     gives (.csrw d a 0x020) { s.h with tvec := tv } s.h.tvec ∧
     gives (.csrw d a 0x000) { s.h with a := { s.h.a with vl := BitVec.ofNat 13 len } } (s.h.a.vl.setWidth 64) ∧
     (∀ p ∈ [(0x021#12, s.h.tcause), (0x024#12, s.h.csa), (0x030#12, s.h.asid.setWidth 64)],
       gives (.csrw d a p.1) s.h p.2) ∧
     (fmtDefined (v.toNat % 32) = false → exec (.csrw d a 0x001) s =
       .next (takeTrap s ⟨false, causeILLEGAL_FMT, 0, 0, BitVec.ofNat 64 (v.toNat % 32)⟩))) ∧
  (∀ (s : State) (w : Nat) (d a : BitVec 6) (c : BitVec 12),
     let traps := fun (onX : Bool) (cause : Nat) => ∀ i ∈ [Instr.csrr d c, .csrw d a c, .csrs d a c, .csrc d a c],
       exec i s = .next (takeTrap s ⟨onX, cause, 0, 0, (encode i).setWidth 64⟩)
     (ReadyA s w → csrPriv c.toNat = none → traps false causeILLEGAL_OP) ∧
     (ReadyA s w → csrPriv c.toNat = some 1 → s.h.priv = false → traps false causePRIV) ∧
     (ReadyA s w → csrPriv c.toNat = some 2 → (s.h.priv && s.h.id.core == 64) = false → traps false causePRIV) ∧
     (ReadyX s w → 6 ≤ c.toNat → traps true causeILLEGAL_STREAM))

/-- The writes of the data CSRs of the service harts (R81, R136, R189, R241, R299, R323), as events of the hart that
makes them: a key takes a new version, and key 0 cannot be written; a QUANTUM of 0 leaves QUANTUM, and the tenant's
deficits come down to twice the new QUANTUM (R92); a peer entry takes NODE and its other field, but a NODE of 0xFFF
leaves NODE; each touches its own entry and no other. Completes: KEYHI_WRITE, CGDAT_WRITE, TENDAT_WRITE, PEERDAT_WRITE,
FLAPP_WRITE, CFGDAT_WRITE. The model’s own choices in it are those of log entry 96. -/
def Obligations.ServiceCsrWrites : Prop :=
  ∀ (s : State) (v : BitVec 64),
    (s.h.keyidx = 0 → exec (.keyhiWrite v) s = .next s) ∧
    (s.h.keyidx ≠ 0 → ∃ t, exec (.keyhiWrite v) s = .next t ∧ t = { s with keys := t.keys } ∧
      (SMap.wf (none, 0) s.keys = true → ∀ k, SMap.get (none, 0) t.keys k =
        if k = s.h.keyidx.toNat then (some (v ++ s.keylo), keyVersion s k + 1) else SMap.get (none, 0) s.keys k)) ∧
    (∃ t, exec (.cgdatWrite v) s = .next t ∧ t = { s with cgroup := t.cgroup } ∧
      t.cgroup = SMap.set 0#64 s.cgroup s.h.cgidx.toNat (v &&& 0x7FFFF#64)) ∧
    (∃ t, exec (.tendatWrite v) s = .next t ∧ t = { s with tencfg := t.tencfg, deficit := t.deficit } ∧
      (SMap.wf tencfgReset s.tencfg = true → SMap.wf 0 s.deficit = true →
        (∀ tw n, tw < 8 → n < 128 → SMap.get 0 t.deficit (128 * tw + n) =
          if n = s.h.tenidx.toNat then
            Min.min (SMap.get 0 s.deficit (128 * tw + n)) ((2 * tenQuantum (t.tenant n) * 65536 : Nat) : Int)
          else SMap.get 0 s.deficit (128 * tw + n)) ∧
        (∀ k, k ≠ s.h.tenidx.toNat → t.tenant k = s.tenant k) ∧
        let old := tenQuantum (s.tenant s.h.tenidx.toNat)
        let new := t.tenant s.h.tenidx.toNat
        tenQuantum new = (if tenQuantum v.toNat = 0 then old else tenQuantum v.toNat) ∧ tenEn new = tenEn v.toNat ∧
        tenCeil new = tenCeil v.toNat ∧ tenAge new = tenAge v.toNat ∧ tenCap new = tenCap v.toNat)) ∧
    (∃ t, exec (.peerdatWrite v) s = .next t ∧ t = { s with peermap := t.peermap } ∧
      (SMap.wf 0#64 s.peermap = true →
        (∀ k, k ≠ s.h.peeridx.toNat → SMap.get 0#64 t.peermap k = SMap.get 0#64 s.peermap k) ∧
        let old := SMap.get 0#64 s.peermap s.h.peeridx.toNat
        let new := SMap.get 0#64 t.peermap s.h.peeridx.toNat
        new.toNat % 4096 = (if v.toNat % 4096 = 0xFFF then old.toNat % 4096 else v.toNat % 4096) ∧
          new.getLsbD 12 = v.getLsbD 12 ∧ new.toNat < 8192)) ∧
    exec (.flappWrite v) s = .next (setFlapp s (fieldOf v.toNat 51 12)) ∧
    (∀ s1, aliasWrite s (8 * s.h.cfgoff.toNat) v = some s1 → exec (.cfgdatWrite v) s = .next s1)

/-! ## Exceptions and services (R252 to R266, R277, R443 to R450) -/

/-- Taking an exception (R257, R260, R262, R264): with nothing in flight and outside a handler, a hart whose tvec is not
0 stops its X-stream, sets TH, tcause and tval, and its A-stream enters the handler; its registers, masks, tiles, queues
and scratchpad are as they were. With tvec 0 or TH 1 the cause is fatal: a hart without a launch stops, and a launch is
killed. ERET (R266, R450): in a handler, with nothing in flight, it clears TH and the count of store-fault records and
resumes the streams from the trap record and the registers that the task's save area holds; outside a handler it is a
reserved instruction. Completes: ERET. The model’s own choices in it are those of log entry 43. -/
def Obligations.ExceptionsAndReturn : Prop :=
  (∀ (s : State) (c : Cause), s.h.loads = [] → s.h.stores = [] → s.h.sfrq = [] → s.h.xl = [] → c.code ≠ causeSTORE →
     let t := takeTrap s c
     (s.h.th = false → s.h.tvec ≠ 0 → t.onX = false ∧ t.h.th = true ∧ t.h.tcause = causeWord c false ∧
       t.h.tval = c.tval ∧ t.h.sfrqcnt = 0 ∧
       t.h.a.st = .run ∧ t.h.a.pos = .enter s.h.tvec s.h.tvec none ∧ t.h.a.wait = .none ∧ t.h.a.regs = s.h.a.regs ∧
       t.h.x.st = .stopped ∧ t.h.x.pos = s.h.x.pos ∧ t.h.x.regs = s.h.x.regs ∧ t.h.refill = none ∧ t.h.aprog = 0 ∧
       t.h.v = s.h.v ∧ t.h.m = s.h.m ∧ t.h.tiles = s.h.tiles ∧ t.h.dq = s.h.dq ∧ t.h.qx = s.h.qx ∧ t.h.qa = s.h.qa ∧
       t.h.sp = s.h.sp ∧ t.h.xflags = s.h.xflags ∧ t.h.tvec = s.h.tvec ∧ t.h.priv = s.h.priv ∧
       (s.h.launch = none → t.mem = s.mem ∧ t.rest = s.rest)) ∧
     (s.h.th = true ∨ s.h.tvec = 0 →
       (s.h.launch = none → t.h.a.st = .idle ∧ t.h.x.st = .idle ∧ t.h.tcause = causeWord c false ∧ t.mem = s.mem) ∧
       ∀ l, s.h.launch = some l → ∃ s1, t = killLaunch s1 l ∧ s1.h.th = true ∧ s1.h.tcause = causeWord c false)) ∧
  (∀ (s : State) (w : Nat) (l : Nat), ReadyA s w →
     (s.h.th = true → s.h.launch = some l →
       let r := areaGet l s (s.h.csa.toNat + 0x200) 8
       let g := areaGet l r.2 (s.h.csa.toNat + 0x1000) 8
       ∃ t, exec .eret s = .next t ∧ t.h.th = false ∧ t.h.sfrqcnt = 0 ∧ t.mem = g.2.mem ∧ t.h.v = g.2.h.v ∧
         t.h.tvec = g.2.h.tvec ∧ t.h.a.regs = unpackRegs g.1 ∧
         t.h.aprog = (if bitsAt r.1 1984 1 = 1 then 0 else bitsAt r.1 528 16) ∧
         (bitsAt r.1 1984 1 = 1 → t.h.a.pos = 
           .enter (BitVec.ofNat 64 (bitsAt r.1 192 64)) (BitVec.ofNat 64 (bitsAt r.1 192 64)) none ∧ t.h.a.st = .run) ∧
         (bitsAt r.1 1986 1 = 1 → t.h.x.st = .idle)) ∧
     (s.h.th = false → exec .eret s = .next (takeTrap s ⟨false, causeILLEGAL_OP, 0, 0, (encode .eret).setWidth 64⟩)))

/-- PTSET and PTGET (R445): a permitted entry is written and status 0 given; an entry of an undefined format, or of a
reserved action, is not written and status 1 is given; a result format that is not defined raises ILLEGAL_FMT. PTGET
reads eight entries. The TLBI forms (R163, R164, R449) in S mode with nothing in flight: the translations they name
leave the TLBs and the walk caches, and the A-stream moves on; with X(D) not 0 the add that it asks for is noted, with
the engine commands and the vector loads that still use a translation removed, which it waits for; in U mode each raises
PRIV. Completes: TLBI_VA, TLBI_ASID, TLBI_ALL, PTSET, PTGET. -/
def Obligations.PromotionAndTranslation : Prop :=
  (∀ (s : State) (w : Nat) (d a b : BitVec 6), ReadyA s w →
     let k := (s.reg a.toNat).toNat % 1024
     let e := (s.reg b.toNat).toNat % 256
     let good := fmtDefined (k / 32) = true ∧ fmtDefined (k % 32) = true ∧ e / 32 < 3
     (good → (e / 32 = 0 ∨ fmtDefined (e % 32) = true) → ∃ t, exec (.ptset d a b) s = .next t ∧
       Wrote { s with h := { s.h with pt := t.h.pt } } t w d 0 ∧
       ∀ j, j < 1024 → ptByte t.h.pt j = if j = k then (if e / 32 = 0 then 0 else e) else ptByte s.h.pt j) ∧
     (¬ good → ∃ t, exec (.ptset d a b) s = .next t ∧ Wrote s t w d 1) ∧
     (good → e / 32 ≠ 0 → fmtDefined (e % 32) = false → exec (.ptset d a b) s =
       .next (takeTrap s ⟨false, causeILLEGAL_FMT, 0, 0, BitVec.ofNat 64 (e % 32)⟩)) ∧
     ∃ t v, exec (.ptget d a) s = .next t ∧ Wrote s t w d v ∧
       ∀ j, j < 8 → (v.extractLsb' (8 * j) 8).toNat = ptByte s.h.pt (8 * fieldOf (s.reg a.toNat).toNat 9 3 + j)) ∧
  (∀ (s : State) (w : Nat) (d a b : BitVec 6), ReadyA s w →
     let forms := [(Instr.tlbiVa d a b, TlbiKind.va ((s.reg b.toNat).toNat % 65536) ((s.reg a.toNat).toNat / 65536 * 65536)),
       (.tlbiAsid d b, .asid ((s.reg b.toNat).toNat % 65536)), (.tlbiAll d, .all)]
     (s.h.priv = true → doneOk s (s.reg d.toNat) = true → ∀ p ∈ forms, ∃ t, exec p.1 s = .next t ∧
       Ran { s with tlb := t.tlb, pwc := t.pwc, tlbis := t.tlbis } t w ∧
       (∀ e, e ∈ t.tlb ↔ e ∈ s.tlb ∧ tlbiHits p.2 e = false) ∧ (∀ e ∈ t.pwc, pwcHits p.2 e = false) ∧
       t.tlbis = if s.reg d.toNat = 0 then s.tlbis else s.tlbis ++ [⟨s.h.id, s.h.priv, s.h.asid, s.reg d.toNat, s.h.launch,
         nearOwner s (s.reg d.toNat), (s.cmds.filter fun c => pinHit p.2 c).map fun c => c.id, loadsHit s p.2⟩]) ∧
     (s.h.priv = false → ∀ p ∈ forms, exec p.1 s = .next (takeTrap s ⟨false, causePRIV, 0, 0, (encode p.1).setWidth 64⟩)))

/-- SCALL and SCALL.NB (R62 to R64, R447): with a REPLY that the caller may use, room in its tower's ring and the counters
concerned in the counter cache, the call record is published in the slot of its ticket; SCALL.NB gives 0. Where the ring is full, SCALL.NB gives 4 and SCALL
waits for CALLHEAD (`waitSpace`). WMARK (R277, R278, R446): a hart without a launch reads its window number; a task's,
with its engines done and its log with room, writes its snapshot and waits for the collective; one taken up after the
collective gives the window, which its win then holds; and where its log has no room it raises LOGFULL with tval 0.
Completes: SCALL, SCALL_NB, WMARK. The model’s own choices in it are those of log entries 58, 91, 92 and 95. -/
def Obligations.ServiceCallsAndMarks : Prop :=
  (∀ (s : State) (w : Nat) (d a b : BitVec 6) (v : Nat), ReadyA s w → b ≠ 0 → (s.reg b.toNat).toNat % 16 = 0 →
     scalarLoad s (s.reg b.toNat) 48 = (.ok v, s) → replyOk s (BitVec.ofNat 64 (v / 2 ^ 256)) = true →
     let tw := s.h.id.tower
     let ticket := ownCounter s tw 8
     let ring := SMap.set 0#512 s.cfg.callring (256 * tw + ticket % 256)
       (callRecord s.h ticket ((s.reg a.toNat).toNat % 65536) v)
     let held := fun (n k : Nat) => (SMap.get none s.cc (slotKey n k)).isSome = true
     (ringFull s tw = false → SMap.wf none s.cc = true → held tw 8 → held tw 9 →
       (∃ t, exec (.scallNb d a b) s = .next t ∧ t.cfg.callring = ring ∧
         t.h.a.regs = (s.h.a.setReg d.toNat 0).regs ∧ Passed s t w ∧ t.mem = s.mem) ∧
       (s.h.a.begun = false → (∀ n k, refOf s (BitVec.ofNat 64 (v / 2 ^ 256)) = .slot n k → held n k) →
         ∃ t, exec (.scall d a b) s = .next t ∧ t.cfg.callring = ring ∧ (s.h.launch = none → t.mem = s.mem))) ∧
     (ringFull s tw = true → (∃ t, exec (.scallNb d a b) s = .next t ∧ Wrote s t w d 4) ∧
       (s.h.a.begun = false → exec (.scall d a b) s = .next (waitSpace s)))) ∧
  (∀ (s : State) (w : Nat) (d : BitVec 6) (l : Nat), ReadyA s w → s.h.th = false →
     (s.h.launch = none → ∃ t, exec (.wmark d) s = .next t ∧ Wrote s t w d (s.h.win.setWidth 64)) ∧
     (s.h.launch = some l → s.h.a.begun = false → wmarkFull s l = false → enginesOut s l = false →
       exec (.wmark d) s = .next (waitOn (.wmark d.toNat) (appendSnap s d.toNat))) ∧
     (s.h.launch = some l → s.h.a.begun = true → (s.entry l).undo.arrived.contains s.h.tn = false →
       let win := (s.entry l).undo.win
       ∃ t, exec (.wmark d) s = .next t ∧ Wrote { s with h := { s.h with win := win } } t w d (win.setWidth 64)) ∧
     (s.h.launch = some l → s.h.a.begun = false → wmarkFull s l = true →
       exec (.wmark d) s = .next (takeTrap s ⟨false, causeLOGFULL, 0, 0, 0⟩)))

/-! ## What happens beside the instructions (R18 to R26, R97 to R100, R147 to R151, R245 to R287) -/

/-- What the caches do beside the instructions (R147 to R151, R157, R190, R251): an L2 line or a line of the snoop
filter leaves every cache, its check field made afresh if it was dirty and no other line's changed; a host's snoop
empties the RDCs; a request for ownership leaves the one copy with its core; none of these changes a byte of memory. A
counter leaves the counter cache for its slot, and no byte beyond the slot changes, nor any beyond its line where a
correction of that line is due. A walk that ends leaves what it filled: the entry that it read keeps every bit, with A
set, and no other byte changes. Completes: WALK_COMPLETE, HOME_REQUEST, L2_EVICTION,
SNOOP_FILTER_EVICTION, COUNTER_CACHE_EVICTION, HOST_SNOOP. The model’s own choices in it are those of log entries 31 and
108. -/
def Obligations.CacheEvents : Prop :=
  ∀ (s : State) (pa tower core key slot va asid : Nat), s.cfg.cont = false → SMap.wf Dir.none s.dir = true →
    let leaves := fun (i : Instr) => ∃ t, exec i s = .next t ∧ t = { s with dir := t.dir, side := t.side } ∧
      dirOf t pa = Dir.none ∧ (∀ a, a / 64 ≠ pa / 64 → dirOf t a = dirOf s a) ∧
      ((dirOf s pa).dirty = false → t.side = s.side) ∧
      ((dirOf s pa).dirty = true → SMap.wf Side.reset s.side = true →
        let k := (dirOf s pa).key
        sideOf t pa = { sideOf s pa with chk := .fresh k (keyVersion s k) (keyValue s k) } ∧
          ∀ a, a / 64 ≠ pa / 64 → sideOf t a = sideOf s a)
    (pa < hbmSize → (dirOf s pa).l2 = true → leaves (.l2Eviction pa)) ∧
    (snooped s pa = true → leaves (.snoopFilterEviction pa)) ∧
    (∀ h, regionOf s pa = .host h → ∃ t, exec (.hostSnoop pa) s = .next t ∧ t = { s with dir := t.dir } ∧
      dirOf t pa = { dirOf s pa with rdc := [] }) ∧
    (Held s pa → inCounterStore pa = false → ∃ t, exec (.homeRequest pa tower core key true) s = .next t ∧
      t = { s with dir := t.dir } ∧ (dirOf t pa).l1 = [(tower, core, L1St.e)] ∧ (dirOf t pa).rdc = []) ∧
    (∀ e, tower < 8 → slot < 2 ^ 20 → (∀ w ∈ s.waiters, w.key ≠ slotKey tower slot) → s.canon →
      SMap.wf none s.cc = true → SMap.get none s.cc (slotKey tower slot) = some e →
      let at_ := slotAddr (slotKey tower slot)
      ∃ t, exec (.counterCacheEviction tower slot) s = .next t ∧ SMap.get none t.cc (slotKey tower slot) = none ∧
        readMem t.mem at_ 8 = e.value.toNat ∧ t.h = s.h ∧ t.rest = s.rest ∧
        (∀ a, a / 64 ≠ at_ / 64 → t.seen a = s.seen a) ∧
        ((∀ j data tag, checkOf s at_ 0 ≠ .corrected j data tag) → OnlyBytes s t at_ 16)) ∧
    (∀ r s1, walkFill s ⟨tower, some core⟩ asid va false = (r, s1) →
      exec (.walkComplete tower core asid va) s = .next s1) ∧
    (∀ e s1, walk s tower asid va = (.error e, s1) → exec (.walkComplete tower core asid va) s = .next s1) ∧
    (∀ l s1, s.canon → walk s tower asid va = (.ok l, s1) → s1.mem = s.mem → s1.side = s.side →
      ∃ t, exec (.walkComplete tower core asid va) s = .next t ∧
        (l.e &&& 64 = 64 → t.mem = s.mem ∧ t.side = s.side) ∧
        (l.e &&& 64 ≠ 64 → Held s1 l.at_ → tagVc (sideOf s1 l.at_).tag = .valid → l.at_ % 8 = 0 →
          s1.seenWord l.at_ 8 = l.e → OnlyBytes s t l.at_ 8 ∧ t.seenWord l.at_ 8 = l.e ||| 64))

/-- The governors (R18 to R26): a leave goes to the longest waiter, whose stream goes on; a duty is 256 while the
charges lie within the allowance, and an update that leaves one below 256 sets THROT (log 148); the thermal allowance falls by a sixteenth a step while the tower is hot, stays from 1
to 16, and is 1 with TCRIT set when it reaches the critical temperature; the active host sets PWRCAP within its range
and clears the flags with ones. Completes: LEAVE_GRANT, DUTY_UPDATE, THERMAL_STEP, THERMAL_CRITICAL, PWRCAP_WRITE,
GOVSTAT_WRITE. The model’s own choices in it are those of log entries 83, 86, 109 and 148. -/
def Obligations.GovernorEvents : Prop :=
  ∀ (s : State) (k temp : Nat) (host : HostId) (v : BitVec 64), k < 8 → SMap.wf Gov.reset s.gov = true →
    (∀ l rest, s.cfg.cont = false → (s.governor k).asked = l :: rest → l.who = .inl s.h.id →
      ∃ t, exec (.leaveGrant k) s = .next t ∧ (t.governor k).asked = rest ∧
        (t.governor k).held = (s.governor k).held ++ [l] ∧ t.h = { s.h with x := leaveCame s.h.x, mkLV := true } ∧ t.mem = s.mem) ∧
    (∃ t, exec (.dutyUpdate k) s = .next t ∧ t = { s with gov := t.gov } ∧
      (∀ j, j ≠ k → t.governor j = s.governor j) ∧
      (chargeSum (s.governor k) false * (16 * 32) ≤ 1400 * (s.governor k).allow * s.cfg.pwrcap.toNat →
        (t.governor k).mduty = 256) ∧
      (chargeSum (s.governor k) true * 32 ≤ 560 * s.cfg.pwrcap.toNat → (t.governor k).sduty = 256) ∧
      ((t.governor k).mduty < 256 ∨ (t.governor k).sduty < 256 → (t.governor k).throt = true) ∧
      1 ≤ (t.governor k).mduty ∧ (t.governor k).mduty ≤ 256) ∧
    (115 ≤ temp → (s.governor k).temp < 115 → exec (.thermalStep k temp) s = exec (.thermalCritical k temp) s) ∧
    (temp < 115 ∨ 115 ≤ (s.governor k).temp → 1 ≤ (s.governor k).allow → (s.governor k).allow ≤ 16 →
     ∃ t, exec (.thermalStep k temp) s = .next t ∧
      t = { s with gov := t.gov } ∧ (t.governor k).temp = temp ∧
      (105 ≤ temp → (t.governor k).hot = true ∧ (t.governor k).allow = Nat.max 1 ((s.governor k).allow - 1)) ∧
      (temp < 100 → (t.governor k).hot = false ∧ (t.governor k).allow = Nat.min 16 ((s.governor k).allow + 1))) ∧
    (115 ≤ temp → ∃ t, exec (.thermalCritical k temp) s = .next t ∧ (t.governor k).allow = 1 ∧
      (t.governor k).tcrit = true) ∧
    (isActive s (.host host) = true → leaseOver s = false → s.cfg.cont = false → s.cfg.phase ≠ 15 →
      (16 ≤ v.toNat % 64 → v.toNat % 64 ≤ 32 → ∃ t, exec (.pwrcapWrite host v) s = .next t ∧
        t = { s with cfg := { s.cfg with pwrcap := BitVec.ofNat 6 v.toNat } })) ∧
    (s.cfg.phase ≠ 15 → leaseOver s = false → ∃ t, exec (.govstatWrite host k v) s = .next t ∧ t = { s with gov := t.gov } ∧
      (t.governor k).throt = ((s.governor k).throt && !v.getLsbD 52) ∧
      (t.governor k).tcrit = ((s.governor k).tcrit && !v.getLsbD 53))

/-- Contexts and remote waits (R163, R245 to R247, R278, R287): a collective whose tasks have all arrived completes; a
rewind whose context holds no slot runs; a waiter that a full table turned away registers; a wake from a peer reaches
the stream or the start condition whose wait its token numbers, that wait is over, and a wake whose wait has ended is
discarded; and a complete TLBI makes its add. A window collective (R278): every task's A-stream that waits in WMARK goes
on with the new window number, and the arrivals are taken back. Completes: TLBI_COMPLETION_ADD, REMOTE_WAKE,
WAITER_POLL, WMARK_COLLECTIVE_COMPLETE, REWIND. The model’s own choices in it are those of log entries 8 and 99. -/
def Obligations.ContextEvents : Prop :=
  (∀ (s : State) (l : Nat), s.cfg.cont = false →
     (collectiveReady s l = true → exec (.wmarkCollectiveComplete l) s = .next (completeCollective s l)) ∧
     (rewindReady s l = true → exec (.rewind l) s = .next (runRewind s l)) ∧
     (registered s (.interrupt l) = false → irqArmed s l = true →
       exec (.waiterPoll (.interrupt l)) s = .next (armIrq s l)) ∧
     (∀ k w v, s.remote.find? (fun w => w.token == k) = some w →
       (∀ id, w.who = .stream id → exec (.remoteWake k v) s = .next ((takeRemote s k).later [.cwaitWake id v])) ∧
       (∀ n j, w.who = .start n j → exec (.remoteWake k v) s = .next (condMet (takeRemote s k) n j)) ∧
       ∀ x ∈ (takeRemote s k).remote, x.token ≠ k) ∧
     (∀ k v, s.remote.find? (fun w => w.token == k) = none → exec (.remoteWake k v) s = .next s) ∧
     (∀ p rest, readyTlbi s [] s.tlbis = some (p, rest) →
       exec .tlbiCompletionAdd s = .next (tlbiAdd { s with tlbis := rest } p))) ∧
  (∀ (s : State) (l w d : Nat), s.cfg.cont = false → collectiveReady s l = true → s.h.launch = some l →
     SMap.wf LEntry.reset s.entries = true → s.h.a.st = .wait → s.h.a.wait = .wmark d → s.h.a.pos = .word w →
     let win := (s.entry l).undo.win + 1
     ∃ t, exec (.wmarkCollectiveComplete l) s = .next t ∧ (t.entry l).undo.win = win ∧ (t.entry l).undo.arrived = [] ∧
       t.h.win = win ∧ t.h.a.st = .run ∧ t.h.a.regs = (s.h.a.setReg d (win.setWidth 64)).regs ∧ t.mem = s.mem)

/-- Requested stops of a task with nothing in flight (R97, R100, R118 to R120, R268): at a pre-emption point both
streams stop and the save begins under the request's kind; past the limit, or in a queue deadlock, the stop is hard; a
kill ends the task unsaved, once none of its engine commands is outstanding, and takes back the wait that its A-stream
stood in; and a save that is due, the matrix pipe empty (R431), parks it. Completes:
SOFT_PREEMPT_STOP, PREEMPT_TIMEOUT, QBLOCK_HARD_PREEMPT, KILL_STOP, KILL_TIMEOUT, PARK_SAVE_COMPLETE. The model’s own
choices in it are those of log entries 66, 104 and 114. -/
def Obligations.RequestedStops : Prop :=
  ∀ (s : State) (l : Nat), s.cfg.cont = false → s.onX = false → s.h.loads = [] → s.h.stores = [] → s.h.xl = [] →
    s.h.launch = some l → s.h.inStep = false →
    let stops := fun (i : Instr) (kind : Nat) => ∃ t, exec i s = .next t ∧ t.h.parking = kind ∧ t.h.a.st = .stopped ∧
      t.h.x.st = .stopped ∧ t.h.v = s.h.v ∧ t.h.a.regs = s.h.a.regs ∧ t.h.x.regs = s.h.x.regs ∧ t.mem = s.mem ∧
      t.rest = s.rest
    let ended := { s with h := { s.h with a := stopStream s.h.a, x := stopStream s.h.x } }
    let ends := fun (i : Instr) (u : State) => exec i s = .next (if s.engineBusy then u else freeTaskSlot u l)
    let soft := s.h.a.canStop = true ∧ s.h.x.canStop = true
    let late := s.h.reqAt + 130000 ≤ s.cycle
    (s.h.parking = 0 →
      ((s.h.req = some .soft ∨ s.h.req = some .withdraw) → soft → stops (.softPreemptStop s.h.id) 2) ∧
      (s.h.req = some .freezeSoft → soft → stops (.softPreemptStop s.h.id) 4) ∧
      (s.h.req = some .soft → late → stops (.preemptTimeout s.h.id) 3) ∧
      (s.h.req = some .soft → queueDeadlock s.h = true → stops (.qblockHardPreempt s.h.id) 3) ∧
      (s.h.req = some .kill → soft → ends (.killStop s.h.id) (dropWaiter ended (.stream s.h.id))) ∧
      (s.h.req = some .kill → late → ends (.killTimeout s.h.id) ended)) ∧
    (s.h.parking ≠ 0 → s.h.bothStopped = true → s.h.mbusy = 0 → s.h.lanes = [] → exec (.parkSaveComplete s.h.id) s = .next (parkSave s))

/-! ## Services, engines, survey, debug (R56 to R67, R209 to R213, R292 to R317) -/

/-- Requests (R56, R58): the next posted request whose slot keeps the rules is served by its TYPE, with the status and
result of R58, and counted in RQDONE; one that breaks a rule ends with status 2. Service calls (R62 to R65, R286): the
call at the head of a tower's ring raises CALLHEAD and runs by its FUNC: a null call replies, a log call also makes an
entry of class 0, an undefined one replies status 1, a forwarded one takes a slot of the host's ring and is answered
when the host has, and the two rewinds freeze their caller's context with the target noted. Completes: REQUEST_NOP,
REQUEST_LAUNCH, REQUEST_CANCEL, CALL_NULL, CALL_UNDO_STEP, CALL_UNDO_TO, CALL_HOST_FWD, CALL_LOG, CALL_UNDEFINED,
HOST_FWD_REPLY. The model’s own choices in it are those of log entries 97, 105, 106, 107 and 110. -/
def Obligations.RequestsAndCallsAreServed : Prop :=
  (∀ (s : State) (n : Nat), nextRequest s = some n →
     let v := (requestSlot s n).1
     let s1 := (requestSlot s n).2
     let handle := fieldOf v 159 128
     (requestBad v n = false →
       (requestType v = 0 → exec .requestNop s = .next (finishRequest s1 n 1 0)) ∧
       (∀ code h s2, requestType v = 1 → acceptLaunch s1 (v / 2 ^ 1024) ⟨true, 0, 0, 15⟩ = (code, h, s2) →
         exec .requestLaunch s = .next (finishRequest s2 n (code + 1) h.toNat)) ∧
       (requestType v = 2 → (s1.entry (handle % 4096)).gen.toNat = handle / 4096 →
         exec .requestCancel s = .next (finishRequest (cancelLaunch s1 handle).2 n 1 (cancelLaunch s1 handle).1)) ∧
       (requestType v = 2 → (s1.entry (handle % 4096)).gen.toNat ≠ handle / 4096 →
         exec .requestCancel s = .next (finishRequest s1 n 3 0))) ∧
     (requestBad v n = true → (requestType v = 0 ∨ 2 < requestType v) →
       exec .requestNop s = .next (finishRequest s1 n 2 0))) ∧
  (∀ (s : State) (t k : Nat) (r : BitVec 512), headCall s t = some (k, r) →
     let s1 := partAdd s t 10 1
     let o := callOwnerOf s t k
     let rewinds := fun (i : Instr) (target : LEntry → Nat) (force : Bool) => ∀ l tn, rewindBusy s t = false →
       contextOwner s1 o = some (l, tn) →
       let e := s1.entry l
       exec i s = .next (freezeLaunch (s1.setEntry l { e with rw := some (target e, force, some (tn, callReply r)) }) l false)
     (callFunc r = 0 → exec (.callNull t) s = .next (replyTo s1 t o r 0 0 0)) ∧
     (callFunc r = 1 → rewinds (.callUndoStep t) (fun e => e.undo.win.toNat) false) ∧
     (callFunc r = 2 → rewinds (.callUndoTo t) (fun _ => callArg r 0) ((callArg r 1).testBit 0)) ∧
     (callFunc r = 0x20 → let index := fieldOf r.toNat 95 80 + 2 ^ 16 * fieldOf r.toNat 107 96
       exec (.callLog t) s =
         .next (replyTo (logError s1 10 0 0x100 index (callArg r 0) (callArg r 1)) t o r 0 0 0)) ∧
     (callFunc r ∉ [0, 1, 2, 0x10, 0x20] → exec (.callUndefined t) s = .next (replyTo s1 t o r 1 0 0)) ∧
     (callFunc r = 0x10 → ownCounter s 0 2 - ownCounter s 0 3 < 256 →
       let m := ownCounter s 0 2
       ∃ u, exec (.callHostFwd t) s = .next u ∧ ∃ s2, s2 = forwardExit s1 o r m ∧
         let s3 := partAdd (servicePut s2 (forwardAddr s2 m) 64 r.toNat) 0 2 1
         u = { s3 with cfg := { s3.cfg with fwd := s3.cfg.fwd ++ [⟨m, t, r, o⟩] } }) ∧
     (∀ f, answered s = some f →
       let v := (serviceLine s (forwardAddr s f.m)).1
       let s1 := (serviceLine s (forwardAddr s f.m)).2
       let s2 : State := { s1 with cfg := { s1.cfg with fwd := s1.cfg.fwd.filter fun g => g.m != f.m } }
       exec .hostFwdReply s =
         .next (replyTo s2 f.tower f.owner f.record (fieldOf v 127 112) (fieldOf v 319 256) (fieldOf v 383 320))))

/-- The Sluice (R295 to R299): the first COPY or APPEND of its queue starts; an APPEND whose DBASE is FLAPP advances
FLAPP by the whole run, which reads as UNINIT, and one whose DBASE is another ends; each step of a command that has
started delivers a line, and a line of a COPY that neither converts nor retags, all of whose bits come from one source
line in their places, takes every byte and the tag of that line. Stated for a command of a hart without a launch, which
has no log. Completes: SLUICE_COPY, SLUICE_APPEND, SLUICE_LINE_DELIVERED. The model’s own choices in it are those of log
entries 8 and 90. -/
def Obligations.SluiceDelivers : Prop :=
  ∀ (s : State) (id : Nat) (c : Cmd) (r : ShapeRec), s.cfg.cont = false → s.cmd? id = some c → c.body = .sluice r →
    c.launch = none →
    (c.started = false → firstInQueue s c = true →
      (r.append = false →
        exec (.sluiceCopy id) s = .next (s.updCmd c.id fun c => { c with started := true })) ∧
      (r.append = true → r.dbase.toNat = s.flapp → s.flapp % 64 = 0 → r.ext0 % 64 = 0 → ∃ t, exec (.sluiceAppend id) s = .next t ∧
        t.flapp = s.flapp + r.ext0 ∧ t.cmds = (s.updCmd c.id fun c => { c with started := true }).cmds ∧
        OnlyBytes s t s.flapp r.ext0 ∧ ∀ a, s.flapp ≤ a → a < s.flapp + r.ext0 → t.seen a = 0) ∧
      (r.append = true → r.dbase.toNat ≠ s.flapp →
        exec (.sluiceAppend id) s = .next (endSluice r id (errorRecord s c 3 0 r.dbase.toNat 1)))) ∧
    (c.started = true → r.append = false → r.qmode = 0 → r.prog = 0 → s.canon → SMap.wf Dir.none s.dir = true →
      ∀ va n p line, listAt (destLines c r) c.done = some va →
      let y := pinned c.pins (BitVec.ofNat 64 va)
      guardHeld s c va y = false →
      let vs := (r.visits c.pins).filter fun v => v.line == va
      (∀ q, q < 4 → placedBit vs (128 * q) = some (n, p + 128 * q) ∧ (sourceBit c r n (p + 128 * q)).line = line ∧
        (sourceBit c r n (p + 128 * q)).bit = 128 * q) →
      Held s line → Held s y.pa → ∃ t, exec (.sluiceLineDelivered id) s = .next t ∧
        (∀ k, k < 64 → t.seen (lineAddr y.pa + k) = s.seen (line + k)) ∧
        (sideOf t y.pa).tag = (sideOf s line).tag &&& 0x1FFFFFF#32 ∧ OnlyBytes s t (lineAddr y.pa) 64)

/-- The pan units and the Crystalliser (R209 to R213, R302 to R306): a pan command that may be worked on has its next
output line made by the rule of its operation; a whole line of a FILL, in HBM4E where a cache holds it, holds P0 cut to the
element’s width in every element, with the tag OFMT, VALID, not rotated, and no other byte changes (R305; stated for a command of a
hart without a launch, which has no log). One that has ended makes its end add and leaves; the add counts the lines done less those
that a fault spoilt, which is log entry 167 (DEDUCED from R306 and R478). A recode job guards
its pages, waits for the writes that translated to one before its guard, reads its leaves, writes its lines one by one,
remaps, and ends once no command that need not translate afresh holds one of its old translations: its guards go, and
the writes that waited translate afresh. Completes: PAN_GEMV, PAN_AXPBY, PAN_FILL, PAN_COMMAND_END, RECODE_JOB_START,
RECODE_GUARD_DONE, RECODE_LINES_DONE, RECODE_SHOOT_DONE. The model’s own choices in it are those of log entries 8, 74
and 167. -/
def Obligations.EnginesWork : Prop :=
  ∀ (s : State) (id tower : Nat) (c : Cmd), s.cfg.cont = false →
    (∀ r, s.cmd? id = some c → c.body = .pan r → c.ended = false → panReady s c = true →
      let s1 := s.updCmd c.id fun c => { c with started := true }
      (r.opc = 1 → exec (.panGemv id) s = .next (panLine c r gemvLine s1)) ∧
      (r.opc = 2 → exec (.panAxpby id) s = .next (panLine c r axpbyLine s1)) ∧
      (r.opc = 3 → exec (.panFill id) s = .next (panLine c r fillLine s1))) ∧
    (∀ r line y ys, s.cmd? id = some c → c.body = .pan r → c.ended = false → panReady s c = true → r.opc = 3 → c.launch = none →
      s.canon → listAt (panLines c r) c.done = some line → ((panOutputs c r).filter fun e => e.line == line) = y :: ys →
      let bits := elemSize r.ofmt.toNat
      (y :: ys).length * bits = 512 → (∀ e ∈ y :: ys, writeHeld s c e.va.toNat e.x = false) → Held s y.x.pa →
      let sc := if fmtScaled r.ofmt.toNat then r.p1.toNat % 256 else 127
      ∃ t, exec (.panFill id) s = .next t ∧ OnlyBytes s t (lineAddr y.x.pa) 64 ∧
        (∀ k, bits * (k + 1) ≤ 512 →
          t.seenWord (lineAddr y.x.pa) 64 / 2 ^ (bits * k) % 2 ^ bits = r.p0.toNat % 2 ^ bits) ∧
        (sideOf t y.x.pa).tag = mkTag r.ofmt.toNat .valid 0 sc sc) ∧
    (∀ r, s.cmd? id = some c → c.body = .pan r → c.ended = true →
      exec (.panCommandEnd id) s = .next ((if r.done = 0 then s else cmdAdd s c r.done (c.done - c.spoilt)).dropCmd id)) ∧
    ∀ r st leaves, recodeHead s tower = some (c, r, st, leaves) →
      (st = .queued → exec (.recodeJobStart tower) s = .next (setJob (placeGuards c r r.pages s) c r .guard [])) ∧
      (st = .guard →
        let s1 := placeGuards c r r.pages s
        let mine := s1.guards.filter fun g => g.cmd == c.id
        (r.pages.length ≤ mine.length → (∀ g ∈ mine, writesBefore s1 g = false) → exec (.recodeGuardDone tower) s =
          .next (setJob (jobLeaves tower r r.pages s1).2 c r .recode (jobLeaves tower r r.pages s1).1)) ∧
        (mine.length < r.pages.length ∨ (∃ g ∈ mine, writesBefore s1 g = true) →
          exec (.recodeGuardDone tower) s = .next s1)) ∧
      (st = .recode → jobStopped s c = false →
        (∀ p, listAt r.pages (c.done / frameLines r) = some p → exec (.recodeLinesDone tower) s =
          .next ((recodeLine c r p.1 p.2 (c.done % frameLines r) s).updCmd c.id fun c => { c with done := c.done + 1 })) ∧
        (listAt r.pages (c.done / frameLines r) = none → exec (.recodeLinesDone tower) s =
          .next (setJob (remapPages c r r.pages leaves s) c r .shoot leaves))) ∧
      (st = .shoot →
        let mine := s.guards.filter fun g => g.cmd == c.id
        (∀ g ∈ mine, ∀ d ∈ s.cmds, d.id ≠ c.id → pinsPage d g = true → takesAfresh d g = true) →
        let s1 := refreshPins tower c.id mine s
        let s2 : State := { s1 with guards := s1.guards.filter fun g => g.cmd != c.id }
        exec (.recodeShootDone tower) s = .next ((cmdAdd s2 c r.done 1).dropCmd c.id))

/-- The lane-cycle survey (R309 to R311): a counted cycle of a hart that holds a task and counts adds 1 to svcyc and,
over the five classes, one for each lane; svctl turns the counting on and off, and CLR clears every counter. The survey
buffer of a tower (R312, R313): writing sbctl stores its fields, CORE and TRIG where their values are assigned, unless it
would arm an armed buffer; with ARM it arms an idle buffer, and with ARM 0 abandons a recording; a cycle of an armed
buffer adds a record; a full buffer is written out, and then disarms itself and, where sbdone is not 0, adds 1 to the
counter that it names. Completes:
SVCTL_WRITE, SBCTL_WRITE, SURVEY_DUMP, SURVEY_DUMP_DONE, COUNTED_CYCLE, SURVEY_BUFFER_RECORD. The model’s own choices in
it are those of log entries 55 and 88. -/
def Obligations.SurveyRecords : Prop :=
  (∀ (s : State) (v : BitVec 64),
     (s.h.launch.isSome = true → s.h.svEn = true → ∃ t, exec (.countedCycle s.h.id) s = .next t ∧
       t.h.svcyc = s.h.svcyc + 1 ∧ t.rest = s.rest ∧
       (s.h.lanes = [] → t.h.svuse + t.h.svmask + t.h.svbvl + t.h.svstart + t.h.svstall =
         s.h.svuse + s.h.svmask + s.h.svbvl + s.h.svstart + s.h.svstall + BitVec.ofNat 64 s.h.laneCount) ∧
       ∀ u m b l, s.h.lanes = (u, m, b) :: l → t.h.lanes = l ∧ t.h.svuse = s.h.svuse + BitVec.ofNat 64 u ∧
         t.h.svmask = s.h.svmask + BitVec.ofNat 64 m ∧ t.h.svbvl = s.h.svbvl + BitVec.ofNat 64 b ∧
         t.h.svstart = s.h.svstart ∧ t.h.svstall = s.h.svstall) ∧
     ∃ t, exec (.svctlWrite v) s = .next t ∧ t.h.svEn = v.getLsbD 0 ∧ t.mem = s.mem ∧ t.h.a = s.h.a ∧ t.h.x = s.h.x ∧
       (v.getLsbD 1 = true → t.h.svuse = 0 ∧ t.h.svmask = 0 ∧ t.h.svbvl = 0 ∧ t.h.svstart = 0 ∧ t.h.svstall = 0 ∧
         t.h.svcyc = 0 ∧ t.h.svmcyc = 0) ∧
       (v.getLsbD 1 = false → t.h.svuse = s.h.svuse ∧ t.h.svcyc = s.h.svcyc)) ∧
  (∀ (s : State) (v : BitVec 64) (t : Nat), SMap.wf SBuf.reset s.sbuf = true → s.cfg.cont = false →
     let b := s.buf t
     (t = s.h.id.tower → ∃ u, exec (.sbctlWrite v) s = .next u ∧ u = { s with sbuf := u.sbuf } ∧
       (b.arm = true → v.getLsbD 0 = true → u.buf t = b) ∧
       (b.arm = true → v.getLsbD 0 = false → (u.buf t).arm = false ∧ (u.buf t).recs = []) ∧
       (b.arm = false ∨ v.getLsbD 0 = false → (u.buf t).arm = v.getLsbD 0 ∧
         (u.buf t).post = BitVec.ofNat 16 (v.toNat / 2 ^ 16) ∧ (u.buf t).sel = BitVec.ofNat 2 (v.toNat / 2 ^ 9) ∧
         (u.buf t).core = (if fieldOf v.toNat 8 2 ≤ 64 then BitVec.ofNat 7 (fieldOf v.toNat 8 2) else b.core) ∧
         (u.buf t).trig = (if fieldOf v.toNat 13 11 ≤ 3 then BitVec.ofNat 3 (fieldOf v.toNat 13 11) else b.trig))) ∧
     (b.arm = true → b.full = false → ∃ u, exec (.surveyBufferRecord t) s = .next u ∧ u = { s with sbuf := u.sbuf } ∧
       (u.buf t).recs = (surveyRecord s t b :: b.recs).take 65536 ∧ (u.buf t).full = (b.trigd && b.left == 0)) ∧
     (b.full = true → b.arm = true → b.dumped = false → ∃ u, exec (.surveyDump t) s = .next u ∧
       u = (dumpLines t ((b.recs.length + 3) / 4) b.dest.toNat b.recs.reverse s).updBuf t fun b => { b with dumped := true }) ∧
     (b.dumped = true → b.arm = true → ∃ u, u = { s with sbuf := u.sbuf } ∧ (u.buf t).arm = false ∧ (u.buf t).recs = [] ∧
       exec (.surveyDumpDone t) s = .next (if b.done = 0 then u else (farAdd u t true 0 b.done 1).2)))

/-- The debug unit (R314 to R317): its commands act on the live launch that their handle names: FREEZE and FREEZE.SOFT
freeze one that is not frozen, THAW thaws one that is, each stream of which steps past a breakpoint at its first word,
and the two rewinds note their target in a frozen one; a handle
that names no live launch ends the command with status 2 or 3; and a breakpoint hit freezes its launch. Completes:
FREEZE, FREEZE_SOFT, THAW, UNDO_STEP, UNDO_TO, BREAKPOINT_HIT. The model’s own choices in it are those of log entry 102.
-/
def Obligations.DebugCommands : Prop :=
  ∀ (s : State) (l : Nat),
    (handleEntry s s.dbg.lh = some l → let e := s.entry l
      (e.state ≠ .killing → e.frozen = false →
        (s.dbg.cmd = 1 → exec .freeze s = .next (endFreeze (freezeLaunch s l false) l)) ∧
        (s.dbg.cmd = 2 → exec .freezeSoft s = .next (endFreeze (freezeLaunch s l true) l))) ∧
      (e.frozen = true →
        (s.dbg.cmd = 3 → exec .thaw s = .next (endDebug (updTasks (s.setEntry l { e with
          frozen := false, parked := e.parked.map fun p => { p with stepA := true, stepX := true } }) l stepsPast) 0 0 0)) ∧
        (s.dbg.cmd = 4 → e.rw = none → exec .undoStep s =
          .next (s.setEntry l { e with rw := some (e.undo.win.toNat, s.dbg.force, none) })) ∧
        (s.dbg.cmd = 5 → e.rw = none → exec .undoTo s =
          .next (s.setEntry l { e with rw := some (s.dbg.arg.toNat, s.dbg.force, none) })))) ∧
    (handleEntry s s.dbg.lh = none →
      (s.dbg.cmd = 1 → exec .freeze s = .next (endDebug s 2 0 0)) ∧
      (s.dbg.cmd = 3 → exec .thaw s = .next (endDebug s 3 0 0))) ∧
    ∀ n h, breakAt s n = some (l, h) →
      let c := SMap.get 0#64 s.dbg.bpc n
      let kept := if c.getLsbD 2 then c &&& ~~~1#64 else c
      exec (.breakpointHit n) s =
        .next (breakHit { s with dbg := { s.dbg with bpc := SMap.set 0#64 s.dbg.bpc n kept } } l h.id (c.getLsbD 1) n)

/-! ## Links, hosts, boot and resets (R27 to R76) -/

/-- Host and Zalarn links (R27, R36 to R42): a port trains at a width and rate that R27 allows, a Zalarn link at the
width and to the peer given; a flit with a bad CRC asks for a replay and the eighth in a row is fatal; a good one
delivers its messages in order, a request of a peer, a wake and a containment message each as the event it is, and one
for another node is dropped and counted; a peer that sends a containment message is unreachable from then on. Containment (R42, R43, R70):
a link that goes down or reports viral, and an error in a control structure, place the part in CONTAINED with their
cause. Entering it, with nothing in flight, records the cause and its index, stops both streams of every hart but the ROM
monitor’s, signals viral on both host ports and sends a containment message on every link that is up; the bytes and tags of HBM4E
stay, but in the save areas and logs that the launches hold, and in the line of ERRCNT, whose read may correct it. A later cause
counts in MORE and does nothing else; and from then on, with no event, read of CFGWIN or waiting
access of a host due, no step changes memory, a launch or a stream. Completes: HOST_PORT_TRAIN, FLIT_RECEIVE,
LANE_LOCK_LOSS, CONTAINMENT_MESSAGE, HOST_LINK_DOWN, CXL_VIRAL_INDICATION, MEMORY_PORT_LINK_DOWN,
CONTROL_STRUCTURE_ERROR, ZALARN_LINK_TRAIN. The model’s own choices in it are those of log entries 79, 113, 145 and 184.
-/
def Obligations.LinksAndContainment : Prop :=
  (∀ (s : State) (host : HostId) (lanes rate link width peer port node : Nat) (cxl : Bool) (f : FlitIn),
     let p := SMap.get HostPort.reset s.cfg.port (portOf host)
     let z := SMap.get ZLink.reset s.cfg.zlink link
     let fatal := fun (i : Instr) => exec i s = .next (enterContained (updLink s link fun z =>
       { z with fatal := true, up := false, fails := 0 }) 5 link)
     (p.up = false → lanes ∈ [4, 8, 16] → rate ∈ [16, 32, 64] → exec (.hostPortTrain host lanes rate cxl) s =
       .next { s with cfg := { s.cfg with
         port := SMap.set HostPort.reset s.cfg.port (portOf host) ⟨true, true, lanes, rate, cxl⟩ } }) ∧
     (link < 18 → 1 ≤ width → width ≤ 8 → port < 18 → peer < 0xFFF → SMap.wf ZLink.reset s.cfg.zlink = true →
       ∃ t, exec (.zalarnLinkTrain link width peer port) s = .next t ∧
         (SMap.get ZLink.reset t.cfg.zlink link).up = true ∧
         (SMap.get ZLink.reset t.cfg.zlink link).width.toNat = width ∧
         (SMap.get ZLink.reset t.cfg.zlink link).peer.toNat = peer ∧
         (SMap.get ZLink.reset t.cfg.zlink link).peerPort.toNat = port ∧ t.mem = s.mem) ∧
     (z.up = true → fatal (.laneLockLoss link)) ∧
     (z.up = true → f.creditOverflow = false → f.crcOk = false →
       (7 ≤ z.fails → fatal (.flitReceive link f)) ∧
       (z.fails < 7 → ∃ t, exec (.flitReceive link f) s = .next t ∧ t.out = .replay link :: s.out ∧ t.mem = s.mem)) ∧
     (z.up = true → f.creditOverflow = false → f.crcOk = true →
       exec (.flitReceive link f) s = takeMsgs link f.msgs (updLink s link fun z => { z with fails := 0 })) ∧
     (∀ t : State, takeMsgs link [] t = .next t) ∧
     (∀ (t u : State) (ms : List FlitMsg) (n k : Nat) (v : BitVec 64) (req : PeerReq),
       (exec (.peerRequest n req) t = .next u → takeMsgs link (.request n req :: ms) t = takeMsgs link ms u) ∧
       (exec (.remoteWake k v) t = .next u → takeMsgs link (.wake k v :: ms) t = takeMsgs link ms u) ∧
       (exec (.containmentMessage n) t = .next u → takeMsgs link (.containment n :: ms) t = takeMsgs link ms u) ∧
       (t.cfg.cont = false → takeMsgs link (.full k :: ms) t = takeMsgs link ms (remoteFull t k)) ∧
       takeMsgs link (.otherNode n :: ms) t = takeMsgs link ms (updLink t link fun z =>
         { z with misroute := true, misrouted := z.misrouted + 1 })) ∧
     (∃ t, exec (.containmentMessage node) s = .next t ∧ node ∈ t.cfg.unreach ∧ (∀ n ∈ s.cfg.unreach, n ∈ t.cfg.unreach) ∧
       t.mem = s.mem ∧ t.h = s.h)) ∧
  (∀ (s : State) (host : HostId) (onMem : Bool) (port tower cause index : Nat),
     let p := SMap.get HostPort.reset s.cfg.port (portOf host)
     let down := { s with cfg := { s.cfg with
       port := SMap.set HostPort.reset s.cfg.port (portOf host) { p with up := false } } }
     (p.trained = true → exec (.hostLinkDown host) s = .next (enterContained down 1 (portOf host))) ∧
     exec (.cxlViralIndication onMem port) s = .next (enterContained s (if onMem then 3 else 2) port) ∧
     (port ∈ s.cfg.members → exec (.memoryPortLinkDown port) s = .next (enterContained s 4 port)) ∧
     exec (.controlStructureError tower) s = .next (enterContained s 6 tower) ∧
     (s.cfg.cont = false → s.canon → SMap.wf LEntry.reset s.entries = true → (s.harts.map fun h => h.id).Nodup → (∀ h ∈ s.harts, h.loads = [] ∧ h.stores = []) →
       let t := enterContained s cause index
       t.cfg.cont = true ∧ t.cfg.ccause = BitVec.ofNat 4 cause ∧ t.cfg.cindex = BitVec.ofNat 5 index ∧
       (∀ h ∈ t.harts, h.id ≠ romMonitor → h.a.st = .stopped ∧ h.x.st = .stopped) ∧
       (∀ h ∈ s.harts, h.id = romMonitor → h ∈ t.harts) ∧
       .viral .a ∈ t.out ∧ .viral .b ∈ t.out ∧
       (∀ l, l < 18 → (SMap.get ZLink.reset s.cfg.zlink l).up = true → .containment l ∈ t.out) ∧
       ∀ b, b < hbmSize → b / 64 ≠ slotAddr errKey / 64 →
         (∀ l va pa k, heldAt (s.entry l) va = some (pa, k) → b / 64 ≠ pa / 64) →
         t.seen b = s.seen b ∧ (sideOf t b).tag = (sideOf s b).tag) ∧
     (s.cfg.cont = true → ∃ m, enterContained s cause index = { s with cfg := { s.cfg with more := m } } ∧
       m.toNat = Nat.min 65535 (s.cfg.more.toNat + 1)) ∧
     (s.cfg.cont = true → s.agenda = [] → s.hostReads = [] → s.stalledIn = [] → ∃ t, step s = .next t ∧
       t.cfg.cont = true ∧ t.mem = s.mem ∧ t.side = s.side ∧
       t.entries = s.entries ∧ t.h.a = s.h.a ∧ t.h.x = s.h.x ∧ t.h.v = s.h.v ∧
       t.rest.map (fun h => (h.a, h.x)) = s.rest.map fun h => (h.a, h.x)))

/-- What a host reads and writes through MEMWIN (R28, R31, R46, R53): of one line of HBM4E outside the counter stores
that a cache holds, a read answers its bytes with the poison of its class; the active host's write changes those bytes
and no other; its atomic answers the old value and stores the new; and outside CONTAINED and recovery the active host's
write to a page under a write guard waits (R212). Requests of peers (R40, R136, R241): a line read, a write of a line, of a part of one or of its tag, and an
atomic act at their home in HBM4E, a counter request at a slot that the peer may use; a place that is a hole of a peer's map
stops the run by that name (log 186). Completes: PEER_REQUEST, MEMWIN_READ, MEMWIN_WRITE, HOST_ATOMIC_OP. The model’s own
choices in it are those of log entries 7, 39, 87 and 186. -/
def Obligations.HostAndPeerAccess : Prop :=
  (∀ (s : State) (host : HostId) (off n : Nat) (data : List (BitVec 8)) (poison : Bool) (op : HostAtomic) (wide : Bool)
     (v e : BitVec 64), s.canon → s.cfg.cont = false → Held s off → memwinRefused s off n = false → off % 64 + n ≤ 64 →
     1 ≤ n → leaseOver s = false → guardedPa s off n = false → (∀ x ∈ s.stalledIn, x.host ≠ host) →
     (∃ t, exec (.memwinRead host off n) s = .next t ∧ SameBytes s t ∧
       t.out = .readData host ((List.range n).map fun i => s.seen (off + i)) (vcBad (tagVc (sideOf s off).tag)) :: s.out) ∧
     (isActive s (.host host) = true → data.length = n → ∃ t, exec (.memwinWrite host off data poison) s = .next t ∧
       OnlyBytes s t off n ∧ (∀ i, (hi : i < data.length) → t.seen (off + i) = data[i]) ∧
       (poison = true → tagVc (sideOf t off).tag = .poison)) ∧
     (isActive s (.host host) = true → n = (if wide then 8 else 4) → off % n = 0 → (op = .cas → wide = true) →
       vcBad (tagVc (sideOf s off).tag) = false →
       let old := s.seenWord off n
       ∃ t, exec (.hostAtomicOp host off op wide v e) s = .next t ∧ OnlyBytes s t off n ∧
         t.seenWord off n = hostAtomicNew op (8 * n) old v.toNat e.toNat ∧
         t.out = .hostValue host (BitVec.ofNat 64 old) :: s.out)) ∧
  (∀ (s : State) (host : HostId) (off : Nat) (data : List (BitVec 8)) (poison : Bool),
     s.cfg.cont = false → s.cfg.phase ≠ 15 → isActive s (.host host) = true → guardedPa s off data.length = true →
     exec (.memwinWrite host off data poison) s =
       .next { s with stalledIn := s.stalledIn ++ [.write host off data poison] }) ∧
  (∀ (s : State) (node pa : Nat) (data : BitVec 512) (tag : BitVec 32) (op : AtomOp) (wide : Bool) (v e : BitVec 64),
     s.cfg.cont = false →
     let w : Who := ⟨homeTower pa, none⟩
     let k := (Config.peerKey node).toNat
     (peerPlace pa = true → Held s pa →
       (∃ t l, exec (.peerRequest node (.readLine pa)) s = .next t ∧ SameBytes s t ∧
         t.out = .peerReply node true l (sideOf s pa).tag :: s.out ∧
         ∀ i, i < 64 → l.extractLsb' (8 * i) 8 = s.seen (lineAddr pa + i)) ∧
       exec (.peerRequest node (.writeLine pa data tag)) s =
         .next (answer (writeLine s pa k w true data.toNat tag) node true 0 0) ∧
       (∀ mask, exec (.peerRequest node (.writePart pa mask data tag)) s =
         .next (answer (peerMerge s node pa mask data tag) node true 0 0)) ∧
       exec (.peerRequest node (.writeTag pa tag)) s = .next (answer (peerRetag s node pa tag) node true 0 0) ∧
       exec (.peerRequest node (.atomic pa op wide v e)) s = .next (peerAtomic s node pa op wide v e)) ∧
     (∀ t n x m, refOf s v = .slot t n → groupPeerOk s t n = true → SMap.get none s.cc (slotKey t n) = some ⟨x, m⟩ →
       exec (.peerRequest node (.counterRead v)) s = .next (answer (slotUsed s t n) node true x.toNat 0)) ∧
     (peerPlace pa = false →
       exec (.peerRequest node (.readLine pa)) s = .fault (.hole pa) ∧
       exec (.peerRequest node (.writeLine pa data tag)) s = .fault (.hole pa)))

/-- The lease (R51, R52, R60): an expiry that is due comes before a host's write; the active host renews it, a claim of
a free lease or a release makes the claimant active with a new epoch, a claim of a held one is noted, and an expiry
passes it to the claimant or leaves none active; PERIOD takes a value in its range from the active host. CFGWIN as hosts
write it (R44, R45, R54 to R59): the active host sets the ring registers while no request is outstanding and the ring
fits, adds through the window of counters, and arms interrupt waiters; any host reads the counters; an access that is
not 4 or 8 bytes at its own alignment is an unsupported request. Completes: CFGWIN_WRITE, LEASECFG_WRITE, RENEW, CLAIM,
RELEASE, LEASE_EXPIRY, HOST_COUNTER_ADD, HOST_COUNTER_READ, RQBASE_WRITE, RQENT_WRITE, INTERRUPT_WAITER_WRITE. The
model’s own choices in it are those of log entries 9 and 100. -/
def Obligations.LeaseAndHostRegisters : Prop :=
  (∀ (s : State) (host : HostId) (v : BitVec 64), s.cfg.cont = false → s.cfg.phase ≠ 15 →
     let ends := s.cycle + s.cfg.period.toNat * cyclesPerMs
     let mine := s.activeHost = some host
     (leaseOver s = true → ∀ i ∈ [Instr.renew host, .claim host, .release host, .leasecfgWrite host v],
       exec i s = exec i (expireLease s)) ∧
     (mine → s.cfg.leaseEnd < s.cycle → s.cfg.claimed = true → ∃ t, exec .leaseExpiry s = .next t ∧
       t.activeHost = some (otherHost host)) ∧
     (mine → s.cfg.leaseEnd < s.cycle → s.cfg.claimed = false → ∃ t, exec .leaseExpiry s = .next t ∧ t.activeHost = none) ∧
     (leaseOver s = false →
       (mine → exec (.renew host) s = .next { s with cfg := { s.cfg with leaseEnd := ends } }) ∧
       (s.activeHost = none → ∃ t, exec (.claim host) s = .next t ∧ t.activeHost = some host ∧
         t.cfg.epoch = s.cfg.epoch + 1 ∧ t.cfg.leaseEnd = ends ∧ t.cfg.irqPend = [] ∧ t.mem = s.mem) ∧
       (s.activeHost = some (otherHost host) →
         exec (.claim host) s = .next { s with cfg := { s.cfg with claimed := true } }) ∧
       (mine → s.cfg.claimed = true → ∃ t, exec (.release host) s = .next t ∧ t.activeHost = some (otherHost host) ∧
         t.cfg.claimed = false ∧ t.cfg.epoch = s.cfg.epoch + 1) ∧
       (mine → s.cfg.claimed = false → ∃ t, exec (.release host) s = .next t ∧ t.activeHost = none ∧
         t.cfg.epoch = s.cfg.epoch) ∧
       (mine → 10 ≤ v.toNat % 2 ^ 14 → v.toNat % 2 ^ 14 ≤ 10000 → exec (.leasecfgWrite host v) s =
         .next { s with cfg := { s.cfg with period := BitVec.ofNat 14 (v.toNat % 2 ^ 14) } }))) ∧
  (∀ (s : State) (host : HostId) (v : BitVec 64) (slot n k off size index : Nat), s.cfg.cont = false → s.cfg.phase ≠ 15 →
     leaseOver s = false →
     (isActive s (.host host) = true →
       (ringBusy s = false → let b := fieldOf v.toNat 39 16
         b * 65536 + s.cfg.rqent.toNat * 256 ≤ hbmSize →
         exec (.rqbaseWrite host v) s = .next { s with cfg := { s.cfg with rqbase := BitVec.ofNat 24 b } }) ∧
       (ringBusy s = false → let c := fieldOf v.toNat 16 0
         ringSize c = true → s.cfg.rqbase.toNat * 65536 + c * 256 ≤ hbmSize →
         exec (.rqentWrite host v) s = .next { s with cfg := { s.cfg with rqent := BitVec.ofNat 17 c } }) ∧
       (∀ h x m, slot < 1024 → SMap.get 0#64 s.cfg.hcw slot = h → h ≠ 0 → refOf s h = .slot n k → v.toNat < 2 ^ 32 →
         SMap.get none s.cc (slotKey n k) = some ⟨x, m⟩ → (∀ y ∈ s.stalledIn, y.host ≠ host) →
         exec (.hostCounterAdd host slot v) s = .next (addSlot (slotUsed s n k) (slotKey n k) v)) ∧
       (index < 2048 → ∃ t, exec (.interruptWaiterWrite host index 8 8 v) s = .next t ∧
         t = ivtWrite s index true v.toNat)) ∧
     (slot < 1024 → exec (.hostCounterRead host slot) s =
       .next ((windowTouch s slot).emit (.hostValue host (windowValue s slot)))) ∧
     (isActive s (.host host) = true → exec (.cfgwinWrite host 0x818 8 v) s =
       .next { s with cfg := { s.cfg with memkey := BitVec.ofNat 7 v.toNat } }) ∧
     ((size ≠ 4 ∧ size ≠ 8) ∨ off % size ≠ 0 → exec (.cfgwinWrite host off size v) s = .next (s.emit (.unsupported host))))

/-- The firmware commands (R66 to R69): the active host stages an image, whose measuring ends staged or failed; SWITCH
takes its switch points; the drain ends, and with the ready signal the new image takes over, its measurement moving to
its kind's slot, or the old one resumes when no signal comes in time, and a later signal is dropped; DISCARD drops what
is staged. The SPDM responder (R50): version 1.3, ECDSA P-384 and SHA-384, certificate slot 0 alone, measurement index i
+ 1 for MSLOT i and index 0xFF for every valid slot; a certificate slot or index that is absent is answered with an
error, and any other request with UnsupportedRequest; nothing else changes. Completes: GET_VERSION, GET_CAPABILITIES,
NEGOTIATE_ALGORITHMS, GET_DIGESTS, GET_CERTIFICATE, CHALLENGE, GET_MEASUREMENTS, SPDM_UNSUPPORTED, STAGE,
FW_MEASURE_DONE, SWITCH, DISCARD, FW_DRAIN_END, FWREADY_WRITE, FW_READY_TIMEOUT. The model’s own choices in it are those
of log entries 5, 81, 82 and 152. -/
def Obligations.FirmwareAndSpdm : Prop :=
  (∀ (s : State) (host : HostId) (kind : Nat) (v : BitVec 64), s.cfg.cont = false →
     let c := s.cfg
     (s.cfg.phase ≠ 15 → leaseOver s = false → isActive s (.host host) = true →
       (c.fwState ≠ 1 → c.fwState ≠ 3 → kind < 3 → ∃ t, exec (.stage host kind) s = .next t ∧ t.cfg.fwState = 1 ∧
         t.cfg.fwKind = BitVec.ofNat 2 kind ∧ t.cfg.fwStaged = BitVec.ofNat 2 kind ∧ t.mem = s.mem) ∧
       (c.fwState = 2 → ∃ t, exec (.switch host) s = .next t ∧ t = switchOp s (.host host) 2) ∧
       (c.fwState = 2 ∨ c.fwState = 4 ∨ c.fwState = 5 ∨ c.fwState = 6 → ∃ t, exec (.discard host) s = .next t ∧
         t.cfg.fwState = 0 ∧ t.mem = s.mem)) ∧
     (c.fwState = 1 → ∃ t, exec .fwMeasureDone s = .next t ∧ (t.cfg.fwState = 2 ∨ t.cfg.fwState = 6) ∧ t.mem = s.mem) ∧
     (c.fwState = 3 → c.drained = false → drainDone s = true →
       (c.fwready = false → exec .fwDrainEnd s = .next { s with cfg := { c with drained := true, drainAt := s.cycle } }) ∧
       (c.fwready = true → ∃ t, exec .fwDrainEnd s = .next t ∧ t.cfg.fwState = 4)) ∧
     (c.fwState = 3 → c.drained = true → readyOverdue s = false → leaseOver s = false → v.getLsbD 0 = true →
       SMap.wf 0#512 c.mslot = true → c.fwStaged.toNat < 3 →
       ∃ t, exec (.fwreadyWrite v) s = .next t ∧ t.cfg.fwState = 4 ∧
         SMap.get 0#512 t.cfg.mslot (2 + c.fwStaged.toNat) = SMap.get 0#512 c.mslot (8 + c.fwStaged.toNat) ∧
         SMap.get 0#512 t.cfg.mslot (8 + c.fwStaged.toNat) = 0) ∧
     (readyOverdue s = true → (∃ t, exec .fwReadyTimeout s = .next t ∧ t.cfg.fwState = 5 ∧ t.mem = s.mem) ∧
       (leaseOver s = false → ∃ t, exec (.fwreadyWrite v) s = .next t ∧ t.cfg.fwState = 5))) ∧
  (∀ (s : State) (host : HostId) (i off len code : Nat) (nonce : BitVec 256),
     let answers := fun (i : Instr) (r : SpdmResp) => exec i s = .next (s.emit (.spdm host r))
     let all := (List.range 16).map fun k => (k + 1, SMap.get 0#512 s.cfg.mslot k)
     answers (.getVersion host) (.version 1 3) ∧ answers (.getCapabilities host) (.capabilities Config.spdmFlags) ∧
     answers (.negotiateAlgorithms host) (.algorithms [.ecdsaP384] [.sha384]) ∧
     answers (.getDigests host) (.digests [0] Config.chainDigest) ∧
     answers (.getCertificate host 0 off len) (.certificate 0 (Config.chainBytes off len)) ∧
     answers (.challenge host 0 nonce) (.challengeAuth 0 (Config.challengeSignature nonce)) ∧
     (1 ≤ i → i ≤ 16 → answers (.getMeasurements host i) (.measurements [(i, SMap.get 0#512 s.cfg.mslot (i - 1))])) ∧
     answers (.getMeasurements host 0xFF) (.measurements (all.filter fun m => m.2.getLsbD 480)) ∧
     answers (.getMeasurements host 0) (.measurementCount 16) ∧
     (17 ≤ i → i ≠ 0xFF → answers (.getMeasurements host i) .invalidRequest) ∧
     (i ≠ 0 → answers (.getCertificate host i off len) .invalidRequest ∧ answers (.challenge host i nonce) .invalidRequest) ∧
     answers (.spdmUnsupported host code) .unsupportedRequest)

/-- Boot (R47, R48) goes through its steps with the phase of each, or ends in phase 15 with its code. Resets (R72 to
R74): a cold reset, by the pin or a host's command, leaves no task, no launch, no cached line and no key, and every
HBM4E line UNINIT, while what stands beyond HBM4E stays; a preserving reset leaves no task, translation or live launch,
and makes the host that asked for it active. Completes: BOOT_STEP, PRESERVING_RESET, COLD_RESET, RESET_PIN. The model’s
own choices in it are those of log entries 5, 78, 89 and 90. -/
def Obligations.BootAndResets : Prop :=
  (∀ s : State, s.cfg.phase ≠ 15 → s.cfg.cont = false →
     (s.cfg.step = 1 → exec .bootStep s = .next { s with cfg := { s.cfg with step := 2, phase := 0 } }) ∧
     (s.cfg.step = 2 → ∃ t, exec .bootStep s = .next t ∧ t.mem = s.mem ∧
       if Config.trainingGood 2 then t.cfg.step = 3 ∧ t.cfg.phase = 1 else t.cfg.phase = 15 ∧ t.cfg.failcode = 0xFF) ∧
     (s.cfg.step = 3 → s.cfg.prcount = 0 → ∃ t, exec .bootStep s = .next t ∧ t.mem = s.mem ∧
       if [0, 1, 2, 3, 4].all (fun k => (measureImage s (bootUnit k) k).2.2) then t.cfg.step = 4 ∧ t.cfg.phase = 2
       else t.cfg.phase = 15) ∧
     (s.cfg.step = 4 → ∃ t, exec .bootStep s = .next t ∧ t.mem = s.mem ∧
       if Config.trainingGood 4 then t.cfg.step = 5 ∧ t.cfg.phase = 3 ∧ t.cfg.fwarea.toNat = Config.fwArea % 0xC00
       else t.cfg.phase = 15 ∧ t.cfg.failcode = 0xFF) ∧
     (s.cfg.step = 5 → ∃ t, exec .bootStep s = .next t ∧ t.cfg.step = 6 ∧ t.cfg.phase = 4 ∧ t.cfg.znode.toNat = Config.bootNode.toNat % 0xFFF)) ∧
  (∀ (s : State) (host : HostId), s.canon → leaseOver s = false →
     (s.cfg.cont = true ∨ s.cfg.phase = 15 ∨ isActive s (.host host) = true) →
     let cold := fun (t : State) => t.h = State.reset.h ∧ t.rest = State.reset.rest ∧ t.entries = [] ∧
       t.dir = [] ∧ t.tlb = [] ∧ t.keys = [] ∧
       t.cfg.phase = 0 ∧ t.cfg.mslot = [] ∧ t.cfg.cont = false ∧ t.cfg.coldN = s.cfg.coldN + 1 ∧
       (∀ pa, pa < hbmSize → tagVc (sideOf t pa).tag = .uninit ∧ t.seen pa = 0) ∧ ∀ pa, hbmSize ≤ pa → t.byte pa = s.byte pa
     (∃ t, exec .resetPin s = .next t ∧ cold t) ∧ (∃ t, exec (.coldReset host) s = .next t ∧ cold t) ∧
     ∃ t, exec (.preservingReset host) s = .next t ∧ t.h = State.reset.h ∧ t.rest = State.reset.rest ∧ t.tlb = [] ∧
       t.activeHost = some host ∧ t.cfg.preserved = true ∧ t.cfg.cont = false ∧
       ∀ l, (t.entry l).state = .free)

/-- The check field (R187, R188): a line read with the check field of its own contents is correct, and one whose check
field alone has one symbol wrong is returned as it stands. The model’s own choices in it are those of log entry 14. -/
def Obligations.CheckFieldHolds : Prop :=
  ∀ (key pa data tag e : Nat), data < 2 ^ 512 → tag < 2 ^ 32 → 0 < e → e < 65536 →
    let chk := checkField key pa data tag
    checkLine key pa data tag chk = .correct ∧
    checkLine key pa data tag (Nat.xor chk e) = .corrected 34 data tag ∧
    checkLine key pa data tag (Nat.xor chk (65536 * e)) = .corrected 35 data tag
end

