-- ==== Sys2Proof/Laws/Sparse.lean ====
section
/-! SUPPORT. Laws/Sparse.lean: what reading and writing a sparse table do, and that writing keeps the canonical form. -/

namespace Sys2Proof

variable {α : Type} [DecidableEq α] {d : α}

/-- A table in canonical form from a bound up is one from any lower bound. -/
theorem SMap.wfFrom_mono {m : SMap α} {lo lo' : Nat} (hle : lo' ≤ lo) (h : SMap.wfFrom d lo m = true) :
    SMap.wfFrom d lo' m = true := by
  cases m with
  | nil => rfl
  | cons p m =>
    simp only [SMap.wfFrom, Bool.and_eq_true, decide_eq_true_eq] at h ⊢
    exact ⟨⟨by omega, h.1.2⟩, h.2⟩

/-- A key below the bound is not listed. -/
theorem SMap.get_below {m : SMap α} {lo n : Nat} (h : SMap.wfFrom d lo m = true) (hn : n < lo) : SMap.get d m n = d := by
  cases m with
  | nil => rfl
  | cons p m =>
    simp only [SMap.wfFrom, Bool.and_eq_true, decide_eq_true_eq] at h
    have h1 : n ≠ p.1 := by omega
    have h2 : n < p.1 := by omega
    simp [SMap.get, h1, h2]

/-- Writing a key at or above the bound keeps the canonical form. -/
theorem SMap.wfFrom_set {m : SMap α} {lo n : Nat} {v : α} (h : SMap.wfFrom d lo m = true) (hn : lo ≤ n) :
    SMap.wfFrom d lo (SMap.set d m n v) = true := by
  induction m generalizing lo with
  | nil =>
    by_cases hv : v = d
    · simp [SMap.set, hv, SMap.wfFrom]
    · simp [SMap.set, hv, SMap.wfFrom, hn]
  | cons p m ih =>
    obtain ⟨k, w⟩ := p
    have hp := h
    simp only [SMap.wfFrom, Bool.and_eq_true, decide_eq_true_eq] at hp
    obtain ⟨⟨hlo, hw⟩, hm⟩ := hp
    by_cases h1 : n < k
    · by_cases hv : v = d
      · simpa [SMap.set, h1, hv] using h
      · simp only [SMap.set, if_pos h1, if_neg hv, SMap.wfFrom, Bool.and_eq_true, decide_eq_true_eq]
        exact ⟨⟨hn, hv⟩, ⟨⟨by omega, hw⟩, hm⟩⟩
    · by_cases h2 : n = k
      · by_cases hv : v = d
        · simp only [SMap.set, if_neg h1, if_pos h2, if_pos hv]
          exact SMap.wfFrom_mono (by omega) hm
        · simp only [SMap.set, if_neg h1, if_pos h2, if_neg hv, SMap.wfFrom, Bool.and_eq_true, decide_eq_true_eq]
          exact ⟨⟨hn, hv⟩, h2 ▸ hm⟩
      · simp only [SMap.set, if_neg h1, if_neg h2, SMap.wfFrom, Bool.and_eq_true, decide_eq_true_eq]
        exact ⟨⟨hlo, hw⟩, ih hm (by omega)⟩

/-- Writing a table keeps its canonical form. -/
theorem SMap.wf_set {m : SMap α} {n : Nat} {v : α} (h : SMap.wf d m = true) : SMap.wf d (SMap.set d m n v) = true :=
  SMap.wfFrom_set h (Nat.zero_le n)

/-- Changing an entry keeps the canonical form. -/
theorem SMap.wf_upd {m : SMap α} {n : Nat} {f : α → α} (h : SMap.wf d m = true) : SMap.wf d (SMap.upd d m n f) = true :=
  SMap.wf_set h

omit [DecidableEq α] in
/-- Taking entries out keeps the canonical form. -/
theorem SMap.wfFrom_filter [DecidableEq α] {m : SMap α} {lo : Nat} (p : Nat × α → Bool) (h : SMap.wfFrom d lo m = true) :
    SMap.wfFrom d lo (m.filter p) = true := by
  induction m generalizing lo with
  | nil => rfl
  | cons q m ih =>
    simp only [SMap.wfFrom, Bool.and_eq_true, decide_eq_true_eq] at h
    by_cases hq : p q = true
    · simp only [List.filter_cons, hq, if_true, SMap.wfFrom, Bool.and_eq_true, decide_eq_true_eq]
      exact ⟨h.1, ih h.2⟩
    · simp only [List.filter_cons, hq]
      exact SMap.wfFrom_mono (by omega) (ih h.2)

/-- What is written at a key is read there; every other key reads as before. -/
theorem SMap.get_setFrom {m : SMap α} {lo n : Nat} {v : α} (h : SMap.wfFrom d lo m = true) (k : Nat) :
    SMap.get d (SMap.set d m n v) k = if k = n then v else SMap.get d m k := by
  induction m generalizing lo with
  | nil =>
    by_cases hv : v = d
    · by_cases hk : k = n <;> simp [SMap.set, SMap.get, hv, hk]
    · by_cases hk : k = n
      · simp [SMap.set, SMap.get, hv, hk]
      · simp [SMap.set, SMap.get, hv, hk]
  | cons p m ih =>
    obtain ⟨j, w⟩ := p
    simp only [SMap.wfFrom, Bool.and_eq_true, decide_eq_true_eq] at h
    obtain ⟨⟨hlo, hw⟩, hm⟩ := h
    by_cases h1 : n < j
    · by_cases hv : v = d
      · by_cases hk : k = n
        · have h3 : k ≠ j := by omega
          have h4 : k < j := by omega
          simp [SMap.set, h1, hv, hk, SMap.get]
          omega
        · simp [SMap.set, h1, hv, hk]
      · by_cases hk : k = n
        · simp [SMap.set, h1, hv, SMap.get, hk]
        · by_cases hlt : k < n
          · have h3 : k ≠ j := by omega
            have h4 : k < j := by omega
            simp [SMap.set, h1, hv, SMap.get, hk, hlt, h3, h4]
          · simp [SMap.set, h1, hv, SMap.get, hk, hlt]
    · by_cases h2 : n = j
      · subst h2
        by_cases hv : v = d
        · subst hv
          by_cases hk : k = n
          · subst hk
            simp only [SMap.set, Nat.lt_irrefl, if_false, if_true]
            exact SMap.get_below hm (by omega)
          · simp only [SMap.set, Nat.lt_irrefl, if_false, if_true, SMap.get, hk]
            by_cases hlt : k < n
            · simp only [hlt, if_true]
              exact SMap.get_below hm (by omega)
            · simp only [hlt, if_false]
        · by_cases hk : k = n
          · simp [SMap.set, hv, SMap.get, hk]
          · simp [SMap.set, hv, SMap.get, hk]
      · by_cases hk : k = j
        · have hkn : k ≠ n := by omega
          simp [SMap.set, h1, h2, SMap.get, hk]
          omega
        · by_cases hlt : k < j
          · have hkn : k ≠ n := by omega
            simp [SMap.set, h1, h2, SMap.get, hk, hlt, hkn]
          · simp only [SMap.set, if_neg h1, if_neg h2, SMap.get, if_neg hk, if_neg hlt]
            exact ih hm

/-- Reading after a write. -/
theorem SMap.get_set {m : SMap α} {n : Nat} {v : α} (h : SMap.wf d m = true) (k : Nat) :
    SMap.get d (SMap.set d m n v) k = if k = n then v else SMap.get d m k := SMap.get_setFrom h k

/-- Two tables in canonical form that read the same everywhere are the same table. -/
theorem SMap.ext_from {m m' : SMap α} {lo lo' : Nat} (h : SMap.wfFrom d lo m = true) (h' : SMap.wfFrom d lo' m' = true)
    (e : ∀ k, SMap.get d m k = SMap.get d m' k) : m = m' := by
  induction m generalizing lo lo' m' with
  | nil =>
    cases m' with
    | nil => rfl
    | cons q m' =>
      simp only [SMap.wfFrom, Bool.and_eq_true, decide_eq_true_eq] at h'
      have := e q.1
      simp only [SMap.get, if_true] at this
      exact absurd this.symm h'.1.2
  | cons p m ih =>
    simp only [SMap.wfFrom, Bool.and_eq_true, decide_eq_true_eq] at h
    cases m' with
    | nil =>
      have := e p.1
      simp only [SMap.get, if_true] at this
      exact absurd this h.1.2
    | cons q m' =>
      have hq := h'
      simp only [SMap.wfFrom, Bool.and_eq_true, decide_eq_true_eq] at hq
      have hkey : p.1 = q.1 := by
        rcases Nat.lt_trichotomy p.1 q.1 with hlt | heq | hgt
        · have := e p.1
          have hne : p.1 ≠ q.1 := by omega
          simp only [SMap.get, if_true, if_neg hne, if_pos hlt] at this
          exact absurd this h.1.2
        · exact heq
        · have := e q.1
          have hne : q.1 ≠ p.1 := by omega
          simp only [SMap.get, if_true, if_neg hne, if_pos hgt] at this
          exact absurd this.symm hq.1.2
      have hval : p.2 = q.2 := by
        have := e p.1
        simpa only [SMap.get, if_true, hkey] using this
      have hrest : m = m' := by
        apply ih h.2 (lo' := p.1 + 1) (by rw [hkey]; exact hq.2)
        intro k
        by_cases hk : k ≤ p.1
        · rw [SMap.get_below h.2 (by omega), SMap.get_below hq.2 (by omega)]
        · have := e k
          have h1 : k ≠ p.1 := by omega
          have h2 : ¬ k < p.1 := by omega
          have h3 : k ≠ q.1 := by omega
          have h4 : ¬ k < q.1 := by omega
          simpa only [SMap.get, if_neg h1, if_neg h2, if_neg h3, if_neg h4] using this
      cases p; cases q; simp_all

end Sys2Proof
end

