-- ==== Sys2Proof/Laws/Memory.lean ====
section
/-! SUPPORT. Laws/Memory.lean: physical memory. Writing keeps the canonical form, changes the bytes written and no other, and
what is written is read back (R4). -/

namespace Sys2Proof.Machine

/-- A number built from bytes is below its range. -/
theorem readMem_lt (m : List Host.Cell) (pa n : Nat) : readMem m pa n < 256 ^ n := by
  induction n generalizing pa with
  | zero => simp [readMem]
  | succ n ih =>
    have h := ih (pa + 1)
    have hb : (SMap.get 0#8 m pa).toNat < 256 := (SMap.get 0#8 m pa).isLt
    simp only [readMem, Nat.pow_succ]
    omega

/-- A write keeps the canonical form. -/
theorem writeMem_wf {m : List Host.Cell} (pa v n : Nat) (h : Memory.wf m) : Memory.wf (writeMem m pa v n) := by
  induction n generalizing m pa v with
  | zero => exact h
  | succ n ih => exact ih _ _ (SMap.wf_set h)

/-- A byte outside the bytes written reads as before. -/
theorem get_writeMem_outside {m : List Host.Cell} (pa v n k : Nat) (h : Memory.wf m) (hk : k < pa ∨ pa + n ≤ k) :
    SMap.get 0#8 (writeMem m pa v n) k = SMap.get 0#8 m k := by
  induction n generalizing m pa v with
  | zero => rfl
  | succ n ih =>
    have h1 : k ≠ pa := by omega
    rw [writeMem, ih (pa + 1) (v / 256) (SMap.wf_set h) (by omega), SMap.get_set h, if_neg h1]

/-- Byte i of a write is byte i of the number, little-endian. -/
theorem get_writeMem_inside {m : List Host.Cell} (pa v n i : Nat) (h : Memory.wf m) (hi : i < n) :
    SMap.get 0#8 (writeMem m pa v n) (pa + i) = BitVec.ofNat 8 (v / 256 ^ i) := by
  induction n generalizing m pa v i with
  | zero => omega
  | succ n ih =>
    cases i with
    | zero =>
      rw [writeMem, get_writeMem_outside (pa + 1) (v / 256) n (pa + 0) (SMap.wf_set h) (by omega), SMap.get_set h]
      simp
    | succ i =>
      have e : pa + (i + 1) = (pa + 1) + i := by omega
      rw [writeMem, e, ih (pa + 1) (v / 256) i (SMap.wf_set h) (by omega), Nat.div_div_eq_div_mul, Nat.pow_succ, Nat.mul_comm]

/-- Reading depends on the bytes read alone. -/
theorem readMem_congr {m m' : List Host.Cell} (pa n : Nat)
    (e : ∀ i, i < n → SMap.get 0#8 m (pa + i) = SMap.get 0#8 m' (pa + i)) : readMem m pa n = readMem m' pa n := by
  induction n generalizing pa with
  | zero => rfl
  | succ n ih =>
    have e0 := e 0 (by omega)
    have hs := ih (pa + 1) (fun i hi => by have := e (i + 1) (by omega); rwa [show pa + (i + 1) = pa + 1 + i by omega] at this)
    simp only [Nat.add_zero] at e0
    simp only [readMem, e0, hs]

/-- What is written is read back. -/
theorem readMem_writeMem {m : List Host.Cell} (pa v n : Nat) (h : Memory.wf m) :
    readMem (writeMem m pa v n) pa n = v % 256 ^ n := by
  induction n generalizing m pa v with
  | zero => simp [readMem, Nat.mod_one]
  | succ n ih =>
    have h0 : SMap.get 0#8 (writeMem m pa v (n + 1)) pa = BitVec.ofNat 8 v := by
      have := get_writeMem_inside pa v (n + 1) 0 h (by omega)
      simpa using this
    rw [readMem, h0, writeMem, ih (pa + 1) (v / 256) (SMap.wf_set h)]
    rw [BitVec.toNat_ofNat, show (2 : Nat) ^ 8 = 256 from rfl, Nat.pow_succ, Nat.mul_comm (256 ^ n) 256, Nat.mod_mul]

/-- A range that does not meet the bytes written reads as before. -/
theorem readMem_writeMem_disjoint {m : List Host.Cell} (pa v n qa k : Nat) (h : Memory.wf m)
    (hd : qa + k ≤ pa ∨ pa + n ≤ qa) : readMem (writeMem m pa v n) qa k = readMem m qa k :=
  readMem_congr qa k fun i hi => get_writeMem_outside pa v n (qa + i) h (by omega)

/-- Memory at reset is in canonical form. -/
theorem reset_memWf : State.reset.memWf := rfl

/-- What putting a line does to memory. -/
theorem putLine_mem (s : State) (pa data : Nat) (tag : BitVec 32) :
    (putLine s pa data tag).mem = writeMem s.mem (lineAddr pa) data 64 := by
  rw [putLine]

/-- Putting a line keeps the canonical form. -/
theorem putLine_memWf {s : State} (pa data : Nat) (tag : BitVec 32) (h : s.memWf) : (putLine s pa data tag).memWf := by
  rw [State.memWf, putLine_mem]; exact writeMem_wf _ _ _ h

/-- A cold reset keeps the canonical form. -/
theorem coldOp_memWf {s : State} (h : s.memWf) : (coldOp s).memWf := SMap.wfFrom_filter _ h

end Sys2Proof.Machine
end

