-- ==== Sys2Proof/Laws/PerInstr.lean ====
section
/-! SUPPORT. Laws/PerInstr.lean: for every instruction, the word that the encoder places fits in 32 bits, and that of an
instruction with a row is at least 2^24, so that its opcode is not 0x00 (R325, R334). -/

namespace Sys2Proof.Laws.Encodable

/-- The encoder's number fits in a word, and a row's opcode is not 0x00. -/
def Statement (i : Instr) : Prop := encodeNat i < 2 ^ 32 ∧ (i.isWord = true → 2 ^ 24 ≤ encodeNat i)

/-! Rows of one to nine fields. -/

theorem place_1 (f a0 p0 : Nat) : placeFields f [(a0, p0)] = f + a0 * 2 ^ p0 := rfl
theorem place_2 (f a0 p0 a1 p1 : Nat) : placeFields f [(a0, p0), (a1, p1)] = f + a0 * 2 ^ p0 + a1 * 2 ^ p1 := rfl
theorem place_3 (f a0 p0 a1 p1 a2 p2 : Nat) : placeFields f [(a0, p0), (a1, p1), (a2, p2)] = f + a0 * 2 ^ p0 + a1 * 2 ^ p1 + a2 * 2 ^ p2 := rfl
theorem place_4 (f a0 p0 a1 p1 a2 p2 a3 p3 : Nat) : placeFields f [(a0, p0), (a1, p1), (a2, p2), (a3, p3)] = f + a0 * 2 ^ p0 + a1 * 2 ^ p1 + a2 * 2 ^ p2 + a3 * 2 ^ p3 := rfl
theorem place_5 (f a0 p0 a1 p1 a2 p2 a3 p3 a4 p4 : Nat) : placeFields f [(a0, p0), (a1, p1), (a2, p2), (a3, p3), (a4, p4)] = f + a0 * 2 ^ p0 + a1 * 2 ^ p1 + a2 * 2 ^ p2 + a3 * 2 ^ p3 + a4 * 2 ^ p4 := rfl
theorem place_6 (f a0 p0 a1 p1 a2 p2 a3 p3 a4 p4 a5 p5 : Nat) : placeFields f [(a0, p0), (a1, p1), (a2, p2), (a3, p3), (a4, p4), (a5, p5)] = f + a0 * 2 ^ p0 + a1 * 2 ^ p1 + a2 * 2 ^ p2 + a3 * 2 ^ p3 + a4 * 2 ^ p4 + a5 * 2 ^ p5 := rfl
theorem place_7 (f a0 p0 a1 p1 a2 p2 a3 p3 a4 p4 a5 p5 a6 p6 : Nat) : placeFields f [(a0, p0), (a1, p1), (a2, p2), (a3, p3), (a4, p4), (a5, p5), (a6, p6)] = f + a0 * 2 ^ p0 + a1 * 2 ^ p1 + a2 * 2 ^ p2 + a3 * 2 ^ p3 + a4 * 2 ^ p4 + a5 * 2 ^ p5 + a6 * 2 ^ p6 := rfl
theorem place_8 (f a0 p0 a1 p1 a2 p2 a3 p3 a4 p4 a5 p5 a6 p6 a7 p7 : Nat) : placeFields f [(a0, p0), (a1, p1), (a2, p2), (a3, p3), (a4, p4), (a5, p5), (a6, p6), (a7, p7)] = f + a0 * 2 ^ p0 + a1 * 2 ^ p1 + a2 * 2 ^ p2 + a3 * 2 ^ p3 + a4 * 2 ^ p4 + a5 * 2 ^ p5 + a6 * 2 ^ p6 + a7 * 2 ^ p7 := rfl
theorem place_9 (f a0 p0 a1 p1 a2 p2 a3 p3 a4 p4 a5 p5 a6 p6 a7 p7 a8 p8 : Nat) : placeFields f [(a0, p0), (a1, p1), (a2, p2), (a3, p3), (a4, p4), (a5, p5), (a6, p6), (a7, p7), (a8, p8)] = f + a0 * 2 ^ p0 + a1 * 2 ^ p1 + a2 * 2 ^ p2 + a3 * 2 ^ p3 + a4 * 2 ^ p4 + a5 * 2 ^ p5 + a6 * 2 ^ p6 + a7 * 2 ^ p7 + a8 * 2 ^ p8 := rfl

/-- A row's number, from its bounds. -/
theorem of_row {i : Instr} {n : Nat} (h : encodeNat i = n) (hi : n < 2 ^ 32) (lo : 2 ^ 24 ≤ n) : Statement i :=
  ⟨by rw [h]; exact hi, fun _ => by rw [h]; exact lo⟩

/-- An event has no word. -/
theorem of_event {i : Instr} (hw : i.isWord = false) (h : encodeNat i = 0) : Statement i :=
  ⟨by rw [h]; decide, fun k => by rw [hw] at k; cases k⟩

theorem nop : Statement (.nop) := ⟨by decide, fun _ => by decide⟩
theorem br (i : BitVec 18) : Statement (.br i) := by
  have := i.isLt
  have hi : placeFields 0x2000000 [(i.toNat, 0)] < 2 ^ 32 := by rw [place_1]; omega
  have lo : 2 ^ 24 ≤ placeFields 0x2000000 [(i.toNat, 0)] := by rw [place_1]; omega
  exact of_row (n := placeFields 0x2000000 [(i.toNat, 0)]) rfl hi lo
theorem brcEq (a : BitVec 6) (b : BitVec 6) (o : BitVec 12) : Statement (.brcEq a b o) := by
  have := a.isLt; have := b.isLt; have := o.isLt
  have hi : placeFields 0x3000000 [(a.toNat, 18), (b.toNat, 12), (o.toNat, 0)] < 2 ^ 32 := by rw [place_3]; omega
  have lo : 2 ^ 24 ≤ placeFields 0x3000000 [(a.toNat, 18), (b.toNat, 12), (o.toNat, 0)] := by rw [place_3]; omega
  exact of_row (n := placeFields 0x3000000 [(a.toNat, 18), (b.toNat, 12), (o.toNat, 0)]) rfl hi lo
theorem brcNe (a : BitVec 6) (b : BitVec 6) (o : BitVec 12) : Statement (.brcNe a b o) := by
  have := a.isLt; have := b.isLt; have := o.isLt
  have hi : placeFields 0x4000000 [(a.toNat, 18), (b.toNat, 12), (o.toNat, 0)] < 2 ^ 32 := by rw [place_3]; omega
  have lo : 2 ^ 24 ≤ placeFields 0x4000000 [(a.toNat, 18), (b.toNat, 12), (o.toNat, 0)] := by rw [place_3]; omega
  exact of_row (n := placeFields 0x4000000 [(a.toNat, 18), (b.toNat, 12), (o.toNat, 0)]) rfl hi lo
theorem brcLt (a : BitVec 6) (b : BitVec 6) (o : BitVec 12) : Statement (.brcLt a b o) := by
  have := a.isLt; have := b.isLt; have := o.isLt
  have hi : placeFields 0x5000000 [(a.toNat, 18), (b.toNat, 12), (o.toNat, 0)] < 2 ^ 32 := by rw [place_3]; omega
  have lo : 2 ^ 24 ≤ placeFields 0x5000000 [(a.toNat, 18), (b.toNat, 12), (o.toNat, 0)] := by rw [place_3]; omega
  exact of_row (n := placeFields 0x5000000 [(a.toNat, 18), (b.toNat, 12), (o.toNat, 0)]) rfl hi lo
theorem brcGe (a : BitVec 6) (b : BitVec 6) (o : BitVec 12) : Statement (.brcGe a b o) := by
  have := a.isLt; have := b.isLt; have := o.isLt
  have hi : placeFields 0x6000000 [(a.toNat, 18), (b.toNat, 12), (o.toNat, 0)] < 2 ^ 32 := by rw [place_3]; omega
  have lo : 2 ^ 24 ≤ placeFields 0x6000000 [(a.toNat, 18), (b.toNat, 12), (o.toNat, 0)] := by rw [place_3]; omega
  exact of_row (n := placeFields 0x6000000 [(a.toNat, 18), (b.toNat, 12), (o.toNat, 0)]) rfl hi lo
theorem brcLtu (a : BitVec 6) (b : BitVec 6) (o : BitVec 12) : Statement (.brcLtu a b o) := by
  have := a.isLt; have := b.isLt; have := o.isLt
  have hi : placeFields 0x7000000 [(a.toNat, 18), (b.toNat, 12), (o.toNat, 0)] < 2 ^ 32 := by rw [place_3]; omega
  have lo : 2 ^ 24 ≤ placeFields 0x7000000 [(a.toNat, 18), (b.toNat, 12), (o.toNat, 0)] := by rw [place_3]; omega
  exact of_row (n := placeFields 0x7000000 [(a.toNat, 18), (b.toNat, 12), (o.toNat, 0)]) rfl hi lo
theorem brcGeu (a : BitVec 6) (b : BitVec 6) (o : BitVec 12) : Statement (.brcGeu a b o) := by
  have := a.isLt; have := b.isLt; have := o.isLt
  have hi : placeFields 0x8000000 [(a.toNat, 18), (b.toNat, 12), (o.toNat, 0)] < 2 ^ 32 := by rw [place_3]; omega
  have lo : 2 ^ 24 ≤ placeFields 0x8000000 [(a.toNat, 18), (b.toNat, 12), (o.toNat, 0)] := by rw [place_3]; omega
  exact of_row (n := placeFields 0x8000000 [(a.toNat, 18), (b.toNat, 12), (o.toNat, 0)]) rfl hi lo
theorem brr (a : BitVec 6) : Statement (.brr a) := by
  have := a.isLt
  have hi : placeFields 0x9000000 [(a.toNat, 12)] < 2 ^ 32 := by rw [place_1]; omega
  have lo : 2 ^ 24 ≤ placeFields 0x9000000 [(a.toNat, 12)] := by rw [place_1]; omega
  exact of_row (n := placeFields 0x9000000 [(a.toNat, 12)]) rfl hi lo
theorem call (d : BitVec 6) (i : BitVec 18) : Statement (.call d i) := by
  have := d.isLt; have := i.isLt
  have hi : placeFields 0xa000000 [(d.toNat, 18), (i.toNat, 0)] < 2 ^ 32 := by rw [place_2]; omega
  have lo : 2 ^ 24 ≤ placeFields 0xa000000 [(d.toNat, 18), (i.toNat, 0)] := by rw [place_2]; omega
  exact of_row (n := placeFields 0xa000000 [(d.toNat, 18), (i.toNat, 0)]) rfl hi lo
theorem callr (d : BitVec 6) (a : BitVec 6) : Statement (.callr d a) := by
  have := d.isLt; have := a.isLt
  have hi : placeFields 0xb000000 [(d.toNat, 18), (a.toNat, 12)] < 2 ^ 32 := by rw [place_2]; omega
  have lo : 2 ^ 24 ≤ placeFields 0xb000000 [(d.toNat, 18), (a.toNat, 12)] := by rw [place_2]; omega
  exact of_row (n := placeFields 0xb000000 [(d.toNat, 18), (a.toNat, 12)]) rfl hi lo
theorem brk (i : BitVec 18) : Statement (.brk i) := by
  have := i.isLt
  have hi : placeFields 0xc000000 [(i.toNat, 0)] < 2 ^ 32 := by rw [place_1]; omega
  have lo : 2 ^ 24 ≤ placeFields 0xc000000 [(i.toNat, 0)] := by rw [place_1]; omega
  exact of_row (n := placeFields 0xc000000 [(i.toNat, 0)]) rfl hi lo
theorem exit : Statement (.exit) := ⟨by decide, fun _ => by decide⟩
theorem step : Statement (.step) := ⟨by decide, fun _ => by decide⟩
theorem xstart (i : BitVec 18) : Statement (.xstart i) := by
  have := i.isLt
  have hi : placeFields 0xf000000 [(i.toNat, 0)] < 2 ^ 32 := by rw [place_1]; omega
  have lo : 2 ^ 24 ≤ placeFields 0xf000000 [(i.toNat, 0)] := by rw [place_1]; omega
  exact of_row (n := placeFields 0xf000000 [(i.toNat, 0)]) rfl hi lo
theorem add (d : BitVec 6) (a : BitVec 6) (b : BitVec 6) : Statement (.add d a b) := by
  have := d.isLt; have := a.isLt; have := b.isLt
  have hi : placeFields 0x10000000 [(d.toNat, 18), (a.toNat, 12), (b.toNat, 6)] < 2 ^ 32 := by rw [place_3]; omega
  have lo : 2 ^ 24 ≤ placeFields 0x10000000 [(d.toNat, 18), (a.toNat, 12), (b.toNat, 6)] := by rw [place_3]; omega
  exact of_row (n := placeFields 0x10000000 [(d.toNat, 18), (a.toNat, 12), (b.toNat, 6)]) rfl hi lo
theorem sub (d : BitVec 6) (a : BitVec 6) (b : BitVec 6) : Statement (.sub d a b) := by
  have := d.isLt; have := a.isLt; have := b.isLt
  have hi : placeFields 0x11000000 [(d.toNat, 18), (a.toNat, 12), (b.toNat, 6)] < 2 ^ 32 := by rw [place_3]; omega
  have lo : 2 ^ 24 ≤ placeFields 0x11000000 [(d.toNat, 18), (a.toNat, 12), (b.toNat, 6)] := by rw [place_3]; omega
  exact of_row (n := placeFields 0x11000000 [(d.toNat, 18), (a.toNat, 12), (b.toNat, 6)]) rfl hi lo
theorem mul (d : BitVec 6) (a : BitVec 6) (b : BitVec 6) : Statement (.mul d a b) := by
  have := d.isLt; have := a.isLt; have := b.isLt
  have hi : placeFields 0x12000000 [(d.toNat, 18), (a.toNat, 12), (b.toNat, 6)] < 2 ^ 32 := by rw [place_3]; omega
  have lo : 2 ^ 24 ≤ placeFields 0x12000000 [(d.toNat, 18), (a.toNat, 12), (b.toNat, 6)] := by rw [place_3]; omega
  exact of_row (n := placeFields 0x12000000 [(d.toNat, 18), (a.toNat, 12), (b.toNat, 6)]) rfl hi lo
theorem mulh (d : BitVec 6) (a : BitVec 6) (b : BitVec 6) : Statement (.mulh d a b) := by
  have := d.isLt; have := a.isLt; have := b.isLt
  have hi : placeFields 0x13000000 [(d.toNat, 18), (a.toNat, 12), (b.toNat, 6)] < 2 ^ 32 := by rw [place_3]; omega
  have lo : 2 ^ 24 ≤ placeFields 0x13000000 [(d.toNat, 18), (a.toNat, 12), (b.toNat, 6)] := by rw [place_3]; omega
  exact of_row (n := placeFields 0x13000000 [(d.toNat, 18), (a.toNat, 12), (b.toNat, 6)]) rfl hi lo
theorem mulhu (d : BitVec 6) (a : BitVec 6) (b : BitVec 6) : Statement (.mulhu d a b) := by
  have := d.isLt; have := a.isLt; have := b.isLt
  have hi : placeFields 0x14000000 [(d.toNat, 18), (a.toNat, 12), (b.toNat, 6)] < 2 ^ 32 := by rw [place_3]; omega
  have lo : 2 ^ 24 ≤ placeFields 0x14000000 [(d.toNat, 18), (a.toNat, 12), (b.toNat, 6)] := by rw [place_3]; omega
  exact of_row (n := placeFields 0x14000000 [(d.toNat, 18), (a.toNat, 12), (b.toNat, 6)]) rfl hi lo
theorem div (d : BitVec 6) (a : BitVec 6) (b : BitVec 6) : Statement (.div d a b) := by
  have := d.isLt; have := a.isLt; have := b.isLt
  have hi : placeFields 0x15000000 [(d.toNat, 18), (a.toNat, 12), (b.toNat, 6)] < 2 ^ 32 := by rw [place_3]; omega
  have lo : 2 ^ 24 ≤ placeFields 0x15000000 [(d.toNat, 18), (a.toNat, 12), (b.toNat, 6)] := by rw [place_3]; omega
  exact of_row (n := placeFields 0x15000000 [(d.toNat, 18), (a.toNat, 12), (b.toNat, 6)]) rfl hi lo
theorem divu (d : BitVec 6) (a : BitVec 6) (b : BitVec 6) : Statement (.divu d a b) := by
  have := d.isLt; have := a.isLt; have := b.isLt
  have hi : placeFields 0x16000000 [(d.toNat, 18), (a.toNat, 12), (b.toNat, 6)] < 2 ^ 32 := by rw [place_3]; omega
  have lo : 2 ^ 24 ≤ placeFields 0x16000000 [(d.toNat, 18), (a.toNat, 12), (b.toNat, 6)] := by rw [place_3]; omega
  exact of_row (n := placeFields 0x16000000 [(d.toNat, 18), (a.toNat, 12), (b.toNat, 6)]) rfl hi lo
theorem rem (d : BitVec 6) (a : BitVec 6) (b : BitVec 6) : Statement (.rem d a b) := by
  have := d.isLt; have := a.isLt; have := b.isLt
  have hi : placeFields 0x17000000 [(d.toNat, 18), (a.toNat, 12), (b.toNat, 6)] < 2 ^ 32 := by rw [place_3]; omega
  have lo : 2 ^ 24 ≤ placeFields 0x17000000 [(d.toNat, 18), (a.toNat, 12), (b.toNat, 6)] := by rw [place_3]; omega
  exact of_row (n := placeFields 0x17000000 [(d.toNat, 18), (a.toNat, 12), (b.toNat, 6)]) rfl hi lo
theorem remu (d : BitVec 6) (a : BitVec 6) (b : BitVec 6) : Statement (.remu d a b) := by
  have := d.isLt; have := a.isLt; have := b.isLt
  have hi : placeFields 0x18000000 [(d.toNat, 18), (a.toNat, 12), (b.toNat, 6)] < 2 ^ 32 := by rw [place_3]; omega
  have lo : 2 ^ 24 ≤ placeFields 0x18000000 [(d.toNat, 18), (a.toNat, 12), (b.toNat, 6)] := by rw [place_3]; omega
  exact of_row (n := placeFields 0x18000000 [(d.toNat, 18), (a.toNat, 12), (b.toNat, 6)]) rfl hi lo
theorem and (d : BitVec 6) (a : BitVec 6) (b : BitVec 6) : Statement (.and d a b) := by
  have := d.isLt; have := a.isLt; have := b.isLt
  have hi : placeFields 0x19000000 [(d.toNat, 18), (a.toNat, 12), (b.toNat, 6)] < 2 ^ 32 := by rw [place_3]; omega
  have lo : 2 ^ 24 ≤ placeFields 0x19000000 [(d.toNat, 18), (a.toNat, 12), (b.toNat, 6)] := by rw [place_3]; omega
  exact of_row (n := placeFields 0x19000000 [(d.toNat, 18), (a.toNat, 12), (b.toNat, 6)]) rfl hi lo
theorem or (d : BitVec 6) (a : BitVec 6) (b : BitVec 6) : Statement (.or d a b) := by
  have := d.isLt; have := a.isLt; have := b.isLt
  have hi : placeFields 0x1a000000 [(d.toNat, 18), (a.toNat, 12), (b.toNat, 6)] < 2 ^ 32 := by rw [place_3]; omega
  have lo : 2 ^ 24 ≤ placeFields 0x1a000000 [(d.toNat, 18), (a.toNat, 12), (b.toNat, 6)] := by rw [place_3]; omega
  exact of_row (n := placeFields 0x1a000000 [(d.toNat, 18), (a.toNat, 12), (b.toNat, 6)]) rfl hi lo
theorem xor (d : BitVec 6) (a : BitVec 6) (b : BitVec 6) : Statement (.xor d a b) := by
  have := d.isLt; have := a.isLt; have := b.isLt
  have hi : placeFields 0x1b000000 [(d.toNat, 18), (a.toNat, 12), (b.toNat, 6)] < 2 ^ 32 := by rw [place_3]; omega
  have lo : 2 ^ 24 ≤ placeFields 0x1b000000 [(d.toNat, 18), (a.toNat, 12), (b.toNat, 6)] := by rw [place_3]; omega
  exact of_row (n := placeFields 0x1b000000 [(d.toNat, 18), (a.toNat, 12), (b.toNat, 6)]) rfl hi lo
theorem andn (d : BitVec 6) (a : BitVec 6) (b : BitVec 6) : Statement (.andn d a b) := by
  have := d.isLt; have := a.isLt; have := b.isLt
  have hi : placeFields 0x1c000000 [(d.toNat, 18), (a.toNat, 12), (b.toNat, 6)] < 2 ^ 32 := by rw [place_3]; omega
  have lo : 2 ^ 24 ≤ placeFields 0x1c000000 [(d.toNat, 18), (a.toNat, 12), (b.toNat, 6)] := by rw [place_3]; omega
  exact of_row (n := placeFields 0x1c000000 [(d.toNat, 18), (a.toNat, 12), (b.toNat, 6)]) rfl hi lo
theorem sll (d : BitVec 6) (a : BitVec 6) (b : BitVec 6) : Statement (.sll d a b) := by
  have := d.isLt; have := a.isLt; have := b.isLt
  have hi : placeFields 0x1d000000 [(d.toNat, 18), (a.toNat, 12), (b.toNat, 6)] < 2 ^ 32 := by rw [place_3]; omega
  have lo : 2 ^ 24 ≤ placeFields 0x1d000000 [(d.toNat, 18), (a.toNat, 12), (b.toNat, 6)] := by rw [place_3]; omega
  exact of_row (n := placeFields 0x1d000000 [(d.toNat, 18), (a.toNat, 12), (b.toNat, 6)]) rfl hi lo
theorem srl (d : BitVec 6) (a : BitVec 6) (b : BitVec 6) : Statement (.srl d a b) := by
  have := d.isLt; have := a.isLt; have := b.isLt
  have hi : placeFields 0x1e000000 [(d.toNat, 18), (a.toNat, 12), (b.toNat, 6)] < 2 ^ 32 := by rw [place_3]; omega
  have lo : 2 ^ 24 ≤ placeFields 0x1e000000 [(d.toNat, 18), (a.toNat, 12), (b.toNat, 6)] := by rw [place_3]; omega
  exact of_row (n := placeFields 0x1e000000 [(d.toNat, 18), (a.toNat, 12), (b.toNat, 6)]) rfl hi lo
theorem sra (d : BitVec 6) (a : BitVec 6) (b : BitVec 6) : Statement (.sra d a b) := by
  have := d.isLt; have := a.isLt; have := b.isLt
  have hi : placeFields 0x1f000000 [(d.toNat, 18), (a.toNat, 12), (b.toNat, 6)] < 2 ^ 32 := by rw [place_3]; omega
  have lo : 2 ^ 24 ≤ placeFields 0x1f000000 [(d.toNat, 18), (a.toNat, 12), (b.toNat, 6)] := by rw [place_3]; omega
  exact of_row (n := placeFields 0x1f000000 [(d.toNat, 18), (a.toNat, 12), (b.toNat, 6)]) rfl hi lo
theorem min (d : BitVec 6) (a : BitVec 6) (b : BitVec 6) : Statement (.min d a b) := by
  have := d.isLt; have := a.isLt; have := b.isLt
  have hi : placeFields 0x20000000 [(d.toNat, 18), (a.toNat, 12), (b.toNat, 6)] < 2 ^ 32 := by rw [place_3]; omega
  have lo : 2 ^ 24 ≤ placeFields 0x20000000 [(d.toNat, 18), (a.toNat, 12), (b.toNat, 6)] := by rw [place_3]; omega
  exact of_row (n := placeFields 0x20000000 [(d.toNat, 18), (a.toNat, 12), (b.toNat, 6)]) rfl hi lo
theorem max (d : BitVec 6) (a : BitVec 6) (b : BitVec 6) : Statement (.max d a b) := by
  have := d.isLt; have := a.isLt; have := b.isLt
  have hi : placeFields 0x21000000 [(d.toNat, 18), (a.toNat, 12), (b.toNat, 6)] < 2 ^ 32 := by rw [place_3]; omega
  have lo : 2 ^ 24 ≤ placeFields 0x21000000 [(d.toNat, 18), (a.toNat, 12), (b.toNat, 6)] := by rw [place_3]; omega
  exact of_row (n := placeFields 0x21000000 [(d.toNat, 18), (a.toNat, 12), (b.toNat, 6)]) rfl hi lo
theorem minu (d : BitVec 6) (a : BitVec 6) (b : BitVec 6) : Statement (.minu d a b) := by
  have := d.isLt; have := a.isLt; have := b.isLt
  have hi : placeFields 0x22000000 [(d.toNat, 18), (a.toNat, 12), (b.toNat, 6)] < 2 ^ 32 := by rw [place_3]; omega
  have lo : 2 ^ 24 ≤ placeFields 0x22000000 [(d.toNat, 18), (a.toNat, 12), (b.toNat, 6)] := by rw [place_3]; omega
  exact of_row (n := placeFields 0x22000000 [(d.toNat, 18), (a.toNat, 12), (b.toNat, 6)]) rfl hi lo
theorem maxu (d : BitVec 6) (a : BitVec 6) (b : BitVec 6) : Statement (.maxu d a b) := by
  have := d.isLt; have := a.isLt; have := b.isLt
  have hi : placeFields 0x23000000 [(d.toNat, 18), (a.toNat, 12), (b.toNat, 6)] < 2 ^ 32 := by rw [place_3]; omega
  have lo : 2 ^ 24 ≤ placeFields 0x23000000 [(d.toNat, 18), (a.toNat, 12), (b.toNat, 6)] := by rw [place_3]; omega
  exact of_row (n := placeFields 0x23000000 [(d.toNat, 18), (a.toNat, 12), (b.toNat, 6)]) rfl hi lo
theorem slt (d : BitVec 6) (a : BitVec 6) (b : BitVec 6) : Statement (.slt d a b) := by
  have := d.isLt; have := a.isLt; have := b.isLt
  have hi : placeFields 0x24000000 [(d.toNat, 18), (a.toNat, 12), (b.toNat, 6)] < 2 ^ 32 := by rw [place_3]; omega
  have lo : 2 ^ 24 ≤ placeFields 0x24000000 [(d.toNat, 18), (a.toNat, 12), (b.toNat, 6)] := by rw [place_3]; omega
  exact of_row (n := placeFields 0x24000000 [(d.toNat, 18), (a.toNat, 12), (b.toNat, 6)]) rfl hi lo
theorem sltu (d : BitVec 6) (a : BitVec 6) (b : BitVec 6) : Statement (.sltu d a b) := by
  have := d.isLt; have := a.isLt; have := b.isLt
  have hi : placeFields 0x25000000 [(d.toNat, 18), (a.toNat, 12), (b.toNat, 6)] < 2 ^ 32 := by rw [place_3]; omega
  have lo : 2 ^ 24 ≤ placeFields 0x25000000 [(d.toNat, 18), (a.toNat, 12), (b.toNat, 6)] := by rw [place_3]; omega
  exact of_row (n := placeFields 0x25000000 [(d.toNat, 18), (a.toNat, 12), (b.toNat, 6)]) rfl hi lo
theorem seq (d : BitVec 6) (a : BitVec 6) (b : BitVec 6) : Statement (.seq d a b) := by
  have := d.isLt; have := a.isLt; have := b.isLt
  have hi : placeFields 0x26000000 [(d.toNat, 18), (a.toNat, 12), (b.toNat, 6)] < 2 ^ 32 := by rw [place_3]; omega
  have lo : 2 ^ 24 ≤ placeFields 0x26000000 [(d.toNat, 18), (a.toNat, 12), (b.toNat, 6)] := by rw [place_3]; omega
  exact of_row (n := placeFields 0x26000000 [(d.toNat, 18), (a.toNat, 12), (b.toNat, 6)]) rfl hi lo
theorem sel (d : BitVec 6) (a : BitVec 6) (b : BitVec 6) (f : BitVec 6) : Statement (.sel d a b f) := by
  have := d.isLt; have := a.isLt; have := b.isLt; have := f.isLt
  have hi : placeFields 0x27000000 [(d.toNat, 18), (a.toNat, 12), (b.toNat, 6), (f.toNat, 0)] < 2 ^ 32 := by rw [place_4]; omega
  have lo : 2 ^ 24 ≤ placeFields 0x27000000 [(d.toNat, 18), (a.toNat, 12), (b.toNat, 6), (f.toNat, 0)] := by rw [place_4]; omega
  exact of_row (n := placeFields 0x27000000 [(d.toNat, 18), (a.toNat, 12), (b.toNat, 6), (f.toNat, 0)]) rfl hi lo
theorem clz (d : BitVec 6) (a : BitVec 6) : Statement (.clz d a) := by
  have := d.isLt; have := a.isLt
  have hi : placeFields 0x28000000 [(d.toNat, 18), (a.toNat, 12)] < 2 ^ 32 := by rw [place_2]; omega
  have lo : 2 ^ 24 ≤ placeFields 0x28000000 [(d.toNat, 18), (a.toNat, 12)] := by rw [place_2]; omega
  exact of_row (n := placeFields 0x28000000 [(d.toNat, 18), (a.toNat, 12)]) rfl hi lo
theorem ctz (d : BitVec 6) (a : BitVec 6) : Statement (.ctz d a) := by
  have := d.isLt; have := a.isLt
  have hi : placeFields 0x28000001 [(d.toNat, 18), (a.toNat, 12)] < 2 ^ 32 := by rw [place_2]; omega
  have lo : 2 ^ 24 ≤ placeFields 0x28000001 [(d.toNat, 18), (a.toNat, 12)] := by rw [place_2]; omega
  exact of_row (n := placeFields 0x28000001 [(d.toNat, 18), (a.toNat, 12)]) rfl hi lo
theorem popc (d : BitVec 6) (a : BitVec 6) : Statement (.popc d a) := by
  have := d.isLt; have := a.isLt
  have hi : placeFields 0x28000002 [(d.toNat, 18), (a.toNat, 12)] < 2 ^ 32 := by rw [place_2]; omega
  have lo : 2 ^ 24 ≤ placeFields 0x28000002 [(d.toNat, 18), (a.toNat, 12)] := by rw [place_2]; omega
  exact of_row (n := placeFields 0x28000002 [(d.toNat, 18), (a.toNat, 12)]) rfl hi lo
theorem addsh (d : BitVec 6) (a : BitVec 6) (b : BitVec 6) (s : BitVec 6) : Statement (.addsh d a b s) := by
  have := d.isLt; have := a.isLt; have := b.isLt; have := s.isLt
  have hi : placeFields 0x29000000 [(d.toNat, 18), (a.toNat, 12), (b.toNat, 6), (s.toNat, 0)] < 2 ^ 32 := by rw [place_4]; omega
  have lo : 2 ^ 24 ≤ placeFields 0x29000000 [(d.toNat, 18), (a.toNat, 12), (b.toNat, 6), (s.toNat, 0)] := by rw [place_4]; omega
  exact of_row (n := placeFields 0x29000000 [(d.toNat, 18), (a.toNat, 12), (b.toNat, 6), (s.toNat, 0)]) rfl hi lo
theorem addi (d : BitVec 6) (a : BitVec 6) (i : BitVec 12) : Statement (.addi d a i) := by
  have := d.isLt; have := a.isLt; have := i.isLt
  have hi : placeFields 0x2a000000 [(d.toNat, 18), (a.toNat, 12), (i.toNat, 0)] < 2 ^ 32 := by rw [place_3]; omega
  have lo : 2 ^ 24 ≤ placeFields 0x2a000000 [(d.toNat, 18), (a.toNat, 12), (i.toNat, 0)] := by rw [place_3]; omega
  exact of_row (n := placeFields 0x2a000000 [(d.toNat, 18), (a.toNat, 12), (i.toNat, 0)]) rfl hi lo
theorem andi (d : BitVec 6) (a : BitVec 6) (i : BitVec 12) : Statement (.andi d a i) := by
  have := d.isLt; have := a.isLt; have := i.isLt
  have hi : placeFields 0x2b000000 [(d.toNat, 18), (a.toNat, 12), (i.toNat, 0)] < 2 ^ 32 := by rw [place_3]; omega
  have lo : 2 ^ 24 ≤ placeFields 0x2b000000 [(d.toNat, 18), (a.toNat, 12), (i.toNat, 0)] := by rw [place_3]; omega
  exact of_row (n := placeFields 0x2b000000 [(d.toNat, 18), (a.toNat, 12), (i.toNat, 0)]) rfl hi lo
theorem ori (d : BitVec 6) (a : BitVec 6) (i : BitVec 12) : Statement (.ori d a i) := by
  have := d.isLt; have := a.isLt; have := i.isLt
  have hi : placeFields 0x2c000000 [(d.toNat, 18), (a.toNat, 12), (i.toNat, 0)] < 2 ^ 32 := by rw [place_3]; omega
  have lo : 2 ^ 24 ≤ placeFields 0x2c000000 [(d.toNat, 18), (a.toNat, 12), (i.toNat, 0)] := by rw [place_3]; omega
  exact of_row (n := placeFields 0x2c000000 [(d.toNat, 18), (a.toNat, 12), (i.toNat, 0)]) rfl hi lo
theorem slli (d : BitVec 6) (a : BitVec 6) (s : BitVec 6) : Statement (.slli d a s) := by
  have := d.isLt; have := a.isLt; have := s.isLt
  have hi : placeFields 0x2d000000 [(d.toNat, 18), (a.toNat, 12), (s.toNat, 0)] < 2 ^ 32 := by rw [place_3]; omega
  have lo : 2 ^ 24 ≤ placeFields 0x2d000000 [(d.toNat, 18), (a.toNat, 12), (s.toNat, 0)] := by rw [place_3]; omega
  exact of_row (n := placeFields 0x2d000000 [(d.toNat, 18), (a.toNat, 12), (s.toNat, 0)]) rfl hi lo
theorem srli (d : BitVec 6) (a : BitVec 6) (s : BitVec 6) : Statement (.srli d a s) := by
  have := d.isLt; have := a.isLt; have := s.isLt
  have hi : placeFields 0x2d000040 [(d.toNat, 18), (a.toNat, 12), (s.toNat, 0)] < 2 ^ 32 := by rw [place_3]; omega
  have lo : 2 ^ 24 ≤ placeFields 0x2d000040 [(d.toNat, 18), (a.toNat, 12), (s.toNat, 0)] := by rw [place_3]; omega
  exact of_row (n := placeFields 0x2d000040 [(d.toNat, 18), (a.toNat, 12), (s.toNat, 0)]) rfl hi lo
theorem srai (d : BitVec 6) (a : BitVec 6) (s : BitVec 6) : Statement (.srai d a s) := by
  have := d.isLt; have := a.isLt; have := s.isLt
  have hi : placeFields 0x2d000080 [(d.toNat, 18), (a.toNat, 12), (s.toNat, 0)] < 2 ^ 32 := by rw [place_3]; omega
  have lo : 2 ^ 24 ≤ placeFields 0x2d000080 [(d.toNat, 18), (a.toNat, 12), (s.toNat, 0)] := by rw [place_3]; omega
  exact of_row (n := placeFields 0x2d000080 [(d.toNat, 18), (a.toNat, 12), (s.toNat, 0)]) rfl hi lo
theorem li (d : BitVec 6) (i : BitVec 18) : Statement (.li d i) := by
  have := d.isLt; have := i.isLt
  have hi : placeFields 0x2e000000 [(d.toNat, 18), (i.toNat, 0)] < 2 ^ 32 := by rw [place_2]; omega
  have lo : 2 ^ 24 ≤ placeFields 0x2e000000 [(d.toNat, 18), (i.toNat, 0)] := by rw [place_2]; omega
  exact of_row (n := placeFields 0x2e000000 [(d.toNat, 18), (i.toNat, 0)]) rfl hi lo
theorem lih (d : BitVec 6) (p : BitVec 2) (h : BitVec 16) : Statement (.lih d p h) := by
  have := d.isLt; have := p.isLt; have := h.isLt
  have hi : placeFields 0x2f000000 [(d.toNat, 18), (p.toNat, 16), (h.toNat, 0)] < 2 ^ 32 := by rw [place_3]; omega
  have lo : 2 ^ 24 ≤ placeFields 0x2f000000 [(d.toNat, 18), (p.toNat, 16), (h.toNat, 0)] := by rw [place_3]; omega
  exact of_row (n := placeFields 0x2f000000 [(d.toNat, 18), (p.toNat, 16), (h.toNat, 0)]) rfl hi lo
theorem ldB (d : BitVec 6) (a : BitVec 6) (i : BitVec 12) : Statement (.ldB d a i) := by
  have := d.isLt; have := a.isLt; have := i.isLt
  have hi : placeFields 0x30000000 [(d.toNat, 18), (a.toNat, 12), (i.toNat, 0)] < 2 ^ 32 := by rw [place_3]; omega
  have lo : 2 ^ 24 ≤ placeFields 0x30000000 [(d.toNat, 18), (a.toNat, 12), (i.toNat, 0)] := by rw [place_3]; omega
  exact of_row (n := placeFields 0x30000000 [(d.toNat, 18), (a.toNat, 12), (i.toNat, 0)]) rfl hi lo
theorem ldBu (d : BitVec 6) (a : BitVec 6) (i : BitVec 12) : Statement (.ldBu d a i) := by
  have := d.isLt; have := a.isLt; have := i.isLt
  have hi : placeFields 0x31000000 [(d.toNat, 18), (a.toNat, 12), (i.toNat, 0)] < 2 ^ 32 := by rw [place_3]; omega
  have lo : 2 ^ 24 ≤ placeFields 0x31000000 [(d.toNat, 18), (a.toNat, 12), (i.toNat, 0)] := by rw [place_3]; omega
  exact of_row (n := placeFields 0x31000000 [(d.toNat, 18), (a.toNat, 12), (i.toNat, 0)]) rfl hi lo
theorem ldH (d : BitVec 6) (a : BitVec 6) (i : BitVec 12) : Statement (.ldH d a i) := by
  have := d.isLt; have := a.isLt; have := i.isLt
  have hi : placeFields 0x32000000 [(d.toNat, 18), (a.toNat, 12), (i.toNat, 0)] < 2 ^ 32 := by rw [place_3]; omega
  have lo : 2 ^ 24 ≤ placeFields 0x32000000 [(d.toNat, 18), (a.toNat, 12), (i.toNat, 0)] := by rw [place_3]; omega
  exact of_row (n := placeFields 0x32000000 [(d.toNat, 18), (a.toNat, 12), (i.toNat, 0)]) rfl hi lo
theorem ldHu (d : BitVec 6) (a : BitVec 6) (i : BitVec 12) : Statement (.ldHu d a i) := by
  have := d.isLt; have := a.isLt; have := i.isLt
  have hi : placeFields 0x33000000 [(d.toNat, 18), (a.toNat, 12), (i.toNat, 0)] < 2 ^ 32 := by rw [place_3]; omega
  have lo : 2 ^ 24 ≤ placeFields 0x33000000 [(d.toNat, 18), (a.toNat, 12), (i.toNat, 0)] := by rw [place_3]; omega
  exact of_row (n := placeFields 0x33000000 [(d.toNat, 18), (a.toNat, 12), (i.toNat, 0)]) rfl hi lo
theorem ldW (d : BitVec 6) (a : BitVec 6) (i : BitVec 12) : Statement (.ldW d a i) := by
  have := d.isLt; have := a.isLt; have := i.isLt
  have hi : placeFields 0x34000000 [(d.toNat, 18), (a.toNat, 12), (i.toNat, 0)] < 2 ^ 32 := by rw [place_3]; omega
  have lo : 2 ^ 24 ≤ placeFields 0x34000000 [(d.toNat, 18), (a.toNat, 12), (i.toNat, 0)] := by rw [place_3]; omega
  exact of_row (n := placeFields 0x34000000 [(d.toNat, 18), (a.toNat, 12), (i.toNat, 0)]) rfl hi lo
theorem ldWu (d : BitVec 6) (a : BitVec 6) (i : BitVec 12) : Statement (.ldWu d a i) := by
  have := d.isLt; have := a.isLt; have := i.isLt
  have hi : placeFields 0x35000000 [(d.toNat, 18), (a.toNat, 12), (i.toNat, 0)] < 2 ^ 32 := by rw [place_3]; omega
  have lo : 2 ^ 24 ≤ placeFields 0x35000000 [(d.toNat, 18), (a.toNat, 12), (i.toNat, 0)] := by rw [place_3]; omega
  exact of_row (n := placeFields 0x35000000 [(d.toNat, 18), (a.toNat, 12), (i.toNat, 0)]) rfl hi lo
theorem ldD (d : BitVec 6) (a : BitVec 6) (i : BitVec 12) : Statement (.ldD d a i) := by
  have := d.isLt; have := a.isLt; have := i.isLt
  have hi : placeFields 0x36000000 [(d.toNat, 18), (a.toNat, 12), (i.toNat, 0)] < 2 ^ 32 := by rw [place_3]; omega
  have lo : 2 ^ 24 ≤ placeFields 0x36000000 [(d.toNat, 18), (a.toNat, 12), (i.toNat, 0)] := by rw [place_3]; omega
  exact of_row (n := placeFields 0x36000000 [(d.toNat, 18), (a.toNat, 12), (i.toNat, 0)]) rfl hi lo
theorem stB (d : BitVec 6) (a : BitVec 6) (i : BitVec 12) : Statement (.stB d a i) := by
  have := d.isLt; have := a.isLt; have := i.isLt
  have hi : placeFields 0x37000000 [(d.toNat, 18), (a.toNat, 12), (i.toNat, 0)] < 2 ^ 32 := by rw [place_3]; omega
  have lo : 2 ^ 24 ≤ placeFields 0x37000000 [(d.toNat, 18), (a.toNat, 12), (i.toNat, 0)] := by rw [place_3]; omega
  exact of_row (n := placeFields 0x37000000 [(d.toNat, 18), (a.toNat, 12), (i.toNat, 0)]) rfl hi lo
theorem stH (d : BitVec 6) (a : BitVec 6) (i : BitVec 12) : Statement (.stH d a i) := by
  have := d.isLt; have := a.isLt; have := i.isLt
  have hi : placeFields 0x38000000 [(d.toNat, 18), (a.toNat, 12), (i.toNat, 0)] < 2 ^ 32 := by rw [place_3]; omega
  have lo : 2 ^ 24 ≤ placeFields 0x38000000 [(d.toNat, 18), (a.toNat, 12), (i.toNat, 0)] := by rw [place_3]; omega
  exact of_row (n := placeFields 0x38000000 [(d.toNat, 18), (a.toNat, 12), (i.toNat, 0)]) rfl hi lo
theorem stW (d : BitVec 6) (a : BitVec 6) (i : BitVec 12) : Statement (.stW d a i) := by
  have := d.isLt; have := a.isLt; have := i.isLt
  have hi : placeFields 0x39000000 [(d.toNat, 18), (a.toNat, 12), (i.toNat, 0)] < 2 ^ 32 := by rw [place_3]; omega
  have lo : 2 ^ 24 ≤ placeFields 0x39000000 [(d.toNat, 18), (a.toNat, 12), (i.toNat, 0)] := by rw [place_3]; omega
  exact of_row (n := placeFields 0x39000000 [(d.toNat, 18), (a.toNat, 12), (i.toNat, 0)]) rfl hi lo
theorem stD (d : BitVec 6) (a : BitVec 6) (i : BitVec 12) : Statement (.stD d a i) := by
  have := d.isLt; have := a.isLt; have := i.isLt
  have hi : placeFields 0x3a000000 [(d.toNat, 18), (a.toNat, 12), (i.toNat, 0)] < 2 ^ 32 := by rw [place_3]; omega
  have lo : 2 ^ 24 ≤ placeFields 0x3a000000 [(d.toNat, 18), (a.toNat, 12), (i.toNat, 0)] := by rw [place_3]; omega
  exact of_row (n := placeFields 0x3a000000 [(d.toNat, 18), (a.toNat, 12), (i.toNat, 0)]) rfl hi lo
theorem ldl (d : BitVec 6) (a : BitVec 6) (i : BitVec 12) : Statement (.ldl d a i) := by
  have := d.isLt; have := a.isLt; have := i.isLt
  have hi : placeFields 0x3b000000 [(d.toNat, 18), (a.toNat, 12), (i.toNat, 0)] < 2 ^ 32 := by rw [place_3]; omega
  have lo : 2 ^ 24 ≤ placeFields 0x3b000000 [(d.toNat, 18), (a.toNat, 12), (i.toNat, 0)] := by rw [place_3]; omega
  exact of_row (n := placeFields 0x3b000000 [(d.toNat, 18), (a.toNat, 12), (i.toNat, 0)]) rfl hi lo
theorem stl (d : BitVec 6) (a : BitVec 6) (i : BitVec 12) : Statement (.stl d a i) := by
  have := d.isLt; have := a.isLt; have := i.isLt
  have hi : placeFields 0x3c000000 [(d.toNat, 18), (a.toNat, 12), (i.toNat, 0)] < 2 ^ 32 := by rw [place_3]; omega
  have lo : 2 ^ 24 ≤ placeFields 0x3c000000 [(d.toNat, 18), (a.toNat, 12), (i.toNat, 0)] := by rw [place_3]; omega
  exact of_row (n := placeFields 0x3c000000 [(d.toNat, 18), (a.toNat, 12), (i.toNat, 0)]) rfl hi lo
theorem tagr (d : BitVec 6) (a : BitVec 6) (i : BitVec 12) : Statement (.tagr d a i) := by
  have := d.isLt; have := a.isLt; have := i.isLt
  have hi : placeFields 0x3d000000 [(d.toNat, 18), (a.toNat, 12), (i.toNat, 0)] < 2 ^ 32 := by rw [place_3]; omega
  have lo : 2 ^ 24 ≤ placeFields 0x3d000000 [(d.toNat, 18), (a.toNat, 12), (i.toNat, 0)] := by rw [place_3]; omega
  exact of_row (n := placeFields 0x3d000000 [(d.toNat, 18), (a.toNat, 12), (i.toNat, 0)]) rfl hi lo
theorem tagw (d : BitVec 6) (a : BitVec 6) (i : BitVec 12) : Statement (.tagw d a i) := by
  have := d.isLt; have := a.isLt; have := i.isLt
  have hi : placeFields 0x3e000000 [(d.toNat, 18), (a.toNat, 12), (i.toNat, 0)] < 2 ^ 32 := by rw [place_3]; omega
  have lo : 2 ^ 24 ≤ placeFields 0x3e000000 [(d.toNat, 18), (a.toNat, 12), (i.toNat, 0)] := by rw [place_3]; omega
  exact of_row (n := placeFields 0x3e000000 [(d.toNat, 18), (a.toNat, 12), (i.toNat, 0)]) rfl hi lo
theorem pref (a : BitVec 6) (i : BitVec 12) : Statement (.pref a i) := by
  have := a.isLt; have := i.isLt
  have hi : placeFields 0x3f000000 [(a.toNat, 12), (i.toNat, 0)] < 2 ^ 32 := by rw [place_2]; omega
  have lo : 2 ^ 24 ≤ placeFields 0x3f000000 [(a.toNat, 12), (i.toNat, 0)] := by rw [place_2]; omega
  exact of_row (n := placeFields 0x3f000000 [(a.toNat, 12), (i.toNat, 0)]) rfl hi lo
theorem vldUnit (q : BitVec 3) (a : BitVec 6) (e : BitVec 3) : Statement (.vldUnit q a e) := by
  have := q.isLt; have := a.isLt; have := e.isLt
  have hi : placeFields 0x40000000 [(q.toNat, 21), (a.toNat, 15), (e.toNat, 6)] < 2 ^ 32 := by rw [place_3]; omega
  have lo : 2 ^ 24 ≤ placeFields 0x40000000 [(q.toNat, 21), (a.toNat, 15), (e.toNat, 6)] := by rw [place_3]; omega
  exact of_row (n := placeFields 0x40000000 [(q.toNat, 21), (a.toNat, 15), (e.toNat, 6)]) rfl hi lo
theorem vldStrided (q : BitVec 3) (a : BitVec 6) (b : BitVec 6) (e : BitVec 3) : Statement (.vldStrided q a b e) := by
  have := q.isLt; have := a.isLt; have := b.isLt; have := e.isLt
  have hi : placeFields 0x40000004 [(q.toNat, 21), (a.toNat, 15), (b.toNat, 9), (e.toNat, 6)] < 2 ^ 32 := by rw [place_4]; omega
  have lo : 2 ^ 24 ≤ placeFields 0x40000004 [(q.toNat, 21), (a.toNat, 15), (b.toNat, 9), (e.toNat, 6)] := by rw [place_4]; omega
  exact of_row (n := placeFields 0x40000004 [(q.toNat, 21), (a.toNat, 15), (b.toNat, 9), (e.toNat, 6)]) rfl hi lo
theorem vldExplicit (q : BitVec 3) (a : BitVec 6) (f : BitVec 5) (e : BitVec 3) : Statement (.vldExplicit q a f e) := by
  have := q.isLt; have := a.isLt; have := f.isLt; have := e.isLt
  have hi : placeFields 0x40000008 [(q.toNat, 21), (a.toNat, 15), (f.toNat, 9), (e.toNat, 6)] < 2 ^ 32 := by rw [place_4]; omega
  have lo : 2 ^ 24 ≤ placeFields 0x40000008 [(q.toNat, 21), (a.toNat, 15), (f.toNat, 9), (e.toNat, 6)] := by rw [place_4]; omega
  exact of_row (n := placeFields 0x40000008 [(q.toNat, 21), (a.toNat, 15), (f.toNat, 9), (e.toNat, 6)]) rfl hi lo
theorem vldx (q : BitVec 3) (a : BitVec 6) (x : BitVec 1) (e : BitVec 3) (m : BitVec 3) : Statement (.vldx q a x e m) := by
  have := q.isLt; have := a.isLt; have := x.isLt; have := e.isLt; have := m.isLt
  have hi : placeFields 0x41000000 [(q.toNat, 21), (a.toNat, 15), (x.toNat, 9), (e.toNat, 6), (m.toNat, 2)] < 2 ^ 32 := by rw [place_5]; omega
  have lo : 2 ^ 24 ≤ placeFields 0x41000000 [(q.toNat, 21), (a.toNat, 15), (x.toNat, 9), (e.toNat, 6), (m.toNat, 2)] := by rw [place_5]; omega
  exact of_row (n := placeFields 0x41000000 [(q.toNat, 21), (a.toNat, 15), (x.toNat, 9), (e.toNat, 6), (m.toNat, 2)]) rfl hi lo
theorem vldffUnit (q : BitVec 3) (a : BitVec 6) (e : BitVec 3) : Statement (.vldffUnit q a e) := by
  have := q.isLt; have := a.isLt; have := e.isLt
  have hi : placeFields 0x42000000 [(q.toNat, 21), (a.toNat, 15), (e.toNat, 6)] < 2 ^ 32 := by rw [place_3]; omega
  have lo : 2 ^ 24 ≤ placeFields 0x42000000 [(q.toNat, 21), (a.toNat, 15), (e.toNat, 6)] := by rw [place_3]; omega
  exact of_row (n := placeFields 0x42000000 [(q.toNat, 21), (a.toNat, 15), (e.toNat, 6)]) rfl hi lo
theorem vldffStrided (q : BitVec 3) (a : BitVec 6) (b : BitVec 6) (e : BitVec 3) : Statement (.vldffStrided q a b e) := by
  have := q.isLt; have := a.isLt; have := b.isLt; have := e.isLt
  have hi : placeFields 0x42000004 [(q.toNat, 21), (a.toNat, 15), (b.toNat, 9), (e.toNat, 6)] < 2 ^ 32 := by rw [place_4]; omega
  have lo : 2 ^ 24 ≤ placeFields 0x42000004 [(q.toNat, 21), (a.toNat, 15), (b.toNat, 9), (e.toNat, 6)] := by rw [place_4]; omega
  exact of_row (n := placeFields 0x42000004 [(q.toNat, 21), (a.toNat, 15), (b.toNat, 9), (e.toNat, 6)]) rfl hi lo
theorem vstUnit (q : BitVec 3) (a : BitVec 6) (e : BitVec 3) : Statement (.vstUnit q a e) := by
  have := q.isLt; have := a.isLt; have := e.isLt
  have hi : placeFields 0x43000000 [(q.toNat, 21), (a.toNat, 15), (e.toNat, 6)] < 2 ^ 32 := by rw [place_3]; omega
  have lo : 2 ^ 24 ≤ placeFields 0x43000000 [(q.toNat, 21), (a.toNat, 15), (e.toNat, 6)] := by rw [place_3]; omega
  exact of_row (n := placeFields 0x43000000 [(q.toNat, 21), (a.toNat, 15), (e.toNat, 6)]) rfl hi lo
theorem vstStrided (q : BitVec 3) (a : BitVec 6) (b : BitVec 6) (e : BitVec 3) : Statement (.vstStrided q a b e) := by
  have := q.isLt; have := a.isLt; have := b.isLt; have := e.isLt
  have hi : placeFields 0x43000004 [(q.toNat, 21), (a.toNat, 15), (b.toNat, 9), (e.toNat, 6)] < 2 ^ 32 := by rw [place_4]; omega
  have lo : 2 ^ 24 ≤ placeFields 0x43000004 [(q.toNat, 21), (a.toNat, 15), (b.toNat, 9), (e.toNat, 6)] := by rw [place_4]; omega
  exact of_row (n := placeFields 0x43000004 [(q.toNat, 21), (a.toNat, 15), (b.toNat, 9), (e.toNat, 6)]) rfl hi lo
theorem vstx (q : BitVec 3) (a : BitVec 6) (e : BitVec 3) (m : BitVec 3) : Statement (.vstx q a e m) := by
  have := q.isLt; have := a.isLt; have := e.isLt; have := m.isLt
  have hi : placeFields 0x44000000 [(q.toNat, 21), (a.toNat, 15), (e.toNat, 6), (m.toNat, 2)] < 2 ^ 32 := by rw [place_4]; omega
  have lo : 2 ^ 24 ≤ placeFields 0x44000000 [(q.toNat, 21), (a.toNat, 15), (e.toNat, 6), (m.toNat, 2)] := by rw [place_4]; omega
  exact of_row (n := placeFields 0x44000000 [(q.toNat, 21), (a.toNat, 15), (e.toNat, 6), (m.toNat, 2)]) rfl hi lo
theorem vldl (q : BitVec 3) (a : BitVec 6) (e : BitVec 3) : Statement (.vldl q a e) := by
  have := q.isLt; have := a.isLt; have := e.isLt
  have hi : placeFields 0x45000000 [(q.toNat, 21), (a.toNat, 15), (e.toNat, 6)] < 2 ^ 32 := by rw [place_3]; omega
  have lo : 2 ^ 24 ≤ placeFields 0x45000000 [(q.toNat, 21), (a.toNat, 15), (e.toNat, 6)] := by rw [place_3]; omega
  exact of_row (n := placeFields 0x45000000 [(q.toNat, 21), (a.toNat, 15), (e.toNat, 6)]) rfl hi lo
theorem vstl (q : BitVec 3) (a : BitVec 6) (e : BitVec 3) : Statement (.vstl q a e) := by
  have := q.isLt; have := a.isLt; have := e.isLt
  have hi : placeFields 0x46000000 [(q.toNat, 21), (a.toNat, 15), (e.toNat, 6)] < 2 ^ 32 := by rw [place_3]; omega
  have lo : 2 ^ 24 ≤ placeFields 0x46000000 [(q.toNat, 21), (a.toNat, 15), (e.toNat, 6)] := by rw [place_3]; omega
  exact of_row (n := placeFields 0x46000000 [(q.toNat, 21), (a.toNat, 15), (e.toNat, 6)]) rfl hi lo
theorem vspill (c : BitVec 3) (a : BitVec 6) (f : BitVec 5) (k : BitVec 2) : Statement (.vspill c a f k) := by
  have := c.isLt; have := a.isLt; have := f.isLt; have := k.isLt
  have hi : placeFields 0x47000000 [(c.toNat, 21), (a.toNat, 15), (f.toNat, 9), (k.toNat, 2)] < 2 ^ 32 := by rw [place_4]; omega
  have lo : 2 ^ 24 ≤ placeFields 0x47000000 [(c.toNat, 21), (a.toNat, 15), (f.toNat, 9), (k.toNat, 2)] := by rw [place_4]; omega
  exact of_row (n := placeFields 0x47000000 [(c.toNat, 21), (a.toNat, 15), (f.toNat, 9), (k.toNat, 2)]) rfl hi lo
theorem vfill (c : BitVec 3) (a : BitVec 6) (f : BitVec 5) (k : BitVec 2) : Statement (.vfill c a f k) := by
  have := c.isLt; have := a.isLt; have := f.isLt; have := k.isLt
  have hi : placeFields 0x48000000 [(c.toNat, 21), (a.toNat, 15), (f.toNat, 9), (k.toNat, 2)] < 2 ^ 32 := by rw [place_4]; omega
  have lo : 2 ^ 24 ≤ placeFields 0x48000000 [(c.toNat, 21), (a.toNat, 15), (f.toNat, 9), (k.toNat, 2)] := by rw [place_4]; omega
  exact of_row (n := placeFields 0x48000000 [(c.toNat, 21), (a.toNat, 15), (f.toNat, 9), (k.toNat, 2)]) rfl hi lo
theorem fenceSv (s : BitVec 3) : Statement (.fenceSv s) := by
  have := s.isLt
  have hi : placeFields 0x49000000 [(s.toNat, 1)] < 2 ^ 32 := by rw [place_1]; omega
  have lo : 2 ^ 24 ≤ placeFields 0x49000000 [(s.toNat, 1)] := by rw [place_1]; omega
  exact of_row (n := placeFields 0x49000000 [(s.toNat, 1)]) rfl hi lo
theorem fenceVs (s : BitVec 3) : Statement (.fenceVs s) := by
  have := s.isLt
  have hi : placeFields 0x49000010 [(s.toNat, 1)] < 2 ^ 32 := by rw [place_1]; omega
  have lo : 2 ^ 24 ≤ placeFields 0x49000010 [(s.toNat, 1)] := by rw [place_1]; omega
  exact of_row (n := placeFields 0x49000010 [(s.toNat, 1)]) rfl hi lo
theorem fenceVv (s : BitVec 3) : Statement (.fenceVv s) := by
  have := s.isLt
  have hi : placeFields 0x49000020 [(s.toNat, 1)] < 2 ^ 32 := by rw [place_1]; omega
  have lo : 2 ^ 24 ≤ placeFields 0x49000020 [(s.toNat, 1)] := by rw [place_1]; omega
  exact of_row (n := placeFields 0x49000020 [(s.toNat, 1)]) rfl hi lo
theorem fenceAll (s : BitVec 3) : Statement (.fenceAll s) := by
  have := s.isLt
  have hi : placeFields 0x49000030 [(s.toNat, 1)] < 2 ^ 32 := by rw [place_1]; omega
  have lo : 2 ^ 24 ≤ placeFields 0x49000030 [(s.toNat, 1)] := by rw [place_1]; omega
  exact of_row (n := placeFields 0x49000030 [(s.toNat, 1)]) rfl hi lo
theorem lsplit (k : BitVec 4) : Statement (.lsplit k) := by
  have := k.isLt
  have hi : placeFields 0x4a000000 [(k.toNat, 0)] < 2 ^ 32 := by rw [place_1]; omega
  have lo : 2 ^ 24 ≤ placeFields 0x4a000000 [(k.toNat, 0)] := by rw [place_1]; omega
  exact of_row (n := placeFields 0x4a000000 [(k.toNat, 0)]) rfl hi lo
theorem qpushA (q : BitVec 3) (a : BitVec 6) : Statement (.qpushA q a) := by
  have := q.isLt; have := a.isLt
  have hi : placeFields 0x4b000000 [(q.toNat, 21), (a.toNat, 15)] < 2 ^ 32 := by rw [place_2]; omega
  have lo : 2 ^ 24 ≤ placeFields 0x4b000000 [(q.toNat, 21), (a.toNat, 15)] := by rw [place_2]; omega
  exact of_row (n := placeFields 0x4b000000 [(q.toNat, 21), (a.toNat, 15)]) rfl hi lo
theorem qpushX (q : BitVec 3) (v : BitVec 5) : Statement (.qpushX q v) := by
  have := q.isLt; have := v.isLt
  have hi : placeFields 0x4b000000 [(q.toNat, 21), (v.toNat, 9)] < 2 ^ 32 := by rw [place_2]; omega
  have lo : 2 ^ 24 ≤ placeFields 0x4b000000 [(q.toNat, 21), (v.toNat, 9)] := by rw [place_2]; omega
  exact of_row (n := placeFields 0x4b000000 [(q.toNat, 21), (v.toNat, 9)]) rfl hi lo
theorem qpopA (q : BitVec 3) : Statement (.qpopA q) := by
  have := q.isLt
  have hi : placeFields 0x4c000000 [(q.toNat, 21)] < 2 ^ 32 := by rw [place_1]; omega
  have lo : 2 ^ 24 ≤ placeFields 0x4c000000 [(q.toNat, 21)] := by rw [place_1]; omega
  exact of_row (n := placeFields 0x4c000000 [(q.toNat, 21)]) rfl hi lo
theorem qpopX (q : BitVec 3) (v : BitVec 5) : Statement (.qpopX q v) := by
  have := q.isLt; have := v.isLt
  have hi : placeFields 0x4c000000 [(q.toNat, 21), (v.toNat, 9)] < 2 ^ 32 := by rw [place_2]; omega
  have lo : 2 ^ 24 ≤ placeFields 0x4c000000 [(q.toNat, 21), (v.toNat, 9)] := by rw [place_2]; omega
  exact of_row (n := placeFields 0x4c000000 [(q.toNat, 21), (v.toNat, 9)]) rfl hi lo
theorem qpopXDiscard (q : BitVec 3) : Statement (.qpopXDiscard q) := by
  have := q.isLt
  have hi : placeFields 0x4c004000 [(q.toNat, 21)] < 2 ^ 32 := by rw [place_1]; omega
  have lo : 2 ^ 24 ≤ placeFields 0x4c004000 [(q.toNat, 21)] := by rw [place_1]; omega
  exact of_row (n := placeFields 0x4c004000 [(q.toNat, 21)]) rfl hi lo
theorem qputs (a : BitVec 6) : Statement (.qputs a) := by
  have := a.isLt
  have hi : placeFields 0x4d000000 [(a.toNat, 15)] < 2 ^ 32 := by rw [place_1]; omega
  have lo : 2 ^ 24 ≤ placeFields 0x4d000000 [(a.toNat, 15)] := by rw [place_1]; omega
  exact of_row (n := placeFields 0x4d000000 [(a.toNat, 15)]) rfl hi lo
theorem qgets (b : BitVec 6) : Statement (.qgets b) := by
  have := b.isLt
  have hi : placeFields 0x4e000000 [(b.toNat, 9)] < 2 ^ 32 := by rw [place_1]; omega
  have lo : 2 ^ 24 ≤ placeFields 0x4e000000 [(b.toNat, 9)] := by rw [place_1]; omega
  exact of_row (n := placeFields 0x4e000000 [(b.toNat, 9)]) rfl hi lo
theorem qstatData (q : BitVec 3) (b : BitVec 6) : Statement (.qstatData q b) := by
  have := q.isLt; have := b.isLt
  have hi : placeFields 0x4f000000 [(q.toNat, 21), (b.toNat, 9)] < 2 ^ 32 := by rw [place_2]; omega
  have lo : 2 ^ 24 ≤ placeFields 0x4f000000 [(q.toNat, 21), (b.toNat, 9)] := by rw [place_2]; omega
  exact of_row (n := placeFields 0x4f000000 [(q.toNat, 21), (b.toNat, 9)]) rfl hi lo
theorem qstatScalar (q : BitVec 1) (b : BitVec 6) : Statement (.qstatScalar q b) := by
  have := q.isLt; have := b.isLt
  have hi : placeFields 0x4f000004 [(q.toNat, 21), (b.toNat, 9)] < 2 ^ 32 := by rw [place_2]; omega
  have lo : 2 ^ 24 ≤ placeFields 0x4f000004 [(q.toNat, 21), (b.toNat, 9)] := by rw [place_2]; omega
  exact of_row (n := placeFields 0x4f000004 [(q.toNat, 21), (b.toNat, 9)]) rfl hi lo
theorem vsetl (d : BitVec 5) (a : BitVec 6) (f : BitVec 5) : Statement (.vsetl d a f) := by
  have := d.isLt; have := a.isLt; have := f.isLt
  have hi : placeFields 0x50000000 [(d.toNat, 19), (a.toNat, 13), (f.toNat, 7)] < 2 ^ 32 := by rw [place_3]; omega
  have lo : 2 ^ 24 ≤ placeFields 0x50000000 [(d.toNat, 19), (a.toNat, 13), (f.toNat, 7)] := by rw [place_3]; omega
  exact of_row (n := placeFields 0x50000000 [(d.toNat, 19), (a.toNat, 13), (f.toNat, 7)]) rfl hi lo
theorem vsetlKeep (d : BitVec 5) (a : BitVec 6) : Statement (.vsetlKeep d a) := by
  have := d.isLt; have := a.isLt
  have hi : placeFields 0x50001000 [(d.toNat, 19), (a.toNat, 13)] < 2 ^ 32 := by rw [place_2]; omega
  have lo : 2 ^ 24 ≤ placeFields 0x50001000 [(d.toNat, 19), (a.toNat, 13)] := by rw [place_2]; omega
  exact of_row (n := placeFields 0x50001000 [(d.toNat, 19), (a.toNat, 13)]) rfl hi lo
theorem vadd (d : BitVec 5) (a : BitVec 6) (b : BitVec 6) (m : BitVec 3) (r : BitVec 3) (z : BitVec 1) : Statement (.vadd d a b m r z) := by
  have := d.isLt; have := a.isLt; have := b.isLt; have := m.isLt; have := r.isLt; have := z.isLt
  have hi : placeFields 0x51000000 [(d.toNat, 19), (a.toNat, 13), (b.toNat, 7), (m.toNat, 4), (r.toNat, 1), (z.toNat, 0)] < 2 ^ 32 := by rw [place_6]; omega
  have lo : 2 ^ 24 ≤ placeFields 0x51000000 [(d.toNat, 19), (a.toNat, 13), (b.toNat, 7), (m.toNat, 4), (r.toNat, 1), (z.toNat, 0)] := by rw [place_6]; omega
  exact of_row (n := placeFields 0x51000000 [(d.toNat, 19), (a.toNat, 13), (b.toNat, 7), (m.toNat, 4), (r.toNat, 1), (z.toNat, 0)]) rfl hi lo
theorem vsub (d : BitVec 5) (a : BitVec 6) (b : BitVec 6) (m : BitVec 3) (r : BitVec 3) (z : BitVec 1) : Statement (.vsub d a b m r z) := by
  have := d.isLt; have := a.isLt; have := b.isLt; have := m.isLt; have := r.isLt; have := z.isLt
  have hi : placeFields 0x52000000 [(d.toNat, 19), (a.toNat, 13), (b.toNat, 7), (m.toNat, 4), (r.toNat, 1), (z.toNat, 0)] < 2 ^ 32 := by rw [place_6]; omega
  have lo : 2 ^ 24 ≤ placeFields 0x52000000 [(d.toNat, 19), (a.toNat, 13), (b.toNat, 7), (m.toNat, 4), (r.toNat, 1), (z.toNat, 0)] := by rw [place_6]; omega
  exact of_row (n := placeFields 0x52000000 [(d.toNat, 19), (a.toNat, 13), (b.toNat, 7), (m.toNat, 4), (r.toNat, 1), (z.toNat, 0)]) rfl hi lo
theorem vmul (d : BitVec 5) (a : BitVec 6) (b : BitVec 6) (m : BitVec 3) (r : BitVec 3) (z : BitVec 1) : Statement (.vmul d a b m r z) := by
  have := d.isLt; have := a.isLt; have := b.isLt; have := m.isLt; have := r.isLt; have := z.isLt
  have hi : placeFields 0x53000000 [(d.toNat, 19), (a.toNat, 13), (b.toNat, 7), (m.toNat, 4), (r.toNat, 1), (z.toNat, 0)] < 2 ^ 32 := by rw [place_6]; omega
  have lo : 2 ^ 24 ≤ placeFields 0x53000000 [(d.toNat, 19), (a.toNat, 13), (b.toNat, 7), (m.toNat, 4), (r.toNat, 1), (z.toNat, 0)] := by rw [place_6]; omega
  exact of_row (n := placeFields 0x53000000 [(d.toNat, 19), (a.toNat, 13), (b.toNat, 7), (m.toNat, 4), (r.toNat, 1), (z.toNat, 0)]) rfl hi lo
theorem vfma (d : BitVec 5) (a : BitVec 6) (b : BitVec 6) (m : BitVec 3) (r : BitVec 3) (z : BitVec 1) : Statement (.vfma d a b m r z) := by
  have := d.isLt; have := a.isLt; have := b.isLt; have := m.isLt; have := r.isLt; have := z.isLt
  have hi : placeFields 0x54000000 [(d.toNat, 19), (a.toNat, 13), (b.toNat, 7), (m.toNat, 4), (r.toNat, 1), (z.toNat, 0)] < 2 ^ 32 := by rw [place_6]; omega
  have lo : 2 ^ 24 ≤ placeFields 0x54000000 [(d.toNat, 19), (a.toNat, 13), (b.toNat, 7), (m.toNat, 4), (r.toNat, 1), (z.toNat, 0)] := by rw [place_6]; omega
  exact of_row (n := placeFields 0x54000000 [(d.toNat, 19), (a.toNat, 13), (b.toNat, 7), (m.toNat, 4), (r.toNat, 1), (z.toNat, 0)]) rfl hi lo
theorem vfms (d : BitVec 5) (a : BitVec 6) (b : BitVec 6) (m : BitVec 3) (r : BitVec 3) (z : BitVec 1) : Statement (.vfms d a b m r z) := by
  have := d.isLt; have := a.isLt; have := b.isLt; have := m.isLt; have := r.isLt; have := z.isLt
  have hi : placeFields 0x55000000 [(d.toNat, 19), (a.toNat, 13), (b.toNat, 7), (m.toNat, 4), (r.toNat, 1), (z.toNat, 0)] < 2 ^ 32 := by rw [place_6]; omega
  have lo : 2 ^ 24 ≤ placeFields 0x55000000 [(d.toNat, 19), (a.toNat, 13), (b.toNat, 7), (m.toNat, 4), (r.toNat, 1), (z.toNat, 0)] := by rw [place_6]; omega
  exact of_row (n := placeFields 0x55000000 [(d.toNat, 19), (a.toNat, 13), (b.toNat, 7), (m.toNat, 4), (r.toNat, 1), (z.toNat, 0)]) rfl hi lo
theorem vmin (d : BitVec 5) (a : BitVec 6) (b : BitVec 6) (m : BitVec 3) (r : BitVec 3) (z : BitVec 1) : Statement (.vmin d a b m r z) := by
  have := d.isLt; have := a.isLt; have := b.isLt; have := m.isLt; have := r.isLt; have := z.isLt
  have hi : placeFields 0x56000000 [(d.toNat, 19), (a.toNat, 13), (b.toNat, 7), (m.toNat, 4), (r.toNat, 1), (z.toNat, 0)] < 2 ^ 32 := by rw [place_6]; omega
  have lo : 2 ^ 24 ≤ placeFields 0x56000000 [(d.toNat, 19), (a.toNat, 13), (b.toNat, 7), (m.toNat, 4), (r.toNat, 1), (z.toNat, 0)] := by rw [place_6]; omega
  exact of_row (n := placeFields 0x56000000 [(d.toNat, 19), (a.toNat, 13), (b.toNat, 7), (m.toNat, 4), (r.toNat, 1), (z.toNat, 0)]) rfl hi lo
theorem vmax (d : BitVec 5) (a : BitVec 6) (b : BitVec 6) (m : BitVec 3) (r : BitVec 3) (z : BitVec 1) : Statement (.vmax d a b m r z) := by
  have := d.isLt; have := a.isLt; have := b.isLt; have := m.isLt; have := r.isLt; have := z.isLt
  have hi : placeFields 0x57000000 [(d.toNat, 19), (a.toNat, 13), (b.toNat, 7), (m.toNat, 4), (r.toNat, 1), (z.toNat, 0)] < 2 ^ 32 := by rw [place_6]; omega
  have lo : 2 ^ 24 ≤ placeFields 0x57000000 [(d.toNat, 19), (a.toNat, 13), (b.toNat, 7), (m.toNat, 4), (r.toNat, 1), (z.toNat, 0)] := by rw [place_6]; omega
  exact of_row (n := placeFields 0x57000000 [(d.toNat, 19), (a.toNat, 13), (b.toNat, 7), (m.toNat, 4), (r.toNat, 1), (z.toNat, 0)]) rfl hi lo
theorem vabs (d : BitVec 5) (a : BitVec 6) (m : BitVec 3) (z : BitVec 1) : Statement (.vabs d a m z) := by
  have := d.isLt; have := a.isLt; have := m.isLt; have := z.isLt
  have hi : placeFields 0x58000000 [(d.toNat, 19), (a.toNat, 13), (m.toNat, 4), (z.toNat, 0)] < 2 ^ 32 := by rw [place_4]; omega
  have lo : 2 ^ 24 ≤ placeFields 0x58000000 [(d.toNat, 19), (a.toNat, 13), (m.toNat, 4), (z.toNat, 0)] := by rw [place_4]; omega
  exact of_row (n := placeFields 0x58000000 [(d.toNat, 19), (a.toNat, 13), (m.toNat, 4), (z.toNat, 0)]) rfl hi lo
theorem vneg (d : BitVec 5) (a : BitVec 6) (m : BitVec 3) (z : BitVec 1) : Statement (.vneg d a m z) := by
  have := d.isLt; have := a.isLt; have := m.isLt; have := z.isLt
  have hi : placeFields 0x59000000 [(d.toNat, 19), (a.toNat, 13), (m.toNat, 4), (z.toNat, 0)] < 2 ^ 32 := by rw [place_4]; omega
  have lo : 2 ^ 24 ≤ placeFields 0x59000000 [(d.toNat, 19), (a.toNat, 13), (m.toNat, 4), (z.toNat, 0)] := by rw [place_4]; omega
  exact of_row (n := placeFields 0x59000000 [(d.toNat, 19), (a.toNat, 13), (m.toNat, 4), (z.toNat, 0)]) rfl hi lo
theorem vdiv (d : BitVec 5) (a : BitVec 6) (b : BitVec 6) (m : BitVec 3) (r : BitVec 3) (z : BitVec 1) : Statement (.vdiv d a b m r z) := by
  have := d.isLt; have := a.isLt; have := b.isLt; have := m.isLt; have := r.isLt; have := z.isLt
  have hi : placeFields 0x5a000000 [(d.toNat, 19), (a.toNat, 13), (b.toNat, 7), (m.toNat, 4), (r.toNat, 1), (z.toNat, 0)] < 2 ^ 32 := by rw [place_6]; omega
  have lo : 2 ^ 24 ≤ placeFields 0x5a000000 [(d.toNat, 19), (a.toNat, 13), (b.toNat, 7), (m.toNat, 4), (r.toNat, 1), (z.toNat, 0)] := by rw [place_6]; omega
  exact of_row (n := placeFields 0x5a000000 [(d.toNat, 19), (a.toNat, 13), (b.toNat, 7), (m.toNat, 4), (r.toNat, 1), (z.toNat, 0)]) rfl hi lo
theorem vrcp (d : BitVec 5) (a : BitVec 6) (m : BitVec 3) (z : BitVec 1) : Statement (.vrcp d a m z) := by
  have := d.isLt; have := a.isLt; have := m.isLt; have := z.isLt
  have hi : placeFields 0x5b000000 [(d.toNat, 19), (a.toNat, 13), (m.toNat, 4), (z.toNat, 0)] < 2 ^ 32 := by rw [place_4]; omega
  have lo : 2 ^ 24 ≤ placeFields 0x5b000000 [(d.toNat, 19), (a.toNat, 13), (m.toNat, 4), (z.toNat, 0)] := by rw [place_4]; omega
  exact of_row (n := placeFields 0x5b000000 [(d.toNat, 19), (a.toNat, 13), (m.toNat, 4), (z.toNat, 0)]) rfl hi lo
theorem vrsqrt (d : BitVec 5) (a : BitVec 6) (m : BitVec 3) (z : BitVec 1) : Statement (.vrsqrt d a m z) := by
  have := d.isLt; have := a.isLt; have := m.isLt; have := z.isLt
  have hi : placeFields 0x5c000000 [(d.toNat, 19), (a.toNat, 13), (m.toNat, 4), (z.toNat, 0)] < 2 ^ 32 := by rw [place_4]; omega
  have lo : 2 ^ 24 ≤ placeFields 0x5c000000 [(d.toNat, 19), (a.toNat, 13), (m.toNat, 4), (z.toNat, 0)] := by rw [place_4]; omega
  exact of_row (n := placeFields 0x5c000000 [(d.toNat, 19), (a.toNat, 13), (m.toNat, 4), (z.toNat, 0)]) rfl hi lo
theorem vand (d : BitVec 5) (a : BitVec 6) (b : BitVec 6) (m : BitVec 3) (r : BitVec 3) (z : BitVec 1) : Statement (.vand d a b m r z) := by
  have := d.isLt; have := a.isLt; have := b.isLt; have := m.isLt; have := r.isLt; have := z.isLt
  have hi : placeFields 0x5d000000 [(d.toNat, 19), (a.toNat, 13), (b.toNat, 7), (m.toNat, 4), (r.toNat, 1), (z.toNat, 0)] < 2 ^ 32 := by rw [place_6]; omega
  have lo : 2 ^ 24 ≤ placeFields 0x5d000000 [(d.toNat, 19), (a.toNat, 13), (b.toNat, 7), (m.toNat, 4), (r.toNat, 1), (z.toNat, 0)] := by rw [place_6]; omega
  exact of_row (n := placeFields 0x5d000000 [(d.toNat, 19), (a.toNat, 13), (b.toNat, 7), (m.toNat, 4), (r.toNat, 1), (z.toNat, 0)]) rfl hi lo
theorem vor (d : BitVec 5) (a : BitVec 6) (b : BitVec 6) (m : BitVec 3) (r : BitVec 3) (z : BitVec 1) : Statement (.vor d a b m r z) := by
  have := d.isLt; have := a.isLt; have := b.isLt; have := m.isLt; have := r.isLt; have := z.isLt
  have hi : placeFields 0x5e000000 [(d.toNat, 19), (a.toNat, 13), (b.toNat, 7), (m.toNat, 4), (r.toNat, 1), (z.toNat, 0)] < 2 ^ 32 := by rw [place_6]; omega
  have lo : 2 ^ 24 ≤ placeFields 0x5e000000 [(d.toNat, 19), (a.toNat, 13), (b.toNat, 7), (m.toNat, 4), (r.toNat, 1), (z.toNat, 0)] := by rw [place_6]; omega
  exact of_row (n := placeFields 0x5e000000 [(d.toNat, 19), (a.toNat, 13), (b.toNat, 7), (m.toNat, 4), (r.toNat, 1), (z.toNat, 0)]) rfl hi lo
theorem vxor (d : BitVec 5) (a : BitVec 6) (b : BitVec 6) (m : BitVec 3) (r : BitVec 3) (z : BitVec 1) : Statement (.vxor d a b m r z) := by
  have := d.isLt; have := a.isLt; have := b.isLt; have := m.isLt; have := r.isLt; have := z.isLt
  have hi : placeFields 0x5f000000 [(d.toNat, 19), (a.toNat, 13), (b.toNat, 7), (m.toNat, 4), (r.toNat, 1), (z.toNat, 0)] < 2 ^ 32 := by rw [place_6]; omega
  have lo : 2 ^ 24 ≤ placeFields 0x5f000000 [(d.toNat, 19), (a.toNat, 13), (b.toNat, 7), (m.toNat, 4), (r.toNat, 1), (z.toNat, 0)] := by rw [place_6]; omega
  exact of_row (n := placeFields 0x5f000000 [(d.toNat, 19), (a.toNat, 13), (b.toNat, 7), (m.toNat, 4), (r.toNat, 1), (z.toNat, 0)]) rfl hi lo
theorem vshl (d : BitVec 5) (a : BitVec 6) (b : BitVec 6) (m : BitVec 3) (r : BitVec 3) (z : BitVec 1) : Statement (.vshl d a b m r z) := by
  have := d.isLt; have := a.isLt; have := b.isLt; have := m.isLt; have := r.isLt; have := z.isLt
  have hi : placeFields 0x60000000 [(d.toNat, 19), (a.toNat, 13), (b.toNat, 7), (m.toNat, 4), (r.toNat, 1), (z.toNat, 0)] < 2 ^ 32 := by rw [place_6]; omega
  have lo : 2 ^ 24 ≤ placeFields 0x60000000 [(d.toNat, 19), (a.toNat, 13), (b.toNat, 7), (m.toNat, 4), (r.toNat, 1), (z.toNat, 0)] := by rw [place_6]; omega
  exact of_row (n := placeFields 0x60000000 [(d.toNat, 19), (a.toNat, 13), (b.toNat, 7), (m.toNat, 4), (r.toNat, 1), (z.toNat, 0)]) rfl hi lo
theorem vshr (d : BitVec 5) (a : BitVec 6) (b : BitVec 6) (m : BitVec 3) (r : BitVec 3) (z : BitVec 1) : Statement (.vshr d a b m r z) := by
  have := d.isLt; have := a.isLt; have := b.isLt; have := m.isLt; have := r.isLt; have := z.isLt
  have hi : placeFields 0x61000000 [(d.toNat, 19), (a.toNat, 13), (b.toNat, 7), (m.toNat, 4), (r.toNat, 1), (z.toNat, 0)] < 2 ^ 32 := by rw [place_6]; omega
  have lo : 2 ^ 24 ≤ placeFields 0x61000000 [(d.toNat, 19), (a.toNat, 13), (b.toNat, 7), (m.toNat, 4), (r.toNat, 1), (z.toNat, 0)] := by rw [place_6]; omega
  exact of_row (n := placeFields 0x61000000 [(d.toNat, 19), (a.toNat, 13), (b.toNat, 7), (m.toNat, 4), (r.toNat, 1), (z.toNat, 0)]) rfl hi lo
theorem vsel (d : BitVec 5) (a : BitVec 6) (b : BitVec 6) (m : BitVec 3) (r : BitVec 3) : Statement (.vsel d a b m r) := by
  have := d.isLt; have := a.isLt; have := b.isLt; have := m.isLt; have := r.isLt
  have hi : placeFields 0x62000000 [(d.toNat, 19), (a.toNat, 13), (b.toNat, 7), (m.toNat, 4), (r.toNat, 1)] < 2 ^ 32 := by rw [place_5]; omega
  have lo : 2 ^ 24 ≤ placeFields 0x62000000 [(d.toNat, 19), (a.toNat, 13), (b.toNat, 7), (m.toNat, 4), (r.toNat, 1)] := by rw [place_5]; omega
  exact of_row (n := placeFields 0x62000000 [(d.toNat, 19), (a.toNat, 13), (b.toNat, 7), (m.toNat, 4), (r.toNat, 1)]) rfl hi lo
theorem vmov (d : BitVec 5) (a : BitVec 6) (m : BitVec 3) (z : BitVec 1) : Statement (.vmov d a m z) := by
  have := d.isLt; have := a.isLt; have := m.isLt; have := z.isLt
  have hi : placeFields 0x63000000 [(d.toNat, 19), (a.toNat, 13), (m.toNat, 4), (z.toNat, 0)] < 2 ^ 32 := by rw [place_4]; omega
  have lo : 2 ^ 24 ≤ placeFields 0x63000000 [(d.toNat, 19), (a.toNat, 13), (m.toNat, 4), (z.toNat, 0)] := by rw [place_4]; omega
  exact of_row (n := placeFields 0x63000000 [(d.toNat, 19), (a.toNat, 13), (m.toNat, 4), (z.toNat, 0)]) rfl hi lo
theorem vsplat (d : BitVec 5) (a : BitVec 6) : Statement (.vsplat d a) := by
  have := d.isLt; have := a.isLt
  have hi : placeFields 0x64000000 [(d.toNat, 19), (a.toNat, 13)] < 2 ^ 32 := by rw [place_2]; omega
  have lo : 2 ^ 24 ≤ placeFields 0x64000000 [(d.toNat, 19), (a.toNat, 13)] := by rw [place_2]; omega
  exact of_row (n := placeFields 0x64000000 [(d.toNat, 19), (a.toNat, 13)]) rfl hi lo
theorem vext (d : BitVec 5) (a : BitVec 6) (b : BitVec 6) : Statement (.vext d a b) := by
  have := d.isLt; have := a.isLt; have := b.isLt
  have hi : placeFields 0x65000000 [(d.toNat, 19), (a.toNat, 13), (b.toNat, 7)] < 2 ^ 32 := by rw [place_3]; omega
  have lo : 2 ^ 24 ≤ placeFields 0x65000000 [(d.toNat, 19), (a.toNat, 13), (b.toNat, 7)] := by rw [place_3]; omega
  exact of_row (n := placeFields 0x65000000 [(d.toNat, 19), (a.toNat, 13), (b.toNat, 7)]) rfl hi lo
theorem vins (d : BitVec 5) (a : BitVec 6) (b : BitVec 6) : Statement (.vins d a b) := by
  have := d.isLt; have := a.isLt; have := b.isLt
  have hi : placeFields 0x66000000 [(d.toNat, 19), (a.toNat, 13), (b.toNat, 7)] < 2 ^ 32 := by rw [place_3]; omega
  have lo : 2 ^ 24 ≤ placeFields 0x66000000 [(d.toNat, 19), (a.toNat, 13), (b.toNat, 7)] := by rw [place_3]; omega
  exact of_row (n := placeFields 0x66000000 [(d.toNat, 19), (a.toNat, 13), (b.toNat, 7)]) rfl hi lo
theorem vredsum (d : BitVec 5) (a : BitVec 6) (m : BitVec 3) : Statement (.vredsum d a m) := by
  have := d.isLt; have := a.isLt; have := m.isLt
  have hi : placeFields 0x67000000 [(d.toNat, 19), (a.toNat, 13), (m.toNat, 4)] < 2 ^ 32 := by rw [place_3]; omega
  have lo : 2 ^ 24 ≤ placeFields 0x67000000 [(d.toNat, 19), (a.toNat, 13), (m.toNat, 4)] := by rw [place_3]; omega
  exact of_row (n := placeFields 0x67000000 [(d.toNat, 19), (a.toNat, 13), (m.toNat, 4)]) rfl hi lo
theorem vredmax (d : BitVec 5) (a : BitVec 6) (m : BitVec 3) : Statement (.vredmax d a m) := by
  have := d.isLt; have := a.isLt; have := m.isLt
  have hi : placeFields 0x68000000 [(d.toNat, 19), (a.toNat, 13), (m.toNat, 4)] < 2 ^ 32 := by rw [place_3]; omega
  have lo : 2 ^ 24 ≤ placeFields 0x68000000 [(d.toNat, 19), (a.toNat, 13), (m.toNat, 4)] := by rw [place_3]; omega
  exact of_row (n := placeFields 0x68000000 [(d.toNat, 19), (a.toNat, 13), (m.toNat, 4)]) rfl hi lo
theorem vredmin (d : BitVec 5) (a : BitVec 6) (m : BitVec 3) : Statement (.vredmin d a m) := by
  have := d.isLt; have := a.isLt; have := m.isLt
  have hi : placeFields 0x69000000 [(d.toNat, 19), (a.toNat, 13), (m.toNat, 4)] < 2 ^ 32 := by rw [place_3]; omega
  have lo : 2 ^ 24 ≤ placeFields 0x69000000 [(d.toNat, 19), (a.toNat, 13), (m.toNat, 4)] := by rw [place_3]; omega
  exact of_row (n := placeFields 0x69000000 [(d.toNat, 19), (a.toNat, 13), (m.toNat, 4)]) rfl hi lo
theorem vcmpEq (d : BitVec 3) (a : BitVec 6) (b : BitVec 6) (m : BitVec 3) (r : BitVec 3) (z : BitVec 1) : Statement (.vcmpEq d a b m r z) := by
  have := d.isLt; have := a.isLt; have := b.isLt; have := m.isLt; have := r.isLt; have := z.isLt
  have hi : placeFields 0x6a000000 [(d.toNat, 19), (a.toNat, 13), (b.toNat, 7), (m.toNat, 4), (r.toNat, 1), (z.toNat, 0)] < 2 ^ 32 := by rw [place_6]; omega
  have lo : 2 ^ 24 ≤ placeFields 0x6a000000 [(d.toNat, 19), (a.toNat, 13), (b.toNat, 7), (m.toNat, 4), (r.toNat, 1), (z.toNat, 0)] := by rw [place_6]; omega
  exact of_row (n := placeFields 0x6a000000 [(d.toNat, 19), (a.toNat, 13), (b.toNat, 7), (m.toNat, 4), (r.toNat, 1), (z.toNat, 0)]) rfl hi lo
theorem vcmpNe (d : BitVec 3) (a : BitVec 6) (b : BitVec 6) (m : BitVec 3) (r : BitVec 3) (z : BitVec 1) : Statement (.vcmpNe d a b m r z) := by
  have := d.isLt; have := a.isLt; have := b.isLt; have := m.isLt; have := r.isLt; have := z.isLt
  have hi : placeFields 0x6b000000 [(d.toNat, 19), (a.toNat, 13), (b.toNat, 7), (m.toNat, 4), (r.toNat, 1), (z.toNat, 0)] < 2 ^ 32 := by rw [place_6]; omega
  have lo : 2 ^ 24 ≤ placeFields 0x6b000000 [(d.toNat, 19), (a.toNat, 13), (b.toNat, 7), (m.toNat, 4), (r.toNat, 1), (z.toNat, 0)] := by rw [place_6]; omega
  exact of_row (n := placeFields 0x6b000000 [(d.toNat, 19), (a.toNat, 13), (b.toNat, 7), (m.toNat, 4), (r.toNat, 1), (z.toNat, 0)]) rfl hi lo
theorem vcmpLt (d : BitVec 3) (a : BitVec 6) (b : BitVec 6) (m : BitVec 3) (r : BitVec 3) (z : BitVec 1) : Statement (.vcmpLt d a b m r z) := by
  have := d.isLt; have := a.isLt; have := b.isLt; have := m.isLt; have := r.isLt; have := z.isLt
  have hi : placeFields 0x6c000000 [(d.toNat, 19), (a.toNat, 13), (b.toNat, 7), (m.toNat, 4), (r.toNat, 1), (z.toNat, 0)] < 2 ^ 32 := by rw [place_6]; omega
  have lo : 2 ^ 24 ≤ placeFields 0x6c000000 [(d.toNat, 19), (a.toNat, 13), (b.toNat, 7), (m.toNat, 4), (r.toNat, 1), (z.toNat, 0)] := by rw [place_6]; omega
  exact of_row (n := placeFields 0x6c000000 [(d.toNat, 19), (a.toNat, 13), (b.toNat, 7), (m.toNat, 4), (r.toNat, 1), (z.toNat, 0)]) rfl hi lo
theorem vcmpLe (d : BitVec 3) (a : BitVec 6) (b : BitVec 6) (m : BitVec 3) (r : BitVec 3) (z : BitVec 1) : Statement (.vcmpLe d a b m r z) := by
  have := d.isLt; have := a.isLt; have := b.isLt; have := m.isLt; have := r.isLt; have := z.isLt
  have hi : placeFields 0x6d000000 [(d.toNat, 19), (a.toNat, 13), (b.toNat, 7), (m.toNat, 4), (r.toNat, 1), (z.toNat, 0)] < 2 ^ 32 := by rw [place_6]; omega
  have lo : 2 ^ 24 ≤ placeFields 0x6d000000 [(d.toNat, 19), (a.toNat, 13), (b.toNat, 7), (m.toNat, 4), (r.toNat, 1), (z.toNat, 0)] := by rw [place_6]; omega
  exact of_row (n := placeFields 0x6d000000 [(d.toNat, 19), (a.toNat, 13), (b.toNat, 7), (m.toNat, 4), (r.toNat, 1), (z.toNat, 0)]) rfl hi lo
theorem vcmpGt (d : BitVec 3) (a : BitVec 6) (b : BitVec 6) (m : BitVec 3) (r : BitVec 3) (z : BitVec 1) : Statement (.vcmpGt d a b m r z) := by
  have := d.isLt; have := a.isLt; have := b.isLt; have := m.isLt; have := r.isLt; have := z.isLt
  have hi : placeFields 0x6e000000 [(d.toNat, 19), (a.toNat, 13), (b.toNat, 7), (m.toNat, 4), (r.toNat, 1), (z.toNat, 0)] < 2 ^ 32 := by rw [place_6]; omega
  have lo : 2 ^ 24 ≤ placeFields 0x6e000000 [(d.toNat, 19), (a.toNat, 13), (b.toNat, 7), (m.toNat, 4), (r.toNat, 1), (z.toNat, 0)] := by rw [place_6]; omega
  exact of_row (n := placeFields 0x6e000000 [(d.toNat, 19), (a.toNat, 13), (b.toNat, 7), (m.toNat, 4), (r.toNat, 1), (z.toNat, 0)]) rfl hi lo
theorem vcmpGe (d : BitVec 3) (a : BitVec 6) (b : BitVec 6) (m : BitVec 3) (r : BitVec 3) (z : BitVec 1) : Statement (.vcmpGe d a b m r z) := by
  have := d.isLt; have := a.isLt; have := b.isLt; have := m.isLt; have := r.isLt; have := z.isLt
  have hi : placeFields 0x6f000000 [(d.toNat, 19), (a.toNat, 13), (b.toNat, 7), (m.toNat, 4), (r.toNat, 1), (z.toNat, 0)] < 2 ^ 32 := by rw [place_6]; omega
  have lo : 2 ^ 24 ≤ placeFields 0x6f000000 [(d.toNat, 19), (a.toNat, 13), (b.toNat, 7), (m.toNat, 4), (r.toNat, 1), (z.toNat, 0)] := by rw [place_6]; omega
  exact of_row (n := placeFields 0x6f000000 [(d.toNat, 19), (a.toNat, 13), (b.toNat, 7), (m.toNat, 4), (r.toNat, 1), (z.toNat, 0)]) rfl hi lo
theorem vcmpUn (d : BitVec 3) (a : BitVec 6) (b : BitVec 6) (m : BitVec 3) (r : BitVec 3) (z : BitVec 1) : Statement (.vcmpUn d a b m r z) := by
  have := d.isLt; have := a.isLt; have := b.isLt; have := m.isLt; have := r.isLt; have := z.isLt
  have hi : placeFields 0x70000000 [(d.toNat, 19), (a.toNat, 13), (b.toNat, 7), (m.toNat, 4), (r.toNat, 1), (z.toNat, 0)] < 2 ^ 32 := by rw [place_6]; omega
  have lo : 2 ^ 24 ≤ placeFields 0x70000000 [(d.toNat, 19), (a.toNat, 13), (b.toNat, 7), (m.toNat, 4), (r.toNat, 1), (z.toNat, 0)] := by rw [place_6]; omega
  exact of_row (n := placeFields 0x70000000 [(d.toNat, 19), (a.toNat, 13), (b.toNat, 7), (m.toNat, 4), (r.toNat, 1), (z.toNat, 0)]) rfl hi lo
theorem vcmpOr (d : BitVec 3) (a : BitVec 6) (b : BitVec 6) (m : BitVec 3) (r : BitVec 3) (z : BitVec 1) : Statement (.vcmpOr d a b m r z) := by
  have := d.isLt; have := a.isLt; have := b.isLt; have := m.isLt; have := r.isLt; have := z.isLt
  have hi : placeFields 0x71000000 [(d.toNat, 19), (a.toNat, 13), (b.toNat, 7), (m.toNat, 4), (r.toNat, 1), (z.toNat, 0)] < 2 ^ 32 := by rw [place_6]; omega
  have lo : 2 ^ 24 ≤ placeFields 0x71000000 [(d.toNat, 19), (a.toNat, 13), (b.toNat, 7), (m.toNat, 4), (r.toNat, 1), (z.toNat, 0)] := by rw [place_6]; omega
  exact of_row (n := placeFields 0x71000000 [(d.toNat, 19), (a.toNat, 13), (b.toNat, 7), (m.toNat, 4), (r.toNat, 1), (z.toNat, 0)]) rfl hi lo
theorem viota (d : BitVec 5) (a : BitVec 3) (m : BitVec 3) (z : BitVec 1) : Statement (.viota d a m z) := by
  have := d.isLt; have := a.isLt; have := m.isLt; have := z.isLt
  have hi : placeFields 0x90000000 [(d.toNat, 19), (a.toNat, 13), (m.toNat, 4), (z.toNat, 0)] < 2 ^ 32 := by rw [place_4]; omega
  have lo : 2 ^ 24 ≤ placeFields 0x90000000 [(d.toNat, 19), (a.toNat, 13), (m.toNat, 4), (z.toNat, 0)] := by rw [place_4]; omega
  exact of_row (n := placeFields 0x90000000 [(d.toNat, 19), (a.toNat, 13), (m.toNat, 4), (z.toNat, 0)]) rfl hi lo
theorem vslideup (d : BitVec 5) (a : BitVec 6) (b : BitVec 6) (m : BitVec 3) (z : BitVec 1) : Statement (.vslideup d a b m z) := by
  have := d.isLt; have := a.isLt; have := b.isLt; have := m.isLt; have := z.isLt
  have hi : placeFields 0x91000000 [(d.toNat, 19), (a.toNat, 13), (b.toNat, 7), (m.toNat, 4), (z.toNat, 0)] < 2 ^ 32 := by rw [place_5]; omega
  have lo : 2 ^ 24 ≤ placeFields 0x91000000 [(d.toNat, 19), (a.toNat, 13), (b.toNat, 7), (m.toNat, 4), (z.toNat, 0)] := by rw [place_5]; omega
  exact of_row (n := placeFields 0x91000000 [(d.toNat, 19), (a.toNat, 13), (b.toNat, 7), (m.toNat, 4), (z.toNat, 0)]) rfl hi lo
theorem vslidedn (d : BitVec 5) (a : BitVec 6) (b : BitVec 6) (m : BitVec 3) (z : BitVec 1) : Statement (.vslidedn d a b m z) := by
  have := d.isLt; have := a.isLt; have := b.isLt; have := m.isLt; have := z.isLt
  have hi : placeFields 0x92000000 [(d.toNat, 19), (a.toNat, 13), (b.toNat, 7), (m.toNat, 4), (z.toNat, 0)] < 2 ^ 32 := by rw [place_5]; omega
  have lo : 2 ^ 24 ≤ placeFields 0x92000000 [(d.toNat, 19), (a.toNat, 13), (b.toNat, 7), (m.toNat, 4), (z.toNat, 0)] := by rw [place_5]; omega
  exact of_row (n := placeFields 0x92000000 [(d.toNat, 19), (a.toNat, 13), (b.toNat, 7), (m.toNat, 4), (z.toNat, 0)]) rfl hi lo
theorem vperm (d : BitVec 5) (a : BitVec 6) (b : BitVec 6) (m : BitVec 3) (r : BitVec 3) (z : BitVec 1) : Statement (.vperm d a b m r z) := by
  have := d.isLt; have := a.isLt; have := b.isLt; have := m.isLt; have := r.isLt; have := z.isLt
  have hi : placeFields 0x93000000 [(d.toNat, 19), (a.toNat, 13), (b.toNat, 7), (m.toNat, 4), (r.toNat, 1), (z.toNat, 0)] < 2 ^ 32 := by rw [place_6]; omega
  have lo : 2 ^ 24 ≤ placeFields 0x93000000 [(d.toNat, 19), (a.toNat, 13), (b.toNat, 7), (m.toNat, 4), (r.toNat, 1), (z.toNat, 0)] := by rw [place_6]; omega
  exact of_row (n := placeFields 0x93000000 [(d.toNat, 19), (a.toNat, 13), (b.toNat, 7), (m.toNat, 4), (r.toNat, 1), (z.toNat, 0)]) rfl hi lo
theorem mand (d : BitVec 3) (a : BitVec 3) (b : BitVec 3) : Statement (.mand d a b) := by
  have := d.isLt; have := a.isLt; have := b.isLt
  have hi : placeFields 0x94000000 [(d.toNat, 19), (a.toNat, 13), (b.toNat, 7)] < 2 ^ 32 := by rw [place_3]; omega
  have lo : 2 ^ 24 ≤ placeFields 0x94000000 [(d.toNat, 19), (a.toNat, 13), (b.toNat, 7)] := by rw [place_3]; omega
  exact of_row (n := placeFields 0x94000000 [(d.toNat, 19), (a.toNat, 13), (b.toNat, 7)]) rfl hi lo
theorem mor (d : BitVec 3) (a : BitVec 3) (b : BitVec 3) : Statement (.mor d a b) := by
  have := d.isLt; have := a.isLt; have := b.isLt
  have hi : placeFields 0x95000000 [(d.toNat, 19), (a.toNat, 13), (b.toNat, 7)] < 2 ^ 32 := by rw [place_3]; omega
  have lo : 2 ^ 24 ≤ placeFields 0x95000000 [(d.toNat, 19), (a.toNat, 13), (b.toNat, 7)] := by rw [place_3]; omega
  exact of_row (n := placeFields 0x95000000 [(d.toNat, 19), (a.toNat, 13), (b.toNat, 7)]) rfl hi lo
theorem mxor (d : BitVec 3) (a : BitVec 3) (b : BitVec 3) : Statement (.mxor d a b) := by
  have := d.isLt; have := a.isLt; have := b.isLt
  have hi : placeFields 0x96000000 [(d.toNat, 19), (a.toNat, 13), (b.toNat, 7)] < 2 ^ 32 := by rw [place_3]; omega
  have lo : 2 ^ 24 ≤ placeFields 0x96000000 [(d.toNat, 19), (a.toNat, 13), (b.toNat, 7)] := by rw [place_3]; omega
  exact of_row (n := placeFields 0x96000000 [(d.toNat, 19), (a.toNat, 13), (b.toNat, 7)]) rfl hi lo
theorem mandn (d : BitVec 3) (a : BitVec 3) (b : BitVec 3) : Statement (.mandn d a b) := by
  have := d.isLt; have := a.isLt; have := b.isLt
  have hi : placeFields 0x97000000 [(d.toNat, 19), (a.toNat, 13), (b.toNat, 7)] < 2 ^ 32 := by rw [place_3]; omega
  have lo : 2 ^ 24 ≤ placeFields 0x97000000 [(d.toNat, 19), (a.toNat, 13), (b.toNat, 7)] := by rw [place_3]; omega
  exact of_row (n := placeFields 0x97000000 [(d.toNat, 19), (a.toNat, 13), (b.toNat, 7)]) rfl hi lo
theorem mnot (d : BitVec 3) (a : BitVec 3) : Statement (.mnot d a) := by
  have := d.isLt; have := a.isLt
  have hi : placeFields 0x98000000 [(d.toNat, 19), (a.toNat, 13)] < 2 ^ 32 := by rw [place_2]; omega
  have lo : 2 ^ 24 ≤ placeFields 0x98000000 [(d.toNat, 19), (a.toNat, 13)] := by rw [place_2]; omega
  exact of_row (n := placeFields 0x98000000 [(d.toNat, 19), (a.toNat, 13)]) rfl hi lo
theorem mpopc (d : BitVec 5) (a : BitVec 3) : Statement (.mpopc d a) := by
  have := d.isLt; have := a.isLt
  have hi : placeFields 0x99000000 [(d.toNat, 19), (a.toNat, 13)] < 2 ^ 32 := by rw [place_2]; omega
  have lo : 2 ^ 24 ≤ placeFields 0x99000000 [(d.toNat, 19), (a.toNat, 13)] := by rw [place_2]; omega
  exact of_row (n := placeFields 0x99000000 [(d.toNat, 19), (a.toNat, 13)]) rfl hi lo
theorem mfirst (d : BitVec 5) (a : BitVec 3) : Statement (.mfirst d a) := by
  have := d.isLt; have := a.isLt
  have hi : placeFields 0x9a000000 [(d.toNat, 19), (a.toNat, 13)] < 2 ^ 32 := by rw [place_2]; omega
  have lo : 2 ^ 24 ≤ placeFields 0x9a000000 [(d.toNat, 19), (a.toNat, 13)] := by rw [place_2]; omega
  exact of_row (n := placeFields 0x9a000000 [(d.toNat, 19), (a.toNat, 13)]) rfl hi lo
theorem mmode (w : BitVec 3) : Statement (.mmode w) := by
  have := w.isLt
  have hi : placeFields 0xa0000000 [(w.toNat, 7)] < 2 ^ 32 := by rw [place_1]; omega
  have lo : 2 ^ 24 ≤ placeFields 0xa0000000 [(w.toNat, 7)] := by rw [place_1]; omega
  exact of_row (n := placeFields 0xa0000000 [(w.toNat, 7)]) rfl hi lo
theorem mzero (t : BitVec 2) (r : BitVec 3) (c : BitVec 3) : Statement (.mzero t r c) := by
  have := t.isLt; have := r.isLt; have := c.isLt
  have hi : placeFields 0xa1000000 [(t.toNat, 22), (r.toNat, 7), (c.toNat, 4)] < 2 ^ 32 := by rw [place_3]; omega
  have lo : 2 ^ 24 ≤ placeFields 0xa1000000 [(t.toNat, 22), (r.toNat, 7), (c.toNat, 4)] := by rw [place_3]; omega
  exact of_row (n := placeFields 0xa1000000 [(t.toNat, 22), (r.toNat, 7), (c.toNat, 4)]) rfl hi lo
theorem opadd (t : BitVec 2) (a : BitVec 6) (b : BitVec 6) (r : BitVec 3) (c : BitVec 3) : Statement (.opadd t a b r c) := by
  have := t.isLt; have := a.isLt; have := b.isLt; have := r.isLt; have := c.isLt
  have hi : placeFields 0xa2000000 [(t.toNat, 22), (a.toNat, 16), (b.toNat, 10), (r.toNat, 7), (c.toNat, 4)] < 2 ^ 32 := by rw [place_5]; omega
  have lo : 2 ^ 24 ≤ placeFields 0xa2000000 [(t.toNat, 22), (a.toNat, 16), (b.toNat, 10), (r.toNat, 7), (c.toNat, 4)] := by rw [place_5]; omega
  exact of_row (n := placeFields 0xa2000000 [(t.toNat, 22), (a.toNat, 16), (b.toNat, 10), (r.toNat, 7), (c.toNat, 4)]) rfl hi lo
theorem opsub (t : BitVec 2) (a : BitVec 6) (b : BitVec 6) (r : BitVec 3) (c : BitVec 3) : Statement (.opsub t a b r c) := by
  have := t.isLt; have := a.isLt; have := b.isLt; have := r.isLt; have := c.isLt
  have hi : placeFields 0xa3000000 [(t.toNat, 22), (a.toNat, 16), (b.toNat, 10), (r.toNat, 7), (c.toNat, 4)] < 2 ^ 32 := by rw [place_5]; omega
  have lo : 2 ^ 24 ≤ placeFields 0xa3000000 [(t.toNat, 22), (a.toNat, 16), (b.toNat, 10), (r.toNat, 7), (c.toNat, 4)] := by rw [place_5]; omega
  exact of_row (n := placeFields 0xa3000000 [(t.toNat, 22), (a.toNat, 16), (b.toNat, 10), (r.toNat, 7), (c.toNat, 4)]) rfl hi lo
theorem mrd (t : BitVec 2) (v : BitVec 5) (x : BitVec 6) (c : BitVec 3) (s : BitVec 1) : Statement (.mrd t v x c s) := by
  have := t.isLt; have := v.isLt; have := x.isLt; have := c.isLt; have := s.isLt
  have hi : placeFields 0xa4000000 [(t.toNat, 22), (v.toNat, 16), (x.toNat, 10), (c.toNat, 4), (s.toNat, 3)] < 2 ^ 32 := by rw [place_5]; omega
  have lo : 2 ^ 24 ≤ placeFields 0xa4000000 [(t.toNat, 22), (v.toNat, 16), (x.toNat, 10), (c.toNat, 4), (s.toNat, 3)] := by rw [place_5]; omega
  exact of_row (n := placeFields 0xa4000000 [(t.toNat, 22), (v.toNat, 16), (x.toNat, 10), (c.toNat, 4), (s.toNat, 3)]) rfl hi lo
theorem mwr (t : BitVec 2) (a : BitVec 6) (x : BitVec 6) (c : BitVec 3) (s : BitVec 1) : Statement (.mwr t a x c s) := by
  have := t.isLt; have := a.isLt; have := x.isLt; have := c.isLt; have := s.isLt
  have hi : placeFields 0xa5000000 [(t.toNat, 22), (a.toNat, 16), (x.toNat, 10), (c.toNat, 4), (s.toNat, 3)] < 2 ^ 32 := by rw [place_5]; omega
  have lo : 2 ^ 24 ≤ placeFields 0xa5000000 [(t.toNat, 22), (a.toNat, 16), (x.toNat, 10), (c.toNat, 4), (s.toNat, 3)] := by rw [place_5]; omega
  exact of_row (n := placeFields 0xa5000000 [(t.toNat, 22), (a.toNat, 16), (x.toNat, 10), (c.toNat, 4), (s.toNat, 3)]) rfl hi lo
theorem mtr (t : BitVec 2) (v : BitVec 5) (x : BitVec 6) (c : BitVec 3) (s : BitVec 1) : Statement (.mtr t v x c s) := by
  have := t.isLt; have := v.isLt; have := x.isLt; have := c.isLt; have := s.isLt
  have hi : placeFields 0xa6000000 [(t.toNat, 22), (v.toNat, 16), (x.toNat, 10), (c.toNat, 4), (s.toNat, 3)] < 2 ^ 32 := by rw [place_5]; omega
  have lo : 2 ^ 24 ≤ placeFields 0xa6000000 [(t.toNat, 22), (v.toNat, 16), (x.toNat, 10), (c.toNat, 4), (s.toNat, 3)] := by rw [place_5]; omega
  exact of_row (n := placeFields 0xa6000000 [(t.toNat, 22), (v.toNat, 16), (x.toNat, 10), (c.toNat, 4), (s.toNat, 3)]) rfl hi lo
theorem vtag (d : BitVec 5) (a : BitVec 6) (b : BitVec 6) : Statement (.vtag d a b) := by
  have := d.isLt; have := a.isLt; have := b.isLt
  have hi : placeFields 0xb0000000 [(d.toNat, 19), (a.toNat, 13), (b.toNat, 7)] < 2 ^ 32 := by rw [place_3]; omega
  have lo : 2 ^ 24 ≤ placeFields 0xb0000000 [(d.toNat, 19), (a.toNat, 13), (b.toNat, 7)] := by rw [place_3]; omega
  exact of_row (n := placeFields 0xb0000000 [(d.toNat, 19), (a.toNat, 13), (b.toNat, 7)]) rfl hi lo
theorem vgtag (d : BitVec 5) (a : BitVec 5) (b : BitVec 6) : Statement (.vgtag d a b) := by
  have := d.isLt; have := a.isLt; have := b.isLt
  have hi : placeFields 0xb1000000 [(d.toNat, 19), (a.toNat, 13), (b.toNat, 7)] < 2 ^ 32 := by rw [place_3]; omega
  have lo : 2 ^ 24 ≤ placeFields 0xb1000000 [(d.toNat, 19), (a.toNat, 13), (b.toNat, 7)] := by rw [place_3]; omega
  exact of_row (n := placeFields 0xb1000000 [(d.toNat, 19), (a.toNat, 13), (b.toNat, 7)]) rfl hi lo
theorem vcvt (d : BitVec 5) (a : BitVec 6) (f : BitVec 5) (m : BitVec 3) (z : BitVec 1) : Statement (.vcvt d a f m z) := by
  have := d.isLt; have := a.isLt; have := f.isLt; have := m.isLt; have := z.isLt
  have hi : placeFields 0xb2000000 [(d.toNat, 19), (a.toNat, 13), (f.toNat, 7), (m.toNat, 4), (z.toNat, 0)] < 2 ^ 32 := by rw [place_5]; omega
  have lo : 2 ^ 24 ≤ placeFields 0xb2000000 [(d.toNat, 19), (a.toNat, 13), (f.toNat, 7), (m.toNat, 4), (z.toNat, 0)] := by rw [place_5]; omega
  exact of_row (n := placeFields 0xb2000000 [(d.toNat, 19), (a.toNat, 13), (f.toNat, 7), (m.toNat, 4), (z.toNat, 0)]) rfl hi lo
theorem vscale (d : BitVec 5) (a : BitVec 6) (b : BitVec 6) (m : BitVec 3) (z : BitVec 1) : Statement (.vscale d a b m z) := by
  have := d.isLt; have := a.isLt; have := b.isLt; have := m.isLt; have := z.isLt
  have hi : placeFields 0xb3000000 [(d.toNat, 19), (a.toNat, 13), (b.toNat, 7), (m.toNat, 4), (z.toNat, 0)] < 2 ^ 32 := by rw [place_5]; omega
  have lo : 2 ^ 24 ≤ placeFields 0xb3000000 [(d.toNat, 19), (a.toNat, 13), (b.toNat, 7), (m.toNat, 4), (z.toNat, 0)] := by rw [place_5]; omega
  exact of_row (n := placeFields 0xb3000000 [(d.toNat, 19), (a.toNat, 13), (b.toNat, 7), (m.toNat, 4), (z.toNat, 0)]) rfl hi lo
theorem vunrot (d : BitVec 5) (a : BitVec 6) : Statement (.vunrot d a) := by
  have := d.isLt; have := a.isLt
  have hi : placeFields 0xb4000000 [(d.toNat, 19), (a.toNat, 13)] < 2 ^ 32 := by rw [place_2]; omega
  have lo : 2 ^ 24 ≤ placeFields 0xb4000000 [(d.toNat, 19), (a.toNat, 13)] := by rw [place_2]; omega
  exact of_row (n := placeFields 0xb4000000 [(d.toNat, 19), (a.toNat, 13)]) rfl hi lo
theorem cadd (a : BitVec 6) (b : BitVec 6) (o : BitVec 2) (s : BitVec 3) : Statement (.cadd a b o s) := by
  have := a.isLt; have := b.isLt; have := o.isLt; have := s.isLt
  have hi : placeFields 0xc0000000 [(a.toNat, 12), (b.toNat, 6), (o.toNat, 4), (s.toNat, 1)] < 2 ^ 32 := by rw [place_4]; omega
  have lo : 2 ^ 24 ≤ placeFields 0xc0000000 [(a.toNat, 12), (b.toNat, 6), (o.toNat, 4), (s.toNat, 1)] := by rw [place_4]; omega
  exact of_row (n := placeFields 0xc0000000 [(a.toNat, 12), (b.toNat, 6), (o.toNat, 4), (s.toNat, 1)]) rfl hi lo
theorem cxadd (d : BitVec 6) (a : BitVec 6) (b : BitVec 6) (o : BitVec 2) (s : BitVec 3) : Statement (.cxadd d a b o s) := by
  have := d.isLt; have := a.isLt; have := b.isLt; have := o.isLt; have := s.isLt
  have hi : placeFields 0xc1000000 [(d.toNat, 18), (a.toNat, 12), (b.toNat, 6), (o.toNat, 4), (s.toNat, 1)] < 2 ^ 32 := by rw [place_5]; omega
  have lo : 2 ^ 24 ≤ placeFields 0xc1000000 [(d.toNat, 18), (a.toNat, 12), (b.toNat, 6), (o.toNat, 4), (s.toNat, 1)] := by rw [place_5]; omega
  exact of_row (n := placeFields 0xc1000000 [(d.toNat, 18), (a.toNat, 12), (b.toNat, 6), (o.toNat, 4), (s.toNat, 1)]) rfl hi lo
theorem cwait (d : BitVec 6) (a : BitVec 6) (b : BitVec 6) (s : BitVec 3) : Statement (.cwait d a b s) := by
  have := d.isLt; have := a.isLt; have := b.isLt; have := s.isLt
  have hi : placeFields 0xc2000010 [(d.toNat, 18), (a.toNat, 12), (b.toNat, 6), (s.toNat, 1)] < 2 ^ 32 := by rw [place_4]; omega
  have lo : 2 ^ 24 ≤ placeFields 0xc2000010 [(d.toNat, 18), (a.toNat, 12), (b.toNat, 6), (s.toNat, 1)] := by rw [place_4]; omega
  exact of_row (n := placeFields 0xc2000010 [(d.toNat, 18), (a.toNat, 12), (b.toNat, 6), (s.toNat, 1)]) rfl hi lo
theorem crd (d : BitVec 6) (a : BitVec 6) (o : BitVec 2) (s : BitVec 3) : Statement (.crd d a o s) := by
  have := d.isLt; have := a.isLt; have := o.isLt; have := s.isLt
  have hi : placeFields 0xc3000000 [(d.toNat, 18), (a.toNat, 12), (o.toNat, 4), (s.toNat, 1)] < 2 ^ 32 := by rw [place_4]; omega
  have lo : 2 ^ 24 ≤ placeFields 0xc3000000 [(d.toNat, 18), (a.toNat, 12), (o.toNat, 4), (s.toNat, 1)] := by rw [place_4]; omega
  exact of_row (n := placeFields 0xc3000000 [(d.toNat, 18), (a.toNat, 12), (o.toNat, 4), (s.toNat, 1)]) rfl hi lo
theorem ctst (d : BitVec 6) (a : BitVec 6) (b : BitVec 6) (o : BitVec 2) (s : BitVec 3) : Statement (.ctst d a b o s) := by
  have := d.isLt; have := a.isLt; have := b.isLt; have := o.isLt; have := s.isLt
  have hi : placeFields 0xc4000000 [(d.toNat, 18), (a.toNat, 12), (b.toNat, 6), (o.toNat, 4), (s.toNat, 1)] < 2 ^ 32 := by rw [place_5]; omega
  have lo : 2 ^ 24 ≤ placeFields 0xc4000000 [(d.toNat, 18), (a.toNat, 12), (b.toNat, 6), (o.toNat, 4), (s.toNat, 1)] := by rw [place_5]; omega
  exact of_row (n := placeFields 0xc4000000 [(d.toNat, 18), (a.toNat, 12), (b.toNat, 6), (o.toNat, 4), (s.toNat, 1)]) rfl hi lo
theorem cset (d : BitVec 6) (a : BitVec 6) (b : BitVec 6) (s : BitVec 3) : Statement (.cset d a b s) := by
  have := d.isLt; have := a.isLt; have := b.isLt; have := s.isLt
  have hi : placeFields 0xc5000000 [(d.toNat, 18), (a.toNat, 12), (b.toNat, 6), (s.toNat, 1)] < 2 ^ 32 := by rw [place_4]; omega
  have lo : 2 ^ 24 ≤ placeFields 0xc5000000 [(d.toNat, 18), (a.toNat, 12), (b.toNat, 6), (s.toNat, 1)] := by rw [place_4]; omega
  exact of_row (n := placeFields 0xc5000000 [(d.toNat, 18), (a.toNat, 12), (b.toNat, 6), (s.toNat, 1)]) rfl hi lo
theorem atomAdd (d : BitVec 6) (a : BitVec 6) (b : BitVec 6) (o : BitVec 2) (s : BitVec 3) (w : BitVec 1) : Statement (.atomAdd d a b o s w) := by
  have := d.isLt; have := a.isLt; have := b.isLt; have := o.isLt; have := s.isLt; have := w.isLt
  have hi : placeFields 0xc6000000 [(d.toNat, 18), (a.toNat, 12), (b.toNat, 6), (o.toNat, 4), (s.toNat, 1), (w.toNat, 0)] < 2 ^ 32 := by rw [place_6]; omega
  have lo : 2 ^ 24 ≤ placeFields 0xc6000000 [(d.toNat, 18), (a.toNat, 12), (b.toNat, 6), (o.toNat, 4), (s.toNat, 1), (w.toNat, 0)] := by rw [place_6]; omega
  exact of_row (n := placeFields 0xc6000000 [(d.toNat, 18), (a.toNat, 12), (b.toNat, 6), (o.toNat, 4), (s.toNat, 1), (w.toNat, 0)]) rfl hi lo
theorem atomMin (d : BitVec 6) (a : BitVec 6) (b : BitVec 6) (o : BitVec 2) (s : BitVec 3) (w : BitVec 1) : Statement (.atomMin d a b o s w) := by
  have := d.isLt; have := a.isLt; have := b.isLt; have := o.isLt; have := s.isLt; have := w.isLt
  have hi : placeFields 0xc7000000 [(d.toNat, 18), (a.toNat, 12), (b.toNat, 6), (o.toNat, 4), (s.toNat, 1), (w.toNat, 0)] < 2 ^ 32 := by rw [place_6]; omega
  have lo : 2 ^ 24 ≤ placeFields 0xc7000000 [(d.toNat, 18), (a.toNat, 12), (b.toNat, 6), (o.toNat, 4), (s.toNat, 1), (w.toNat, 0)] := by rw [place_6]; omega
  exact of_row (n := placeFields 0xc7000000 [(d.toNat, 18), (a.toNat, 12), (b.toNat, 6), (o.toNat, 4), (s.toNat, 1), (w.toNat, 0)]) rfl hi lo
theorem atomMax (d : BitVec 6) (a : BitVec 6) (b : BitVec 6) (o : BitVec 2) (s : BitVec 3) (w : BitVec 1) : Statement (.atomMax d a b o s w) := by
  have := d.isLt; have := a.isLt; have := b.isLt; have := o.isLt; have := s.isLt; have := w.isLt
  have hi : placeFields 0xc8000000 [(d.toNat, 18), (a.toNat, 12), (b.toNat, 6), (o.toNat, 4), (s.toNat, 1), (w.toNat, 0)] < 2 ^ 32 := by rw [place_6]; omega
  have lo : 2 ^ 24 ≤ placeFields 0xc8000000 [(d.toNat, 18), (a.toNat, 12), (b.toNat, 6), (o.toNat, 4), (s.toNat, 1), (w.toNat, 0)] := by rw [place_6]; omega
  exact of_row (n := placeFields 0xc8000000 [(d.toNat, 18), (a.toNat, 12), (b.toNat, 6), (o.toNat, 4), (s.toNat, 1), (w.toNat, 0)]) rfl hi lo
theorem atomAnd (d : BitVec 6) (a : BitVec 6) (b : BitVec 6) (o : BitVec 2) (s : BitVec 3) (w : BitVec 1) : Statement (.atomAnd d a b o s w) := by
  have := d.isLt; have := a.isLt; have := b.isLt; have := o.isLt; have := s.isLt; have := w.isLt
  have hi : placeFields 0xc9000000 [(d.toNat, 18), (a.toNat, 12), (b.toNat, 6), (o.toNat, 4), (s.toNat, 1), (w.toNat, 0)] < 2 ^ 32 := by rw [place_6]; omega
  have lo : 2 ^ 24 ≤ placeFields 0xc9000000 [(d.toNat, 18), (a.toNat, 12), (b.toNat, 6), (o.toNat, 4), (s.toNat, 1), (w.toNat, 0)] := by rw [place_6]; omega
  exact of_row (n := placeFields 0xc9000000 [(d.toNat, 18), (a.toNat, 12), (b.toNat, 6), (o.toNat, 4), (s.toNat, 1), (w.toNat, 0)]) rfl hi lo
theorem atomOr (d : BitVec 6) (a : BitVec 6) (b : BitVec 6) (o : BitVec 2) (s : BitVec 3) (w : BitVec 1) : Statement (.atomOr d a b o s w) := by
  have := d.isLt; have := a.isLt; have := b.isLt; have := o.isLt; have := s.isLt; have := w.isLt
  have hi : placeFields 0xca000000 [(d.toNat, 18), (a.toNat, 12), (b.toNat, 6), (o.toNat, 4), (s.toNat, 1), (w.toNat, 0)] < 2 ^ 32 := by rw [place_6]; omega
  have lo : 2 ^ 24 ≤ placeFields 0xca000000 [(d.toNat, 18), (a.toNat, 12), (b.toNat, 6), (o.toNat, 4), (s.toNat, 1), (w.toNat, 0)] := by rw [place_6]; omega
  exact of_row (n := placeFields 0xca000000 [(d.toNat, 18), (a.toNat, 12), (b.toNat, 6), (o.toNat, 4), (s.toNat, 1), (w.toNat, 0)]) rfl hi lo
theorem atomXor (d : BitVec 6) (a : BitVec 6) (b : BitVec 6) (o : BitVec 2) (s : BitVec 3) (w : BitVec 1) : Statement (.atomXor d a b o s w) := by
  have := d.isLt; have := a.isLt; have := b.isLt; have := o.isLt; have := s.isLt; have := w.isLt
  have hi : placeFields 0xcb000000 [(d.toNat, 18), (a.toNat, 12), (b.toNat, 6), (o.toNat, 4), (s.toNat, 1), (w.toNat, 0)] < 2 ^ 32 := by rw [place_6]; omega
  have lo : 2 ^ 24 ≤ placeFields 0xcb000000 [(d.toNat, 18), (a.toNat, 12), (b.toNat, 6), (o.toNat, 4), (s.toNat, 1), (w.toNat, 0)] := by rw [place_6]; omega
  exact of_row (n := placeFields 0xcb000000 [(d.toNat, 18), (a.toNat, 12), (b.toNat, 6), (o.toNat, 4), (s.toNat, 1), (w.toNat, 0)]) rfl hi lo
theorem atomSwap (d : BitVec 6) (a : BitVec 6) (b : BitVec 6) (o : BitVec 2) (s : BitVec 3) (w : BitVec 1) : Statement (.atomSwap d a b o s w) := by
  have := d.isLt; have := a.isLt; have := b.isLt; have := o.isLt; have := s.isLt; have := w.isLt
  have hi : placeFields 0xcc000000 [(d.toNat, 18), (a.toNat, 12), (b.toNat, 6), (o.toNat, 4), (s.toNat, 1), (w.toNat, 0)] < 2 ^ 32 := by rw [place_6]; omega
  have lo : 2 ^ 24 ≤ placeFields 0xcc000000 [(d.toNat, 18), (a.toNat, 12), (b.toNat, 6), (o.toNat, 4), (s.toNat, 1), (w.toNat, 0)] := by rw [place_6]; omega
  exact of_row (n := placeFields 0xcc000000 [(d.toNat, 18), (a.toNat, 12), (b.toNat, 6), (o.toNat, 4), (s.toNat, 1), (w.toNat, 0)]) rfl hi lo
theorem cas (d : BitVec 6) (a : BitVec 6) (b : BitVec 6) (o : BitVec 2) (s : BitVec 3) (w : BitVec 1) : Statement (.cas d a b o s w) := by
  have := d.isLt; have := a.isLt; have := b.isLt; have := o.isLt; have := s.isLt; have := w.isLt
  have hi : placeFields 0xcd000000 [(d.toNat, 18), (a.toNat, 12), (b.toNat, 6), (o.toNat, 4), (s.toNat, 1), (w.toNat, 0)] < 2 ^ 32 := by rw [place_6]; omega
  have lo : 2 ^ 24 ≤ placeFields 0xcd000000 [(d.toNat, 18), (a.toNat, 12), (b.toNat, 6), (o.toNat, 4), (s.toNat, 1), (w.toNat, 0)] := by rw [place_6]; omega
  exact of_row (n := placeFields 0xcd000000 [(d.toNat, 18), (a.toNat, 12), (b.toNat, 6), (o.toNat, 4), (s.toNat, 1), (w.toNat, 0)]) rfl hi lo
theorem vatom (p : BitVec 3) (m : BitVec 3) (a : BitVec 6) (q : BitVec 3) (t : BitVec 1) (x : BitVec 1) (o : BitVec 2) (s : BitVec 3) (w : BitVec 1) : Statement (.vatom p m a q t x o s w) := by
  have := p.isLt; have := m.isLt; have := a.isLt; have := q.isLt; have := t.isLt; have := x.isLt; have := o.isLt; have := s.isLt; have := w.isLt
  have hi : placeFields 0xce000000 [(p.toNat, 21), (m.toNat, 18), (a.toNat, 12), (q.toNat, 8), (t.toNat, 7), (x.toNat, 6), (o.toNat, 4), (s.toNat, 1), (w.toNat, 0)] < 2 ^ 32 := by rw [place_9]; omega
  have lo : 2 ^ 24 ≤ placeFields 0xce000000 [(p.toNat, 21), (m.toNat, 18), (a.toNat, 12), (q.toNat, 8), (t.toNat, 7), (x.toNat, 6), (o.toNat, 4), (s.toNat, 1), (w.toNat, 0)] := by rw [place_9]; omega
  exact of_row (n := placeFields 0xce000000 [(p.toNat, 21), (m.toNat, 18), (a.toNat, 12), (q.toNat, 8), (t.toNat, 7), (x.toNat, 6), (o.toNat, 4), (s.toNat, 1), (w.toNat, 0)]) rfl hi lo
theorem vatomOi (p : BitVec 3) (m : BitVec 3) (a : BitVec 6) (q : BitVec 3) (t : BitVec 1) (x : BitVec 1) (o : BitVec 2) (s : BitVec 3) (w : BitVec 1) : Statement (.vatomOi p m a q t x o s w) := by
  have := p.isLt; have := m.isLt; have := a.isLt; have := q.isLt; have := t.isLt; have := x.isLt; have := o.isLt; have := s.isLt; have := w.isLt
  have hi : placeFields 0xcf000000 [(p.toNat, 21), (m.toNat, 18), (a.toNat, 12), (q.toNat, 8), (t.toNat, 7), (x.toNat, 6), (o.toNat, 4), (s.toNat, 1), (w.toNat, 0)] < 2 ^ 32 := by rw [place_9]; omega
  have lo : 2 ^ 24 ≤ placeFields 0xcf000000 [(p.toNat, 21), (m.toNat, 18), (a.toNat, 12), (q.toNat, 8), (t.toNat, 7), (x.toNat, 6), (o.toNat, 4), (s.toNat, 1), (w.toNat, 0)] := by rw [place_9]; omega
  exact of_row (n := placeFields 0xcf000000 [(p.toNat, 21), (m.toNat, 18), (a.toNat, 12), (q.toNat, 8), (t.toNat, 7), (x.toNat, 6), (o.toNat, 4), (s.toNat, 1), (w.toNat, 0)]) rfl hi lo
theorem sluice (a : BitVec 6) (j : BitVec 4) (s : BitVec 3) : Statement (.sluice a j s) := by
  have := a.isLt; have := j.isLt; have := s.isLt
  have hi : placeFields 0xd0000020 [(a.toNat, 12), (j.toNat, 6), (s.toNat, 1)] < 2 ^ 32 := by rw [place_3]; omega
  have lo : 2 ^ 24 ≤ placeFields 0xd0000020 [(a.toNat, 12), (j.toNat, 6), (s.toNat, 1)] := by rw [place_3]; omega
  exact of_row (n := placeFields 0xd0000020 [(a.toNat, 12), (j.toNat, 6), (s.toNat, 1)]) rfl hi lo
theorem panc (a : BitVec 6) (s : BitVec 3) : Statement (.panc a s) := by
  have := a.isLt; have := s.isLt
  have hi : placeFields 0xd1000020 [(a.toNat, 12), (s.toNat, 1)] < 2 ^ 32 := by rw [place_2]; omega
  have lo : 2 ^ 24 ≤ placeFields 0xd1000020 [(a.toNat, 12), (s.toNat, 1)] := by rw [place_2]; omega
  exact of_row (n := placeFields 0xd1000020 [(a.toNat, 12), (s.toNat, 1)]) rfl hi lo
theorem rcode (a : BitVec 6) (s : BitVec 3) : Statement (.rcode a s) := by
  have := a.isLt; have := s.isLt
  have hi : placeFields 0xd2000020 [(a.toNat, 12), (s.toNat, 1)] < 2 ^ 32 := by rw [place_2]; omega
  have lo : 2 ^ 24 ≤ placeFields 0xd2000020 [(a.toNat, 12), (s.toNat, 1)] := by rw [place_2]; omega
  exact of_row (n := placeFields 0xd2000020 [(a.toNat, 12), (s.toNat, 1)]) rfl hi lo
theorem launch (d : BitVec 6) (a : BitVec 6) : Statement (.launch d a) := by
  have := d.isLt; have := a.isLt
  have hi : placeFields 0xd3000000 [(d.toNat, 18), (a.toNat, 12)] < 2 ^ 32 := by rw [place_2]; omega
  have lo : 2 ^ 24 ≤ placeFields 0xd3000000 [(d.toNat, 18), (a.toNat, 12)] := by rw [place_2]; omega
  exact of_row (n := placeFields 0xd3000000 [(d.toNat, 18), (a.toNat, 12)]) rfl hi lo
theorem cancel (d : BitVec 6) (a : BitVec 6) : Statement (.cancel d a) := by
  have := d.isLt; have := a.isLt
  have hi : placeFields 0xd4000000 [(d.toNat, 18), (a.toNat, 12)] < 2 ^ 32 := by rw [place_2]; omega
  have lo : 2 ^ 24 ≤ placeFields 0xd4000000 [(d.toNat, 18), (a.toNat, 12)] := by rw [place_2]; omega
  exact of_row (n := placeFields 0xd4000000 [(d.toNat, 18), (a.toNat, 12)]) rfl hi lo
theorem strip (d : BitVec 6) : Statement (.strip d) := by
  have := d.isLt
  have hi : placeFields 0xd5000000 [(d.toNat, 18)] < 2 ^ 32 := by rw [place_1]; omega
  have lo : 2 ^ 24 ≤ placeFields 0xd5000000 [(d.toNat, 18)] := by rw [place_1]; omega
  exact of_row (n := placeFields 0xd5000000 [(d.toNat, 18)]) rfl hi lo
theorem csrr (d : BitVec 6) (c : BitVec 12) : Statement (.csrr d c) := by
  have := d.isLt; have := c.isLt
  have hi : placeFields 0xe0000000 [(d.toNat, 18), (c.toNat, 0)] < 2 ^ 32 := by rw [place_2]; omega
  have lo : 2 ^ 24 ≤ placeFields 0xe0000000 [(d.toNat, 18), (c.toNat, 0)] := by rw [place_2]; omega
  exact of_row (n := placeFields 0xe0000000 [(d.toNat, 18), (c.toNat, 0)]) rfl hi lo
theorem csrw (d : BitVec 6) (a : BitVec 6) (c : BitVec 12) : Statement (.csrw d a c) := by
  have := d.isLt; have := a.isLt; have := c.isLt
  have hi : placeFields 0xe1000000 [(d.toNat, 18), (a.toNat, 12), (c.toNat, 0)] < 2 ^ 32 := by rw [place_3]; omega
  have lo : 2 ^ 24 ≤ placeFields 0xe1000000 [(d.toNat, 18), (a.toNat, 12), (c.toNat, 0)] := by rw [place_3]; omega
  exact of_row (n := placeFields 0xe1000000 [(d.toNat, 18), (a.toNat, 12), (c.toNat, 0)]) rfl hi lo
theorem csrs (d : BitVec 6) (a : BitVec 6) (c : BitVec 12) : Statement (.csrs d a c) := by
  have := d.isLt; have := a.isLt; have := c.isLt
  have hi : placeFields 0xe2000000 [(d.toNat, 18), (a.toNat, 12), (c.toNat, 0)] < 2 ^ 32 := by rw [place_3]; omega
  have lo : 2 ^ 24 ≤ placeFields 0xe2000000 [(d.toNat, 18), (a.toNat, 12), (c.toNat, 0)] := by rw [place_3]; omega
  exact of_row (n := placeFields 0xe2000000 [(d.toNat, 18), (a.toNat, 12), (c.toNat, 0)]) rfl hi lo
theorem csrc (d : BitVec 6) (a : BitVec 6) (c : BitVec 12) : Statement (.csrc d a c) := by
  have := d.isLt; have := a.isLt; have := c.isLt
  have hi : placeFields 0xe3000000 [(d.toNat, 18), (a.toNat, 12), (c.toNat, 0)] < 2 ^ 32 := by rw [place_3]; omega
  have lo : 2 ^ 24 ≤ placeFields 0xe3000000 [(d.toNat, 18), (a.toNat, 12), (c.toNat, 0)] := by rw [place_3]; omega
  exact of_row (n := placeFields 0xe3000000 [(d.toNat, 18), (a.toNat, 12), (c.toNat, 0)]) rfl hi lo
theorem csrwi (d : BitVec 6) (i : BitVec 6) (c : BitVec 12) : Statement (.csrwi d i c) := by
  have := d.isLt; have := i.isLt; have := c.isLt
  have hi : placeFields 0xe4000000 [(d.toNat, 18), (i.toNat, 12), (c.toNat, 0)] < 2 ^ 32 := by rw [place_3]; omega
  have lo : 2 ^ 24 ≤ placeFields 0xe4000000 [(d.toNat, 18), (i.toNat, 12), (c.toNat, 0)] := by rw [place_3]; omega
  exact of_row (n := placeFields 0xe4000000 [(d.toNat, 18), (i.toNat, 12), (c.toNat, 0)]) rfl hi lo
theorem eret : Statement (.eret) := ⟨by decide, fun _ => by decide⟩
theorem scall (d : BitVec 6) (a : BitVec 6) (b : BitVec 6) : Statement (.scall d a b) := by
  have := d.isLt; have := a.isLt; have := b.isLt
  have hi : placeFields 0xe6000000 [(d.toNat, 18), (a.toNat, 12), (b.toNat, 6)] < 2 ^ 32 := by rw [place_3]; omega
  have lo : 2 ^ 24 ≤ placeFields 0xe6000000 [(d.toNat, 18), (a.toNat, 12), (b.toNat, 6)] := by rw [place_3]; omega
  exact of_row (n := placeFields 0xe6000000 [(d.toNat, 18), (a.toNat, 12), (b.toNat, 6)]) rfl hi lo
theorem scallNb (d : BitVec 6) (a : BitVec 6) (b : BitVec 6) : Statement (.scallNb d a b) := by
  have := d.isLt; have := a.isLt; have := b.isLt
  have hi : placeFields 0xe7000000 [(d.toNat, 18), (a.toNat, 12), (b.toNat, 6)] < 2 ^ 32 := by rw [place_3]; omega
  have lo : 2 ^ 24 ≤ placeFields 0xe7000000 [(d.toNat, 18), (a.toNat, 12), (b.toNat, 6)] := by rw [place_3]; omega
  exact of_row (n := placeFields 0xe7000000 [(d.toNat, 18), (a.toNat, 12), (b.toNat, 6)]) rfl hi lo
theorem wmark (d : BitVec 6) : Statement (.wmark d) := by
  have := d.isLt
  have hi : placeFields 0xe8000000 [(d.toNat, 18)] < 2 ^ 32 := by rw [place_1]; omega
  have lo : 2 ^ 24 ≤ placeFields 0xe8000000 [(d.toNat, 18)] := by rw [place_1]; omega
  exact of_row (n := placeFields 0xe8000000 [(d.toNat, 18)]) rfl hi lo
theorem tlbiVa (d : BitVec 6) (a : BitVec 6) (b : BitVec 6) : Statement (.tlbiVa d a b) := by
  have := d.isLt; have := a.isLt; have := b.isLt
  have hi : placeFields 0xe9000000 [(d.toNat, 18), (a.toNat, 12), (b.toNat, 6)] < 2 ^ 32 := by rw [place_3]; omega
  have lo : 2 ^ 24 ≤ placeFields 0xe9000000 [(d.toNat, 18), (a.toNat, 12), (b.toNat, 6)] := by rw [place_3]; omega
  exact of_row (n := placeFields 0xe9000000 [(d.toNat, 18), (a.toNat, 12), (b.toNat, 6)]) rfl hi lo
theorem tlbiAsid (d : BitVec 6) (b : BitVec 6) : Statement (.tlbiAsid d b) := by
  have := d.isLt; have := b.isLt
  have hi : placeFields 0xea000000 [(d.toNat, 18), (b.toNat, 6)] < 2 ^ 32 := by rw [place_2]; omega
  have lo : 2 ^ 24 ≤ placeFields 0xea000000 [(d.toNat, 18), (b.toNat, 6)] := by rw [place_2]; omega
  exact of_row (n := placeFields 0xea000000 [(d.toNat, 18), (b.toNat, 6)]) rfl hi lo
theorem tlbiAll (d : BitVec 6) : Statement (.tlbiAll d) := by
  have := d.isLt
  have hi : placeFields 0xeb000000 [(d.toNat, 18)] < 2 ^ 32 := by rw [place_1]; omega
  have lo : 2 ^ 24 ≤ placeFields 0xeb000000 [(d.toNat, 18)] := by rw [place_1]; omega
  exact of_row (n := placeFields 0xeb000000 [(d.toNat, 18)]) rfl hi lo
theorem bkpt : Statement (.bkpt) := ⟨by decide, fun _ => by decide⟩
theorem ptset (d : BitVec 6) (a : BitVec 6) (b : BitVec 6) : Statement (.ptset d a b) := by
  have := d.isLt; have := a.isLt; have := b.isLt
  have hi : placeFields 0xed000000 [(d.toNat, 18), (a.toNat, 12), (b.toNat, 6)] < 2 ^ 32 := by rw [place_3]; omega
  have lo : 2 ^ 24 ≤ placeFields 0xed000000 [(d.toNat, 18), (a.toNat, 12), (b.toNat, 6)] := by rw [place_3]; omega
  exact of_row (n := placeFields 0xed000000 [(d.toNat, 18), (a.toNat, 12), (b.toNat, 6)]) rfl hi lo
theorem ptget (d : BitVec 6) (a : BitVec 6) : Statement (.ptget d a) := by
  have := d.isLt; have := a.isLt
  have hi : placeFields 0xee000000 [(d.toNat, 18), (a.toNat, 12)] < 2 ^ 32 := by rw [place_2]; omega
  have lo : 2 ^ 24 ≤ placeFields 0xee000000 [(d.toNat, 18), (a.toNat, 12)] := by rw [place_2]; omega
  exact of_row (n := placeFields 0xee000000 [(d.toNat, 18), (a.toNat, 12)]) rfl hi lo
theorem sdrain : Statement (.sdrain) := ⟨by decide, fun _ => by decide⟩
theorem xAdmission : ∀ (h : HartId), Statement (.xAdmission h) := fun _ => of_event rfl rfl
theorem vectorLoadArrival : ∀ (h : HartId), Statement (.vectorLoadArrival h) := fun _ => of_event rfl rfl
theorem storeResolve : ∀ (h : HartId), Statement (.storeResolve h) := fun _ => of_event rfl rfl
theorem walkComplete : ∀ (tower : Nat) (core : Nat) (asid : Nat) (va : Nat), Statement (.walkComplete tower core asid va) := fun _ _ _ _ => of_event rfl rfl
theorem tlbiCompletionAdd : Statement .tlbiCompletionAdd := of_event rfl rfl
theorem homeRequest : ∀ (pa : Nat) (tower : Nat) (core : Nat) (key : Nat) (own : Bool), Statement (.homeRequest pa tower core key own) := fun _ _ _ _ _ => of_event rfl rfl
theorem counterCacheEviction : ∀ (tower : Nat) (slot : Nat), Statement (.counterCacheEviction tower slot) := fun _ _ => of_event rfl rfl
theorem leaveGrant : ∀ (tower : Nat), Statement (.leaveGrant tower) := fun _ => of_event rfl rfl
theorem dutyUpdate : ∀ (tower : Nat), Statement (.dutyUpdate tower) := fun _ => of_event rfl rfl
theorem callNull : ∀ (tower : Nat), Statement (.callNull tower) := fun _ => of_event rfl rfl
theorem callUndoStep : ∀ (tower : Nat), Statement (.callUndoStep tower) := fun _ => of_event rfl rfl
theorem callUndoTo : ∀ (tower : Nat), Statement (.callUndoTo tower) := fun _ => of_event rfl rfl
theorem callHostFwd : ∀ (tower : Nat), Statement (.callHostFwd tower) := fun _ => of_event rfl rfl
theorem callLog : ∀ (tower : Nat), Statement (.callLog tower) := fun _ => of_event rfl rfl
theorem callUndefined : ∀ (tower : Nat), Statement (.callUndefined tower) := fun _ => of_event rfl rfl
theorem softPreemptStop : ∀ (h : HartId), Statement (.softPreemptStop h) := fun _ => of_event rfl rfl
theorem preemptTimeout : ∀ (h : HartId), Statement (.preemptTimeout h) := fun _ => of_event rfl rfl
theorem qblockHardPreempt : ∀ (h : HartId), Statement (.qblockHardPreempt h) := fun _ => of_event rfl rfl
theorem killStop : ∀ (h : HartId), Statement (.killStop h) := fun _ => of_event rfl rfl
theorem killTimeout : ∀ (h : HartId), Statement (.killTimeout h) := fun _ => of_event rfl rfl
theorem parkSaveComplete : ∀ (h : HartId), Statement (.parkSaveComplete h) := fun _ => of_event rfl rfl
theorem cwaitWake : ∀ (h : HartId) (value : BitVec 64), Statement (.cwaitWake h value) := fun _ _ => of_event rfl rfl
theorem cwaitTimeout : ∀ (h : HartId), Statement (.cwaitTimeout h) := fun _ => of_event rfl rfl
theorem cwaitFullPoll : ∀ (h : HartId), Statement (.cwaitFullPoll h) := fun _ => of_event rfl rfl
theorem hostCounterPoll : ∀ (h : HartId), Statement (.hostCounterPoll h) := fun _ => of_event rfl rfl
theorem waiterPoll : ∀ (w : WaiterId), Statement (.waiterPoll w) := fun _ => of_event rfl rfl
theorem wmarkCollectiveComplete : ∀ (lix : Nat), Statement (.wmarkCollectiveComplete lix) := fun _ => of_event rfl rfl
theorem rewind : ∀ (lix : Nat), Statement (.rewind lix) := fun _ => of_event rfl rfl
theorem sluiceCopy : ∀ (cmd : Nat), Statement (.sluiceCopy cmd) := fun _ => of_event rfl rfl
theorem sluiceAppend : ∀ (cmd : Nat), Statement (.sluiceAppend cmd) := fun _ => of_event rfl rfl
theorem sluiceLineDelivered : ∀ (cmd : Nat), Statement (.sluiceLineDelivered cmd) := fun _ => of_event rfl rfl
theorem panGemv : ∀ (cmd : Nat), Statement (.panGemv cmd) := fun _ => of_event rfl rfl
theorem panAxpby : ∀ (cmd : Nat), Statement (.panAxpby cmd) := fun _ => of_event rfl rfl
theorem panFill : ∀ (cmd : Nat), Statement (.panFill cmd) := fun _ => of_event rfl rfl
theorem panCommandEnd : ∀ (cmd : Nat), Statement (.panCommandEnd cmd) := fun _ => of_event rfl rfl
theorem recodeJobStart : ∀ (tower : Nat), Statement (.recodeJobStart tower) := fun _ => of_event rfl rfl
theorem recodeGuardDone : ∀ (tower : Nat), Statement (.recodeGuardDone tower) := fun _ => of_event rfl rfl
theorem recodeLinesDone : ∀ (tower : Nat), Statement (.recodeLinesDone tower) := fun _ => of_event rfl rfl
theorem recodeShootDone : ∀ (tower : Nat), Statement (.recodeShootDone tower) := fun _ => of_event rfl rfl
theorem surveyDump : ∀ (tower : Nat), Statement (.surveyDump tower) := fun _ => of_event rfl rfl
theorem surveyDumpDone : ∀ (tower : Nat), Statement (.surveyDumpDone tower) := fun _ => of_event rfl rfl
theorem breakpointHit : ∀ (entry : Nat), Statement (.breakpointHit entry) := fun _ => of_event rfl rfl
theorem xRetirement : ∀ (h : HartId), Statement (.xRetirement h) := fun _ => of_event rfl rfl
theorem countedCycle : ∀ (h : HartId), Statement (.countedCycle h) := fun _ => of_event rfl rfl
theorem surveyBufferRecord : ∀ (tower : Nat), Statement (.surveyBufferRecord tower) := fun _ => of_event rfl rfl
theorem illegalOp : ∀ (w : BitVec 32), Statement (.illegalOp w) := fun _ => of_event rfl rfl
theorem l2Eviction : ∀ (pa : Nat), Statement (.l2Eviction pa) := fun _ => of_event rfl rfl
theorem snoopFilterEviction : ∀ (pa : Nat), Statement (.snoopFilterEviction pa) := fun _ => of_event rfl rfl
theorem hostSnoop : ∀ (pa : Nat), Statement (.hostSnoop pa) := fun _ => of_event rfl rfl
theorem thermalStep : ∀ (tower : Nat) (temp : Nat), Statement (.thermalStep tower temp) := fun _ _ => of_event rfl rfl
theorem thermalCritical : ∀ (tower : Nat) (temp : Nat), Statement (.thermalCritical tower temp) := fun _ _ => of_event rfl rfl
theorem pwrcapWrite : ∀ (host : HostId) (v : BitVec 64), Statement (.pwrcapWrite host v) := fun _ _ => of_event rfl rfl
theorem govstatWrite : ∀ (host : HostId) (tower : Nat) (v : BitVec 64), Statement (.govstatWrite host tower v) := fun _ _ _ => of_event rfl rfl
theorem hostPortTrain : ∀ (host : HostId) (lanes : Nat) (rate : Nat) (cxl : Bool), Statement (.hostPortTrain host lanes rate cxl) := fun _ _ _ _ => of_event rfl rfl
theorem flitReceive : ∀ (link : Nat) (flit : FlitIn), Statement (.flitReceive link flit) := fun _ _ => of_event rfl rfl
theorem laneLockLoss : ∀ (link : Nat), Statement (.laneLockLoss link) := fun _ => of_event rfl rfl
theorem peerRequest : ∀ (node : Nat) (req : PeerReq), Statement (.peerRequest node req) := fun _ _ => of_event rfl rfl
theorem remoteWake : ∀ (token : Nat) (value : BitVec 64), Statement (.remoteWake token value) := fun _ _ => of_event rfl rfl
theorem containmentMessage : ∀ (node : Nat), Statement (.containmentMessage node) := fun _ => of_event rfl rfl
theorem hostLinkDown : ∀ (host : HostId), Statement (.hostLinkDown host) := fun _ => of_event rfl rfl
theorem cxlViralIndication : ∀ (onMemPort : Bool) (port : Nat), Statement (.cxlViralIndication onMemPort port) := fun _ _ => of_event rfl rfl
theorem memoryPortLinkDown : ∀ (port : Nat), Statement (.memoryPortLinkDown port) := fun _ => of_event rfl rfl
theorem controlStructureError : ∀ (tower : Nat), Statement (.controlStructureError tower) := fun _ => of_event rfl rfl
theorem memwinRead : ∀ (host : HostId) (off : Nat) (n : Nat), Statement (.memwinRead host off n) := fun _ _ _ => of_event rfl rfl
theorem memwinWrite : ∀ (host : HostId) (off : Nat) (data : List (BitVec 8)) (poison : Bool), Statement (.memwinWrite host off data poison) := fun _ _ _ _ => of_event rfl rfl
theorem cfgwinWrite : ∀ (host : HostId) (off : Nat) (size : Nat) (v : BitVec 64), Statement (.cfgwinWrite host off size v) := fun _ _ _ _ => of_event rfl rfl
theorem bootStep : Statement .bootStep := of_event rfl rfl
theorem getVersion : ∀ (host : HostId), Statement (.getVersion host) := fun _ => of_event rfl rfl
theorem getCapabilities : ∀ (host : HostId), Statement (.getCapabilities host) := fun _ => of_event rfl rfl
theorem negotiateAlgorithms : ∀ (host : HostId), Statement (.negotiateAlgorithms host) := fun _ => of_event rfl rfl
theorem getDigests : ∀ (host : HostId), Statement (.getDigests host) := fun _ => of_event rfl rfl
theorem getCertificate : ∀ (host : HostId) (slot : Nat) (off : Nat) (len : Nat), Statement (.getCertificate host slot off len) := fun _ _ _ _ => of_event rfl rfl
theorem challenge : ∀ (host : HostId) (slot : Nat) (nonce : BitVec 256), Statement (.challenge host slot nonce) := fun _ _ _ => of_event rfl rfl
theorem getMeasurements : ∀ (host : HostId) (index : Nat), Statement (.getMeasurements host index) := fun _ _ => of_event rfl rfl
theorem spdmUnsupported : ∀ (host : HostId) (code : Nat), Statement (.spdmUnsupported host code) := fun _ _ => of_event rfl rfl
theorem leasecfgWrite : ∀ (host : HostId) (v : BitVec 64), Statement (.leasecfgWrite host v) := fun _ _ => of_event rfl rfl
theorem renew : ∀ (host : HostId), Statement (.renew host) := fun _ => of_event rfl rfl
theorem claim : ∀ (host : HostId), Statement (.claim host) := fun _ => of_event rfl rfl
theorem release : ∀ (host : HostId), Statement (.release host) := fun _ => of_event rfl rfl
theorem leaseExpiry : Statement .leaseExpiry := of_event rfl rfl
theorem hostCounterAdd : ∀ (host : HostId) (slot : Nat) (v : BitVec 64), Statement (.hostCounterAdd host slot v) := fun _ _ _ => of_event rfl rfl
theorem hostCounterRead : ∀ (host : HostId) (slot : Nat), Statement (.hostCounterRead host slot) := fun _ _ => of_event rfl rfl
theorem rqbaseWrite : ∀ (host : HostId) (v : BitVec 64), Statement (.rqbaseWrite host v) := fun _ _ => of_event rfl rfl
theorem rqentWrite : ∀ (host : HostId) (v : BitVec 64), Statement (.rqentWrite host v) := fun _ _ => of_event rfl rfl
theorem requestNop : Statement .requestNop := of_event rfl rfl
theorem requestLaunch : Statement .requestLaunch := of_event rfl rfl
theorem requestCancel : Statement .requestCancel := of_event rfl rfl
theorem interruptWaiterWrite : ∀ (host : HostId) (index : Nat) (off : Nat) (size : Nat) (v : BitVec 64), Statement (.interruptWaiterWrite host index off size v) := fun _ _ _ _ _ => of_event rfl rfl
theorem hostFwdReply : Statement .hostFwdReply := of_event rfl rfl
theorem stage : ∀ (host : HostId) (kind : Nat), Statement (.stage host kind) := fun _ _ => of_event rfl rfl
theorem fwMeasureDone : Statement .fwMeasureDone := of_event rfl rfl
theorem switch : ∀ (host : HostId), Statement (.switch host) := fun _ => of_event rfl rfl
theorem discard : ∀ (host : HostId), Statement (.discard host) := fun _ => of_event rfl rfl
theorem fwDrainEnd : Statement .fwDrainEnd := of_event rfl rfl
theorem fwreadyWrite : ∀ (v : BitVec 64), Statement (.fwreadyWrite v) := fun _ => of_event rfl rfl
theorem fwReadyTimeout : Statement .fwReadyTimeout := of_event rfl rfl
theorem preservingReset : ∀ (host : HostId), Statement (.preservingReset host) := fun _ => of_event rfl rfl
theorem coldReset : ∀ (host : HostId), Statement (.coldReset host) := fun _ => of_event rfl rfl
theorem resetPin : Statement .resetPin := of_event rfl rfl
theorem selectionPass : Statement .selectionPass := of_event rfl rfl
theorem svctlWrite : ∀ (v : BitVec 64), Statement (.svctlWrite v) := fun _ => of_event rfl rfl
theorem sbctlWrite : ∀ (v : BitVec 64), Statement (.sbctlWrite v) := fun _ => of_event rfl rfl
theorem freeze : Statement .freeze := of_event rfl rfl
theorem freezeSoft : Statement .freezeSoft := of_event rfl rfl
theorem thaw : Statement .thaw := of_event rfl rfl
theorem undoStep : Statement .undoStep := of_event rfl rfl
theorem undoTo : Statement .undoTo := of_event rfl rfl
theorem keyhiWrite : ∀ (v : BitVec 64), Statement (.keyhiWrite v) := fun _ => of_event rfl rfl
theorem cgdatWrite : ∀ (v : BitVec 64), Statement (.cgdatWrite v) := fun _ => of_event rfl rfl
theorem tendatWrite : ∀ (v : BitVec 64), Statement (.tendatWrite v) := fun _ => of_event rfl rfl
theorem peerdatWrite : ∀ (v : BitVec 64), Statement (.peerdatWrite v) := fun _ => of_event rfl rfl
theorem flappWrite : ∀ (v : BitVec 64), Statement (.flappWrite v) := fun _ => of_event rfl rfl
theorem cfgdatWrite : ∀ (v : BitVec 64), Statement (.cfgdatWrite v) := fun _ => of_event rfl rfl
theorem zalarnLinkTrain : ∀ (link : Nat) (width : Nat) (peer : Nat) (peerPort : Nat), Statement (.zalarnLinkTrain link width peer peerPort) := fun _ _ _ _ => of_event rfl rfl
theorem hostAtomicOp : ∀ (host : HostId) (off : Nat) (op : HostAtomic) (wide : Bool) (operand : BitVec 64) (expected : BitVec 64), Statement (.hostAtomicOp host off op wide operand expected) := fun _ _ _ _ _ _ => of_event rfl rfl

end Sys2Proof.Laws.Encodable
end

