-- ==== Sys2Proof/Laws/State.lean ====
section
/-! SUPPORT. Laws/State.lean: each update of the state changes its own fields alone, one lemma per update and field, so that
no proof unfolds a record update. -/

namespace Sys2Proof.Machine

/-! ### setCur -/

@[simp] theorem State.setCur_cycle (s : State) (u : Stream) : (s.setCur u).cycle = s.cycle := by
  unfold State.setCur; split <;> rfl
@[simp] theorem State.setCur_agenda (s : State) (u : Stream) : (s.setCur u).agenda = s.agenda := by
  unfold State.setCur; split <;> rfl
@[simp] theorem State.setCur_onX (s : State) (u : Stream) : (s.setCur u).onX = s.onX := by
  unfold State.setCur; split <;> rfl
@[simp] theorem State.setCur_rest (s : State) (u : Stream) : (s.setCur u).rest = s.rest := by
  unfold State.setCur; split <;> rfl
@[simp] theorem State.setCur_modes (s : State) (u : Stream) : (s.setCur u).modes = s.modes := by
  unfold State.setCur; split <;> rfl
@[simp] theorem State.setCur_draws (s : State) (u : Stream) : (s.setCur u).draws = s.draws := by
  unfold State.setCur; split <;> rfl
@[simp] theorem State.setCur_line (s : State) (u : Stream) : (s.setCur u).line = s.line := by
  unfold State.setCur; split <;> rfl
@[simp] theorem State.setCur_turns (s : State) (u : Stream) : (s.setCur u).turns = s.turns := by
  unfold State.setCur; split <;> rfl
@[simp] theorem State.setCur_mem (s : State) (u : Stream) : (s.setCur u).mem = s.mem := by
  unfold State.setCur; split <;> rfl
@[simp] theorem State.setCur_side (s : State) (u : Stream) : (s.setCur u).side = s.side := by
  unfold State.setCur; split <;> rfl
@[simp] theorem State.setCur_hostPois (s : State) (u : Stream) : (s.setCur u).hostPois = s.hostPois := by
  unfold State.setCur; split <;> rfl
@[simp] theorem State.setCur_dir (s : State) (u : Stream) : (s.setCur u).dir = s.dir := by
  unfold State.setCur; split <;> rfl
@[simp] theorem State.setCur_pagebuf (s : State) (u : Stream) : (s.setCur u).pagebuf = s.pagebuf := by
  unfold State.setCur; split <;> rfl
@[simp] theorem State.setCur_keys (s : State) (u : Stream) : (s.setCur u).keys = s.keys := by
  unfold State.setCur; split <;> rfl
@[simp] theorem State.setCur_keylo (s : State) (u : Stream) : (s.setCur u).keylo = s.keylo := by
  unfold State.setCur; split <;> rfl
@[simp] theorem State.setCur_asidtab (s : State) (u : Stream) : (s.setCur u).asidtab = s.asidtab := by
  unfold State.setCur; split <;> rfl
@[simp] theorem State.setCur_tlb (s : State) (u : Stream) : (s.setCur u).tlb = s.tlb := by
  unfold State.setCur; split <;> rfl
@[simp] theorem State.setCur_pwc (s : State) (u : Stream) : (s.setCur u).pwc = s.pwc := by
  unfold State.setCur; split <;> rfl
@[simp] theorem State.setCur_tlbis (s : State) (u : Stream) : (s.setCur u).tlbis = s.tlbis := by
  unfold State.setCur; split <;> rfl
@[simp] theorem State.setCur_peermap (s : State) (u : Stream) : (s.setCur u).peermap = s.peermap := by
  unfold State.setCur; split <;> rfl
@[simp] theorem State.setCur_flapp (s : State) (u : Stream) : (s.setCur u).flapp = s.flapp := by
  unfold State.setCur; split <;> rfl
@[simp] theorem State.setCur_guards (s : State) (u : Stream) : (s.setCur u).guards = s.guards := by
  unfold State.setCur; split <;> rfl
@[simp] theorem State.setCur_cc (s : State) (u : Stream) : (s.setCur u).cc = s.cc := by
  unfold State.setCur; split <;> rfl
@[simp] theorem State.setCur_cgroup (s : State) (u : Stream) : (s.setCur u).cgroup = s.cgroup := by
  unfold State.setCur; split <;> rfl
@[simp] theorem State.setCur_waiters (s : State) (u : Stream) : (s.setCur u).waiters = s.waiters := by
  unfold State.setCur; split <;> rfl
@[simp] theorem State.setCur_arrival (s : State) (u : Stream) : (s.setCur u).arrival = s.arrival := by
  unfold State.setCur; split <;> rfl
@[simp] theorem State.setCur_pflag (s : State) (u : Stream) : (s.setCur u).pflag = s.pflag := by
  unfold State.setCur; split <;> rfl
@[simp] theorem State.setCur_slotPois (s : State) (u : Stream) : (s.setCur u).slotPois = s.slotPois := by
  unfold State.setCur; split <;> rfl
@[simp] theorem State.setCur_ccUse (s : State) (u : Stream) : (s.setCur u).ccUse = s.ccUse := by
  unfold State.setCur; split <;> rfl
@[simp] theorem State.setCur_remote (s : State) (u : Stream) : (s.setCur u).remote = s.remote := by
  unfold State.setCur; split <;> rfl
@[simp] theorem State.setCur_near (s : State) (u : Stream) : (s.setCur u).near = s.near := by
  unfold State.setCur; split <;> rfl
@[simp] theorem State.setCur_tencfg (s : State) (u : Stream) : (s.setCur u).tencfg = s.tencfg := by
  unfold State.setCur; split <;> rfl
@[simp] theorem State.setCur_deficit (s : State) (u : Stream) : (s.setCur u).deficit = s.deficit := by
  unfold State.setCur; split <;> rfl
@[simp] theorem State.setCur_drr (s : State) (u : Stream) : (s.setCur u).drr = s.drr := by
  unfold State.setCur; split <;> rfl
@[simp] theorem State.setCur_entries (s : State) (u : Stream) : (s.setCur u).entries = s.entries := by
  unfold State.setCur; split <;> rfl
@[simp] theorem State.setCur_orders (s : State) (u : Stream) : (s.setCur u).orders = s.orders := by
  unfold State.setCur; split <;> rfl
@[simp] theorem State.setCur_cmds (s : State) (u : Stream) : (s.setCur u).cmds = s.cmds := by
  unfold State.setCur; split <;> rfl
@[simp] theorem State.setCur_nextCmd (s : State) (u : Stream) : (s.setCur u).nextCmd = s.nextCmd := by
  unfold State.setCur; split <;> rfl
@[simp] theorem State.setCur_gov (s : State) (u : Stream) : (s.setCur u).gov = s.gov := by
  unfold State.setCur; split <;> rfl
@[simp] theorem State.setCur_sbuf (s : State) (u : Stream) : (s.setCur u).sbuf = s.sbuf := by
  unfold State.setCur; split <;> rfl
@[simp] theorem State.setCur_dbg (s : State) (u : Stream) : (s.setCur u).dbg = s.dbg := by
  unfold State.setCur; split <;> rfl
@[simp] theorem State.setCur_cfg (s : State) (u : Stream) : (s.setCur u).cfg = s.cfg := by
  unfold State.setCur; split <;> rfl
@[simp] theorem State.setCur_ctlErr (s : State) (u : Stream) : (s.setCur u).ctlErr = s.ctlErr := by
  unfold State.setCur; split <;> rfl
@[simp] theorem State.setCur_stalledIn (s : State) (u : Stream) : (s.setCur u).stalledIn = s.stalledIn := by
  unfold State.setCur; split <;> rfl
@[simp] theorem State.setCur_hostReads (s : State) (u : Stream) : (s.setCur u).hostReads = s.hostReads := by
  unfold State.setCur; split <;> rfl
@[simp] theorem State.setCur_out (s : State) (u : Stream) : (s.setCur u).out = s.out := by
  unfold State.setCur; split <;> rfl

/-! ### setReg -/

@[simp] theorem State.setReg_cycle (s : State) (n : Nat) (v : Word) : (s.setReg n v).cycle = s.cycle := by
  unfold State.setReg State.setCur; split <;> rfl
@[simp] theorem State.setReg_agenda (s : State) (n : Nat) (v : Word) : (s.setReg n v).agenda = s.agenda := by
  unfold State.setReg State.setCur; split <;> rfl
@[simp] theorem State.setReg_onX (s : State) (n : Nat) (v : Word) : (s.setReg n v).onX = s.onX := by
  unfold State.setReg State.setCur; split <;> rfl
@[simp] theorem State.setReg_rest (s : State) (n : Nat) (v : Word) : (s.setReg n v).rest = s.rest := by
  unfold State.setReg State.setCur; split <;> rfl
@[simp] theorem State.setReg_modes (s : State) (n : Nat) (v : Word) : (s.setReg n v).modes = s.modes := by
  unfold State.setReg State.setCur; split <;> rfl
@[simp] theorem State.setReg_draws (s : State) (n : Nat) (v : Word) : (s.setReg n v).draws = s.draws := by
  unfold State.setReg State.setCur; split <;> rfl
@[simp] theorem State.setReg_line (s : State) (n : Nat) (v : Word) : (s.setReg n v).line = s.line := by
  unfold State.setReg State.setCur; split <;> rfl
@[simp] theorem State.setReg_turns (s : State) (n : Nat) (v : Word) : (s.setReg n v).turns = s.turns := by
  unfold State.setReg State.setCur; split <;> rfl
@[simp] theorem State.setReg_mem (s : State) (n : Nat) (v : Word) : (s.setReg n v).mem = s.mem := by
  unfold State.setReg State.setCur; split <;> rfl
@[simp] theorem State.setReg_side (s : State) (n : Nat) (v : Word) : (s.setReg n v).side = s.side := by
  unfold State.setReg State.setCur; split <;> rfl
@[simp] theorem State.setReg_hostPois (s : State) (n : Nat) (v : Word) : (s.setReg n v).hostPois = s.hostPois := by
  unfold State.setReg State.setCur; split <;> rfl
@[simp] theorem State.setReg_dir (s : State) (n : Nat) (v : Word) : (s.setReg n v).dir = s.dir := by
  unfold State.setReg State.setCur; split <;> rfl
@[simp] theorem State.setReg_pagebuf (s : State) (n : Nat) (v : Word) : (s.setReg n v).pagebuf = s.pagebuf := by
  unfold State.setReg State.setCur; split <;> rfl
@[simp] theorem State.setReg_keys (s : State) (n : Nat) (v : Word) : (s.setReg n v).keys = s.keys := by
  unfold State.setReg State.setCur; split <;> rfl
@[simp] theorem State.setReg_keylo (s : State) (n : Nat) (v : Word) : (s.setReg n v).keylo = s.keylo := by
  unfold State.setReg State.setCur; split <;> rfl
@[simp] theorem State.setReg_asidtab (s : State) (n : Nat) (v : Word) : (s.setReg n v).asidtab = s.asidtab := by
  unfold State.setReg State.setCur; split <;> rfl
@[simp] theorem State.setReg_tlb (s : State) (n : Nat) (v : Word) : (s.setReg n v).tlb = s.tlb := by
  unfold State.setReg State.setCur; split <;> rfl
@[simp] theorem State.setReg_pwc (s : State) (n : Nat) (v : Word) : (s.setReg n v).pwc = s.pwc := by
  unfold State.setReg State.setCur; split <;> rfl
@[simp] theorem State.setReg_tlbis (s : State) (n : Nat) (v : Word) : (s.setReg n v).tlbis = s.tlbis := by
  unfold State.setReg State.setCur; split <;> rfl
@[simp] theorem State.setReg_peermap (s : State) (n : Nat) (v : Word) : (s.setReg n v).peermap = s.peermap := by
  unfold State.setReg State.setCur; split <;> rfl
@[simp] theorem State.setReg_flapp (s : State) (n : Nat) (v : Word) : (s.setReg n v).flapp = s.flapp := by
  unfold State.setReg State.setCur; split <;> rfl
@[simp] theorem State.setReg_guards (s : State) (n : Nat) (v : Word) : (s.setReg n v).guards = s.guards := by
  unfold State.setReg State.setCur; split <;> rfl
@[simp] theorem State.setReg_cc (s : State) (n : Nat) (v : Word) : (s.setReg n v).cc = s.cc := by
  unfold State.setReg State.setCur; split <;> rfl
@[simp] theorem State.setReg_cgroup (s : State) (n : Nat) (v : Word) : (s.setReg n v).cgroup = s.cgroup := by
  unfold State.setReg State.setCur; split <;> rfl
@[simp] theorem State.setReg_waiters (s : State) (n : Nat) (v : Word) : (s.setReg n v).waiters = s.waiters := by
  unfold State.setReg State.setCur; split <;> rfl
@[simp] theorem State.setReg_arrival (s : State) (n : Nat) (v : Word) : (s.setReg n v).arrival = s.arrival := by
  unfold State.setReg State.setCur; split <;> rfl
@[simp] theorem State.setReg_pflag (s : State) (n : Nat) (v : Word) : (s.setReg n v).pflag = s.pflag := by
  unfold State.setReg State.setCur; split <;> rfl
@[simp] theorem State.setReg_slotPois (s : State) (n : Nat) (v : Word) : (s.setReg n v).slotPois = s.slotPois := by
  unfold State.setReg State.setCur; split <;> rfl
@[simp] theorem State.setReg_ccUse (s : State) (n : Nat) (v : Word) : (s.setReg n v).ccUse = s.ccUse := by
  unfold State.setReg State.setCur; split <;> rfl
@[simp] theorem State.setReg_remote (s : State) (n : Nat) (v : Word) : (s.setReg n v).remote = s.remote := by
  unfold State.setReg State.setCur; split <;> rfl
@[simp] theorem State.setReg_near (s : State) (n : Nat) (v : Word) : (s.setReg n v).near = s.near := by
  unfold State.setReg State.setCur; split <;> rfl
@[simp] theorem State.setReg_tencfg (s : State) (n : Nat) (v : Word) : (s.setReg n v).tencfg = s.tencfg := by
  unfold State.setReg State.setCur; split <;> rfl
@[simp] theorem State.setReg_deficit (s : State) (n : Nat) (v : Word) : (s.setReg n v).deficit = s.deficit := by
  unfold State.setReg State.setCur; split <;> rfl
@[simp] theorem State.setReg_drr (s : State) (n : Nat) (v : Word) : (s.setReg n v).drr = s.drr := by
  unfold State.setReg State.setCur; split <;> rfl
@[simp] theorem State.setReg_entries (s : State) (n : Nat) (v : Word) : (s.setReg n v).entries = s.entries := by
  unfold State.setReg State.setCur; split <;> rfl
@[simp] theorem State.setReg_orders (s : State) (n : Nat) (v : Word) : (s.setReg n v).orders = s.orders := by
  unfold State.setReg State.setCur; split <;> rfl
@[simp] theorem State.setReg_cmds (s : State) (n : Nat) (v : Word) : (s.setReg n v).cmds = s.cmds := by
  unfold State.setReg State.setCur; split <;> rfl
@[simp] theorem State.setReg_nextCmd (s : State) (n : Nat) (v : Word) : (s.setReg n v).nextCmd = s.nextCmd := by
  unfold State.setReg State.setCur; split <;> rfl
@[simp] theorem State.setReg_gov (s : State) (n : Nat) (v : Word) : (s.setReg n v).gov = s.gov := by
  unfold State.setReg State.setCur; split <;> rfl
@[simp] theorem State.setReg_sbuf (s : State) (n : Nat) (v : Word) : (s.setReg n v).sbuf = s.sbuf := by
  unfold State.setReg State.setCur; split <;> rfl
@[simp] theorem State.setReg_dbg (s : State) (n : Nat) (v : Word) : (s.setReg n v).dbg = s.dbg := by
  unfold State.setReg State.setCur; split <;> rfl
@[simp] theorem State.setReg_cfg (s : State) (n : Nat) (v : Word) : (s.setReg n v).cfg = s.cfg := by
  unfold State.setReg State.setCur; split <;> rfl
@[simp] theorem State.setReg_ctlErr (s : State) (n : Nat) (v : Word) : (s.setReg n v).ctlErr = s.ctlErr := by
  unfold State.setReg State.setCur; split <;> rfl
@[simp] theorem State.setReg_stalledIn (s : State) (n : Nat) (v : Word) : (s.setReg n v).stalledIn = s.stalledIn := by
  unfold State.setReg State.setCur; split <;> rfl
@[simp] theorem State.setReg_hostReads (s : State) (n : Nat) (v : Word) : (s.setReg n v).hostReads = s.hostReads := by
  unfold State.setReg State.setCur; split <;> rfl
@[simp] theorem State.setReg_out (s : State) (n : Nat) (v : Word) : (s.setReg n v).out = s.out := by
  unfold State.setReg State.setCur; split <;> rfl

/-! ### stall -/

@[simp] theorem State.stall_cycle (s : State) (st : StreamSt) (w : Wait) : (s.stall st w).cycle = s.cycle := by
  unfold State.stall State.setCur; split <;> rfl
@[simp] theorem State.stall_agenda (s : State) (st : StreamSt) (w : Wait) : (s.stall st w).agenda = s.agenda := by
  unfold State.stall State.setCur; split <;> rfl
@[simp] theorem State.stall_onX (s : State) (st : StreamSt) (w : Wait) : (s.stall st w).onX = s.onX := by
  unfold State.stall State.setCur; split <;> rfl
@[simp] theorem State.stall_rest (s : State) (st : StreamSt) (w : Wait) : (s.stall st w).rest = s.rest := by
  unfold State.stall State.setCur; split <;> rfl
@[simp] theorem State.stall_modes (s : State) (st : StreamSt) (w : Wait) : (s.stall st w).modes = s.modes := by
  unfold State.stall State.setCur; split <;> rfl
@[simp] theorem State.stall_draws (s : State) (st : StreamSt) (w : Wait) : (s.stall st w).draws = s.draws := by
  unfold State.stall State.setCur; split <;> rfl
@[simp] theorem State.stall_line (s : State) (st : StreamSt) (w : Wait) : (s.stall st w).line = s.line := by
  unfold State.stall State.setCur; split <;> rfl
@[simp] theorem State.stall_turns (s : State) (st : StreamSt) (w : Wait) : (s.stall st w).turns = s.turns := by
  unfold State.stall State.setCur; split <;> rfl
@[simp] theorem State.stall_mem (s : State) (st : StreamSt) (w : Wait) : (s.stall st w).mem = s.mem := by
  unfold State.stall State.setCur; split <;> rfl
@[simp] theorem State.stall_side (s : State) (st : StreamSt) (w : Wait) : (s.stall st w).side = s.side := by
  unfold State.stall State.setCur; split <;> rfl
@[simp] theorem State.stall_hostPois (s : State) (st : StreamSt) (w : Wait) : (s.stall st w).hostPois = s.hostPois := by
  unfold State.stall State.setCur; split <;> rfl
@[simp] theorem State.stall_dir (s : State) (st : StreamSt) (w : Wait) : (s.stall st w).dir = s.dir := by
  unfold State.stall State.setCur; split <;> rfl
@[simp] theorem State.stall_pagebuf (s : State) (st : StreamSt) (w : Wait) : (s.stall st w).pagebuf = s.pagebuf := by
  unfold State.stall State.setCur; split <;> rfl
@[simp] theorem State.stall_keys (s : State) (st : StreamSt) (w : Wait) : (s.stall st w).keys = s.keys := by
  unfold State.stall State.setCur; split <;> rfl
@[simp] theorem State.stall_keylo (s : State) (st : StreamSt) (w : Wait) : (s.stall st w).keylo = s.keylo := by
  unfold State.stall State.setCur; split <;> rfl
@[simp] theorem State.stall_asidtab (s : State) (st : StreamSt) (w : Wait) : (s.stall st w).asidtab = s.asidtab := by
  unfold State.stall State.setCur; split <;> rfl
@[simp] theorem State.stall_tlb (s : State) (st : StreamSt) (w : Wait) : (s.stall st w).tlb = s.tlb := by
  unfold State.stall State.setCur; split <;> rfl
@[simp] theorem State.stall_pwc (s : State) (st : StreamSt) (w : Wait) : (s.stall st w).pwc = s.pwc := by
  unfold State.stall State.setCur; split <;> rfl
@[simp] theorem State.stall_tlbis (s : State) (st : StreamSt) (w : Wait) : (s.stall st w).tlbis = s.tlbis := by
  unfold State.stall State.setCur; split <;> rfl
@[simp] theorem State.stall_peermap (s : State) (st : StreamSt) (w : Wait) : (s.stall st w).peermap = s.peermap := by
  unfold State.stall State.setCur; split <;> rfl
@[simp] theorem State.stall_flapp (s : State) (st : StreamSt) (w : Wait) : (s.stall st w).flapp = s.flapp := by
  unfold State.stall State.setCur; split <;> rfl
@[simp] theorem State.stall_guards (s : State) (st : StreamSt) (w : Wait) : (s.stall st w).guards = s.guards := by
  unfold State.stall State.setCur; split <;> rfl
@[simp] theorem State.stall_cc (s : State) (st : StreamSt) (w : Wait) : (s.stall st w).cc = s.cc := by
  unfold State.stall State.setCur; split <;> rfl
@[simp] theorem State.stall_cgroup (s : State) (st : StreamSt) (w : Wait) : (s.stall st w).cgroup = s.cgroup := by
  unfold State.stall State.setCur; split <;> rfl
@[simp] theorem State.stall_waiters (s : State) (st : StreamSt) (w : Wait) : (s.stall st w).waiters = s.waiters := by
  unfold State.stall State.setCur; split <;> rfl
@[simp] theorem State.stall_arrival (s : State) (st : StreamSt) (w : Wait) : (s.stall st w).arrival = s.arrival := by
  unfold State.stall State.setCur; split <;> rfl
@[simp] theorem State.stall_pflag (s : State) (st : StreamSt) (w : Wait) : (s.stall st w).pflag = s.pflag := by
  unfold State.stall State.setCur; split <;> rfl
@[simp] theorem State.stall_slotPois (s : State) (st : StreamSt) (w : Wait) : (s.stall st w).slotPois = s.slotPois := by
  unfold State.stall State.setCur; split <;> rfl
@[simp] theorem State.stall_ccUse (s : State) (st : StreamSt) (w : Wait) : (s.stall st w).ccUse = s.ccUse := by
  unfold State.stall State.setCur; split <;> rfl
@[simp] theorem State.stall_remote (s : State) (st : StreamSt) (w : Wait) : (s.stall st w).remote = s.remote := by
  unfold State.stall State.setCur; split <;> rfl
@[simp] theorem State.stall_near (s : State) (st : StreamSt) (w : Wait) : (s.stall st w).near = s.near := by
  unfold State.stall State.setCur; split <;> rfl
@[simp] theorem State.stall_tencfg (s : State) (st : StreamSt) (w : Wait) : (s.stall st w).tencfg = s.tencfg := by
  unfold State.stall State.setCur; split <;> rfl
@[simp] theorem State.stall_deficit (s : State) (st : StreamSt) (w : Wait) : (s.stall st w).deficit = s.deficit := by
  unfold State.stall State.setCur; split <;> rfl
@[simp] theorem State.stall_drr (s : State) (st : StreamSt) (w : Wait) : (s.stall st w).drr = s.drr := by
  unfold State.stall State.setCur; split <;> rfl
@[simp] theorem State.stall_entries (s : State) (st : StreamSt) (w : Wait) : (s.stall st w).entries = s.entries := by
  unfold State.stall State.setCur; split <;> rfl
@[simp] theorem State.stall_orders (s : State) (st : StreamSt) (w : Wait) : (s.stall st w).orders = s.orders := by
  unfold State.stall State.setCur; split <;> rfl
@[simp] theorem State.stall_cmds (s : State) (st : StreamSt) (w : Wait) : (s.stall st w).cmds = s.cmds := by
  unfold State.stall State.setCur; split <;> rfl
@[simp] theorem State.stall_nextCmd (s : State) (st : StreamSt) (w : Wait) : (s.stall st w).nextCmd = s.nextCmd := by
  unfold State.stall State.setCur; split <;> rfl
@[simp] theorem State.stall_gov (s : State) (st : StreamSt) (w : Wait) : (s.stall st w).gov = s.gov := by
  unfold State.stall State.setCur; split <;> rfl
@[simp] theorem State.stall_sbuf (s : State) (st : StreamSt) (w : Wait) : (s.stall st w).sbuf = s.sbuf := by
  unfold State.stall State.setCur; split <;> rfl
@[simp] theorem State.stall_dbg (s : State) (st : StreamSt) (w : Wait) : (s.stall st w).dbg = s.dbg := by
  unfold State.stall State.setCur; split <;> rfl
@[simp] theorem State.stall_cfg (s : State) (st : StreamSt) (w : Wait) : (s.stall st w).cfg = s.cfg := by
  unfold State.stall State.setCur; split <;> rfl
@[simp] theorem State.stall_ctlErr (s : State) (st : StreamSt) (w : Wait) : (s.stall st w).ctlErr = s.ctlErr := by
  unfold State.stall State.setCur; split <;> rfl
@[simp] theorem State.stall_stalledIn (s : State) (st : StreamSt) (w : Wait) : (s.stall st w).stalledIn = s.stalledIn := by
  unfold State.stall State.setCur; split <;> rfl
@[simp] theorem State.stall_hostReads (s : State) (st : StreamSt) (w : Wait) : (s.stall st w).hostReads = s.hostReads := by
  unfold State.stall State.setCur; split <;> rfl
@[simp] theorem State.stall_out (s : State) (st : StreamSt) (w : Wait) : (s.stall st w).out = s.out := by
  unfold State.stall State.setCur; split <;> rfl

/-! ### emit -/

@[simp] theorem State.emit_cycle (s : State) (m : OutMsg) : (s.emit m).cycle = s.cycle := rfl
@[simp] theorem State.emit_agenda (s : State) (m : OutMsg) : (s.emit m).agenda = s.agenda := rfl
@[simp] theorem State.emit_onX (s : State) (m : OutMsg) : (s.emit m).onX = s.onX := rfl
@[simp] theorem State.emit_h (s : State) (m : OutMsg) : (s.emit m).h = s.h := rfl
@[simp] theorem State.emit_rest (s : State) (m : OutMsg) : (s.emit m).rest = s.rest := rfl
@[simp] theorem State.emit_modes (s : State) (m : OutMsg) : (s.emit m).modes = s.modes := rfl
@[simp] theorem State.emit_draws (s : State) (m : OutMsg) : (s.emit m).draws = s.draws := rfl
@[simp] theorem State.emit_line (s : State) (m : OutMsg) : (s.emit m).line = s.line := rfl
@[simp] theorem State.emit_turns (s : State) (m : OutMsg) : (s.emit m).turns = s.turns := rfl
@[simp] theorem State.emit_mem (s : State) (m : OutMsg) : (s.emit m).mem = s.mem := rfl
@[simp] theorem State.emit_side (s : State) (m : OutMsg) : (s.emit m).side = s.side := rfl
@[simp] theorem State.emit_hostPois (s : State) (m : OutMsg) : (s.emit m).hostPois = s.hostPois := rfl
@[simp] theorem State.emit_dir (s : State) (m : OutMsg) : (s.emit m).dir = s.dir := rfl
@[simp] theorem State.emit_pagebuf (s : State) (m : OutMsg) : (s.emit m).pagebuf = s.pagebuf := rfl
@[simp] theorem State.emit_keys (s : State) (m : OutMsg) : (s.emit m).keys = s.keys := rfl
@[simp] theorem State.emit_keylo (s : State) (m : OutMsg) : (s.emit m).keylo = s.keylo := rfl
@[simp] theorem State.emit_asidtab (s : State) (m : OutMsg) : (s.emit m).asidtab = s.asidtab := rfl
@[simp] theorem State.emit_tlb (s : State) (m : OutMsg) : (s.emit m).tlb = s.tlb := rfl
@[simp] theorem State.emit_pwc (s : State) (m : OutMsg) : (s.emit m).pwc = s.pwc := rfl
@[simp] theorem State.emit_tlbis (s : State) (m : OutMsg) : (s.emit m).tlbis = s.tlbis := rfl
@[simp] theorem State.emit_peermap (s : State) (m : OutMsg) : (s.emit m).peermap = s.peermap := rfl
@[simp] theorem State.emit_flapp (s : State) (m : OutMsg) : (s.emit m).flapp = s.flapp := rfl
@[simp] theorem State.emit_guards (s : State) (m : OutMsg) : (s.emit m).guards = s.guards := rfl
@[simp] theorem State.emit_cc (s : State) (m : OutMsg) : (s.emit m).cc = s.cc := rfl
@[simp] theorem State.emit_cgroup (s : State) (m : OutMsg) : (s.emit m).cgroup = s.cgroup := rfl
@[simp] theorem State.emit_waiters (s : State) (m : OutMsg) : (s.emit m).waiters = s.waiters := rfl
@[simp] theorem State.emit_arrival (s : State) (m : OutMsg) : (s.emit m).arrival = s.arrival := rfl
@[simp] theorem State.emit_pflag (s : State) (m : OutMsg) : (s.emit m).pflag = s.pflag := rfl
@[simp] theorem State.emit_slotPois (s : State) (m : OutMsg) : (s.emit m).slotPois = s.slotPois := rfl
@[simp] theorem State.emit_ccUse (s : State) (m : OutMsg) : (s.emit m).ccUse = s.ccUse := rfl
@[simp] theorem State.emit_remote (s : State) (m : OutMsg) : (s.emit m).remote = s.remote := rfl
@[simp] theorem State.emit_near (s : State) (m : OutMsg) : (s.emit m).near = s.near := rfl
@[simp] theorem State.emit_tencfg (s : State) (m : OutMsg) : (s.emit m).tencfg = s.tencfg := rfl
@[simp] theorem State.emit_deficit (s : State) (m : OutMsg) : (s.emit m).deficit = s.deficit := rfl
@[simp] theorem State.emit_drr (s : State) (m : OutMsg) : (s.emit m).drr = s.drr := rfl
@[simp] theorem State.emit_entries (s : State) (m : OutMsg) : (s.emit m).entries = s.entries := rfl
@[simp] theorem State.emit_orders (s : State) (m : OutMsg) : (s.emit m).orders = s.orders := rfl
@[simp] theorem State.emit_cmds (s : State) (m : OutMsg) : (s.emit m).cmds = s.cmds := rfl
@[simp] theorem State.emit_nextCmd (s : State) (m : OutMsg) : (s.emit m).nextCmd = s.nextCmd := rfl
@[simp] theorem State.emit_gov (s : State) (m : OutMsg) : (s.emit m).gov = s.gov := rfl
@[simp] theorem State.emit_sbuf (s : State) (m : OutMsg) : (s.emit m).sbuf = s.sbuf := rfl
@[simp] theorem State.emit_dbg (s : State) (m : OutMsg) : (s.emit m).dbg = s.dbg := rfl
@[simp] theorem State.emit_cfg (s : State) (m : OutMsg) : (s.emit m).cfg = s.cfg := rfl
@[simp] theorem State.emit_ctlErr (s : State) (m : OutMsg) : (s.emit m).ctlErr = s.ctlErr := rfl
@[simp] theorem State.emit_stalledIn (s : State) (m : OutMsg) : (s.emit m).stalledIn = s.stalledIn := rfl
@[simp] theorem State.emit_hostReads (s : State) (m : OutMsg) : (s.emit m).hostReads = s.hostReads := rfl

/-! ### later -/

@[simp] theorem State.later_cycle (s : State) (is : List Instr) : (s.later is).cycle = s.cycle := rfl
@[simp] theorem State.later_onX (s : State) (is : List Instr) : (s.later is).onX = s.onX := rfl
@[simp] theorem State.later_h (s : State) (is : List Instr) : (s.later is).h = s.h := rfl
@[simp] theorem State.later_rest (s : State) (is : List Instr) : (s.later is).rest = s.rest := rfl
@[simp] theorem State.later_modes (s : State) (is : List Instr) : (s.later is).modes = s.modes := rfl
@[simp] theorem State.later_draws (s : State) (is : List Instr) : (s.later is).draws = s.draws := rfl
@[simp] theorem State.later_line (s : State) (is : List Instr) : (s.later is).line = s.line := rfl
@[simp] theorem State.later_turns (s : State) (is : List Instr) : (s.later is).turns = s.turns := rfl
@[simp] theorem State.later_mem (s : State) (is : List Instr) : (s.later is).mem = s.mem := rfl
@[simp] theorem State.later_side (s : State) (is : List Instr) : (s.later is).side = s.side := rfl
@[simp] theorem State.later_hostPois (s : State) (is : List Instr) : (s.later is).hostPois = s.hostPois := rfl
@[simp] theorem State.later_dir (s : State) (is : List Instr) : (s.later is).dir = s.dir := rfl
@[simp] theorem State.later_pagebuf (s : State) (is : List Instr) : (s.later is).pagebuf = s.pagebuf := rfl
@[simp] theorem State.later_keys (s : State) (is : List Instr) : (s.later is).keys = s.keys := rfl
@[simp] theorem State.later_keylo (s : State) (is : List Instr) : (s.later is).keylo = s.keylo := rfl
@[simp] theorem State.later_asidtab (s : State) (is : List Instr) : (s.later is).asidtab = s.asidtab := rfl
@[simp] theorem State.later_tlb (s : State) (is : List Instr) : (s.later is).tlb = s.tlb := rfl
@[simp] theorem State.later_pwc (s : State) (is : List Instr) : (s.later is).pwc = s.pwc := rfl
@[simp] theorem State.later_tlbis (s : State) (is : List Instr) : (s.later is).tlbis = s.tlbis := rfl
@[simp] theorem State.later_peermap (s : State) (is : List Instr) : (s.later is).peermap = s.peermap := rfl
@[simp] theorem State.later_flapp (s : State) (is : List Instr) : (s.later is).flapp = s.flapp := rfl
@[simp] theorem State.later_guards (s : State) (is : List Instr) : (s.later is).guards = s.guards := rfl
@[simp] theorem State.later_cc (s : State) (is : List Instr) : (s.later is).cc = s.cc := rfl
@[simp] theorem State.later_cgroup (s : State) (is : List Instr) : (s.later is).cgroup = s.cgroup := rfl
@[simp] theorem State.later_waiters (s : State) (is : List Instr) : (s.later is).waiters = s.waiters := rfl
@[simp] theorem State.later_arrival (s : State) (is : List Instr) : (s.later is).arrival = s.arrival := rfl
@[simp] theorem State.later_pflag (s : State) (is : List Instr) : (s.later is).pflag = s.pflag := rfl
@[simp] theorem State.later_slotPois (s : State) (is : List Instr) : (s.later is).slotPois = s.slotPois := rfl
@[simp] theorem State.later_ccUse (s : State) (is : List Instr) : (s.later is).ccUse = s.ccUse := rfl
@[simp] theorem State.later_remote (s : State) (is : List Instr) : (s.later is).remote = s.remote := rfl
@[simp] theorem State.later_near (s : State) (is : List Instr) : (s.later is).near = s.near := rfl
@[simp] theorem State.later_tencfg (s : State) (is : List Instr) : (s.later is).tencfg = s.tencfg := rfl
@[simp] theorem State.later_deficit (s : State) (is : List Instr) : (s.later is).deficit = s.deficit := rfl
@[simp] theorem State.later_drr (s : State) (is : List Instr) : (s.later is).drr = s.drr := rfl
@[simp] theorem State.later_entries (s : State) (is : List Instr) : (s.later is).entries = s.entries := rfl
@[simp] theorem State.later_orders (s : State) (is : List Instr) : (s.later is).orders = s.orders := rfl
@[simp] theorem State.later_cmds (s : State) (is : List Instr) : (s.later is).cmds = s.cmds := rfl
@[simp] theorem State.later_nextCmd (s : State) (is : List Instr) : (s.later is).nextCmd = s.nextCmd := rfl
@[simp] theorem State.later_gov (s : State) (is : List Instr) : (s.later is).gov = s.gov := rfl
@[simp] theorem State.later_sbuf (s : State) (is : List Instr) : (s.later is).sbuf = s.sbuf := rfl
@[simp] theorem State.later_dbg (s : State) (is : List Instr) : (s.later is).dbg = s.dbg := rfl
@[simp] theorem State.later_cfg (s : State) (is : List Instr) : (s.later is).cfg = s.cfg := rfl
@[simp] theorem State.later_ctlErr (s : State) (is : List Instr) : (s.later is).ctlErr = s.ctlErr := rfl
@[simp] theorem State.later_stalledIn (s : State) (is : List Instr) : (s.later is).stalledIn = s.stalledIn := rfl
@[simp] theorem State.later_hostReads (s : State) (is : List Instr) : (s.later is).hostReads = s.hostReads := rfl
@[simp] theorem State.later_out (s : State) (is : List Instr) : (s.later is).out = s.out := rfl

/-! ### setEntry -/

@[simp] theorem State.setEntry_cycle (s : State) (i : Nat) (e : LEntry) : (s.setEntry i e).cycle = s.cycle := rfl
@[simp] theorem State.setEntry_agenda (s : State) (i : Nat) (e : LEntry) : (s.setEntry i e).agenda = s.agenda := rfl
@[simp] theorem State.setEntry_onX (s : State) (i : Nat) (e : LEntry) : (s.setEntry i e).onX = s.onX := rfl
@[simp] theorem State.setEntry_h (s : State) (i : Nat) (e : LEntry) : (s.setEntry i e).h = s.h := rfl
@[simp] theorem State.setEntry_rest (s : State) (i : Nat) (e : LEntry) : (s.setEntry i e).rest = s.rest := rfl
@[simp] theorem State.setEntry_modes (s : State) (i : Nat) (e : LEntry) : (s.setEntry i e).modes = s.modes := rfl
@[simp] theorem State.setEntry_draws (s : State) (i : Nat) (e : LEntry) : (s.setEntry i e).draws = s.draws := rfl
@[simp] theorem State.setEntry_line (s : State) (i : Nat) (e : LEntry) : (s.setEntry i e).line = s.line := rfl
@[simp] theorem State.setEntry_turns (s : State) (i : Nat) (e : LEntry) : (s.setEntry i e).turns = s.turns := rfl
@[simp] theorem State.setEntry_mem (s : State) (i : Nat) (e : LEntry) : (s.setEntry i e).mem = s.mem := rfl
@[simp] theorem State.setEntry_side (s : State) (i : Nat) (e : LEntry) : (s.setEntry i e).side = s.side := rfl
@[simp] theorem State.setEntry_hostPois (s : State) (i : Nat) (e : LEntry) : (s.setEntry i e).hostPois = s.hostPois := rfl
@[simp] theorem State.setEntry_dir (s : State) (i : Nat) (e : LEntry) : (s.setEntry i e).dir = s.dir := rfl
@[simp] theorem State.setEntry_pagebuf (s : State) (i : Nat) (e : LEntry) : (s.setEntry i e).pagebuf = s.pagebuf := rfl
@[simp] theorem State.setEntry_keys (s : State) (i : Nat) (e : LEntry) : (s.setEntry i e).keys = s.keys := rfl
@[simp] theorem State.setEntry_keylo (s : State) (i : Nat) (e : LEntry) : (s.setEntry i e).keylo = s.keylo := rfl
@[simp] theorem State.setEntry_asidtab (s : State) (i : Nat) (e : LEntry) : (s.setEntry i e).asidtab = s.asidtab := rfl
@[simp] theorem State.setEntry_tlb (s : State) (i : Nat) (e : LEntry) : (s.setEntry i e).tlb = s.tlb := rfl
@[simp] theorem State.setEntry_pwc (s : State) (i : Nat) (e : LEntry) : (s.setEntry i e).pwc = s.pwc := rfl
@[simp] theorem State.setEntry_tlbis (s : State) (i : Nat) (e : LEntry) : (s.setEntry i e).tlbis = s.tlbis := rfl
@[simp] theorem State.setEntry_peermap (s : State) (i : Nat) (e : LEntry) : (s.setEntry i e).peermap = s.peermap := rfl
@[simp] theorem State.setEntry_flapp (s : State) (i : Nat) (e : LEntry) : (s.setEntry i e).flapp = s.flapp := rfl
@[simp] theorem State.setEntry_guards (s : State) (i : Nat) (e : LEntry) : (s.setEntry i e).guards = s.guards := rfl
@[simp] theorem State.setEntry_cc (s : State) (i : Nat) (e : LEntry) : (s.setEntry i e).cc = s.cc := rfl
@[simp] theorem State.setEntry_cgroup (s : State) (i : Nat) (e : LEntry) : (s.setEntry i e).cgroup = s.cgroup := rfl
@[simp] theorem State.setEntry_waiters (s : State) (i : Nat) (e : LEntry) : (s.setEntry i e).waiters = s.waiters := rfl
@[simp] theorem State.setEntry_arrival (s : State) (i : Nat) (e : LEntry) : (s.setEntry i e).arrival = s.arrival := rfl
@[simp] theorem State.setEntry_pflag (s : State) (i : Nat) (e : LEntry) : (s.setEntry i e).pflag = s.pflag := rfl
@[simp] theorem State.setEntry_slotPois (s : State) (i : Nat) (e : LEntry) : (s.setEntry i e).slotPois = s.slotPois := rfl
@[simp] theorem State.setEntry_ccUse (s : State) (i : Nat) (e : LEntry) : (s.setEntry i e).ccUse = s.ccUse := rfl
@[simp] theorem State.setEntry_remote (s : State) (i : Nat) (e : LEntry) : (s.setEntry i e).remote = s.remote := rfl
@[simp] theorem State.setEntry_near (s : State) (i : Nat) (e : LEntry) : (s.setEntry i e).near = s.near := rfl
@[simp] theorem State.setEntry_tencfg (s : State) (i : Nat) (e : LEntry) : (s.setEntry i e).tencfg = s.tencfg := rfl
@[simp] theorem State.setEntry_deficit (s : State) (i : Nat) (e : LEntry) : (s.setEntry i e).deficit = s.deficit := rfl
@[simp] theorem State.setEntry_drr (s : State) (i : Nat) (e : LEntry) : (s.setEntry i e).drr = s.drr := rfl
@[simp] theorem State.setEntry_orders (s : State) (i : Nat) (e : LEntry) : (s.setEntry i e).orders = s.orders := rfl
@[simp] theorem State.setEntry_cmds (s : State) (i : Nat) (e : LEntry) : (s.setEntry i e).cmds = s.cmds := rfl
@[simp] theorem State.setEntry_nextCmd (s : State) (i : Nat) (e : LEntry) : (s.setEntry i e).nextCmd = s.nextCmd := rfl
@[simp] theorem State.setEntry_gov (s : State) (i : Nat) (e : LEntry) : (s.setEntry i e).gov = s.gov := rfl
@[simp] theorem State.setEntry_sbuf (s : State) (i : Nat) (e : LEntry) : (s.setEntry i e).sbuf = s.sbuf := rfl
@[simp] theorem State.setEntry_dbg (s : State) (i : Nat) (e : LEntry) : (s.setEntry i e).dbg = s.dbg := rfl
@[simp] theorem State.setEntry_cfg (s : State) (i : Nat) (e : LEntry) : (s.setEntry i e).cfg = s.cfg := rfl
@[simp] theorem State.setEntry_ctlErr (s : State) (i : Nat) (e : LEntry) : (s.setEntry i e).ctlErr = s.ctlErr := rfl
@[simp] theorem State.setEntry_stalledIn (s : State) (i : Nat) (e : LEntry) : (s.setEntry i e).stalledIn = s.stalledIn := rfl
@[simp] theorem State.setEntry_hostReads (s : State) (i : Nat) (e : LEntry) : (s.setEntry i e).hostReads = s.hostReads := rfl
@[simp] theorem State.setEntry_out (s : State) (i : Nat) (e : LEntry) : (s.setEntry i e).out = s.out := rfl

/-! ### updHart -/

@[simp] theorem State.updHart_cycle (s : State) (id : HartId) (f : Hart → Hart) : (s.updHart id f).cycle = s.cycle := by
  unfold State.updHart; split <;> rfl
@[simp] theorem State.updHart_agenda (s : State) (id : HartId) (f : Hart → Hart) : (s.updHart id f).agenda = s.agenda := by
  unfold State.updHart; split <;> rfl
@[simp] theorem State.updHart_onX (s : State) (id : HartId) (f : Hart → Hart) : (s.updHart id f).onX = s.onX := by
  unfold State.updHart; split <;> rfl
@[simp] theorem State.updHart_modes (s : State) (id : HartId) (f : Hart → Hart) : (s.updHart id f).modes = s.modes := by
  unfold State.updHart; split <;> rfl
@[simp] theorem State.updHart_draws (s : State) (id : HartId) (f : Hart → Hart) : (s.updHart id f).draws = s.draws := by
  unfold State.updHart; split <;> rfl
@[simp] theorem State.updHart_line (s : State) (id : HartId) (f : Hart → Hart) : (s.updHart id f).line = s.line := by
  unfold State.updHart; split <;> rfl
@[simp] theorem State.updHart_turns (s : State) (id : HartId) (f : Hart → Hart) : (s.updHart id f).turns = s.turns := by
  unfold State.updHart; split <;> rfl
@[simp] theorem State.updHart_mem (s : State) (id : HartId) (f : Hart → Hart) : (s.updHart id f).mem = s.mem := by
  unfold State.updHart; split <;> rfl
@[simp] theorem State.updHart_side (s : State) (id : HartId) (f : Hart → Hart) : (s.updHart id f).side = s.side := by
  unfold State.updHart; split <;> rfl
@[simp] theorem State.updHart_hostPois (s : State) (id : HartId) (f : Hart → Hart) : (s.updHart id f).hostPois = s.hostPois := by
  unfold State.updHart; split <;> rfl
@[simp] theorem State.updHart_dir (s : State) (id : HartId) (f : Hart → Hart) : (s.updHart id f).dir = s.dir := by
  unfold State.updHart; split <;> rfl
@[simp] theorem State.updHart_pagebuf (s : State) (id : HartId) (f : Hart → Hart) : (s.updHart id f).pagebuf = s.pagebuf := by
  unfold State.updHart; split <;> rfl
@[simp] theorem State.updHart_keys (s : State) (id : HartId) (f : Hart → Hart) : (s.updHart id f).keys = s.keys := by
  unfold State.updHart; split <;> rfl
@[simp] theorem State.updHart_keylo (s : State) (id : HartId) (f : Hart → Hart) : (s.updHart id f).keylo = s.keylo := by
  unfold State.updHart; split <;> rfl
@[simp] theorem State.updHart_asidtab (s : State) (id : HartId) (f : Hart → Hart) : (s.updHart id f).asidtab = s.asidtab := by
  unfold State.updHart; split <;> rfl
@[simp] theorem State.updHart_tlb (s : State) (id : HartId) (f : Hart → Hart) : (s.updHart id f).tlb = s.tlb := by
  unfold State.updHart; split <;> rfl
@[simp] theorem State.updHart_pwc (s : State) (id : HartId) (f : Hart → Hart) : (s.updHart id f).pwc = s.pwc := by
  unfold State.updHart; split <;> rfl
@[simp] theorem State.updHart_tlbis (s : State) (id : HartId) (f : Hart → Hart) : (s.updHart id f).tlbis = s.tlbis := by
  unfold State.updHart; split <;> rfl
@[simp] theorem State.updHart_peermap (s : State) (id : HartId) (f : Hart → Hart) : (s.updHart id f).peermap = s.peermap := by
  unfold State.updHart; split <;> rfl
@[simp] theorem State.updHart_flapp (s : State) (id : HartId) (f : Hart → Hart) : (s.updHart id f).flapp = s.flapp := by
  unfold State.updHart; split <;> rfl
@[simp] theorem State.updHart_guards (s : State) (id : HartId) (f : Hart → Hart) : (s.updHart id f).guards = s.guards := by
  unfold State.updHart; split <;> rfl
@[simp] theorem State.updHart_cc (s : State) (id : HartId) (f : Hart → Hart) : (s.updHart id f).cc = s.cc := by
  unfold State.updHart; split <;> rfl
@[simp] theorem State.updHart_cgroup (s : State) (id : HartId) (f : Hart → Hart) : (s.updHart id f).cgroup = s.cgroup := by
  unfold State.updHart; split <;> rfl
@[simp] theorem State.updHart_waiters (s : State) (id : HartId) (f : Hart → Hart) : (s.updHart id f).waiters = s.waiters := by
  unfold State.updHart; split <;> rfl
@[simp] theorem State.updHart_arrival (s : State) (id : HartId) (f : Hart → Hart) : (s.updHart id f).arrival = s.arrival := by
  unfold State.updHart; split <;> rfl
@[simp] theorem State.updHart_pflag (s : State) (id : HartId) (f : Hart → Hart) : (s.updHart id f).pflag = s.pflag := by
  unfold State.updHart; split <;> rfl
@[simp] theorem State.updHart_slotPois (s : State) (id : HartId) (f : Hart → Hart) : (s.updHart id f).slotPois = s.slotPois := by
  unfold State.updHart; split <;> rfl
@[simp] theorem State.updHart_ccUse (s : State) (id : HartId) (f : Hart → Hart) : (s.updHart id f).ccUse = s.ccUse := by
  unfold State.updHart; split <;> rfl
@[simp] theorem State.updHart_remote (s : State) (id : HartId) (f : Hart → Hart) : (s.updHart id f).remote = s.remote := by
  unfold State.updHart; split <;> rfl
@[simp] theorem State.updHart_near (s : State) (id : HartId) (f : Hart → Hart) : (s.updHart id f).near = s.near := by
  unfold State.updHart; split <;> rfl
@[simp] theorem State.updHart_tencfg (s : State) (id : HartId) (f : Hart → Hart) : (s.updHart id f).tencfg = s.tencfg := by
  unfold State.updHart; split <;> rfl
@[simp] theorem State.updHart_deficit (s : State) (id : HartId) (f : Hart → Hart) : (s.updHart id f).deficit = s.deficit := by
  unfold State.updHart; split <;> rfl
@[simp] theorem State.updHart_drr (s : State) (id : HartId) (f : Hart → Hart) : (s.updHart id f).drr = s.drr := by
  unfold State.updHart; split <;> rfl
@[simp] theorem State.updHart_entries (s : State) (id : HartId) (f : Hart → Hart) : (s.updHart id f).entries = s.entries := by
  unfold State.updHart; split <;> rfl
@[simp] theorem State.updHart_orders (s : State) (id : HartId) (f : Hart → Hart) : (s.updHart id f).orders = s.orders := by
  unfold State.updHart; split <;> rfl
@[simp] theorem State.updHart_cmds (s : State) (id : HartId) (f : Hart → Hart) : (s.updHart id f).cmds = s.cmds := by
  unfold State.updHart; split <;> rfl
@[simp] theorem State.updHart_nextCmd (s : State) (id : HartId) (f : Hart → Hart) : (s.updHart id f).nextCmd = s.nextCmd := by
  unfold State.updHart; split <;> rfl
@[simp] theorem State.updHart_gov (s : State) (id : HartId) (f : Hart → Hart) : (s.updHart id f).gov = s.gov := by
  unfold State.updHart; split <;> rfl
@[simp] theorem State.updHart_sbuf (s : State) (id : HartId) (f : Hart → Hart) : (s.updHart id f).sbuf = s.sbuf := by
  unfold State.updHart; split <;> rfl
@[simp] theorem State.updHart_dbg (s : State) (id : HartId) (f : Hart → Hart) : (s.updHart id f).dbg = s.dbg := by
  unfold State.updHart; split <;> rfl
@[simp] theorem State.updHart_cfg (s : State) (id : HartId) (f : Hart → Hart) : (s.updHart id f).cfg = s.cfg := by
  unfold State.updHart; split <;> rfl
@[simp] theorem State.updHart_ctlErr (s : State) (id : HartId) (f : Hart → Hart) : (s.updHart id f).ctlErr = s.ctlErr := by
  unfold State.updHart; split <;> rfl
@[simp] theorem State.updHart_stalledIn (s : State) (id : HartId) (f : Hart → Hart) : (s.updHart id f).stalledIn = s.stalledIn := by
  unfold State.updHart; split <;> rfl
@[simp] theorem State.updHart_hostReads (s : State) (id : HartId) (f : Hart → Hart) : (s.updHart id f).hostReads = s.hostReads := by
  unfold State.updHart; split <;> rfl
@[simp] theorem State.updHart_out (s : State) (id : HartId) (f : Hart → Hart) : (s.updHart id f).out = s.out := by
  unfold State.updHart; split <;> rfl

/-! ### updGov -/

@[simp] theorem State.updGov_cycle (s : State) (i : Nat) (f : Gov → Gov) : (s.updGov i f).cycle = s.cycle := rfl
@[simp] theorem State.updGov_agenda (s : State) (i : Nat) (f : Gov → Gov) : (s.updGov i f).agenda = s.agenda := rfl
@[simp] theorem State.updGov_onX (s : State) (i : Nat) (f : Gov → Gov) : (s.updGov i f).onX = s.onX := rfl
@[simp] theorem State.updGov_h (s : State) (i : Nat) (f : Gov → Gov) : (s.updGov i f).h = s.h := rfl
@[simp] theorem State.updGov_rest (s : State) (i : Nat) (f : Gov → Gov) : (s.updGov i f).rest = s.rest := rfl
@[simp] theorem State.updGov_modes (s : State) (i : Nat) (f : Gov → Gov) : (s.updGov i f).modes = s.modes := rfl
@[simp] theorem State.updGov_draws (s : State) (i : Nat) (f : Gov → Gov) : (s.updGov i f).draws = s.draws := rfl
@[simp] theorem State.updGov_line (s : State) (i : Nat) (f : Gov → Gov) : (s.updGov i f).line = s.line := rfl
@[simp] theorem State.updGov_turns (s : State) (i : Nat) (f : Gov → Gov) : (s.updGov i f).turns = s.turns := rfl
@[simp] theorem State.updGov_mem (s : State) (i : Nat) (f : Gov → Gov) : (s.updGov i f).mem = s.mem := rfl
@[simp] theorem State.updGov_side (s : State) (i : Nat) (f : Gov → Gov) : (s.updGov i f).side = s.side := rfl
@[simp] theorem State.updGov_hostPois (s : State) (i : Nat) (f : Gov → Gov) : (s.updGov i f).hostPois = s.hostPois := rfl
@[simp] theorem State.updGov_dir (s : State) (i : Nat) (f : Gov → Gov) : (s.updGov i f).dir = s.dir := rfl
@[simp] theorem State.updGov_pagebuf (s : State) (i : Nat) (f : Gov → Gov) : (s.updGov i f).pagebuf = s.pagebuf := rfl
@[simp] theorem State.updGov_keys (s : State) (i : Nat) (f : Gov → Gov) : (s.updGov i f).keys = s.keys := rfl
@[simp] theorem State.updGov_keylo (s : State) (i : Nat) (f : Gov → Gov) : (s.updGov i f).keylo = s.keylo := rfl
@[simp] theorem State.updGov_asidtab (s : State) (i : Nat) (f : Gov → Gov) : (s.updGov i f).asidtab = s.asidtab := rfl
@[simp] theorem State.updGov_tlb (s : State) (i : Nat) (f : Gov → Gov) : (s.updGov i f).tlb = s.tlb := rfl
@[simp] theorem State.updGov_pwc (s : State) (i : Nat) (f : Gov → Gov) : (s.updGov i f).pwc = s.pwc := rfl
@[simp] theorem State.updGov_tlbis (s : State) (i : Nat) (f : Gov → Gov) : (s.updGov i f).tlbis = s.tlbis := rfl
@[simp] theorem State.updGov_peermap (s : State) (i : Nat) (f : Gov → Gov) : (s.updGov i f).peermap = s.peermap := rfl
@[simp] theorem State.updGov_flapp (s : State) (i : Nat) (f : Gov → Gov) : (s.updGov i f).flapp = s.flapp := rfl
@[simp] theorem State.updGov_guards (s : State) (i : Nat) (f : Gov → Gov) : (s.updGov i f).guards = s.guards := rfl
@[simp] theorem State.updGov_cc (s : State) (i : Nat) (f : Gov → Gov) : (s.updGov i f).cc = s.cc := rfl
@[simp] theorem State.updGov_cgroup (s : State) (i : Nat) (f : Gov → Gov) : (s.updGov i f).cgroup = s.cgroup := rfl
@[simp] theorem State.updGov_waiters (s : State) (i : Nat) (f : Gov → Gov) : (s.updGov i f).waiters = s.waiters := rfl
@[simp] theorem State.updGov_arrival (s : State) (i : Nat) (f : Gov → Gov) : (s.updGov i f).arrival = s.arrival := rfl
@[simp] theorem State.updGov_pflag (s : State) (i : Nat) (f : Gov → Gov) : (s.updGov i f).pflag = s.pflag := rfl
@[simp] theorem State.updGov_slotPois (s : State) (i : Nat) (f : Gov → Gov) : (s.updGov i f).slotPois = s.slotPois := rfl
@[simp] theorem State.updGov_ccUse (s : State) (i : Nat) (f : Gov → Gov) : (s.updGov i f).ccUse = s.ccUse := rfl
@[simp] theorem State.updGov_remote (s : State) (i : Nat) (f : Gov → Gov) : (s.updGov i f).remote = s.remote := rfl
@[simp] theorem State.updGov_near (s : State) (i : Nat) (f : Gov → Gov) : (s.updGov i f).near = s.near := rfl
@[simp] theorem State.updGov_tencfg (s : State) (i : Nat) (f : Gov → Gov) : (s.updGov i f).tencfg = s.tencfg := rfl
@[simp] theorem State.updGov_deficit (s : State) (i : Nat) (f : Gov → Gov) : (s.updGov i f).deficit = s.deficit := rfl
@[simp] theorem State.updGov_drr (s : State) (i : Nat) (f : Gov → Gov) : (s.updGov i f).drr = s.drr := rfl
@[simp] theorem State.updGov_entries (s : State) (i : Nat) (f : Gov → Gov) : (s.updGov i f).entries = s.entries := rfl
@[simp] theorem State.updGov_orders (s : State) (i : Nat) (f : Gov → Gov) : (s.updGov i f).orders = s.orders := rfl
@[simp] theorem State.updGov_cmds (s : State) (i : Nat) (f : Gov → Gov) : (s.updGov i f).cmds = s.cmds := rfl
@[simp] theorem State.updGov_nextCmd (s : State) (i : Nat) (f : Gov → Gov) : (s.updGov i f).nextCmd = s.nextCmd := rfl
@[simp] theorem State.updGov_sbuf (s : State) (i : Nat) (f : Gov → Gov) : (s.updGov i f).sbuf = s.sbuf := rfl
@[simp] theorem State.updGov_dbg (s : State) (i : Nat) (f : Gov → Gov) : (s.updGov i f).dbg = s.dbg := rfl
@[simp] theorem State.updGov_cfg (s : State) (i : Nat) (f : Gov → Gov) : (s.updGov i f).cfg = s.cfg := rfl
@[simp] theorem State.updGov_ctlErr (s : State) (i : Nat) (f : Gov → Gov) : (s.updGov i f).ctlErr = s.ctlErr := rfl
@[simp] theorem State.updGov_stalledIn (s : State) (i : Nat) (f : Gov → Gov) : (s.updGov i f).stalledIn = s.stalledIn := rfl
@[simp] theorem State.updGov_hostReads (s : State) (i : Nat) (f : Gov → Gov) : (s.updGov i f).hostReads = s.hostReads := rfl
@[simp] theorem State.updGov_out (s : State) (i : Nat) (f : Gov → Gov) : (s.updGov i f).out = s.out := rfl

/-! ### updBuf -/

@[simp] theorem State.updBuf_cycle (s : State) (i : Nat) (f : SBuf → SBuf) : (s.updBuf i f).cycle = s.cycle := rfl
@[simp] theorem State.updBuf_agenda (s : State) (i : Nat) (f : SBuf → SBuf) : (s.updBuf i f).agenda = s.agenda := rfl
@[simp] theorem State.updBuf_onX (s : State) (i : Nat) (f : SBuf → SBuf) : (s.updBuf i f).onX = s.onX := rfl
@[simp] theorem State.updBuf_h (s : State) (i : Nat) (f : SBuf → SBuf) : (s.updBuf i f).h = s.h := rfl
@[simp] theorem State.updBuf_rest (s : State) (i : Nat) (f : SBuf → SBuf) : (s.updBuf i f).rest = s.rest := rfl
@[simp] theorem State.updBuf_modes (s : State) (i : Nat) (f : SBuf → SBuf) : (s.updBuf i f).modes = s.modes := rfl
@[simp] theorem State.updBuf_draws (s : State) (i : Nat) (f : SBuf → SBuf) : (s.updBuf i f).draws = s.draws := rfl
@[simp] theorem State.updBuf_line (s : State) (i : Nat) (f : SBuf → SBuf) : (s.updBuf i f).line = s.line := rfl
@[simp] theorem State.updBuf_turns (s : State) (i : Nat) (f : SBuf → SBuf) : (s.updBuf i f).turns = s.turns := rfl
@[simp] theorem State.updBuf_mem (s : State) (i : Nat) (f : SBuf → SBuf) : (s.updBuf i f).mem = s.mem := rfl
@[simp] theorem State.updBuf_side (s : State) (i : Nat) (f : SBuf → SBuf) : (s.updBuf i f).side = s.side := rfl
@[simp] theorem State.updBuf_hostPois (s : State) (i : Nat) (f : SBuf → SBuf) : (s.updBuf i f).hostPois = s.hostPois := rfl
@[simp] theorem State.updBuf_dir (s : State) (i : Nat) (f : SBuf → SBuf) : (s.updBuf i f).dir = s.dir := rfl
@[simp] theorem State.updBuf_pagebuf (s : State) (i : Nat) (f : SBuf → SBuf) : (s.updBuf i f).pagebuf = s.pagebuf := rfl
@[simp] theorem State.updBuf_keys (s : State) (i : Nat) (f : SBuf → SBuf) : (s.updBuf i f).keys = s.keys := rfl
@[simp] theorem State.updBuf_keylo (s : State) (i : Nat) (f : SBuf → SBuf) : (s.updBuf i f).keylo = s.keylo := rfl
@[simp] theorem State.updBuf_asidtab (s : State) (i : Nat) (f : SBuf → SBuf) : (s.updBuf i f).asidtab = s.asidtab := rfl
@[simp] theorem State.updBuf_tlb (s : State) (i : Nat) (f : SBuf → SBuf) : (s.updBuf i f).tlb = s.tlb := rfl
@[simp] theorem State.updBuf_pwc (s : State) (i : Nat) (f : SBuf → SBuf) : (s.updBuf i f).pwc = s.pwc := rfl
@[simp] theorem State.updBuf_tlbis (s : State) (i : Nat) (f : SBuf → SBuf) : (s.updBuf i f).tlbis = s.tlbis := rfl
@[simp] theorem State.updBuf_peermap (s : State) (i : Nat) (f : SBuf → SBuf) : (s.updBuf i f).peermap = s.peermap := rfl
@[simp] theorem State.updBuf_flapp (s : State) (i : Nat) (f : SBuf → SBuf) : (s.updBuf i f).flapp = s.flapp := rfl
@[simp] theorem State.updBuf_guards (s : State) (i : Nat) (f : SBuf → SBuf) : (s.updBuf i f).guards = s.guards := rfl
@[simp] theorem State.updBuf_cc (s : State) (i : Nat) (f : SBuf → SBuf) : (s.updBuf i f).cc = s.cc := rfl
@[simp] theorem State.updBuf_cgroup (s : State) (i : Nat) (f : SBuf → SBuf) : (s.updBuf i f).cgroup = s.cgroup := rfl
@[simp] theorem State.updBuf_waiters (s : State) (i : Nat) (f : SBuf → SBuf) : (s.updBuf i f).waiters = s.waiters := rfl
@[simp] theorem State.updBuf_arrival (s : State) (i : Nat) (f : SBuf → SBuf) : (s.updBuf i f).arrival = s.arrival := rfl
@[simp] theorem State.updBuf_pflag (s : State) (i : Nat) (f : SBuf → SBuf) : (s.updBuf i f).pflag = s.pflag := rfl
@[simp] theorem State.updBuf_slotPois (s : State) (i : Nat) (f : SBuf → SBuf) : (s.updBuf i f).slotPois = s.slotPois := rfl
@[simp] theorem State.updBuf_ccUse (s : State) (i : Nat) (f : SBuf → SBuf) : (s.updBuf i f).ccUse = s.ccUse := rfl
@[simp] theorem State.updBuf_remote (s : State) (i : Nat) (f : SBuf → SBuf) : (s.updBuf i f).remote = s.remote := rfl
@[simp] theorem State.updBuf_near (s : State) (i : Nat) (f : SBuf → SBuf) : (s.updBuf i f).near = s.near := rfl
@[simp] theorem State.updBuf_tencfg (s : State) (i : Nat) (f : SBuf → SBuf) : (s.updBuf i f).tencfg = s.tencfg := rfl
@[simp] theorem State.updBuf_deficit (s : State) (i : Nat) (f : SBuf → SBuf) : (s.updBuf i f).deficit = s.deficit := rfl
@[simp] theorem State.updBuf_drr (s : State) (i : Nat) (f : SBuf → SBuf) : (s.updBuf i f).drr = s.drr := rfl
@[simp] theorem State.updBuf_entries (s : State) (i : Nat) (f : SBuf → SBuf) : (s.updBuf i f).entries = s.entries := rfl
@[simp] theorem State.updBuf_orders (s : State) (i : Nat) (f : SBuf → SBuf) : (s.updBuf i f).orders = s.orders := rfl
@[simp] theorem State.updBuf_cmds (s : State) (i : Nat) (f : SBuf → SBuf) : (s.updBuf i f).cmds = s.cmds := rfl
@[simp] theorem State.updBuf_nextCmd (s : State) (i : Nat) (f : SBuf → SBuf) : (s.updBuf i f).nextCmd = s.nextCmd := rfl
@[simp] theorem State.updBuf_gov (s : State) (i : Nat) (f : SBuf → SBuf) : (s.updBuf i f).gov = s.gov := rfl
@[simp] theorem State.updBuf_dbg (s : State) (i : Nat) (f : SBuf → SBuf) : (s.updBuf i f).dbg = s.dbg := rfl
@[simp] theorem State.updBuf_cfg (s : State) (i : Nat) (f : SBuf → SBuf) : (s.updBuf i f).cfg = s.cfg := rfl
@[simp] theorem State.updBuf_ctlErr (s : State) (i : Nat) (f : SBuf → SBuf) : (s.updBuf i f).ctlErr = s.ctlErr := rfl
@[simp] theorem State.updBuf_stalledIn (s : State) (i : Nat) (f : SBuf → SBuf) : (s.updBuf i f).stalledIn = s.stalledIn := rfl
@[simp] theorem State.updBuf_hostReads (s : State) (i : Nat) (f : SBuf → SBuf) : (s.updBuf i f).hostReads = s.hostReads := rfl
@[simp] theorem State.updBuf_out (s : State) (i : Nat) (f : SBuf → SBuf) : (s.updBuf i f).out = s.out := rfl

/-! ### setDir -/

@[simp] theorem setDir_cycle (s : State) (pa : Nat) (d : Dir) : (setDir s pa d).cycle = s.cycle := rfl
@[simp] theorem setDir_agenda (s : State) (pa : Nat) (d : Dir) : (setDir s pa d).agenda = s.agenda := rfl
@[simp] theorem setDir_onX (s : State) (pa : Nat) (d : Dir) : (setDir s pa d).onX = s.onX := rfl
@[simp] theorem setDir_h (s : State) (pa : Nat) (d : Dir) : (setDir s pa d).h = s.h := rfl
@[simp] theorem setDir_rest (s : State) (pa : Nat) (d : Dir) : (setDir s pa d).rest = s.rest := rfl
@[simp] theorem setDir_modes (s : State) (pa : Nat) (d : Dir) : (setDir s pa d).modes = s.modes := rfl
@[simp] theorem setDir_draws (s : State) (pa : Nat) (d : Dir) : (setDir s pa d).draws = s.draws := rfl
@[simp] theorem setDir_line (s : State) (pa : Nat) (d : Dir) : (setDir s pa d).line = s.line := rfl
@[simp] theorem setDir_turns (s : State) (pa : Nat) (d : Dir) : (setDir s pa d).turns = s.turns := rfl
@[simp] theorem setDir_mem (s : State) (pa : Nat) (d : Dir) : (setDir s pa d).mem = s.mem := rfl
@[simp] theorem setDir_side (s : State) (pa : Nat) (d : Dir) : (setDir s pa d).side = s.side := rfl
@[simp] theorem setDir_hostPois (s : State) (pa : Nat) (d : Dir) : (setDir s pa d).hostPois = s.hostPois := rfl
@[simp] theorem setDir_pagebuf (s : State) (pa : Nat) (d : Dir) : (setDir s pa d).pagebuf = s.pagebuf := rfl
@[simp] theorem setDir_keys (s : State) (pa : Nat) (d : Dir) : (setDir s pa d).keys = s.keys := rfl
@[simp] theorem setDir_keylo (s : State) (pa : Nat) (d : Dir) : (setDir s pa d).keylo = s.keylo := rfl
@[simp] theorem setDir_asidtab (s : State) (pa : Nat) (d : Dir) : (setDir s pa d).asidtab = s.asidtab := rfl
@[simp] theorem setDir_tlb (s : State) (pa : Nat) (d : Dir) : (setDir s pa d).tlb = s.tlb := rfl
@[simp] theorem setDir_pwc (s : State) (pa : Nat) (d : Dir) : (setDir s pa d).pwc = s.pwc := rfl
@[simp] theorem setDir_tlbis (s : State) (pa : Nat) (d : Dir) : (setDir s pa d).tlbis = s.tlbis := rfl
@[simp] theorem setDir_peermap (s : State) (pa : Nat) (d : Dir) : (setDir s pa d).peermap = s.peermap := rfl
@[simp] theorem setDir_flapp (s : State) (pa : Nat) (d : Dir) : (setDir s pa d).flapp = s.flapp := rfl
@[simp] theorem setDir_guards (s : State) (pa : Nat) (d : Dir) : (setDir s pa d).guards = s.guards := rfl
@[simp] theorem setDir_cc (s : State) (pa : Nat) (d : Dir) : (setDir s pa d).cc = s.cc := rfl
@[simp] theorem setDir_cgroup (s : State) (pa : Nat) (d : Dir) : (setDir s pa d).cgroup = s.cgroup := rfl
@[simp] theorem setDir_waiters (s : State) (pa : Nat) (d : Dir) : (setDir s pa d).waiters = s.waiters := rfl
@[simp] theorem setDir_arrival (s : State) (pa : Nat) (d : Dir) : (setDir s pa d).arrival = s.arrival := rfl
@[simp] theorem setDir_pflag (s : State) (pa : Nat) (d : Dir) : (setDir s pa d).pflag = s.pflag := rfl
@[simp] theorem setDir_slotPois (s : State) (pa : Nat) (d : Dir) : (setDir s pa d).slotPois = s.slotPois := rfl
@[simp] theorem setDir_ccUse (s : State) (pa : Nat) (d : Dir) : (setDir s pa d).ccUse = s.ccUse := rfl
@[simp] theorem setDir_remote (s : State) (pa : Nat) (d : Dir) : (setDir s pa d).remote = s.remote := rfl
@[simp] theorem setDir_near (s : State) (pa : Nat) (d : Dir) : (setDir s pa d).near = s.near := rfl
@[simp] theorem setDir_tencfg (s : State) (pa : Nat) (d : Dir) : (setDir s pa d).tencfg = s.tencfg := rfl
@[simp] theorem setDir_deficit (s : State) (pa : Nat) (d : Dir) : (setDir s pa d).deficit = s.deficit := rfl
@[simp] theorem setDir_drr (s : State) (pa : Nat) (d : Dir) : (setDir s pa d).drr = s.drr := rfl
@[simp] theorem setDir_entries (s : State) (pa : Nat) (d : Dir) : (setDir s pa d).entries = s.entries := rfl
@[simp] theorem setDir_orders (s : State) (pa : Nat) (d : Dir) : (setDir s pa d).orders = s.orders := rfl
@[simp] theorem setDir_cmds (s : State) (pa : Nat) (d : Dir) : (setDir s pa d).cmds = s.cmds := rfl
@[simp] theorem setDir_nextCmd (s : State) (pa : Nat) (d : Dir) : (setDir s pa d).nextCmd = s.nextCmd := rfl
@[simp] theorem setDir_gov (s : State) (pa : Nat) (d : Dir) : (setDir s pa d).gov = s.gov := rfl
@[simp] theorem setDir_sbuf (s : State) (pa : Nat) (d : Dir) : (setDir s pa d).sbuf = s.sbuf := rfl
@[simp] theorem setDir_dbg (s : State) (pa : Nat) (d : Dir) : (setDir s pa d).dbg = s.dbg := rfl
@[simp] theorem setDir_cfg (s : State) (pa : Nat) (d : Dir) : (setDir s pa d).cfg = s.cfg := rfl
@[simp] theorem setDir_ctlErr (s : State) (pa : Nat) (d : Dir) : (setDir s pa d).ctlErr = s.ctlErr := rfl
@[simp] theorem setDir_stalledIn (s : State) (pa : Nat) (d : Dir) : (setDir s pa d).stalledIn = s.stalledIn := rfl
@[simp] theorem setDir_hostReads (s : State) (pa : Nat) (d : Dir) : (setDir s pa d).hostReads = s.hostReads := rfl
@[simp] theorem setDir_out (s : State) (pa : Nat) (d : Dir) : (setDir s pa d).out = s.out := rfl

/-! ### putLine -/

@[simp] theorem putLine_cycle (s : State) (pa v : Nat) (g : BitVec 32) : (putLine s pa v g).cycle = s.cycle := by rw [putLine]
@[simp] theorem putLine_agenda (s : State) (pa v : Nat) (g : BitVec 32) : (putLine s pa v g).agenda = s.agenda := by rw [putLine]
@[simp] theorem putLine_onX (s : State) (pa v : Nat) (g : BitVec 32) : (putLine s pa v g).onX = s.onX := by rw [putLine]
@[simp] theorem putLine_h (s : State) (pa v : Nat) (g : BitVec 32) : (putLine s pa v g).h = s.h := by rw [putLine]
@[simp] theorem putLine_rest (s : State) (pa v : Nat) (g : BitVec 32) : (putLine s pa v g).rest = s.rest := by rw [putLine]
@[simp] theorem putLine_modes (s : State) (pa v : Nat) (g : BitVec 32) : (putLine s pa v g).modes = s.modes := by rw [putLine]
@[simp] theorem putLine_draws (s : State) (pa v : Nat) (g : BitVec 32) : (putLine s pa v g).draws = s.draws := by rw [putLine]
@[simp] theorem putLine_line (s : State) (pa v : Nat) (g : BitVec 32) : (putLine s pa v g).line = s.line := by rw [putLine]
@[simp] theorem putLine_turns (s : State) (pa v : Nat) (g : BitVec 32) : (putLine s pa v g).turns = s.turns := by rw [putLine]
@[simp] theorem putLine_hostPois (s : State) (pa v : Nat) (g : BitVec 32) : (putLine s pa v g).hostPois = s.hostPois := by rw [putLine]
@[simp] theorem putLine_dir (s : State) (pa v : Nat) (g : BitVec 32) : (putLine s pa v g).dir = s.dir := by rw [putLine]
@[simp] theorem putLine_pagebuf (s : State) (pa v : Nat) (g : BitVec 32) : (putLine s pa v g).pagebuf = s.pagebuf := by rw [putLine]
@[simp] theorem putLine_keys (s : State) (pa v : Nat) (g : BitVec 32) : (putLine s pa v g).keys = s.keys := by rw [putLine]
@[simp] theorem putLine_keylo (s : State) (pa v : Nat) (g : BitVec 32) : (putLine s pa v g).keylo = s.keylo := by rw [putLine]
@[simp] theorem putLine_asidtab (s : State) (pa v : Nat) (g : BitVec 32) : (putLine s pa v g).asidtab = s.asidtab := by rw [putLine]
@[simp] theorem putLine_tlb (s : State) (pa v : Nat) (g : BitVec 32) : (putLine s pa v g).tlb = s.tlb := by rw [putLine]
@[simp] theorem putLine_pwc (s : State) (pa v : Nat) (g : BitVec 32) : (putLine s pa v g).pwc = s.pwc := by rw [putLine]
@[simp] theorem putLine_tlbis (s : State) (pa v : Nat) (g : BitVec 32) : (putLine s pa v g).tlbis = s.tlbis := by rw [putLine]
@[simp] theorem putLine_peermap (s : State) (pa v : Nat) (g : BitVec 32) : (putLine s pa v g).peermap = s.peermap := by rw [putLine]
@[simp] theorem putLine_flapp (s : State) (pa v : Nat) (g : BitVec 32) : (putLine s pa v g).flapp = s.flapp := by rw [putLine]
@[simp] theorem putLine_guards (s : State) (pa v : Nat) (g : BitVec 32) : (putLine s pa v g).guards = s.guards := by rw [putLine]
@[simp] theorem putLine_cc (s : State) (pa v : Nat) (g : BitVec 32) : (putLine s pa v g).cc = s.cc := by rw [putLine]
@[simp] theorem putLine_cgroup (s : State) (pa v : Nat) (g : BitVec 32) : (putLine s pa v g).cgroup = s.cgroup := by rw [putLine]
@[simp] theorem putLine_waiters (s : State) (pa v : Nat) (g : BitVec 32) : (putLine s pa v g).waiters = s.waiters := by rw [putLine]
@[simp] theorem putLine_arrival (s : State) (pa v : Nat) (g : BitVec 32) : (putLine s pa v g).arrival = s.arrival := by rw [putLine]
@[simp] theorem putLine_pflag (s : State) (pa v : Nat) (g : BitVec 32) : (putLine s pa v g).pflag = s.pflag := by rw [putLine]
@[simp] theorem putLine_slotPois (s : State) (pa v : Nat) (g : BitVec 32) : (putLine s pa v g).slotPois = s.slotPois := by rw [putLine]
@[simp] theorem putLine_ccUse (s : State) (pa v : Nat) (g : BitVec 32) : (putLine s pa v g).ccUse = s.ccUse := by rw [putLine]
@[simp] theorem putLine_remote (s : State) (pa v : Nat) (g : BitVec 32) : (putLine s pa v g).remote = s.remote := by rw [putLine]
@[simp] theorem putLine_near (s : State) (pa v : Nat) (g : BitVec 32) : (putLine s pa v g).near = s.near := by rw [putLine]
@[simp] theorem putLine_tencfg (s : State) (pa v : Nat) (g : BitVec 32) : (putLine s pa v g).tencfg = s.tencfg := by rw [putLine]
@[simp] theorem putLine_deficit (s : State) (pa v : Nat) (g : BitVec 32) : (putLine s pa v g).deficit = s.deficit := by rw [putLine]
@[simp] theorem putLine_drr (s : State) (pa v : Nat) (g : BitVec 32) : (putLine s pa v g).drr = s.drr := by rw [putLine]
@[simp] theorem putLine_entries (s : State) (pa v : Nat) (g : BitVec 32) : (putLine s pa v g).entries = s.entries := by rw [putLine]
@[simp] theorem putLine_orders (s : State) (pa v : Nat) (g : BitVec 32) : (putLine s pa v g).orders = s.orders := by rw [putLine]
@[simp] theorem putLine_cmds (s : State) (pa v : Nat) (g : BitVec 32) : (putLine s pa v g).cmds = s.cmds := by rw [putLine]
@[simp] theorem putLine_nextCmd (s : State) (pa v : Nat) (g : BitVec 32) : (putLine s pa v g).nextCmd = s.nextCmd := by rw [putLine]
@[simp] theorem putLine_gov (s : State) (pa v : Nat) (g : BitVec 32) : (putLine s pa v g).gov = s.gov := by rw [putLine]
@[simp] theorem putLine_sbuf (s : State) (pa v : Nat) (g : BitVec 32) : (putLine s pa v g).sbuf = s.sbuf := by rw [putLine]
@[simp] theorem putLine_dbg (s : State) (pa v : Nat) (g : BitVec 32) : (putLine s pa v g).dbg = s.dbg := by rw [putLine]
@[simp] theorem putLine_cfg (s : State) (pa v : Nat) (g : BitVec 32) : (putLine s pa v g).cfg = s.cfg := by rw [putLine]
@[simp] theorem putLine_ctlErr (s : State) (pa v : Nat) (g : BitVec 32) : (putLine s pa v g).ctlErr = s.ctlErr := by rw [putLine]
@[simp] theorem putLine_stalledIn (s : State) (pa v : Nat) (g : BitVec 32) : (putLine s pa v g).stalledIn = s.stalledIn := by rw [putLine]
@[simp] theorem putLine_hostReads (s : State) (pa v : Nat) (g : BitVec 32) : (putLine s pa v g).hostReads = s.hostReads := by rw [putLine]
@[simp] theorem putLine_out (s : State) (pa v : Nat) (g : BitVec 32) : (putLine s pa v g).out = s.out := by rw [putLine]

/-! ### freshCheck -/

@[simp] theorem freshCheck_cycle (s : State) (pa k : Nat) : (freshCheck s pa k).cycle = s.cycle := by rw [freshCheck]
@[simp] theorem freshCheck_agenda (s : State) (pa k : Nat) : (freshCheck s pa k).agenda = s.agenda := by rw [freshCheck]
@[simp] theorem freshCheck_onX (s : State) (pa k : Nat) : (freshCheck s pa k).onX = s.onX := by rw [freshCheck]
@[simp] theorem freshCheck_h (s : State) (pa k : Nat) : (freshCheck s pa k).h = s.h := by rw [freshCheck]
@[simp] theorem freshCheck_rest (s : State) (pa k : Nat) : (freshCheck s pa k).rest = s.rest := by rw [freshCheck]
@[simp] theorem freshCheck_modes (s : State) (pa k : Nat) : (freshCheck s pa k).modes = s.modes := by rw [freshCheck]
@[simp] theorem freshCheck_draws (s : State) (pa k : Nat) : (freshCheck s pa k).draws = s.draws := by rw [freshCheck]
@[simp] theorem freshCheck_line (s : State) (pa k : Nat) : (freshCheck s pa k).line = s.line := by rw [freshCheck]
@[simp] theorem freshCheck_turns (s : State) (pa k : Nat) : (freshCheck s pa k).turns = s.turns := by rw [freshCheck]
@[simp] theorem freshCheck_mem (s : State) (pa k : Nat) : (freshCheck s pa k).mem = s.mem := by rw [freshCheck]
@[simp] theorem freshCheck_hostPois (s : State) (pa k : Nat) : (freshCheck s pa k).hostPois = s.hostPois := by rw [freshCheck]
@[simp] theorem freshCheck_dir (s : State) (pa k : Nat) : (freshCheck s pa k).dir = s.dir := by rw [freshCheck]
@[simp] theorem freshCheck_pagebuf (s : State) (pa k : Nat) : (freshCheck s pa k).pagebuf = s.pagebuf := by rw [freshCheck]
@[simp] theorem freshCheck_keys (s : State) (pa k : Nat) : (freshCheck s pa k).keys = s.keys := by rw [freshCheck]
@[simp] theorem freshCheck_keylo (s : State) (pa k : Nat) : (freshCheck s pa k).keylo = s.keylo := by rw [freshCheck]
@[simp] theorem freshCheck_asidtab (s : State) (pa k : Nat) : (freshCheck s pa k).asidtab = s.asidtab := by rw [freshCheck]
@[simp] theorem freshCheck_tlb (s : State) (pa k : Nat) : (freshCheck s pa k).tlb = s.tlb := by rw [freshCheck]
@[simp] theorem freshCheck_pwc (s : State) (pa k : Nat) : (freshCheck s pa k).pwc = s.pwc := by rw [freshCheck]
@[simp] theorem freshCheck_tlbis (s : State) (pa k : Nat) : (freshCheck s pa k).tlbis = s.tlbis := by rw [freshCheck]
@[simp] theorem freshCheck_peermap (s : State) (pa k : Nat) : (freshCheck s pa k).peermap = s.peermap := by rw [freshCheck]
@[simp] theorem freshCheck_flapp (s : State) (pa k : Nat) : (freshCheck s pa k).flapp = s.flapp := by rw [freshCheck]
@[simp] theorem freshCheck_guards (s : State) (pa k : Nat) : (freshCheck s pa k).guards = s.guards := by rw [freshCheck]
@[simp] theorem freshCheck_cc (s : State) (pa k : Nat) : (freshCheck s pa k).cc = s.cc := by rw [freshCheck]
@[simp] theorem freshCheck_cgroup (s : State) (pa k : Nat) : (freshCheck s pa k).cgroup = s.cgroup := by rw [freshCheck]
@[simp] theorem freshCheck_waiters (s : State) (pa k : Nat) : (freshCheck s pa k).waiters = s.waiters := by rw [freshCheck]
@[simp] theorem freshCheck_arrival (s : State) (pa k : Nat) : (freshCheck s pa k).arrival = s.arrival := by rw [freshCheck]
@[simp] theorem freshCheck_pflag (s : State) (pa k : Nat) : (freshCheck s pa k).pflag = s.pflag := by rw [freshCheck]
@[simp] theorem freshCheck_slotPois (s : State) (pa k : Nat) : (freshCheck s pa k).slotPois = s.slotPois := by rw [freshCheck]
@[simp] theorem freshCheck_ccUse (s : State) (pa k : Nat) : (freshCheck s pa k).ccUse = s.ccUse := by rw [freshCheck]
@[simp] theorem freshCheck_remote (s : State) (pa k : Nat) : (freshCheck s pa k).remote = s.remote := by rw [freshCheck]
@[simp] theorem freshCheck_near (s : State) (pa k : Nat) : (freshCheck s pa k).near = s.near := by rw [freshCheck]
@[simp] theorem freshCheck_tencfg (s : State) (pa k : Nat) : (freshCheck s pa k).tencfg = s.tencfg := by rw [freshCheck]
@[simp] theorem freshCheck_deficit (s : State) (pa k : Nat) : (freshCheck s pa k).deficit = s.deficit := by rw [freshCheck]
@[simp] theorem freshCheck_drr (s : State) (pa k : Nat) : (freshCheck s pa k).drr = s.drr := by rw [freshCheck]
@[simp] theorem freshCheck_entries (s : State) (pa k : Nat) : (freshCheck s pa k).entries = s.entries := by rw [freshCheck]
@[simp] theorem freshCheck_orders (s : State) (pa k : Nat) : (freshCheck s pa k).orders = s.orders := by rw [freshCheck]
@[simp] theorem freshCheck_cmds (s : State) (pa k : Nat) : (freshCheck s pa k).cmds = s.cmds := by rw [freshCheck]
@[simp] theorem freshCheck_nextCmd (s : State) (pa k : Nat) : (freshCheck s pa k).nextCmd = s.nextCmd := by rw [freshCheck]
@[simp] theorem freshCheck_gov (s : State) (pa k : Nat) : (freshCheck s pa k).gov = s.gov := by rw [freshCheck]
@[simp] theorem freshCheck_sbuf (s : State) (pa k : Nat) : (freshCheck s pa k).sbuf = s.sbuf := by rw [freshCheck]
@[simp] theorem freshCheck_dbg (s : State) (pa k : Nat) : (freshCheck s pa k).dbg = s.dbg := by rw [freshCheck]
@[simp] theorem freshCheck_cfg (s : State) (pa k : Nat) : (freshCheck s pa k).cfg = s.cfg := by rw [freshCheck]
@[simp] theorem freshCheck_ctlErr (s : State) (pa k : Nat) : (freshCheck s pa k).ctlErr = s.ctlErr := by rw [freshCheck]
@[simp] theorem freshCheck_stalledIn (s : State) (pa k : Nat) : (freshCheck s pa k).stalledIn = s.stalledIn := by rw [freshCheck]
@[simp] theorem freshCheck_hostReads (s : State) (pa k : Nat) : (freshCheck s pa k).hostReads = s.hostReads := by rw [freshCheck]
@[simp] theorem freshCheck_out (s : State) (pa k : Nat) : (freshCheck s pa k).out = s.out := by rw [freshCheck]

/-! ### putSlot -/

@[simp] theorem putSlot_cycle (s : State) (key : Nat) (v : Word) : (putSlot s key v).cycle = s.cycle := rfl
@[simp] theorem putSlot_agenda (s : State) (key : Nat) (v : Word) : (putSlot s key v).agenda = s.agenda := rfl
@[simp] theorem putSlot_onX (s : State) (key : Nat) (v : Word) : (putSlot s key v).onX = s.onX := rfl
@[simp] theorem putSlot_h (s : State) (key : Nat) (v : Word) : (putSlot s key v).h = s.h := rfl
@[simp] theorem putSlot_rest (s : State) (key : Nat) (v : Word) : (putSlot s key v).rest = s.rest := rfl
@[simp] theorem putSlot_modes (s : State) (key : Nat) (v : Word) : (putSlot s key v).modes = s.modes := rfl
@[simp] theorem putSlot_draws (s : State) (key : Nat) (v : Word) : (putSlot s key v).draws = s.draws := rfl
@[simp] theorem putSlot_line (s : State) (key : Nat) (v : Word) : (putSlot s key v).line = s.line := rfl
@[simp] theorem putSlot_turns (s : State) (key : Nat) (v : Word) : (putSlot s key v).turns = s.turns := rfl
@[simp] theorem putSlot_mem (s : State) (key : Nat) (v : Word) : (putSlot s key v).mem = s.mem := rfl
@[simp] theorem putSlot_side (s : State) (key : Nat) (v : Word) : (putSlot s key v).side = s.side := rfl
@[simp] theorem putSlot_hostPois (s : State) (key : Nat) (v : Word) : (putSlot s key v).hostPois = s.hostPois := rfl
@[simp] theorem putSlot_dir (s : State) (key : Nat) (v : Word) : (putSlot s key v).dir = s.dir := rfl
@[simp] theorem putSlot_pagebuf (s : State) (key : Nat) (v : Word) : (putSlot s key v).pagebuf = s.pagebuf := rfl
@[simp] theorem putSlot_keys (s : State) (key : Nat) (v : Word) : (putSlot s key v).keys = s.keys := rfl
@[simp] theorem putSlot_keylo (s : State) (key : Nat) (v : Word) : (putSlot s key v).keylo = s.keylo := rfl
@[simp] theorem putSlot_asidtab (s : State) (key : Nat) (v : Word) : (putSlot s key v).asidtab = s.asidtab := rfl
@[simp] theorem putSlot_tlb (s : State) (key : Nat) (v : Word) : (putSlot s key v).tlb = s.tlb := rfl
@[simp] theorem putSlot_pwc (s : State) (key : Nat) (v : Word) : (putSlot s key v).pwc = s.pwc := rfl
@[simp] theorem putSlot_tlbis (s : State) (key : Nat) (v : Word) : (putSlot s key v).tlbis = s.tlbis := rfl
@[simp] theorem putSlot_peermap (s : State) (key : Nat) (v : Word) : (putSlot s key v).peermap = s.peermap := rfl
@[simp] theorem putSlot_flapp (s : State) (key : Nat) (v : Word) : (putSlot s key v).flapp = s.flapp := rfl
@[simp] theorem putSlot_guards (s : State) (key : Nat) (v : Word) : (putSlot s key v).guards = s.guards := rfl
@[simp] theorem putSlot_cgroup (s : State) (key : Nat) (v : Word) : (putSlot s key v).cgroup = s.cgroup := rfl
@[simp] theorem putSlot_waiters (s : State) (key : Nat) (v : Word) : (putSlot s key v).waiters = s.waiters := rfl
@[simp] theorem putSlot_arrival (s : State) (key : Nat) (v : Word) : (putSlot s key v).arrival = s.arrival := rfl
@[simp] theorem putSlot_pflag (s : State) (key : Nat) (v : Word) : (putSlot s key v).pflag = s.pflag := rfl
@[simp] theorem putSlot_remote (s : State) (key : Nat) (v : Word) : (putSlot s key v).remote = s.remote := rfl
@[simp] theorem putSlot_near (s : State) (key : Nat) (v : Word) : (putSlot s key v).near = s.near := rfl
@[simp] theorem putSlot_tencfg (s : State) (key : Nat) (v : Word) : (putSlot s key v).tencfg = s.tencfg := rfl
@[simp] theorem putSlot_deficit (s : State) (key : Nat) (v : Word) : (putSlot s key v).deficit = s.deficit := rfl
@[simp] theorem putSlot_drr (s : State) (key : Nat) (v : Word) : (putSlot s key v).drr = s.drr := rfl
@[simp] theorem putSlot_entries (s : State) (key : Nat) (v : Word) : (putSlot s key v).entries = s.entries := rfl
@[simp] theorem putSlot_orders (s : State) (key : Nat) (v : Word) : (putSlot s key v).orders = s.orders := rfl
@[simp] theorem putSlot_cmds (s : State) (key : Nat) (v : Word) : (putSlot s key v).cmds = s.cmds := rfl
@[simp] theorem putSlot_nextCmd (s : State) (key : Nat) (v : Word) : (putSlot s key v).nextCmd = s.nextCmd := rfl
@[simp] theorem putSlot_gov (s : State) (key : Nat) (v : Word) : (putSlot s key v).gov = s.gov := rfl
@[simp] theorem putSlot_sbuf (s : State) (key : Nat) (v : Word) : (putSlot s key v).sbuf = s.sbuf := rfl
@[simp] theorem putSlot_dbg (s : State) (key : Nat) (v : Word) : (putSlot s key v).dbg = s.dbg := rfl
@[simp] theorem putSlot_cfg (s : State) (key : Nat) (v : Word) : (putSlot s key v).cfg = s.cfg := rfl
@[simp] theorem putSlot_ctlErr (s : State) (key : Nat) (v : Word) : (putSlot s key v).ctlErr = s.ctlErr := rfl
@[simp] theorem putSlot_stalledIn (s : State) (key : Nat) (v : Word) : (putSlot s key v).stalledIn = s.stalledIn := rfl
@[simp] theorem putSlot_hostReads (s : State) (key : Nat) (v : Word) : (putSlot s key v).hostReads = s.hostReads := rfl
@[simp] theorem putSlot_out (s : State) (key : Nat) (v : Word) : (putSlot s key v).out = s.out := rfl

/-! ### dropWaiter -/

/-- Taking a waiter out of the tables, and asking the peers' homes to do so, changes the waiters, the waits at peers and the
messages sent. -/
theorem dropWaiter_spec (s : State) (who : WaiterId) :
    ∃ o, dropWaiter s who = { s with
      waiters := s.waiters.filter fun w => w.who != who, remote := s.remote.filter fun w => w.who != who, out := o } := by
  have one : ∀ (w : RemoteWait) (t : State), ∃ o, unwait t w = { t with out := o } := by
    intro w t
    unfold unwait
    split
    · split
      · exact ⟨t.out, rfl⟩
      · unfold sendPeer; split
        · exact ⟨t.out, rfl⟩
        · exact ⟨_, rfl⟩
    · exact ⟨t.out, rfl⟩
  have all : ∀ (ws : List RemoteWait) (t : State), ∃ o, ws.foldl unwait t = { t with out := o } := by
    intro ws
    induction ws with
    | nil => intro t; exact ⟨t.out, rfl⟩
    | cons w ws ih =>
      intro t
      obtain ⟨o, e⟩ := one w t
      obtain ⟨o2, e2⟩ := ih (unwait t w)
      exact ⟨o2, by rw [List.foldl_cons, e2, e]⟩
  exact all _ _

@[simp] theorem dropWaiter_cycle (s : State) (who : WaiterId) : (dropWaiter s who).cycle = s.cycle := by
  obtain ⟨o, e⟩ := dropWaiter_spec s who; rw [e]
@[simp] theorem dropWaiter_agenda (s : State) (who : WaiterId) : (dropWaiter s who).agenda = s.agenda := by
  obtain ⟨o, e⟩ := dropWaiter_spec s who; rw [e]
@[simp] theorem dropWaiter_onX (s : State) (who : WaiterId) : (dropWaiter s who).onX = s.onX := by
  obtain ⟨o, e⟩ := dropWaiter_spec s who; rw [e]
@[simp] theorem dropWaiter_h (s : State) (who : WaiterId) : (dropWaiter s who).h = s.h := by
  obtain ⟨o, e⟩ := dropWaiter_spec s who; rw [e]
@[simp] theorem dropWaiter_rest (s : State) (who : WaiterId) : (dropWaiter s who).rest = s.rest := by
  obtain ⟨o, e⟩ := dropWaiter_spec s who; rw [e]
@[simp] theorem dropWaiter_modes (s : State) (who : WaiterId) : (dropWaiter s who).modes = s.modes := by
  obtain ⟨o, e⟩ := dropWaiter_spec s who; rw [e]
@[simp] theorem dropWaiter_draws (s : State) (who : WaiterId) : (dropWaiter s who).draws = s.draws := by
  obtain ⟨o, e⟩ := dropWaiter_spec s who; rw [e]
@[simp] theorem dropWaiter_line (s : State) (who : WaiterId) : (dropWaiter s who).line = s.line := by
  obtain ⟨o, e⟩ := dropWaiter_spec s who; rw [e]
@[simp] theorem dropWaiter_turns (s : State) (who : WaiterId) : (dropWaiter s who).turns = s.turns := by
  obtain ⟨o, e⟩ := dropWaiter_spec s who; rw [e]
@[simp] theorem dropWaiter_mem (s : State) (who : WaiterId) : (dropWaiter s who).mem = s.mem := by
  obtain ⟨o, e⟩ := dropWaiter_spec s who; rw [e]
@[simp] theorem dropWaiter_side (s : State) (who : WaiterId) : (dropWaiter s who).side = s.side := by
  obtain ⟨o, e⟩ := dropWaiter_spec s who; rw [e]
@[simp] theorem dropWaiter_hostPois (s : State) (who : WaiterId) : (dropWaiter s who).hostPois = s.hostPois := by
  obtain ⟨o, e⟩ := dropWaiter_spec s who; rw [e]
@[simp] theorem dropWaiter_dir (s : State) (who : WaiterId) : (dropWaiter s who).dir = s.dir := by
  obtain ⟨o, e⟩ := dropWaiter_spec s who; rw [e]
@[simp] theorem dropWaiter_pagebuf (s : State) (who : WaiterId) : (dropWaiter s who).pagebuf = s.pagebuf := by
  obtain ⟨o, e⟩ := dropWaiter_spec s who; rw [e]
@[simp] theorem dropWaiter_keys (s : State) (who : WaiterId) : (dropWaiter s who).keys = s.keys := by
  obtain ⟨o, e⟩ := dropWaiter_spec s who; rw [e]
@[simp] theorem dropWaiter_keylo (s : State) (who : WaiterId) : (dropWaiter s who).keylo = s.keylo := by
  obtain ⟨o, e⟩ := dropWaiter_spec s who; rw [e]
@[simp] theorem dropWaiter_asidtab (s : State) (who : WaiterId) : (dropWaiter s who).asidtab = s.asidtab := by
  obtain ⟨o, e⟩ := dropWaiter_spec s who; rw [e]
@[simp] theorem dropWaiter_tlb (s : State) (who : WaiterId) : (dropWaiter s who).tlb = s.tlb := by
  obtain ⟨o, e⟩ := dropWaiter_spec s who; rw [e]
@[simp] theorem dropWaiter_pwc (s : State) (who : WaiterId) : (dropWaiter s who).pwc = s.pwc := by
  obtain ⟨o, e⟩ := dropWaiter_spec s who; rw [e]
@[simp] theorem dropWaiter_tlbis (s : State) (who : WaiterId) : (dropWaiter s who).tlbis = s.tlbis := by
  obtain ⟨o, e⟩ := dropWaiter_spec s who; rw [e]
@[simp] theorem dropWaiter_peermap (s : State) (who : WaiterId) : (dropWaiter s who).peermap = s.peermap := by
  obtain ⟨o, e⟩ := dropWaiter_spec s who; rw [e]
@[simp] theorem dropWaiter_flapp (s : State) (who : WaiterId) : (dropWaiter s who).flapp = s.flapp := by
  obtain ⟨o, e⟩ := dropWaiter_spec s who; rw [e]
@[simp] theorem dropWaiter_guards (s : State) (who : WaiterId) : (dropWaiter s who).guards = s.guards := by
  obtain ⟨o, e⟩ := dropWaiter_spec s who; rw [e]
@[simp] theorem dropWaiter_cc (s : State) (who : WaiterId) : (dropWaiter s who).cc = s.cc := by
  obtain ⟨o, e⟩ := dropWaiter_spec s who; rw [e]
@[simp] theorem dropWaiter_cgroup (s : State) (who : WaiterId) : (dropWaiter s who).cgroup = s.cgroup := by
  obtain ⟨o, e⟩ := dropWaiter_spec s who; rw [e]
@[simp] theorem dropWaiter_arrival (s : State) (who : WaiterId) : (dropWaiter s who).arrival = s.arrival := by
  obtain ⟨o, e⟩ := dropWaiter_spec s who; rw [e]
@[simp] theorem dropWaiter_pflag (s : State) (who : WaiterId) : (dropWaiter s who).pflag = s.pflag := by
  obtain ⟨o, e⟩ := dropWaiter_spec s who; rw [e]
@[simp] theorem dropWaiter_slotPois (s : State) (who : WaiterId) : (dropWaiter s who).slotPois = s.slotPois := by
  obtain ⟨o, e⟩ := dropWaiter_spec s who; rw [e]
@[simp] theorem dropWaiter_ccUse (s : State) (who : WaiterId) : (dropWaiter s who).ccUse = s.ccUse := by
  obtain ⟨o, e⟩ := dropWaiter_spec s who; rw [e]
@[simp] theorem dropWaiter_near (s : State) (who : WaiterId) : (dropWaiter s who).near = s.near := by
  obtain ⟨o, e⟩ := dropWaiter_spec s who; rw [e]
@[simp] theorem dropWaiter_tencfg (s : State) (who : WaiterId) : (dropWaiter s who).tencfg = s.tencfg := by
  obtain ⟨o, e⟩ := dropWaiter_spec s who; rw [e]
@[simp] theorem dropWaiter_deficit (s : State) (who : WaiterId) : (dropWaiter s who).deficit = s.deficit := by
  obtain ⟨o, e⟩ := dropWaiter_spec s who; rw [e]
@[simp] theorem dropWaiter_drr (s : State) (who : WaiterId) : (dropWaiter s who).drr = s.drr := by
  obtain ⟨o, e⟩ := dropWaiter_spec s who; rw [e]
@[simp] theorem dropWaiter_entries (s : State) (who : WaiterId) : (dropWaiter s who).entries = s.entries := by
  obtain ⟨o, e⟩ := dropWaiter_spec s who; rw [e]
@[simp] theorem dropWaiter_orders (s : State) (who : WaiterId) : (dropWaiter s who).orders = s.orders := by
  obtain ⟨o, e⟩ := dropWaiter_spec s who; rw [e]
@[simp] theorem dropWaiter_cmds (s : State) (who : WaiterId) : (dropWaiter s who).cmds = s.cmds := by
  obtain ⟨o, e⟩ := dropWaiter_spec s who; rw [e]
@[simp] theorem dropWaiter_nextCmd (s : State) (who : WaiterId) : (dropWaiter s who).nextCmd = s.nextCmd := by
  obtain ⟨o, e⟩ := dropWaiter_spec s who; rw [e]
@[simp] theorem dropWaiter_gov (s : State) (who : WaiterId) : (dropWaiter s who).gov = s.gov := by
  obtain ⟨o, e⟩ := dropWaiter_spec s who; rw [e]
@[simp] theorem dropWaiter_sbuf (s : State) (who : WaiterId) : (dropWaiter s who).sbuf = s.sbuf := by
  obtain ⟨o, e⟩ := dropWaiter_spec s who; rw [e]
@[simp] theorem dropWaiter_dbg (s : State) (who : WaiterId) : (dropWaiter s who).dbg = s.dbg := by
  obtain ⟨o, e⟩ := dropWaiter_spec s who; rw [e]
@[simp] theorem dropWaiter_cfg (s : State) (who : WaiterId) : (dropWaiter s who).cfg = s.cfg := by
  obtain ⟨o, e⟩ := dropWaiter_spec s who; rw [e]
@[simp] theorem dropWaiter_ctlErr (s : State) (who : WaiterId) : (dropWaiter s who).ctlErr = s.ctlErr := by
  obtain ⟨o, e⟩ := dropWaiter_spec s who; rw [e]
@[simp] theorem dropWaiter_stalledIn (s : State) (who : WaiterId) : (dropWaiter s who).stalledIn = s.stalledIn := by
  obtain ⟨o, e⟩ := dropWaiter_spec s who; rw [e]
@[simp] theorem dropWaiter_hostReads (s : State) (who : WaiterId) : (dropWaiter s who).hostReads = s.hostReads := by
  obtain ⟨o, e⟩ := dropWaiter_spec s who; rw [e]

end Sys2Proof.Machine
end

