-- ==== Sys2Proof/Laws/Streams.lean ====
section
/-! SUPPORT. Laws/Streams.lean: what the operations on the issuing stream can do. Moving on changes the place of the stream
alone; writing a scalar register changes that register and the place; a stream read back is the stream written
(R117, R129, R319, R365). -/

namespace Sys2Proof.Machine

/-- The stream read back is the one written. -/
@[simp] theorem State.setCur_cur (s : State) (u : Stream) : (s.setCur u).cur = u := by
  cases h : s.onX <;> simp [State.setCur, State.cur, h]

/-- Replacing the issuing stream leaves the frame. -/
@[simp] theorem State.setCur_frame (s : State) (u : Stream) : (s.setCur u).frame = s.frame := by
  cases h : s.onX <;> simp [State.setCur, State.frame, Hart.without, h]

/-- Register n of a stream after a write of register m (R319). -/
theorem Stream.reg_setReg {t : Stream} (h : SMap.wf 0 t.regs = true) (m n : Nat) (v : Word) :
    (t.setReg m v).reg n = if n = m ∧ m ≠ 0 then v else t.reg n := by
  unfold Stream.setReg Stream.reg
  by_cases hm : m = 0
  · simp [hm]
  · rw [if_neg hm]
    by_cases hn : n = 0
    · have : ¬ (n = m) := by omega
      simp [hn, Ne.symm hm]
    · simp only [hn, if_false, SMap.get_set h]
      by_cases e : n = m <;> simp [e, hm]

/-- x0 reads as zero (R319). -/
@[simp] theorem Stream.reg_zero (t : Stream) : t.reg 0 = 0 := rfl

/-- A write to x0 is discarded (R319). -/
@[simp] theorem Stream.setReg_zero (t : Stream) (v : Word) : t.setReg 0 v = t := rfl

/-- A write of a register changes the registers alone. -/
@[simp] theorem Stream.setReg_still (t : Stream) (n : Nat) (v : Word) : (t.setReg n v).still = t.still := by
  unfold Stream.setReg; split <;> rfl

/-- A write of a register leaves the register table canonical. -/
theorem Stream.setReg_wf {t : Stream} (h : SMap.wf 0 t.regs = true) (n : Nat) (v : Word) :
    SMap.wf 0 (t.setReg n v).regs = true := by
  unfold Stream.setReg; split
  · exact h
  · exact SMap.wf_set h

/-- The start of a trip changes the place of a stream alone. -/
theorem Stream.tripStart_place (t : Stream) (b : Bool) :
    ∃ p k tr l, t.tripStart b = { t with pos := p, k := k, trip := tr, last := l } := by
  unfold Stream.tripStart
  simp only []
  generalize (if (b && t.last == t.n && decide (2 ≤ t.blk.stages)) = true then t.n.min (t.k + t.trip) else t.last) = l
  split
  · exact ⟨_, _, _, _, rfl⟩
  · split <;> exact ⟨_, _, _, _, rfl⟩

theorem Stream.tripStart_still (t : Stream) (b : Bool) : (t.tripStart b).still = t.still := by
  obtain ⟨p, k, tr, l, e⟩ := t.tripStart_place b; rw [e]; rfl

theorem Stream.tripStart_regs (t : Stream) (b : Bool) : (t.tripStart b).regs = t.regs := by
  obtain ⟨p, k, tr, l, e⟩ := t.tripStart_place b; rw [e]

theorem Stream.tripStart_live (t : Stream) (b : Bool) :
    (t.tripStart b).st = t.st ∧ (t.tripStart b).wait = t.wait ∧ (t.tripStart b).begun = t.begun := by
  obtain ⟨p, k, tr, l, e⟩ := t.tripStart_place b; rw [e]; exact ⟨rfl, rfl, rfl⟩

/-- Moving past a word changes the place of a stream alone (R117). -/
theorem Stream.past_still (t : Stream) (b : Bool) (w : Nat) : (t.past b w).still = t.still := by
  unfold Stream.past; split
  · rfl
  · rw [Stream.tripStart_still]; rfl

theorem Stream.past_regs (t : Stream) (b : Bool) (w : Nat) : (t.past b w).regs = t.regs := by
  unfold Stream.past; split
  · rfl
  · rw [Stream.tripStart_regs]

theorem Stream.past_live (t : Stream) (b : Bool) (w : Nat) :
    (t.past b w).st = t.st ∧ (t.past b w).wait = t.wait ∧ (t.past b w).begun = t.begun := by
  unfold Stream.past; split
  · exact ⟨rfl, rfl, rfl⟩
  · exact Stream.tripStart_live _ _

/-- Where a stream goes next does not depend on its registers. -/
theorem Stream.past_setReg (t : Stream) (n : Nat) (v : Word) (b : Bool) (w : Nat) :
    let u := (t.setReg n v).past b w
    let o := t.past b w
    u.pos = o.pos ∧ u.k = o.k ∧ u.trip = o.trip ∧ u.last = o.last := by
  have hn : ∀ (m : Nat) (i : Nat) (r : SMap Word),
      ({ t with regs := r } : Stream).nextRun m i = t.nextRun m i := by
    intro m
    induction m with
    | zero => intro i r; rfl
    | succ m ih => intro i r; simp only [Stream.nextRun, ih]; rfl
  have key : ∀ r : SMap Word, (({ t with regs := r } : Stream).past b w) = { t.past b w with regs := r } := by
    intro r
    unfold Stream.past
    simp only [hn]
    split
    · rfl
    · unfold Stream.tripStart
      simp only [Stream.goesOn]
      generalize (if (b && t.last == t.n && decide (2 ≤ t.blk.stages)) = true then t.n.min (t.k + (t.trip + 1)) else t.last) = l
      have hn2 : ∀ (tr k l : Nat) (m i : Nat),
          ({ t with trip := tr, k := k, last := l, regs := r } : Stream).nextRun m i =
          ({ t with trip := tr, k := k, last := l } : Stream).nextRun m i := by
        intro tr k l m
        induction m with
        | zero => intro i; rfl
        | succ m ih => intro i; simp only [Stream.nextRun, ih]; rfl
      split
      · simp only [hn2]
      · split
        · simp only [hn2]
        · rfl
  unfold Stream.setReg
  split
  · exact ⟨rfl, rfl, rfl, rfl⟩
  · rw [key]; exact ⟨rfl, rfl, rfl, rfl⟩

/-- What moving on does: nothing but the place of the stream changes. -/
theorem advance_ran {s : State} {w : Nat} (h : AtWord s w) : Ran s s.advance w := by
  unfold AtWord at h
  have e : s.advance = s.setCur (({ s.cur with st := .run, wait := .none, begun := false, stepPast := false } : Stream).past
      (softRequest s.h.req) w) := by
    unfold State.advance; rw [h]
  refine ⟨by rw [e]; simp, ?_, ?_, ?_⟩
  · rw [e, State.setCur_cur, Stream.past_still]; rfl
  · rw [e]
    obtain ⟨h1, h2, h3⟩ := Stream.past_live
      ({ s.cur with st := .run, wait := .none, begun := false, stepPast := false } : Stream) (softRequest s.h.req) w
    simp only [Passed, State.setCur_cur]
    exact ⟨trivial, trivial, trivial, trivial, h1, h2, h3⟩
  · rw [e, State.setCur_cur, Stream.past_regs]

/-- Noting a write leaves the stream. -/
@[simp] theorem State.noteWrite_cur (s : State) (d : Nat) : (s.noteWrite d).cur = s.cur := by
  cases h : s.onX
  · simp [State.noteWrite, State.cur, h]
  · by_cases k : s.h.unadmitted <;> simp [State.noteWrite, State.cur, h, k]

theorem noteFirst_clear (d : Nat) (es : List XEntry) :
    (noteFirst d es).map (fun e => { e with scalars := [] }) = es.map fun e => { e with scalars := [] } := by
  induction es with
  | nil => rfl
  | cons e es ih => by_cases h : e.waiting <;> simp [noteFirst, h, ih]

theorem noteLast_clear (d : Nat) (es : List XEntry) :
    (noteLast d es).map (fun e => { e with scalars := [] }) = es.map fun e => { e with scalars := [] } := by
  unfold noteLast; rw [List.map_reverse, noteFirst_clear, List.map_reverse, List.reverse_reverse]

theorem keepLast_clear (ps : List PLoad) :
    (keepLast ps).map (fun p => { p with kept := 0 }) = ps.map fun p => { p with kept := 0 } := by
  induction ps with
  | nil => rfl
  | cons p ps ih =>
    cases ps with
    | nil => rfl
    | cons q qs => simp only [keepLast, List.map_cons] at ih ⊢; rw [ih]

/-- Noting a write leaves the frame. -/
@[simp] theorem State.noteWrite_frame (s : State) (d : Nat) : (s.noteWrite d).frame = s.frame := by
  cases h : s.onX
  · simp [State.noteWrite, State.frame, Hart.without, h, keepLast_clear]
  · by_cases k : s.h.unadmitted <;> simp [State.noteWrite, State.frame, Hart.without, h, k, noteLast_clear]

@[simp] theorem State.noteWrite_req (s : State) (d : Nat) : (s.noteWrite d).h.req = s.h.req := by
  cases h : s.onX
  · simp [State.noteWrite, h]
  · by_cases k : s.h.unadmitted <;> simp [State.noteWrite, h, k]

/-- The request of the acting hart is no part of its streams. -/
@[simp] theorem State.setCur_req (s : State) (u : Stream) : (s.setCur u).h.req = s.h.req := by
  cases h : s.onX <;> simp [State.setCur, h]

/-- What writing a register does: that register takes the value, and nothing else but the place of the stream changes. -/
theorem writeReg_wrote {s : State} {w : Nat} (h : AtWord s w) (hw : s.canWrite = true) (d : BitVec 6) (v : Word) :
    Wrote s (s.writeReg d v) w d v := by
  have e : s.writeReg d v = ((s.noteWrite d.toNat).setReg d.toNat v).advance := by unfold State.writeReg; rw [if_pos hw]
  have hc : ((s.noteWrite d.toNat).setReg d.toNat v).cur = s.cur.setReg d.toNat v := by simp [State.setReg]
  have hat : AtWord ((s.noteWrite d.toNat).setReg d.toNat v) w := by
    unfold AtWord; rw [hc]; unfold Stream.setReg; split <;> exact h
  obtain ⟨f, st, p, r⟩ := advance_ran hat
  refine ⟨by rw [e, f]; simp [State.setReg], by rw [e, st, hc, Stream.setReg_still], ?_, by rw [e, r, hc]⟩
  rw [e]
  obtain ⟨p1, p2, p3, p4, p5⟩ := p
  have hr : ((s.noteWrite d.toNat).setReg d.toNat v).h.req = s.h.req := by simp [State.setReg]
  have hs : ∀ t : Stream, ({ t.setReg d.toNat v with st := .run, wait := .none, begun := false, stepPast := false } : Stream) =
      ({ t with st := .run, wait := .none, begun := false, stepPast := false } : Stream).setReg d.toNat v := by
    intro t; unfold Stream.setReg; split <;> rfl
  obtain ⟨q1, q2, q3, q4⟩ := Stream.past_setReg
    ({ s.cur with st := .run, wait := .none, begun := false, stepPast := false } : Stream) d.toNat v (softRequest s.h.req) w
  rw [hc, hr, hs] at p1 p2 p3 p4
  exact ⟨p1.trans q1, p2.trans q2, p3.trans q3, p4.trans q4, p5⟩

end Sys2Proof.Machine
end

