-- ==== Sys2Proof/Tests/Slice0.lean ====
section
/-! SUPPORT. Tests/Slice0.lean: words written out from the encoding tables (R325 to R334, R373, R387, R420, R434), an
ill-formed term for each check, single steps worked out from the rules, and a state that meets the hypotheses of each
statement. -/

namespace Sys2Proof.Tests

set_option Elab.async false

open Sys2Proof Sys2Proof.Machine

/-! ## Formats (R325 Table 4) -/

/-- R: OP, D, A, B, F. -/
def fR (op : BitVec 8) (d a b f : BitVec 6) : BitVec 32 := op ++ d ++ a ++ b ++ f
/-- I: OP, D, A, IMM12. -/
def fI (op : BitVec 8) (d a : BitVec 6) (i : BitVec 12) : BitVec 32 := op ++ d ++ a ++ i
/-- L: OP, D, IMM18. -/
def fL (op : BitVec 8) (d : BitVec 6) (i : BitVec 18) : BitVec 32 := op ++ d ++ i
/-- V: OP, VD, VA, VB, M, REP, Z. -/
def fV (op : BitVec 8) (d : BitVec 5) (a b : BitVec 6) (m r : BitVec 3) (z : BitVec 1) : BitVec 32 :=
  op ++ d ++ a ++ b ++ m ++ r ++ z
/-- M: OP, TA, VA, VB, MR, MC, S. -/
def fM (op : BitVec 8) (t : BitVec 2) (a b : BitVec 6) (r c : BitVec 3) (s : BitVec 1) : BitVec 32 :=
  op ++ t ++ a ++ b ++ r ++ c ++ s ++ 0#3
/-- Q: OP, Q, A, B, EW, MODE. -/
def fQ (op : BitVec 8) (q : BitVec 3) (a b : BitVec 6) (e : BitVec 3) (m : BitVec 4) : BitVec 32 :=
  op ++ q ++ a ++ b ++ e ++ m ++ 0#2
/-- S: OP, D, A, B, ORD, SCOPE, W. -/
def fS (op : BitVec 8) (d a b : BitVec 6) (o : BitVec 2) (c : BitVec 3) (w : BitVec 1) : BitVec 32 :=
  op ++ d ++ a ++ b ++ o ++ c ++ w

/-! ## Every instruction's word decodes to it -/

theorem test_decode_control :
    decode (fR 0x01 0 0 0 0) = .ok .nop ∧ decode (fL 0x02 0 0x3FFFF) = .ok (.br 0x3FFFF) ∧
    decode (fI 0x03 1 2 0xFFA) = .ok (.brcEq 1 2 0xFFA) ∧ decode (fI 0x04 1 2 3) = .ok (.brcNe 1 2 3) ∧
    decode (fI 0x05 1 2 3) = .ok (.brcLt 1 2 3) ∧ decode (fI 0x06 1 2 3) = .ok (.brcGe 1 2 3) ∧
    decode (fI 0x07 1 2 3) = .ok (.brcLtu 1 2 3) ∧ decode (fI 0x08 1 2 3) = .ok (.brcGeu 1 2 3) ∧
    decode (fR 0x09 0 63 0 0) = .ok (.brr 63) ∧ decode (fL 0x0A 63 5) = .ok (.call 63 5) ∧
    decode (fR 0x0B 63 7 0 0) = .ok (.callr 63 7) ∧ decode (fL 0x0C 0 9) = .ok (.brk 9) ∧
    decode (fR 0x0D 0 0 0 0) = .ok .exit ∧ decode (fR 0x0E 0 0 0 0) = .ok .step ∧
    decode (fL 0x0F 0 6) = .ok (.xstart 6) := by decide

theorem test_decode_scalar :
    decode (fR 0x10 3 1 2 0) = .ok (.add 3 1 2) ∧ decode (fR 0x11 3 1 2 0) = .ok (.sub 3 1 2) ∧
    decode (fR 0x12 3 1 2 0) = .ok (.mul 3 1 2) ∧ decode (fR 0x13 3 1 2 0) = .ok (.mulh 3 1 2) ∧
    decode (fR 0x14 3 1 2 0) = .ok (.mulhu 3 1 2) ∧ decode (fR 0x15 3 1 2 0) = .ok (.div 3 1 2) ∧
    decode (fR 0x16 3 1 2 0) = .ok (.divu 3 1 2) ∧ decode (fR 0x17 3 1 2 0) = .ok (.rem 3 1 2) ∧
    decode (fR 0x18 3 1 2 0) = .ok (.remu 3 1 2) ∧ decode (fR 0x19 3 1 2 0) = .ok (.and 3 1 2) ∧
    decode (fR 0x1A 3 1 2 0) = .ok (.or 3 1 2) ∧ decode (fR 0x1B 3 1 2 0) = .ok (.xor 3 1 2) ∧
    decode (fR 0x1C 3 1 2 0) = .ok (.andn 3 1 2) ∧ decode (fR 0x1D 3 1 2 0) = .ok (.sll 3 1 2) ∧
    decode (fR 0x1E 3 1 2 0) = .ok (.srl 3 1 2) ∧ decode (fR 0x1F 3 1 2 0) = .ok (.sra 3 1 2) := by decide

theorem test_decode_scalar_more :
    decode (fR 0x20 3 1 2 0) = .ok (.min 3 1 2) ∧ decode (fR 0x21 3 1 2 0) = .ok (.max 3 1 2) ∧
    decode (fR 0x22 3 1 2 0) = .ok (.minu 3 1 2) ∧ decode (fR 0x23 3 1 2 0) = .ok (.maxu 3 1 2) ∧
    decode (fR 0x24 3 1 2 0) = .ok (.slt 3 1 2) ∧ decode (fR 0x25 3 1 2 0) = .ok (.sltu 3 1 2) ∧
    decode (fR 0x26 3 1 2 0) = .ok (.seq 3 1 2) ∧ decode (fR 0x27 3 1 2 4) = .ok (.sel 3 1 2 4) ∧
    decode (fR 0x28 3 1 0 0) = .ok (.clz 3 1) ∧ decode (fR 0x28 3 1 0 1) = .ok (.ctz 3 1) ∧
    decode (fR 0x28 3 1 0 2) = .ok (.popc 3 1) ∧ decode (fR 0x29 3 1 2 63) = .ok (.addsh 3 1 2 63) ∧
    decode (fI 0x2A 3 1 0x800) = .ok (.addi 3 1 0x800) ∧ decode (fI 0x2B 3 1 5) = .ok (.andi 3 1 5) ∧
    decode (fI 0x2C 3 1 5) = .ok (.ori 3 1 5) ∧ decode (fI 0x2D 5 5 0x003) = .ok (.slli 5 5 3) ∧
    decode (fI 0x2D 5 5 0x043) = .ok (.srli 5 5 3) ∧ decode (fI 0x2D 5 5 0x083) = .ok (.srai 5 5 3) ∧
    decode (fL 0x2E 3 0x20000) = .ok (.li 3 0x20000) ∧ decode (fL 0x2F 9 0x31234) = .ok (.lih 9 3 0x1234) := by decide

theorem test_decode_scalar_memory :
    decode (fI 0x30 2 3 4) = .ok (.ldB 2 3 4) ∧ decode (fI 0x31 2 3 4) = .ok (.ldBu 2 3 4) ∧
    decode (fI 0x32 2 3 4) = .ok (.ldH 2 3 4) ∧ decode (fI 0x33 2 3 4) = .ok (.ldHu 2 3 4) ∧
    decode (fI 0x34 2 3 4) = .ok (.ldW 2 3 4) ∧ decode (fI 0x35 2 3 4) = .ok (.ldWu 2 3 4) ∧
    decode (fI 0x36 2 3 4) = .ok (.ldD 2 3 4) ∧ decode (fI 0x37 2 3 4) = .ok (.stB 2 3 4) ∧
    decode (fI 0x38 2 3 4) = .ok (.stH 2 3 4) ∧ decode (fI 0x39 2 3 4) = .ok (.stW 2 3 4) ∧
    decode (fI 0x3A 2 3 4) = .ok (.stD 2 3 4) ∧ decode (fI 0x3B 2 3 4) = .ok (.ldl 2 3 4) ∧
    decode (fI 0x3C 2 3 4) = .ok (.stl 2 3 4) ∧ decode (fI 0x3D 2 3 4) = .ok (.tagr 2 3 4) ∧
    decode (fI 0x3E 2 3 4) = .ok (.tagw 2 3 4) ∧ decode (fI 0x3F 0 3 4) = .ok (.pref 3 4) := by decide

theorem test_decode_vector_memory :
    decode (fQ 0x40 0 4 0 3 0) = .ok (.vldUnit 0 4 3) ∧ decode (fQ 0x40 1 4 5 3 1) = .ok (.vldStrided 1 4 5 3) ∧
    decode (fQ 0x40 2 6 8 2 2) = .ok (.vldExplicit 2 6 8 2) ∧ decode (fQ 0x41 5 4 1 3 7) = .ok (.vldx 5 4 1 3 7) ∧
    decode (fQ 0x42 0 4 0 3 0) = .ok (.vldffUnit 0 4 3) ∧ decode (fQ 0x42 0 4 5 3 1) = .ok (.vldffStrided 0 4 5 3) ∧
    decode (fQ 0x43 6 7 0 3 0) = .ok (.vstUnit 6 7 3) ∧ decode (fQ 0x43 7 7 5 3 1) = .ok (.vstStrided 7 7 5 3) ∧
    decode (fQ 0x44 6 7 0 3 2) = .ok (.vstx 6 7 3 2) ∧ decode (fQ 0x45 1 4 0 4 0) = .ok (.vldl 1 4 4) ∧
    decode (fQ 0x46 7 4 0 4 0) = .ok (.vstl 7 4 4) ∧ decode (fQ 0x47 0 4 8 0 3) = .ok (.vspill 0 4 8 3) ∧
    decode (fQ 0x48 1 4 8 0 3) = .ok (.vfill 1 4 8 3) := by decide

theorem test_decode_fences_and_queues :
    decode (fS 0x49 0 0 0 0 2 0) = .ok (.fenceSv 2) ∧ decode (fS 0x49 0 0 0 1 2 0) = .ok (.fenceVs 2) ∧
    decode (fS 0x49 0 0 0 2 2 0) = .ok (.fenceVv 2) ∧ decode (fS 0x49 0 0 0 3 4 0) = .ok (.fenceAll 4) ∧
    decode (fL 0x4A 0 12) = .ok (.lsplit 12) ∧ decode (fQ 0x4B 5 9 0 0 0) = .ok (.qpushA 5 9) ∧
    decode (fQ 0x4B 6 0 31 0 0) = .ok (.qpushX 6 31) ∧ decode (fQ 0x4C 7 0 0 0 0) = .ok (.qpopA 7) ∧
    decode (fQ 0x4C 5 0 31 0 0) = .ok (.qpopX 5 31) ∧ decode (fQ 0x4C 5 0 32 0 0) = .ok (.qpopXDiscard 5) ∧
    decode (fQ 0x4D 0 9 0 0 0) = .ok (.qputs 9) ∧ decode (fQ 0x4E 0 0 9 0 0) = .ok (.qgets 9) ∧
    decode (fQ 0x4F 7 0 9 0 0) = .ok (.qstatData 7 9) ∧ decode (fQ 0x4F 1 0 9 0 1) = .ok (.qstatScalar 1 9) := by decide

theorem test_decode_vector :
    decode (fV 0x50 3 9 8 0 0 0) = .ok (.vsetl 3 9 8) ∧ decode (fV 0x50 3 9 32 0 0 0) = .ok (.vsetlKeep 3 9) ∧
    decode (fV 0x51 3 32 2 2 4 1) = .ok (.vadd 3 32 2 2 4 1) ∧ decode (fV 0x52 3 1 2 2 4 1) = .ok (.vsub 3 1 2 2 4 1) ∧
    decode (fV 0x53 3 1 2 2 4 1) = .ok (.vmul 3 1 2 2 4 1) ∧ decode (fV 0x54 3 1 2 2 4 1) = .ok (.vfma 3 1 2 2 4 1) ∧
    decode (fV 0x55 3 1 2 2 4 1) = .ok (.vfms 3 1 2 2 4 1) ∧ decode (fV 0x56 3 1 2 2 4 1) = .ok (.vmin 3 1 2 2 4 1) ∧
    decode (fV 0x57 3 1 2 2 4 1) = .ok (.vmax 3 1 2 2 4 1) ∧ decode (fV 0x58 3 1 0 2 0 1) = .ok (.vabs 3 1 2 1) ∧
    decode (fV 0x59 3 1 0 2 0 1) = .ok (.vneg 3 1 2 1) ∧ decode (fV 0x5A 3 1 2 2 4 1) = .ok (.vdiv 3 1 2 2 4 1) ∧
    decode (fV 0x5B 3 1 0 2 0 1) = .ok (.vrcp 3 1 2 1) ∧ decode (fV 0x5C 3 1 0 2 0 1) = .ok (.vrsqrt 3 1 2 1) ∧
    decode (fV 0x5D 3 1 2 2 4 1) = .ok (.vand 3 1 2 2 4 1) ∧ decode (fV 0x5E 3 1 2 2 4 1) = .ok (.vor 3 1 2 2 4 1) ∧
    decode (fV 0x5F 3 1 45 2 7 1) = .ok (.vxor 3 1 45 2 7 1) := by decide

theorem test_decode_vector_more :
    decode (fV 0x60 3 1 2 2 4 1) = .ok (.vshl 3 1 2 2 4 1) ∧ decode (fV 0x61 3 1 2 2 4 1) = .ok (.vshr 3 1 2 2 4 1) ∧
    decode (fV 0x62 3 1 2 2 4 0) = .ok (.vsel 3 1 2 2 4) ∧ decode (fV 0x63 3 1 0 2 0 1) = .ok (.vmov 3 1 2 1) ∧
    decode (fV 0x64 3 63 0 0 0 0) = .ok (.vsplat 3 63) ∧ decode (fV 0x65 3 1 63 0 0 0) = .ok (.vext 3 1 63) ∧
    decode (fV 0x66 3 63 62 0 0 0) = .ok (.vins 3 63 62) ∧ decode (fV 0x67 3 1 0 2 0 0) = .ok (.vredsum 3 1 2) ∧
    decode (fV 0x68 3 1 0 2 0 0) = .ok (.vredmax 3 1 2) ∧ decode (fV 0x69 3 1 0 2 0 0) = .ok (.vredmin 3 1 2) := by decide

theorem test_decode_compares :
    decode (fV 0x6A 7 1 2 2 4 1) = .ok (.vcmpEq 7 1 2 2 4 1) ∧ decode (fV 0x6B 7 1 2 2 4 1) = .ok (.vcmpNe 7 1 2 2 4 1) ∧
    decode (fV 0x6C 7 1 2 2 4 1) = .ok (.vcmpLt 7 1 2 2 4 1) ∧ decode (fV 0x6D 7 1 2 2 4 1) = .ok (.vcmpLe 7 1 2 2 4 1) ∧
    decode (fV 0x6E 7 1 2 2 4 1) = .ok (.vcmpGt 7 1 2 2 4 1) ∧ decode (fV 0x6F 7 1 2 2 4 1) = .ok (.vcmpGe 7 1 2 2 4 1) ∧
    decode (fV 0x70 7 1 2 2 4 1) = .ok (.vcmpUn 7 1 2 2 4 1) ∧ decode (fV 0x71 7 1 2 2 4 1) = .ok (.vcmpOr 7 1 2 2 4 1) := by
  decide

theorem test_decode_permutes_masks_tags :
    decode (fV 0x90 3 7 0 2 0 1) = .ok (.viota 3 7 2 1) ∧ decode (fV 0x91 3 1 63 2 0 1) = .ok (.vslideup 3 1 63 2 1) ∧
    decode (fV 0x92 3 1 63 2 0 1) = .ok (.vslidedn 3 1 63 2 1) ∧ decode (fV 0x93 3 1 2 2 4 1) = .ok (.vperm 3 1 2 2 4 1) ∧
    decode (fV 0x94 7 1 2 0 0 0) = .ok (.mand 7 1 2) ∧ decode (fV 0x95 7 1 2 0 0 0) = .ok (.mor 7 1 2) ∧
    decode (fV 0x96 7 1 2 0 0 0) = .ok (.mxor 7 1 2) ∧ decode (fV 0x97 7 1 2 0 0 0) = .ok (.mandn 7 1 2) ∧
    decode (fV 0x98 7 1 0 0 0 0) = .ok (.mnot 7 1) ∧ decode (fV 0x99 31 7 0 0 0 0) = .ok (.mpopc 31 7) ∧
    decode (fV 0x9A 31 7 0 0 0 0) = .ok (.mfirst 31 7) ∧ decode (fV 0xB0 3 1 63 0 0 0) = .ok (.vtag 3 1 63) ∧
    decode (fV 0xB1 3 31 63 0 0 0) = .ok (.vgtag 3 31 63) ∧ decode (fV 0xB2 3 1 8 2 0 1) = .ok (.vcvt 3 1 8 2 1) ∧
    decode (fV 0xB3 3 1 63 2 0 1) = .ok (.vscale 3 1 63 2 1) ∧ decode (fV 0xB4 3 1 0 0 0 0) = .ok (.vunrot 3 1) := by decide

theorem test_decode_matrix :
    decode (fM 0xA0 0 0 0 2 0 0) = .ok (.mmode 2) ∧ decode (fM 0xA1 1 0 0 1 2 0) = .ok (.mzero 1 1 2) ∧
    decode (fM 0xA2 2 32 41 0 0 0) = .ok (.opadd 2 32 41 0 0) ∧ decode (fM 0xA3 1 3 4 1 2 0) = .ok (.opsub 1 3 4 1 2) ∧
    decode (fM 0xA4 1 5 7 0 3 1) = .ok (.mrd 1 5 7 3 1) ∧ decode (fM 0xA5 3 32 2 0 3 1) = .ok (.mwr 3 32 2 3 1) ∧
    decode (fM 0xA6 0 9 10 0 0 0) = .ok (.mtr 0 9 10 0 0) := by decide

theorem test_decode_counters_and_atomics :
    decode (fS 0xC0 0 4 5 2 3 0) = .ok (.cadd 4 5 2 3) ∧ decode (fS 0xC1 6 4 7 3 3 0) = .ok (.cxadd 6 4 7 3 3) ∧
    decode (fS 0xC2 9 4 8 1 2 0) = .ok (.cwait 9 4 8 2) ∧ decode (fS 0xC3 9 4 0 1 2 0) = .ok (.crd 9 4 1 2) ∧
    decode (fS 0xC4 9 4 8 1 2 0) = .ok (.ctst 9 4 8 1 2) ∧ decode (fS 0xC5 9 4 8 0 2 0) = .ok (.cset 9 4 8 2) ∧
    decode (fS 0xC6 3 1 2 3 4 1) = .ok (.atomAdd 3 1 2 3 4 1) ∧ decode (fS 0xC7 3 1 2 3 4 1) = .ok (.atomMin 3 1 2 3 4 1) ∧
    decode (fS 0xC8 3 1 2 3 4 1) = .ok (.atomMax 3 1 2 3 4 1) ∧ decode (fS 0xC9 3 1 2 3 4 1) = .ok (.atomAnd 3 1 2 3 4 1) ∧
    decode (fS 0xCA 3 1 2 3 4 1) = .ok (.atomOr 3 1 2 3 4 1) ∧ decode (fS 0xCB 3 1 2 3 4 1) = .ok (.atomXor 3 1 2 3 4 1) ∧
    decode (fS 0xCC 3 1 2 3 4 1) = .ok (.atomSwap 3 1 2 3 4 1) ∧ decode (fS 0xCD 5 6 7 0 2 0) = .ok (.cas 5 6 7 0 2 0) ∧
    decode (fS 0xCE (6#3 ++ 5#3) 4 (0#1 ++ 3#3 ++ 1#1 ++ 1#1) 0 0 1) = .ok (.vatom 6 5 4 3 1 1 0 0 1) ∧
    decode (fS 0xCF (0#3 ++ 5#3) 4 (0#1 ++ 3#3 ++ 0#1 ++ 1#1) 0 0 1) = .ok (.vatomOi 0 5 4 3 0 1 0 0 1) := by decide

theorem test_decode_engines_and_launches :
    decode (fS 0xD0 0 4 2 2 2 0) = .ok (.sluice 4 2 2) ∧ decode (fS 0xD1 0 4 0 2 2 0) = .ok (.panc 4 2) ∧
    decode (fS 0xD2 0 4 0 2 2 0) = .ok (.rcode 4 2) ∧ decode (fS 0xD3 10 11 0 0 0 0) = .ok (.launch 10 11) ∧
    decode (fS 0xD4 10 11 0 0 0 0) = .ok (.cancel 10 11) ∧ decode (fS 0xD5 12 0 0 0 0 0) = .ok (.strip 12) := by decide

theorem test_decode_system :
    decode (fI 0xE0 5 0 0x005) = .ok (.csrr 5 0x005) ∧ decode (fI 0xE1 5 6 0x020) = .ok (.csrw 5 6 0x020) ∧
    decode (fI 0xE2 5 6 0x005) = .ok (.csrs 5 6 0x005) ∧ decode (fI 0xE3 5 6 0x005) = .ok (.csrc 5 6 0x005) ∧
    decode (fI 0xE4 0 4 0x004) = .ok (.csrwi 0 4 0x004) ∧ decode (fR 0xE5 0 0 0 0) = .ok .eret ∧
    decode (fS 0xE6 1 2 3 0 0 0) = .ok (.scall 1 2 3) ∧ decode (fS 0xE7 1 2 3 0 0 0) = .ok (.scallNb 1 2 3) ∧
    decode (fS 0xE8 13 0 0 0 0 0) = .ok (.wmark 13) ∧ decode (fS 0xE9 6 4 5 0 0 0) = .ok (.tlbiVa 6 4 5) ∧
    decode (fS 0xEA 6 0 5 0 0 0) = .ok (.tlbiAsid 6 5) ∧ decode (fS 0xEB 6 0 0 0 0 0) = .ok (.tlbiAll 6) ∧
    decode (fR 0xEC 0 0 0 0) = .ok .bkpt ∧ decode (fR 0xED 1 2 3 0) = .ok (.ptset 1 2 3) ∧
    decode (fR 0xEE 1 2 0 0) = .ok (.ptget 1 2) ∧ decode (fR 0xEF 0 0 0 0) = .ok .sdrain := by decide

/-! ## Each check of WellFormed refuses a term -/

theorem test_ill_formed_word_fields :
    Instr.wellFormed (.fenceSv 5) = false ∧ Instr.wellFormed (.cadd 4 5 1 3) = false ∧
    Instr.wellFormed (.crd 9 4 2 2) = false ∧ Instr.wellFormed (.vldUnit 6 4 3) = false ∧
    Instr.wellFormed (.vstUnit 5 7 3) = false ∧ Instr.wellFormed (.vldUnit 0 4 5) = false ∧
    Instr.wellFormed (.vldStrided 1 4 5 0) = false ∧ Instr.wellFormed (.vadd 3 48 2 2 4 1) = false ∧
    Instr.wellFormed (.vadd 3 38 2 2 4 1) = false ∧ Instr.wellFormed (.vadd 3 1 2 2 1 1) = false ∧
    Instr.wellFormed (.vcmpEq 0 1 2 2 4 1) = false ∧ Instr.wellFormed (.csrr 5 0x006) = false ∧
    Instr.wellFormed (.vspill 7 4 31 1) = false ∧ Instr.wellFormed (.lsplit 13) = false ∧
    Instr.wellFormed (.mmode 5) = false ∧ Instr.wellFormed (.vatom 7 5 4 3 1 1 0 0 1) = false ∧
    Instr.wellFormed (.vatom 6 5 4 6 1 1 0 0 1) = false := by decide

theorem test_ill_formed_events :
    Instr.wellFormed (.storeResolve ⟨8, 0, 0⟩) = false ∧ Instr.wellFormed (.storeResolve ⟨0, 65, 0⟩) = false ∧
    Instr.wellFormed (.storeResolve ⟨0, 0, 4⟩) = false ∧ Instr.wellFormed (.walkComplete 8 0 0 0) = false ∧
    Instr.wellFormed (.counterCacheEviction 0 (2 ^ 20)) = false ∧ Instr.wellFormed (.leaveGrant 8) = false ∧
    Instr.wellFormed (.laneLockLoss 18) = false ∧ Instr.wellFormed (.memoryPortLinkDown 8) = false ∧
    Instr.wellFormed (.hostCounterRead .a 1024) = false ∧ Instr.wellFormed (.rewind 4096) = false ∧
    Instr.wellFormed (.breakpointHit 8) = false := by decide

/-- Words that break a field rule decode to nothing: a nonzero F, a reserved EW, REP without its enable, and a queue code
out of range (R327, R329, R334). -/
theorem test_decode_refuses :
    (∀ i, decode (fR 0x10 3 1 2 1) ≠ .ok i) ∧ (∀ i, decode (fQ 0x40 0 4 0 5 0) ≠ .ok i) ∧
    (∀ i, decode (fV 0x51 3 1 2 2 1 1) ≠ .ok i) ∧ (∀ i, decode (fV 0x51 3 48 2 2 4 1) ≠ .ok i) ∧
    (∀ i, decode 0 ≠ .ok i) := by
  refine ⟨fun i h => ?_, fun i h => ?_, fun i h => ?_, fun i h => ?_, fun i h => ?_⟩ <;> revert h
  · rw [show decode (fR 0x10 3 1 2 1) = .error (.reservedField 16) by decide]; exact nofun
  · rw [show decode (fQ 0x40 0 4 0 5 0) = .error (.reservedField 64) by decide]; exact nofun
  · rw [show decode (fV 0x51 3 1 2 2 1 1) = .error (.reservedField 81) by decide]; exact nofun
  · rw [show decode (fV 0x51 3 48 2 2 4 1) = .error (.reservedField 81) by decide]; exact nofun
  · rw [show decode 0 = .error .zeroWord by decide]; exact nofun

/-! ## Small states -/

/-- What an event leaves of a state. -/
def ends0 {α : Type} (i : Instr) (s : State) (f : State → α) : Option α :=
  match exec i s with | .next t => some (f t) | _ => none

/-- A task whose A-stream stands at a NOP, right after reset (log 112). -/
def tA : State := State.reset.withFetchWord 32 0x01000000
/-- The same with the X-stream at VADD v0, v0, v0. -/
def tX : State := State.reset.withFetchWord 32 0x51000000
/-- The state with scalar registers of the issuing stream set. -/
def withRegs (s : State) (regs : SMap Word) : State := s.setCur { s.cur with regs := regs }
/-- A leaf of a 64 KiB page at physical 0x10000: V, R, W, U, A, D, LFMT FP32 (R154). -/
def leaf1 : Nat := 4 * 2 ^ 26 + 8 * 2 ^ 12 + 0xD7
/-- The state with the page 0x10000 mapped and its first two lines held in the L2, the first VALID, the second UNINIT. -/
def mapped (s : State) : State :=
  { s with
    tlb := [⟨0, some 0, 0, 3, 1, leaf1, 0⟩]
    dir := [(1024, ⟨[], [], true, false, 0, some (0, false)⟩), (1025, ⟨[], [], true, false, 0, some (0, false)⟩)]
    side := [(1024, ⟨0x08#32, .fresh 0 0 0#128⟩)]
    mem := [(0x10000, 0x80#8), (0x1003F, 0x7F#8)] }
/-- A-stream, page mapped, x1 at its start, x2 with 5. -/
def tM : State := mapped (withRegs tA [(1, 0x10000#64), (2, 5#64)])
/-- Where x1 of `tM` goes. -/
def x1M : Xlat := ⟨leaf1, 3, 0x10000, 0x10000⟩

/-! ## What the hypotheses of the statements ask for: encoding and steps -/

theorem test_hyp_DecodeOfEncode : Instr.isWord (.vfill 7 63 3 0) = true ∧ Instr.wellFormed (.vfill 7 63 3 0) = true ∧
    Instr.isWord (.vfill 7 63 4 0) = true ∧ Instr.wellFormed (.vfill 7 63 4 0) = false := by decide

theorem test_hyp_StepRunsDecoded : needsOwed (tA.at ⟨0, 0, 0⟩ false) .nop = false ∧ tA.agenda = [] ∧ choices tA = [.issue ⟨0, 0, 0⟩ false] ∧
    (tA.at ⟨0, 0, 0⟩ false).word? = some 0x01000000#32 ∧ decode 0x01000000#32 = .ok .nop ∧
    tA.hostReads = [] ∧
    (tA.at ⟨0, 0, 0⟩ false).h.sfrq = [] ∧ ∀ st ∈ (tA.at ⟨0, 0, 0⟩ false).h.stores, st.past < 16 := by decide

theorem test_hyp_StepRunsDecoded_x : tX.agenda = [] ∧ choices tX = [.issue ⟨0, 0, 0⟩ true] ∧
    (tX.at ⟨0, 0, 0⟩ true).word? = some 0x51000000#32 ∧ decode 0x51000000#32 = .ok (.vadd 0 0 0 0 0 0) ∧
    needsOwed (tX.at ⟨0, 0, 0⟩ true) (.vadd 0 0 0 0 0 0) = false := by decide

/-- An X-stream at ADD x3, x5, x5 with a VADD in the VIQ that waits for q0, and an MPOPC into x5 behind it. -/
def tOw : State :=
  let e := fun (i : Instr) => viqEntry tX i 0 0
  { tX with h := { tX.h with x := fetchStream (fR 0x10 3 5 5 0), xl := [e (.vadd 0 32 0 0 0 0), e (.mpopc 5 1)] } }

theorem test_hyp_StepWaits : tOw.agenda = [] ∧ tOw.hostReads = [] ∧ dueActs tOw = [] ∧
    openActs tOw = [.admission ⟨0, 0, 0⟩, .issue ⟨0, 0, 0⟩ true] ∧ (queueUp tOw.line (openActs tOw)).length = 2 ∧
    (tOw.at ⟨0, 0, 0⟩ true).word? = some (fR 0x10 3 5 5 0) ∧ decode (fR 0x10 3 5 5 0) = .ok (.add 3 5 5) ∧
    needsOwed (tOw.at ⟨0, 0, 0⟩ true) (.add 3 5 5) = true := by decide +kernel

theorem test_hyp_StepTakesEvent : ({ tA with agenda := [.bootStep] } : State).agenda = .bootStep :: [] ∧
    (∀ j ∈ [Instr.claim .a, .hostCounterAdd .a 0 1], goesBefore j .bootStep = false) ∧
    counterRank (.hostCounterAdd .b 0 1) = some 1 ∧ counterRank (.hostCounterRead .a 0) = some 0 ∧
    counterRank (.peerRequest 0 (.counterRead 0)) = some 2 ∧
    (∀ j ∈ [Instr.hostCounterAdd .a 1 1, .peerRequest 0 (.readLine 0)], goesBefore j (.hostCounterRead .a 0) = false) ∧
    leaseHost (.claim .b) = some .b ∧ leaseHost (.renew .a) = some .a ∧
    readFirst { tA with agenda := [.peerRequest 0 (.counterRead 0)], hostReads := [(.b, 0x20018, 8)] }
      (.peerRequest 0 (.counterRead 0)) = true ∧
    readFirst { tA with agenda := [.bootStep], hostReads := [(.b, 0x20018, 8)] } .bootStep = false ∧
    counterRank (.cfgwinWrite .a 0x108 8 2) = none ∧ counterRank (.cfgwinWrite .a 0x24000 8 2) = none ∧
    counterRank (.flitReceive 0 ⟨true, false, [.request 5 (.counterRead 0)]⟩) = some 7 ∧
    ({ tA with hostReads := [(.a, 0x818, 8)] } : State).agenda = [] ∧
    ({ tA with hostReads := [(.a, 0x818, 8)] } : State).hostReads = (.a, 0x818, 8) :: [] := by decide

theorem test_hyp_RefusedWordsTrap :
    let s := State.reset.withFetchWord 32 0x02FC0000
    s.agenda = [] ∧ choices s = [.issue ⟨0, 0, 0⟩ false] ∧ (s.at ⟨0, 0, 0⟩ false).word? = some 0x02FC0000#32 ∧
    decode 0x02FC0000#32 = .error (.reservedField 2) ∧ (s.at ⟨0, 0, 0⟩ false).h.sfrq = [] ∧
    s.hostReads = [] ∧ (∀ st ∈ (s.at ⟨0, 0, 0⟩ false).h.stores, st.past < 16) ∧ s.onX = false := by decide

theorem test_hyp_RefusedWordsTrap_bounds :
    (0x72000000#32).toNat / 2 ^ 24 = 0x72 ∧ (0x8FFFFFFF#32).toNat / 2 ^ 24 = 0x8F ∧ (0xFF000000#32).toNat / 2 ^ 24 = 0xFF ∧
    tX.h.unadmitted = false := by decide

theorem test_hyp_StepKeepsMemoryCanonical : tM.canon ∧ ∃ t, step tM = .next t :=
  ⟨⟨by decide, by decide⟩, ⟨_, rfl⟩⟩

theorem test_hyp_ReadAfterWrite : Memory.wf tM.mem ∧ SMap.wf 0 tM.cur.regs = true ∧ (3 : Nat) < 4 ∧ (63 : Nat) ≠ 0 := by decide

/-! ## Control -/

theorem test_hyp_OneStageSequence :
    let t : Stream := { tA.h.a with blk := ⟨0x10000, [0x01000000, 0x01000000], 1, [], 0xFF800002#32⟩, n := 2, last := 2 }
    t.blk.stages = 1 ∧ t.blk.bounds = [] ∧ t.k + t.trip < t.last ∧ t.last = t.n ∧ 0 + 1 < t.blk.body.length ∧
    1 + 1 = t.blk.body.length ∧ t.k + t.trip + 1 < t.last ∧
    ({ t with trip := 1 } : Stream).k + 1 + 1 = t.last := by decide

theorem test_hyp_NopAndStep : AtWord tA 0 ∧ tA.onX = false ∧ tA.h.wdraw = false ∧ tA.strips = 0 ∧ AtWord tX 0 ∧
    ({ tA with h := { tA.h with th := true, wdraw := true } } : State).h.th = true := ⟨rfl, rfl, rfl, rfl, rfl, rfl⟩

theorem test_hyp_Fences : ReadyA tA 0 := ⟨rfl, rfl, rfl, rfl, rfl⟩

theorem test_hyp_TagRead : ReadyA tM 0 ∧ Hits tM (tM.reg 1 + (0#12).signExtend 64) .read x1M ∧ Held tM x1M.pa :=
  ⟨⟨rfl, rfl, rfl, rfl, rfl⟩, rfl, by unfold Held; decide⟩

theorem test_hyp_PrefDropped : tA.onX = false ∧ tA.h.a.pos = .word 0 ∧
    ∃ e s1, tA.reachH (tA.reg 1 + (0#12).signExtend 64) .read = (.error e, s1) ∧ AtWord s1 0 :=
  ⟨rfl, rfl, _, _, rfl, rfl⟩

/-- The target of the branches below: the header of the block in the loop buffer. -/
def tB : State := withRegs tA [(1, 0x10000#64), (2, 5#64), (3, 5#64), (4, -1#64)]

theorem test_hyp_BranchesTaken : Reaches tB 0x10000#64 tB ∧ tB.cur.pc + 4 * (0x3FFFF#18).signExtend 64 = 0x10000#64 ∧
    tB.reg 1 = 0x10000#64 ∧ tB.reg 2 = tB.reg 3 ∧ tB.reg 1 ≠ tB.reg 2 ∧ (tB.reg 4).toInt < (tB.reg 2).toInt ∧
    (tB.reg 2).toInt ≤ (tB.reg 3).toInt ∧ (tB.reg 2).toNat < (tB.reg 4).toNat ∧ (tB.reg 3).toNat ≤ (tB.reg 2).toNat :=
  ⟨⟨by decide, .inl ⟨rfl, rfl, rfl⟩⟩, by decide, rfl, rfl, by decide, by decide, by decide, by decide, by decide⟩

/-- A header in the first line of the page, in place of the block in the buffer. -/
def tF : State :=
  { tM with mem := [(0x10003, 0xFF#8)], tlb := [⟨0, some 0, 0, 3, 1, leaf1 + 8, 0⟩]
            h := { tM.h with a := { tM.h.a with blk := { tM.h.a.blk with hdr := 0x20000 } } } }

theorem test_hyp_BranchesTaken_fetch : ∃ s1, Reaches tF 0x10000#64 s1 ∧ s1.cur.blk = tF.cur.blk ∧ tF.canWrite = true ∧
    tF.cur.blk.stages = 1 ∧ tF.reg 1 = 0x10000#64 :=
  ⟨(fetchAt tF 0x10000#64).2, ⟨by decide, .inr ⟨by decide, 0xFF000000#32, rfl, by decide⟩⟩, rfl, by decide, rfl, rfl⟩

theorem test_hyp_BranchesNotTaken : AtWord tB 0 ∧ tB.reg 1 ≠ tB.reg 2 ∧ tB.reg 2 = tB.reg 3 ∧
    (tB.reg 3).toInt ≤ (tB.reg 2).toInt ∧ (tB.reg 4).toInt < (tB.reg 2).toInt ∧ (tB.reg 2).toNat ≤ (tB.reg 4).toNat ∧
    (tB.reg 2).toNat < (tB.reg 4).toNat := ⟨rfl, by decide, rfl, by decide, by decide, by decide, by decide⟩

theorem test_hyp_MisalignedTarget : tB.onX = false ∧ tB.canWrite = true ∧ (tB.reg 2).toNat % 4 ≠ 0 ∧
    let s := { tB with h := { tB.h with a := { tB.h.a with blk := { tB.h.a.blk with hdr := 2 } } } }
    s.canWrite = true ∧ (s.cur.pc + 4 * (1#18).signExtend 64).toNat % 4 ≠ 0 := by decide

/-- The state with launch 0 attached by a debug handle (R316). -/
def tD (s : State) : State := { s with dbg := { s.dbg with bpc := [(3, 0x0000100000000001#64)] } }

theorem test_hyp_BrkTraps : AtWord tA 0 ∧ tA.h.stores = [] ∧ AtWord tX 0 ∧ tX.h.unadmitted = false := ⟨rfl, rfl, rfl, by decide⟩

theorem test_hyp_BkptPast : ∃ s : State, ReadyA s 0 ∧ s.h.a.stepPast = true :=
  ⟨{ tA with h := { tA.h with a := { tA.h.a with stepPast := true } } }, ⟨rfl, rfl, rfl, rfl, rfl⟩, rfl⟩

theorem test_hyp_Bkpt : ReadyA tA 0 ∧ tA.h.launch = some 0 ∧ attached tA 0 = false ∧ attached (tD tA) 0 = true ∧
    (tD tA).h.a.stepPast = false ∧ ((tD tA).entry 0).frozen = false ∧
    ({ tA with h := { tA.h with launch := none } } : State).h.launch = none :=
  ⟨⟨rfl, rfl, rfl, rfl, rfl⟩, rfl, by decide, by decide, rfl, rfl, rfl⟩

theorem test_hyp_StartAndExit : tX.onX = true ∧ tX.h.unadmitted = false ∧ ReadyA tA 0 ∧ tA.engineBusy = false ∧
    tA.h.x.st = .idle ∧ tA.h.launch ≠ none ∧ tA.rest ≠ [] ∧ tA.h.id ∉ tA.rest.map (fun h => h.id) ∧ tA.h.th = false ∧
    ({ tA with h := { tA.h with launch := none, th := true } } : State).h.launch = none :=
  ⟨rfl, by decide, ⟨rfl, rfl, rfl, rfl, rfl⟩, by decide, rfl, by decide, by decide, by decide, rfl, rfl⟩

/-! ## Scalar instructions and memory -/

theorem test_hyp_ScalarForms : tB.cur.pos = .word 0 ∧ tB.canWrite = true ∧ tX.cur.pos = .word 0 ∧ tX.canWrite = true ∧ tB.reg 0 = 0 ∧
    (fR 0x10 3 1 2 63).toNat / 2 ^ 24 = 0x10 ∧ (fR 0x26 3 1 2 1).toNat % 64 ≠ 0 ∧
    (fI 0x2D 5 5 0x0C3).toNat / 2 ^ 6 % 4 = 3 ∧ (fI 0x2D 5 5 0x103).toNat / 2 ^ 8 % 16 ≠ 0 := by decide

/-- The first byte of the page, and the last byte of its first line with the first of the second. -/
theorem test_hyp_ScalarLoads : ReadyA tM 0 ∧ LoadsAs tM 0x10000#64 1 0x80 ∧ LoadsAs tM 0x1003F#64 1 0x7F ∧
    LoadsAs tM 0x10000#64 2 0x80 ∧ LoadsAs tM 0x1003F#64 2 0x7F ∧ LoadsAs tM 0x1003C#64 4 0x7F000000 ∧
    LoadsAs tM 0x1003D#64 4 0x7F0000 ∧ LoadsAs tM 0x10038#64 8 0x7F00000000000000 ∧
    LoadsAs tM 0x10039#64 8 0x7F000000000000 := by
  have p : ∀ va x, Hits tM va .read x → x.ratio = 1 → Held tM x.pa → vcBad (tagVc (sideOf tM x.pa).tag) = false →
    Plain tM va .read x := fun _ _ h1 h2 h3 h4 => ⟨h1, h2, h3, h4⟩
  have h : ∀ pa, regionOf tM pa = .hbm → cached (dirOf tM pa) = true → Held tM pa := fun _ h1 h2 => ⟨h1, h2⟩
  refine ⟨⟨rfl, rfl, rfl, rfl, rfl⟩, ?_, ?_, ?_, ?_, ?_, ?_, ?_, ?_⟩
  · exact .inl ⟨by decide, ⟨leaf1, 3, 0x10000, 0x10000⟩, p _ _ rfl rfl (h _ rfl rfl) rfl, rfl⟩
  · exact .inl ⟨by decide, ⟨leaf1, 3, 0x1003F, 0x1003F⟩, p _ _ rfl rfl (h _ rfl rfl) rfl, rfl⟩
  · exact .inl ⟨by decide, ⟨leaf1, 3, 0x10000, 0x10000⟩, p _ _ rfl rfl (h _ rfl rfl) rfl, rfl⟩
  · exact .inr ⟨by decide, ⟨leaf1, 3, 0x1003F, 0x1003F⟩, ⟨leaf1, 3, 0x10040, 0x10040⟩, p _ _ rfl rfl (h _ rfl rfl) rfl,
      p _ _ rfl rfl (h _ rfl rfl) rfl, rfl⟩
  · exact .inl ⟨by decide, ⟨leaf1, 3, 0x1003C, 0x1003C⟩, p _ _ rfl rfl (h _ rfl rfl) rfl, rfl⟩
  · exact .inr ⟨by decide, ⟨leaf1, 3, 0x1003D, 0x1003D⟩, ⟨leaf1, 3, 0x10040, 0x10040⟩, p _ _ rfl rfl (h _ rfl rfl) rfl,
      p _ _ rfl rfl (h _ rfl rfl) rfl, rfl⟩
  · exact .inl ⟨by decide, ⟨leaf1, 3, 0x10038, 0x10038⟩, p _ _ rfl rfl (h _ rfl rfl) rfl, rfl⟩
  · exact .inr ⟨by decide, ⟨leaf1, 3, 0x10039, 0x10039⟩, ⟨leaf1, 3, 0x10040, 0x10040⟩, p _ _ rfl rfl (h _ rfl rfl) rfl,
      p _ _ rfl rfl (h _ rfl rfl) rfl, rfl⟩

theorem test_hyp_ScalarStoresIssue : tM.onX = false ∧ tM.h.a.pos = .word 0 ∧ tM.h.loads = [] ∧ tM.logFull tM.h = false ∧
    tM.h.stores.length < 16 ∧ fmtDefined ((tM.reg 2).toNat % 32) = true ∧ fmtDefined ((tM.reg 0).toNat % 32) = true ∧
    (let s := withRegs tA [(2, 7#64)]
     fmtDefined ((s.reg 2).toNat % 32) = false ∧ fmtDefined (31 % 32) = false) := by decide

/-- An unresolved store of four bytes at an address. -/
def oneStore (va : Word) : PStore := ⟨2, va, 0x10004#64, 0x11223344#64, 32, 1, none, none, 0, 0, BitVec.allOnes 64, 0, 0⟩
/-- The mapped state with that store unresolved. -/
def tS (va : Word) : State := { tM with h := { tM.h with stores := [oneStore va] } }

/-- A store to the second line while one to the first is unresolved; and the first one is the next to be resolved. -/
theorem test_hyp_StoreBehindStore : (tS 0x10000#64).h.stores.length < 16 ∧
    readyStores (tS 0x1003C#64) = [0] ∧ readyStores (tS 0x10000#64) = [0] := by decide

/-- The same with the page read-only. -/
def tR : State := { tS 0x1003C#64 with tlb := [⟨0, some 0, 0, 3, 1, leaf1 - 4, 0⟩] }

theorem test_hyp_StoreFaults : tR.onX = false ∧ tR.cfg.cont = false ∧ tR.h.parking = 0 ∧
    tR.h.stores = oneStore 0x1003C#64 :: [] ∧ (oneStore 0x1003C#64).kind = 2 ∧
    (oneStore 0x1003C#64).base.toNat % 64 + 2 ^ 2 ≤ 64 ∧ guarded tR 0x1003C#64 = false ∧ readyStores tR = [0] ∧
    tR.reachH 0x1003C#64 .write = (.error ⟨causePERMISSION, 0, 0x1003C#64⟩, tR) ∧
    ({ tM with h := { tM.h with sfrq := [⟨oneStore 0, 0, 7, 0, 1, 1⟩] } } : State).h.sfrq ≠ [] ∧ tM.h.a.begun = false :=
  ⟨rfl, rfl, rfl, rfl, rfl, by decide, by decide, by decide, rfl, by decide, rfl⟩

/-- The last four bytes of the first line, and the first four of it. -/
theorem test_hyp_StoreResolves : ∀ va ∈ [0x1003C#64, 0x10000#64], (tS va).canon ∧ (tS va).onX = false ∧
    (tS va).cfg.cont = false ∧ (tS va).h.parking = 0 ∧ (tS va).h.stores = oneStore va :: [] ∧ (oneStore va).kind = 2 ∧
    (oneStore va).base.toNat % 64 + 2 ^ 2 ≤ 64 ∧ guarded (tS va) va = false ∧
    ∃ x, Plain (tS va) va .write x ∧
      (let rd := readLine (tS va) x.pa (pteKEY x.leaf) (pteLFMT x.leaf) (tS va).h.who (tS va).h.noL1
       logIfHome rd.2 ((tS va).h.logWho 0) x va rd.1 = rd.2) := by
  intro va hva
  simp only [List.mem_cons, List.not_mem_nil, or_false] at hva
  rcases hva with rfl | rfl
  · exact ⟨⟨by decide, by decide⟩, rfl, rfl, rfl, rfl, rfl, by decide, by decide, ⟨leaf1, 3, 0x1003C, 0x1003C⟩,
      ⟨rfl, rfl, ⟨rfl, rfl⟩, rfl⟩, rfl⟩
  · exact ⟨⟨by decide, by decide⟩, rfl, rfl, rfl, rfl, rfl, by decide, by decide, ⟨leaf1, 3, 0x10000, 0x10000⟩,
      ⟨rfl, rfl, ⟨rfl, rfl⟩, rfl⟩, rfl⟩

/-- The state with a scratchpad of 32 KiB. -/
def tL (off : Word) : State := { withRegs tA [(1, off), (2, 5#64)] with h := { (withRegs tA [(1, off), (2, 5#64)]).h with lsplit := 1 } }

theorem test_hyp_ScratchpadScalars : ReadyA (tL 0x7FF8#64) 0 ∧ (tL 0x7FF8#64).h.spCanon ∧
    ((tL 0x7FF8#64).reg 1).toNat + 8 ≤ (tL 0x7FF8#64).h.share ∧ (tL 0x7FF8#64).h.share < ((tL 0x7FF9#64).reg 1).toNat + 8 ∧
    (∀ k, k < 8 → vcBad (tagVc ((tL 0x7FF8#64).h.spTagAt (0x7FF8 + k))) = false) ∧
    (∀ k, k < 8 → vcBad (tagVc ((tL 60#64).h.spTagAt (60 + k))) = false) :=
  ⟨⟨rfl, rfl, rfl, rfl, rfl⟩, ⟨rfl, rfl⟩, by decide, by decide, by decide, by decide⟩

theorem test_hyp_StepKeepsScratchpads : (∀ h ∈ tA.harts, SMap.wf 0#8 h.sp = true ∧ SMap.wf h.spDef h.spTag = true) ∧
    ∃ t, step tA = .next t := ⟨by decide, ⟨_, rfl⟩⟩

theorem ex_fst {α β : Type} {p : α × β} {b : β} (h : p.2 = b) : ∃ a, p = (a, b) := ⟨p.1, by rw [← h]⟩
/-- The effect is done with the pops given. -/
def isDone (x : XRes) (pops : List (Nat × Nat)) : Bool := match x with | .done _ p [] => p == pops | _ => false
theorem done_of {x : XRes} {pops : List (Nat × Nat)} (h : isDone x pops = true) : ∃ h1, x = .done h1 pops [] := by
  unfold isDone at h
  split at h
  · simp at h; exact ⟨_, by rw [h]⟩
  · cases h

/-! ## Vector memory and queues -/

/-- The mapped state with vl_A at 2 and a register in q6 and in q7: INT32 indices 0 and 1, and FP32 data. -/
def intReg : VReg := ⟨0x100000000#16384, 4, .valid, 0, []⟩
def fpReg : VReg := ⟨0x40000000_3F800000#16384, 8, .valid, 0, []⟩
def tQ : State :=
  { tM with h := { tM.h with
      a := { tM.h.a with vl := 2 }
      dq := [(6, ⟨0, [⟨intReg, false, 0, 0⟩], 0, 0⟩), (7, ⟨0, [⟨fpReg, false, 0, 0⟩], 0, 0⟩)] } }

theorem test_hyp_VectorLoadsIssue : ReadyA tQ 0 ∧ tQ.h.th = false ∧ tQ.h.refill = none ∧
    (tQ.h.queue 5).entries.length < 8 ∧ 8 * (tQ.reg 1).toNat % (4 * 2 ^ 3) = 0 ∧ 8 * (tQ.reg 0).toNat % (4 * 2 ^ 4) = 0 ∧
    fmtDefined 8 = true ∧
    (∀ o ∈ [loadOp (.vldUnit 5 1 3) 5 1 0 3 .unit false tQ, loadOp (.vldStrided 5 1 0 3) 5 1 0 3 .strided false tQ,
        loadOp (.vldExplicit 5 1 8 3) 5 1 0 3 (.explicit 8) false tQ, loadOp (.vldffUnit 5 1 3) 5 1 0 3 .unit true tQ,
        loadOp (.vldffStrided 5 1 0 3) 5 1 0 3 .strided true tQ],
      let held := { tQ with h := reserveEntry 5 0 false none (o.poisons tQ) tQ.h }
      qTail (tQ.h.queue 5).head (tQ.h.queue 5).entries.length = 0 ∧
        ∃ oks, reachElems .read o.ew (loadEls (pendingLoad o 0 none tQ.h.a)) held = (oks, [], held)) := by
  refine ⟨⟨rfl, rfl, rfl, rfl, rfl⟩, rfl, rfl, by decide, by decide, by decide, by decide, ?_⟩
  intro o ho
  simp only [List.mem_cons, List.not_mem_nil, or_false] at ho
  rcases ho with rfl | rfl | rfl | rfl | rfl <;> exact ⟨by decide +kernel, ex_fst (by decide +kernel)⟩

theorem test_hyp_Gather : headEntry tQ.h (6 + 0) = some intReg ∧ indexCause intReg = none ∧
    (let o : LoadOp := { gatherOp 5 1 0 3 0 tQ with n := Nat.min (gatherOp 5 1 0 3 0 tQ).n (regCount tQ.h intReg) }
     let held := { tQ with h := reserveEntry 5 0 false (some intReg) tQ.h.a.vfmt (popEntry 6 tQ.h) }
     ∃ oks, reachElems .read o.ew (loadEls (pendingLoad o 0 (some intReg) tQ.h.a)) held = (oks, [], held)) :=
  ⟨by decide +kernel, by decide +kernel, ex_fst (by decide +kernel)⟩

/-- The state after a VLD of two elements has issued, with a line of its element size and with a RAW one. -/
def tP (tag : BitVec 32) : State :=
  match exec (.vldUnit 5 1 3) { tQ with side := [(1024, ⟨tag, .fresh 0 0 0#128⟩)] } with
  | .next t => t
  | _ => tQ

theorem test_hyp_LoadsArrive : (tP 0x08#32).cfg.cont = false ∧ (tP 0x08#32).h.parking = 0 ∧ (tP 0x08#32).onX = false ∧
    (tP 0x08#32).h.loads.map (fun p => p.got) = [none] ∧ (arriveAt (tP 0x08#32) 0 false).1 = none ∧ (arriveOne (tP 0x08#32)).1 = none ∧
    ((arriveOne { tP 0x08#32 with side := [(1024, ⟨0x00#32, .fresh 0 0 0#128⟩)] }).1).isSome = true := by decide +kernel

theorem test_hyp_LoadFills : ((tP 0x08#32).h.loads.map fun p => (p.got, p.ff, p.ew, p.named, p.els.map fun e => e.1)) =
      [(none, false, 32, none, [0, 1])] ∧
    ((tP 0x08#32).h.loads.all fun p => p.els.all fun e =>
      let s := tP 0x08#32
      let tag := (sideOf s e.2.2.pa).tag
      decide (e.1 < elemsIn s.h.bits 8 ∧ e.2.2.ratio = 1 ∧ regionOf s e.2.2.pa = .hbm ∧ cached (dirOf s e.2.2.pa) = true ∧
        tagVc tag = .valid ∧ tagFmt tag = 8 ∧ tagHrot tag = 0)) = true ∧
    fmtDefined 8 = true ∧ fmtScaled 8 = false ∧ elemSize 8 = 32 ∧ [0, 1].Nodup := by decide +kernel

/-- R124, R374: the entry filled holds the two words of memory. -/
theorem test_load_fills : (match exec (.vectorLoadArrival ⟨0, 0, 0⟩) (tP 0x08#32) with
    | .next t => (t.h.queue 5).entries.map (fun e => (e.pending, e.reg.vc, regCode e.reg 0, regCode e.reg 1))
    | _ => []) = [(false, .valid, 0x80, 0)] := by decide +kernel

/-- A VADD in the VIQ that waits for q0, and one that has been admitted. -/
def tV : State := match exec (.vadd 0 32 0 0 0 0) tX with | .next t => t | _ => tX
def tV2 : State := match exec (.vadd 0 0 0 0 0 0) tX with | .next t => t | _ => tX

theorem test_hyp_Retire : tV2.cfg.cont = false ∧ tV2.h.parking = 0 ∧ tV2.h.xl.map (fun e => e.admitted) = [true] ∧
    serving tA = true := by decide +kernel

/-- The first with its operand arrived. -/
def tV3 : State := { tV with onX := false, h := { tV.h with dq := [(0, ⟨0, [⟨fpReg, false, 0, 0⟩], 0, 0⟩)] } }

theorem test_hyp_Admit : tV3.h.xl.map (fun e => e.admitted) = [false] ∧
    (tV3.h.xl.all fun e => match e.op with | some op => isDone (xEffect op tV3.h) [(0, 1)] | none => false) = true := by
  decide +kernel

theorem test_hyp_VectorStoresIssue : tQ.logFull tQ.h = false ∧ headEntry tQ.h 7 = some fpReg ∧
    headEntry tQ.h (13 - 7) = some intReg ∧ indexCause intReg = none ∧ 8 * (tQ.reg 1).toNat % (4 * 2 ^ 3) = 0 := by decide +kernel

/-- The state with a store of two FP32 elements or a scatter of them unresolved, the first at the last word of a VALID line. -/
def vStore (kind : Nat) (idx : Option VReg) : PStore :=
  ⟨kind, 0x1003C, 0x10004, 4, 32, 2, some fpReg, idx, maskOnes true, 0, 0, 0, 0⟩
def tVs (p : PStore) : State := { tM with h := { tM.h with launch := none, stores := [p] } }

theorem test_hyp_VectorStoreResolves : ∀ p ∈ [vStore 4 none, vStore 5 none, vStore 6 (some intReg)],
    (tVs p).canon ∧ (tVs p).onX = false ∧ (tVs p).cfg.cont = false ∧ (tVs p).h.parking = 0 ∧ p.kind ∈ [4, 5, 6] ∧
    (tVs p).h.logWho 1 = none ∧ fpReg.vc = .valid ∧ fpReg.hrot = 0 ∧ fpReg.fmt.toNat = 8 ∧ fmtScaled 8 = false ∧
    elemSize 8 = 32 ∧ (∀ e ∈ storeEls p, guarded (tVs p) (BitVec.ofNat 64 (e.2 / 8)) = false) ∧
    (let r := reachElems .write 32 (storeEls p) (tVs p)
     r.2 = ([], tVs p) ∧ r.1.length = 2 ∧ ∀ e ∈ r.1, e.x.ratio = 1 ∧ regionOf (tVs p) e.x.pa = .hbm ∧
       cached (dirOf (tVs p) e.x.pa) = true ∧ pteDPOL e.x.leaf = false ∧
       (tagVc (sideOf (tVs p) e.x.pa).tag = .uninit ∨
         tagVc (sideOf (tVs p) e.x.pa).tag = .valid ∧ tagFmt (sideOf (tVs p) e.x.pa).tag = 8)) := by
  intro p hp
  simp only [List.mem_cons, List.not_mem_nil, or_false] at hp
  rcases hp with rfl | rfl | rfl <;>
    exact ⟨⟨by decide, by decide⟩, rfl, rfl, rfl, by decide, rfl, rfl, rfl, rfl, rfl, rfl, by decide +kernel, by decide +kernel⟩

/-- R377, R378: each form writes 1.0 and 2.0 to the two words; the words beside them stay. -/
theorem test_vector_store : ∀ p ∈ [vStore 4 none, vStore 5 none, vStore 6 (some intReg)],
    ends0 (.storeResolve ⟨0, 0, 0⟩) (tVs p) (fun t => (t.seenWord 0x1003C 8, t.seenWord 0x10000 4, t.seenWord 0x10044 4)) =
      some (0x40000000_3F800000, 0x80, 0) := by decide +kernel

/-- The state at an offset with a scratchpad of 32 KiB and data in q7. -/
def tL2 (off : Word) : State :=
  { tL off with h := { (tL off).h with a := { (tL off).h.a with vl := 2 }, dq := [(7, ⟨0, [⟨fpReg, false, 0, 0⟩], 0, 0⟩)] } }

theorem test_hyp_ScratchpadVectors : ReadyA (tL2 64#64) 0 ∧ (tL2 64#64).h.th = false ∧ (tL2 64#64).h.refill = none ∧
    (let s := tL2 64#64
     let got := spGot s.h 32 (spEls 64#64 32 2)
     8 * (s.reg 1).toNat % 32 = 0 ∧ (s.reg 1).toNat + (32 * 2 + 7) / 8 ≤ s.h.share ∧
     tagCause 32 (entryFmt none s.h.a.vfmt.toNat got) (entryHrot got) got = none ∧ elemSize fpReg.fmt.toNat = 32) :=
  ⟨⟨rfl, rfl, rfl, rfl, rfl⟩, rfl, rfl, by decide +kernel⟩

/-- With vl 0, with one element up to the end of the share, and a form that its queue does not take. -/
theorem test_hyp_ScratchpadVectors_bounds : (Instr.vldl 5 1 3).wellFormed = true ∧ (Instr.vstl 7 1 3).wellFormed = true ∧
    (Instr.vldl 7 1 3).wellFormed = false ∧ ((tL2 64#64).h.queue 5).entries.length < 8 ∧
    headEntry (tL2 64#64).h 7 = some fpReg ∧ (tL2 0x7FF8#64).h.share = 0x7FF8 + (32 * 2 + 7) / 8 ∧
    Nat.min (tL 64#64).h.a.vl.toNat ((tL 64#64).h.bits / 32) = 0 := by decide +kernel

theorem test_hyp_ScratchpadStore : (match spStoreLines fpReg 32 (memRm (popEntry 7 (tL2 64#64).h).rm) (spEls 64#64 32 2)
      (((spEls 64#64 32 2).map fun e => e.2 / 512).dedup) (popEntry 7 (tL2 64#64).h) with
    | .ok h1 => decide (h1.a = (tL2 64#64).h.a ∧ h1.loads = [] ∧ h1.req = (tL2 64#64).h.req)
    | .error _ => false) = true := by decide +kernel

theorem test_hyp_SpillAndFill : (tL 0#64).h.x.st = .idle ∧ (tL 0#64).h.aprog = 0 ∧ 31 + (4 * 0 + 0 + 1) ≤ 32 ∧
    ((tL 0#64).reg 1).toNat % 64 = 0 ∧ ((tL 0#64).reg 1).toNat + 1 * (64 * slotLines (tL 0#64).h) ≤ (tL 0#64).h.share ∧
    SMap.wf 0#8 (tL 0#64).h.sp = true ∧ SMap.wf (tL 0#64).h.spDef (tL 0#64).h.spTag = true ∧
    SMap.wf VReg.reset (tL 0#64).h.v = true := by
  decide

theorem test_hyp_QueuesBlock :
    let full : DQueue := ⟨0, List.replicate 8 ⟨VReg.reset, false, 0, 0⟩, 0, 0⟩
    let s := { tM with h := { tM.h with dq := [(5, full)], qx := ⟨0, List.replicate 16 1, 0, 0⟩ } }
    8 ≤ (s.h.queue 5).entries.length ∧ (s.h.queue 6).entries = [] ∧ 16 ≤ s.h.qx.entries.length ∧ s.h.qa.entries = [] ∧
    8 * (s.reg 1).toNat % (4 * 2 ^ 3) = 0 := by decide

theorem test_hyp_HandlersUseNoQueue : ({ tA with h := { tA.h with th := true } } : State).h.th = true ∧ tA.onX = false := by decide

theorem test_hyp_QueueInstructions : (5#3).toNat ≤ 5 ∧ 6 ≤ (6#3).toNat ∧
    (tQ.h.queue 5).entries.length < qCapacity 5 ∧ headEntry tQ.h 7 = some fpReg ∧ headEntry tQ.h 6 = some intReg ∧
    tQ.h.qx.entries.length < 16 ∧
    (let s := { tM with h := { tM.h with qa := ⟨3, [9#64], 0, 0⟩ } }
     s.h.qa.entries = 9#64 :: [] ∧ s.h.qa.unseen < s.h.qa.entries.length) ∧ ReadyX tX 0 ∧ tX.h.qa.unseen = 0 ∧
    (let s := { tX with h := { tX.h with qx := ⟨3, [9#64], 0, 0⟩ } }
     s.h.qx.entries = 9#64 :: [] ∧ s.h.qx.popped = 0) :=
  ⟨by decide, by decide, by decide, rfl, rfl, by decide, ⟨rfl, by decide⟩, ⟨rfl, rfl, rfl⟩, rfl, rfl, rfl⟩

/-! ## Vector and matrix instructions -/

theorem test_hyp_Vsetl : tX.onX = true ∧ tX.cur.pos = .word 0 ∧ tX.canWrite = true ∧ fmtDefined 0x1E = true ∧
    fmtDefined tX.h.x.vfmt.toNat = true ∧ fmtDefined 7 = false ∧ tX.h.unadmitted = false := by decide

/-- A scratchpad of 32 KiB with one byte written. -/
def withByte (o : Nat) : State :=
  let s := tL 0#64
  { s with h := { s.h with sp := [(o, 7#8)], spTag := [(o / 64, 0x08#32)] } }

theorem test_hyp_Lsplit : tA.h.joined = true ∧ (12#4).toNat ≤ 12 ∧
    ({ tA with h := { tA.h with joined := false } } : State).h.joined = false ∧ 12 < (13#4).toNat ∧
    (tL 0#64).h.share = 32768 ∧ tA.h.spCanon ∧ (∀ c ∈ (withByte 32767).h.sp, c.1 < (withByte 32767).h.share) ∧
    (∀ c ∈ (withByte 32767).h.spTag, 64 * c.1 < (withByte 32767).h.share) ∧ (withByte 32767).h.spCanon ∧
    31 % (32 * 2) < 32 * 1 ∧ ¬ 32 % (32 * 2) < 32 * 1 :=
  ⟨rfl, by decide, rfl, by decide, by decide, ⟨rfl, rfl⟩, by decide, by decide, ⟨by decide, by decide⟩, by decide, by decide⟩

/-- X-stream with v0 to v2 plain FP32 or INT32. -/
def tXr (f : BitVec 5) : State :=
  let r : VReg := ⟨0x40000000_3F800000#16384, f, .valid, 0, []⟩
  { tX with h := { tX.h with v := [(0, r), (1, r), (2, r)], x := { tX.h.x with vl := 2, vfmt := 0x16, regs := [(1, 8#64)] } } }

theorem test_hyp_VectorInstructions : ∀ f ∈ [4#5, 8#5], ReadyX (tXr f) 0 ∧ (tXr f).h.pt = defaultPt ∧
    (tXr f).h.plainReg 1 f.toNat ∧ (tXr f).h.plainReg 2 f.toNat ∧ (tXr f).h.plainReg 0 f.toNat ∧
    fmtScaled (tXr f).h.x.vfmt.toNat = true ∧ fmtDefined (((tXr f).reg 1).toNat % 32) = true ∧
    ((tXr f).h.queue 7).entries.length < 8 ∧ fmtDefined (0x1E#5).toNat = true ∧ (0x1E#5) ≠ 0 := by
  intro f hf
  simp only [List.mem_cons, List.not_mem_nil, or_false] at hf
  rcases hf with rfl | rfl <;>
    exact ⟨⟨rfl, rfl, rfl⟩, rfl, ⟨rfl, rfl, rfl⟩, ⟨rfl, rfl, rfl⟩, ⟨rfl, rfl, rfl⟩, rfl, rfl, by decide, rfl, by decide⟩

theorem test_hyp_VectorQueuePop :
    let s := { tX with h := { tX.h with dq := [(0, ⟨0, [⟨fpReg, false, 0, 0⟩], 0, 0⟩)] } }
    listAt (s.h.queue 0).entries (s.h.queue 0).popped = some ⟨fpReg, false, 0, 0⟩ ∧ fpReg.vc = .valid ∧ fpReg.hrot = 0 := by
  decide +kernel

/-- What VADD v0, v1, v2 does to the state with FP32 registers. -/
def addOp : XOp := ((viqEntry (tXr 8) (.vadd 0 1 2 0 0 0) 0 0).op).getD ⟨.nop, 0, 0, 0, 0, 0, Block.none, 0, 0, 0, 0, 0, [], 0, 0⟩

theorem test_hyp_VectorEffects : ∃ h1, xEffect addOp (queued (tXr 8) (.vadd 0 1 2 0 0 0) 0 0).h = .done h1 [] [] := done_of (by decide +kernel)

theorem test_hyp_Bitwise : fmtDefined 8 = true ∧ fmtScaled 8 = false ∧ SMap.wf VReg.reset (tXr 8).h.v = true ∧
    (1#6).toNat < 32 := by decide +kernel

theorem test_hyp_Int32Elements : (tXr 4).h.plainReg 1 4 ∧ (tXr 4).h.plainReg 2 4 ∧ (tXr 4).h.plainReg 0 4 ∧
    SMap.wf VReg.reset (tXr 4).h.v = true ∧ SMap.wf 0 (tXr 4).h.m = true ∧ (tXr 4).h.pt = defaultPt ∧ (tXr 4).h.newest ∧
    fmtPlainInt 8 = false ∧ fmtDefined addOp.vfmt.toNat = true ∧ beyondInt32 (2 ^ 31) ∧ ¬ beyondInt32 (2 ^ 31 - 1) ∧
    beyondInt32 (-2 ^ 31 - 1) ∧ ¬ beyondInt32 (-2 ^ 31) :=
  ⟨⟨rfl, rfl, rfl⟩, ⟨rfl, rfl, rfl⟩, ⟨rfl, rfl, rfl⟩, by decide +kernel, by decide, rfl, .inl rfl, by decide, by decide +kernel,
    .inr (by decide), by simp [beyondInt32], .inl (by decide), by simp [beyondInt32]⟩

theorem test_hyp_Masks_younger : let y : XEntry := { viqEntry tX (.mpopc 5 1) 0 0 with scalars := [5] }
    y.waiting = true ∧ (5#5).toNat ∈ y.scalars ∧ (viqEntry tX (.mpopc 5 1) 0 0).scalars = [] ∧
    ({ tX.h with xl := [] } : Hart).xl = [] := by decide

theorem test_hyp_Masks : SMap.wf 0 tX.h.m = true ∧ (1#3) ≠ 0 ∧
    (∃ h1, xEffect { addOp with instr := .mnot 1 0 } tX.h = .done h1 [] []) := ⟨rfl, by decide, done_of (by decide +kernel)⟩

/-- Tile 1 as INT32, VALID, with one cell; tile 2 stands as at reset. -/
def tTile : Hart := { (tXr 4).h with tiles := [(1, ⟨[(1, 7)], true, .valid, 0⟩)] }

theorem test_hyp_Tiles : SMap.wf Tile.reset tTile.tiles = true ∧ SMap.wf 0 (tTile.tile 1).cells = true ∧ (tTile.tile 1).vc = .valid ∧
    (tTile.tile 1).int = true ∧ (tTile.tile 1).trot = 0 ∧ (tTile.tile 2).vc = .uninit ∧ tTile.plainReg 1 4 ∧
    SMap.wf VReg.reset tTile.v = true ∧ (∀ i, i < tTile.tlen → (tTile.mask 0).getLsbD i = true) ∧
    ¬ (∀ i, i < tTile.tlen → (tTile.mask 1).getLsbD i = true) :=
  ⟨by decide, by decide, rfl, rfl, rfl, rfl, ⟨rfl, rfl, rfl⟩, by decide +kernel, by decide +kernel, fun h => absurd (h 0 (by decide +kernel)) (by decide +kernel)⟩

theorem test_hyp_Matrix : ReadyX tX 0 ∧ (3#2).toNat < tilesOf tX tX.h ∧ tX.h.mkW = 0 ∧
    (let s := { tX with h := { tX.h with mkW := 4 } }
     s.h.mkW ≠ 0 ∧ s.h.mkLV = false ∧ (3#2).toNat < tilesOf s s.h) ∧
    (let s := { tXr 8 with h := { (tXr 8).h with mkW := 4, mkLV := true } }
     s.h.mkLV = true ∧ s.h.mkW = 4 ∧ (s.h.tile 0).vc = .uninit ∧ s.h.x.vfmt ≠ 0) ∧
    (let s := { tX with entries := [(0, { fetchEntry with recd := { fetchEntry.recd with tiles := 0 } })] }
     tilesOf s s.h ≤ (0#2).toNat) ∧ tilesOf tX tX.h ≠ 0 :=
  ⟨⟨rfl, rfl, rfl⟩, by decide, rfl, ⟨by decide, rfl, by decide⟩, ⟨rfl, rfl, rfl, by decide⟩, by decide, by decide⟩

/-! ## Counters, waits and atomics -/

/-- A hart with no launch, x1 naming near counter 5, x2 a delta of 7, x3 one of 2^32, x4 slot 3 of tower 2, x5 host counter 2. -/
def tC : State :=
  let s := withRegs tA [(1, 0x51#64), (2, 7#64), (3, 0x100000000#64), (4, slotHandle 2 3), (5, 0xFFF8000000000020#64)]
  { s with h := { s.h with launch := none, priv := true }, near := [(nearKey 0 0 5, 100#64)]
           cc := [(slotKey 2 3, some ⟨40, none⟩)] }
/-- Another hart of the core waits on near counter 5. -/
def waitOn5 (s : State) : State :=
  { s with rest := [{ s.h with id := ⟨0, 0, 1⟩, a := { s.h.a with st := .wait, wait := .cwait 0x51#64 200#64 1 0 } }] }

theorem test_hyp_NearCounters : ReadyA tC 0 ∧ NearRef tC (tC.reg 1) 5 ∧ (tC.reg 2).toNat < 2 ^ 32 ∧ 2 ^ 32 ≤ (tC.reg 3).toNat ∧
    tC.h.priv = true ∧ nearHasWaiter tC tC.h.id 5 = false ∧ nearHasWaiter (waitOn5 tC) (waitOn5 tC).h.id 5 = true ∧
    NearRef (waitOn5 tC) ((waitOn5 tC).reg 1) 5 :=
  ⟨⟨rfl, rfl, rfl, rfl, rfl⟩, ⟨5, by decide, by decide, by decide⟩, by decide, by decide, rfl, by decide, by decide,
    ⟨5, by decide, by decide, by decide⟩⟩

theorem test_hyp_SlotCounters : tC.h.logWho 2 = none ∧ tC.logFull tC.h = false ∧ SlotRef tC (tC.reg 4) 2 3 40 ∧
    (let s := { tC with h := { tC.h with priv := false } }
     refOf s (s.reg 4) = .slot 2 3 ∧ groupOk s 2 3 s.h.priv s.h.asid.toNat = false) ∧
    SMap.wf none tC.cc = true ∧ SMap.wf false tC.pflag = true ∧ tC.cfg.cont = false ∧
    (∀ w ∈ [(⟨slotKey 2 3, 45, .stream ⟨0, 0, 1⟩, 0⟩ : Waiter)], w.key = slotKey 2 3 → ∃ h, w.who = .stream h) :=
  ⟨rfl, rfl, ⟨by decide, by decide, none, rfl⟩, by decide, by decide, by decide, rfl, by simp⟩

theorem test_hyp_CounterWaits : tC.h.a.begun = false ∧ satisfied 100 (tC.reg 2) = true ∧ satisfied 100 (tC.reg 3) = false ∧
    satisfied 40 (tC.reg 2) = true ∧ satisfied 40 (tC.reg 3) = false ∧ waitersAt tC 2 < waiterRoom ∧
    (let s := { tC with h := { tC.h with a := { tC.h.a with begun := true } } }
     s.h.a.begun = true ∧ s.h.a.wait = .none) := by decide

/-- The stream waiting on slot 3 of tower 2 for 7, with deadline 1, at cycle 9; and one that waits for a host counter. -/
def tW (w : Wait) : State :=
  { tC with cycle := 9, mem := [(0x8000000000020, 8#8)], h := { tC.h with a := { tC.h.a with st := .wait, begun := true, wait := w } } }

theorem test_hyp_WaitsEnd : (∀ w ∈ [Wait.cwait (slotHandle 2 3) 7 6 1, .cwait 0xFFF8000000000020#64 7 6 0, .cwaitFull (slotHandle 2 3) 7 6 1 9],
      (tW w).onX = false ∧ (tW w).cfg.cont = false ∧ (tW w).h.parking = 0 ∧ (tW w).h.a.st = .wait ∧ (tW w).h.a.pos = .word 0 ∧
      (tW w).h.loads = []) ∧ satisfied 7 7 = true ∧ 1 ≤ (tW .none).cycle ∧
    refOf (tW .none) 0xFFF8000000000020#64 = .host .a 0x8000000000020 ∧
    satisfied (BitVec.ofNat 64 (readMem (tW .none).mem 0x8000000000020 8)) 7 = true ∧ satisfied 40 50 = false ∧
    (tW .none).h.req = none ∧
    refOf (tW .none) (slotHandle 2 3) = .slot 2 3 ∧ SMap.get none (tW .none).cc (slotKey 2 3) = some ⟨40, none⟩ :=
  ⟨by decide, by decide, by decide, by decide, by decide, by decide, by decide, by decide, rfl⟩

/-- The mapped state with x1 at the first line and x2 off its size. -/
def tAt : State := withRegs { tM with h := { tM.h with launch := none } } [(1, 0x10000#64), (2, 0x10002#64)]

theorem test_hyp_Atomics : ReadyA tAt 0 ∧ tAt.canon ∧ (tAt.reg 1).toNat % 8 = 0 ∧ (tAt.reg 2).toNat % 4 ≠ 0 ∧
    guarded tAt (tAt.reg 1) = false ∧ tAt.logFull tAt.h = false ∧ Plain tAt (tAt.reg 1) .write x1M ∧
    (let rd := readLine tAt x1M.pa (pteKEY x1M.leaf) (pteLFMT x1M.leaf) tAt.h.who tAt.h.noL1
     logIfHome rd.2 (tAt.h.logWho 0) x1M (tAt.reg 1) rd.1 = rd.2) :=
  ⟨⟨rfl, rfl, rfl, rfl, rfl⟩, ⟨by decide, by decide⟩, by decide, by decide, by decide, rfl, ⟨rfl, rfl, ⟨rfl, rfl⟩, rfl⟩, rfl⟩

/-- Indices 0 and 1 in q6 and FP32 data in q7, two elements. -/
def tVa : State := { tQ with h := { tQ.h with launch := none } }
theorem reachOf {x : Except Err (List ElemAt) × State} {s : State} {f : List ElemAt → Bool} (h : x.2 = s)
    (hf : (match x.1 with | .ok es => f es | .error _ => false) = true) : ∃ es, x = (.ok es, s) ∧ f es = true := by
  obtain ⟨a, b⟩ := x
  cases a with
  | error e => cases hf
  | ok es => exact ⟨es, by simpa using h, hf⟩

theorem test_hyp_VatomRuns : ReadyA tVa 0 ∧ tVa.canon ∧ SMap.wf Dir.none tVa.dir = true ∧ SMap.wf DQueue.reset tVa.h.dq = true ∧
    tVa.h.th = false ∧ tVa.logFull tVa.h = false ∧ headEntry tVa.h (13 - 6) = some fpReg ∧ headEntry tVa.h 6 = some intReg ∧
    (tVa.h.queue 5).entries.length < 8 ∧ tVa.h.refill = none ∧ (tVa.reg 1).toNat % 4 = 0 ∧ indexCause intReg = none ∧
    elemSize fpReg.fmt.toNat = 32 ∧ vcBad fpReg.vc = false ∧ (listAt (atomRules 32) 6).isSome = true ∧ tVa.h.launch = none ∧
    ∃ es, vatomReach (indexEls (tVa.reg 1) intReg (tVa.h.mask 0) 32 2) tVa = (.ok es, tVa) ∧
      (decide (∀ y ∈ es, guarded tVa y.va = false ∧ regionOf tVa y.x.pa = .hbm ∧ cached (dirOf tVa y.x.pa) = true ∧
        vcBad (tagVc (sideOf tVa y.x.pa).tag) = false) && es.length == 2) = true :=
  ⟨⟨rfl, rfl, rfl, rfl, rfl⟩, ⟨by decide, by decide⟩, by decide, by decide +kernel, rfl, rfl, by decide +kernel, by decide +kernel,
    by decide +kernel, rfl, by decide, by decide +kernel, by decide, rfl, rfl, rfl, reachOf (by decide +kernel) (by decide +kernel)⟩

/-- The same for a task, whose lines its L2 has marked in this window. -/
theorem test_hyp_VatomLogged : let s := { tVa with h := { tVa.h with launch := some 0 }, entries := [(0, fetchEntry)]
                                                   dir := tVa.dir.map fun d => (d.1, { d.2 with mark := some (0, false) }) }
    (dirOf s 0x10000).l2 = true ∧ (dirOf s 0x10000).mark = some (logMark s 0) := by decide

/-! ## Engines, launches, CSRs -/

/-- The state with lines of the home tier held and VALID in FP32, and memory of the given numbers, 8 bytes each. -/
def withLines (s : State) (lines : List Nat) (words : List (Nat × Nat)) : State :=
  { s with dir := lines.map fun l => (l, ⟨[(0, 0, .s)], [], true, false, 0, some (0, false)⟩)
           side := lines.map fun l => (l, ⟨0x08#32, .fresh 0 0 0#128⟩)
           mem := words.foldl (fun m p => writeMem m p.1 p.2 8) [] }

/-- A SLUICE record: one run of 64 bytes from 0x12000 to 0x13000, copied. -/
def tSl : State := withLines tM [1024, 1025, 1026, 1027] [(0x10000, 0x12000), (0x10008, 0x13000), (0x10018, 1), (0x10040, 64)]

/-- The conditions of the first clause for a record. -/
def sluiceGoes (s : State) : Bool :=
  match readRecord causeENGREJECT 4 (s.reg 1) s with
  | (.ok v, s1) =>
    match pinShape (shapeOf v) s1 with
    | (.ok m, s2) =>
      shapeOk v s1.h.priv && doneOk s1 (shapeOf v).prog && shapePagesOk (shapeOf v) m && decide ((shapeOf v).total < 2 ^ 20)
        && decide ((s2.cmds.filter fun d => sameQueue d
          (newCmd s2 (.sluice (shapeOf v)) 0 (SMap.get 0#32 s2.h.slseq 0) 0 m (shapeOf v).prog s2.h.id.tower)).length < 4)
    | _ => false
  | _ => false

/-- The same record with no dimension, which the engine rejects. -/
def tSl0 : State := withLines tM [1024, 1025, 1026, 1027] [(0x10000, 0x12000)]

theorem test_hyp_SluiceIssues : ReadyA tSl 0 ∧ askedCmd tSl = none ∧ tSl.logFull tSl.h = false ∧ (tSl.reg 1).toNat % 64 = 0 ∧ sluiceGoes tSl = true :=
  ⟨⟨rfl, rfl, rfl, rfl, rfl⟩, rfl, rfl, by decide, by decide +kernel⟩

/-- An APPEND of 1 MiB from a page of 512 MiB, in S mode. -/
def tSlBig : State :=
  let s := withLines tM [1024, 1025, 1026, 1027] [(0x10000, 0x20000000), (0x10018, 17), (0x10040, 2 ^ 20)]
  { s with tlb := s.tlb ++ [⟨0, some 0, 0, 2, 1, 2 ^ 41 + 8 * 2 ^ 12 + 0xD7, 0⟩], h := { s.h with priv := true } }

theorem test_hyp_SluiceAsks : ReadyA tSlBig 0 ∧ askedCmd tSlBig = none ∧ tSlBig.logFull tSlBig.h = false ∧
    (tSlBig.reg 1).toNat % 64 = 0 ∧ (match readRecord causeENGREJECT 4 (tSlBig.reg 1) tSlBig with
      | (.ok v, s1) => match pinShape (shapeOf v) s1 with
        | (.ok m, _) => shapeOk v s1.h.priv && doneOk s1 (shapeOf v).prog && shapePagesOk (shapeOf v) m && (shapeOf v).total == 2 ^ 20
        | _ => false
      | _ => false) = true := ⟨⟨rfl, rfl, rfl, rfl, rfl⟩, rfl, rfl, by decide, by decide +kernel⟩

theorem test_hyp_SluiceRejected : (match readRecord causeENGREJECT 4 (tSl0.reg 1) tSl0 with
    | (.ok v, s1) => !shapeOk v s1.h.priv && !s1.onX
    | _ => false) = true := by decide +kernel

/-- A Panner record: FILL of 16 FP32 numbers at 0x12000. -/
def tPan : State := withLines tM [1024] [(0x10000, 3 + 8 * 2 ^ 6 + 16 * 2 ^ 16), (0x10010, 0x12000)]

def pancGoes (s : State) : Bool :=
  match readRecord causeENGREJECT 1 (s.reg 1) s with
  | (.ok v, s1) =>
    let r := panOf v
    match pinOperand .write r.w r.counts.1 [] s1 with
    | (.ok (ww, m1), s2) => match pinOperand .read r.x r.counts.2.1 m1 s2 with
      | (.ok (wx, m2), s3) => match pinOperand .write r.y r.counts.2.2 m2 s3 with
        | (.ok (wy, m3), s4) => panOk v && doneOk s1 r.done && panPagesOk r m3 ww wx wy && r.opc != 1
            && decide ((s4.cmds.filter fun d => sameQueue d
              (newCmd s4 (.pan r) 0 s4.h.panseq 0 m3 r.done (stackOf (pinned m3 r.w).pa))).length < 4)
        | _ => false
      | _ => false
    | _ => false
  | _ => false

theorem test_hyp_PancIssues : ReadyA tPan 0 ∧ askedCmd tPan = none ∧ tPan.logFull tPan.h = false ∧ (tPan.reg 1).toNat % 64 = 0 ∧
    pancGoes tPan = true := ⟨⟨rfl, rfl, rfl, rfl, rfl⟩, rfl, rfl, by decide, by decide +kernel⟩

/-- A command of the acting hart that has asked for its leave, with the leave held and not held. -/
def askedFill : Cmd := { newCmd tM (.pan (panOf 0)) 0 0 0 [] 0 0 with asks := true }
def tAsk (held : Bool) : State :=
  { tM with cmds := [askedFill], gov := if held then [(0, { Gov.reset with held := [⟨.inr 0, 32, true⟩] })] else [] }

theorem test_hyp_CommandGranted : ReadyA (tAsk true) 0 ∧ askedCmd (tAsk true) = some askedFill ∧ leaveHeld (tAsk true) askedFill.id = true ∧
    leaveHeld (tAsk false) askedFill.id = false := ⟨⟨rfl, rfl, rfl, rfl, rfl⟩, by decide, by decide, by decide⟩

/-- A recode job in S mode: ASID 1, FP32, the page 0x50000 to the frame 0x40000, DONE near counter 5. -/
def tRc : State :=
  let s := withLines tM [1024, 1025, 2048, 2304] [(0x10000, 1 + 8 * 2 ^ 16 + 2 ^ 32), (0x10008, 0x10040), (0x10010, 0x51),
    (0x10040, 0x50000), (0x10048, 0x40000), (0x20008, 0x21001), (0x24028, 12 * 2 ^ 26 + 8 * 2 ^ 12 + 0xD7)]
  { s with asidtab := 0x20000, h := { s.h with priv := true },
           pwc := [⟨0, 1, 0, 0, 0x80000001⟩, ⟨0, 1, 1, 0, 0x80000001⟩, ⟨0, 1, 2, 0, 9 * 2 ^ 26 + 1⟩] }

def recodeGoes (s : State) : Bool :=
  match readRecord causeENGREJECT 1 (s.reg 1) s with
  | (.ok v, s1) => match readList (fieldOf v 63 32) (BitVec.ofNat 64 (v >>> 64)) s1 with
    | (.ok ps, s2) =>
      let r := recodeOf v ps
      match recodeLeaves s2.h.id.tower r r.pages [] s2 with
      | (.ok m, s3) => recodeOk v && doneOk s1 (recodeOf v []).done && pagesAscend 0 ps
          && framesApart (65536 / 2 ^ r.tcr) (ps.map fun p => p.2) && !meetsSource r m && ps.length == 1
          && decide ((s3.cmds.filter fun d => sameQueue d
            (newCmd s3 (.recode r .queued []) 0 s3.h.rcseq 0 m r.done s3.h.id.tower)).length < 16)
      | _ => false
    | _ => false
  | _ => false

theorem test_hyp_RcodeIssues : ReadyA tRc 0 ∧ tRc.h.priv = true ∧ (tRc.reg 1).toNat % 64 = 0 ∧ recodeGoes tRc = true ∧
    ({ tRc with h := { tRc.h with priv := false } } : State).h.priv = false := ⟨⟨rfl, rfl, rfl, rfl, rfl⟩, rfl, by decide, by decide +kernel, rfl⟩

/-- A launch record in S mode: one hart of tower 0, ASID 1, its save area and log ring under a page of 512 MiB. -/
def tLa : State :=
  let s := withLines tM [1024, 1025] [(0x10000, 0x10000), (0x10018, 1 + 2 ^ 12 + 2 ^ 24 + 2 ^ 28 + 2 ^ 32),
    (0x10030, 1 + 0x20 * 2 ^ 16), (0x10038, 1 + 0x40 * 2 ^ 16)]
  { s with tlb := s.tlb ++ [⟨0, none, 1, 2, 0, 2 ^ 41 + 8 * 2 ^ 12 + 0xC7, 0⟩], h := { s.h with priv := true }, tencfg := [(0, 0x11F#64)] }

theorem test_hyp_LaunchAccepted : ReadyA tLa 0 ∧ (tLa.reg 1).toNat % 128 = 0 ∧
    (match readRecord causePOISONED 2 (tLa.reg 1) tLa with
     | (.ok v, s1) => decide (((acceptLaunch s1 v (issuerOf s1)).1, (acceptLaunch s1 v (issuerOf s1)).2.1.toNat % 4096) = (0, 1))
     | _ => false) = true := ⟨⟨rfl, rfl, rfl, rfl, rfl⟩, by decide, by decide +kernel⟩

/-- Launches 1 ready and 2 running, of generation 3; x1 and x2 name them, x3 neither. -/
def tCa : State :=
  { withRegs tA [(1, 0x3001#64), (2, 0x3002#64), (3, 0x4001#64)] with
    entries := [(0, fetchEntry), (1, { fetchEntry with state := .ready, gen := 3 }), (2, { fetchEntry with gen := 3 })] }

theorem test_hyp_Cancel : ReadyA tCa 0 ∧
    (let named := fun (s : State) (v : Word) =>
      let h := v.toNat % 2 ^ 32
      (s.entry (h % 4096)).gen.toNat = h / 4096 % 2 ^ 20 ∧ (s.entry (h % 4096)).state ≠ .free
     named tCa (tCa.reg 1) ∧ named tCa (tCa.reg 2) ∧ ¬ named tCa (tCa.reg 3) ∧ cancelRefused tCa 0x3001 = false ∧
       cancelRefused tCa 0x3002 = false ∧ (tCa.entry 1).state = .ready ∧ (tCa.entry 2).state = .running ∧
       (let s := { tCa with h := { tCa.h with priv := false }, entries := [(0, fetchEntry),
          (1, { fetchEntry with gen := 3, recd := { fetchEntry.recd with tenant := 1 } })] }
        named s (s.reg 1) ∧ cancelRefused s 0x3001 = true)) := ⟨⟨rfl, rfl, rfl, rfl, rfl⟩, by decide⟩

/-- A task of a launch of eight strips that claims in near counter 5, at 100, from base 98. -/
def tSt : State :=
  { tA with near := [(nearKey 0 0 5, 100#64)]
            entries := [(0, { fetchEntry with base := 98, recd := { fetchEntry.recd with strips := 8, claim := 0x51 } })] }

theorem test_hyp_Strip : ReadyA tA 0 ∧ (tA.entry 0).recd.strips = 0 ∧ tSt.h.launch = some 0 ∧ (tSt.entry 0).recd.strips ≠ 0 ∧
    (match counterOp tSt (tSt.entry 0).recd.claim (.xadd 1) with | (.ok v, _) => v == 100 | _ => false) = true :=
  ⟨⟨rfl, rfl, rfl, rfl, rfl⟩, rfl, rfl, by decide, by decide +kernel⟩

theorem test_hyp_CsrInstructions : ReadyA tB 0 ∧ ReadyX tX 0 ∧ fmtDefined ((7#64).toNat % 32) = false ∧
    csrPriv 0x006 = none ∧ csrPriv 0xFFF = none ∧ csrPriv 0x100 = some 1 ∧ csrPriv 0x20B = some 2 ∧
    (tA.h.priv && tA.h.id.core == 64) = false ∧ ({ tA with h := { tA.h with priv := false } } : State).h.priv = false :=
  ⟨⟨rfl, rfl, rfl, rfl, rfl⟩, ⟨rfl, rfl, rfl⟩, by decide, by decide, by decide, by decide, by decide, by decide, rfl⟩

theorem test_hyp_ServiceCsrWrites : tA.h.keyidx = 0 ∧ ({ tA with h := { tA.h with keyidx := 5 } } : State).h.keyidx ≠ 0 ∧
    SMap.wf (none, 0) tA.keys = true ∧ SMap.wf tencfgReset tA.tencfg = true ∧ SMap.wf 0#64 tA.peermap = true ∧
    tenQuantum (0x000#64).toNat = 0 ∧ tenQuantum (0x500#64).toNat = 5 ∧ SMap.wf 0 tA.deficit = true ∧
    (0x1FFF#64).toNat % 4096 = 0xFFF ∧ (0x0FFE#64).toNat % 4096 ≠ 0xFFF ∧
    ∃ s1, aliasWrite tA (8 * tA.h.cfgoff.toNat) 0 = some s1 :=
  ⟨rfl, by decide, rfl, rfl, rfl, by decide, by decide, rfl, by decide, by decide, _, rfl⟩

/-! ## Exceptions and services -/

def tEx (th : Bool) (tvec : Word) (launch : Option Nat) : State :=
  { tA with h := { tA.h with th := th, tvec := tvec, launch := launch } }

theorem test_hyp_Exceptions : (tEx false 0x10000#64 none).h.th = false ∧ (tEx false 0x10000#64 none).h.tvec ≠ 0 ∧
    (∀ s ∈ [tEx true 0x10000#64 none, tEx false 0#64 (some 0), tEx false 0x10000#64 (some 0)],
      s.h.loads = [] ∧ s.h.stores = [] ∧ s.h.sfrq = [] ∧ s.h.xl = []) ∧
    (⟨false, causeALIGN, 3, 0, 0⟩ : Cause).code ≠ causeSTORE ∧
    ReadyA (tEx true 0x10000#64 (some 0)) 0 ∧ (tEx true 0x10000#64 (some 0)).h.launch = some 0 :=
  ⟨rfl, by decide, by decide, by decide, ⟨rfl, rfl, rfl, rfl, rfl⟩, rfl⟩

/-- A task whose save area lies at 0x10000: launch 0 holds its page, its record has A_RUN and X_IDLE set. -/
def tEr : State :=
  { withLines (tEx true 0x10000#64 (some 0)) [1024, 1032, 1035] [(0x10218, 0x10040), (0x102F8, 2 ^ 0 * 2 ^ 0)] with
    h := { (tEx true 0x10000#64 (some 0)).h with csa := 0x10000 }
    entries := [(0, { fetchEntry with pages := [(1, (0x10000, 0))] })] }

theorem test_hyp_Eret : (let r := areaGet 0 tEr (tEr.h.csa.toNat + 0x200) 8
    (bitsAt r.1 1984 1, bitsAt r.1 1986 1, bitsAt r.1 192 64)) = (1, 0, 0x10040) := by decide +kernel

/-- PTSET of FP32 with FP32 to INT32, of a reserved action, and of an undefined result. -/
theorem test_hyp_Pt : (let k := 8 * 32 + 8
    fmtDefined (k / 32) = true ∧ fmtDefined (k % 32) = true ∧ (0x24 / 32 < 3 ∧ fmtDefined (0x24 % 32) = true) ∧
    ¬ (0x64 / 32 < 3) ∧ fmtDefined (0x27 % 32) = false ∧ 0x27 / 32 ≠ 0 ∧ 0x27 / 32 < 3) := by decide

theorem test_hyp_Tlbi : ReadyA tM 0 ∧ tM.h.priv = true ∧ doneOk tM (tM.reg 0) = true ∧ doneOk tC (tC.reg 1) = true ∧ tM.reg 0 = 0 :=
  ⟨⟨rfl, rfl, rfl, rfl, rfl⟩, rfl, by decide, by decide, rfl⟩

/-- An argument block at 0x10000 with REPLY slot 3 of tower 2, in S mode; the same with tower 0's ring full. -/
def tSc : State :=
  let s := withLines tM [1024] [(0x10000, 1), (0x10020, (slotHandle 2 3).toNat)]
  { s with h := { s.h with priv := true }
           cc := [(slotKey 0 8, some ⟨0, none⟩), (slotKey 0 9, some ⟨0, none⟩), (slotKey 2 3, some ⟨0, none⟩)] }
def tScFull : State := { tSc with cc := [(slotKey 0 8, some ⟨256, none⟩)] }

theorem okOf {x : Except Err Nat × State} {s : State} {p : Nat → Bool} (h : x.2 = s)
    (hp : (match x.1 with | .ok v => p v | .error _ => false) = true) : ∃ v, x = (.ok v, s) ∧ p v = true := by
  obtain ⟨a, b⟩ := x
  cases a with
  | error e => cases hp
  | ok v => exact ⟨v, by simpa using h, hp⟩

theorem test_hyp_ServiceCalls : ∀ s ∈ [tSc, tScFull], ReadyA s 0 ∧ (s.reg 1).toNat % 16 = 0 ∧
    ∃ v, scalarLoad s (s.reg 1) 48 = (.ok v, s) ∧ replyOk s (BitVec.ofNat 64 (v / 2 ^ 256)) = true := by
  intro s hs
  simp only [List.mem_cons, List.not_mem_nil, or_false] at hs
  rcases hs with rfl | rfl <;>
    exact ⟨⟨rfl, rfl, rfl, rfl, rfl⟩, by decide +kernel, okOf (by decide +kernel) (by decide +kernel)⟩

theorem test_hyp_CallRing : SMap.wf none tSc.cc = true ∧ (∀ k ∈ [slotKey 0 8, slotKey 0 9, slotKey 2 3],
      (SMap.get none tSc.cc k).isSome = true) ∧ ringFull tSc 0 = false ∧ ringFull tScFull 0 = true ∧ tSc.h.a.begun = false ∧ tSc.h.id.tower = 0 := by
  decide +kernel

theorem test_hyp_Wmark : ReadyA tA 0 ∧ tA.h.th = false ∧ tA.h.launch = some 0 ∧ tA.h.a.begun = false ∧ wmarkFull tA 0 = false ∧
    enginesOut tA 0 = false ∧ (tEx false 0 none).h.launch = none ∧
    (let s := { tA with h := { tA.h with a := { tA.h.a with begun := true } } }
     s.h.a.begun = true ∧ (s.entry 0).undo.arrived.contains s.h.tn = false) ∧
    (let s := { tA with h := { tA.h with hold := true } }
     wmarkFull s 0 = true) := ⟨⟨rfl, rfl, rfl, rfl, rfl⟩, rfl, rfl, rfl, by decide, by decide, rfl, by decide, by decide⟩

/-! ## What happens beside the instructions -/

theorem test_hyp_CacheEvents : tM.cfg.cont = false ∧ SMap.wf Dir.none tM.dir = true ∧ 0x10000 < hbmSize ∧
    (dirOf tM 0x10000).l2 = true ∧ (dirOf tM 0x10000).dirty = false ∧ regionOf tM 0x8000000000000 = .host .a ∧ Held tM 0x10000 ∧
    inCounterStore 0x10000 = false ∧ (∀ w ∈ tC.waiters, w.key ≠ slotKey 2 3) ∧ tC.canon ∧ SMap.wf none tC.cc = true ∧
    SMap.get none tC.cc (slotKey 2 3) = some ⟨40, none⟩ ∧
    (match walkFill tRc ⟨0, some 0⟩ 1 0x50000 false with | (.ok l, _) => l.level == 3 | _ => false) = true :=
  ⟨rfl, by decide, by decide, by decide, by decide, by decide, ⟨by decide, by decide⟩, by decide, by decide,
    ⟨by decide, by decide⟩, by decide, by decide, by decide +kernel⟩

/-- A dirty line of the L2, a flash line in a core's cache, and a slot whose line is as its check field says. -/
theorem test_hyp_Evictions :
    (let s := { tM with dir := [(1024, ⟨[], [], true, true, 0, none⟩), (0x100000000000 / 64, ⟨[(0, 0, .s)], [], false, false, 0, none⟩)] }
     SMap.wf Dir.none s.dir = true ∧ (dirOf s 0x10000).dirty = true ∧ SMap.wf Side.reset s.side = true ∧
       (dirOf s 0x10000).l2 = true ∧ snooped s 0x100000000000 = true) ∧
    checkOf tC (slotAddr (slotKey 2 3)) 0 = .correct := by decide +kernel

/-- Walks that end in an entry with A and in one without it, whose line is held. -/
def tWk (e : Nat) : State :=
  { tRc with mem := writeMem tRc.mem 0x24028 (12 * 2 ^ 26 + 8 * 2 ^ 12 + e) 8 }

theorem test_hyp_WalkComplete : (∀ e ∈ [0xD7, 0x97], (tWk e).canon ∧ (match walk (tWk e) 0 1 0x50000 with
      | (.ok l, s1) => decide (s1.mem = (tWk e).mem ∧ s1.side = (tWk e).side ∧ (l.e &&& 64 = 64 ↔ e = 0xD7) ∧
          regionOf s1 l.at_ = .hbm ∧ cached (dirOf s1 l.at_) = true ∧ tagVc (sideOf s1 l.at_).tag = .valid ∧ l.at_ % 8 = 0 ∧
          s1.seenWord l.at_ 8 = l.e)
      | _ => false) = true) ∧
    (match walk (tWk 0) 0 1 0x50000 with | (.error _, _) => true | _ => false) = true := by
  refine ⟨?_, by decide +kernel⟩
  intro e he
  simp only [List.mem_cons, List.not_mem_nil, or_false] at he
  rcases he with rfl | rfl <;> exact ⟨⟨by decide +kernel, by decide +kernel⟩, by decide +kernel⟩

/-- R157: the walk sets A in the entry, and no other bit. -/
theorem test_walk_sets_a : ends0 (.walkComplete 0 0 1 0x50000) (tWk 0x97) (fun t => t.seenWord 0x24028 8) =
    some (12 * 2 ^ 26 + 8 * 2 ^ 12 + 0xD7) := by decide +kernel

/-- Tower 0 with a leave asked for, hot and at an allowance of 1. -/
def tG : State := { tA with gov := [(0, { Gov.reset with allow := 1, asked := [⟨.inl tA.h.id, 100, true⟩] })], cfg := { tA.cfg with active := 1, leaseEnd := 10 ^ 6 } }

theorem test_hyp_GovernorEvents : SMap.wf Gov.reset tG.gov = true ∧ (tG.governor 0).asked = ⟨.inl tG.h.id, 100, true⟩ :: [] ∧
    tG.cfg.cont = false ∧ chargeSum (tG.governor 0) false * (16 * 32) ≤ 1400 * (tG.governor 0).allow * tG.cfg.pwrcap.toNat ∧
    chargeSum (tG.governor 0) true * 32 ≤ 560 * tG.cfg.pwrcap.toNat ∧ 1 ≤ (tG.governor 0).allow ∧ (tG.governor 0).allow ≤ 16 ∧
    (tG.governor 7).allow = 16 ∧ isActive tG (.host .a) = true ∧ leaseOver tG = false ∧ (tG.governor 0).temp < 115 ∧
    (({ tG with gov := [(0, { Gov.reset with temp := 120 })] } : State).governor 0).temp = 120 ∧ tG.cfg.phase ≠ 15 ∧
    16 ≤ (16#64).toNat % 64 ∧
    (32#64).toNat % 64 ≤ 32 :=
  ⟨by decide, rfl, rfl, by decide, by decide, by decide, by decide, by decide, by decide, by decide, by decide, by decide, by decide,
    by decide, by decide⟩

/-- Launch 0 with its one task waiting in WMARK, its SNAP appended. -/
def tK : State :=
  { tA with h := { tA.h with a := { tA.h.a with st := .wait, begun := true, wait := .wmark 6 } }
            entries := [(0, { fetchEntry with undo := { fetchEntry.undo with arrived := [tA.h.tn] } })] }
/-- Launch 1 frozen with no task on the part, to be rewound. -/
def tRw : State := { tA with entries := [(0, fetchEntry), (1, { fetchEntry with frozen := true, rw := some (0, false, none) })] }

theorem test_hyp_ContextEvents : tK.cfg.cont = false ∧ collectiveReady tK 0 = true ∧ rewindReady tRw 1 = true ∧
    (let s := { tA with cfg := { tA.cfg with ivt := [(3, 1#128)] } }
     registered s (.interrupt 3) = false ∧ irqArmed s 3 = true) ∧
    (let w : RemoteWait := ⟨4, .stream tA.h.id, 0x1230000000000010#64, 7, false⟩
     let x : RemoteWait := ⟨5, .start 1 0, 0x1230000000000010#64, 7, false⟩
     let s := { tA with remote := [w, x] }
     s.remote.find? (fun w => w.token == 4) = some w ∧ s.remote.find? (fun w => w.token == 5) = some x ∧
       s.remote.find? (fun w => w.token == 6) = none) ∧
    (let p : PTlbi := ⟨tA.h.id, true, 0, 0x51, none, none, [], []⟩
     readyTlbi tA [] [p] = some (p, [])) ∧ tK.h.launch = some 0 ∧
    SMap.wf LEntry.reset tK.entries = true ∧ tK.h.a.st = .wait ∧ tK.h.a.wait = .wmark 6 ∧ tK.h.a.pos = .word 0 :=
  ⟨rfl, by decide, by decide, by decide, by decide, by decide, rfl, by decide, rfl, rfl, rfl⟩

/-- A task with a request, both streams at a boundary, the X-stream idle. -/
def tSp (req : StopReq) : State :=
  { tA with cycle := 130000, h := { tA.h with req := some req } }

theorem test_hyp_RequestedStops : (∀ r ∈ [StopReq.soft, .withdraw, .freezeSoft, .kill],
      (tSp r).cfg.cont = false ∧ (tSp r).onX = false ∧ (tSp r).h.loads = [] ∧ (tSp r).h.stores = [] ∧ (tSp r).h.xl = [] ∧
      (tSp r).h.launch = some 0 ∧ (tSp r).h.inStep = false ∧ (tSp r).h.parking = 0 ∧ (tSp r).h.req = some r ∧
      (tSp r).h.a.canStop = true ∧ (tSp r).h.x.canStop = true ∧ (tSp r).h.reqAt + 130000 ≤ (tSp r).cycle) ∧
    (let h := { (tSp .soft).h with a := { tA.h.a with st := .qblock } }
     queueDeadlock h = true) ∧
    (let h := { (tSp .soft).h with a := { tA.h.a with st := .stopped }, parking := 2 }
     h.parking ≠ 0 ∧ h.bothStopped = true ∧ h.mbusy = 0 ∧ h.lanes = []) := by decide

/-! ## Services, engines, survey, debug -/

/-- One posted request at 0x40000 (RQBASE 4): a request of a TYPE with its SEQ of 0. -/
def tRq (v : Nat) : State :=
  { withLines tA [0x1000, 0x1001, 0x1002, 0x1003] [(0x40000, 0), (0x40008, v)] with
    cc := [(slotKey 0 0, some ⟨1, none⟩)], cfg := { tA.cfg with rqbase := 4, rqent := 64, phase := 4 } }

theorem test_hyp_Requests : ∀ v ∈ [0, 1, 2, 3], nextRequest (tRq v) = some 0 ∧
    requestType (requestSlot (tRq v) 0).1 = v ∧ requestBad (requestSlot (tRq v) 0).1 0 = decide (2 < v) ∧
    ((requestSlot (tRq v) 0).2.entry (fieldOf (requestSlot (tRq v) 0).1 159 128 % 4096)).gen.toNat = 1 ∧
    fieldOf (requestSlot (tRq v) 0).1 159 128 / 4096 = 0 := by decide +kernel

theorem test_hyp_RequestCancel :
    let s := { tRq 2 with entries := [] }
    requestType (requestSlot s 0).1 = 2 ∧
      ((requestSlot s 0).2.entry (fieldOf (requestSlot s 0).1 159 128 % 4096)).gen.toNat = fieldOf (requestSlot s 0).1 159 128 / 4096 := by
  decide +kernel

/-- A call of a FUNC in the ring of tower 0, published by the task of launch 0. -/
def tCl (f : Nat) : State :=
  { tA with cc := [(slotKey 0 8, some ⟨1, none⟩), (slotKey 0 9, some ⟨1, none⟩)]
            cfg := { tA.cfg with phase := 4, callring := [(0, BitVec.ofNat 512 (f * 2 ^ 64))], callOwner := [(0, (1, 1, tA.h.tn))] } }

theorem test_hyp_Calls : (∀ f ∈ [0, 1, 2, 0x10, 0x20, 0x77], headCall (tCl f) 0 = some (0, BitVec.ofNat 512 (f * 2 ^ 64)) ∧
      callFunc (BitVec.ofNat 512 (f * 2 ^ 64)) = f ∧ rewindBusy (tCl f) 0 = false) ∧
    contextOwner (partAdd (tCl 1) 0 10 1) (callOwnerOf (tCl 1) 0 0) = some (0, tA.h.tn) ∧ 0x77 ∉ [0, 1, 2, 0x10, 0x20] ∧
    ownCounter (tCl 0x10) 0 2 - ownCounter (tCl 0x10) 0 3 < 256 ∧
    (let f : FwdCall := ⟨0, 0, 0, (0, 0, 0)⟩
     answered { tCl 0 with cc := [(slotKey 0 3, some ⟨1, none⟩)], cfg := { (tCl 0).cfg with fwd := [f] } } = some f) := by
  decide +kernel

/-- A COPY of one line from 0x12000 to 0x13000, both pages pinned and their lines held, and an APPEND of one. -/
def copyRec : ShapeRec := { shapeOf 0 with sbase := 0x12000, dbase := 0x13000, dims := [⟨64, 0, 0⟩] }
def shapeCmd (r : ShapeRec) (started : Bool) : Cmd :=
  { newCmd tA (.sluice r) 0 0 0 [(1, (leaf1, 3, 0))] 0 0 with id := 0, launch := none, started := started }
def tSd (r : ShapeRec) (started : Bool) : State := { withLines tA [1152, 1216] [(0x12000, 77)] with cmds := [shapeCmd r started], flapp := 0x13000 }

theorem test_hyp_SluiceStarts : (tSd copyRec false).cfg.cont = false ∧ (tSd copyRec false).cmd? 0 = some (shapeCmd copyRec false) ∧
    (shapeCmd copyRec false).started = false ∧ firstInQueue (tSd copyRec false) (shapeCmd copyRec false) = true ∧
    (let r := { copyRec with append := true }
     firstInQueue (tSd r false) (shapeCmd r false) = true ∧ r.append = true ∧ r.dbase.toNat = (tSd r false).flapp ∧
       (tSd r false).flapp % 64 = 0 ∧ r.ext0 % 64 = 0) ∧
    { copyRec with append := true, dbase := 0 }.dbase.toNat ≠ 0x13000 := by
  decide +kernel

theorem test_hyp_SluiceDelivers :
    let s := tSd copyRec true
    let c := shapeCmd copyRec true
    s.cmd? 0 = some c ∧ c.body = .sluice copyRec ∧ c.launch = none ∧ c.started = true ∧ copyRec.append = false ∧
    copyRec.qmode = 0 ∧ copyRec.prog = 0 ∧ s.canon ∧ SMap.wf Dir.none s.dir = true ∧
    listAt (destLines c copyRec) c.done = some 0x13000 ∧ guardHeld s c 0x13000 (pinned c.pins (BitVec.ofNat 64 0x13000)) = false ∧
    (∀ q, q < 4 → placedBit ((copyRec.visits c.pins).filter fun v => v.line == 0x13000) (128 * q) = some (0, 128 * q) ∧
      (sourceBit c copyRec 0 (128 * q)).line = 0x12000 ∧ (sourceBit c copyRec 0 (128 * q)).bit = 128 * q) ∧
    Held s 0x12000 ∧ Held s (pinned c.pins (BitVec.ofNat 64 0x13000)).pa :=
  ⟨by decide +kernel, rfl, rfl, rfl, rfl, rfl, rfl, ⟨by decide +kernel, by decide +kernel⟩, by decide +kernel, by decide +kernel,
    by decide +kernel, by decide +kernel, ⟨by decide +kernel, by decide +kernel⟩, ⟨by decide +kernel, by decide +kernel⟩⟩

/-- A pan command, and a recode job of one page in a state. -/
def panCmd (opc : Nat) (ended : Bool) : Cmd :=
  { newCmd tA (.pan { panOf 0 with opc := opc }) 0 0 0 [] 0 0 with launch := none, ended := ended }
def jobRec : RecodeRec := recodeOf 0 [(0x50000, 0x40000)]
def jobCmd (st : RecodeSt) : Cmd := { newCmd tA (.recode jobRec st []) 0 0 0 [] 0 0 with launch := none }

/-- Commands that write the job's page, issued before its guard and after it; and the guard of another job. -/
def earlierCopy : Cmd :=
  { newCmd tA (.sluice { copyRec with dbase := 0x50000 }) 0 0 0 [(1, (leaf1, 3, 0)), (5, (leaf1, 3, 0))] 0 0 with id := 1, launch := none }
def laterCopy : Cmd := { earlierCopy with id := 2 }
def jobGuard : Guard := ⟨0, 0, 5, 0, 65536, 0x40000, 65536, 2⟩

theorem test_hyp_EnginesWork : (∀ o ∈ [1, 2, 3], panReady { tA with cmds := [panCmd o false] } (panCmd o false) = true) ∧
    ({ tA with cmds := [panCmd 1 true] } : State).cmd? (panCmd 1 true).id = some (panCmd 1 true) ∧
    (∀ st ∈ [RecodeSt.queued, .guard, .recode, .shoot],
      let s := { tA with cmds := [jobCmd st] }
      recodeHead s 0 = some (jobCmd st, jobRec, st, []) ∧ jobStopped s (jobCmd st) = false) ∧
    listAt jobRec.pages ((jobCmd .recode).done / frameLines jobRec) = some (0x50000, 0x40000) ∧
    listAt jobRec.pages (1024 / frameLines jobRec) = none := by decide +kernel

/-- A FILL of 32 FP32 elements at 0x12000, its page pinned. -/
def fillRec : PanRec := { panOf 0 with opc := 3, n := 32, ofmt := 8, w := 0x12000 }
def fillCmd (done : Nat) : Cmd := { newCmd tA (.pan fillRec) 0 0 0 [(1, (leaf1, 3, 0))] 0 0 with launch := none, done := done }

theorem test_hyp_FillLine : ∀ done ∈ [0, 1],
    let s := { withLines tA [1152, 1153] [(0x12000, 77)] with cmds := [fillCmd done] }
    s.cmd? (fillCmd done).id = some (fillCmd done) ∧ panReady s (fillCmd done) = true ∧ (Memory.wf s.mem ∧ SMap.wf Side.reset s.side = true) ∧
    (listAt (panLines (fillCmd done) fillRec) done).any (fun line =>
      let ys : List ElemAt := (panOutputs (fillCmd done) fillRec).filter fun e => e.line == line
      ys.length == 16 && ys.all fun y => !writeHeld s (fillCmd done) y.va.toNat y.x && decide (regionOf s y.x.pa = .hbm) &&
        cached (dirOf s y.x.pa)) = true := by
  decide +kernel

/-- The state with commands and guards, and what the job's guards make of it: how many there are, and whether each waits. -/
def tJob (cmds : List Cmd) (guards : List Guard) : State := { tA with cmds := cmds, guards := guards, nextCmd := 2 }
def jobWaits (s : State) : List Bool :=
  let s1 := placeGuards (jobCmd .guard) jobRec jobRec.pages s
  (s1.guards.filter fun g => g.cmd == 0).map fun g => writesBefore s1 g

theorem test_hyp_RecodeGuards : (∀ d ∈ [earlierCopy, laterCopy],
      recodeHead (tJob [jobCmd .guard, d] []) 0 = some (jobCmd .guard, jobRec, .guard, [])) ∧
    jobWaits (tJob [jobCmd .guard, earlierCopy] []) = [true] ∧ jobWaits (tJob [jobCmd .guard] []) = [false] ∧
    jobWaits (tJob [jobCmd .guard] [{ jobGuard with cmd := 9 }]) = [] ∧ jobRec.pages.length = 1 ∧
    recodeHead (tJob [jobCmd .shoot, laterCopy] [jobGuard]) 0 = some (jobCmd .shoot, jobRec, .shoot, []) ∧
    pinsPage laterCopy jobGuard = true ∧ laterCopy.id ≠ 0 ∧ takesAfresh laterCopy jobGuard = true := by decide +kernel

theorem test_hyp_Survey : tA.h.launch.isSome = true ∧ ({ tA with h := { tA.h with svEn := true } } : State).h.svEn = true ∧
    tA.h.lanes = [] ∧ SMap.wf SBuf.reset tA.sbuf = true ∧
    (∀ b ∈ [{ SBuf.reset with arm := true }, { SBuf.reset with arm := true, full := true },
        { SBuf.reset with arm := true, full := true, dumped := true }],
      ({ tA with sbuf := [(0, b)] } : State).buf 0 = b ∧ b.arm = true ∧ b.done = 0) ∧ (tA.buf 0).arm = false ∧
    tA.h.id.tower = 0 := by decide

/-- Launch 0 named by the debug unit, with a command, running or frozen; breakpoint 2 at word 0. -/
def tDb (cmd : BitVec 4) (frozen : Bool) : State :=
  { tA with dbg := { tA.dbg with lh := 0x1000, cmd := cmd, bpc := [(2, 0x0000100000000001#64)], bpa := [(2, tA.h.a.blk.hdr + 4)] }
            entries := [(0, { fetchEntry with frozen := frozen })] }

theorem test_hyp_Debug : (∀ c ∈ [1#4, 2#4, 3#4, 4#4, 5#4], ∀ f ∈ [true, false], handleEntry (tDb c f) (tDb c f).dbg.lh = some 0 ∧
      (tDb c f).dbg.cmd = c ∧ ((tDb c f).entry 0).frozen = f ∧ ((tDb c f).entry 0).state ≠ .killing ∧ ((tDb c f).entry 0).rw = none) ∧
    handleEntry tA 0x2000 = none ∧ (breakAt (tDb 1 false) 2).isSome = true := by decide

/-! ## Links, hosts, boot and resets -/

/-- Host port A and Zalarn link 3 up, Host A active, the part serving, cycle 9. -/
def tH : State :=
  { tM with cycle := 9, near := []
            cfg := { tM.cfg with active := 1, phase := 4, leaseEnd := 100, port := [(0, ⟨true, true, 8, 32, true⟩)], members := [2]
                                 zlink := [(3, { ZLink.reset with up := true })] } }

theorem test_hyp_Links : (SMap.get HostPort.reset tA.cfg.port (portOf .a)).up = false ∧
    SMap.wf ZLink.reset tH.cfg.zlink = true ∧ (SMap.get ZLink.reset tH.cfg.zlink 3).up = true ∧
    (SMap.get ZLink.reset tH.cfg.zlink 3).fails < 7 ∧ 7 ≤ ({ ZLink.reset with fails := 7 } : ZLink).fails ∧
    (SMap.get HostPort.reset tH.cfg.port (portOf .a)).trained = true ∧ 2 ∈ tH.cfg.members ∧ tH.agenda = [] ∧
    tH.hostReads = [] ∧ tH.stalledIn = [] ∧
    ({ tH with cfg := { tH.cfg with cont := true } } : State).cfg.cont = true := by decide

theorem test_hyp_EntersContained :
    let s := { tH with rest := [{ tH.h with id := romMonitor }] }
    s.cfg.cont = false ∧ (Memory.wf s.mem ∧ SMap.wf Side.reset s.side = true) ∧ SMap.wf LEntry.reset s.entries = true ∧
    (s.harts.map fun h => h.id).Nodup ∧ (∀ h ∈ s.harts, h.loads = [] ∧ h.stores = []) ∧
    (∃ h ∈ s.harts, h.id ≠ romMonitor) ∧ 0x10000 / 64 ≠ slotAddr errKey / 64 ∧ 0x10000 < hbmSize := by decide

theorem test_hyp_HostAccess : tH.canon ∧ tH.cfg.cont = false ∧ Held tH 0x1003F ∧ memwinRefused tH 0x1003F 1 = false ∧
    memwinRefused tH 0x10000 64 = false ∧ 0x1003F % 64 + 1 ≤ 64 ∧ isActive tH (.host .a) = true ∧ 0x10000 % 8 = 0 ∧
    vcBad (tagVc (sideOf tH 0x10000).tag) = false ∧ leaseOver tH = false ∧ guardedPa tH 0x10000 64 = false ∧ tH.stalledIn = [] ∧
    tH.cfg.phase ≠ 15 ∧ guardedPa { tH with guards := [jobGuard] } 0x4FFFF 1 = true ∧ guardedPa { tH with guards := [jobGuard] } 0x50000 1 = false :=
  ⟨⟨by decide, by decide⟩, rfl, ⟨by decide, by decide⟩, by decide, by decide, by decide, by decide, by decide, by decide,
    by decide, by decide, rfl, by decide, by decide, by decide⟩

theorem test_hyp_PeerAccess : peerPlace 0x10000 = true ∧ Held tH 0x10000 ∧ peerPlace hbmSize = false ∧
    (let s := { tC with cgroup := [(512, 0x50000#64)] }
     refOf s (slotHandle 2 3) = .slot 2 3 ∧ groupPeerOk s 2 3 = true ∧ SMap.get none s.cc (slotKey 2 3) = some ⟨40, none⟩) :=
  ⟨by decide, ⟨by decide, by decide⟩, by decide, by decide, by decide, rfl⟩

/-- What makes a renewal, a claim, a release and an expiry. -/
def tLe (active : BitVec 2) (claimed : Bool) : State := { tH with cfg := { tH.cfg with active := active, claimed := claimed, leaseEnd := 3 } }

theorem test_hyp_Lease : (tLe 1 false).cfg.claimed = false ∧ (tLe 1 false).cfg.leaseEnd < (tLe 1 false).cycle ∧
    (tLe 1 false).activeHost = some .a ∧ (tLe 0 false).activeHost = none ∧
    (tLe 2 false).activeHost = some (otherHost .a) ∧ (tLe 1 true).cfg.claimed = true ∧ (tLe 1 true).cfg.leaseEnd < (tLe 1 true).cycle ∧
    leaseOver (tLe 1 true) = true ∧ (∀ a ∈ [0#2, 1#2, 2#2], leaseOver { tLe a true with cycle := 3 } = false) ∧ 10 ≤ (10#64).toNat % 2 ^ 14 ∧ (10000#64).toNat % 2 ^ 14 ≤ 10000 ∧ tH.cfg.phase ≠ 15 := by decide

theorem test_hyp_HostRegisters : ringBusy tH = false ∧ leaseOver tH = false ∧ ringBusy (tRq 0) = true ∧
    fieldOf (0xFFFFFF0000#64).toNat 39 16 = 0xFFFFFF ∧
    ringSize 64 = true ∧ ringSize 65536 = true ∧ tH.cfg.rqbase.toNat * 65536 + 65536 * 256 ≤ hbmSize ∧
    tH.cfg.rqent.toNat * 256 ≤ hbmSize ∧
    (let s := { tH with cc := [(slotKey 2 3, some ⟨40, none⟩)], cfg := { tH.cfg with hcw := [(1023, slotHandle 2 3)] } }
     SMap.get 0#64 s.cfg.hcw 1023 = slotHandle 2 3 ∧ slotHandle 2 3 ≠ 0 ∧ refOf s (slotHandle 2 3) = .slot 2 3 ∧
     SMap.get none s.cc (slotKey 2 3) = some ⟨40, none⟩ ∧ s.stalledIn = []) :=
  ⟨by decide, by decide, by decide +kernel, by decide, by decide, by decide, by decide, by decide, by decide, by decide, by decide, rfl, rfl⟩

/-- The firmware machine in a state. -/
def tFw (st : BitVec 3) (drained ready : Bool) : State :=
  { tH with cycle := 10 ^ 12, cfg := { tH.cfg with leaseEnd := 10 ^ 12, fwState := st, drained := drained, fwready := ready, fwStaged := 2 } }

theorem test_hyp_Firmware : (∀ st ∈ [0#3, 2#3, 4#3, 5#3, 6#3], (tFw st false false).cfg.fwState ≠ 1 ∧
    (tFw st false false).cfg.fwState ≠ 3) ∧
    (tFw 1 false false).cfg.fwState = 1 ∧ (∀ r ∈ [true, false], drainDone (tFw 3 false r) = true ∧ (tFw 3 false r).cfg.drained = false) ∧
    (tFw 3 true false).cfg.drained = true ∧ SMap.wf 0#512 (tFw 3 true false).cfg.mslot = true ∧
    (tFw 3 true false).cfg.fwStaged.toNat < 3 ∧ readyOverdue (tFw 3 true false) = true ∧
    (let s := { tFw 3 true false with cycle := 9 }
     readyOverdue s = false ∧ leaseOver s = false ∧ s.cfg.drained = true ∧ s.cfg.fwState = 3) ∧
    (∀ st ∈ [0#3, 2#3, 3#3], leaseOver (tFw st true false) = false ∧ isActive (tFw st true false) (.host .a) = true) := by decide

theorem test_hyp_Boot : ∀ k ∈ [1, 2, 3, 4, 5],
    let s := { tM with cfg := { tM.cfg with step := k, phase := 0 } }
    s.cfg.phase ≠ 15 ∧ s.cfg.cont = false ∧ s.cfg.step = k ∧ s.cfg.prcount = 0 := by decide

theorem test_hyp_Resets : tH.canon ∧ leaseOver tH = false ∧ isActive tH (.host .a) = true ∧
    ({ tH with cfg := { tH.cfg with phase := 15 } } : State).cfg.phase = 15 := ⟨⟨by decide, by decide⟩, by decide, by decide, rfl⟩

theorem test_hyp_CheckField : 2 ^ 32 - 1 < 2 ^ 32 ∧ 0 < 1 ∧ 65535 < 65536 :=
  ⟨by decide, by decide, by decide⟩

theorem test_hyp_MatrixCompletes :
    let s := { tXr 8 with h := { (tXr 8).h with mkW := 4, mkLV := true } }
    ReadyX s 0 ∧ (3#2).toNat < tilesOf s s.h ∧ s.h.mkLV = true ∧ s.h.x.vfmt ≠ 0 ∧ s.h.plainReg 1 8 ∧ s.h.plainReg 2 8 ∧
    (s.h.tile 3).vc = .uninit ∧ s.h.pt = defaultPt ∧ s.h.mkW = 4 :=
  ⟨⟨rfl, rfl, rfl⟩, by decide, rfl, by decide, ⟨rfl, rfl, rfl⟩, ⟨rfl, rfl, rfl⟩, rfl, rfl, rfl⟩

/-! ## Single steps worked out from the rules -/

/-- The scalar registers after the step that runs a word as the first instruction after reset. -/
def after (w : BitVec 32) (regs : SMap Word) : SMap Word :=
  match step (withRegs (State.reset.withFetchWord 32 w.toNat) regs) with
  | .next t => t.h.a.regs
  | _ => []
/-- What an instruction leaves of a state. -/
def ends {α : Type} (i : Instr) (s : State) (f : State → α) : Option α :=
  match exec i s with | .next t => some (f t) | _ => none

/-- R356: sums modulo 2^64; x0 takes no value (R319). -/
theorem test_add_wraps : after (fR 0x10 3 1 2 0) [(1, -1#64), (2, 3#64)] = [(1, -1#64), (2, 3#64), (3, 2#64)] ∧
    after (fR 0x10 0 1 2 0) [(1, -1#64), (2, 3#64)] = [(1, -1#64), (2, 3#64)] := by decide

/-- R356: the high halves of −1 times −1 and of (2^64 − 1)². -/
theorem test_mulh : ends (.mulh 3 1 1) (withRegs tA [(1, -1#64)]) (fun t => t.reg 3) = some 0 ∧
    ends (.mulhu 3 1 1) (withRegs tA [(1, -1#64)]) (fun t => t.reg 3) = some (-2#64) := by decide

/-- R357: −7 by 2 is −3 with remainder −1; −2^63 by −1 stays; by 0 the quotient is all ones. -/
theorem test_div : let s := withRegs tA [(1, -7#64), (2, 2#64), (4, -1#64), (5, 0x8000000000000000#64)]
    ends (.div 3 1 2) s (fun t => t.reg 3) = some (-3#64) ∧ ends (.rem 3 1 2) s (fun t => t.reg 3) = some (-1#64) ∧
    ends (.div 3 5 4) s (fun t => t.reg 3) = some 0x8000000000000000#64 ∧ ends (.rem 3 5 4) s (fun t => t.reg 3) = some 0 ∧
    ends (.divu 3 1 0) s (fun t => t.reg 3) = some (-1#64) ∧ ends (.remu 3 1 0) s (fun t => t.reg 3) = some (-7#64) := by decide

/-- R356: a shift amount of 65 is 1. -/
theorem test_shifts : let s := withRegs tA [(1, 0x8000000000000001#64), (2, 65#64)]
    ends (.sll 3 1 2) s (fun t => t.reg 3) = some 2 ∧ ends (.srl 3 1 2) s (fun t => t.reg 3) = some 0x4000000000000000#64 ∧
    ends (.sra 3 1 2) s (fun t => t.reg 3) = some 0xC000000000000000#64 := by decide

/-- R360: LIH h = 0x1234 into bits 63:48. -/
theorem test_lih : ends (.lih 9 3 0x1234) (withRegs tA [(9, -1#64)]) (fun t => t.reg 9) = some 0x1234FFFFFFFFFFFF#64 := by decide

/-- R366: a byte load extends its sign, its unsigned form does not. -/
theorem test_load_byte : ends (.ldB 3 1 0) tM (fun t => t.reg 3) = some (-128#64) ∧
    ends (.ldBu 3 1 0) tM (fun t => t.reg 3) = some 128 := by decide +kernel

/-- R436: an add of 7 to a near counter at 100. -/
theorem test_cxadd : ends (.cxadd 6 1 2 0 0) tC (fun t => (t.reg 6, nearVal t (nearKey 0 0 5))) = some (100, 107) := by decide

/-- R440: the unsigned or signed minimum of a 32-bit word: 0x80 against −1. -/
theorem test_atom_min : ends (.atomMin 3 1 2 0 0 0) (withRegs tM [(1, 0x10000#64), (2, 0xFFFFFFFF#64)])
    (fun t => (t.reg 3, t.seenWord 0x10000 4)) = some (0x80#64, 0xFFFFFFFF) := by decide +kernel

/-- R95: the claim counter stood at 100 and the launch began at 98. -/
theorem test_strip : ends (.strip 6) tSt (fun t => (t.reg 6, nearVal t (nearKey 0 0 5))) = some (2, 101) := by decide +kernel

/-- R262, R264: an illegal word in a task with a handler. -/
theorem test_trap : ends (.illegalOp 0x0F000000) (tEx false 0x10000#64 none)
    (fun t => (t.h.th, t.h.tval, t.h.a.pos)) = some (true, 0x0F000000#64, .enter 0x10000#64 0x10000#64 none) := by decide

/-- R394: 1.0 + 1.0 and 2.0 + 2.0 in FP32. -/
theorem test_vadd : (match xEffect addOp (queued (tXr 8) (.vadd 0 1 2 0 0 0) 0 0).h with
    | .done h _ _ => (regCode (h.vreg 0) 0, regCode (h.vreg 0) 1) == (0x40000000, 0x40800000)
    | _ => false) = true := by decide +kernel

/-- R395: FP32 1.0·1.0 + 1.0 with the addend in VD, and 2.0·2.0 + 2.0 = 6.0. -/
theorem test_vfma : (match xEffect { addOp with instr := .vfma 0 1 2 0 0 0 } (tXr 8).h with
    | .done h _ _ => (regCode (h.vreg 0) 0, regCode (h.vreg 0) 1) == (0x40000000, 0x40C00000)
    | _ => false) = true := by decide +kernel

/-- R416: three bits below the length of 4, the lowest at 1. -/
theorem test_masks : let h := (tXr 8).h.setMask 2 30
    (match xEffect { addOp with instr := .mpopc 5 2, vl := 4 } h, xEffect { addOp with instr := .mfirst 5 2, vl := 4 } h with
     | .done a _ _, .done b _ _ => (a.x.reg 5, b.x.reg 5) == (3#64, 1#64)
     | _, _ => false) = true := by decide +kernel

/-- R381: a value into qx. -/
theorem test_qputs : ends (.qputs 2) tB (fun t => t.h.qx.entries) = some [5#64] := by decide

/-- R448: CSRS of xflags. -/
theorem test_csrs : ends (.csrs 6 2 0x005) { tB with h := { tB.h with xflags := 2 } } (fun t => (t.reg 6, t.h.xflags)) =
    some (2#64, 7#6) := by decide

/-- R51: a claim of a free lease makes the claimant active with a new epoch. -/
theorem test_claim : ends (.claim .b) (tLe 0 false) (fun t => (t.activeHost, t.cfg.epoch)) = some (some .b, 1) := by decide

end Sys2Proof.Tests
end

-- Settlements of the statements on memory and its canonical form (R4, R137, R319).

section

open Sys2Proof Sys2Proof.Machine

/-- Settles O8: the laws of physical memory (Laws/Memory.lean) for the bytes, those of a stream's registers
(Laws/Streams.lean) for the scalar file. -/
theorem readAfterWrite : Obligations.ReadAfterWrite := by
  refine ⟨fun m pa v n h => ⟨?_, ?_, ?_, ?_⟩, fun t d n v => ⟨?_, ?_, fun h => ⟨?_, ?_⟩⟩⟩
  · exact writeMem_wf pa v n h
  · exact readMem_writeMem pa v n h
  · exact fun a ha => get_writeMem_outside pa v n a h ha
  · exact fun i hi => get_writeMem_inside pa v n i h hi
  · exact t.reg_zero
  · exact t.setReg_zero v
  · exact Stream.setReg_wf h d v
  · exact Stream.reg_setReg h d n v

end

section
/-! Every step keeps memory and the tags of its lines canonical (O6). There is one lemma for each function of the
model that gives back a state: given a canonical state, it gives one back. Only `putLine`, `freshCheck`, `hostWrite`,
`atomAt`, `hostCounter`, `clearRun` and the resets write memory or the tags; every other function leaves both alone or
composes functions that keep them canonical, and its lemma composes theirs. A result of several parts has its state as
one of them, and an outcome that gives no state asks nothing. -/

namespace Sys2Proof.Machine

variable {α β : Type} {s t : State} {o p : Out}

/-! ### Canonical outcomes, and the ways to build them -/

/-- Where an outcome gives a state, that state is canonical. -/
def Out.canon : Out → Prop
  | .next t => t.canon
  | .fault _ | .refused _ => True

/-- Where the write of a control register gives a state, that state is canonical. -/
def CsrRes.canon : CsrRes → Prop
  | .ok t => t.canon
  | .fmt _ | .priv => True

theorem Out.canon.next (h : o.canon) (e : o = .next t) : t.canon := by
  subst e
  exact h

theorem CsrRes.canon.ok {r : CsrRes} (h : r.canon) (e : r = .ok t) : t.canon := by
  subst e
  exact h

theorem State.canon.of_eq (hs : s.canon) (hm : t.mem = s.mem) (hd : t.side = s.side) : t.canon := by
  unfold State.canon State.memWf
  rw [hm, hd]
  exact hs

theorem State.canon.writeBytes {pa v n} (hs : s.canon) (hm : t.mem = writeMem s.mem pa v n) (hd : t.side = s.side) :
    t.canon := by
  unfold State.canon State.memWf
  rw [hm, hd]
  exact ⟨writeMem_wf pa v n hs.1, hs.2⟩

theorem State.canon.ite {c : Prop} [Decidable c] (hs : s.canon) (ht : t.canon) : (if c then s else t).canon := by
  split
  · exact hs
  · exact ht

theorem Out.canon.ite {c : Prop} [Decidable c] (ho : o.canon) (hp : p.canon) : Out.canon (if c then o else p) := by
  split
  · exact ho
  · exact hp

theorem State.canon.pair {p : α × State} {a : α} (h : p.2.canon) (e : p = (a, t)) : t.canon := by
  subst e
  exact h

theorem State.canon.triple {p : α × β × State} {a : α} {b : β} (h : p.2.2.canon) (e : p = (a, b, t)) : t.canon := by
  subst e
  exact h

theorem State.canon.foldl {f : State → β → State} {l : List β} (hs : s.canon)
    (hf : ∀ {t x}, t.canon → (f t x).canon) : (l.foldl f s).canon := by
  induction l generalizing s with
  | nil => exact hs
  | cons x l ih => exact ih (hf hs)

theorem Out.canon.mapOut {f : State → State} (ho : o.canon) (hf : ∀ {t}, t.canon → (f t).canon) :
    Out.canon (mapOut f o) := by
  cases o with
  | next t => exact hf ho
  | fault | refused => trivial

/-! ### `Sys2Proof/Machine/State.lean` -/

/-- The premise of O6 is met: the state of reset is canonical. -/
theorem State.canon_reset : State.reset.canon := ⟨rfl, rfl⟩

/-! ### `Sys2Proof/Machine/Physical.lean` -/

theorem State.canon.setDir {pa d} (hs : s.canon) : (setDir s pa d).canon := hs.of_eq rfl rfl

theorem State.canon.putLine {pa data tag} (hs : s.canon) : (putLine s pa data tag).canon :=
  ⟨putLine_memWf pa data tag hs.1, SMap.wf_set hs.2⟩

theorem State.canon.putSlot {key v} (hs : s.canon) : (putSlot s key v).canon := hs.of_eq rfl rfl

theorem State.canon.draw (hs : s.canon) : (draw s).2.canon := hs.of_eq rfl rfl

theorem State.canon.emit {m} (hs : s.canon) : (s.emit m).canon := hs.of_eq rfl rfl

theorem State.canon.later {is} (hs : s.canon) : (s.later is).canon := hs.of_eq rfl rfl

theorem State.canon.fireIrq {i} (hs : s.canon) : (fireIrq s i).canon := by
  dsimp only [Machine.fireIrq]
  split
  · exact hs.of_eq rfl rfl
  · split
    · exact .emit (hs.of_eq rfl rfl)
    · exact hs.of_eq rfl rfl

theorem State.canon.setEntry {i e} (hs : s.canon) : (s.setEntry i e).canon := hs.of_eq rfl rfl

theorem State.canon.condMet {l j} (hs : s.canon) : (condMet s l j).canon := .ite hs hs.setEntry

theorem State.canon.sendPeer {node key req} (hs : s.canon) : (sendPeer s node key req).canon :=
  .ite hs hs.emit

theorem State.canon.wakeOne {w v} (hs : s.canon) : (wakeOne s w v).canon := by
  dsimp only [Machine.wakeOne]
  split
  · exact hs.later
  · exact hs.fireIrq
  · exact hs.condMet
  · exact hs.emit

theorem State.canon.wakeSatisfied {key base v} (hs : s.canon) : (wakeSatisfied s key base v).canon :=
  .foldl (hs.of_eq rfl rfl) (·.wakeOne)

theorem State.canon.addSlot {key d} (hs : s.canon) : (addSlot s key d).canon :=
  hs.putSlot.wakeSatisfied.of_eq rfl rfl

theorem State.canon.freshCheck {pa k} (hs : s.canon) : (freshCheck s pa k).canon :=
  ⟨hs.1, SMap.wf_set hs.2⟩

theorem State.canon.spoilSlots {key} (hs : s.canon) : (spoilSlots s key).canon := hs.of_eq rfl rfl

theorem State.canon.putError {source cls code index addr detail} (hs : s.canon) :
    (putError s source cls code index addr detail).canon :=
  .ite (hs.of_eq rfl rfl) (.addSlot (hs.of_eq rfl rfl))

theorem State.canon.errRead (hs : s.canon) : (errRead s).canon := by
  dsimp only [Machine.errRead]
  split
  · exact hs
  · split
    · exact .ite hs.spoilSlots hs
    · exact hs.putLine.freshCheck.putError
    · exact hs.putLine.freshCheck.spoilSlots.putError

theorem State.canon.logError {source cls code index addr detail} (hs : s.canon) :
    (logError s source cls code index addr detail).canon :=
  hs.errRead.putError

theorem State.canon.devicePoison {pa} (hs : s.canon) : (devicePoison s pa).2.canon := by
  dsimp only [Machine.devicePoison]
  split
  · exact hs.of_eq rfl rfl
  · exact hs

theorem State.canon.homeFix {pa k data tag} (hs : s.canon) : (homeFix s pa k data tag).canon :=
  .ite hs hs.putLine.freshCheck

theorem State.canon.spoilLine {pa k} (hs : s.canon) : (spoilLine s pa k).2.canon := hs.homeFix

theorem State.canon.storeRead {pa k} (hs : s.canon) : (storeRead s pa k).2.canon := by
  dsimp only [Machine.storeRead]
  split
  · exact hs.devicePoison.spoilLine
  · split
    · exact hs.devicePoison
    · exact hs.devicePoison.homeFix.logError
    · exact hs.devicePoison.spoilLine.logError

theorem State.canon.homeRead {pa k} (hs : s.canon) : (homeRead s pa k).2.canon := by
  dsimp only [Machine.homeRead]
  split
  · exact hs
  · exact hs.storeRead

theorem State.canon.share {pa k w noL1} (hs : s.canon) : (share s pa k w noL1).canon := hs.setDir

theorem State.canon.own {pa k w noL1} (hs : s.canon) : (own s pa k w noL1).canon := hs.setDir

theorem State.canon.lineWrite {pa k w noL1 data tag} (hs : s.canon) : (lineWrite s pa k w noL1 data tag).canon :=
  .ite hs hs.putLine.own.freshCheck

theorem State.canon.hostShare {h pa w} (hs : s.canon) : (hostShare s h pa w).canon :=
  .ite hs hs.setDir

theorem State.canon.hostWrite {pa data vc} (hs : s.canon) : (hostWrite s pa data vc).canon := by
  unfold Machine.hostWrite
  split
  · exact hs
  · extract_lets _ s1
    have hs1 : s1.canon := hs.setDir
    clear_value s1
    -- A variable for the byte count keeps unification from unrolling the write.
    generalize 64 = n
    exact hs1.writeBytes rfl rfl

theorem State.canon.peerRead {node pa} (hs : s.canon) : (peerRead s node pa).2.canon := by
  dsimp only [Machine.peerRead]
  split
  · exact hs
  · exact hs.draw.sendPeer

theorem State.canon.openPage {pa} (hs : s.canon) : (openPage s pa).canon :=
  .ite hs (hs.of_eq rfl rfl)

theorem State.canon.readLine {pa k lfmt w noL1} (hs : s.canon) : (readLine s pa k lfmt w noL1).2.canon := by
  dsimp only [Machine.readLine]
  split
  · exact hs.hostShare
  · exact hs.peerRead
  · exact hs
  · split
    · exact hs
    · exact .share (.homeRead (.ite hs.openPage hs))

theorem State.canon.writeLine {pa k w noL1 data tag} (hs : s.canon) : (writeLine s pa k w noL1 data tag).canon := by
  dsimp only [Machine.writeLine]
  split
  · exact hs.hostWrite
  · exact .ite hs.sendPeer hs
  · exact hs
  · exact hs
  · exact hs.lineWrite

theorem State.canon.writeBits {pa k w noL1 mask data tag} (hs : s.canon) :
    (writeBits s pa k w noL1 mask data tag).canon := by
  dsimp only [Machine.writeBits]
  split
  · exact .ite hs (.ite hs.sendPeer hs.sendPeer)
  · exact hs.writeLine

theorem State.canon.evictLine {pa} (hs : s.canon) : (evictLine s pa).canon :=
  .setDir (.ite hs.freshCheck hs)

theorem State.canon.slotMiss {key} (hs : s.canon) : (slotMiss s key).2.canon := by
  dsimp only [Machine.slotMiss]
  split
  · exact hs
  · split
    · exact hs.homeRead.spoilSlots
    · exact hs.homeRead.putSlot

theorem State.canon.slotRead {key} (hs : s.canon) : (slotRead s key).2.canon := by
  dsimp only [Machine.slotRead]
  split
  · exact hs.of_eq rfl rfl
  · exact hs.slotMiss

theorem State.canon.slotEvict {key} (hs : s.canon) : (slotEvict s key).canon := by
  unfold Machine.slotEvict
  split
  · exact hs
  · extract_lets pa s0 old pf s1
    have hs0 : s0.canon := .ite hs.spoilSlots hs
    have hs1 : s1.canon := hs0.putLine.freshCheck
    clear_value s1
    exact hs1.of_eq rfl rfl

theorem State.canon.partAdd {tower n d} (hs : s.canon) : (partAdd s tower n d).canon := by
  dsimp only [Machine.partAdd]
  split
  · next e => exact (hs.slotRead.pair e).addSlot
  · next e =>
      have hs1 := hs.slotRead.pair e
      exact .ite (hs1.of_eq rfl rfl) hs1

/-! ### `Sys2Proof/Machine/Harts.lean` -/

theorem State.canon.updHart {id f} (hs : s.canon) : (s.updHart id f).canon :=
  .ite (hs.of_eq rfl rfl) (hs.of_eq rfl rfl)

theorem State.canon.focus {id} (hs : s.canon) : (s.focus id).canon := by
  dsimp only [State.focus]
  split
  · exact hs
  · split
    · exact hs
    · exact hs.of_eq rfl rfl

theorem State.canon.dropHart (hs : s.canon) : s.dropHart.canon := by
  dsimp only [State.dropHart]
  split
  · exact hs
  · exact hs.of_eq rfl rfl

theorem State.canon.setCur {t} (hs : s.canon) : (s.setCur t).canon :=
  .ite (hs.of_eq rfl rfl) (hs.of_eq rfl rfl)

theorem State.canon.setReg {n v} (hs : s.canon) : (s.setReg n v).canon := hs.setCur

theorem State.canon.advance (hs : s.canon) : s.advance.canon := by
  dsimp only [State.advance]
  split
  · exact hs.setCur
  · exact hs

theorem State.canon.stall {st w} (hs : s.canon) : (s.stall st w).canon := hs.setCur

/-! ### `Sys2Proof/Machine/Translate.lean` -/

theorem State.canon.walkRead {tower pa} (hs : s.canon) : (walkRead s tower pa).2.canon := by
  dsimp only [Machine.walkRead]
  split
  · exact hs
  · split <;> exact hs.readLine

theorem State.canon.walkTable {tower asid va n n2 n3} (hs : s.canon) : (walkTable tower asid va n n2 n3 s).2.canon := by
  induction n generalizing tower asid va n2 n3 s with
  | zero => exact hs
  | succ _ ih =>
    dsimp only [Machine.walkTable]
    split
    · exact ih hs
    · split
      · next e3 => exact hs.walkRead.pair e3
      · next e3 =>
          have hs1 := hs.walkRead.pair e3
          split
          · exact hs1
          · split
            · split
              · exact hs1
              · exact ih (hs1.of_eq rfl rfl)
            · split <;> exact hs1

theorem State.canon.asidRoot {tower asid} (hs : s.canon) : (asidRoot s tower asid).2.canon := by
  dsimp only [Machine.asidRoot]
  split
  · next e => exact hs.walkRead.pair e
  · next e =>
      have hs1 := hs.walkRead.pair e
      split
      · exact hs1
      · split <;> exact hs1

theorem State.canon.walk {tower asid va} (hs : s.canon) : (walk s tower asid va).2.canon := by
  dsimp only [Machine.walk]
  split
  · next e => exact hs.asidRoot.pair e
  · next e => exact (hs.asidRoot.pair e).walkTable

theorem State.canon.pteSwap {tower pa e new last} (hs : s.canon) : (pteSwap s tower pa e new last).2.canon := by
  dsimp only [Machine.pteSwap]
  split
  · exact hs
  · exact hs.draw.sendPeer
  · split
    · next e4 =>
        have hs1 := hs.walkRead.pair e4
        split
        · exact hs1.readLine.writeLine
        · exact hs1
    · next e4 => exact hs.walkRead.pair e4

theorem State.canon.pteSet {tower pa e bits last} (hs : s.canon) : (pteSet s tower pa e bits last).2.canon :=
  hs.pteSwap

theorem State.canon.tlbFill {w asid va l} (hs : s.canon) : (tlbFill s w asid va l).canon :=
  hs.of_eq rfl rfl

theorem State.canon.walkTries {w asid va wr n} (hs : s.canon) : (walkTries w asid va wr n s).2.canon := by
  induction n generalizing w asid va wr s with
  | zero => exact hs
  | succ _ ih =>
    dsimp only [Machine.walkTries]
    split
    · next e2 => exact hs.walk.pair e2
    · next e2 =>
        have hs1 := hs.walk.pair e2
        split
        all_goals
          split
          · exact hs1.tlbFill
          · split
            · next e5 => exact (hs1.pteSet.pair e5).tlbFill
            · next e5 => exact ih (hs1.pteSet.pair e5)
            · next e5 => split <;> exact hs1.pteSet.pair e5

theorem State.canon.walkFill {w asid va wr} (hs : s.canon) : (walkFill s w asid va wr).2.canon :=
  hs.walkTries

theorem State.canon.translate {w asid va wr} (hs : s.canon) : (translate s w asid va wr).2.canon := by
  dsimp only [Machine.translate]
  split
  · split
    · split <;> next e3 => exact hs.walkFill.pair e3
    · exact hs
  · split <;> next e2 => exact hs.walkFill.pair e2

theorem State.canon.reach {w asid priv va n} (hs : s.canon) : (reach s w asid priv va n).2.canon := by
  dsimp only [Machine.reach]
  split
  · next e => exact hs.translate.pair e
  · next e => split <;> exact hs.translate.pair e

theorem State.canon.reachH {va n} (hs : s.canon) : (s.reachH va n).2.canon := hs.reach

theorem State.canon.tlbRemove {k} (hs : s.canon) : (tlbRemove s k).canon := hs.of_eq rfl rfl

/-! ### `Sys2Proof/Machine/UndoLog.lean` -/

theorem State.canon.heldRead {pa k} (hs : s.canon) : (heldRead s pa k).2.canon := by
  dsimp only [Machine.heldRead]
  split
  · exact hs
  · exact hs.peerRead
  · exact hs.homeRead

theorem State.canon.heldWrite {pa k mask data} (hs : s.canon) : (heldWrite s pa k mask data).canon :=
  hs.writeBits

theorem State.canon.heldPut {l va n v} (hs : s.canon) : (heldPut s l va n v).canon := by
  dsimp only [Machine.heldPut]
  split
  · exact hs
  · split
    all_goals
      split
      · exact hs.heldWrite
      · exact hs.heldRead.heldWrite

theorem State.canon.heldPutLines {l n n2 n3} (hs : s.canon) : (heldPutLines l n s n2 n3).canon := by
  induction n generalizing l s n2 n3 with
  | zero => exact hs
  | succ _ ih =>
    dsimp only [Machine.heldPutLines]
    split
    · exact hs
    · exact ih hs.heldWrite

theorem State.canon.heldGetLines {l n va} (hs : s.canon) : (heldGetLines l n s va).2.2.canon := by
  induction n generalizing s va with
  | zero => exact hs
  | succ n ih =>
    rw [Machine.heldGetLines]
    split
    · exact hs
    · dsimp only
      exact ih hs.heldRead

theorem State.canon.heldGet {l va n} (hs : s.canon) : (heldGet s l va n).2.canon := by
  dsimp only [Machine.heldGet]
  split
  · exact hs
  · exact hs.heldRead

theorem State.canon.updLog {l f} (hs : s.canon) : (s.updLog l f).canon := hs.setEntry

theorem State.canon.putRec {l off v} (hs : s.canon) : (putRec s l off v).canon := hs.heldPutLines

theorem State.canon.takeRoom {l type win units} (hs : s.canon) : (takeRoom s l type win units).2.canon :=
  .updLog (.ite hs hs.putRec)

theorem State.canon.appendRec {w type key body} (hs : s.canon) : (appendRec s w type key body).canon :=
  .ite hs (.ite hs.setEntry.takeRoom.putRec.updLog (.ite hs.setEntry.logError hs.setEntry))

theorem State.canon.logLine {w pa va key nl old} (hs : s.canon) : (logLine s w pa va key nl old).canon :=
  .ite hs (.ite (.setDir (.ite hs.appendRec hs.appendRec)) (.ite hs.appendRec hs.appendRec))

theorem State.canon.logExit {w kind addr count} (hs : s.canon) : (logExit s w kind addr count).canon :=
  hs.appendRec

theorem State.canon.logCounter {w key handle old} (hs : s.canon) : (logCounter s w key handle old).canon := by
  dsimp only [Machine.logCounter]
  split
  · exact .ite hs (hs.appendRec.of_eq rfl rfl)
  · exact hs.appendRec

theorem State.canon.clearMarks {l} (hs : s.canon) : (clearMarks s l).canon := hs.of_eq rfl rfl

theorem State.canon.putHeader {l hold} (hs : s.canon) : (putHeader s l hold).canon :=
  hs.heldPutLines

/-! ### `Sys2Proof/Machine/Access.lean` -/

theorem State.canon.reachPieces {need l} (hs : s.canon) : (reachPieces s need l).2.canon := by
  induction l generalizing s need with
  | nil => exact hs
  | cons _ _ ih =>
    dsimp only [Machine.reachPieces]
    split
    · next e2 => exact hs.reachH.pair e2
    · next e2 => split <;> next e3 => exact (ih (hs.reachH.pair e2)).pair e3

theorem State.canon.readPieces {l} (hs : s.canon) : (readPieces s l).2.canon := by
  induction l generalizing s with
  | nil => exact hs
  | cons _ _ ih =>
    dsimp only [Machine.readPieces]
    split
    · exact hs.readLine
    · split
      · exact hs.readLine
      · split <;> next e4 => exact (ih hs.readLine).pair e4

theorem State.canon.scalarLoad {va n} (hs : s.canon) : (scalarLoad s va n).2.canon := by
  dsimp only [Machine.scalarLoad]
  split
  · next e => exact hs.reachPieces.pair e
  · next e =>
      have hs1 := hs.reachPieces.pair e
      split
      · exact hs1
      · exact hs1.readPieces

theorem State.canon.logExitsOf {w pas named} (hs : s.canon) : (logExitsOf s w pas named).canon := by
  dsimp only [Machine.logExitsOf]
  split
  · exact hs
  · split
    · split
      · exact hs
      · exact .ite hs.logExit hs
    · split
      · split
        · exact hs.logExit
        · exact .logExit (.ite hs.logExit hs)
      · split
        · exact hs
        · exact .ite hs.logExit hs

theorem State.canon.logExits {w pas} (hs : s.canon) : (logExits s w pas).canon := hs.logExitsOf

theorem State.canon.logIfHome {w x va old} (hs : s.canon) : (logIfHome s w x va old).canon := by
  dsimp only [Machine.logIfHome]
  split
  · exact hs
  · split
    · exact hs
    · exact hs
    · exact hs
    · exact hs.logLine

theorem State.canon.writePiece {w va n v x} (hs : s.canon) : (writePiece s w va n v x).2.canon := by
  dsimp only [Machine.writePiece]
  split
  · exact hs
  · split
    all_goals
      split
      · exact hs
      · exact hs.readLine.logIfHome.writeBits

theorem State.canon.storePieces {w l n} (hs : s.canon) : (storePieces w l n s).2.canon := by
  induction l generalizing w n s with
  | nil => exact hs
  | cons _ _ ih =>
    dsimp only [Machine.storePieces]
    split
    all_goals
      split
      · next e3 => exact ih (hs.reachH.pair e3)
      · next e3 => split <;> next e4 => exact ih ((hs.reachH.pair e3).writePiece.pair e4)

theorem State.canon.scalarStore {w va n v} (hs : s.canon) : (scalarStore s w va n v).2.canon := by
  dsimp only [Machine.scalarStore]
  split
  · exact hs
  · exact hs.logExitsOf.storePieces

theorem State.canon.tagLoad {va} (hs : s.canon) : (tagLoad s va).2.canon := by
  dsimp only [Machine.tagLoad]
  split
  · next e => exact hs.reachH.pair e
  · next e => exact (hs.reachH.pair e).readLine

theorem State.canon.writeTagAt {pa k w noL1 data tag} (hs : s.canon) : (writeTagAt s pa k w noL1 data tag).canon := by
  dsimp only [Machine.writeTagAt]
  split
  · exact hs.sendPeer
  · exact hs.writeLine

theorem State.canon.tagStore {w va v} (hs : s.canon) : (tagStore s w va v).2.canon := by
  dsimp only [Machine.tagStore]
  split
  · exact hs
  · split
    · next e2 => exact hs.reachH.pair e2
    · next e2 =>
        have hs1 := hs.reachH.pair e2
        split
        · exact hs1
        · split
          all_goals
            split
            · exact hs1
            · exact hs1.readLine.logExits.logIfHome.writeTagAt

theorem State.canon.reachElems {need ew l} (hs : s.canon) : (reachElems need ew l s).2.2.canon := by
  induction l generalizing need ew s with
  | nil => exact hs
  | cons _ _ ih =>
    dsimp only [Machine.reachElems]
    split
    · next e2 => exact ih (hs.reachH.pair e2)
    · next e2 => split <;> exact ih (hs.reachH.pair e2)

theorem State.canon.readElemLines {l l2} (hs : s.canon) : (readElemLines l l2 s).2.canon := by
  induction l generalizing l2 s with
  | nil => exact hs
  | cons _ _ ih =>
    dsimp only [Machine.readElemLines]
    split
    · exact ih hs
    · exact ih hs.readLine

theorem State.canon.storeLines {r w ew rm all l} (hs : s.canon) : (storeLines r w ew rm all l s).2.2.canon := by
  induction l generalizing r w ew rm all s with
  | nil => exact hs
  | cons _ _ ih =>
    dsimp only [Machine.storeLines]
    split
    · exact ih hs
    · split
      all_goals
        split
        · exact ih hs
        · split
          · exact ih hs.readLine
          · exact ih hs.readLine.logIfHome.writeBits

theorem State.canon.vectorStore {w r ew rm els} (hs : s.canon) : (vectorStore s w r ew rm els).2.canon := by
  dsimp only [Machine.vectorStore]
  split
  · exact hs
  · split <;> exact hs.reachElems.logExitsOf.storeLines.of_eq rfl rfl

theorem State.canon.atomAt {w va x op bits v expected} (hs : s.canon) :
    (atomAt s w va x op bits v expected).2.canon := by
  unfold Machine.atomAt
  split
  · exact hs
  · split
    · exact hs
    · split
      · exact hs
      · split
        · exact hs
        · exact hs.logExits.setDir.writeBytes rfl rfl
    · split
      · exact hs
      · dsimp only
        split <;> exact hs.logExits.draw.sendPeer
    · dsimp only
      split
      · exact hs.readLine
      · exact hs.readLine.logIfHome.writeLine

/-! ### `Sys2Proof/Machine/Counters.lean` -/

theorem State.canon.putNear {key v} (hs : s.canon) : (putNear s key v).canon := hs.of_eq rfl rfl

theorem State.canon.wakeNear {id p v} (hs : s.canon) : (wakeNear s id p v).canon := hs.later

theorem State.canon.nearAdd {id p d} (hs : s.canon) : (nearAdd s id p d).canon :=
  hs.putNear.wakeNear

theorem State.canon.slotSet {w tower slot old v} (hs : s.canon) : (slotSet s w tower slot old v).2.canon := by
  dsimp only [Machine.slotSet]
  split
  · exact hs
  · split
    · exact hs.putSlot.logCounter.putSlot
    · exact hs.putSlot.putSlot

theorem State.canon.slotOp {w tower slot op} (hs : s.canon) : (slotOp s w tower slot op).2.canon := by
  dsimp only [Machine.slotOp]
  split
  · exact hs.slotRead.slotSet
  · split
    · exact hs.slotRead.slotSet
    · exact hs.slotRead
  · exact hs.slotRead
  · split
    · exact .addSlot (.ite hs.slotRead.logCounter hs.slotRead.logCounter.logExit)
    · exact hs.slotRead.addSlot
  · split
    · exact .addSlot (.ite hs.slotRead.logCounter hs.slotRead.logCounter.logExit)
    · exact hs.slotRead.addSlot
  · exact hs.slotRead
  · exact hs.slotRead

theorem State.canon.logFar {w r op} (hs : s.canon) : (logFar s w r op).canon := by
  dsimp only [Machine.logFar]
  split
  · exact .ite hs.logExit hs
  · exact hs

theorem State.canon.hostCounter {w r pa op} (hs : s.canon) : (hostCounter s w r pa op).2.canon := by
  unfold Machine.hostCounter
  extract_lets v
  split
  · split
    · exact hs
    · exact hs.logFar.setDir.writeBytes rfl rfl
  · split
    · exact hs
    · exact hs.logFar.setDir.writeBytes rfl rfl
  · exact hs

theorem State.canon.peerCounter {w tower r node op} (hs : s.canon) : (peerCounter s w tower r node op).2.canon := by
  dsimp only [Machine.peerCounter]
  split
  · split
    all_goals
      split
      · exact hs.logFar.logError
      · exact hs
  · split
    · exact .sendPeer (.ite hs.draw.logFar hs.draw)
    · split
      all_goals
        split
        · exact .logError (.sendPeer (.ite hs.draw.logFar hs.draw))
        · exact .sendPeer (.ite hs.draw.logFar hs.draw)

theorem State.canon.counterOp {r op} (hs : s.canon) : (counterOp s r op).2.canon := by
  dsimp only [Machine.counterOp]
  split
  · exact hs
  · split
    · exact hs
    · split
      · exact hs
      · split
        · exact hs.nearAdd
        · exact hs.nearAdd
        · split
          · exact hs
          · exact hs.putNear
        · exact hs
        · exact hs
    · split
      · exact hs
      · split
        · exact hs
        · split <;> next e5 => exact hs.slotOp.pair e5
    · split
      all_goals
        split
        · exact hs
        · split
          · exact hs
          · exact hs.hostCounter
    · split
      all_goals
        split
        · exact hs
        · split
          · exact hs
          · exact hs.peerCounter

theorem State.canon.farAdd {tower priv asid r d} (hs : s.canon) : (farAdd s tower priv asid r d).2.canon := by
  dsimp only [Machine.farAdd]
  split
  · exact hs
  · split
    · exact hs
    · exact hs
    · split
      · exact hs
      · split <;> next e4 => exact hs.slotOp.pair e4
    · exact hs.hostCounter
    · split
      · exact hs.logError
      · split
        · exact hs.draw.sendPeer
        · exact hs.draw.sendPeer.logError

theorem State.canon.registerWaiter {tower slot thr who} (hs : s.canon) :
    (registerWaiter s tower slot thr who).2.canon := by
  dsimp only [Machine.registerWaiter]
  split
  · next e => exact hs.slotRead.pair e
  · next e =>
      have hs1 := hs.slotRead.pair e
      split
      · exact hs1
      · split <;> exact hs1.of_eq rfl rfl

theorem State.canon.peerWait {node r thr who} (hs : s.canon) : (peerWait s node r thr who).canon :=
  .sendPeer (hs.of_eq rfl rfl)

theorem State.canon.unwait {w} (hs : s.canon) : (unwait s w).canon := by
  dsimp only [Machine.unwait]
  split
  · exact .ite hs hs.sendPeer
  · exact hs

theorem State.canon.dropRemote {who} (hs : s.canon) : (dropRemote s who).canon :=
  .foldl (hs.of_eq rfl rfl) (·.unwait)

theorem State.canon.dropWaiter {who} (hs : s.canon) : (dropWaiter s who).canon :=
  .dropRemote (hs.of_eq rfl rfl)

/-! ### `Sys2Proof/Machine/Context.lean` -/

theorem State.canon.areaPut {l va lines v} (hs : s.canon) : (areaPut l s va lines v).canon :=
  hs.heldPutLines

theorem State.canon.areaGet {l va lines} (hs : s.canon) : (areaGet l s va lines).2.canon :=
  hs.heldGetLines

theorem State.canon.areaPuts {l base l2} (hs : s.canon) : (areaPuts l base l2 s).canon := by
  induction l2 generalizing l base s with
  | nil => exact hs
  | cons _ _ ih =>
    dsimp only [Machine.areaPuts]
    exact ih (.ite hs.areaPut hs.heldPut)

theorem State.canon.putScalarQ {l base off q} (hs : s.canon) : (putScalarQ l base off q s).canon :=
  hs.foldl (·.heldPut)

theorem State.canon.putSfrq {l base h} (hs : s.canon) : (putSfrq l base h s).canon := hs.areaPuts

theorem State.canon.putImage {l base h kind snap} (hs : s.canon) : (putImage s l base h kind snap).canon :=
  .ite hs.areaPuts.putScalarQ.putScalarQ hs.areaPuts.putScalarQ.putScalarQ.putSfrq

theorem State.canon.getRegs {l base tagOff dataOff joined i} (hs : s.canon) :
    (getRegs l base tagOff dataOff joined i s).2.canon := by
  dsimp only [Machine.getRegs]
  exact hs.areaGet.areaGet

theorem State.canon.getQueue {l base joined q head pend n n2} (hs : s.canon) :
    (getQueue l base joined q head pend n n2 s).2.canon := by
  induction n generalizing l base joined q head pend n2 s with
  | zero => exact hs
  | succ _ ih =>
    dsimp only [Machine.getQueue]
    exact ih hs.getRegs

theorem State.canon.getSf {l base joined k} (hs : s.canon) : (getSf l base joined k s).2.canon := by
  unfold Machine.getSf
  split
  next e =>
    have hs1 := hs.areaGet.pair e
    extract_lets
    split
    · exact hs1
    · dsimp only
      exact hs1.areaGet.areaGet.areaGet.areaGet

theorem State.canon.getSfs {l base joined n n2} (hs : s.canon) : (getSfs l base joined n n2 s).2.canon := by
  induction n generalizing l base joined n2 s with
  | zero => exact hs
  | succ _ ih =>
    dsimp only [Machine.getSfs]
    exact ih hs.getSf

theorem State.canon.getVregs {l base n n2 x} (hs : s.canon) : (getVregs l base n n2 x s).2.canon := by
  induction n generalizing l base n2 x s with
  | zero => exact hs
  | succ _ ih =>
    dsimp only [Machine.getVregs]
    exact ih hs.getRegs

theorem State.canon.getMasks {l base n n2 x} (hs : s.canon) : (getMasks l base n n2 x s).2.canon := by
  induction n generalizing l base n2 x s with
  | zero => exact hs
  | succ _ ih =>
    dsimp only [Machine.getMasks]
    exact ih hs.areaGet

/-- The kernel checks the recursion with `getQueue` as a variable: with its definition in sight it evaluates the number
of entries, which it reaches by counting. -/
theorem State.canon.getQueues {l base rec n q h} (hs : s.canon) : (getQueues l base rec n q h s).2.canon := by
  obtain ⟨get, hget⟩ : ∃ f, f = Machine.getQueue := ⟨_, rfl⟩
  have hq {s : State} {l base j q head p m i} (hs : s.canon) : (get l base j q head p m i s).2.canon :=
    hget ▸ hs.getQueue
  delta Machine.getQueues
  delta getQueues._f
  rw [← hget]
  induction n generalizing q h s with
  | zero => exact hs
  | succ n ih => exact ih (hq hs)

theorem State.canon.getTiles {l base n n2 x} (hs : s.canon) : (getTiles l base n n2 x s).2.canon := by
  induction n generalizing l base n2 x s with
  | zero => exact hs
  | succ _ ih =>
    dsimp only [Machine.getTiles]
    split
    · exact ih hs.areaGet
    · exact ih hs.areaGet.areaGet

theorem State.canon.restoreNear {h v} (hs : s.canon) : (restoreNear s h v).canon :=
  hs.foldl (·.putNear)

/-- `getQueues` is a variable here for the reason given at `State.canon.getQueues`. -/
theorem State.canon.getImage {l base tiles h} (hs : s.canon) : (getImage s l base tiles h).2.canon := by
  obtain ⟨queues, hqueues⟩ : ∃ f, f = Machine.getQueues := ⟨_, rfl⟩
  have hq {s : State} {l base rec n q h} (hs : s.canon) : (queues l base rec n q h s).2.canon :=
    hqueues ▸ hs.getQueues
  obtain ⟨image, himage⟩ : ∃ f, f = Machine.getImage := ⟨_, rfl⟩
  rw [← himage]
  delta Machine.getImage at himage
  rw [← hqueues] at himage
  subst himage
  exact (hq hs.areaGet.areaGet.areaGet.areaGet.areaGet.areaGet.areaGet.getMasks.getVregs).getTiles.getSfs
    |>.restoreNear.areaPut

/-! ### `Sys2Proof/Machine/InFlight.lean` -/

theorem State.canon.arrivalOf {p park} (hs : s.canon) : (arrivalOf s p park).2.canon :=
  hs.readElemLines

theorem State.canon.arriveAt {n park} (hs : s.canon) : (arriveAt s n park).2.canon := by
  dsimp only [Machine.arriveAt]
  split
  · exact hs
  · split
    · exact hs.of_eq rfl rfl
    · exact hs.arrivalOf.of_eq rfl rfl

theorem State.canon.arriveOne (hs : s.canon) : (arriveOne s).2.canon := by
  dsimp only [Machine.arriveOne]
  split
  · exact hs
  · exact hs.arriveAt
  · exact hs.draw.arriveAt

theorem State.canon.settleFrom {park n} (hs : s.canon) : (settleFrom park n s).2.canon := by
  induction n generalizing park s with
  | zero => exact hs
  | succ _ ih =>
    dsimp only [Machine.settleFrom]
    split
    · exact hs
    · split
      · next e3 => exact hs.arriveAt.pair e3
      · next e3 => exact ih (hs.arriveAt.pair e3)

theorem State.canon.settleLoads {park} (hs : s.canon) : (settleLoads s park).2.canon :=
  hs.settleFrom

theorem State.canon.tryStore {st} (hs : s.canon) : (tryStore s st).2.canon := by
  dsimp only [Machine.tryStore]
  split
  · exact hs.scalarStore
  · split
    · exact hs.tagStore
    · exact hs.vectorStore

theorem State.canon.resolveAt {n} (hs : s.canon) : (resolveAt s n).canon := by
  dsimp only [Machine.resolveAt]
  split
  · exact hs
  · split
    · next e2 => exact hs.tryStore.pair e2
    · next e2 => exact (hs.tryStore.pair e2).of_eq rfl rfl
    · next e2 => exact (hs.tryStore.pair e2).of_eq rfl rfl

theorem State.canon.resolveOne (hs : s.canon) : (resolveOne s).canon := hs.resolveAt

theorem State.canon.settleStoresFrom {n} (hs : s.canon) : (settleStoresFrom n s).canon := by
  induction n generalizing s with
  | zero => exact hs
  | succ _ ih =>
    dsimp only [Machine.settleStoresFrom]
    exact ih hs.resolveOne

theorem State.canon.settleStores (hs : s.canon) : (settleStores s).canon := hs.settleStoresFrom

theorem State.canon.resolveSome (hs : s.canon) : (resolveSome s).canon := by
  dsimp only [Machine.resolveSome]
  split
  · exact hs
  · exact hs.resolveAt
  · exact hs.draw.resolveAt

theorem State.canon.resolveMeeting {keys n} (hs : s.canon) : (resolveMeeting keys n s).canon := by
  induction n generalizing keys s with
  | zero => exact hs
  | succ _ ih =>
    dsimp only [Machine.resolveMeeting]
    split
    · exact ih hs.resolveAt
    · exact hs

theorem State.canon.noteWrite {d} (hs : s.canon) : (s.noteWrite d).canon :=
  .ite (.ite (hs.of_eq rfl rfl) hs) (hs.of_eq rfl rfl)

theorem State.canon.writeReg {d v} (hs : s.canon) : (s.writeReg d v).canon :=
  .ite hs.noteWrite.setReg.advance hs

/-! ### `Sys2Proof/Machine/Ops.lean` -/

theorem State.canon.updGovs {f} (hs : s.canon) : (updGovs s f).canon := hs.of_eq rfl rfl

theorem State.canon.withdrawCmd {id} (hs : s.canon) : (withdrawCmd s id).canon := by
  unfold Machine.withdrawCmd
  exact hs.of_eq rfl rfl

theorem State.canon.dropLeaves {id} (hs : s.canon) : (dropLeaves s id).canon :=
  hs.withdrawCmd.updGovs

theorem State.canon.withdrawAsks {id} (hs : s.canon) : (withdrawAsks s id).canon :=
  hs.withdrawCmd.updGovs

theorem State.canon.withdrawStopped {id onX t} (hs : s.canon) : (withdrawStopped s id onX t).canon :=
  .ite (.ite hs.updGovs hs.withdrawCmd) hs

theorem State.canon.leaveSlot {gone} (hs : s.canon) : (leaveSlot s gone).canon :=
  hs.dropLeaves.dropWaiter.of_eq rfl rfl

theorem State.canon.counterTouch {r} (hs : s.canon) : (counterTouch s r).canon := by
  dsimp only [Machine.counterTouch]
  split
  · exact hs.slotRead
  · exact hs

theorem State.canon.freeEntry {l} (hs : s.canon) : (freeEntry s l).canon := by
  dsimp only [Machine.freeEntry]
  split
  · exact hs.setEntry.clearMarks
  · split
    · exact hs.farAdd.setEntry.clearMarks
    · split
      · exact .clearMarks (.setEntry (.ite hs.farAdd hs.farAdd.logError))
      · exact hs.farAdd.setEntry.clearMarks

theorem State.canon.settleEntry {l} (hs : s.canon) : (settleEntry s l).canon :=
  .ite (.freeEntry (.setEntry (.ite hs.counterTouch hs))) (.setEntry (.ite hs.counterTouch hs))

theorem State.canon.updTasks {l f} (hs : s.canon) : (updTasks s l f).canon := hs.of_eq rfl rfl

theorem State.canon.disown {l ended} (hs : s.canon) : (disown s l ended).canon := hs.of_eq rfl rfl

theorem State.canon.killLaunch {l} (hs : s.canon) : (killLaunch s l).canon :=
  hs.setEntry.disown.updTasks.settleEntry

theorem State.canon.quietHeader {l} (hs : s.canon) : (quietHeader s l).canon := .ite hs.putHeader hs

theorem State.canon.freeSlot {l} (hs : s.canon) : (freeSlot s l).canon :=
  hs.dropHart.leaveSlot.quietHeader.settleEntry

theorem State.canon.freeTaskSlot {l} (hs : s.canon) : (freeTaskSlot s l).canon := hs.disown.freeSlot

theorem State.canon.endTask (hs : s.canon) : (endTask s).canon := by
  dsimp only [Machine.endTask]
  split
  · exact hs.setCur
  · exact hs.freeTaskSlot

theorem State.canon.killTask (hs : s.canon) : (killTask s).canon := by
  dsimp only [Machine.killTask]
  split
  · exact hs.withdrawCmd.settleStores
  · split
    · exact hs.withdrawCmd.settleStores
    · exact hs.withdrawCmd.settleStores.freeTaskSlot

theorem State.canon.takeTrap {c} (hs : s.canon) : (takeTrap s c).canon := by
  unfold Machine.takeTrap
  split
  next e =>
    extract_lets s2 p both h h1 fatal h2 s3 base s4 h3
    have hs2 : s2.canon := (hs.settleLoads.pair e).settleStores
    have hs3 : s3.canon := .dropWaiter (.withdrawAsks (hs2.of_eq rfl rfl))
    have hs4 : s4.canon := by
      dsimp only [s4]
      split
      · exact hs3
      · exact .ite hs3.putSfrq.areaPut hs3.putSfrq.areaPut.areaPut
    clear_value s4
    split
    · exact hs2
    · split
      · exact hs4.of_eq rfl rfl
      · split
        · exact hs4.of_eq rfl rfl
        · exact .killLaunch (hs4.of_eq rfl rfl)

theorem State.canon.raise {code acc level tval} (hs : s.canon) : (raise s code acc level tval).canon :=
  .ite hs hs.takeTrap

theorem State.canon.raiseErr {acc e} (hs : s.canon) : (raiseErr s acc e).canon := hs.raise

theorem State.canon.returnTrap (hs : s.canon) : (returnTrap s).canon := by
  dsimp only [Machine.returnTrap]
  split
  · exact hs.setCur
  · exact hs.areaGet.areaGet.of_eq rfl rfl

theorem State.canon.fetchAt {va} (hs : s.canon) : (fetchAt s va).2.canon := by
  dsimp only [Machine.fetchAt]
  split
  · next e => exact hs.reachH.pair e
  · next e => split <;> exact (hs.reachH.pair e).readLine

theorem State.canon.fetchMany {n x} (hs : s.canon) : (fetchMany n x s).2.canon := by
  induction n generalizing x s with
  | zero => exact hs
  | succ _ ih =>
    dsimp only [Machine.fetchMany]
    split
    · next e2 => exact hs.fetchAt.pair e2
    · next e2 => split <;> next e3 => exact (ih (hs.fetchAt.pair e2)).pair e3

theorem State.canon.loadBlock {hdr known} (hs : s.canon) : (loadBlock s hdr known).2.canon := by
  unfold Machine.loadBlock
  extract_lets first
  have fetched : first.2.canon := by
    dsimp only [first]
    split
    · exact hs
    · exact hs.fetchAt
  clear_value first
  split
  · exact fetched
  · split
    · exact fetched
    · split
      · exact fetched
      · extract_lets
        split
        · next e => exact State.canon.pair (State.canon.fetchMany fetched) e
        · next e =>
          have hs2 := State.canon.pair (State.canon.fetchMany fetched) e
          split
          · exact hs2
          · extract_lets
            split <;> exact hs2

theorem State.canon.startBlock {b} (hs : s.canon) : (startBlock s b).canon := .ite hs hs.setCur

theorem State.canon.raiseFall {hdr} (hs : s.canon) : (raiseFall s hdr).canon :=
  .ite hs.setCur.raise.setCur hs.setCur.raise

theorem State.canon.enterBlock {hdr via head} (hs : s.canon) : (enterBlock s hdr via head).canon := by
  dsimp only [Machine.enterBlock]
  split
  · exact hs.startBlock
  · split
    · exact .ite hs.raise hs.raiseFall
    · split
      · next e3 => exact (hs.loadBlock.pair e3).startBlock
      · next e3 =>
          have hs1 := hs.loadBlock.pair e3
          exact .ite hs1.raise hs1.raiseFall
      · next e3 => exact (hs.loadBlock.pair e3).raiseErr
      · next e3 => exact (hs.loadBlock.pair e3).raise

theorem State.canon.reloadBlock {hdr w} (hs : s.canon) : (reloadBlock s hdr w).canon := by
  dsimp only [Machine.reloadBlock]
  split
  · next e => exact (hs.loadBlock.pair e).setCur
  · next e => exact (hs.loadBlock.pair e).raise
  · next e => exact (hs.loadBlock.pair e).raiseErr
  · next e => exact (hs.loadBlock.pair e).raise

theorem State.canon.goTo {t head link} (hs : s.canon) : (goTo s t head link).canon := by
  dsimp only [Machine.goTo]
  split
  · exact hs.noteWrite.setReg.setCur
  · exact hs.setCur

theorem State.canon.transfer {t link} (hs : s.canon) : (transfer s t link).canon := by
  dsimp only [Machine.transfer]
  split
  · exact hs
  · split
    · exact hs.raise
    · split
      · exact hs.goTo
      · split
        · next e4 =>
            have hs1 := hs.fetchAt.pair e4
            exact .ite hs1 hs1.goTo.raiseErr
        · next e4 =>
            have hs1 := hs.fetchAt.pair e4
            exact .ite hs1.goTo hs1.raise

theorem State.canon.startPark {kind} (hs : s.canon) : (startPark s kind).canon :=
  hs.dropLeaves.dropWaiter.of_eq rfl rfl

theorem State.canon.softStop {kind} (hs : s.canon) : (softStop s kind).canon := by
  unfold Machine.softStop
  extract_lets h a x h1 s0 s1
  have hs0 : s0.canon := .withdrawStopped (.withdrawStopped (hs.of_eq rfl rfl))
  have hs1 : s1.canon := .ite hs0.dropWaiter hs0
  clear_value s1
  exact .ite hs (.ite (.startPark (hs1.of_eq rfl rfl)) hs1)

theorem State.canon.hardStop {kind} (hs : s.canon) : (hardStop s kind).canon := by
  dsimp only [Machine.hardStop]
  split
  · next e => exact (hs.settleLoads.pair e).takeTrap
  · next e => exact .startPark ((hs.settleLoads.pair e).of_eq rfl rfl)

theorem State.canon.endDebug {status res0 res1} (hs : s.canon) : (endDebug s status res0 res1).canon :=
  .ite (hs.of_eq rfl rfl) (.farAdd (hs.of_eq rfl rfl))

theorem State.canon.afterPark {l} (hs : s.canon) : (afterPark s l).canon := .ite hs.endDebug hs

theorem State.canon.parkSave (hs : s.canon) : (parkSave s).canon := by
  dsimp only [Machine.parkSave]
  split
  · exact hs.killTask
  · split
    · exact hs.settleStores
    · split
      · exact hs.settleStores
      · exact hs.settleStores.putImage.setEntry.freeSlot.afterPark

/-! ### `Sys2Proof/Machine/Sched.lean` -/

theorem State.canon.holdPages {asid n n2 x} (hs : s.canon) : (holdPages asid n n2 x s).2.canon := by
  induction n generalizing asid n2 x s with
  | zero => exact hs
  | succ _ ih =>
    dsimp only [Machine.holdPages]
    split
    · next e2 => exact hs.translate.pair e2
    · next e2 =>
        have hs1 := hs.translate.pair e2
        split
        · exact ih hs1
        · exact hs1

theorem State.canon.refuseCondition {l j} (hs : s.canon) : (refuseCondition s l j).canon :=
  hs.setEntry

theorem State.canon.startCondition {l j handle thr} (hs : s.canon) : (startCondition s l j handle thr).canon := by
  dsimp only [Machine.startCondition]
  split
  · split
    · exact hs.refuseCondition.logError
    · split
      · next e3 => exact (hs.registerWaiter.pair e3).condMet
      · next e4 => exact hs.registerWaiter.pair e4
  · exact .ite hs.condMet hs
  · exact .ite hs.draw.peerWait hs.draw.refuseCondition
  · exact hs

theorem State.canon.startConditions {l} (hs : s.canon) : (startConditions s l).canon :=
  hs.foldl (fun ht => .ite ht.startCondition ht)

theorem State.canon.acceptLaunch {v by_} (hs : s.canon) : (acceptLaunch s v by_).2.2.canon := by
  unfold Machine.acceptLaunch
  extract_lets r
  split
  · exact hs
  · split
    · next e1 => exact hs.holdPages.pair e1
    · next e1 =>
      have hs1 := hs.holdPages.pair e1
      split
      · next e2 => exact hs1.holdPages.pair e2
      · next e2 =>
        have hs2 := hs1.holdPages.pair e2
        split
        · exact hs2
        · split
          · exact hs2
          · exact .startConditions (hs2.of_eq rfl rfl)

theorem State.canon.dropL1 {tower core} (hs : s.canon) : (dropL1 s tower core).canon :=
  hs.foldl (fun ht => .ite ht.setDir ht.evictLine)

theorem State.canon.convertCore {id split} (hs : s.canon) : (convertCore s id split).canon :=
  .of_eq (.ite hs.dropL1 hs) rfl rfl

theorem State.canon.clearNear {h} (hs : s.canon) : (clearNear s h).canon := hs.foldl (·.putNear)

theorem State.canon.dispatch {l id} (hs : s.canon) : (dispatch s l id).canon :=
  hs.convertCore.clearNear.of_eq rfl rfl

/-- `getImage` is a variable here for the reason given at `State.canon.getQueues`. -/
theorem State.canon.resumeTask {l p id} (hs : s.canon) : (resumeTask s l p id).canon := by
  obtain ⟨image, himage⟩ : ∃ f, f = Machine.getImage := ⟨_, rfl⟩
  have hi {s : State} {l base tiles h} (hs : s.canon) : (image s l base tiles h).2.canon := himage ▸ hs.getImage
  obtain ⟨resume, hresume⟩ : ∃ f, f = Machine.resumeTask := ⟨_, rfl⟩
  rw [← hresume]
  delta Machine.resumeTask at hresume
  rw [← himage] at hresume
  subst hresume
  beta_reduce
  extract_lets s1 e
  split
  next e1 =>
    extract_lets _ _ _ _ s3
    have hs3 : s3.canon := ((hi hs.convertCore).pair e1).setEntry
    clear_value s3
    exact hs3.of_eq rfl rfl

theorem State.canon.resumeTasks {l l2} (hs : s.canon) : (resumeTasks l l2 s).canon := by
  induction l2 generalizing l s with
  | nil => exact hs
  | cons _ _ ih =>
    dsimp only [Machine.resumeTasks]
    split
    · exact hs
    · exact ih hs.resumeTask

theorem State.canon.gain {t τ n} (hs : s.canon) : (gain s t τ n).canon := hs.of_eq rfl rfl

theorem State.canon.clipDeficits {τ} (hs : s.canon) : (clipDeficits s τ).canon := hs.of_eq rfl rfl

theorem State.canon.drrServe {t p ts} (hs : s.canon) : (drrServe s t p ts).2.canon :=
  (hs.foldl (·.gain)).of_eq rfl rfl

theorem State.canon.firstLaunch {t blocked} (hs : s.canon) : (firstLaunch s t blocked).2.canon := by
  dsimp only [Machine.firstLaunch]
  split
  · exact hs
  · exact hs.drrServe

theorem State.canon.firstPlace {l ids} (hs : s.canon) : (firstPlace s l ids).canon := by
  dsimp only [Machine.firstPlace]
  split
  · exact (hs.setEntry.foldl (·.dispatch)).settleEntry
  · exact (hs.counterTouch.setEntry.foldl (·.dispatch)).settleEntry

theorem State.canon.resumeOne {l id} (hs : s.canon) : (resumeOne s l id).canon := by
  dsimp only [Machine.resumeOne]
  split
  · exact hs
  · exact hs.resumeTask

theorem State.canon.passOnce {t blocked placed} (hs : s.canon) : (passOnce s t blocked placed).1.canon := by
  dsimp only [Machine.passOnce]
  split
  · next e => exact hs.firstLaunch.pair e
  · next e =>
      have hs1 := hs.firstLaunch.pair e
      split
      · split
        · exact hs1
        · exact hs1.firstPlace
      · split
        · split
          · exact hs1
          · exact hs1.setEntry.resumeTasks
        · split
          · split
            · exact hs1
            · exact hs1.setEntry.resumeOne
          · split
            · exact hs1
            · exact hs1.dispatch

theorem State.canon.passTower {t n l l2} (hs : s.canon) : (passTower t n s l l2).1.canon := by
  induction n generalizing t s l l2 with
  | zero => exact hs
  | succ _ ih =>
    dsimp only [Machine.passTower]
    split
    · exact ih hs.passOnce
    · exact hs.passOnce

theorem State.canon.passTowers {l l2 l3} (hs : s.canon) : (passTowers l s l2 l3).1.canon := by
  induction l generalizing s l2 l3 with
  | nil => exact hs
  | cons _ _ ih =>
    dsimp only [Machine.passTowers]
    exact ih hs.passTower

theorem State.canon.chargeDeficits {cycles} (hs : s.canon) : (chargeDeficits s cycles).canon := by
  dsimp only [Machine.chargeDeficits]
  refine hs.foldl ?_
  intro _ _ ht
  split
  · exact ht.of_eq rfl rfl
  · exact ht

theorem State.canon.requestFor {l} (hs : s.canon) : (requestFor s l).canon := by
  dsimp only [Machine.requestFor]
  split
  · exact hs
  · exact .foldl (hs.of_eq rfl rfl) (·.setEntry)

theorem State.canon.endWithdrawals (hs : s.canon) : (endWithdrawals s).canon :=
  hs.foldl (·.setEntry)

theorem State.canon.selectionPass (hs : s.canon) : (selectionPass s).canon := by
  dsimp only [Machine.selectionPass]
  exact hs.endWithdrawals.passTowers.foldl (·.requestFor)

theorem State.canon.tenantCycle (hs : s.canon) : (tenantCycle s).canon :=
  hs.chargeDeficits.of_eq rfl rfl

theorem State.canon.dropUnstarted {l} (hs : s.canon) : (dropUnstarted s l).canon :=
  (hs.foldl (·.dropWaiter)).freeEntry

theorem State.canon.cancelLaunch {handle} (hs : s.canon) : (cancelLaunch s handle).2.canon := by
  dsimp only [Machine.cancelLaunch]
  split
  · exact hs
  · split
    · exact hs.dropUnstarted
    · exact hs.dropUnstarted
    · exact hs.killLaunch

theorem State.canon.claimStrip (hs : s.canon) : (claimStrip s).2.canon := by
  dsimp only [Machine.claimStrip]
  split
  · exact hs
  · split
    · exact hs
    · split
      · next e3 => exact hs.counterOp.pair e3
      · next e3 => exact (hs.counterOp.pair e3).settleEntry.of_eq rfl rfl

/-! ### `Sys2Proof/Machine/Rewind.lean` -/

theorem State.canon.copyLines {l src dst n} (hs : s.canon) : (copyLines l src dst n s).2.canon := by
  induction n generalizing l src dst s with
  | zero => exact hs
  | succ _ ih =>
    dsimp only [Machine.copyLines]
    exact ih hs.heldGetLines.heldPutLines

theorem State.canon.copyParts {l src dst l2} (hs : s.canon) : (copyParts l src dst l2 s).2.canon := by
  induction l2 generalizing l src dst s with
  | nil => exact hs
  | cons _ _ ih =>
    dsimp only [Machine.copyParts]
    exact ih hs.copyLines

theorem State.canon.appendSnap {d} (hs : s.canon) : (appendSnap s d).canon := by
  dsimp only [Machine.appendSnap]
  split
  · exact hs
  · exact .ite hs.updLog hs.setEntry.takeRoom.putRec.putImage.copyParts.updLog

theorem State.canon.completeCollective {l} (hs : s.canon) : (completeCollective s l).canon :=
  hs.updLog.updTasks.clearMarks

theorem State.canon.makeUnrestored {pa k} (hs : s.canon) : (makeUnrestored s pa k).canon :=
  hs.homeRead.writeLine

theorem State.canon.unrestoreFrom {ok tower asid n n2} (hs : s.canon) : (unrestoreFrom ok tower asid n n2 s).canon := by
  induction n generalizing ok tower asid n2 s with
  | zero => exact hs
  | succ _ ih =>
    dsimp only [Machine.unrestoreFrom]
    split
    · next e2 =>
        have hs1 := hs.translate.pair e2
        exact ih (.ite hs1.makeUnrestored hs1)
    · next e2 => exact ih (hs.translate.pair e2)

theorem State.canon.applyLine {mine e v old bad} (hs : s.canon) : (applyLine mine e v old bad s).2.canon := by
  dsimp only [Machine.applyLine]
  split
  · next e2 =>
      have hs1 := hs.translate.pair e2
      split
      · split
        · exact hs1.makeUnrestored
        · exact hs1.writeLine
      · exact hs1.unrestoreFrom
  · next e2 => exact (hs.translate.pair e2).unrestoreFrom

theorem State.canon.applyAddr {mine e v} (hs : s.canon) : (applyAddr mine e v s).canon := by
  dsimp only [Machine.applyAddr]
  split
  · exact hs.makeUnrestored
  · split
    · next e3 =>
        have hs1 := hs.translate.pair e3
        exact .ite hs1.makeUnrestored hs1
    · next e3 => exact hs.translate.pair e3

theorem State.canon.applyCounter {mine e v} (hs : s.canon) : (applyCounter mine e v s).canon := by
  dsimp only [Machine.applyCounter]
  split
  · exact .ite hs.putSlot.wakeSatisfied hs
  · exact hs

theorem State.canon.applyRec {l r} (hs : s.canon) : (applyRec s l r).2.canon := by
  dsimp only [Machine.applyRec]
  split
  · exact hs.heldGetLines.heldGetLines.applyLine
  · exact hs.heldGetLines.heldGetLines.applyAddr
  · exact hs.heldGetLines.heldGetLines.applyCounter
  · exact hs.heldGetLines.heldGetLines

theorem State.canon.applyRecs {l l2 n} (hs : s.canon) : (applyRecs l l2 n s).2.canon := by
  induction l2 generalizing l n s with
  | nil => exact hs
  | cons _ _ ih =>
    dsimp only [Machine.applyRecs]
    exact ih hs.applyRec

theorem State.canon.headFaults {l l2} (hs : s.canon) : (headFaults l l2 s).2.canon := by
  induction l2 generalizing l s with
  | nil => exact hs
  | cons _ _ ih =>
    dsimp only [Machine.headFaults]
    exact ih hs.heldGetLines

/-- `copyParts` is a variable here for the reason given at `State.canon.getQueues`. -/
theorem State.canon.restoreTasks {l now l2} (hs : s.canon) : (restoreTasks l now l2 s).2.2.canon := by
  obtain ⟨copy, hcopy⟩ : ∃ f, f = Machine.copyParts := ⟨_, rfl⟩
  have hc {s : State} {l b a p} (hs : s.canon) : (copy l b a p s).2.canon := hcopy ▸ hs.copyParts
  induction l2 generalizing s with
  | nil => exact hs
  | cons r rs ih =>
    rw [Machine.restoreTasks, ← hcopy]
    dsimp only
    split <;> exact ih (hc hs).heldGet

theorem State.canon.rewindTo {l g force} (hs : s.canon) : (rewindTo s l g force).2.canon := by
  dsimp only [Machine.rewindTo]
  split
  · exact hs
  · split
    · exact hs
    · split
      · exact hs.headFaults
      · exact hs.headFaults.applyRecs.restoreTasks.setEntry.disown.clearMarks

theorem State.canon.writeReply {l tn status r0 r1} (hs : s.canon) : (writeReply s l tn status r0 r1).canon :=
  hs.heldPutLines

theorem State.canon.runRewind {l} (hs : s.canon) : (runRewind s l).canon := by
  dsimp only [Machine.runRewind]
  split
  · exact hs
  · split
    · exact hs.rewindTo.putHeader.setEntry.endDebug
    · exact .ite hs.rewindTo.putHeader.setEntry.writeReply hs.rewindTo.putHeader.setEntry.writeReply.farAdd

/-! ### `Sys2Proof/Machine/Issue.lean` -/

theorem State.canon.illegalStream {i} (hs : s.canon) : (illegalStream s i).canon := hs.raise

theorem State.canon.illegalInstr {i} (hs : s.canon) : (illegalInstr s i).canon := hs.raise

theorem State.canon.notPrivileged {i} (hs : s.canon) : (notPrivileged s i).canon := hs.raise

theorem State.canon.inA {i k} (hs : s.canon) (hk : ∀ {t : State}, t.canon → (k t).canon) : (inA i s k).canon :=
  .ite hs.illegalStream (hk hs)

theorem State.canon.inX {i k} (hs : s.canon) (hk : ∀ {t : State}, t.canon → (k t).canon) : (inX i s k).canon :=
  .ite (hk hs) hs.illegalStream

theorem State.canon.noHandler {i k} (hs : s.canon) (hk : ∀ {t : State}, t.canon → (k t).canon) :
    (noHandler i s k).canon :=
  .ite hs.illegalStream (hk hs)

theorem State.canon.needPriv {i k} (hs : s.canon) (hk : ∀ {t : State}, t.canon → (k t).canon) :
    (needPriv i s k).canon :=
  .ite (hk hs) hs.notPrivileged

theorem State.canon.confirmed {k} (hs : s.canon) (hk : ∀ {t : State}, t.canon → (k t).canon) :
    (confirmed s k).canon := by
  dsimp only [Machine.confirmed]
  split
  · next e => exact (hs.settleLoads.pair e).takeTrap
  · next e => exact hk (hs.settleLoads.pair e)

theorem State.canon.drained {wait k} (hs : s.canon) (hwait : ∀ {t : State}, t.canon → (wait t).canon)
    (hk : ∀ {t : State}, t.canon → (k t).canon) :
    (drained s wait k).canon :=
  .ite (hwait hs.settleStores) (.ite hs.settleStores.takeTrap (hk hs.settleStores))

theorem State.canon.accessedBy {keys k} (hs : s.canon) (hk : ∀ {t : State}, t.canon → (k t).canon) :
    (accessedBy keys s k).canon := by
  dsimp only [Machine.accessedBy]
  split
  · exact hk hs
  · exact .ite hs.resolveMeeting (.ite hs.resolveMeeting.takeTrap (hk hs.resolveMeeting))

theorem State.canon.accessed {vas k} (hs : s.canon) (hk : ∀ {t : State}, t.canon → (k t).canon) :
    (accessed vas s k).canon :=
  hs.accessedBy hk

theorem State.canon.ordered {k} (hs : s.canon) (hk : ∀ {t : State}, t.canon → (k t).canon) : (ordered s k).canon :=
  hs.confirmed (fun ht => ht.drained id hk)

theorem State.canon.notFull {acc va k} (hs : s.canon) (hk : ∀ {t : State}, t.canon → (k t).canon) :
    (notFull s acc va k).canon :=
  .ite hs.raise (hk hs)

theorem State.canon.released {o k} (hs : s.canon) (hk : ∀ {t : State}, t.canon → (k t).canon) :
    (released o s k).canon :=
  .ite (hs.drained id hk) (hk hs)

theorem State.canon.releaseMatrix (hs : s.canon) : (releaseMatrix s).canon := hs.of_eq rfl rfl

theorem State.canon.admitNext (hs : s.canon) : (admitNext s).canon := by
  dsimp only [Machine.admitNext]
  split
  · exact hs
  · split
    · exact hs
    · split
      · exact hs.of_eq rfl rfl
      · exact .takeTrap (hs.of_eq rfl rfl)
      · split
        · exact .ite (.releaseMatrix (hs.of_eq rfl rfl)) (hs.of_eq rfl rfl)
        · exact hs.of_eq rfl rfl

theorem State.canon.issueX {i sa sb} (hs : s.canon) : (issueX i sa sb s).canon :=
  .ite hs (.ite (.advance (hs.of_eq rfl rfl)) (.admitNext (.advance (hs.of_eq rfl rfl))))

theorem State.canon.vectorIssue {i sa sb} (hs : s.canon) : (vectorIssue i sa sb s).canon :=
  hs.inX (·.issueX)

theorem State.canon.askLeave {l} (hs : s.canon) : (askLeave s l).canon := .stall (hs.of_eq rfl rfl)

theorem State.canon.matrixIssue {i tile needLeave sb} (hs : s.canon) : (matrixIssue i tile needLeave sb s).canon :=
  hs.inX (fun ht => .ite ht.illegalInstr (.ite ht (.ite ht.askLeave ht.issueX)))

/-! ### `Sys2Proof/Machine/Control.lean` -/

theorem State.canon.branchIf {c a b o} (hs : s.canon) : (branchIf c a b o s).canon :=
  .ite hs.transfer hs.advance

theorem State.canon.breakpoint {i} (hs : s.canon) : (breakpoint i s).canon :=
  .ite hs.settleStores hs.settleStores.advance.takeTrap

theorem State.canon.quiet {wait k} (hs : s.canon) (hwait : ∀ {t : State}, t.canon → (wait t).canon)
    (hk : ∀ {t : State}, t.canon → (k t).canon) :
    (quiet s wait k).canon :=
  hs.drained hwait (fun ht => .ite (hwait ht) (hk ht))

theorem State.canon.waitAgain (hs : s.canon) : (waitAgain s).canon := hs.stall

theorem State.canon.exitX (hs : s.canon) : (exitX s).canon :=
  .ite hs (.releaseMatrix (hs.of_eq rfl rfl))

theorem State.canon.exitA (hs : s.canon) : (exitA s).canon :=
  hs.confirmed (fun ht => ht.quiet (·.waitAgain) (fun ht1 => .ite ht1.waitAgain ht1.endTask))

theorem State.canon.stepWait {w} (hs : s.canon) : (stepWait w s).canon := hs.setCur

theorem State.canon.giveWay (hs : s.canon) : (giveWay s).canon :=
  hs.confirmed (fun ht => ht.quiet (·.stepWait) (fun ht1 => .ite ht1.endTask (.ite (.stepWait (ht1.of_eq rfl rfl))
    (.ite ht1.endTask ht1))))

theorem State.canon.execXstart {i} (hs : s.canon) : Out.canon (execXstart i s) :=
  hs.inA (fun ht => ht.noHandler (fun ht1 => ht1.confirmed (fun ht2 => .ite (.advance (ht2.of_eq rfl rfl))
    ht2.waitAgain)))

/-! ### `Sys2Proof/Machine/Scalar.lean` -/

theorem State.canon.binary {f d a b} (hs : s.canon) : (binary f d a b s).canon := hs.writeReg

theorem State.canon.unary {f d a} (hs : s.canon) : (unary f d a s).canon := hs.writeReg

/-! ### `Sys2Proof/Machine/ScalarMem.lean` -/

theorem State.canon.loadScalar {ins d a i n ext} (hs : s.canon) : (loadScalar ins d a i n ext s).canon := by
  dsimp only [Machine.loadScalar]
  refine hs.inA ?_
  intro _ ht
  refine ht.accessed ?_
  intro _ ht1
  split
  · next e => exact (ht1.scalarLoad.pair e).raiseErr
  · next e => exact (ht1.scalarLoad.pair e).writeReg

theorem State.canon.pushStore {p} (hs : s.canon) : (pushStore p s).canon :=
  .ite hs.resolveSome (.advance (hs.of_eq rfl rfl))

theorem State.canon.storeScalar {ins d a i k} (hs : s.canon) : (storeScalar ins d a i k s).canon :=
  hs.inA (fun ht => ht.confirmed (fun ht1 => ht1.notFull (·.pushStore)))

theorem State.canon.inShare {off n k} (hs : s.canon) (hk : ∀ {t : State}, t.canon → (k t).canon) :
    (inShare s off n k).canon :=
  .ite (hk hs) hs.raise

theorem State.canon.execLdl {d a i} (hs : s.canon) : Out.canon (execLdl d a i s) := by
  dsimp only [Machine.execLdl]
  refine hs.inA ?_
  intro _ ht
  refine ht.inShare ?_
  intro _ ht1
  split
  · exact ht1.raise
  · exact ht1.writeReg

theorem State.canon.execTagr {d a i} (hs : s.canon) : Out.canon (execTagr d a i s) := by
  dsimp only [Machine.execTagr]
  refine hs.inA ?_
  intro _ ht
  refine ht.accessed ?_
  intro _ ht1
  split
  · next e => exact (ht1.tagLoad.pair e).raiseErr
  · next e => exact (ht1.tagLoad.pair e).writeReg

theorem State.canon.prefetch {va} (hs : s.canon) : (prefetch s va).canon := by
  dsimp only [Machine.prefetch]
  split
  · next e => exact hs.reachH.pair e
  · next e =>
      have hs1 := hs.reachH.pair e
      split
      · exact hs1
      · exact hs1
      · exact hs1
      · exact hs1.readLine

theorem State.canon.fence {ins k} (hs : s.canon) (hk : ∀ {t : State}, t.canon → (k t).canon) : (fence ins s k).canon :=
  hs.inA (fun ht => ht.confirmed (fun ht1 => ht1.drained id (fun ht2 => (hk ht2).advance)))

theorem State.canon.moveSplit {k} (hs : s.canon) : (moveSplit k s).canon :=
  .ite hs (.of_eq (.ite hs.dropL1 hs) rfl rfl)

theorem State.canon.execLsplit {k} (hs : s.canon) : Out.canon (execLsplit k s) :=
  hs.inA (fun ht => .ite ht.illegalInstr (ht.confirmed (fun ht1 => ht1.drained id (·.moveSplit.advance))))

/-! ### `Sys2Proof/Machine/VectorMem.lean` -/

theorem State.canon.qblock (hs : s.canon) : (qblock s).canon := hs.stall

theorem State.canon.queueUse {i k} (hs : s.canon) (hk : ∀ {t : State}, t.canon → (k t).canon) :
    (queueUse i s k).canon :=
  hs.inA (fun ht => ht.noHandler hk)

theorem State.canon.reservedFault {q seq idx code acc level tval} (hs : s.canon) :
    (reservedFault q seq idx code acc level tval s).canon :=
  .raise (hs.of_eq rfl rfl)

theorem State.canon.failIssue {p code level tval} (hs : s.canon) : (failIssue p code level tval s).canon :=
  .takeTrap (hs.of_eq rfl rfl)

theorem State.canon.issueLoad {o seq refills idx} (hs : s.canon) : (issueLoad o seq refills idx s).canon := by
  unfold Machine.issueLoad
  extract_lets p s1
  have hs1 : s1.canon := hs.of_eq rfl rfl
  split
  next e =>
    have hs2 := hs1.reachElems.triple e
    dsimp only
    split
    · exact hs2.failIssue
    · exact .advance (hs2.of_eq rfl rfl)

theorem State.canon.loadPlain {o} (hs : s.canon) : (loadPlain o s).canon := by
  dsimp only [Machine.loadPlain]
  split
  · exact hs.qblock
  · exact hs.issueLoad

theorem State.canon.loadAt {o} (hs : s.canon) : (loadAt o s).canon := hs.accessed (·.loadPlain)

theorem State.canon.lengthKnown {k} (hs : s.canon) (hk : ∀ {t : State}, t.canon → (k t).canon) :
    (lengthKnown s k).canon :=
  .ite (hs.confirmed hk) (hk hs)

theorem State.canon.loadChecked {o} (hs : s.canon) : (loadChecked o s).canon := by
  dsimp only [Machine.loadChecked]
  split
  · exact hs.loadAt
  · split
    · exact hs.qblock
    · exact .failIssue (hs.of_eq rfl rfl)

theorem State.canon.vectorLoad {i o} (hs : s.canon) : (vectorLoad i o s).canon :=
  hs.queueUse (fun ht => ht.lengthKnown (·.loadChecked))

theorem State.canon.gather {o iq} (hs : s.canon) : (gather o iq s).canon := by
  unfold Machine.gather
  split
  · extract_lets p pop s1
    have hpop {t : State} (ht : t.canon) : (pop t).canon := .ite ht (ht.of_eq rfl rfl)
    have hs1 : s1.canon := hpop hs
    clear_value s1
    split
    · exact .failIssue (hs1.of_eq rfl rfl)
    · exact hs.accessed fun ht => (hpop ht).issueLoad
  · exact hs.qblock

theorem State.canon.storeIssue {p acc qs} (hs : s.canon) : (storeIssue p acc qs s).canon := by
  dsimp only [Machine.storeIssue]
  refine hs.notFull ?_
  intro _ ht
  split
  · exact .advance (ht.of_eq rfl rfl)
  · exact .ite ht.resolveSome (.pushStore (ht.of_eq rfl rfl))

theorem State.canon.vectorStoreIssue {i q a stride e kind} (hs : s.canon) :
    (vectorStoreIssue i q a stride e kind s).canon := by
  dsimp only [Machine.vectorStoreIssue]
  refine hs.queueUse ?_
  intro _ ht
  refine ht.confirmed ?_
  intro _ ht1
  split
  · exact ht1.raise
  · split
    · exact ht1.qblock
    · exact ht1.storeIssue

theorem State.canon.execVstx {q a e m} (hs : s.canon) : Out.canon (execVstx q a e m s) := by
  dsimp only [Machine.execVstx]
  refine hs.queueUse ?_
  intro _ ht
  refine ht.confirmed ?_
  intro _ ht1
  split
  · exact ht1.raise
  · split
    · split
      · exact ht1.raise
      · exact ht1.storeIssue
    · exact ht1.qblock

theorem State.canon.spLoad {q ew n off seq refills} (hs : s.canon) : (spLoad q ew n off seq refills s).canon := by
  dsimp only [Machine.spLoad]
  split
  · exact .reservedFault (hs.of_eq rfl rfl)
  · split
    · exact .reservedFault (hs.of_eq rfl rfl)
    · exact .advance (hs.of_eq rfl rfl)

theorem State.canon.execVldl {q a e} (hs : s.canon) : Out.canon (execVldl q a e s) := by
  dsimp only [Machine.execVldl]
  refine hs.queueUse ?_
  intro _ ht
  refine ht.confirmed ?_
  intro _ ht1
  split
  · exact ht1.qblock
  · exact .ite (.reservedFault (ht1.of_eq rfl rfl)) ht1.spLoad

theorem State.canon.spStore {q ew n off r} (hs : s.canon) : (spStore q ew n off r s).canon := by
  dsimp only [Machine.spStore]
  split
  · exact hs.raise
  · split
    · exact hs.raise
    · exact .advance (hs.of_eq rfl rfl)

theorem State.canon.execVstl {q a e} (hs : s.canon) : Out.canon (execVstl q a e s) := by
  dsimp only [Machine.execVstl]
  refine hs.queueUse ?_
  intro _ ht
  refine ht.confirmed ?_
  intro _ ht1
  split
  · exact ht1.raise
  · split
    · exact ht1.qblock
    · exact .ite (.advance (ht1.of_eq rfl rfl)) (ht1.inShare (·.spStore))

theorem State.canon.saveRegs {i c a f k one} (hs : s.canon) : (saveRegs i c a f k one s).canon :=
  hs.inA (fun ht => .ite ht.illegalInstr (ht.confirmed (fun ht1 => .ite ht1.raise (.ite ht1.waitAgain (.ite (.advance
    (ht1.of_eq rfl rfl)) (.raise (ht1.of_eq rfl rfl)))))))

/-! ### `Sys2Proof/Machine/Queues.lean` -/

theorem State.canon.queueInstr {i inAStream inXStream} (hs : s.canon) (hinAStream : ∀ {t : State}, t.canon →
    (inAStream t).canon) (hinXStream : ∀ {t : State}, t.canon → (inXStream t).canon) :
    (queueInstr i s inAStream inXStream).canon :=
  .ite (hinXStream hs) (hs.noHandler (fun ht => ht.confirmed hinAStream))

theorem State.canon.reserved {i} (hs : s.canon) : (reserved i s).canon := hs.illegalInstr

theorem State.canon.execQpopA {q} (hs : s.canon) : Out.canon (execQpopA q s) := by
  dsimp only [Machine.execQpopA]
  refine hs.queueInstr ?_ (·.reserved)
  intro _ ht
  split
  · exact ht.qblock
  · exact .advance (ht.of_eq rfl rfl)

theorem State.canon.scalarEffects {pops pushes} (hs : s.canon) : (scalarEffects pops pushes s).canon := by
  dsimp only [Machine.scalarEffects]
  split <;> exact hs.of_eq rfl rfl

theorem State.canon.execQputs {a} (hs : s.canon) : Out.canon (execQputs a s) :=
  hs.queueInstr (fun ht => .ite ht.qblock (.advance (ht.of_eq rfl rfl))) (fun ht => .ite ht.qblock (.advance
    (.scalarEffects (ht.of_eq rfl rfl))))

theorem State.canon.execQgets {b} (hs : s.canon) : Out.canon (execQgets b s) := by
  dsimp only [Machine.execQgets]
  refine hs.queueInstr ?_ ?_
  · intro _ ht
    split
    · exact ht.qblock
    · exact .ite ht.qblock (.writeReg (ht.of_eq rfl rfl))
  · intro _ ht
    split
    · exact ht.qblock
    · exact .ite (.writeReg (.scalarEffects (ht.of_eq rfl rfl))) ht

/-! ### `Sys2Proof/Machine/Vector.lean` -/

theorem State.canon.setLength {d a f} (hs : s.canon) : (setLength d a f s).canon :=
  .ite hs.raise (.ite (.writeReg (hs.of_eq rfl rfl)) hs)

/-! ### `Sys2Proof/Machine/Matrix.lean` -/

theorem State.canon.matrixOther {i t sb} (hs : s.canon) : (matrixOther i t sb s).canon :=
  hs.matrixIssue

/-! ### `Sys2Proof/Machine/CounterInstrs.lean` -/

theorem State.canon.counterInstr {r op o done} (hs : s.canon) (hdone : ∀ {x : Word} {t : State}, t.canon →
    (done x t).canon) :
    (counterInstr r op o done s).canon := by
  dsimp only [Machine.counterInstr]
  refine hs.confirmed ?_
  intro _ ht
  split
  · next e => exact (ht.counterOp.pair e).raise
  · refine ht.released ?_
    intro _ ht1
    refine ht1.accessedBy ?_
    intro _ ht2
    split
    · next e2 => exact (ht2.counterOp.pair e2).raise
    · next e2 => exact hdone (ht2.counterOp.pair e2)

theorem State.canon.waitOn {w} (hs : s.canon) : (waitOn w s).canon := hs.setCur

theorem State.canon.startWait {r t d deadline} (hs : s.canon) : (startWait r t d deadline s).canon := by
  dsimp only [Machine.startWait]
  split
  · exact hs.raise
  · exact .ite hs.raise (.ite hs.writeReg hs.waitOn)
  · split
    · exact hs.raise
    · split
      · next e3 => exact (hs.registerWaiter.pair e3).writeReg
      · next e3 => exact (hs.registerWaiter.pair e3).waitOn
      · next e3 => exact (hs.registerWaiter.pair e3).waitOn
      · next e3 => exact (hs.registerWaiter.pair e3).raise
  · exact .ite hs.writeReg hs.waitOn
  · exact .ite hs.waitOn (.ite hs.draw.peerWait.waitOn hs.draw.raise)

theorem State.canon.execStrip {d} (hs : s.canon) : Out.canon (execStrip d s) := by
  dsimp only [Machine.execStrip]
  refine hs.inA ?_
  intro _ ht
  refine ht.confirmed ?_
  intro _ ht1
  refine ht1.accessedBy ?_
  intro _ ht2
  split
  · next e => exact (ht2.claimStrip.pair e).raise
  · next e => exact (ht2.claimStrip.pair e).writeReg

/-! ### `Sys2Proof/Machine/Atomics.lean` -/

theorem State.canon.performAtomic {op d bits va v expected} (hs : s.canon) :
    (performAtomic op d bits va v expected s).canon := by
  dsimp only [Machine.performAtomic]
  split
  · exact hs
  · split
    · next e2 => exact (hs.reachH.pair e2).raiseErr
    · next e2 =>
        have hs1 := hs.reachH.pair e2
        split
        · next e3 => exact (hs1.atomAt.pair e3).raise
        · next e3 => exact (hs1.atomAt.pair e3).writeReg

theorem State.canon.settled {o vas k} (hs : s.canon) (hk : ∀ {t : State}, t.canon → (k t).canon) :
    (settled o vas s k).canon :=
  .ite (hs.drained id hk) (hs.accessed hk)

theorem State.canon.atomic {op d a b o w} (hs : s.canon) : (atomic op d a b o w s).canon := by
  dsimp only [Machine.atomic]
  refine hs.confirmed ?_
  intro _ ht
  split
  · exact ht.raise
  · split
    · next e2 => exact (ht.reachH.pair e2).raiseErr
    · next e2 => exact (ht.reachH.pair e2).settled (fun ht1 => ht1.notFull (·.performAtomic))

theorem State.canon.vatomReach {l} (hs : s.canon) : (vatomReach l s).2.canon := by
  induction l generalizing s with
  | nil => exact hs
  | cons _ _ ih =>
    dsimp only [Machine.vatomReach]
    split
    · next e2 => exact hs.reachH.pair e2
    · next e2 =>
        have hs1 := hs.reachH.pair e2
        split
        · exact hs1
        · split <;> next e4 => exact (ih hs1).pair e4

theorem State.canon.vatomFar {op bits v e node off ls} (hs : s.canon) :
    (vatomFar op bits v e node off ls s).2.2.canon :=
  hs.sendPeer

theorem State.canon.vatomRun {w op bits data l l2} (hs : s.canon) : (vatomRun w op bits data l l2 s).2.canon := by
  induction l generalizing w op bits data l2 s with
  | nil => exact hs
  | cons _ _ ih =>
    dsimp only [Machine.vatomRun]
    split
    · exact ih hs.vatomFar
    · split <;> next e3 => exact ih (hs.atomAt.pair e3)

theorem State.canon.vatomFail {o e code level tval} (hs : s.canon) : (vatomFail o e code level tval s).canon := by
  dsimp only [Machine.vatomFail]
  split
  · exact .reservedFault (hs.of_eq rfl rfl)
  · exact .raise (hs.of_eq rfl rfl)

theorem State.canon.vatomPerform {o e data n es} (hs : s.canon) : (vatomPerform o e data n es s).canon := by
  unfold Machine.vatomPerform
  split
  · exact hs
  · split
    next e1 =>
      have hs1 := hs.readElemLines.pair e1
      split
      · exact hs1.vatomFail
      · extract_lets w s2
        have hs2 : s2.canon := hs1.logExits
        clear_value s2
        split
        next order k _ =>
          have hs3 : State.canon { s2 with draws := k } := hs2.of_eq rfl rfl
          split
          next e3 => exact .advance ((hs3.vatomRun.pair e3).of_eq rfl rfl)

theorem State.canon.vatomIssue {o} (hs : s.canon) : (vatomIssue o s).canon := by
  dsimp only [Machine.vatomIssue]
  split
  · split
    · exact hs.vatomFail
    · refine hs.settled ?_
      intro _ ht
      refine ht.notFull ?_
      intro _ ht1
      split
      · next e5 => exact (ht1.vatomReach.pair e5).vatomFail
      · next e5 => exact (ht1.vatomReach.pair e5).vatomPerform
  · exact hs.qblock

theorem State.canon.vatomForm {i ordered p m a q t x o w} (hs : s.canon) :
    (vatomForm i ordered p m a q t x o w s).canon :=
  hs.queueUse (fun ht => .ite ht.illegalInstr (ht.confirmed (·.vatomIssue)))

/-! ### `Sys2Proof/Machine/EngineCmd.lean` -/

theorem State.canon.readRecord {poison n x} (hs : s.canon) : (readRecord poison n x s).2.canon := by
  induction n generalizing poison x s with
  | zero => exact hs
  | succ _ ih =>
    dsimp only [Machine.readRecord]
    split
    · next e2 => exact hs.reachH.pair e2
    · next e2 =>
        have hs1 := hs.reachH.pair e2
        split
        · exact hs1
        · split
          · exact hs1.readLine
          · split <;> next e5 => exact (ih hs1.readLine).pair e5

theorem State.canon.pinPages {need l x} (hs : s.canon) : (pinPages need l x s).2.canon := by
  induction l generalizing need x s with
  | nil => exact hs
  | cons _ _ ih =>
    dsimp only [Machine.pinPages]
    split
    · next e2 => exact hs.reachH.pair e2
    · next e2 => exact ih (hs.reachH.pair e2)

theorem State.canon.pinRun {need n n2 n3 x} (hs : s.canon) : (pinRun need n n2 n3 x s).2.canon := by
  induction n generalizing need n2 n3 x s with
  | zero => exact hs
  | succ _ ih =>
    dsimp only [Machine.pinRun]
    split
    · exact hs
    · split
      · next e3 => exact hs.pinPages.pair e3
      · next e3 =>
          have hs1 := hs.pinPages.pair e3
          split
          · exact hs1
          · exact ih hs1

theorem State.canon.pinRuns {need bits l x} (hs : s.canon) : (pinRuns need bits l x s).2.canon := by
  induction l generalizing need bits x s with
  | nil => exact hs
  | cons _ _ ih =>
    dsimp only [Machine.pinRuns]
    split
    · next e2 => exact hs.pinRun.pair e2
    · next e2 => exact ih (hs.pinRun.pair e2)

theorem State.canon.issueCmd {c room leave} (hs : s.canon) : (issueCmd c room leave s).canon := by
  dsimp only [Machine.issueCmd]
  split
  · exact hs
  · split
    · exact .stall (hs.of_eq rfl rfl)
    · exact .advance (hs.of_eq rfl rfl)

theorem State.canon.issueAsked {c} (hs : s.canon) : (issueAsked c s).canon :=
  .ite (.advance (hs.of_eq rfl rfl)) hs.stall

theorem State.canon.engineInstr {lines logged va k} (hs : s.canon) (hk : ∀ {x : Nat} {t : State}, t.canon →
    (k x t).canon) :
    (engineInstr lines logged va k s).canon := by
  dsimp only [Machine.engineInstr]
  split
  · exact hs.issueAsked
  · refine hs.ordered ?_
    intro _ ht
    split
    · exact ht.raise
    · split
      · refine ht.notFull ?_
        intro _ ht1
        split
        · next e4 => exact (ht1.readRecord.pair e4).raise
        · next e4 => exact hk (ht1.readRecord.pair e4)
      · split
        · next e4 => exact (ht.readRecord.pair e4).raise
        · next e4 => exact hk (ht.readRecord.pair e4)

theorem State.canon.reject {va} (hs : s.canon) : (reject va s).canon := hs.raise

theorem State.canon.pinShape {r} (hs : s.canon) : (pinShape r s).2.canon := by
  unfold Machine.pinShape
  have pinned {c s1} (e : (if r.qmode = 1 then Machine.pinPages .read r.convertPages [] s
      else Machine.pinRuns .read r.srcBits r.srcRuns [] s) = (c, s1)) : s1.canon := by
    split at e
    · exact hs.pinPages.pair e
    · exact hs.pinRuns.pair e
  split
  · next e => exact pinned e
  · next e => exact (pinned e).pinRuns

theorem State.canon.sluiceRecord {va j sc v} (hs : s.canon) : (sluiceRecord va j sc v s).canon := by
  dsimp only [Machine.sluiceRecord]
  split
  · exact hs.reject
  · split
    · next e2 => exact (hs.pinShape.pair e2).raiseErr
    · next e2 =>
        have hs1 := hs.pinShape.pair e2
        exact .ite hs1.reject hs1.issueCmd

theorem State.canon.pinOperand {need base n m} (hs : s.canon) : (pinOperand need base n m s).2.canon := by
  dsimp only [Machine.pinOperand]
  split
  · exact hs
  · split
    · next e2 => exact hs.reachH.pair e2
    · next e2 => split <;> next e3 => exact (hs.reachH.pair e2).pinPages.pair e3

theorem State.canon.panRecord {va sc v} (hs : s.canon) : (panRecord va sc v s).canon := by
  dsimp only [Machine.panRecord]
  split
  · exact hs.reject
  · split
    · next e2 => exact (hs.pinOperand.pair e2).raiseErr
    · next e2 =>
        have hs1 := hs.pinOperand.pair e2
        split
        · next e3 => exact (hs1.pinOperand.pair e3).raiseErr
        · next e3 =>
            have hs2 := hs1.pinOperand.pair e3
            split
            · next e4 => exact (hs2.pinOperand.pair e4).raiseErr
            · next e4 =>
                have hs3 := hs2.pinOperand.pair e4
                exact .ite hs3.reject hs3.issueCmd

theorem State.canon.readList {n x} (hs : s.canon) : (readList n x s).2.canon := by
  induction n generalizing x s with
  | zero => exact hs
  | succ _ ih =>
    dsimp only [Machine.readList]
    split
    · next e2 => exact hs.readRecord.pair e2
    · next e2 => split <;> next e3 => exact (ih (hs.readRecord.pair e2)).pair e3

theorem State.canon.recodeLeaves {tower r l x} (hs : s.canon) : (recodeLeaves tower r l x s).2.canon := by
  induction l generalizing tower r x s with
  | nil => exact hs
  | cons _ _ ih =>
    dsimp only [Machine.recodeLeaves]
    split
    · next e2 => exact hs.walkFill.pair e2
    · next e2 =>
        have hs1 := hs.walkFill.pair e2
        split
        · exact hs1
        · split
          · exact hs1
          · exact ih hs1

theorem State.canon.recodeJob {va sc r} (hs : s.canon) : (recodeJob va sc r s).canon := by
  dsimp only [Machine.recodeJob]
  split
  · exact hs.reject
  · split
    · next e2 => exact (hs.recodeLeaves.pair e2).reject
    · next e2 => exact (hs.recodeLeaves.pair e2).raiseErr
    · next e2 =>
        have hs1 := hs.recodeLeaves.pair e2
        exact .ite hs1.reject hs1.issueCmd

theorem State.canon.recodeRecord {va sc v} (hs : s.canon) : (recodeRecord va sc v s).canon := by
  dsimp only [Machine.recodeRecord]
  split
  · exact hs.reject
  · split
    · next e2 => exact (hs.readList.pair e2).raise
    · next e2 => exact (hs.readList.pair e2).recodeJob

/-! ### `Sys2Proof/Machine/Engines.lean` -/

theorem State.canon.updCmd {id f} (hs : s.canon) : (s.updCmd id f).canon := hs.of_eq rfl rfl

theorem State.canon.dropCmd {id} (hs : s.canon) : (s.dropCmd id).canon := by
  dsimp only [State.dropCmd]
  split
  · split
    · exact .settleEntry (.updGovs (hs.of_eq rfl rfl))
    · exact .updGovs (hs.of_eq rfl rfl)
  · exact .updGovs (hs.of_eq rfl rfl)

theorem State.canon.errorRecord {c code va pa detail} (hs : s.canon) : (errorRecord s c code va pa detail).canon := by
  dsimp only [Machine.errorRecord]
  split
  · exact hs
  · exact hs.heldGet.heldPutLines.heldPut

theorem State.canon.ownerAdd {launch owner h k d} (hs : s.canon) : (ownerAdd s launch owner h k d).2.canon := by
  dsimp only [Machine.ownerAdd]
  split
  · split
    · exact hs.nearAdd
    · exact hs
  · exact hs
  · split
    · exact hs.nearAdd
    · split
      · exact hs.heldGet.heldPut
      · exact hs

theorem State.canon.cmdAdd {c ref d} (hs : s.canon) : (cmdAdd s c ref d).canon := by
  dsimp only [Machine.cmdAdd]
  split
  · exact .ite hs hs.errorRecord
  · split
    · exact .ite hs.ownerAdd hs.ownerAdd.errorRecord
    · exact .ite hs.farAdd hs.farAdd.errorRecord

theorem State.canon.engineLines {w l l2} (hs : s.canon) : (engineLines w l l2 s).2.canon := by
  induction l generalizing w l2 s with
  | nil => exact hs
  | cons _ _ ih =>
    dsimp only [Machine.engineLines]
    split
    · exact ih hs
    · exact ih hs.readLine

theorem State.canon.engineWrite {w va x data tag} (hs : s.canon) : (engineWrite s w va x data tag).2.canon := by
  dsimp only [Machine.engineWrite]
  split
  · exact hs
  · split
    · exact hs.writeLine
    · exact hs.writeLine
    · exact hs.writeLine
    · exact hs.readLine.logIfHome.writeLine

theorem State.canon.keptLine {c whole va} (hs : s.canon) : (keptLine c whole va s).2.canon := by
  dsimp only [Machine.keptLine]
  split
  · exact hs
  · exact hs.readLine

theorem State.canon.copyLine {c r va vs} (hs : s.canon) : (copyLine c r va vs s).2.canon := by
  dsimp only [Machine.copyLine]
  split <;> exact hs.engineLines.keptLine

theorem State.canon.sourceLines {w pins size bas} (hs : s.canon) : (sourceLines w pins size bas s).2.2.canon :=
  hs.engineLines.engineLines

theorem State.canon.convertLine {c r va vs} (hs : s.canon) : (convertLine c r va vs s).2.canon := by
  dsimp only [Machine.convertLine]
  split
  · exact hs.sourceLines.keptLine
  · exact hs.sourceLines.keptLine
  · exact hs.sourceLines.keptLine
  · split <;> exact hs.sourceLines.keptLine

theorem State.canon.progressAdd {r id} (hs : s.canon) : (progressAdd r id s).canon := by
  dsimp only [Machine.progressAdd]
  split
  · exact hs
  · split
    · exact hs
    · exact .ite hs hs.cmdAdd.updCmd

theorem State.canon.endSluice {r id} (hs : s.canon) : (endSluice r id s).canon := by
  dsimp only [Machine.endSluice]
  split
  · exact hs
  · exact .dropCmd (.ite hs hs.cmdAdd)

theorem State.canon.appendLine {c r pa vs o} (hs : s.canon) : (appendLine c r pa vs o s).canon :=
  .ite hs.setDir.putLine.freshCheck hs

theorem State.canon.sluiceWrite {c r va vs o} (hs : s.canon) : (sluiceWrite c r va vs o s).2.canon := by
  dsimp only [Machine.sluiceWrite]
  split
  · exact hs.appendLine
  · exact hs.engineWrite

theorem State.canon.deliverLine {c r} (hs : s.canon) : (deliverLine c r s).canon := by
  unfold Machine.deliverLine
  extract_lets lines
  split
  · exact hs.endSluice
  · extract_lets x vs
    split
    · exact hs
    · split
      next o s1 e1 =>
        have hs1 : s1.canon := by
          split at e1
          · exact hs.convertLine.pair e1
          · exact hs.copyLine.pair e1
        split
        next landed s2 e2 =>
          have hs2 := hs1.sluiceWrite.pair e2
          extract_lets s3 s4 s5
          have hs3 : s3.canon := by
            dsimp only [s3]
            split
            · exact hs2.errorRecord
            · exact hs2
          have hs4 : s4.canon := .ite hs3 hs3.errorRecord
          have hs5 : s5.canon := hs4.updCmd.progressAdd
          exact .ite hs5.endSluice hs5

theorem State.canon.sluiceExits {c r} (hs : s.canon) : (sluiceExits c r s).canon := by
  dsimp only [Machine.sluiceExits]
  split
  · exact hs
  · exact .ite hs.logExit hs.logExits

theorem State.canon.clearRun {pa n} (hs : s.canon) : (clearRun pa n s).canon :=
  ⟨SMap.wfFrom_filter _ hs.1, SMap.wfFrom_filter _ hs.2⟩

theorem State.canon.onSluice {id test k} (hs : s.canon) (hk : ∀ {x : Cmd} {x' : ShapeRec} {t : State}, t.canon →
    (k x x' t).canon) :
    (onSluice id s test k).canon := by
  dsimp only [Machine.onSluice]
  split
  · split
    · exact .ite (hk hs) hs
    · exact hs
  · exact hs

theorem State.canon.execSluiceCopy {cmd} (hs : s.canon) : Out.canon (execSluiceCopy cmd s) :=
  hs.onSluice (·.sluiceExits.updCmd)

theorem State.canon.execSluiceAppend {cmd} (hs : s.canon) : Out.canon (execSluiceAppend cmd s) :=
  hs.onSluice (fun ht => .ite (.updCmd (.sluiceExits (ht.clearRun.of_eq rfl rfl))) ht.errorRecord.endSluice)

theorem State.canon.execSluiceLineDelivered {cmd} (hs : s.canon) : Out.canon (execSluiceLineDelivered cmd s) :=
  hs.onSluice (·.deliverLine)

theorem State.canon.gemvLine {c r outs} (hs : s.canon) : (gemvLine c r outs s).2.canon := by
  dsimp only [Machine.gemvLine]
  split
  · exact hs.engineLines
  · split <;> exact hs.engineLines

theorem State.canon.axpbyLine {c r outs} (hs : s.canon) : (axpbyLine c r outs s).2.canon := by
  dsimp only [Machine.axpbyLine]
  split
  · exact hs.engineLines
  · split <;> exact hs.engineLines

theorem State.canon.fillLine {c r outs} (hs : s.canon) : (fillLine c r outs s).2.canon := by
  dsimp only [Machine.fillLine]
  split
  · exact hs
  · split
    · exact hs
    · split <;> exact hs.engineLines

theorem State.canon.panWrites {c l} (hs : s.canon) : (panWrites c l s).canon := by
  induction l generalizing c s with
  | nil => exact hs
  | cons _ _ ih =>
    dsimp only [Machine.panWrites]
    exact ih hs.engineWrite

theorem State.canon.panLine {c r f} (hs : s.canon)
    (hf : ∀ {x : Cmd} {x' : PanRec} {x'' : List ElemAt} {t : State}, t.canon → (f x x' x'' t).2.canon) :
    (panLine c r f s).canon := by
  dsimp only [Machine.panLine]
  split
  · exact hs.updCmd
  · split
    · exact hs
    · split
      all_goals
        split
        · exact (hf hs).panWrites.errorRecord.updCmd
        · exact (hf hs).panWrites.updCmd

theorem State.canon.onPan {id opc f} (hs : s.canon)
    (hf : ∀ {x : Cmd} {x' : PanRec} {x'' : List ElemAt} {t : State}, t.canon → (f x x' x'' t).2.canon) :
    (onPan id opc s f).canon := by
  dsimp only [Machine.onPan]
  split
  · split
    · exact .ite (hs.updCmd.panLine hf) hs
    · exact hs
  · exact hs

theorem State.canon.execPanGemv {cmd} (hs : s.canon) : Out.canon (execPanGemv cmd s) :=
  hs.onPan (·.gemvLine)

theorem State.canon.execPanAxpby {cmd} (hs : s.canon) : Out.canon (execPanAxpby cmd s) :=
  hs.onPan (·.axpbyLine)

theorem State.canon.execPanFill {cmd} (hs : s.canon) : Out.canon (execPanFill cmd s) :=
  hs.onPan (·.fillLine)

theorem State.canon.execPanCommandEnd {cmd} (hs : s.canon) : Out.canon (execPanCommandEnd cmd s) := by
  dsimp only [Machine.execPanCommandEnd]
  split
  · split
    · exact State.canon.ite (.dropCmd (.ite hs hs.cmdAdd)) hs
    · exact hs
  · exact hs

theorem State.canon.onJob {tower st k} (hs : s.canon)
    (hk : ∀ {x : Cmd} {x' : RecodeRec} {x'' : List Nat} {t : State}, t.canon → (k x x' x'' t).canon) :
    (onJob tower st s k).canon := by
  dsimp only [Machine.onJob]
  split
  · exact .ite (hk hs) hs
  · exact hs

theorem State.canon.setJob {c r st leaves} (hs : s.canon) : (setJob s c r st leaves).canon :=
  hs.updCmd

theorem State.canon.placeGuards {c r l} (hs : s.canon) : (placeGuards c r l s).canon := by
  induction l generalizing c r s with
  | nil => exact hs
  | cons _ _ ih =>
    dsimp only [Machine.placeGuards]
    exact .ite (ih hs) (.ite hs (ih (hs.of_eq rfl rfl)))

theorem State.canon.execRecodeJobStart {tower} (hs : s.canon) : Out.canon (execRecodeJobStart tower s) :=
  hs.onJob (·.placeGuards.setJob)

theorem State.canon.jobLeaves {tower r l} (hs : s.canon) : (jobLeaves tower r l s).2.canon := by
  induction l generalizing tower r s with
  | nil => exact hs
  | cons _ _ ih =>
    dsimp only [Machine.jobLeaves]
    split <;> next e2 => exact ih (hs.walk.pair e2)

theorem State.canon.execRecodeGuardDone {tower} (hs : s.canon) : Out.canon (execRecodeGuardDone tower s) :=
  hs.onJob (fun ht => .ite ht.placeGuards ht.placeGuards.jobLeaves.setJob)

theorem State.canon.recodeLine {c r va pa b} (hs : s.canon) : (recodeLine c r va pa b s).canon := by
  dsimp only [Machine.recodeLine]
  refine .writeLine ?_
  refine hs.engineLines.foldl ?_
  intro _ _ ht
  split
  · exact ht.errorRecord
  · exact ht

theorem State.canon.remapPages {c r l l2} (hs : s.canon) : (remapPages c r l l2 s).canon := by
  induction l generalizing l2 s with
  | nil => exact hs
  | cons p ps ih =>
    cases l2 with
    | nil => exact hs
    | cons n ns =>
      rw [Machine.remapPages]
      refine ih (.tlbRemove ?_)
      split
      · next e =>
        have hs1 := hs.walk.pair e
        split
        · split
          · next e2 => exact hs1.pteSwap.pair e2
          · next e2 => exact (hs1.pteSwap.pair e2).errorRecord
        · exact hs1.errorRecord
      · next e => exact (hs.walk.pair e).errorRecord

theorem State.canon.execRecodeLinesDone {tower} (hs : s.canon) : Out.canon (execRecodeLinesDone tower s) := by
  dsimp only [Machine.execRecodeLinesDone]
  refine hs.onJob ?_
  intro _ _ _ _ ht
  split
  · exact ht
  · split
    · exact ht.recodeLine.updCmd
    · exact ht.remapPages.setJob

theorem State.canon.refreshPins {tower id l} (hs : s.canon) : (refreshPins tower id l s).canon := by
  induction l generalizing tower id s with
  | nil => exact hs
  | cons _ _ ih =>
    dsimp only [Machine.refreshPins]
    split
    · next e2 => exact ih ((hs.walk.pair e2).of_eq rfl rfl)
    · next e2 => exact ih (hs.walk.pair e2)

theorem State.canon.execRecodeShootDone {tower} (hs : s.canon) : Out.canon (execRecodeShootDone tower s) :=
  hs.onJob (fun ht => .ite ht (.dropCmd (.cmdAdd (ht.refreshPins.of_eq rfl rfl))))

/-! ### `Sys2Proof/Machine/CfgRead.lean` -/

theorem State.canon.windowTouch {slot} (hs : s.canon) : (windowTouch s slot).canon := by
  dsimp only [Machine.windowTouch]
  split
  · exact hs
  · exact hs.slotRead.of_eq rfl rfl

theorem State.canon.cfgTouch {off} (hs : s.canon) : (cfgTouch s off).canon := .ite hs.windowTouch hs

/-! ### `Sys2Proof/Machine/Boot.lean` -/

theorem State.canon.containHart {id} (hs : s.canon) : (containHart id s).canon := by
  unfold Machine.containHart
  extract_lets s1 s2 h h1 s3
  have hs1 : s1.canon := by
    dsimp only [s1]
    split
    · next e => exact (hs.focus.settleLoads.pair e).takeTrap
    · next e => exact hs.focus.settleLoads.pair e
  have hs2 : s2.canon := hs1.settleStores
  clear_value s2
  have hs3 : s3.canon := .dropWaiter (.dropLeaves (hs2.of_eq rfl rfl))
  split
  · exact hs3
  · exact .ite hs3.putImage hs3

theorem State.canon.putHeaders (hs : s.canon) : (putHeaders s).canon := hs.foldl (·.putHeader)

theorem State.canon.freezeAll (hs : s.canon) : (freezeAll s).canon :=
  (hs.foldl (·.containHart)).putHeaders

theorem State.canon.enterContained {cause index} (hs : s.canon) : (enterContained s cause index).canon :=
  .ite (hs.of_eq rfl rfl) (.foldl (.emit (.emit (.freezeAll (.logError (hs.of_eq rfl rfl))))) (·.emit))

theorem State.canon.bootFail {code} (hs : s.canon) : (bootFail s code).canon := hs.of_eq rfl rfl

theorem State.canon.bootNext {step phase} (hs : s.canon) : (bootNext s step phase).canon :=
  hs.of_eq rfl rfl

theorem State.canon.measureKind {kind} (hs : s.canon) : (measureKind s kind).2.canon := by
  dsimp only [Machine.measureKind]
  split
  · exact hs
  · exact .ite (.logError (hs.of_eq rfl rfl)) (hs.of_eq rfl rfl)

theorem State.canon.measureKinds {l} (hs : s.canon) : (measureKinds l s).canon := by
  induction l generalizing s with
  | nil =>
    dsimp only [Machine.measureKinds]
    exact hs.bootNext
  | cons _ _ ih =>
    dsimp only [Machine.measureKinds]
    split
    · next e2 => exact ih (hs.measureKind.pair e2)
    · next e2 => exact (hs.measureKind.pair e2).bootFail

theorem State.canon.formSet (hs : s.canon) : (formSet s).canon :=
  .ite (.logError (.foldl (hs.of_eq rfl rfl) (·.logError))) (.foldl (hs.of_eq rfl rfl) (·.logError))

theorem State.canon.setFlapp {ptr} (hs : s.canon) : (setFlapp s ptr).canon :=
  .ite (hs.of_eq rfl rfl) hs

theorem State.canon.firmwareSet (hs : s.canon) : (firmwareSet s).canon :=
  .ite (.setFlapp (hs.of_eq rfl rfl)) (hs.of_eq rfl rfl)

theorem State.canon.startService (hs : s.canon) : (startService s).canon := hs.of_eq rfl rfl

theorem State.canon.bootAdvance (hs : s.canon) : (bootAdvance s).canon := by
  dsimp only [Machine.bootAdvance]
  split
  · exact hs
  · split
    · exact hs.bootNext
    · exact .ite (.bootNext (hs.of_eq rfl rfl)) hs.bootFail
    · exact hs.measureKinds
    · exact .ite (.bootNext (.startService (hs.of_eq rfl rfl))) hs.bootFail
    · exact hs.formSet.firmwareSet.bootNext
    · exact hs

theorem State.canon.execBootStep (hs : s.canon) : Out.canon (execBootStep s) := hs.bootAdvance

theorem State.canon.writeBack {pa key} (hs : s.canon) : (writeBack s pa key).canon :=
  .ite (.logError (.freshCheck (.putLine (hs.of_eq rfl rfl)))) (hs.of_eq rfl rfl)

theorem State.canon.flushCounters (hs : s.canon) : (flushCounters s).canon :=
  .foldl ((hs.foldl (·.slotRead)).of_eq rfl rfl) (·.slotEvict.writeBack)

theorem State.canon.flushLines (hs : s.canon) : (flushLines s).canon :=
  hs.foldl (fun ht => .ite ht.evictLine.writeBack ht.evictLine)

theorem State.canon.alignCalls {t} (hs : s.canon) : (alignCalls s t).canon :=
  hs.putSlot.putSlot.slotEvict.slotEvict

theorem State.canon.preservingOp {who} (hs : s.canon) : (preservingOp s who).canon := by
  unfold Machine.preservingOp
  extract_lets s1 s2 s3 z
  have hs1 : s1.canon := .ite hs hs.freezeAll
  have hs3 : s3.canon := hs1.flushCounters.flushLines.slotEvict.foldl (·.alignCalls)
  clear_value s3
  exact hs3.of_eq rfl rfl

theorem State.canon.coldOp (hs : s.canon) : (coldOp s).canon :=
  ⟨coldOp_memWf hs.1, SMap.wfFrom_filter _ hs.2⟩

/-! ### `Sys2Proof/Machine/CfgWrite.lean` -/

theorem State.canon.dropWrite {w code off v} (hs : s.canon) : (dropWrite s w code off v).canon :=
  hs.logError

theorem State.canon.becomeActive {h} (hs : s.canon) : (becomeActive s h).canon :=
  .foldl (hs.of_eq rfl rfl) (·.emit)

theorem State.canon.expireLease (hs : s.canon) : (expireLease s).canon := by
  dsimp only [Machine.expireLease]
  split
  · exact hs
  · exact .ite hs.becomeActive (hs.of_eq rfl rfl)

theorem State.canon.settleLease (hs : s.canon) : (settleLease s).canon := .ite hs.expireLease hs

theorem State.canon.leaseCommand {h v} (hs : s.canon) : (leaseCommand s h v).canon := by
  dsimp only [Machine.leaseCommand]
  split
  · exact .ite (hs.of_eq rfl rfl) hs.dropWrite
  · exact .ite hs.becomeActive (.ite hs.dropWrite (hs.of_eq rfl rfl))
  · exact .ite hs.expireLease hs.dropWrite
  · exact hs

theorem State.canon.stageOp {w v} (hs : s.canon) : (stageOp s w v).canon :=
  .ite hs.dropWrite (hs.of_eq rfl rfl)

theorem State.canon.measureDone (hs : s.canon) : (measureDone s).canon := .ite hs (hs.of_eq rfl rfl)

theorem State.canon.switchOp {w v} (hs : s.canon) : (switchOp s w v).canon :=
  .ite hs.dropWrite (.foldl (hs.of_eq rfl rfl) (·.logError))

theorem State.canon.discardOp {w v} (hs : s.canon) : (discardOp s w v).canon :=
  .ite hs.dropWrite (hs.of_eq rfl rfl)

theorem State.canon.finishSwitch (hs : s.canon) : (finishSwitch s).canon := by
  unfold Machine.finishSwitch
  exact hs.of_eq rfl rfl

theorem State.canon.drainEnd (hs : s.canon) : (drainEnd s).canon :=
  .ite (.ite (.finishSwitch (hs.of_eq rfl rfl)) (hs.of_eq rfl rfl)) hs

theorem State.canon.revertSwitch (hs : s.canon) : (revertSwitch s).canon :=
  .ite (hs.of_eq rfl rfl) hs

theorem State.canon.readyOp {v} (hs : s.canon) : (readyOp s v).canon :=
  .ite hs.revertSwitch.dropWrite (.ite (hs.revertSwitch.of_eq rfl rfl) (.ite hs.revertSwitch.finishSwitch
    (hs.revertSwitch.of_eq rfl rfl)))

theorem State.canon.fwctlWrite {w v} (hs : s.canon) : (fwctlWrite s w v).canon := by
  dsimp only [Machine.fwctlWrite]
  split
  · exact hs.stageOp
  · exact hs.switchOp
  · exact hs.discardOp
  · exact hs.of_eq rfl rfl

theorem State.canon.setIvt {i e} (hs : s.canon) : (setIvt s i e).canon := hs.of_eq rfl rfl

theorem State.canon.armIrq {i} (hs : s.canon) : (armIrq s i).canon := by
  dsimp only [Machine.armIrq]
  split
  · split
    · next e2 => exact (hs.setIvt.registerWaiter.pair e2).fireIrq
    · next e3 => exact hs.setIvt.registerWaiter.pair e3
  · exact hs.setIvt

theorem State.canon.ivtWrite {i upper v} (hs : s.canon) : (ivtWrite s i upper v).canon :=
  .ite hs.dropWaiter.setIvt.armIrq hs.dropWaiter.setIvt

theorem State.canon.windowAdd {w slot v} (hs : s.canon) : (windowAdd s w slot v).canon := by
  dsimp only [Machine.windowAdd]
  split
  · exact hs.dropWrite
  · split
    · exact hs.dropWrite
    · split
      · split
        · next e4 => exact hs.slotOp.pair e4
        · next e4 => exact (hs.slotOp.pair e4).dropWrite
      · exact hs.dropWrite

theorem State.canon.windowWrite {w off full raw} (hs : s.canon) : (windowWrite s w off full raw).canon := by
  dsimp only [Machine.windowWrite]
  split
  · exact .ite hs.dropWrite (.ite hs.dropWrite (hs.of_eq rfl rfl))
  · exact .ite hs.windowAdd hs.dropWrite

theorem State.canon.resetWrite {w v} (hs : s.canon) : (resetWrite s w v).canon := by
  dsimp only [Machine.resetWrite]
  split
  · exact hs.dropWrite
  · exact .ite hs (.ite (.ite hs.preservingOp hs.coldOp) hs.dropWrite)

theorem State.canon.activeWrite {w off full raw low} (hs : s.canon) : (activeWrite s w off full raw low).canon :=
  .ite hs.dropWrite (.ite (.ite (hs.of_eq rfl rfl) hs) (.ite (.ite (hs.of_eq rfl rfl) hs.dropWrite) (.ite (.ite
    hs.fwctlWrite hs) (.ite (.ite hs.dropWrite (hs.of_eq rfl rfl)) (.ite (.ite hs.dropWrite (hs.of_eq rfl rfl)) (.ite
      (.ite hs.dropWrite (hs.of_eq rfl rfl)) (.ite (hs.of_eq rfl rfl) hs.ivtWrite)))))))

theorem State.canon.w1cWrite {off raw} (hs : s.canon) : (w1cWrite s off raw).canon :=
  .ite (hs.of_eq rfl rfl) (.ite (hs.of_eq rfl rfl) (hs.of_eq rfl rfl))

theorem State.canon.serviceWrite {w off full raw} (hs : s.canon) : (serviceWrite s w off full raw).canon :=
  .ite hs.dropWrite (.ite hs.readyOp (.ite (.ite hs (hs.of_eq rfl rfl)) (hs.of_eq rfl rfl)))

theorem State.canon.cfgWrite {w off size v} (hs : s.canon) : (cfgWrite s w off size v).canon := by
  dsimp only [Machine.cfgWrite]
  split
  · split
    · exact hs.settleLease.emit
    · exact hs.settleLease
  · split
    · exact hs.settleLease
    · split
      · exact hs.settleLease.resetWrite
      · split
        · exact hs.settleLease.leaseCommand
        · exact hs.settleLease.dropWrite
      · exact .ite hs.settleLease.dropWrite hs.settleLease.w1cWrite
      · exact hs.settleLease.activeWrite
      · exact hs.settleLease.serviceWrite
      · exact hs.settleLease.windowWrite
      · exact hs.settleLease.dropWrite
      · exact .ite hs.settleLease.dropWrite hs.settleLease

theorem State.canon.aliasWrite {off v} (hs : s.canon) (e : aliasWrite s off v = some t) : t.canon := by
  dsimp only [Machine.aliasWrite] at e
  split at e
  · cases e
  · cases e; exact hs.cfgWrite

theorem State.canon.hostReadOp {host off n} (hs : s.canon) : (hostReadOp s host off n).canon :=
  .ite hs.emit hs.cfgTouch.emit

theorem State.canon.execLeaseExpiry (hs : s.canon) : Out.canon (execLeaseExpiry s) := hs.settleLease

theorem State.canon.execFwMeasureDone (hs : s.canon) : Out.canon (execFwMeasureDone s) :=
  hs.measureDone

theorem State.canon.execFwDrainEnd (hs : s.canon) : Out.canon (execFwDrainEnd s) := hs.drainEnd

theorem State.canon.execFwReadyTimeout (hs : s.canon) : Out.canon (execFwReadyTimeout s) :=
  hs.revertSwitch

theorem State.canon.spdmAnswer {host r} (hs : s.canon) : (spdmAnswer s host r).canon := hs.emit

/-! ### `Sys2Proof/Machine/Links.lean` -/

theorem State.canon.execControlStructureError {tower} (hs : s.canon) : Out.canon (execControlStructureError tower s) :=
  hs.enterContained

theorem State.canon.memwinLine {pa} (hs : s.canon) : (memwinLine s pa).2.canon := hs.readLine

theorem State.canon.memwinBytes {l} (hs : s.canon) : (memwinBytes l s).2.2.canon := by
  induction l generalizing s with
  | nil => exact hs
  | cons _ _ ih =>
    dsimp only [Machine.memwinBytes]
    exact ih hs.memwinLine

theorem State.canon.memwinPut {pa k v poison} (hs : s.canon) : (memwinPut s pa k v poison).canon :=
  hs.memwinLine.writeLine

theorem State.canon.memwinPuts {poison l l2} (hs : s.canon) : (memwinPuts poison l l2 s).canon := by
  induction l generalizing poison l2 s with
  | nil => exact hs
  | cons _ _ ih =>
    dsimp only [Machine.memwinPuts]
    exact ih hs.memwinPut

theorem State.canon.memwinRead {host off n} (hs : s.canon) : (memwinRead host off n s).canon :=
  .ite hs.emit hs.memwinBytes.emit

theorem State.canon.memwinWrite {host off data poison} (hs : s.canon) : (memwinWrite host off data poison s).canon :=
  .ite hs (.ite hs.emit (.ite hs.emit.dropWrite (.ite hs.dropWrite hs.memwinPuts)))

theorem State.canon.memwinAtomic {host off op wide operand expected} (hs : s.canon) :
    (memwinAtomic host off op wide operand expected s).canon :=
  .ite hs (.ite hs.emit (.ite hs.emit.dropWrite (.ite hs.dropWrite hs.memwinLine.memwinPut.emit)))

theorem State.canon.performAccess {x} (hs : s.canon) : (performAccess x s).canon := by
  dsimp only [Machine.performAccess]
  split
  · exact hs.settleLease.memwinWrite
  · exact hs.settleLease.memwinRead
  · exact hs.settleLease.memwinAtomic
  · exact hs.settleLease.cfgWrite

theorem State.canon.hostAccess {x} (hs : s.canon) : (hostAccess x s).canon :=
  .ite (hs.of_eq rfl rfl) hs.performAccess

theorem State.canon.resumeAccess (hs : s.canon) : (resumeAccess s).canon := by
  dsimp only [Machine.resumeAccess]
  split
  · exact .performAccess (hs.of_eq rfl rfl)
  · exact hs

theorem State.canon.execHostSnoop {pa} (hs : s.canon) : Out.canon (execHostSnoop pa s) := by
  dsimp only [Machine.execHostSnoop]
  split
  · exact hs.setDir
  · exact hs

theorem State.canon.answer {node ok v tag} (hs : s.canon) : (answer s node ok v tag).canon :=
  hs.emit

theorem State.canon.peerAtomic {node pa op wide operand expected} (hs : s.canon) :
    (peerAtomic s node pa op wide operand expected).canon :=
  .ite hs.readLine.answer hs.readLine.writeLine.answer

theorem State.canon.peerCounterOp {node handle op} (hs : s.canon) : (peerCounterOp s node handle op).canon := by
  dsimp only [Machine.peerCounterOp]
  split
  · split
    · exact hs.answer
    · split <;> next e3 => exact (hs.slotOp.pair e3).answer
  · exact hs.answer

theorem State.canon.peerWaitOp {node handle thr token} (hs : s.canon) : (peerWaitOp s node handle thr token).canon := by
  dsimp only [Machine.peerWaitOp]
  split
  · split
    · exact hs.answer
    · split
      · next e3 => exact (hs.registerWaiter.pair e3).emit
      · next e3 => exact hs.registerWaiter.pair e3
      · next e3 => exact (hs.registerWaiter.pair e3).emit
      · next e3 => exact (hs.registerWaiter.pair e3).answer
  · exact hs.answer

theorem State.canon.peerMerge {node pa mask data tag} (hs : s.canon) : (peerMerge s node pa mask data tag).canon :=
  hs.readLine.writeLine

theorem State.canon.peerRetag {node pa tag} (hs : s.canon) : (peerRetag s node pa tag).canon :=
  hs.readLine.writeLine

theorem State.canon.peerPerform {node req} (hs : s.canon) : Out.canon (peerPerform s node req) := by
  dsimp only [Machine.peerPerform]
  split
  · exact .ite trivial hs.readLine.answer
  · exact .ite trivial hs.writeLine.answer
  · exact .ite trivial hs.peerMerge.answer
  · exact .ite trivial hs.peerRetag.answer
  · exact .ite trivial hs.peerAtomic
  · exact hs.peerCounterOp
  · exact hs.peerCounterOp
  · exact hs.peerCounterOp
  · exact hs.peerCounterOp
  · exact hs.peerWaitOp
  · exact hs.of_eq rfl rfl

theorem State.canon.execPeerRequest {node req} (hs : s.canon) : Out.canon (execPeerRequest node req s) :=
  .ite hs hs.peerPerform

theorem State.canon.takeRemote {token} (hs : s.canon) : (takeRemote s token).canon :=
  hs.of_eq rfl rfl

theorem State.canon.remoteWakeOp {token v} (hs : s.canon) : (remoteWakeOp s token v).canon := by
  dsimp only [Machine.remoteWakeOp]
  split
  · exact hs
  · split
    · exact hs.takeRemote.later
    · exact hs.takeRemote.condMet
    · exact hs.takeRemote
    · exact hs.takeRemote

theorem State.canon.remoteFull {token} (hs : s.canon) : (remoteFull s token).canon := by
  dsimp only [Machine.remoteFull]
  split
  · exact hs
  · split
    · exact hs.takeRemote.updHart
    · exact hs.of_eq rfl rfl

theorem State.canon.markUnreachable {node} (hs : s.canon) : (markUnreachable s node).canon :=
  .ite hs (hs.of_eq rfl rfl)

theorem State.canon.updLink {link f} (hs : s.canon) : (updLink s link f).canon := hs.of_eq rfl rfl

theorem State.canon.fatalLink {link} (hs : s.canon) : (fatalLink s link).canon :=
  hs.updLink.enterContained

theorem State.canon.takeMsgs {link l} (hs : s.canon) : Out.canon (takeMsgs link l s) := by
  induction l generalizing link s with
  | nil => exact hs
  | cons _ _ ih =>
    dsimp only [Machine.takeMsgs]
    split
    · split
      · next e2 => exact ih (hs.execPeerRequest.next e2)
      · exact hs.execPeerRequest
    · exact ih (.ite hs hs.remoteWakeOp)
    · exact ih (.ite hs hs.remoteFull)
    · exact ih hs.markUnreachable
    · exact ih hs.updLink

/-! ### `Sys2Proof/Machine/Survey.lean` -/

theorem State.canon.updBuf {t f} (hs : s.canon) : (s.updBuf t f).canon := hs.of_eq rfl rfl

theorem State.canon.recordCycle {t} (hs : s.canon) : (recordCycle s t).canon := .ite hs hs.updBuf

theorem State.canon.dumpLines {t n n2 l} (hs : s.canon) : (dumpLines t n n2 l s).canon := by
  induction n generalizing t n2 l s with
  | zero => exact hs
  | succ _ ih =>
    dsimp only [Machine.dumpLines]
    exact ih hs.writeLine

theorem State.canon.execSurveyDump {tower} (hs : s.canon) : Out.canon (execSurveyDump tower s) :=
  State.canon.ite hs.dumpLines.updBuf hs

theorem State.canon.execSurveyDumpDone {tower} (hs : s.canon) : Out.canon (execSurveyDumpDone tower s) :=
  State.canon.ite (.ite hs.updBuf hs.updBuf.farAdd) hs

/-! ### `Sys2Proof/Machine/Debug.lean` -/

theorem State.canon.freezeHart {id} (hs : s.canon) : (freezeHart id s).canon :=
  .ite hs (.ite (hs.focus.of_eq rfl rfl) (.hardStop (hs.focus.of_eq rfl rfl)))

theorem State.canon.freezeLaunch {l soft} (hs : s.canon) : (freezeLaunch s l soft).canon :=
  .ite hs.setEntry.updTasks (hs.setEntry.foldl (·.freezeHart))

theorem State.canon.endFreeze {l} (hs : s.canon) : (endFreeze s l).canon := .ite hs.endDebug hs

theorem State.canon.freezeCommand {soft} (hs : s.canon) : (freezeCommand s soft).canon := by
  dsimp only [Machine.freezeCommand]
  split
  · exact hs.endDebug
  · exact .ite hs.endDebug (.ite hs.endDebug hs.freezeLaunch.endFreeze)

theorem State.canon.thawCommand (hs : s.canon) : (thawCommand s).canon := by
  dsimp only [Machine.thawCommand]
  split
  · exact hs.endDebug
  · exact .ite hs.endDebug hs.setEntry.updTasks.endDebug

theorem State.canon.undoCommand {target} (hs : s.canon) : (undoCommand s target).canon := by
  dsimp only [Machine.undoCommand]
  split
  · exact hs.endDebug
  · split
    · exact hs.endDebug
    · split
      · exact hs
      · exact hs.setEntry

theorem State.canon.execUndoStep (hs : s.canon) : Out.canon (execUndoStep s) :=
  State.canon.ite hs.undoCommand hs

theorem State.canon.execUndoTo (hs : s.canon) : Out.canon (execUndoTo s) :=
  State.canon.ite hs.undoCommand hs

theorem State.canon.triggerFreeze {l} (hs : s.canon) : (triggerFreeze s l).canon :=
  hs.foldl (·.updBuf)

theorem State.canon.breakHit {l id onX n} (hs : s.canon) : (breakHit s l id onX n).canon :=
  .freezeLaunch (.triggerFreeze (hs.of_eq rfl rfl))

theorem State.canon.execBreakpointHit {entry} (hs : s.canon) : Out.canon (execBreakpointHit entry s) := by
  dsimp only [Machine.execBreakpointHit]
  split
  · exact hs
  · exact State.canon.breakHit (hs.of_eq rfl rfl)

theorem State.canon.execBkpt (hs : s.canon) : Out.canon (execBkpt s) := by
  dsimp only [Machine.execBkpt]
  refine hs.inA ?_
  intro _ ht
  split
  · exact ht.advance
  · split
    · exact ht.raise
    · exact .ite ht.raise (.ite ht ht.breakHit)

theorem State.canon.dbgcmdSet {v} (hs : s.canon) : (dbgcmdSet s v).canon :=
  .ite hs (.later (hs.of_eq rfl rfl))

/-! ### `Sys2Proof/Machine/Csr.lean` -/

theorem State.canon.replyRead {off n} (hs : s.canon) : (replyRead s off n).2.canon := by
  dsimp only [Machine.replyRead]
  split
  · exact hs
  · exact hs.heldRead

theorem State.canon.raiseReply {off} (hs : s.canon) : (raiseReply off s).canon := hs.raise

theorem State.canon.csrValue {c} (hs : s.canon) : (csrValue s c).2.canon := by
  dsimp only [Machine.csrValue]
  split
  · exact hs.cfgTouch
  · exact hs

theorem State.canon.tendatSet {v} (hs : s.canon) : (tendatSet s v).canon :=
  .clipDeficits (hs.of_eq rfl rfl)

theorem State.canon.peerdatSet {v} (hs : s.canon) : (peerdatSet s v).canon := hs.of_eq rfl rfl

theorem State.canon.keyhiSet {v} (hs : s.canon) : (keyhiSet s v).canon := .ite hs (hs.of_eq rfl rfl)

theorem State.canon.cgdatSet {v} (hs : s.canon) : (cgdatSet s v).canon := hs.of_eq rfl rfl

theorem State.canon.flappSet {v} (hs : s.canon) : (flappSet s v).canon := hs.setFlapp

theorem State.canon.csrSetDebug {c v} (hs : s.canon) : (csrSetDebug s c v).canon :=
  .ite hs.updBuf (.ite (.ite hs hs.updBuf) (.ite (.ite hs hs.updBuf) (.ite (.ite hs hs.updBuf) (.ite hs.dbgcmdSet
    (.ite (hs.of_eq rfl rfl) (.ite (hs.of_eq rfl rfl) (.ite (hs.of_eq rfl rfl) (.ite (hs.of_eq rfl rfl) hs))))))))

theorem State.canon.csrReply {d off} (hs : s.canon) : (csrReply d off s).canon := by
  dsimp only [Machine.csrReply]
  split
  · exact hs
  · refine hs.accessed ?_
    intro _ ht
    split
    · next e2 => exact (ht.replyRead.pair e2).raiseReply
    · next e2 => exact (ht.replyRead.pair e2).writeReg

theorem State.canon.csrSetHart {c v} (hs : s.canon) : (csrSetHart s c v).canon := by
  unfold Machine.csrSetHart
  extract_lets h n
  split
  · exact hs.setCur
  · split
    · exact hs.setCur
    · trivial
  · exact hs.of_eq rfl rfl
  · exact hs.of_eq rfl rfl
  · exact hs.of_eq rfl rfl
  · exact hs.of_eq rfl rfl
  · exact hs.of_eq rfl rfl
  · exact hs.of_eq rfl rfl
  · exact hs

theorem State.canon.csrSetService {c v} (hs : s.canon) : (csrSetService s c v).canon := by
  unfold Machine.csrSetService
  extract_lets h n
  split
  · exact hs.of_eq rfl rfl
  · exact hs.tendatSet
  · exact hs.of_eq rfl rfl
  · exact hs.peerdatSet
  · exact hs.of_eq rfl rfl
  · exact hs.of_eq rfl rfl
  · exact hs.keyhiSet
  · exact hs.of_eq rfl rfl
  · exact hs.cgdatSet
  · exact hs.flappSet
  · exact hs.of_eq rfl rfl
  · split
    next e => exact hs.aliasWrite e
    · trivial
  · exact hs

theorem State.canon.csrStore {c v} (hs : s.canon) : (csrStore s c v).canon := by
  unfold Machine.csrStore
  split
  · exact hs.csrSetHart
  · split
    · exact hs.of_eq rfl rfl
    · split
      · exact hs.csrSetDebug
      · exact hs.csrSetService

theorem State.canon.csrAct {i d c f} (hs : s.canon) : (csrAct i d c f s).canon := by
  unfold Machine.csrAct
  split
  · exact hs
  · split
    next e =>
      have hs1 := hs.csrValue.pair e
      split
      · exact hs1.writeReg
      · split
        next e2 => exact (hs1.csrStore.ok e2).writeReg
        next => exact hs1.raise
        next => exact hs1.notPrivileged

theorem State.canon.csrInstr {i d n f} (hs : s.canon) : (csrInstr i d n f s).canon := by
  dsimp only [Machine.csrInstr]
  split
  · exact hs.illegalStream
  · split
    · exact hs.illegalInstr
    · split
      · exact hs.notPrivileged
      · split
        · exact .ite hs hs.csrAct
        · refine hs.confirmed ?_
          intro _ ht
          split
          · exact ht.csrReply
          · exact ht.csrAct

theorem State.canon.execCfgdatWrite {v} (hs : s.canon) : Out.canon (execCfgdatWrite v s) := by
  dsimp only [Machine.execCfgdatWrite]
  split
  · next e => exact hs.aliasWrite e
  · exact hs.notPrivileged

/-! ### `Sys2Proof/Machine/System.lean` -/

theorem State.canon.launchRecord {d v} (hs : s.canon) : (launchRecord d v s).canon :=
  hs.acceptLaunch.writeReg

theorem State.canon.execLaunch {d a} (hs : s.canon) : Out.canon (execLaunch d a s) := by
  dsimp only [Machine.execLaunch]
  refine hs.inA ?_
  intro _ ht
  refine ht.ordered ?_
  intro _ ht1
  split
  · exact ht1.raise
  · split
    · next e2 => exact (ht1.readRecord.pair e2).raiseErr
    · next e2 => exact (ht1.readRecord.pair e2).launchRecord

theorem State.canon.execPtset {d a b} (hs : s.canon) : Out.canon (execPtset d a b s) := by
  dsimp only [Machine.execPtset]
  refine hs.inA ?_
  intro _ ht
  refine ht.confirmed ?_
  intro _ ht1
  split
  · exact ht1.raise
  · exact .writeReg (ht1.of_eq rfl rfl)

theorem State.canon.wmarkOp {d l} (hs : s.canon) : (wmarkOp d l s).canon :=
  .ite (.ite hs.waitOn (.writeReg (hs.of_eq rfl rfl))) (.ite hs.raise (hs.drained (·.waitAgain) (fun ht => .ite
    ht.waitAgain ht.appendSnap.waitOn)))

theorem State.canon.execWmark {d} (hs : s.canon) : Out.canon (execWmark d s) := by
  dsimp only [Machine.execWmark]
  refine hs.inA ?_
  intro _ ht
  refine ht.noHandler ?_
  intro _ ht1
  refine ht1.confirmed ?_
  intro _ ht2
  split
  · exact ht2.writeReg
  · exact ht2.wmarkOp

theorem State.canon.publish {func block} (hs : s.canon) : (publish s func block).canon :=
  .partAdd (hs.partAdd.of_eq rfl rfl)

theorem State.canon.waitSpace (hs : s.canon) : (waitSpace s).canon := by
  dsimp only [Machine.waitSpace]
  split
  · next e => exact (hs.registerWaiter.pair e).stall
  · next e => exact (hs.registerWaiter.pair e).stall
  · next e => exact (hs.registerWaiter.pair e).waitAgain
  · next e => exact .waitAgain ((hs.registerWaiter.pair e).of_eq rfl rfl)

theorem State.canon.endCall {d} (hs : s.canon) : (endCall d s).canon := by
  dsimp only [Machine.endCall]
  split
  · next e => exact (hs.replyRead.pair e).raiseReply
  · next e => exact (hs.replyRead.pair e).writeReg

theorem State.canon.waitReply {d reply thr} (hs : s.canon) : (waitReply d reply thr s).canon := by
  dsimp only [Machine.waitReply]
  split
  · split
    · next e2 => exact (hs.registerWaiter.pair e2).endCall
    · next e2 => exact (hs.registerWaiter.pair e2).waitOn
    · next e2 => exact (hs.registerWaiter.pair e2).waitOn
    · next e2 => exact (hs.registerWaiter.pair e2).raise
  · exact hs.waitOn

theorem State.canon.callOp {nb d func block} (hs : s.canon) : (callOp nb d func block s).canon :=
  .ite hs.raise (.ite hs.waitReply (.ite (.ite hs.writeReg hs.waitSpace) (.ite hs.publish.writeReg
    hs.publish.waitReply)))

theorem State.canon.callInstr {nb d a b} (hs : s.canon) : (callInstr nb d a b s).canon := by
  dsimp only [Machine.callInstr]
  refine hs.ordered ?_
  intro _ ht
  split
  · exact ht.raise
  · split
    · exact ht.raise
    · split
      · next e3 => exact (ht.scalarLoad.pair e3).raiseErr
      · next e3 => exact (ht.scalarLoad.pair e3).callOp

theorem State.canon.shootDown {k ref} (hs : s.canon) : (shootDown k ref s).canon :=
  .ite hs.tlbRemove (hs.of_eq rfl rfl)

theorem State.canon.tlbi {i d k} (hs : s.canon) : (tlbi i d k s).canon :=
  hs.inA (fun ht => ht.needPriv (fun ht1 => ht1.ordered (fun ht2 => .ite ht2.raise ht2.shootDown.advance)))

theorem State.canon.tlbiAdd {p} (hs : s.canon) : (tlbiAdd s p).canon := by
  dsimp only [Machine.tlbiAdd]
  split
  · exact hs.ownerAdd
  · exact hs.farAdd

theorem State.canon.execTlbiCompletionAdd (hs : s.canon) : Out.canon (execTlbiCompletionAdd s) := by
  dsimp only [Machine.execTlbiCompletionAdd]
  split
  · exact hs
  · split
    · exact hs
    · exact State.canon.tlbiAdd (hs.of_eq rfl rfl)

/-! ### `Sys2Proof/Machine/Stops.lean` -/

theorem State.canon.onHart {id k} (hs : s.canon) (hk : ∀ {t : State}, t.canon → (k t).canon) : (onHart id s k).canon :=
  .ite hs (hk (hs.focus.of_eq rfl rfl))

theorem State.canon.killSoft (hs : s.canon) : (killSoft s).canon := by
  unfold Machine.killSoft
  extract_lets h s1
  have hs1 : s1.canon := .ite (.dropWaiter (hs.of_eq rfl rfl)) (hs.of_eq rfl rfl)
  clear_value s1
  exact .ite hs (.ite (.killTask (hs1.of_eq rfl rfl)) hs1)

theorem State.canon.killHard (hs : s.canon) : (killHard s).canon := by
  dsimp only [Machine.killHard]
  split
  · next e => exact (hs.settleLoads.pair e).takeTrap
  · next e => exact .killTask ((hs.settleLoads.pair e).of_eq rfl rfl)

theorem State.canon.execKillStop {h} (hs : s.canon) : Out.canon (execKillStop h s) :=
  hs.onHart (fun ht => .ite ht.killSoft hs)

theorem State.canon.execKillTimeout {h} (hs : s.canon) : Out.canon (execKillTimeout h s) :=
  hs.onHart (fun ht => .ite ht.killHard hs)

theorem State.canon.reachStop (hs : s.canon) : (reachStop s).canon := by
  dsimp only [Machine.reachStop]
  split
  · exact hs
  · exact hs
  · exact .ite hs hs.hardStop
  · exact hs.softStop

theorem State.canon.execSoftPreemptStop {h} (hs : s.canon) : Out.canon (execSoftPreemptStop h s) :=
  hs.onHart (·.reachStop)

theorem State.canon.makeHard (hs : s.canon) : (makeHard s).canon := .hardStop (hs.of_eq rfl rfl)

theorem State.canon.execPreemptTimeout {h} (hs : s.canon) : Out.canon (execPreemptTimeout h s) :=
  hs.onHart (fun ht => .ite ht.makeHard hs)

theorem State.canon.execQblockHardPreempt {h} (hs : s.canon) : Out.canon (execQblockHardPreempt h s) :=
  hs.onHart (fun ht => .ite hs (.ite ht.killHard ht.makeHard))

theorem State.canon.execParkSaveComplete {h} (hs : s.canon) : Out.canon (execParkSaveComplete h s) :=
  State.canon.ite hs (.parkSave (hs.focus.of_eq rfl rfl))

/-! ### `Sys2Proof/Machine/Waits.lean` -/

theorem State.canon.endWait {id d status} (hs : s.canon) : (endWait s id d status).canon :=
  hs.dropWaiter.updHart

theorem State.canon.claimAgain {id} (hs : s.canon) : (claimAgain s id).canon :=
  hs.dropWaiter.updHart

theorem State.canon.wakeStream {id v} (hs : s.canon) : (wakeStream s id v).canon := by
  dsimp only [Machine.wakeStream]
  split
  · exact hs
  · split
    · exact hs
    · split
      · exact .ite hs.endWait hs
      · exact .ite (.endCall (hs.focus.of_eq rfl rfl)) hs
      · exact hs.claimAgain
      · exact hs

theorem State.canon.execCwaitTimeout {h} (hs : s.canon) : Out.canon (execCwaitTimeout h s) := by
  dsimp only [Machine.execCwaitTimeout]
  split
  · exact hs
  · split
    · exact State.canon.ite hs.endWait hs
    · exact hs

theorem State.canon.pollEnds {id d dl r t met} (hs : s.canon) : (pollEnds s id d dl r t met).canon :=
  .ite hs.updHart hs.endWait

theorem State.canon.pollFull {id d r t dl} (hs : s.canon) : (pollFull s id d r t dl).canon := by
  dsimp only [Machine.pollFull]
  split
  · split
    · next e2 => exact (hs.slotRead.pair e2).pollEnds
    · next e2 => exact (hs.slotRead.pair e2).onHart (·.takeTrap)
  · exact .ite hs.updHart (.ite hs.draw.sendPeer.pollEnds (hs.draw.sendPeer.onHart (·.takeTrap)))
  · exact hs

theorem State.canon.pollReply {id r t d} (hs : s.canon) : (pollReply s id r t d).canon := by
  dsimp only [Machine.pollReply]
  split
  · split
    · next e2 =>
        have hs1 := hs.slotRead.pair e2
        exact .ite (hs1.onHart (·.endCall)) hs1.updHart
    · next e2 => exact (hs.slotRead.pair e2).onHart (·.takeTrap)
  · exact hs

theorem State.canon.pollStream {id w} (hs : s.canon) : (pollStream s id w).canon := by
  dsimp only [Machine.pollStream]
  split
  · exact hs.pollFull
  · exact hs.pollReply
  · exact hs.claimAgain
  · exact hs

theorem State.canon.execCwaitFullPoll {h} (hs : s.canon) : Out.canon (execCwaitFullPoll h s) := by
  dsimp only [Machine.execCwaitFullPoll]
  split
  · exact hs
  · split
    · exact State.canon.ite hs.pollStream hs
    · exact hs

theorem State.canon.execHostCounterPoll {h} (hs : s.canon) : Out.canon (execHostCounterPoll h s) := by
  dsimp only [Machine.execHostCounterPoll]
  split
  · exact hs
  · split
    · exact hs
    · split
      · split
        · exact State.canon.ite hs.endWait hs
        · exact hs
      · exact hs

theorem State.canon.pollPeerStart {l j n r t} (hs : s.canon) : (pollPeerStart s l j n r t).canon :=
  .ite hs (.ite (.condMet (.sendPeer (.draw (hs.of_eq rfl rfl)))) (.peerWait (.sendPeer (.draw (hs.of_eq rfl rfl)))))

theorem State.canon.pollStart {l j} (hs : s.canon) : (pollStart s l j).canon := by
  dsimp only [Machine.pollStart]
  split
  · exact hs
  · split
    · exact hs
    · split
      · exact hs.startCondition
      · exact hs.startCondition
      · exact hs.pollPeerStart
      · exact hs

theorem State.canon.pollWaiter {w} (hs : s.canon) : (pollWaiter s w).canon := by
  dsimp only [Machine.pollWaiter]
  split
  · exact hs
  · split
    · exact .ite hs.armIrq hs
    · exact hs.pollStart
    · exact hs
    · exact hs

theorem State.canon.execWmarkCollectiveComplete {lix} (hs : s.canon) : Out.canon (execWmarkCollectiveComplete lix s) :=
  State.canon.ite hs.completeCollective hs

theorem State.canon.execRewind {lix} (hs : s.canon) : Out.canon (execRewind lix s) :=
  State.canon.ite hs.runRewind hs

/-! ### `Sys2Proof/Machine/Governor.lean` -/

theorem State.canon.updGov {t f} (hs : s.canon) : (s.updGov t f).canon := hs.of_eq rfl rfl

theorem State.canon.grantLeave {t} (hs : s.canon) : (grantLeave s t).canon := by
  dsimp only [Machine.grantLeave]
  split
  · exact hs
  · split
    · exact hs.updGov.updHart
    · split
      · exact hs.updGov.updHart
      · exact hs.updGov

theorem State.canon.execLeaveGrant {tower} (hs : s.canon) : Out.canon (execLeaveGrant tower s) :=
  State.canon.ite hs hs.grantLeave

theorem State.canon.thermalCritical {tower temp} (hs : s.canon) : (thermalCritical s tower temp).canon :=
  hs.updGov.logError

/-! ### `Sys2Proof/Machine/Caches.lean` -/

theorem State.canon.grantOwner {pa tower core key} (hs : s.canon) : (grantOwner s pa tower core key).canon :=
  hs.homeRead.own.setDir

theorem State.canon.homeServe {pa tower core key own} (hs : s.canon) : (homeServe s pa tower core key own).canon := by
  dsimp only [Machine.homeServe]
  split
  · exact .ite hs.grantOwner hs.readLine
  · exact .ite hs.grantOwner hs.readLine
  · exact hs.readLine
  · exact hs

theorem State.canon.dropCopy {t c pa} (hs : s.canon) : (dropCopy s t c pa).canon :=
  .ite hs.setDir hs.evictLine

theorem State.canon.dropRdc {t pa} (hs : s.canon) : (dropRdc s t pa).canon :=
  .ite hs.setDir hs.evictLine

theorem State.canon.trimTower {n} (hs : s.canon) (e : trimTower s n = some t) : t.canon := by
  unfold Machine.trimTower at e
  extract_lets s1 at e
  have hs1 : s1.canon := hs.of_eq rfl rfl
  clear_value s1
  repeat' split at e
  · cases e; exact hs1.evictLine
  · cases e; exact hs1.dropRdc
  · cases e; exact hs1.evictLine
  · cases e; exact hs1.of_eq rfl rfl
  · cases e; exact hs1.of_eq rfl rfl
  · obtain ⟨_, _, rfl⟩ := Option.map_eq_some_iff.mp e
    exact hs.slotEvict
  · cases e

theorem State.canon.trimCore {n c} (hs : s.canon) (e : trimCore s n c = some t) : t.canon := by
  unfold Machine.trimCore at e
  extract_lets s1 at e
  have hs1 : s1.canon := hs.of_eq rfl rfl
  clear_value s1
  repeat' split at e
  · cases e; exact hs1.dropCopy
  · cases e; exact hs1.of_eq rfl rfl
  · cases e

theorem State.canon.trimmed (hs : s.canon) (e : trimmed s = some t) : t.canon := by
  unfold Machine.trimmed at e
  split at e
  next found =>
    cases e
    obtain ⟨_, _, e⟩ := List.exists_of_findSome?_eq_some found
    exact hs.trimCore e
  next =>
    obtain ⟨_, _, e⟩ := List.exists_of_findSome?_eq_some e
    exact hs.trimTower e

theorem State.canon.leavePage {page} (hs : s.canon) : (leavePage s page).canon := hs.of_eq rfl rfl

/-! ### `Sys2Proof/Machine/Service.lean` -/

theorem State.canon.serviceLine {pa} (hs : s.canon) : (serviceLine s pa).2.canon := hs.memwinLine

theorem State.canon.servicePut {pa n v} (hs : s.canon) : (servicePut s pa n v).canon :=
  hs.serviceLine.writeLine

/-- `serviceLine` is a variable here for the reason given at `State.canon.getQueues`. -/
theorem State.canon.requestSlot {n} (hs : s.canon) : (requestSlot s n).2.canon := by
  obtain ⟨line, hline⟩ : ∃ f, f = Machine.serviceLine := ⟨_, rfl⟩
  have hl {s : State} {pa} (hs : s.canon) : (line s pa).2.canon := hline ▸ hs.serviceLine
  obtain ⟨slot, hslot⟩ : ∃ f, f = Machine.requestSlot := ⟨_, rfl⟩
  rw [← hslot]
  delta Machine.requestSlot at hslot
  rw [← hline] at hslot
  subst hslot
  dsimp only
  exact hl (hl (hl (hl hs)))

theorem State.canon.finishRequest {n status result} (hs : s.canon) : (finishRequest s n status result).canon :=
  hs.servicePut.partAdd

/-- `requestSlot` is a variable here for the reason given at `State.canon.getQueues`. -/
theorem State.canon.onRequest {test k} (hs : s.canon) (hk : ∀ {x x' : Nat} {t : State}, t.canon → (k x x' t).canon) :
    (onRequest s test k).canon := by
  obtain ⟨slot, hslot⟩ : ∃ f, f = Machine.requestSlot := ⟨_, rfl⟩
  have hr {s : State} {n} (hs : s.canon) : (slot s n).2.canon := hslot ▸ hs.requestSlot
  unfold Machine.onRequest
  rw [← hslot]
  split
  · exact hs
  · exact .ite hs (.ite (hr hs).finishRequest (hk (hr hs)))

theorem State.canon.execRequestNop (hs : s.canon) : Out.canon (execRequestNop s) :=
  hs.onRequest (·.finishRequest)

theorem State.canon.execRequestLaunch (hs : s.canon) : Out.canon (execRequestLaunch s) :=
  hs.onRequest (·.acceptLaunch.finishRequest)

theorem State.canon.execRequestCancel (hs : s.canon) : Out.canon (execRequestCancel s) :=
  hs.onRequest (fun ht => .ite ht.finishRequest ht.cancelLaunch.finishRequest)

theorem State.canon.replyTo {t o r status r0 r1} (hs : s.canon) : (replyTo s t o r status r0 r1).canon := by
  dsimp only [Machine.replyTo]
  split
  · exact hs.farAdd
  · split
    · exact hs
    · exact hs.writeReply.farAdd

theorem State.canon.onCall {t test k} (hs : s.canon)
    (hk : ∀ {x : Nat × Nat × Nat} {x' : BitVec 512} {t : State}, t.canon → (k x x' t).canon) :
    (onCall t s test k).canon := by
  dsimp only [Machine.onCall]
  split
  · exact hs
  · exact .ite (hk hs.partAdd) hs

theorem State.canon.rewindCall {t func target force} (hs : s.canon) : (rewindCall t s func target force).canon := by
  dsimp only [Machine.rewindCall]
  split
  · exact hs
  · refine hs.onCall ?_
    intro _ _ _ ht
    split
    · exact ht
    · exact ht.setEntry.freezeLaunch

theorem State.canon.execCallNull {tower} (hs : s.canon) : Out.canon (execCallNull tower s) :=
  hs.onCall (·.replyTo)

theorem State.canon.execCallUndoStep {tower} (hs : s.canon) : Out.canon (execCallUndoStep tower s) :=
  hs.rewindCall

theorem State.canon.execCallUndoTo {tower} (hs : s.canon) : Out.canon (execCallUndoTo tower s) :=
  hs.rewindCall

theorem State.canon.execCallLog {tower} (hs : s.canon) : Out.canon (execCallLog tower s) :=
  hs.onCall (·.logError.replyTo)

theorem State.canon.execCallUndefined {tower} (hs : s.canon) : Out.canon (execCallUndefined tower s) :=
  hs.onCall (·.replyTo)

theorem State.canon.forwardExit {o r m} (hs : s.canon) : (forwardExit s o r m).canon := by
  dsimp only [Machine.forwardExit]
  split
  · exact hs
  · exact hs.logExit

theorem State.canon.execCallHostFwd {tower} (hs : s.canon) : Out.canon (execCallHostFwd tower s) := by
  unfold Machine.execCallHostFwd
  refine State.canon.ite hs (hs.onCall fun ht => ?_)
  extract_lets s1 s2 s3
  have hs3 : s3.canon := ht.forwardExit.servicePut.partAdd
  clear_value s3
  exact hs3.of_eq rfl rfl

theorem State.canon.execHostFwdReply (hs : s.canon) : Out.canon (execHostFwdReply s) := by
  dsimp only [Machine.execHostFwdReply]
  split
  · exact hs
  · exact State.canon.replyTo (hs.serviceLine.of_eq rfl rfl)

/-! ### `Sys2Proof/Machine/Events.lean` -/

theorem State.canon.execXAdmission {h} (hs : s.canon) : Out.canon (execXAdmission h s) :=
  hs.onHart (·.admitNext)

theorem State.canon.execXRetirement {h} (hs : s.canon) : Out.canon (execXRetirement h s) :=
  State.canon.ite hs hs.updHart

theorem State.canon.arrive (hs : s.canon) : (arrive s).canon := by
  dsimp only [Machine.arrive]
  split
  · next e => exact (hs.arriveOne.pair e).takeTrap
  · next e => exact hs.arriveOne.pair e

theorem State.canon.execVectorLoadArrival {h} (hs : s.canon) : Out.canon (execVectorLoadArrival h s) :=
  hs.onHart (·.arrive)

theorem State.canon.execStoreResolve {h} (hs : s.canon) : Out.canon (execStoreResolve h s) :=
  hs.onHart (·.resolveSome)

theorem State.canon.wordFate {w} (hs : s.canon) : (wordFate s w).canon := hs.raise

/-! ### `Sys2Proof/Machine/Dispatch.lean` -/

theorem State.canon.exec {i} (hs : s.canon) : Out.canon (exec i s) := by
  cases i with
  | nop => exact hs.advance
  | br | brr | call | callr => exact hs.transfer
  | brcEq | brcNe | brcLt | brcGe | brcLtu | brcGeu => exact hs.branchIf
  | brk => exact State.canon.ite hs hs.breakpoint
  | exit => exact State.canon.ite hs.exitX hs.exitA
  | step => exact hs.inA (fun ht => .ite ht.giveWay ht.advance)
  | xstart => exact hs.execXstart
  | add | sub | mul | mulh | mulhu | div | divu | rem | remu | and | or | xor | andn | sll | srl | sra | min | max
  | minu | maxu | slt | sltu | seq | addsh => exact hs.binary
  | sel | li | lih => exact hs.writeReg
  | clz | ctz | popc | addi | andi | ori | slli | srli | srai => exact hs.unary
  | ldB | ldBu | ldH | ldHu | ldW | ldWu | ldD => exact hs.loadScalar
  | stB | stH | stW | stD => exact hs.storeScalar
  | ldl => exact hs.execLdl
  | stl => exact hs.inA (fun ht => ht.confirmed (fun ht1 => ht1.inShare (fun ht2 => .advance (ht2.of_eq rfl rfl))))
  | tagr => exact hs.execTagr
  | tagw => exact hs.inA (fun ht => ht.confirmed (fun ht1 => .ite ht1.raise (ht1.notFull (·.pushStore))))
  | pref => exact hs.inA (·.prefetch.advance)
  | vldUnit | vldStrided | vldExplicit | vldffUnit | vldffStrided => exact hs.vectorLoad
  | vldx => exact hs.queueUse (fun ht => ht.lengthKnown (·.gather))
  | vstUnit | vstStrided => exact hs.vectorStoreIssue
  | vstx => exact hs.execVstx
  | vldl => exact hs.execVldl
  | vstl => exact hs.execVstl
  | vspill | vfill => exact hs.saveRegs
  | fenceSv | fenceVs | fenceVv => exact hs.fence id
  | fenceAll => exact hs.fence (fun ht => ht.of_eq rfl rfl)
  | lsplit => exact hs.execLsplit
  | qpushA => exact hs.queueInstr (fun ht => .ite ht.qblock (.advance (ht.of_eq rfl rfl))) (·.reserved)
  | qpushX | qpopX | qpopXDiscard => exact hs.queueInstr (·.reserved) (·.issueX)
  | qpopA => exact hs.execQpopA
  | qputs => exact hs.execQputs
  | qgets => exact hs.execQgets
  | qstatData | qstatScalar => exact hs.queueInstr (·.writeReg) (·.writeReg)
  | vsetl | vsetlKeep => exact hs.inX (·.setLength)
  | vadd | vsub | vmul | vfma | vfms | vmin | vmax | vabs | vneg | vdiv | vrcp | vrsqrt | vand | vor | vxor | vshl
  | vshr | vsel | vmov | vsplat | vext | vins | vredsum | vredmax | vredmin | vcmpEq | vcmpNe | vcmpLt | vcmpLe
  | vcmpGt | vcmpGe | vcmpUn | vcmpOr | viota | vslideup | vslidedn | vperm | mand | mor | mxor | mandn | mnot | mpopc
  | mfirst | vtag | vgtag | vcvt | vscale | vunrot => exact hs.vectorIssue
  | mmode => exact State.canon.ite hs.illegalStream (.ite hs.illegalInstr hs.matrixIssue)
  | mzero | opadd | opsub | mrd | mwr | mtr => exact hs.matrixOther
  | cadd => exact hs.inA (fun ht => ht.counterInstr (·.advance))
  | cxadd | crd | ctst => exact hs.inA (fun ht => ht.counterInstr (·.writeReg))
  | cwait => exact hs.inA (fun ht => ht.confirmed (fun ht1 => .ite ht1.writeReg (ht1.accessedBy (·.startWait))))
  | cset => exact hs.inA (fun ht => ht.needPriv (fun ht1 => ht1.counterInstr (·.writeReg)))
  | atomAdd | atomMin | atomMax | atomAnd | atomOr | atomXor | atomSwap | cas => exact hs.inA (·.atomic)
  | vatom | vatomOi => exact hs.vatomForm
  | sluice => exact hs.inA (fun ht => ht.engineInstr (·.sluiceRecord))
  | panc => exact hs.inA (fun ht => ht.engineInstr (·.panRecord))
  | rcode => exact hs.inA (fun ht => ht.needPriv (fun ht1 => ht1.engineInstr (·.recodeRecord)))
  | launch => exact hs.execLaunch
  | cancel => exact hs.inA (fun ht => ht.confirmed (fun ht1 => .ite ht1.writeReg ht1.cancelLaunch.writeReg))
  | strip => exact hs.execStrip
  | csrr | csrw | csrs | csrc => exact hs.csrInstr
  | csrwi => exact hs.inA (·.csrInstr)
  | eret => exact hs.inA (fun ht => .ite ht.illegalInstr (ht.ordered (·.returnTrap)))
  | scall | scallNb => exact hs.inA (·.callInstr)
  | wmark => exact hs.execWmark
  | tlbiVa | tlbiAsid | tlbiAll => exact hs.tlbi
  | bkpt => exact hs.execBkpt
  | ptset => exact hs.execPtset
  | ptget => exact hs.inA (fun ht => ht.confirmed (·.writeReg))
  | sdrain => exact hs.inA (fun ht => ht.confirmed (fun ht1 => ht1.drained id (·.advance)))
  | xAdmission => exact hs.execXAdmission
  | vectorLoadArrival => exact hs.execVectorLoadArrival
  | storeResolve => exact hs.execStoreResolve
  | walkComplete => exact State.canon.ite hs hs.walkFill
  | tlbiCompletionAdd => exact hs.execTlbiCompletionAdd
  | homeRequest => exact State.canon.ite hs hs.homeServe
  | counterCacheEviction => exact State.canon.ite hs hs.slotEvict
  | leaveGrant => exact hs.execLeaveGrant
  | dutyUpdate => exact State.canon.ite hs.updGov hs
  | callNull => exact hs.execCallNull
  | callUndoStep => exact hs.execCallUndoStep
  | callUndoTo => exact hs.execCallUndoTo
  | callHostFwd => exact hs.execCallHostFwd
  | callLog => exact hs.execCallLog
  | callUndefined => exact hs.execCallUndefined
  | softPreemptStop => exact hs.execSoftPreemptStop
  | preemptTimeout => exact hs.execPreemptTimeout
  | qblockHardPreempt => exact hs.execQblockHardPreempt
  | killStop => exact hs.execKillStop
  | killTimeout => exact hs.execKillTimeout
  | parkSaveComplete => exact hs.execParkSaveComplete
  | cwaitWake => exact hs.wakeStream
  | cwaitTimeout => exact hs.execCwaitTimeout
  | cwaitFullPoll => exact hs.execCwaitFullPoll
  | hostCounterPoll => exact hs.execHostCounterPoll
  | waiterPoll => exact hs.pollWaiter
  | wmarkCollectiveComplete => exact hs.execWmarkCollectiveComplete
  | rewind => exact hs.execRewind
  | sluiceCopy => exact hs.execSluiceCopy
  | sluiceAppend => exact hs.execSluiceAppend
  | sluiceLineDelivered => exact hs.execSluiceLineDelivered
  | panGemv => exact hs.execPanGemv
  | panAxpby => exact hs.execPanAxpby
  | panFill => exact hs.execPanFill
  | panCommandEnd => exact hs.execPanCommandEnd
  | recodeJobStart => exact hs.execRecodeJobStart
  | recodeGuardDone => exact hs.execRecodeGuardDone
  | recodeLinesDone => exact hs.execRecodeLinesDone
  | recodeShootDone => exact hs.execRecodeShootDone
  | surveyDump => exact hs.execSurveyDump
  | surveyDumpDone => exact hs.execSurveyDumpDone
  | breakpointHit => exact hs.execBreakpointHit
  | xRetirement => exact hs.execXRetirement
  | countedCycle => exact hs.updHart
  | surveyBufferRecord => exact hs.recordCycle
  | illegalOp => exact hs.wordFate
  | l2Eviction | snoopFilterEviction => exact State.canon.ite hs hs.evictLine
  | hostSnoop => exact hs.execHostSnoop
  | thermalStep => exact State.canon.ite hs (.ite hs.thermalCritical hs.updGov)
  | thermalCritical => exact State.canon.ite hs.thermalCritical hs
  | pwrcapWrite | leasecfgWrite | renew | claim | release | rqbaseWrite | rqentWrite | stage | switch | discard
  | fwreadyWrite | preservingReset | coldReset => exact hs.cfgWrite
  | govstatWrite | interruptWaiterWrite => exact State.canon.ite hs.cfgWrite hs
  | hostPortTrain => exact State.canon.ite hs (hs.of_eq rfl rfl)
  | flitReceive => exact .ite hs (.ite hs.fatalLink (.ite (.ite hs.fatalLink hs.updLink.emit) hs.updLink.takeMsgs))
  | laneLockLoss => exact State.canon.ite hs.fatalLink hs
  | peerRequest => exact hs.execPeerRequest
  | remoteWake => exact State.canon.ite hs hs.remoteWakeOp
  | containmentMessage => exact hs.markUnreachable
  | hostLinkDown => exact State.canon.ite (.enterContained (hs.of_eq rfl rfl)) hs
  | cxlViralIndication => exact hs.enterContained
  | memoryPortLinkDown => exact State.canon.ite hs.enterContained hs
  | controlStructureError => exact hs.execControlStructureError
  | memwinRead | memwinWrite | hostAtomicOp => exact hs.hostAccess
  | cfgwinWrite => exact State.canon.ite hs.hostAccess hs.cfgWrite
  | bootStep => exact hs.execBootStep
  | getVersion | getCapabilities | negotiateAlgorithms | getDigests | getCertificate | challenge | getMeasurements
  | spdmUnsupported => exact hs.spdmAnswer
  | leaseExpiry => exact hs.execLeaseExpiry
  | hostCounterAdd => exact State.canon.ite hs.hostAccess hs
  | hostCounterRead => exact State.canon.ite hs.windowTouch.emit hs
  | requestNop => exact hs.execRequestNop
  | requestLaunch => exact hs.execRequestLaunch
  | requestCancel => exact hs.execRequestCancel
  | hostFwdReply => exact hs.execHostFwdReply
  | fwMeasureDone => exact hs.execFwMeasureDone
  | fwDrainEnd => exact hs.execFwDrainEnd
  | fwReadyTimeout => exact hs.execFwReadyTimeout
  | resetPin => exact hs.coldOp
  | selectionPass => exact State.canon.ite hs.selectionPass hs
  | svctlWrite => exact hs.of_eq rfl rfl
  | sbctlWrite => exact hs.updBuf
  | freeze | freezeSoft => exact State.canon.ite hs.freezeCommand hs
  | thaw => exact State.canon.ite hs.thawCommand hs
  | undoStep => exact hs.execUndoStep
  | undoTo => exact hs.execUndoTo
  | keyhiWrite => exact hs.keyhiSet
  | cgdatWrite => exact hs.cgdatSet
  | tendatWrite => exact hs.tendatSet
  | peerdatWrite => exact hs.peerdatSet
  | flappWrite => exact hs.flappSet
  | cfgdatWrite => exact hs.execCfgdatWrite
  | zalarnLinkTrain => exact State.canon.ite hs.updLink hs

/-! ### `Sys2Proof/Machine/Turn.lean` -/

theorem State.canon.atStream {id onX} (hs : s.canon) : (s.at id onX).canon := hs.focus.of_eq rfl rfl

theorem State.canon.runWord {w} (hs : s.canon) : Out.canon (runWord w s) := by
  dsimp only [Machine.runWord]
  split
  · exact .ite hs hs.exec
  · exact hs.exec

theorem State.canon.issueWord (hs : s.canon) : Out.canon (issueWord s) := by
  dsimp only [Machine.issueWord]
  split
  · exact hs.enterBlock
  · exact hs.reloadBlock
  · split
    · exact hs.runWord
    · exact hs

theorem State.canon.afterTurn (ht : t.canon) : (afterTurn s t).canon := ht.updHart

theorem State.canon.fallChecked (hs : s.canon) (ht : t.canon) : (fallChecked s t).canon := by
  dsimp only [Machine.fallChecked]
  split
  · exact ht
  · split
    · next e2 => exact .ite ht ((hs.fetchAt.pair e2).raise)
    · exact ht

theorem State.canon.endTurn (hs : s.canon) (ht : t.canon) : (endTurn s t).canon :=
  .ite hs (hs.fallChecked ht).afterTurn

theorem State.canon.issueStream (hs : s.canon) : Out.canon (issueStream s) :=
  hs.issueWord.mapOut hs.endTurn

theorem State.canon.issueTurn (hs : s.canon) : Out.canon (issueTurn s) := by
  dsimp only [Machine.issueTurn]
  split
  · exact hs.issueStream
  · split
    · exact hs.takeTrap
    · split
      · exact hs.resolveAt
      · exact hs.issueStream

theorem State.canon.noteMove {id w} (ht : t.canon) : (noteMove s id w t).canon := by
  dsimp only [Machine.noteMove]
  split
  · exact ht
  · split
    · exact ht
    · exact ht.updBuf

theorem State.canon.noteWake {i} (ht : t.canon) : (noteWake i t).canon := by
  dsimp only [Machine.noteWake]
  split
  · exact .ite ht.updBuf ht
  · exact ht

theorem State.canon.tick (hs : s.canon) : (tick s).canon := by
  unfold Machine.tick
  extract_lets s1 s2
  have hs1 : s1.canon := hs.foldl (·.recordCycle)
  clear_value s1
  have hs2 : s2.canon := hs1.of_eq rfl rfl
  exact .ite hs2 (.tenantCycle (hs2.of_eq rfl rfl))

theorem State.canon.polls (hs : s.canon) : (polls s).canon := by
  dsimp only [Machine.polls]
  refine .foldl ?_ (·.pollWaiter)
  refine hs.foldl ?_
  intro _ _ ht
  split
  · next e => exact ht.execHostCounterPoll.next e
  · exact ht

theorem State.canon.clockWork (hs : s.canon) : (clockWork s).canon :=
  .ite (.ite hs.updGovs hs) (.selectionPass (.ite (.polls (.ite hs.updGovs hs)) (.ite hs.updGovs hs)))

theorem State.canon.engineMove {id} (hs : s.canon) : Out.canon (engineMove s id) := by
  dsimp only [Machine.engineMove]
  split
  · exact hs
  · split
    · exact .ite hs.execSluiceLineDelivered (.ite hs.execSluiceAppend hs.execSluiceCopy)
    · split
      · exact hs.execPanCommandEnd
      · split
        · exact hs.execPanGemv
        · exact hs.execPanAxpby
        · exact hs.execPanFill
    · split
      · exact hs.execRecodeJobStart
      · exact hs.execRecodeGuardDone
      · exact hs.execRecodeLinesDone
      · exact hs.execRecodeLinesDone
      · exact hs.execRecodeShootDone

theorem State.canon.callMove {t} (hs : s.canon) : Out.canon (callMove s t) := by
  dsimp only [Machine.callMove]
  split
  · exact hs
  · split
    · exact hs.execCallNull
    · exact hs.execCallUndoStep
    · exact hs.execCallUndoTo
    · exact hs.execCallHostFwd
    · exact hs.execCallLog
    · exact hs.execCallUndefined

theorem State.canon.requestMove (hs : s.canon) : Out.canon (requestMove s) := by
  dsimp only [Machine.requestMove]
  split
  · exact hs
  · split
    · exact hs.execRequestLaunch
    · exact hs.execRequestCancel
    · exact hs.execRequestNop

theorem State.canon.controlMove {t} (hs : s.canon) : Out.canon (controlMove s t) :=
  State.canon.execControlStructureError (hs.of_eq rfl rfl)

theorem State.canon.noteIssue (ht : t.canon) : (noteIssue s t).canon := ht.noteMove

theorem State.canon.issueMove {id onX} (hs : s.canon) : Out.canon (issueMove s id onX) :=
  hs.atStream.issueTurn.mapOut (·.noteIssue)

theorem State.canon.trim (hs : s.canon) : ((Machine.trimmed s).getD s).canon := by
  cases e : Machine.trimmed s with
  | none => exact hs
  | some t => exact hs.trimmed e

theorem State.canon.run {a : Act} (hs : s.canon) : Out.canon (a.run s) := by
  dsimp only [Act.run]
  split
  · exact hs.execBootStep
  · exact hs.clockWork
  · exact hs.execLeaseExpiry
  · exact hs.endDebug
  · exact hs.execBreakpointHit
  · exact hs.execCwaitFullPoll
  · exact hs.execCwaitTimeout
  · exact .ite hs.execKillTimeout hs.execPreemptTimeout
  · exact hs.execFwMeasureDone
  · exact hs.execFwDrainEnd
  · exact hs.execFwReadyTimeout
  · exact hs.controlMove
  · exact hs.trim
  · exact hs.execLeaveGrant
  · exact hs.execSurveyDump
  · exact hs.execSurveyDumpDone
  · exact hs.callMove
  · exact hs.requestMove
  · exact hs.execHostFwdReply
  · exact hs.execTlbiCompletionAdd
  · exact .ite hs.execUndoStep hs.execUndoTo
  · exact hs.resumeAccess
  · exact hs.leavePage
  · exact hs.execWmarkCollectiveComplete
  · exact hs.execRewind
  · exact hs.engineMove
  · exact hs.execVectorLoadArrival.mapOut (·.noteMove)
  · exact hs.execStoreResolve
  · exact hs.execXRetirement
  · exact hs.execXAdmission.mapOut (·.noteMove)
  · exact hs.execParkSaveComplete
  · exact .ite hs.execKillStop hs.execSoftPreemptStop
  · exact hs.execQblockHardPreempt
  · exact hs.issueMove

theorem State.canon.takeRead (hs : s.canon) : Out.canon (takeRead s) := by
  dsimp only [Machine.takeRead]
  split
  · exact State.canon.hostReadOp (hs.of_eq rfl rfl)
  · exact hs

theorem State.canon.dueMove {ds} (hs : s.canon) : Out.canon (dueMove s ds) :=
  State.canon.run (hs.of_eq rfl rfl)

theorem State.canon.openMove {as} (hs : s.canon) : Out.canon (openMove s as) :=
  State.canon.run (hs.of_eq rfl rfl)

theorem State.canon.turn (hs : s.canon) : Out.canon (turn s) := by
  dsimp only [Machine.turn]
  split
  · exact hs.tick
  · exact hs.run.mapOut (·.tick)
  · exact .mapOut (.ite hs.openMove hs.dueMove) (·.tick)

/-! ### `Sys2Proof/Machine/Step.lean` -/

theorem State.canon.step (hs : s.canon) : Out.canon (step s) := by
  dsimp only [Machine.step]
  split
  · exact .ite hs.takeRead (.mapOut (State.canon.exec (hs.of_eq rfl rfl)) (·.noteWake))
  · exact hs.takeRead
  · exact hs.turn

end Sys2Proof.Machine

open Sys2Proof.Machine

/-- Settles O6: each function that `step` reaches keeps memory and the tags of its lines canonical. -/
theorem stepKeepsMemoryCanonical : Obligations.StepKeepsMemoryCanonical := by
  unfold Obligations.StepKeepsMemoryCanonical
  intro s t hs e
  exact hs.step.next e

end

section
/-! What stands beside memory, translation and counters, and that no access to memory reaches it: reading and writing
lines, walking the page tables, waking waiters and making entries of the error log keep the harts, the governors and the
engine commands (R61, R147 to R152, R157, R245). -/

namespace Sys2Proof.Machine

variable {α : Type} {s t : State}

/-- What stands beside memory, translation and counters: the stream that issues, the harts, the governors and the engine
commands. -/
def State.units (s : State) : Bool × Hart × List Hart × SMap Gov × List Cmd := (s.onX, s.h, s.rest, s.gov, s.cmds)

theorem State.units_onX (e : t.units = s.units) : t.onX = s.onX := congrArg (·.1) e

theorem State.units_gov (e : t.units = s.units) : t.gov = s.gov := congrArg (·.2.2.2.1) e

/-- An operation named by an equation, as a match on its result gives it. -/
theorem State.units_pair {p : α × State} {a : α} (h : p.2.units = s.units) (e : p = (a, t)) : t.units = s.units := by
  subst e
  exact h

theorem State.units_foldl {β : Type} {f : State → β → State} (hf : ∀ t x, (f t x).units = t.units) (l : List β) :
    (l.foldl f s).units = s.units := by
  induction l generalizing s with
  | nil => rfl
  | cons x l ih => exact ih.trans (hf s x)

@[simp] theorem setDir_units (pa d) : (setDir s pa d).units = s.units := rfl
@[simp] theorem draw_units : (draw s).2.units = s.units := rfl
@[simp] theorem emit_units (m) : (s.emit m).units = s.units := rfl
@[simp] theorem later_units (is) : (s.later is).units = s.units := rfl
@[simp] theorem setEntry_units (i e) : (s.setEntry i e).units = s.units := rfl
@[simp] theorem putSlot_units (key v) : (putSlot s key v).units = s.units := rfl
@[simp] theorem spoilSlots_units (key) : (spoilSlots s key).units = s.units := rfl
@[simp] theorem putLine_units (pa v g) : (putLine s pa v g).units = s.units := by simp [State.units]
@[simp] theorem freshCheck_units (pa k) : (freshCheck s pa k).units = s.units := by simp [State.units]
@[simp] theorem tlbFill_units (w asid va l) : (tlbFill s w asid va l).units = s.units := rfl
@[simp] theorem share_units (pa k w b) : (share s pa k w b).units = s.units := rfl
@[simp] theorem own_units (pa k w b) : (own s pa k w b).units = s.units := rfl

/-! ### Waiters and the error log -/

@[simp] theorem fireIrq_units (i) : (fireIrq s i).units = s.units := by
  dsimp only [fireIrq]
  split
  · rfl
  · split <;> rfl

@[simp] theorem condMet_units (l j) : (condMet s l j).units = s.units := by
  dsimp only [condMet]
  split
  · rfl
  · exact setEntry_units _ _

@[simp] theorem sendPeer_units (n k r) : (sendPeer s n k r).units = s.units := by
  unfold sendPeer
  split
  · rfl
  · exact emit_units _

@[simp] theorem wakeOne_units (w v) : (wakeOne s w v).units = s.units := by
  cases w <;> simp [wakeOne]

@[simp] theorem wakeSatisfied_units (key base v) : (wakeSatisfied s key base v).units = s.units :=
  State.units_foldl (fun _ _ => wakeOne_units _ _) _

@[simp] theorem addSlot_units (key d) : (addSlot s key d).units = s.units :=
  (wakeSatisfied_units key _ _).trans (putSlot_units key _)

@[simp] theorem putError_units (source cls code index addr detail) :
    (putError s source cls code index addr detail).units = s.units := by
  dsimp only [putError]
  split
  · rfl
  · exact addSlot_units _ _

@[simp] theorem errRead_units : (errRead s).units = s.units := by
  dsimp only [errRead]
  split
  · rfl
  · split
    · split <;> simp
    · simp
    · simp

/-- An entry of the error log touches its ring, ERRCNT and the waiters of ERRCNT (R61). -/
@[simp] theorem logError_units (source cls code index addr detail) :
    (logError s source cls code index addr detail).units = s.units := by
  simp [logError]

/-! ### Lines -/

@[simp] theorem homeFix_units (pa k data tag) : (homeFix s pa k data tag).units = s.units := by
  unfold homeFix
  split <;> simp

@[simp] theorem spoilLine_units (pa k) : (spoilLine s pa k).2.units = s.units := homeFix_units pa k _ _

@[simp] theorem devicePoison_units (pa) : (devicePoison s pa).2.units = s.units := by
  unfold devicePoison
  split <;> rfl

@[simp] theorem storeRead_units (pa k) : (storeRead s pa k).2.units = s.units := by
  dsimp only [storeRead]
  split
  · simp
  · split <;> simp

@[simp] theorem homeRead_units (pa k) : (homeRead s pa k).2.units = s.units := by
  unfold homeRead
  split <;> simp

@[simp] theorem hostShare_units (h pa w) : (hostShare s h pa w).units = s.units := by
  dsimp only [hostShare]
  split <;> rfl

@[simp] theorem peerRead_units (n pa) : (peerRead s n pa).2.units = s.units := by
  dsimp only [peerRead]
  split <;> simp

@[simp] theorem openPage_units (pa) : (openPage s pa).units = s.units := by
  unfold openPage
  split <;> rfl

/-- A read of a line reaches no unit: it touches directories, logs and links alone. -/
@[simp] theorem readLine_units (pa k lfmt w b) : (readLine s pa k lfmt w b).2.units = s.units := by
  dsimp only [readLine]
  split
  · exact hostShare_units _ _ _
  · exact peerRead_units _ _
  · rfl
  · split
    · rfl
    · split <;> simp

@[simp] theorem lineWrite_units (pa k w b data tag) : (lineWrite s pa k w b data tag).units = s.units := by
  unfold lineWrite
  split <;> simp

@[simp] theorem hostWrite_units (pa data vc) : (hostWrite s pa data vc).units = s.units := by
  unfold hostWrite
  generalize 64 = n
  split <;> rfl

@[simp] theorem writeLine_units (pa k w b data tag) : (writeLine s pa k w b data tag).units = s.units := by
  unfold writeLine
  split
  · exact hostWrite_units _ _ _
  · split <;> simp
  · rfl
  · rfl
  · exact lineWrite_units _ _ _ _ _ _

/-! ### Walks -/

@[simp] theorem walkRead_units (tower pa) : (walkRead s tower pa).2.units = s.units := by
  dsimp only [walkRead]
  split
  · rfl
  · split <;> exact readLine_units _ _ _ _ _

@[simp] theorem walkTable_units (tower asid va n level table) :
    (walkTable tower asid va n level table s).2.units = s.units := by
  induction n generalizing level table s with
  | zero => rfl
  | succ n ih =>
    dsimp only [walkTable]
    split
    · exact ih _ _
    · split
      · next e => exact State.units_pair (walkRead_units _ _) e
      · next e =>
        have h := State.units_pair (walkRead_units _ _) e
        split
        · exact h
        · split
          · split
            · exact h
            · exact (ih _ _).trans h
          · split <;> exact h

@[simp] theorem asidRoot_units (tower asid) : (asidRoot s tower asid).2.units = s.units := by
  dsimp only [asidRoot]
  split
  · next e => exact State.units_pair (walkRead_units _ _) e
  · next e =>
    have h := State.units_pair (walkRead_units _ _) e
    split
    · exact h
    · split <;> exact h

@[simp] theorem walk_units (tower asid va) : (walk s tower asid va).2.units = s.units := by
  unfold walk
  split <;> next e =>
    have h := State.units_pair (asidRoot_units _ _) e
    simp [h]

@[simp] theorem pteSwap_units (tower pa e new last) : (pteSwap s tower pa e new last).2.units = s.units := by
  dsimp only [pteSwap]
  split
  · rfl
  · simp
  · split
    · next e =>
      have h := State.units_pair (walkRead_units _ _) e
      split <;> simp [h]
    · next e => exact State.units_pair (walkRead_units _ _) e

@[simp] theorem walkTries_units (w asid va wr n) : (walkTries w asid va wr n s).2.units = s.units := by
  induction n generalizing s with
  | zero => rfl
  | succ n ih =>
    unfold walkTries
    split
    · next e => exact State.units_pair (walk_units _ _ _) e
    · next e =>
      have h := State.units_pair (walk_units _ _ _) e
      extract_lets bits
      split
      · exact h
      · split
        · next e' => exact (State.units_pair (pteSwap_units _ _ _ _ _) e').trans h
        · next e' => exact ih.trans ((State.units_pair (pteSwap_units _ _ _ _ _) e').trans h)
        · next e' => split <;> exact (State.units_pair (pteSwap_units _ _ _ _ _) e').trans h

@[simp] theorem walkFill_units (w asid va wr) : (walkFill s w asid va wr).2.units = s.units := walkTries_units _ _ _ _ _

@[simp] theorem translate_units (w asid va wr) : (translate s w asid va wr).2.units = s.units := by
  dsimp only [translate]
  split
  · split
    · split <;> next e => exact State.units_pair (walkFill_units _ _ _ _) e
    · rfl
  · split <;> next e => exact State.units_pair (walkFill_units _ _ _ _) e

/-- Translating an address reaches no unit: it fills the TLBs and sets A and D. -/
@[simp] theorem reachH_units (va n) : (s.reachH va n).2.units = s.units := by
  dsimp only [State.reachH, reach]
  split
  · next e => exact State.units_pair (translate_units _ _ _ _) e
  · next e => split <;> exact State.units_pair (translate_units _ _ _ _) e

end Sys2Proof.Machine
end

section
/-! The power governors (R18 to R26): one lemma for each change of a governor, then the settlement of O47. -/

namespace Sys2Proof.Machine

variable {s : State} {k j : Nat}

/-! ### The governors' table -/

/-- A governor that is changed reads as changed, every other as before. -/
theorem governor_updGov (hwf : SMap.wf Gov.reset s.gov = true) (f : Gov → Gov) :
    (s.updGov k f).governor j = if j = k then f (s.governor k) else s.governor j :=
  SMap.get_set hwf j

theorem governor_updGov_same (hwf : SMap.wf Gov.reset s.gov = true) (f : Gov → Gov) :
    (s.updGov k f).governor k = f (s.governor k) := by
  rw [governor_updGov hwf, if_pos rfl]

/-- An entry of the error log changes no governor. -/
@[simp] theorem logError_governor (source cls code index addr detail : Nat) :
    (logError s source cls code index addr detail).governor k = s.governor k := by
  unfold State.governor
  rw [State.units_gov (logError_units ..)]

/-! ### Leave (R22) -/

/-- A leave that the acting hart has asked for longest: its X-stream goes on, and holds the leave. -/
theorem grantLeave_cur {l : Leave} {rest : List Leave} (ha : (s.governor k).asked = l :: rest)
    (hw : l.who = .inl s.h.id) :
    grantLeave s k = { s.updGov k (fun g => { g with asked := rest, held := g.held ++ [l] }) with
      h := { s.h with x := leaveCame s.h.x, mkLV := true } } := by
  simp [grantLeave, ha, hw, State.updHart]

/-! ### Duty (R18, R26) -/

theorem dutyOf_eq_full {num den sum : Nat} (h : sum * den ≤ num) : dutyOf num den sum = 256 := if_pos h

theorem one_le_dutyOf (num den sum : Nat) : 1 ≤ dutyOf num den sum := by
  unfold dutyOf
  split
  · decide
  · exact Nat.le_max_left _ _

theorem dutyOf_le_full (num den sum : Nat) : dutyOf num den sum ≤ 256 := by
  unfold dutyOf
  split
  · exact Nat.le_refl _
  · exact Nat.max_le.mpr ⟨by decide, Nat.min_le_left _ _⟩

/-- An update that leaves a duty below 256 sets THROT (R26, log 148). -/
theorem newDuties_throt {cap : Nat} {g : Gov} (h : (newDuties cap g).mduty < 256 ∨ (newDuties cap g).sduty < 256) :
    (newDuties cap g).throt = true := by
  rcases h with h | h <;> simp_all [newDuties]

/-! ### Heat (R20) -/

theorem heatStep_of_hot {temp : Nat} (g : Gov) (h : 105 ≤ temp) :
    heatStep temp g = { g with temp := temp, hot := true, allow := Nat.max 1 (g.allow - 1) } := by
  simp [heatStep, h]

theorem heatStep_of_cool {temp : Nat} (g : Gov) (h : temp < 100) :
    heatStep temp g = { g with temp := temp, hot := false, allow := Nat.min 16 (g.allow + 1) } := by
  have h105 : ¬ 105 ≤ temp := by omega
  have h100 : ¬ 100 ≤ temp := by omega
  simp [heatStep, h105, h100]

/-- At the critical temperature the allowance is 1/16 and TCRIT stands, whatever the error log takes. -/
theorem thermalCritical_governor (hwf : SMap.wf Gov.reset s.gov = true) (temp : Nat) :
    (thermalCritical s k temp).governor k =
      { s.governor k with temp := temp, hot := true, allow := 1, tcrit := true } := by
  rw [thermalCritical, logError_governor, governor_updGov_same hwf]

/-! ### Host writes (R19, R26, R44, R45) -/

theorem settleLease_of_running (h : leaseOver s = false) : settleLease s = s := by simp [settleLease, h]

/-- A register outside CONTAINED and recovery is open to hosts. -/
theorem hostShut_of_open {w : Writer} {c : RegClass} (hp : s.cfg.phase ≠ 15) (hc : s.cfg.cont = false ∨ c = .w1c) :
    hostShut s w c = false := by
  cases w with
  | service => rfl
  | host => rcases hc with hc | rfl <;> simp_all [hostShut]

/-- Writing the whole of an 8-byte register leaves its low six bits those of the value. -/
theorem putBytes_whole_mod_64 (old v : Nat) : putBytes old 0 8 v % 64 = v % 64 := by
  simp only [putBytes]
  omega

theorem regClass_govstat (hk : k < 8) : regClass (0x2000 + 8 * k) = .w1c := by
  unfold regClass
  rw [if_neg (by omega), if_neg (by omega), if_pos (by omega)]

/-- PWRCAP takes the low six bits of what the active host writes, where they lie in its range (R19). -/
theorem cfgWrite_pwrcap {host : HostId} {v : BitVec 64} (ha : isActive s (.host host) = true)
    (hl : leaseOver s = false) (hc : s.cfg.cont = false) (hp : s.cfg.phase ≠ 15) (hlo : 16 ≤ v.toNat % 64)
    (hhi : v.toNat % 64 ≤ 32) :
    cfgWrite s (.host host) 0x300 8 v = { s with cfg := { s.cfg with pwrcap := BitVec.ofNat 6 v.toNat } } := by
  have hclass : regClass 0x300 = .active := by decide
  have hcut : BitVec.ofNat 6 (v.toNat % 64) = BitVec.ofNat 6 v.toNat := by simp [← BitVec.toNat_inj]
  simp [cfgWrite, settleLease_of_running hl, hclass, hostShut_of_open hp (.inl hc), activeWrite, ha,
    putBytes_whole_mod_64, Nat.mod_eq_of_lt v.isLt, hlo, hhi, hcut]

/-- The flags of GOVSTAT that a host writes with ones are cleared (R26). -/
theorem cfgWrite_govstat {host : HostId} {v : BitVec 64} (hk : k < 8) (hl : leaseOver s = false)
    (hp : s.cfg.phase ≠ 15) :
    cfgWrite s (.host host) (0x2000 + 8 * k) 8 v = s.updGov k fun g =>
      { g with throt := g.throt && !v.getLsbD 52, tcrit := g.tcrit && !v.getLsbD 53 } := by
  have hoff : (0x2000 + 8 * k) % 8 = 0 := by omega
  have hreg : (0x2000 + 8 * k) / 8 * 8 = 0x2000 + 8 * k := by omega
  have hpres : ¬ 0x2000 + 8 * k = 0x208 := by omega
  have hlink : ¬ 0x3008 ≤ 0x2000 + 8 * k := by omega
  simp only [cfgWrite, settleLease_of_running hl, hoff, hreg, regClass_govstat hk, hostShut_of_open hp (.inr rfl)]
  simp [w1cWrite, hpres, hlink, Nat.mod_eq_of_lt v.isLt, State.updGov, BitVec.testBit_toNat]

end Sys2Proof.Machine

open Sys2Proof Sys2Proof.Machine

/-- Settles O47: an event of a governor is one change of its entry in the table; the critical event's log entry and the
host's way to the register leave that entry alone. -/
theorem governorEvents : Obligations.GovernorEvents := by
  unfold Obligations.GovernorEvents
  intro s k temp host v hk hwf
  refine ⟨?leave, ?duty, ?reached, ?step, ?critical, ?cap, ?flags⟩
  case leave =>
    intro l rest hc ha hw
    have hgov := governor_updGov_same (k := k) hwf fun g => { g with asked := rest, held := g.held ++ [l] }
    refine ⟨_, rfl, ?_⟩
    rw [if_neg (by simp [hc]), grantLeave_cur ha hw]
    exact ⟨congrArg Gov.asked hgov, congrArg Gov.held hgov, rfl, rfl⟩
  case duty =>
    have hgov := governor_updGov_same (k := k) hwf (newDuties s.cfg.pwrcap.toNat)
    refine ⟨_, rfl, ?_⟩
    rw [if_pos hk, hgov]
    refine ⟨rfl, fun j hj => ?_, dutyOf_eq_full, dutyOf_eq_full, newDuties_throt, one_le_dutyOf _ _ _,
      dutyOf_le_full _ _ _⟩
    rw [governor_updGov hwf, if_neg hj]
  case reached =>
    intro hhot hcool
    have h8 : ¬ 8 ≤ k := by omega
    simp [exec, execThermalStep, execThermalCritical, h8, hk, hhot, hcool]
  case step =>
    intro hnot _ _
    have hgov := governor_updGov_same (k := k) hwf (heatStep temp)
    refine ⟨_, rfl, ?_⟩
    rw [if_neg (by omega), if_neg (by omega), hgov]
    refine ⟨rfl, rfl, fun hhot => ?_, fun hcool => ?_⟩
    · rw [heatStep_of_hot _ hhot]
      exact ⟨rfl, rfl⟩
    · rw [heatStep_of_cool _ hcool]
      exact ⟨rfl, rfl⟩
  case critical =>
    intro hhot
    refine ⟨_, rfl, ?_⟩
    rw [if_pos ⟨hk, hhot⟩, thermalCritical_governor hwf]
    exact ⟨rfl, rfl⟩
  case cap =>
    intro ha hl hc hp hlo hhi
    exact ⟨_, rfl, cfgWrite_pwrcap ha hl hc hp hlo hhi⟩
  case flags =>
    intro hp hl
    refine ⟨_, rfl, ?_⟩
    rw [if_pos hk, cfgWrite_govstat hk hl hp, governor_updGov_same hwf]
    exact ⟨rfl, rfl, rfl⟩
end

section
/-! SLUICE, PANC and RCODE (R292, R295, R301, R307, R442): reading the record and pinning pages reach no unit, the queue
and the leave, one lemma for what each record comes to, then the settlement of O39. -/

namespace Sys2Proof.Machine

variable {s t : State} {w : Nat} {va : Word}

/-! ### Records and pins reach no unit -/

@[simp] theorem readRecord_units (poison n va) : (readRecord poison n va s).2.units = s.units := by
  induction n generalizing va s with
  | zero => rfl
  | succ n ih =>
    dsimp only [readRecord]
    split
    · next e => exact State.units_pair (reachH_units _ _) e
    · next e =>
      have h := State.units_pair (reachH_units _ _) e
      split
      · exact h
      · split
        · exact (readLine_units _ _ _ _ _).trans h
        · split <;> next e' => exact (State.units_pair (ih _) e').trans ((readLine_units _ _ _ _ _).trans h)

@[simp] theorem pinPages_units (need ps m) : (pinPages need ps m s).2.units = s.units := by
  induction ps generalizing m s with
  | nil => rfl
  | cons p ps ih =>
    dsimp only [pinPages]
    split <;> next e => have h := State.units_pair (reachH_units _ _) e; simp [ih, h]

@[simp] theorem pinRun_units (need n va bits m) : (pinRun need n va bits m s).2.units = s.units := by
  induction n generalizing va bits m s with
  | zero => rfl
  | succ n ih =>
    unfold pinRun
    split
    · rfl
    · split
      · next e => exact State.units_pair (pinPages_units _ _ _) e
      · next e =>
        have h := State.units_pair (pinPages_units _ _ _) e
        split <;> simp [ih, h]

@[simp] theorem pinRuns_units (need bits vas m) : (pinRuns need bits vas m s).2.units = s.units := by
  induction vas generalizing m s with
  | nil => rfl
  | cons va vas ih =>
    unfold pinRuns
    split <;> next e => have h := State.units_pair (pinRun_units _ _ _ _ _) e; simp [ih, h]

@[simp] theorem pinShape_units (r) : (pinShape r s).2.units = s.units := by
  have hsrc : (if r.qmode = 1 then pinPages .read r.convertPages [] s
      else pinRuns .read r.srcBits r.srcRuns [] s).2.units = s.units := by
    split <;> simp
  unfold pinShape
  split <;> next e => have h := State.units_pair hsrc e; simp [h]

@[simp] theorem pinOperand_units (need base n m) : (pinOperand need base n m s).2.units = s.units := by
  dsimp only [pinOperand]
  split
  · rfl
  · split
    · next e => exact State.units_pair (reachH_units _ _) e
    · next e =>
      have h := State.units_pair (reachH_units _ _) e
      split <;> next e' => exact (State.units_pair (pinPages_units _ _ _) e').trans h

/-! ### Issue and leave (R22, R292) -/

theorem setCur_cur_self (s : State) : s.setCur s.cur = s := by
  unfold State.setCur State.cur
  split <;> rfl

/-- Moving on replaces the issuing stream and nothing else. -/
theorem advance_eq_setCur (s : State) : ∃ u, s.advance = s.setCur u := by
  unfold State.advance
  split
  · exact ⟨_, rfl⟩
  · exact ⟨s.cur, (setCur_cur_self s).symm⟩

theorem setCur_slseq (s : State) (u : Stream) : (s.setCur u).h.slseq = s.h.slseq := by
  unfold State.setCur
  split <;> rfl

/-- Counting a command leaves the A-stream of its hart. -/
@[simp] theorem countCmd_a (c : Cmd) (h : Hart) : (countCmd c h).a = h.a := by
  unfold countCmd
  split <;> rfl

/-- A command has taken its slot and issued: it stands last, and its hart has counted it. -/
def CmdIssued (s t : State) (c : Cmd) : Prop :=
  t.cmds = s.cmds ++ [c] ∧ t.nextCmd = s.nextCmd + 1 ∧ t.h.slseq = (countCmd c s.h).slseq ∧ t.mem = s.mem ∧
    t.rest = s.rest

/-- A command has taken its slot and asks a tower's governor for its leave; the A-stream waits at it, and no sequence
number is taken. -/
def CmdAsks (s t : State) (c : Cmd) (tower charge : Nat) : Prop :=
  t.cmds = s.cmds ++ [{ c with asks := true }] ∧ t.nextCmd = s.nextCmd + 1 ∧
    t.gov = SMap.upd Gov.reset s.gov tower (fun g => { g with asked := g.asked ++ [⟨.inr c.id, charge, true⟩] }) ∧
    t.h.a.st = .wait ∧ t.h.a.wait = .leave ∧ t.h.a.pos = s.h.a.pos ∧ t.h.slseq = s.h.slseq ∧
    t.h.panseq = s.h.panseq ∧ t.mem = s.mem ∧ t.rest = s.rest

theorem issueCmd_issued {c : Cmd} {room : Nat} (hr : (s.cmds.filter fun d => sameQueue d c).length < room) :
    CmdIssued s (issueCmd c room none s) c := by
  obtain ⟨u, e⟩ :=
    advance_eq_setCur { s with cmds := s.cmds ++ [c], nextCmd := s.nextCmd + 1, h := countCmd c s.h }
  simp [CmdIssued, issueCmd, Nat.not_le.mpr hr, e, setCur_slseq]

theorem issueCmd_asks {c : Cmd} {room tower charge : Nat} (hx : s.onX = false)
    (hr : (s.cmds.filter fun d => sameQueue d c).length < room) :
    CmdAsks s (issueCmd c room (some (tower, charge)) s) c tower charge := by
  simp [CmdAsks, issueCmd, Nat.not_le.mpr hr, State.stall, State.setCur, State.cur, hx]

/-- Once its leave is granted, a command goes on as it stands (R22). -/
theorem issueAsked_held {c : Cmd} (hs : ReadyA s w) (hl : leaveHeld s c.id = true) :
    Ran { s with
      cmds := s.cmds.map fun d => if d.id = c.id then { d with asks := false } else d
      h := countCmd c s.h } (issueAsked c s) w := by
  obtain ⟨hx, hpos, -, -, -⟩ := hs
  rw [issueAsked, if_pos hl]
  apply advance_ran
  simp [AtWord, State.cur, hx, hpos]

theorem issueAsked_not_held {c : Cmd} (hl : leaveHeld s c.id = false) : issueAsked c s = s.stall .wait .leave := by
  simp [issueAsked, hl]

/-! ### The common part of the engine instructions (R218, R292, R442) -/

/-- With nothing in flight an instruction waits for no load and no store. -/
theorem ordered_ready (hs : ReadyA s w) (k : State → State) : ordered s k = k s := by
  obtain ⟨-, -, hload, hstore, hsfrq⟩ := hs
  simp [ordered, confirmed, drained, settleLoads, settleStores, settleFrom, settleStoresFrom, hload, hstore, hsfrq]

theorem inA_ready (hs : ReadyA s w) (i : Instr) (k : State → State) : inA i s k = k s := by
  simp [inA, hs.1]

/-- A cause of the A-stream is taken at once. -/
theorem raise_onA (hx : s.onX = false) (code acc level : Nat) (tval : Word) :
    raise s code acc level tval = takeTrap s ⟨false, code, acc, level, tval⟩ := by
  simp [raise, hx]

theorem engineInstr_asked {lines : Nat} {logged : Bool} {k : Nat → State → State} {c : Cmd}
    (hc : askedCmd s = some c) : engineInstr lines logged va k s = issueAsked c s := by
  simp [engineInstr, hc]

/-- An engine instruction goes on with the record that it has read. -/
theorem engineInstr_record {lines v : Nat} {logged : Bool} {k : Nat → State → State} (hs : ReadyA s w)
    (hc : askedCmd s = none) (hl : logged = true → s.logFull s.h = false) (ha : va.toNat % 64 = 0)
    (hv : (readRecord causeENGREJECT lines va s).1 = .ok v) :
    engineInstr lines logged va k s = k v (readRecord causeENGREJECT lines va s).2 := by
  have hgo : readRecord causeENGREJECT lines va s = (.ok v, (readRecord causeENGREJECT lines va s).2) :=
    Prod.ext hv rfl
  simp only [engineInstr, hc, ordered_ready hs, ha, ne_eq, not_true_eq_false, if_false]
  cases logged with
  | false => rw [if_neg Bool.false_ne_true, hgo]
  | true => rw [if_pos rfl, notFull, if_neg (by simp [hl rfl]), hgo]

/-! ### What each record comes to -/

theorem execSluice_record {a : BitVec 6} {j : BitVec 4} {c : BitVec 3} {v : Nat} (hs : ReadyA s w)
    (hc : askedCmd s = none) (hl : s.logFull s.h = false) (ha : (s.reg a.toNat).toNat % 64 = 0)
    (hv : (readRecord causeENGREJECT 4 (s.reg a.toNat) s).1 = .ok v) :
    exec (.sluice a j c) s = .next (sluiceRecord (s.reg a.toNat) j.toNat c.toNat v
      (readRecord causeENGREJECT 4 (s.reg a.toNat) s).2) := by
  simp only [exec, execSluice, inA_ready hs]
  rw [engineInstr_record hs hc (fun _ => hl) ha hv]

theorem execPanc_record {a : BitVec 6} {c : BitVec 3} {v : Nat} (hs : ReadyA s w)
    (hc : askedCmd s = none) (hl : s.logFull s.h = false) (ha : (s.reg a.toNat).toNat % 64 = 0)
    (hv : (readRecord causeENGREJECT 1 (s.reg a.toNat) s).1 = .ok v) :
    exec (.panc a c) s = .next (panRecord (s.reg a.toNat) c.toNat v
      (readRecord causeENGREJECT 1 (s.reg a.toNat) s).2) := by
  simp only [exec, execPanc, inA_ready hs]
  rw [engineInstr_record hs hc (fun _ => hl) ha hv]

theorem execRcode_record {a : BitVec 6} {c : BitVec 3} {v : Nat} (hs : ReadyA s w)
    (hc : askedCmd s = none) (hp : s.h.priv = true) (ha : (s.reg a.toNat).toNat % 64 = 0)
    (hv : (readRecord causeENGREJECT 1 (s.reg a.toNat) s).1 = .ok v) :
    exec (.rcode a c) s = .next (recodeRecord (s.reg a.toNat) c.toNat v
      (readRecord causeENGREJECT 1 (s.reg a.toNat) s).2) := by
  simp only [exec, execRcode, inA_ready hs, needPriv, if_pos hp]
  rw [engineInstr_record hs hc (fun h => absurd h Bool.false_ne_true) ha hv]

/-- In U mode RCODE raises PRIV before it reads anything. -/
theorem execRcode_user {a : BitVec 6} {c : BitVec 3} (hs : ReadyA s w) (hp : s.h.priv = false) :
    exec (.rcode a c) s = .next (takeTrap s ⟨false, causePRIV, 0, 0, (encode (.rcode a c)).setWidth 64⟩) := by
  simp only [exec, execRcode, inA_ready hs, needPriv, hp, notPrivileged, tvalOf, raise_onA hs.1]
  rfl

/-- A shape record that its engine rejects (R295). -/
theorem sluiceRecord_rejects {j sc v : Nat} (hx : s.onX = false)
    (hbad : (shapeOk v s.h.priv && doneOk s (shapeOf v).prog) = false) :
    sluiceRecord va j sc v s = takeTrap s ⟨false, causeENGREJECT, 9, 0, va⟩ := by
  rw [sluiceRecord, if_pos (by simpa [← Bool.not_and] using hbad), reject, raise_onA hx]

/-- A shape record that its engine takes goes on to its queue. -/
theorem sluiceRecord_takes {j sc v : Nat} {m : Pins} (hok : shapeOk v s.h.priv = true)
    (hdone : doneOk s (shapeOf v).prog = true) (hpin : (pinShape (shapeOf v) s).1 = .ok m)
    (hpages : shapePagesOk (shapeOf v) m = true) :
    let s1 := (pinShape (shapeOf v) s).2
    sluiceRecord va j sc v s = issueCmd
      (newCmd s1 (.sluice (shapeOf v)) j (SMap.get 0#32 s1.h.slseq j) sc m (shapeOf v).prog s1.h.id.tower) 4
      (shapeLeave (shapeOf v) s1.h.id.tower) s1 := by
  have e : pinShape (shapeOf v) s = (.ok m, (pinShape (shapeOf v) s).2) := Prod.ext hpin rfl
  simp only [sluiceRecord, hok, hdone]
  rw [e]
  simp [hpages]

/-- A pan record that its unit takes goes on to its queue with its leave to ask for. -/
theorem panRecord_takes {sc v ww wx wy : Nat} {m1 m2 m3 : Pins} {s1 s2 s3 : State} (hok : panOk v = true)
    (hdone : doneOk s (panOf v).done = true)
    (h1 : pinOperand (if (panOf v).opc = 1 then .read else .write) (panOf v).w (panOf v).counts.1 [] s =
      (.ok (ww, m1), s1))
    (h2 : pinOperand .read (panOf v).x (panOf v).counts.2.1 m1 s1 = (.ok (wx, m2), s2))
    (h3 : pinOperand .write (panOf v).y (panOf v).counts.2.2 m2 s2 = (.ok (wy, m3), s3))
    (hpages : panPagesOk (panOf v) m3 ww wx wy = true) :
    let stack := stackOf (pinned m3 (panOf v).w).pa
    panRecord va sc v s = issueCmd (newCmd s3 (.pan (panOf v)) 0 s3.h.panseq sc m3 (panOf v).done stack) 4
      (some (stack / 2, if (panOf v).opc = 3 then 32 else 96)) s3 := by
  simp [panRecord, hok, hdone, h1, h2, h3, hpages]

/-- A job record whose pages and frames stand as they must goes on to its tower's queue. -/
theorem recodeRecord_takes {sc v : Nat} {ps : List (Nat × Nat)} {m : Pins} {s1 s2 : State} (hok : recodeOk v = true)
    (hdone : doneOk s (recodeOf v []).done = true)
    (hlist : readList (fieldOf v 63 32) (BitVec.ofNat 64 (v >>> 64)) s = (.ok ps, s1))
    (hup : pagesAscend 0 ps = true)
    (hapart : framesApart (65536 / 2 ^ (recodeOf v ps).tcr) (ps.map fun p => p.2) = true)
    (hleaf : recodeLeaves s1.h.id.tower (recodeOf v ps) ps [] s1 = (.ok m, s2))
    (hmeet : meetsSource (recodeOf v ps) m = false) :
    recodeRecord va sc v s = issueCmd (newCmd s2 (.recode (recodeOf v ps) .queued []) 0 s2.h.rcseq sc m
      (recodeOf v ps).done s2.h.id.tower) 16 none s2 := by
  have hpages : (recodeOf v ps).pages = ps := rfl
  simp [recodeRecord, recodeJob, hok, hdone, hlist, hpages, hup, hapart, hleaf, hmeet]

end Sys2Proof.Machine

open Sys2Proof Sys2Proof.Machine

/-- Settles O39: with nothing in flight each instruction goes on with the record that it reads; the record's checks are
those of the statement, and the queue, the leave and the count are those of `issueCmd` and `issueAsked`. -/
theorem engineCommandsIssue : Obligations.EngineCommandsIssue := by
  unfold Obligations.EngineCommandsIssue
  refine ⟨?first, ?asked, ?rcode⟩
  case first =>
    intro s w a j c v hs hc hl ha
    refine ⟨?sluice, ?rejected, ?panc⟩
    case sluice =>
      intro rd r pin s2 hv hok hdone m hpin hpages cmd hroom
      have hx : s2.onX = false :=
        (State.units_onX ((pinShape_units _).trans (readRecord_units _ _ _))).trans hs.1
      have hexec := (execSluice_record (c := c) (j := j) hs hc hl ha hv).trans
        (congrArg Host.Outcome.next (sluiceRecord_takes hok hdone hpin hpages))
      refine ⟨fun hsmall => ?_, fun hlarge => ?_⟩
      · rw [shapeLeave, if_neg (Nat.not_le.mpr hsmall)] at hexec
        exact ⟨_, hexec, issueCmd_issued hroom⟩
      · rw [shapeLeave, if_pos hlarge] at hexec
        exact ⟨_, hexec, issueCmd_asks hx hroom⟩
    case rejected =>
      intro rd hv hbad hx
      rw [execSluice_record hs hc hl ha hv, sluiceRecord_rejects hx hbad]
    case panc =>
      intro rd r p1 hv hok hdone ww m1 h1 p2 wx m2 h2 p3 wy m3 h3 hpages stack cmd hroom
      have hx : p3.2.onX = false :=
        (State.units_onX ((pinOperand_units _ _ _ _).trans ((pinOperand_units _ _ _ _).trans
          ((pinOperand_units _ _ _ _).trans (readRecord_units _ _ _))))).trans hs.1
      have hexec := (execPanc_record (c := c) hs hc hl ha hv).trans
        (congrArg Host.Outcome.next
          (panRecord_takes hok hdone (Prod.ext h1 rfl) (Prod.ext h2 rfl) (Prod.ext h3 rfl) hpages))
      exact ⟨_, hexec, issueCmd_asks hx hroom⟩
  case asked =>
    intro s w a j c cmd hs hc i hi
    have hexec : exec i s = .next (issueAsked cmd s) := by
      simp only [List.mem_cons, List.not_mem_nil, or_false] at hi
      rcases hi with rfl | rfl
      · simp only [exec, execSluice, inA_ready hs, engineInstr_asked hc]
      · simp only [exec, execPanc, inA_ready hs, engineInstr_asked hc]
    refine ⟨fun hheld => ⟨_, hexec, issueAsked_held hs hheld⟩, fun hwait => ?_⟩
    rw [hexec, issueAsked_not_held hwait]
  case rcode =>
    intro s w a c v hs hc va rd l
    refine ⟨?_, execRcode_user hs⟩
    intro hp ha hv hok hdone ps hps hup r hapart lv m hm hmeet cmd hroom
    have hexec := (execRcode_record (c := c) hs hc hp ha hv).trans
      (congrArg Host.Outcome.next (recodeRecord_takes hok hdone (Prod.ext hps rfl) hup hapart (Prod.ext hm rfl) hmeet))
    obtain ⟨hcmds, -, -, hmem, -⟩ := issueCmd_issued hroom
    exact ⟨_, hexec, hcmds, hmem⟩
end

section
/-! Lines as the part reads them (R4, R31, R185): the bytes of a number and of a line, what putting a line leaves of every
byte and tag, and reads and writes at the home of a line of HBM4E. -/

namespace Sys2Proof

/-- A value that is not the default is read where it is written, whatever the table. -/
theorem SMap.get_set_self_of_ne {α : Type} [DecidableEq α] {d v : α} (m : SMap α) (n : Nat) (hv : v ≠ d) :
    SMap.get d (SMap.set d m n v) n = v := by
  induction m with
  | nil => simp [SMap.set, SMap.get, hv]
  | cons p m ih =>
    obtain ⟨k, x⟩ := p
    rw [SMap.set, if_neg hv, if_neg hv]
    split
    · simp [SMap.get]
    · next h1 =>
      split
      · simp [SMap.get]
      · next h2 => rw [SMap.get, if_neg h2, if_neg h1, ih]

end Sys2Proof

namespace Sys2Proof.Machine

variable {s t : State} {m : List Host.Cell} {pa a b n v : Nat} {tag : BitVec 32}

/-! ### Numbers and their bytes -/

/-- Bit j of a number some of whose bytes have been replaced. -/
theorem testBit_putBytes (old o n v j : Nat) :
    (putBytes old o n v).testBit j =
      if 8 * o ≤ j ∧ j < 8 * (o + n) then v.testBit (j - 8 * o) else old.testBit j := by
  have hsplit : putBytes old o n v =
      2 ^ (8 * o) * (2 ^ (8 * n) * (old / 2 ^ (8 * o) / 2 ^ (8 * n)) + v % 2 ^ (8 * n)) + old % 2 ^ (8 * o) := by
    have hold : old = 2 ^ (8 * o) * (2 ^ (8 * n) * (old / 2 ^ (8 * o) / 2 ^ (8 * n)) + old / 2 ^ (8 * o) % 2 ^ (8 * n)) +
        old % 2 ^ (8 * o) := by
      rw [Nat.div_add_mod, Nat.div_add_mod]
    rw [putBytes]
    generalize old / 2 ^ (8 * o) % 2 ^ (8 * n) = part at hold ⊢
    rw [Nat.mul_add] at hold ⊢
    rw [Nat.mul_comm part, Nat.mul_comm (v % _)]
    omega
  rw [hsplit, Nat.testBit_two_pow_mul_add _ (Nat.mod_lt _ (Nat.two_pow_pos _)),
    Nat.testBit_two_pow_mul_add _ (Nat.mod_lt _ (Nat.two_pow_pos _))]
  by_cases h1 : j < 8 * o
  · simp [h1, Nat.not_le.mpr h1]
  · by_cases h2 : j - 8 * o < 8 * n
    · have h3 : 8 * o ≤ j ∧ j < 8 * (o + n) := by omega
      simp [h1, h2, h3]
    · have h3 : ¬ (8 * o ≤ j ∧ j < 8 * (o + n)) := by omega
      have h4 : j - 8 * o - 8 * n + 8 * n + 8 * o = j := by omega
      simp [h1, h2, h3, Nat.testBit_div_two_pow, h4]

theorem getLsbD_byte (x i j : Nat) (hj : j < 8) : (BitVec.ofNat 8 (x / 256 ^ i)).getLsbD j = x.testBit (8 * i + j) := by
  rw [BitVec.getLsbD_ofNat, show (256 : Nat) = 2 ^ 8 from rfl, ← Nat.pow_mul, Nat.testBit_div_two_pow, Nat.add_comm]
  simp [hj]

/-- Replacing n bytes at offset o gives those bytes and leaves the others. -/
theorem byte_putBytes (old o n v i : Nat) : BitVec.ofNat 8 (putBytes old o n v / 256 ^ i) =
    if o ≤ i ∧ i < o + n then BitVec.ofNat 8 (v / 256 ^ (i - o)) else BitVec.ofNat 8 (old / 256 ^ i) := by
  apply BitVec.eq_of_getLsbD_eq
  intro j hj
  rw [getLsbD_byte _ _ _ hj, testBit_putBytes]
  by_cases h : o ≤ i ∧ i < o + n
  · have h1 : 8 * o ≤ 8 * i + j ∧ 8 * i + j < 8 * (o + n) := by omega
    have h2 : 8 * i + j - 8 * o = 8 * (i - o) + j := by omega
    rw [if_pos h, if_pos h1, getLsbD_byte _ _ _ hj, h2]
  · have h1 : ¬ (8 * o ≤ 8 * i + j ∧ 8 * i + j < 8 * (o + n)) := by omega
    rw [if_neg h, if_neg h1, getLsbD_byte _ _ _ hj]

theorem byte_add_shifted (x : BitVec 8) (w : Nat) : BitVec.ofNat 8 (x.toNat + 256 * w) = x := by
  apply BitVec.eq_of_toNat_eq
  have := x.isLt
  simp only [BitVec.toNat_ofNat]
  omega

theorem div_pow_succ_add_shifted (x : BitVec 8) (w i : Nat) : (x.toNat + 256 * w) / 256 ^ (i + 1) = w / 256 ^ i := by
  have := x.isLt
  rw [Nat.pow_succ', ← Nat.div_div_eq_div_mul]
  congr 1
  omega

/-- Byte i of the number that some bytes make. -/
theorem byte_bytesNum (l : List Byte) (i : Nat) (hi : i < l.length) : BitVec.ofNat 8 (bytesNum l / 256 ^ i) = l[i] := by
  induction l generalizing i with
  | nil => exact absurd hi (Nat.not_lt_zero i)
  | cons x l ih =>
    cases i with
    | zero => simpa [bytesNum] using byte_add_shifted x (bytesNum l)
    | succ i =>
      rw [bytesNum, div_pow_succ_add_shifted]
      exact ih i (Nat.lt_of_succ_lt_succ hi)

/-! ### Bytes of memory as the part reads them -/

/-- Byte i of what the part reads. -/
theorem byte_seenWord {i : Nat} (hi : i < n) : BitVec.ofNat 8 (s.seenWord a n / 256 ^ i) = s.seen (a + i) := by
  induction n generalizing a i with
  | zero => exact absurd hi (Nat.not_lt_zero i)
  | succ n ih =>
    cases i with
    | zero => simpa [State.seenWord] using byte_add_shifted (s.seen a) (s.seenWord (a + 1) n)
    | succ i =>
      rw [State.seenWord, div_pow_succ_add_shifted, ih (Nat.lt_of_succ_lt_succ hi)]
      congr 1
      omega

/-- What the part reads is the number whose bytes stand there. -/
theorem seenWord_of_bytes (h : ∀ i, i < n → s.seen (a + i) = BitVec.ofNat 8 (v / 256 ^ i)) :
    s.seenWord a n = v % 256 ^ n := by
  induction n generalizing a v with
  | zero => simp [State.seenWord, Nat.mod_one]
  | succ n ih =>
    have hrest : s.seenWord (a + 1) n = v / 256 % 256 ^ n := by
      refine ih fun i hi => ?_
      rw [Nat.div_div_eq_div_mul, ← Nat.pow_succ', ← h (i + 1) (Nat.succ_lt_succ hi)]
      congr 1
      omega
    have h0 := h 0 (Nat.succ_pos n)
    rw [State.seenWord, hrest, show s.seen a = BitVec.ofNat 8 v by simpa using h0, BitVec.toNat_ofNat,
      show (2 : Nat) ^ 8 = 256 from rfl, Nat.pow_succ', Nat.mod_mul]

theorem seenWord_lt (s : State) (a n : Nat) : s.seenWord a n < 256 ^ n := by
  rw [seenWord_of_bytes (v := s.seenWord a n) fun i hi => (byte_seenWord hi).symm]
  exact Nat.mod_lt _ (Nat.pow_pos (by decide))

/-- Some bytes out of what the part reads. -/
theorem seenWord_slice {i k : Nat} (h : i + k ≤ n) :
    s.seenWord a n / 256 ^ i % 256 ^ k = s.seenWord (a + i) k := by
  refine (seenWord_of_bytes fun j hj => ?_).symm
  rw [Nat.div_div_eq_div_mul, ← Nat.pow_add, byte_seenWord (by omega)]
  congr 1
  omega

theorem seenWord_eq_readMem (h : ∀ i, i < n → s.seen (a + i) = s.byte (a + i)) : s.seenWord a n = readMem s.mem a n := by
  induction n generalizing a with
  | zero => rfl
  | succ n ih =>
    have h0 : s.seen a = SMap.get 0#8 s.mem a := h 0 (Nat.succ_pos n)
    rw [State.seenWord, readMem, h0, ih]
    intro i hi
    rw [show a + 1 + i = a + (i + 1) by omega]
    exact h (i + 1) (Nat.succ_lt_succ hi)

theorem seenWord_emit (s : State) (o : OutMsg) (a n : Nat) : (s.emit o).seenWord a n = s.seenWord a n := by
  induction n generalizing a with
  | zero => rfl
  | succ n ih =>
    rw [State.seenWord, ih]
    rfl

/-- The bytes of one line have one sideband. -/
theorem sideOf_same_line (h : a / 64 = b / 64) : sideOf s a = sideOf s b := by rw [sideOf, sideOf, h]

theorem lineAddr_add_offset (pa : Nat) : lineAddr pa + pa % 64 = pa := by
  rw [lineAddr]
  omega

/-- A line as an access receives it holds the bytes that the part reads there. -/
theorem lineVal_bytes (s : State) (pa : Nat) (bad : Bool) :
    (⟨lineData s pa, (sideOf s pa).tag, bad⟩ : LineVal).bytes = s.seenWord (lineAddr pa) 64 := by
  have hside : ∀ i, i < 64 → sideOf s (lineAddr pa + i) = sideOf s pa := fun i hi =>
    sideOf_same_line (by rw [lineAddr]; omega)
  rw [LineVal.bytes]
  split
  · next h =>
    rw [seenWord_of_bytes (v := 0) fun i hi => ?_, Nat.zero_mod]
    rw [State.seen, hside i hi, if_pos h]
    simp
  · next h => exact (seenWord_eq_readMem fun i hi => by rw [State.seen, hside i hi, if_neg h]).symm

/-! ### Putting a line -/

/-- Putting a line gives it its tag; every other line keeps its sideband. -/
theorem sideOf_putLine (hs : s.canon) (pa d : Nat) (tag : BitVec 32) (a : Nat) :
    sideOf (putLine s pa d tag) a = if a / 64 = pa / 64 then { sideOf s pa with tag := tag } else sideOf s a :=
  SMap.get_set hs.2 (a / 64)

/-- Putting a line gives it its bytes, zeros where its tag is UNINIT; every other byte reads as before. -/
theorem seen_putLine (hs : s.canon) (pa d : Nat) (tag : BitVec 32) (a : Nat) :
    (putLine s pa d tag).seen a =
      if a / 64 = pa / 64 then (if tagVc tag = .uninit then 0 else BitVec.ofNat 8 (d / 256 ^ (a % 64))) else s.seen a := by
  rw [State.seen, sideOf_putLine hs, State.byte, putLine_mem]
  by_cases h : a / 64 = pa / 64
  · have e : a = lineAddr pa + a % 64 := by rw [lineAddr]; omega
    have hb := get_writeMem_inside (lineAddr pa) d 64 (a % 64) hs.1 (Nat.mod_lt a (by decide))
    rw [← e] at hb
    rw [if_pos h, if_pos h, hb]
  · have hb := get_writeMem_outside (lineAddr pa) d 64 a hs.1 (by rw [lineAddr]; omega)
    rw [if_neg h, if_neg h, hb]
    rfl

/-- A fresh check field leaves every tag. -/
theorem tag_freshCheck (hs : s.canon) (pa k a : Nat) :
    (sideOf (freshCheck s pa k) a).tag = (sideOf s a).tag := by
  have h := SMap.get_set (n := pa / 64) (v := { sideOf s pa with chk := .fresh k (keyVersion s k) (keyValue s k) })
    hs.2 (a / 64)
  rw [sideOf, freshCheck, h]
  split
  · next e => rw [sideOf_same_line e]
  · rfl

theorem seen_freshCheck (hs : s.canon) (pa k a : Nat) : (freshCheck s pa k).seen a = s.seen a := by
  rw [State.seen, tag_freshCheck hs, State.byte, freshCheck_mem]
  rfl

/-! ### Lines of HBM4E at their homes -/

@[simp] theorem sideOf_own (s : State) (pa k : Nat) (w : Who) (noL1 : Bool) (a : Nat) :
    sideOf (own s pa k w noL1) a = sideOf s a := rfl

@[simp] theorem seen_own (s : State) (pa k : Nat) (w : Who) (noL1 : Bool) (a : Nat) :
    (own s pa k w noL1).seen a = s.seen a := rfl

/-- A line of HBM4E that is written takes its check field from what is put. -/
theorem writeLine_hbm {k d : Nat} {w : Who} {noL1 : Bool} (hr : regionOf s pa = .hbm) :
    writeLine s pa k w noL1 d tag = freshCheck (own (putLine s pa d (tag &&& 0x1FFFFFF#32)) pa k w noL1) pa k := by
  simp [writeLine, hr, lineWrite, portShut]

theorem tag_writeLine_hbm {k d : Nat} {w : Who} {noL1 : Bool} (hs : s.canon) (hr : regionOf s pa = .hbm) (a : Nat) :
    (sideOf (writeLine s pa k w noL1 d tag) a).tag =
      if a / 64 = pa / 64 then tag &&& 0x1FFFFFF#32 else (sideOf s a).tag := by
  rw [writeLine_hbm hr, tag_freshCheck (.own hs.putLine), sideOf_own, sideOf_putLine hs]
  exact apply_ite Side.tag _ _ _

theorem seen_writeLine_hbm {k d : Nat} {w : Who} {noL1 : Bool} (hs : s.canon) (hr : regionOf s pa = .hbm) (a : Nat) :
    (writeLine s pa k w noL1 d tag).seen a =
      if a / 64 = pa / 64 then (if tagVc (tag &&& 0x1FFFFFF#32) = .uninit then 0 else BitVec.ofNat 8 (d / 256 ^ (a % 64)))
      else s.seen a := by
  rw [writeLine_hbm hr, seen_freshCheck (.own hs.putLine), seen_own, seen_putLine hs]

/-- A line that a cache holds is read as it stands, and its reader recorded (R188, R190). -/
theorem readLine_held {k lfmt : Nat} {w : Who} {noL1 : Bool} (h : Held s pa) :
    readLine s pa k lfmt w noL1 = (⟨lineData s pa, (sideOf s pa).tag, false⟩, share s pa k w noL1) := by
  obtain ⟨hr, hc⟩ := h
  simp [readLine, hr, homeRead, hc]

/-- HBM4E is the map's first region (R135). -/
theorem regionOf_eq_hbm : regionOf s pa = .hbm ↔ pa < hbmSize := by
  unfold regionOf
  dsimp only
  split_ifs <;> simp_all

theorem dirOf_setDir_same {d : Dir} (hd : d ≠ .none) : dirOf (setDir s pa d) pa = d := SMap.get_set_self_of_ne s.dir _ hd

/-- A line of HBM4E that has been read is held at its home. -/
theorem held_share {k : Nat} {w : Who} {noL1 : Bool} (hr : regionOf s pa = .hbm) : Held (share s pa k w noL1) pa := by
  obtain ⟨d, hshare, hl2⟩ : ∃ d, share s pa k w noL1 = setDir s pa d ∧ d.l2 = ((dirOf s pa).l2 || decide (pa < hbmSize)) :=
    ⟨_, rfl, rfl⟩
  have hl2 : d.l2 = true := by simp [hl2, regionOf_eq_hbm.mp hr]
  have hd : d ≠ .none := fun e => by simp [e, Dir.none] at hl2
  refine ⟨hr, ?_⟩
  rw [hshare, dirOf_setDir_same hd, cached, hl2]
  rfl

end Sys2Proof.Machine
end

section
/-! MEMWIN and the requests of peers (R28, R31, R40, R46, R53, R136, R212, R241): what an access to one line of HBM4E that a
cache holds reads and writes, then the settlement of O56. -/

namespace Sys2Proof.Machine

variable {s t : State} {host : HostId} {pa off n k v : Nat} {tag : BitVec 32}

/-! ### Classes -/

/-- A tag made of its fields has the class given, its reserved bits cut (R185). -/
@[simp] theorem tagVc_mkTag (fmt : Nat) (vc : Vc) (hrot sc0 sc1 : Nat) :
    tagVc (mkTag fmt vc hrot sc0 sc1 &&& 0x1FFFFFF#32) = vc := by
  have hcut : ∀ x : Nat, x % 2 ^ 32 &&& 0x1FFFFFF = x % 2 ^ 25 := by
    intro x
    rw [show 0x1FFFFFF = 2 ^ 25 - 1 from rfl, Nat.and_two_pow_sub_one_eq_mod]
    omega
  have hcode : fieldOf ((mkTag fmt vc hrot sc0 sc1 &&& 0x1FFFFFF#32).toNat) 6 5 = vcCode vc := by
    have hvc : vcCode vc < 4 := by cases vc <;> decide
    simp only [mkTag, BitVec.toNat_and, BitVec.toNat_ofNat, fieldOf, Nat.shiftRight_eq_div_pow]
    rw [show 0x1FFFFFF % 2 ^ 32 = 0x1FFFFFF from rfl, hcut]
    omega
  rw [tagVc, hcode]
  cases vc <;> rfl

/-- No write of a host leaves a line UNINIT (R31). -/
theorem hostClass_ne_uninit (old : Vc) (whole poison : Bool) : hostClass old whole poison ≠ .uninit := by
  cases poison <;> cases whole <;> cases old <;> decide

/-! ### One line through MEMWIN -/

theorem memwinLine_held (h : Held s pa) : memwinLine s pa =
    (⟨lineData s pa, (sideOf s pa).tag, false⟩, share s pa s.cfg.memkey.toNat ⟨homeTower pa, none⟩ true) :=
  readLine_held h

/-- A range inside a line is one piece. -/
theorem rangeLines_one (h1 : 1 ≤ n) (hn : off % 64 + n ≤ 64) : rangeLines n off n = [(off, n)] := by
  obtain ⟨m, rfl⟩ : ∃ m, n = m + 1 := ⟨n - 1, by omega⟩
  have hmin : Nat.min (m + 1) (64 - off % 64) = m + 1 := Nat.min_eq_left (by omega)
  rw [rangeLines, if_neg (Nat.succ_ne_zero m)]
  dsimp only
  rw [hmin, Nat.sub_self]
  cases m with
  | zero => rfl
  | succ m => rw [rangeLines, if_pos rfl]

/-- Reading one line answers its bytes with the poison of its class, and records the read. -/
theorem memwinBytes_held (h : Held s off) (hn : off % 64 + n ≤ 64) : memwinBytes [(off, n)] s =
    ((List.range n).map fun i => s.seen (off + i), vcBad (tagVc (sideOf s off).tag),
      share s off s.cfg.memkey.toNat ⟨homeTower off, none⟩ true) := by
  have hbytes : (List.range n).map (fun i => BitVec.ofNat 8 (s.seenWord (lineAddr off) 64 / 2 ^ (8 * (off % 64 + i)))) =
      (List.range n).map fun i => s.seen (off + i) := by
    refine List.map_congr_left fun i hi => ?_
    have hi := List.mem_range.mp hi
    rw [Nat.pow_mul, show (2 : Nat) ^ 8 = 256 from rfl, byte_seenWord (by omega), ← Nat.add_assoc, lineAddr_add_offset]
  simp only [memwinBytes, memwinLine_held h, lineVal_bytes, List.append_nil, Bool.or_false, hbytes]

/-- Writing bytes of a line leaves those bytes there and no other changed (R31). -/
theorem seen_memwinPut {poison : Bool} (hs : s.canon) (h : Held s pa) (hk : pa % 64 + k ≤ 64) (a : Nat) :
    (memwinPut s pa k v poison).seen a =
      if pa ≤ a ∧ a < pa + k then BitVec.ofNat 8 (v / 256 ^ (a - pa)) else s.seen a := by
  have hs1 : (share s pa s.cfg.memkey.toNat ⟨homeTower pa, none⟩ true).canon := hs.of_eq rfl rfl
  simp only [memwinPut, memwinLine_held h, lineVal_bytes]
  rw [seen_writeLine_hbm hs1 (held_share h.1).1, tagVc_mkTag, if_neg (hostClass_ne_uninit _ _ _), byte_putBytes]
  by_cases hline : a / 64 = pa / 64
  · by_cases hin : pa ≤ a ∧ a < pa + k
    · have ho : pa % 64 ≤ a % 64 ∧ a % 64 < pa % 64 + k := by omega
      have he : a % 64 - pa % 64 = a - pa := by omega
      rw [if_pos hline, if_pos ho, if_pos hin, he]
    · have ho : ¬ (pa % 64 ≤ a % 64 ∧ a % 64 < pa % 64 + k) := by omega
      have ha : lineAddr pa + a % 64 = a := by rw [lineAddr]; omega
      rw [if_pos hline, if_neg ho, if_neg hin, byte_seenWord (Nat.mod_lt a (by decide)), ha]
  · have hin : ¬ (pa ≤ a ∧ a < pa + k) := by omega
    rw [if_neg hline, if_neg hin]
    rfl

/-- A write that carries poison leaves its line POISON (R31). -/
theorem tagVc_memwinPut_poison (hs : s.canon) (h : Held s pa) :
    tagVc (sideOf (memwinPut s pa k v true) pa).tag = .poison := by
  have hs1 : (share s pa s.cfg.memkey.toNat ⟨homeTower pa, none⟩ true).canon := hs.of_eq rfl rfl
  simp only [memwinPut, memwinLine_held h]
  rw [tag_writeLine_hbm hs1 (held_share h.1).1, if_pos rfl, tagVc_mkTag]
  rfl

theorem onlyBytes_memwinPut {poison : Bool} (hs : s.canon) (h : Held s pa) (hk : pa % 64 + k ≤ 64) :
    OnlyBytes s (memwinPut s pa k v poison) pa k := by
  intro a ha
  rw [seen_memwinPut hs h hk, if_neg (by omega)]

/-! ### Accesses of hosts -/

/-- What is written or read lies in HBM4E outside the counter stores, and the part is not in recovery. -/
theorem memwinRefused_eq_false : memwinRefused s off n = false ↔
    s.cfg.phase ≠ 15#4 ∧ off + n ≤ hbmSize ∧ meetsStore off n = false := by
  simp [memwinRefused, and_assoc]

/-- An access that nothing holds back is performed at once, the lease not having run out. -/
theorem hostAccess_performed {x : HostIn} (hstall : accessStalls s x = false)
    (hwait : ∀ y ∈ s.stalledIn, y.host ≠ x.host) : hostAccess x s = performAccess x s := by
  have hany : s.stalledIn.any (fun y => y.host == x.host) = false := by simpa using hwait
  rw [hostAccess, hstall, hany]
  rfl

theorem accessStalls_unguarded {x : HostIn} (h : ∀ off n, writtenRange x = some (off, n) → guardedPa s off n = false) :
    accessStalls s x = false := by
  rw [accessStalls]
  split
  · next e => simp [h _ _ e]
  · rfl

theorem memwinRead_held (h : Held s off) (hr : memwinRefused s off n = false) (h1 : 1 ≤ n) (hn : off % 64 + n ≤ 64) :
    memwinRead host off n s = (share s off s.cfg.memkey.toNat ⟨homeTower off, none⟩ true).emit
      (.readData host ((List.range n).map fun i => s.seen (off + i)) (vcBad (tagVc (sideOf s off).tag))) := by
  simp [memwinRead, hr, rangeLines_one h1 hn, memwinBytes_held h hn]

/-- A write of the active host inside a line puts its bytes there (R31, R53). -/
theorem memwinWrite_line {data : List Byte} {poison : Bool} (hc : s.cfg.cont = false)
    (hr : memwinRefused s off data.length = false) (h1 : 1 ≤ data.length) (hn : off % 64 + data.length ≤ 64)
    (ha : isActive s (.host host) = true) :
    memwinWrite host off data poison s = memwinPut s off data.length (bytesNum data) poison := by
  obtain ⟨hp, hend, hm⟩ := memwinRefused_eq_false.mp hr
  simp [memwinWrite, hc, hp, Nat.not_lt.mpr hend, hm, ha, rangeLines_one h1 hn, memwinPuts]

/-- An atomic of the active host answers the old value and writes the new (R28). -/
theorem memwinAtomic_line {op : HostAtomic} {wide : Bool} {operand expected : Word} (hc : s.cfg.cont = false)
    (h : Held s off) (hw : n = if wide then 8 else 4)
    (hr : memwinRefused s off n = false) (hal : off % n = 0) (hop : op = .cas → wide = true)
    (ha : isActive s (.host host) = true) :
    let new := hostAtomicNew op (8 * n) (s.seenWord off n) operand.toNat expected.toNat
    memwinAtomic host off op wide operand expected s =
      (memwinPut (share s off s.cfg.memkey.toNat ⟨homeTower off, none⟩ true) off n new false).emit
        (.hostValue host (BitVec.ofNat 64 (s.seenWord off n))) := by
  obtain ⟨hp, hend, hm⟩ := memwinRefused_eq_false.mp hr
  have hn : off % 64 + n ≤ 64 := by
    have hsize : n = 8 ∨ n = 4 := by
      rw [hw]
      split <;> simp
    rcases hsize with rfl | rfl <;> omega
  have hold : s.seenWord (lineAddr off) 64 / 2 ^ (8 * (off % 64)) % 2 ^ (8 * n) = s.seenWord off n := by
    rw [Nat.pow_mul, Nat.pow_mul, show (2 : Nat) ^ 8 = 256 from rfl, seenWord_slice hn, lineAddr_add_offset]
  have hcas : ¬ (op = .cas ∧ wide = false) := fun ⟨h1, h2⟩ => by simp [hop h1] at h2
  intro new
  simp only [memwinAtomic, memwinLine_held h, lineVal_bytes, ← hw, hold]
  simp [hc, hp, Nat.not_lt.mpr hend, hm, ha, hal, hcas, new]

/-- What an AtomicOp stores fits the width of its place. -/
theorem hostAtomicNew_lt (op : HostAtomic) {bits old : Nat} (v e : Nat) (h : old < 2 ^ bits) :
    hostAtomicNew op bits old v e < 2 ^ bits := by
  cases op with
  | fetchAdd => exact Nat.mod_lt _ (Nat.two_pow_pos _)
  | swap => exact Nat.mod_lt _ (Nat.two_pow_pos _)
  | cas =>
    rw [hostAtomicNew]
    split
    · exact Nat.mod_lt _ (Nat.two_pow_pos _)
    · exact h

/-- An atomic's place reads the value that was put there, and no other byte changes. -/
theorem memwinPut_shared (hs : s.canon) (h : Held s off) (hn : off % 64 + n ≤ 64) (hv : v < 256 ^ n) :
    let t := memwinPut (share s off k ⟨homeTower off, none⟩ true) off n v false
    OnlyBytes s t off n ∧ t.seenWord off n = v := by
  have hs1 : (share s off k ⟨homeTower off, none⟩ true).canon := hs.of_eq rfl rfl
  have h1 : Held (share s off k ⟨homeTower off, none⟩ true) off := held_share h.1
  refine ⟨onlyBytes_memwinPut hs1 h1 hn, ?_⟩
  rw [seenWord_of_bytes (v := v), Nat.mod_eq_of_lt hv]
  intro i hi
  rw [seen_memwinPut hs1 h1 hn, if_pos (by omega), Nat.add_sub_cancel_left]

@[simp] theorem own_out (s : State) (pa k : Nat) (w : Who) (noL1 : Bool) : (own s pa k w noL1).out = s.out := rfl

@[simp] theorem share_out (s : State) (pa k : Nat) (w : Who) (noL1 : Bool) : (share s pa k w noL1).out = s.out := rfl

theorem memwinPut_out {poison : Bool} (h : Held s pa) : (memwinPut s pa k v poison).out = s.out := by
  simp only [memwinPut, memwinLine_held h]
  rw [writeLine_hbm (held_share h.1).1, freshCheck_out, own_out, putLine_out, share_out]

/-! ### Requests of peers -/

/-- Outside CONTAINED a peer's request is performed (R40, R43). -/
theorem exec_peerRequest (node : Nat) (req : PeerReq) (hc : s.cfg.cont = false) :
    exec (.peerRequest node req) s = peerPerform s node req := by
  rw [show exec (.peerRequest node req) s = execPeerRequest node req s from rfl, execPeerRequest, hc]
  rfl

/-- A peer's read of a held line answers the line and changes no byte (R40). -/
theorem peerPerform_readLine_held {node : Nat} (hp : peerPlace pa = true) (h : Held s pa) :
    peerPerform s node (.readLine pa) = .next (answer
      (share s pa (Config.peerKey node).toNat ⟨homeTower pa, none⟩ true) node true (s.seenWord (lineAddr pa) 64)
      (sideOf s pa).tag) := by
  simp [peerPerform, hp, readLine_held h, lineVal_bytes]

/-- Each byte of the 512 bits of a line that a peer is answered. -/
theorem extract_line_byte {i : Nat} (hi : i < 64) :
    (BitVec.ofNat 512 (s.seenWord pa 64)).extractLsb' (8 * i) 8 = s.seen (pa + i) := by
  apply BitVec.eq_of_getLsbD_eq
  intro j hj
  have hbit : 8 * i + j < 512 := by omega
  rw [← byte_seenWord hi, getLsbD_byte _ _ _ hj]
  rw [BitVec.getLsbD_extractLsb', BitVec.getLsbD_ofNat]
  simp [hj, hbit]

/-- A peer's read of a slot that the counter cache holds answers its value (R241, R436). -/
theorem peerCounterOp_read_cached {node t : Nat} {hd x : Word} {m : Option (Nat × Bool)}
    (hr : refOf s hd = .slot t n) (hg : groupPeerOk s t n = true)
    (hcc : SMap.get none s.cc (slotKey t n) = some ⟨x, m⟩) :
    peerCounterOp s node hd .read = answer (slotUsed s t n) node true x.toNat 0 := by
  simp [peerCounterOp, hr, hg, COp.deltaOk, slotOp, slotRead, hcc, slotUsed, COp.result]

end Sys2Proof.Machine

open Sys2Proof Sys2Proof.Machine

/-- Settles O56: an access to a held line of HBM4E is that of `memwinPut` or of the line's reading, and a peer's request is
performed at the home as R40 has it. -/
theorem hostAndPeerAccess : Obligations.HostAndPeerAccess := by
  unfold Obligations.HostAndPeerAccess
  refine ⟨?memwin, ?guarded, ?peers⟩
  case memwin =>
    intro s host off n data poison op wide v e hs hc hheld hr hn h1 hlease hguard hwait
    have hperform : ∀ x : HostIn, x.host = host →
        (∀ o k, writtenRange x = some (o, k) → guardedPa s o k = false) → hostAccess x s = performAccess x s := by
      intro x hx hfree
      exact hostAccess_performed (accessStalls_unguarded hfree) (hx ▸ hwait)
    refine ⟨?read, ?write, ?atomic⟩
    case read =>
      have hexec : exec (.memwinRead host off n) s = .next (memwinRead host off n s) := by
        rw [show exec (.memwinRead host off n) s = .next (hostAccess (.read host off n) s) from rfl,
          hperform _ rfl (by simp [writtenRange]), performAccess, settleLease_of_running hlease]
      rw [memwinRead_held hheld hr h1 hn] at hexec
      exact ⟨_, hexec, fun _ => rfl, rfl⟩
    case write =>
      intro ha hlen
      subst hlen
      have hexec : exec (.memwinWrite host off data poison) s = .next (memwinWrite host off data poison s) := by
        rw [show exec (.memwinWrite host off data poison) s = .next (hostAccess (.write host off data poison) s) from rfl,
          hperform _ rfl (by rintro _ _ ⟨⟩; exact hguard), performAccess, settleLease_of_running hlease]
      rw [memwinWrite_line hc hr h1 hn ha] at hexec
      refine ⟨_, hexec, onlyBytes_memwinPut hs hheld hn, fun i hi => ?_, fun hp => ?_⟩
      · rw [seen_memwinPut hs hheld hn, if_pos (by omega), Nat.add_sub_cancel_left, byte_bytesNum _ _ hi]
      · subst hp
        exact tagVc_memwinPut_poison hs hheld
    case atomic =>
      intro ha hw hal hop _
      have hexec : exec (.hostAtomicOp host off op wide v e) s = .next (memwinAtomic host off op wide v e s) := by
        rw [show exec (.hostAtomicOp host off op wide v e) s =
            .next (hostAccess (.atomic host off op wide v e) s) from rfl,
          hperform _ rfl (by rintro _ _ ⟨⟩; exact hw ▸ hguard), performAccess, settleLease_of_running hlease]
      rw [memwinAtomic_line hc hheld hw hr hal hop ha] at hexec
      have hold : s.seenWord off n < 2 ^ (8 * n) := by
        have := seenWord_lt s off n
        rwa [show (256 : Nat) = 2 ^ 8 from rfl, ← Nat.pow_mul] at this
      have hnew := hostAtomicNew_lt op v.toNat e.toNat hold
      rw [Nat.pow_mul, show (2 : Nat) ^ 8 = 256 from rfl] at hnew
      obtain ⟨honly, hval⟩ := memwinPut_shared (k := s.cfg.memkey.toNat) hs hheld hn hnew
      exact ⟨_, hexec, honly, (seenWord_emit _ _ _ _).trans hval, congrArg (_ :: ·) (memwinPut_out (held_share hheld.1))⟩
  case guarded =>
    intro s host off data poison hc hp ha hguard
    have hstall : accessStalls s (.write host off data poison) = true := by
      simpa [accessStalls, writtenRange, HostIn.host, hc, ha, hguard] using hp
    rw [show exec (.memwinWrite host off data poison) s = .next (hostAccess (.write host off data poison) s) from rfl,
      hostAccess, hstall]
    rfl
  case peers =>
    intro s node pa data tag op wide v e hc
    refine ⟨fun hplace hheld => ⟨?read, ?write, ?part, ?retag, ?atomic⟩, ?counter, fun hplace => ⟨?holeRead, ?holeWrite⟩⟩
    case read =>
      exact ⟨_, _, (exec_peerRequest _ _ hc).trans (peerPerform_readLine_held hplace hheld), fun _ => rfl, rfl,
        fun i hi => extract_line_byte hi⟩
    case counter =>
      intro t n x m hr hg hcc
      rw [exec_peerRequest _ _ hc, peerPerform, peerCounterOp_read_cached hr hg hcc]
    case write => simp [exec_peerRequest _ _ hc, peerPerform, hplace]
    case part => simp [exec_peerRequest _ _ hc, peerPerform, hplace]
    case retag => simp [exec_peerRequest _ _ hc, peerPerform, hplace]
    case atomic => simp [exec_peerRequest _ _ hc, peerPerform, hplace]
    case holeRead => simp [exec_peerRequest _ _ hc, peerPerform, hplace]
    case holeWrite => simp [exec_peerRequest _ _ hc, peerPerform, hplace]
end

section
/-! What entering CONTAINED leaves as it was (R43, R70): the lines of HBM4E outside the save areas and logs that the launches
hold and the line of ERRCNT, the frames of those regions, and the cause recorded. One lemma for each function of the model
that the entry reaches. -/

namespace Sys2Proof.Machine

variable {s t u : State} {o p : Out} {pa k b : Nat}

/-! ### Lines that stay, and what may be written -/

/-- A byte of HBM4E outside the line of ERRCNT and the regions that the launches hold. -/
def Spared (s : State) (b : Nat) : Prop :=
  b < hbmSize ∧ b / 64 ≠ slotAddr errKey / 64 ∧
    ∀ l va pa k, heldAt (s.entry l) va = some (pa, k) → b / 64 ≠ pa / 64

/-- A line that holds no byte that is to stay. -/
def Exposed (s : State) (pa : Nat) : Prop := ∀ b, Spared s b → b / 64 ≠ pa / 64

theorem exposed_errKey : Exposed s (slotAddr errKey) := fun _ ⟨_, herr, _⟩ => herr

/-- What CONTAINED records of its cause, and the links as they stand (R39, R70). -/
def Cfg.record (c : Cfg) : BitVec 4 × BitVec 5 × SMap ZLink := (c.ccause, c.cindex, c.zlink)

/-- The part in CONTAINED as `s` entered it: every byte and tag that is to stay stands, the launches hold the same
frames, and the record of the cause is that of `s`. -/
structure Undisturbed (s t : State) : Prop where
  canon : t.canon
  entries : SMap.wf LEntry.reset t.entries = true
  pages : ∀ l, (t.entry l).pages = (s.entry l).pages
  cont : t.cfg.cont = true
  record : t.cfg.record = s.cfg.record
  lines : ∀ b, Spared s b → t.seen b = s.seen b ∧ (sideOf t b).tag = (sideOf s b).tag

theorem Undisturbed.refl (hs : s.canon) (he : SMap.wf LEntry.reset s.entries = true) (hc : s.cfg.cont = true) :
    Undisturbed s s :=
  ⟨hs, he, fun _ => rfl, hc, rfl, fun _ _ => ⟨rfl, rfl⟩⟩

theorem Undisturbed.of_eq (h : Undisturbed s t) (hm : u.mem = t.mem) (hd : u.side = t.side) (he : u.entries = t.entries)
    (hc : u.cfg.cont = t.cfg.cont) (hr : u.cfg.record = t.cfg.record) : Undisturbed s u where
  canon := h.canon.of_eq hm hd
  entries := he ▸ h.entries
  pages l := by rw [State.entry, he]; exact h.pages l
  cont := hc.trans h.cont
  record := hr.trans h.record
  lines b hb := by
    have hside : sideOf u b = sideOf t b := by rw [sideOf, sideOf, hd]
    rw [State.seen, State.byte, hside, hm]
    exact h.lines b hb

theorem Undisturbed.ite {c : Prop} [Decidable c] (ht : Undisturbed s t) (hu : Undisturbed s u) :
    Undisturbed s (if c then t else u) := by
  split
  · exact ht
  · exact hu

theorem Undisturbed.foldl {β : Type} {f : State → β → State} {l : List β} (h : Undisturbed s t)
    (hf : ∀ {u x}, Undisturbed s u → Undisturbed s (f u x)) : Undisturbed s (l.foldl f t) := by
  induction l generalizing t with
  | nil => exact h
  | cons x l ih => exact ih (hf h)

/-- A place that a launch holds may be written. -/
theorem Undisturbed.exposed {l va : Nat} (h : Undisturbed s t) (ha : heldAt (t.entry l) va = some (pa, k)) : Exposed s pa := by
  intro b ⟨_, _, hb⟩
  refine hb l va pa k ?_
  rwa [heldAt, ← h.pages l]

/-! ### Waiters and the error log -/

theorem Undisturbed.emit {m} (h : Undisturbed s t) : Undisturbed s (t.emit m) := h.of_eq rfl rfl rfl rfl rfl

theorem Undisturbed.later {is} (h : Undisturbed s t) : Undisturbed s (t.later is) := h.of_eq rfl rfl rfl rfl rfl

/-- An entry of the launch table may change, but for the frames that it holds. -/
theorem Undisturbed.setEntry {l e} (h : Undisturbed s t) (he : e.pages = (t.entry l).pages) :
    Undisturbed s (t.setEntry l e) where
  canon := h.canon.setEntry
  entries := SMap.wf_set h.entries
  pages j := by
    rw [← h.pages j, State.entry, State.setEntry, SMap.get_set h.entries]
    split
    · next hj => rw [he, hj]
    · rfl
  cont := h.cont
  record := h.record
  lines := h.lines

theorem Undisturbed.fireIrq {i} (h : Undisturbed s t) : Undisturbed s (fireIrq t i) := by
  rw [Machine.fireIrq, if_pos h.cont]
  exact h.of_eq rfl rfl rfl rfl rfl

theorem Undisturbed.condMet {l j} (h : Undisturbed s t) : Undisturbed s (condMet t l j) := .ite h (h.setEntry rfl)

theorem Undisturbed.wakeOne {w v} (h : Undisturbed s t) : Undisturbed s (wakeOne t w v) := by
  cases w with
  | stream => exact h.later
  | interrupt => exact h.fireIrq
  | start => exact h.condMet
  | peer => exact h.emit

theorem Undisturbed.wakeSatisfied {key base v} (h : Undisturbed s t) : Undisturbed s (wakeSatisfied t key base v) :=
  .foldl (h.of_eq rfl rfl rfl rfl rfl) (·.wakeOne)

theorem Undisturbed.putSlot {key v} (h : Undisturbed s t) : Undisturbed s (putSlot t key v) :=
  h.of_eq rfl rfl rfl rfl rfl

theorem Undisturbed.addSlot {key d} (h : Undisturbed s t) : Undisturbed s (addSlot t key d) :=
  h.putSlot.wakeSatisfied.of_eq rfl rfl rfl rfl rfl

theorem Undisturbed.putError {source cls code index addr detail} (h : Undisturbed s t) :
    Undisturbed s (putError t source cls code index addr detail) :=
  .ite (h.of_eq rfl rfl rfl rfl rfl) (.addSlot (h.of_eq rfl rfl rfl rfl rfl))

/-- A change of lines that are not to stay, all else of the machine as it was. -/
theorem Undisturbed.of_lines (h : Undisturbed s t) (hu : u.canon) (he : u.entries = t.entries) (hc : u.cfg = t.cfg)
    (hl : ∀ b, Spared s b → u.seen b = t.seen b ∧ (sideOf u b).tag = (sideOf t b).tag) : Undisturbed s u where
  canon := hu
  entries := he ▸ h.entries
  pages l := by rw [State.entry, he]; exact h.pages l
  cont := hc ▸ h.cont
  record := hc ▸ h.record
  lines b hb := by
    obtain ⟨hseen, htag⟩ := hl b hb
    rw [hseen, htag]
    exact h.lines b hb

theorem Undisturbed.putLine {d tag} (h : Undisturbed s t) (hx : Exposed s pa) : Undisturbed s (putLine t pa d tag) := by
  refine h.of_lines h.canon.putLine (putLine_entries _ _ _ _) (putLine_cfg _ _ _ _) fun b hb => ?_
  rw [seen_putLine h.canon, sideOf_putLine h.canon, if_neg (hx b hb), if_neg (hx b hb)]
  exact ⟨rfl, rfl⟩

theorem Undisturbed.freshCheck (h : Undisturbed s t) : Undisturbed s (freshCheck t pa k) :=
  h.of_lines h.canon.freshCheck (freshCheck_entries _ _ _) (freshCheck_cfg _ _ _) fun b _ =>
    ⟨seen_freshCheck h.canon pa k b, tag_freshCheck h.canon pa k b⟩

theorem Undisturbed.spoilSlots {key} (h : Undisturbed s t) : Undisturbed s (spoilSlots t key) :=
  h.of_eq rfl rfl rfl rfl rfl

theorem Undisturbed.errRead (h : Undisturbed s t) : Undisturbed s (errRead t) := by
  dsimp only [Machine.errRead]
  split
  · exact h
  · split
    · exact .ite h.spoilSlots h
    · exact .putError (.freshCheck (h.putLine exposed_errKey))
    · exact .putError (.spoilSlots (.freshCheck (h.putLine exposed_errKey)))

/-- An entry of the error log may correct the line of ERRCNT and no other (R61, R188). -/
theorem Undisturbed.logError {source cls code index addr detail} (h : Undisturbed s t) :
    Undisturbed s (logError t source cls code index addr detail) := h.errRead.putError

/-! ### Held regions -/

theorem Undisturbed.devicePoison (h : Undisturbed s t) : Undisturbed s (devicePoison t pa).2 := by
  dsimp only [Machine.devicePoison]
  split
  · exact h.of_eq rfl rfl rfl rfl rfl
  · exact h

theorem Undisturbed.homeFix {d tag} (h : Undisturbed s t) (hx : Exposed s pa) : Undisturbed s (homeFix t pa k d tag) :=
  .ite h (.freshCheck (h.putLine hx))

theorem Undisturbed.spoilLine (h : Undisturbed s t) (hx : Exposed s pa) : Undisturbed s (spoilLine t pa k).2 :=
  h.homeFix hx

theorem Undisturbed.storeRead (h : Undisturbed s t) (hx : Exposed s pa) : Undisturbed s (storeRead t pa k).2 := by
  dsimp only [Machine.storeRead]
  split
  · exact h.devicePoison.spoilLine hx
  · split
    · exact h.devicePoison
    · exact (h.devicePoison.homeFix hx).logError
    · exact (h.devicePoison.spoilLine hx).logError

theorem Undisturbed.homeRead (h : Undisturbed s t) (hx : Exposed s pa) : Undisturbed s (homeRead t pa k).2 := by
  dsimp only [Machine.homeRead]
  split
  · exact h
  · exact h.storeRead hx

theorem Undisturbed.sendPeer {node key req} (h : Undisturbed s t) : Undisturbed s (sendPeer t node key req) :=
  .ite h h.emit

theorem Undisturbed.peerRead {node} (h : Undisturbed s t) : Undisturbed s (peerRead t node pa).2 := by
  dsimp only [Machine.peerRead]
  split
  · exact h
  · exact .sendPeer (h.of_eq rfl rfl rfl rfl rfl)

theorem Undisturbed.heldRead (h : Undisturbed s t) (hx : Exposed s pa) : Undisturbed s (heldRead t pa k).2 := by
  dsimp only [Machine.heldRead]
  split
  · exact h
  · exact h.peerRead
  · exact h.homeRead hx

/-- No port of a host issues a write in CONTAINED (R43). -/
theorem hostWrite_contained {d vc} (hc : s.cfg.cont = true) : hostWrite s pa d vc = s := by rw [hostWrite, if_pos hc]

theorem Undisturbed.own {w noL1} (h : Undisturbed s t) : Undisturbed s (own t pa k w noL1) :=
  h.of_eq rfl rfl rfl rfl rfl

theorem Undisturbed.lineWrite {w noL1 d tag} (h : Undisturbed s t) (hx : Exposed s pa) :
    Undisturbed s (lineWrite t pa k w noL1 d tag) :=
  .ite h (.freshCheck (.own (h.putLine hx)))

theorem Undisturbed.writeLine {w noL1 d tag} (h : Undisturbed s t) (hx : Exposed s pa) :
    Undisturbed s (writeLine t pa k w noL1 d tag) := by
  unfold Machine.writeLine
  split
  · rw [hostWrite_contained h.cont]
    exact h
  · exact .ite h.sendPeer h
  · exact h
  · exact h
  · exact h.lineWrite hx

theorem Undisturbed.heldWrite {mask d} (h : Undisturbed s t) (hx : Exposed s pa) :
    Undisturbed s (heldWrite t pa k mask d) := by
  unfold Machine.heldWrite writeBits
  split
  · exact .ite h (.ite h.sendPeer h.sendPeer)
  · exact h.writeLine hx

theorem Undisturbed.heldPut {l va n v} (h : Undisturbed s t) : Undisturbed s (heldPut t l va n v) := by
  dsimp only [Machine.heldPut]
  split
  · exact h
  · next ha =>
    have hx := h.exposed ha
    split
    all_goals
      split
      · exact h.heldWrite hx
      · exact (h.heldRead hx).heldWrite hx

theorem Undisturbed.heldPutLines {l n va v} (h : Undisturbed s t) : Undisturbed s (heldPutLines l n t va v) := by
  induction n generalizing t va v with
  | zero => exact h
  | succ n ih =>
    dsimp only [Machine.heldPutLines]
    split
    · exact h
    · next ha => exact ih (h.heldWrite (h.exposed ha))

theorem Undisturbed.areaPuts {l base ps} (h : Undisturbed s t) : Undisturbed s (areaPuts l base ps t) := by
  induction ps generalizing t with
  | nil => exact h
  | cons p ps ih =>
    dsimp only [Machine.areaPuts]
    exact ih (.ite h.heldPutLines h.heldPut)

theorem Undisturbed.putScalarQ {l base off q} (h : Undisturbed s t) : Undisturbed s (putScalarQ l base off q t) :=
  h.foldl (·.heldPut)

theorem Undisturbed.putSfrq {l base g} (h : Undisturbed s t) : Undisturbed s (putSfrq l base g t) := h.areaPuts

/-- The image of a context is written to the regions that its launch holds (R268). -/
theorem Undisturbed.putImage {l base g kind snap} (h : Undisturbed s t) : Undisturbed s (putImage t l base g kind snap) :=
  .ite h.areaPuts.putScalarQ.putScalarQ h.areaPuts.putScalarQ.putScalarQ.putSfrq

theorem Undisturbed.putHeader {l hold} (h : Undisturbed s t) : Undisturbed s (putHeader t l hold) := h.heldPutLines

/-! ### Harts -/

theorem Undisturbed.focus {id} (h : Undisturbed s t) : Undisturbed s (t.focus id) := by
  unfold State.focus
  split
  · exact h
  · split
    · exact h
    · exact h.of_eq rfl rfl rfl rfl rfl

theorem Undisturbed.dropWaiter {who} (h : Undisturbed s t) : Undisturbed s (dropWaiter t who) :=
  h.of_eq (by simp) (by simp) (by simp) (by simp) (by simp)

theorem Undisturbed.updGovs {f} (h : Undisturbed s t) : Undisturbed s (updGovs t f) := h.of_eq rfl rfl rfl rfl rfl

theorem Undisturbed.withdrawCmd {id} (h : Undisturbed s t) : Undisturbed s (withdrawCmd t id) := by
  unfold Machine.withdrawCmd
  extract_lets mine theirs t1
  exact .of_eq (t := t1) h.updGovs rfl rfl rfl rfl rfl

theorem Undisturbed.dropLeaves {id} (h : Undisturbed s t) : Undisturbed s (dropLeaves t id) := h.withdrawCmd.updGovs

end Sys2Proof.Machine
end

section
/-! Links, and entering CONTAINED (R27, R36 to R43, R70, R71): what the freeze makes of each hart, what is recorded and sent,
that nothing goes on from then, then the settlement of O55. -/

namespace Sys2Proof.Machine

variable {s t u : State} {pa k : Nat} {id : HartId} {h : Hart}

/-! ### Writes to held regions reach no unit -/

@[simp] theorem heldRead_units (pa k) : (heldRead s pa k).2.units = s.units := by
  unfold heldRead
  split <;> simp

@[simp] theorem heldWrite_units (pa k mask data) : (heldWrite s pa k mask data).units = s.units := by
  unfold heldWrite writeBits
  split
  · split
    · rfl
    · split <;> simp
  · simp

@[simp] theorem heldPut_units (l va n v) : (heldPut s l va n v).units = s.units := by
  dsimp only [heldPut]
  split
  · rfl
  · split
    all_goals
      split
      · exact heldWrite_units _ _ _ _
      · exact (heldWrite_units _ _ _ _).trans (heldRead_units _ _)

@[simp] theorem heldPutLines_units (l n va v) : (heldPutLines l n s va v).units = s.units := by
  induction n generalizing s va v with
  | zero => rfl
  | succ n ih =>
    dsimp only [heldPutLines]
    split
    · rfl
    · exact (ih _ _).trans (heldWrite_units _ _ _ _)

@[simp] theorem areaPuts_units (l base ps) : (areaPuts l base ps s).units = s.units := by
  induction ps generalizing s with
  | nil => rfl
  | cons p ps ih =>
    dsimp only [areaPuts]
    refine ih.trans ?_
    split
    · exact heldPutLines_units _ _ _ _
    · exact heldPut_units _ _ _ _

@[simp] theorem putScalarQ_units (l base off q) : (putScalarQ l base off q s).units = s.units :=
  State.units_foldl (fun _ _ => heldPut_units _ _ _ _) _

@[simp] theorem putSfrq_units (l base g) : (putSfrq l base g s).units = s.units := areaPuts_units _ _ _

/-- The image of a context goes to memory alone. -/
@[simp] theorem putImage_units (l base g kind snap) : (putImage s l base g kind snap).units = s.units := by
  dsimp only [putImage]
  split <;> simp

@[simp] theorem putHeaders_units : (putHeaders s).units = s.units :=
  State.units_foldl (fun _ _ => heldPutLines_units _ _ _ _) _

theorem State.units_harts (e : t.units = s.units) : t.harts = s.harts := by
  have hh : t.h = s.h := congrArg (·.2.1) e
  have hrest : t.rest = s.rest := congrArg (·.2.2.1) e
  rw [State.harts, hh, hrest, State.harts]

/-! ### A hart that is frozen -/

/-- A hart as a freeze leaves it: its admitted instructions ended, both streams stopped (R71, R257). -/
def Hart.contained (h : Hart) : Hart :=
  countedOut { haltX h with a := stopStream (haltX h).a, x := stopStream (haltX h).x, mkLV := false }

theorem stopStream_stopped (t : Stream) : (stopStream t).st = .stopped := by
  unfold stopStream
  split
  · assumption
  · rfl

theorem foldl_keeps {β γ : Type} {f : Hart → β → Hart} {g : Hart → γ} (hf : ∀ h x, g (f h x) = g h) (l : List β) (h : Hart) :
    g (l.foldl f h) = g h := by
  induction l generalizing h with
  | nil => rfl
  | cons x l ih => exact (ih _).trans (hf h x)

theorem onQueue_id (h : Hart) (q f g) : (h.onQueue q f g).id = h.id := by
  unfold Hart.onQueue
  split
  · rfl
  · split <;> rfl

theorem commitEntry_id (e : XEntry) (h : Hart) : (commitEntry e h).id = h.id :=
  (foldl_keeps (g := Hart.id) (fun _ _ => onQueue_id _ _ _ _) _ _).trans
    (foldl_keeps (g := Hart.id) (fun _ _ => onQueue_id _ _ _ _) _ _)

theorem cancelEntry_id (e : XEntry) (h : Hart) : (cancelEntry e h).id = h.id :=
  (foldl_keeps (g := Hart.id) (fun _ _ => onQueue_id _ _ _ _) _ _).trans
    (foldl_keeps (g := Hart.id) (fun _ _ => onQueue_id _ _ _ _) _ _)

theorem retireAll_id (h : Hart) : (retireAll h).id = h.id := foldl_keeps (fun _ _ => commitEntry_id _ _) _ _

theorem undoX_id (h : Hart) : (undoX h).id = h.id := by
  dsimp only [undoX]
  split
  · rfl
  · exact foldl_keeps (g := Hart.id) (fun _ _ => cancelEntry_id _ _) _ _

theorem unblockX_id (h : Hart) : (unblockX h).id = h.id := by
  unfold unblockX
  split
  · rfl
  · split
    · split <;> rfl
    · rfl

theorem haltX_id (h : Hart) : (haltX h).id = h.id :=
  (retireAll_id _).trans ((undoX_id _).trans (unblockX_id h))

/-- A cycle counted moves neither stream. -/
theorem countCycle_streams (h : Hart) :
    ((countCycle h).id, (countCycle h).a, (countCycle h).x) = (h.id, h.a, h.x) := by
  dsimp only [countCycle]
  split
  · rfl
  · split <;> rfl

theorem countedOut_id (h : Hart) : (countedOut h).id = h.id :=
  foldl_keeps (g := Hart.id) (fun h _ => congrArg (·.1) (countCycle_streams h)) _ h

theorem countedOut_a (h : Hart) : (countedOut h).a = h.a :=
  foldl_keeps (g := Hart.a) (fun h _ => congrArg (·.2.1) (countCycle_streams h)) _ h

theorem countedOut_x (h : Hart) : (countedOut h).x = h.x :=
  foldl_keeps (g := Hart.x) (fun h _ => congrArg (·.2.2) (countCycle_streams h)) _ h

@[simp] theorem contained_id (h : Hart) : h.contained.id = h.id := by
  rw [Hart.contained, countedOut_id]
  exact haltX_id h

theorem contained_stopped (h : Hart) : h.contained.a.st = .stopped ∧ h.contained.x.st = .stopped := by
  rw [Hart.contained, countedOut_a, countedOut_x]
  exact ⟨stopStream_stopped _, stopStream_stopped _⟩

/-! ### The hart of a slot acts -/

theorem splitHart_some {pre l p q : List Hart} (e : splitHart id pre l = some (p, h, q)) :
    pre ++ l = p ++ h :: q ∧ h.id = id := by
  induction l generalizing pre with
  | nil => cases e
  | cons g l ih =>
    rw [splitHart] at e
    split at e
    · next hg =>
      cases e
      exact ⟨rfl, hg⟩
    · obtain ⟨happ, hid⟩ := ih e
      exact ⟨by simpa using happ, hid⟩

theorem splitHart_none {pre l : List Hart} (e : splitHart id pre l = none) : ∀ h ∈ l, h.id ≠ id := by
  induction l generalizing pre with
  | nil => simp
  | cons g l ih =>
    rw [splitHart] at e
    split at e
    · cases e
    · next hg => exact List.forall_mem_cons.mpr ⟨hg, ih e⟩

/-- Letting a hart act keeps the harts. -/
theorem focus_harts_perm (s : State) (id : HartId) : (s.focus id).harts.Perm s.harts := by
  unfold State.focus
  split
  · exact .refl _
  · split
    · exact .refl _
    · next p h q e =>
      obtain ⟨happ, -⟩ := splitHart_some e
      rw [State.harts, State.harts, show s.rest = p ++ h :: q from happ]
      exact List.perm_append_comm (l₁ := h :: q) (l₂ := s.h :: p)

/-- The hart of a slot that holds one acts. -/
theorem focus_h_id (hid : id ∈ s.harts.map fun h => h.id) : (s.focus id).h.id = id := by
  unfold State.focus
  split
  · assumption
  · next hne =>
    split
    · next e =>
      obtain ⟨h, hmem, hh⟩ := List.mem_map.mp hid
      rcases List.mem_cons.mp hmem with rfl | hrest
      · exact absurd hh hne
      · exact absurd hh (splitHart_none e h hrest)
    · next e => exact (splitHart_some e).2

/-! ### Freezing -/

/-- The part as a freeze leaves it before the image of the acting hart's context is written. -/
def halted (u : State) : State :=
  dropWaiter (dropLeaves { u with h := u.h.contained } u.h.contained.id) (.stream u.h.contained.id)

/-- A hart with nothing in flight is frozen where it stands, and its image written where it has a launch (R71, R268). -/
theorem containHart_quiet (hl : (s.focus id).h.loads = []) (hst : (s.focus id).h.stores = []) :
    containHart id s = halted (s.focus id) ∨
      ∃ l base g, containHart id s = putImage (halted (s.focus id)) l base g 5 false := by
  have hload : settleLoads (s.focus id) true = (none, s.focus id) := by rw [settleLoads, hl]; rfl
  have hstore : settleStores (s.focus id) = s.focus id := by rw [settleStores, hst]; rfl
  simp only [containHart, hload, hstore]
  split
  · exact .inl rfl
  · split
    · exact .inr ⟨_, _, _, rfl⟩
    · exact .inl rfl

@[simp] theorem updGovs_harts (s : State) (f : Gov → Gov) : (updGovs s f).harts = s.harts := rfl

@[simp] theorem withdrawCmd_harts (s : State) (id : HartId) : (withdrawCmd s id).harts = s.harts := rfl

@[simp] theorem dropLeaves_harts (s : State) (id : HartId) : (dropLeaves s id).harts = s.harts :=
  (updGovs_harts _ _).trans (withdrawCmd_harts s id)

@[simp] theorem dropWaiter_harts (s : State) (who : WaiterId) : (dropWaiter s who).harts = s.harts := by
  rw [State.harts, dropWaiter_h, dropWaiter_rest, State.harts]

theorem halted_harts (u : State) : (halted u).harts = u.h.contained :: u.rest := by
  rw [halted, dropWaiter_harts, dropLeaves_harts, State.harts]

/-- The harts that are to be frozen are there, each in one slot, with nothing in flight. -/
structure Quiet (s : State) (ids : List HartId) : Prop where
  slots : (s.harts.map fun h => h.id).Nodup
  once : ids.Nodup
  here : ∀ i ∈ ids, i ∈ s.harts.map fun h => h.id
  idle : ∀ h ∈ s.harts, h.id ∈ ids → h.loads = [] ∧ h.stores = []

/-- The hart with one of some slots is frozen. -/
def frozenIn (ids : List HartId) (h : Hart) : Hart := if h.id ∈ ids then h.contained else h

@[simp] theorem frozenIn_id (ids : List HartId) (h : Hart) : (frozenIn ids h).id = h.id := by
  unfold frozenIn
  split
  · exact contained_id h
  · rfl

theorem Quiet.focus_idle {ids : List HartId} (q : Quiet s (id :: ids)) :
    (s.focus id).h.id = id ∧ (s.focus id).h.loads = [] ∧ (s.focus id).h.stores = [] := by
  have hid : (s.focus id).h.id = id := focus_h_id (q.here id List.mem_cons_self)
  have hmem : (s.focus id).h ∈ s.harts := (focus_harts_perm s id).subset List.mem_cons_self
  exact ⟨hid, q.idle _ hmem (by rw [hid]; exact List.mem_cons_self)⟩

/-- Freezing one hart leaves every other as it was. -/
theorem Quiet.containHart_harts {ids : List HartId} (q : Quiet s (id :: ids)) :
    (containHart id s).harts.Perm (s.harts.map (frozenIn [id])) := by
  obtain ⟨hid, hl, hst⟩ := q.focus_idle
  have hharts : (containHart id s).harts = (s.focus id).h.contained :: (s.focus id).rest := by
    rcases containHart_quiet hl hst with e | ⟨l, base, g, e⟩
    · rw [e, halted_harts]
    · rw [e, State.units_harts (putImage_units l base g 5 false), halted_harts]
  have hperm := focus_harts_perm s id
  have hnodup : ((s.focus id).harts.map fun h => h.id).Nodup := ((hperm.map _).nodup_iff).mpr q.slots
  have hrest : ∀ h ∈ (s.focus id).rest, frozenIn [id] h = h := by
    intro h hh
    have hne : h.id ≠ id := by
      intro e
      refine (List.nodup_cons.mp hnodup).1 ?_
      rw [show (fun h : Hart => h.id) (s.focus id).h = h.id from hid.trans e.symm]
      exact List.mem_map_of_mem hh
    simp [frozenIn, hne]
  have hmap : (s.focus id).harts.map (frozenIn [id]) = (s.focus id).h.contained :: (s.focus id).rest := by
    rw [State.harts, List.map_cons, List.map_congr_left hrest, List.map_id']
    simp [frozenIn, hid]
  rw [hharts, ← hmap]
  exact hperm.map _

theorem Quiet.next {ids : List HartId} (q : Quiet s (id :: ids)) : Quiet (containHart id s) ids := by
  have hperm := q.containHart_harts
  have hids : ((containHart id s).harts.map fun h => h.id).Perm (s.harts.map fun h => h.id) := by
    simpa [Function.comp_def] using hperm.map fun h => h.id
  obtain ⟨hnot, honce⟩ := List.nodup_cons.mp q.once
  refine ⟨hids.nodup_iff.mpr q.slots, honce, fun i hi => hids.mem_iff.mpr (q.here i (.tail _ hi)), fun h hh hi => ?_⟩
  obtain ⟨g, hg, rfl⟩ := List.mem_map.mp (hperm.subset hh)
  rw [frozenIn_id] at hi
  have hne : g.id ≠ id := fun e => hnot (e ▸ hi)
  rw [show frozenIn [id] g = g by simp [frozenIn, hne]]
  exact q.idle g hg (.tail _ hi)

/-- Freezing the harts of some slots, one after another, freezes those and no other. -/
theorem Quiet.freeze_harts {ids : List HartId} (q : Quiet s ids) :
    (ids.foldl (fun s id => containHart id s) s).harts.Perm (s.harts.map (frozenIn ids)) := by
  induction ids generalizing s with
  | nil =>
    rw [show frozenIn [] = id from funext fun h => if_neg List.not_mem_nil, List.map_id]
    exact .refl _
  | cons id ids ih =>
    rw [List.foldl_cons]
    refine (ih q.next).trans ?_
    have hstep := q.containHart_harts.map (frozenIn ids)
    have hcomp : ∀ h, frozenIn ids (frozenIn [id] h) = frozenIn (id :: ids) h := by
      intro h
      by_cases hid : h.id = id
      · have hnot : id ∉ ids := (List.nodup_cons.mp q.once).1
        simp [frozenIn, hid, hnot]
      · simp [frozenIn, hid]
    rwa [List.map_map, show frozenIn ids ∘ frozenIn [id] = frozenIn (id :: ids) from funext hcomp] at hstep

theorem Undisturbed.halted (hu : Undisturbed s u) : Undisturbed s (halted u) :=
  .dropWaiter (.dropLeaves (hu.of_eq rfl rfl rfl rfl rfl))

theorem Undisturbed.freeze {ids : List HartId} (hu : Undisturbed s u) (q : Quiet u ids) :
    Undisturbed s (ids.foldl (fun s id => containHart id s) u) := by
  induction ids generalizing u with
  | nil => exact hu
  | cons id ids ih =>
    rw [List.foldl_cons]
    refine ih ?_ q.next
    obtain ⟨-, hl, hst⟩ := q.focus_idle
    rcases containHart_quiet hl hst with e | ⟨l, base, g, e⟩
    · exact e ▸ hu.focus.halted
    · exact e ▸ hu.focus.halted.putImage

end Sys2Proof.Machine
end

section
/-! Entering CONTAINED and what goes on in it (R42, R43, R70, R71), and the trains and flits of links (R27, R36 to R41), then
the settlement of O55. -/

namespace Sys2Proof.Machine

variable {s t : State} {cause index link : Nat}

/-! ### Entering CONTAINED -/

/-- Messages sent one after another stand newest first; nothing else changes. -/
theorem foldl_emit {β : Type} (f : β → OutMsg) (l : List β) (s : State) :
    l.foldl (fun s x => s.emit (f x)) s = { s with out := (l.map f).reverse ++ s.out } := by
  induction l generalizing s with
  | nil => rfl
  | cons x l ih =>
    rw [List.foldl_cons, ih]
    simp [State.emit]

/-- The part with a cause of CONTAINED recorded (R70). -/
def noted (s : State) (cause index : Nat) : State :=
  { s with cfg := { s.cfg with cont := true, ccause := BitVec.ofNat 4 cause, cindex := BitVec.ofNat 5 index } }

/-- The part as the freeze of CONTAINED leaves it, with the entry of the error log made (R70, R71). -/
def frozen (s : State) (cause index : Nat) : State :=
  freezeAll (logError (noted s cause index) (if cause = 6 then index else 8) 3 cause index 0 0)

/-- Viral on both host ports, and a containment message on every link that is up (R42, R43). -/
def announced (s : State) : State :=
  { s with out := ((linksUp s).map .containment).reverse ++ (.viral .b :: .viral .a :: s.out) }

theorem foldl_containment (s : State) :
    (linksUp s).foldl (fun s l => s.emit (.containment l)) ((s.emit (.viral .a)).emit (.viral .b)) = announced s :=
  foldl_emit _ _ _

/-- Entering CONTAINED freezes the part, then sends what R43 asks for. -/
theorem enterContained_first (hc : s.cfg.cont = false) :
    enterContained s cause index = announced (frozen s cause index) := by
  have hne : ¬ s.cfg.cont = true := by simp [hc]
  rw [enterContained, if_neg hne]
  exact foldl_containment (frozen s cause index)

/-- A later cause counts in MORE, up to its limit, and does nothing else (R70). -/
theorem enterContained_again (hc : s.cfg.cont = true) :
    ∃ m, enterContained s cause index = { s with cfg := { s.cfg with more := m } } ∧
      m.toNat = Nat.min 65535 (s.cfg.more.toNat + 1) := by
  refine ⟨_, if_pos hc, ?_⟩
  have hlt := s.cfg.more.isLt
  split
  · next e => simp [e]
  · next e =>
    have hne : s.cfg.more.toNat ≠ 65535 := fun h => e (BitVec.eq_of_toNat_eq h)
    rw [BitVec.toNat_add, show BitVec.toNat (1 : BitVec 16) = 1 from rfl, Nat.mod_eq_of_lt (by omega)]
    exact (Nat.min_eq_right (by omega)).symm

/-- The slots that CONTAINED freezes: those of every hart but the ROM monitor's (R71). -/
def frozenSlots (s : State) : List HartId := (s.harts.map fun h => h.id).filter fun i => i != romMonitor

/-- The state in which the freeze begins has the harts as they were. -/
theorem logError_noted_harts (source : Nat) :
    (logError (noted s cause index) source 3 cause index 0 0).harts = s.harts :=
  State.units_harts (logError_units ..)

theorem quiet_frozenSlots (hn : (s.harts.map fun h => h.id).Nodup) (hq : ∀ h ∈ s.harts, h.loads = [] ∧ h.stores = []) :
    Quiet s (frozenSlots s) :=
  ⟨hn, hn.filter _, fun _ hi => (List.mem_filter.mp hi).1, fun h hh _ => hq h hh⟩

/-- Every hart but the ROM monitor's is frozen (R71). -/
theorem freezeAll_harts (q : Quiet s (frozenSlots s)) :
    (freezeAll s).harts.Perm (s.harts.map (frozenIn (frozenSlots s))) := by
  rw [freezeAll, State.units_harts putHeaders_units]
  exact q.freeze_harts

theorem Undisturbed.freezeAll (h : Undisturbed s t) (q : Quiet t (frozenSlots t)) : Undisturbed s (freezeAll t) :=
  (h.freeze q).foldl (·.putHeader)

theorem undisturbed_frozen (hs : s.canon) (he : SMap.wf LEntry.reset s.entries = true)
    (hn : (s.harts.map fun h => h.id).Nodup) (hq : ∀ h ∈ s.harts, h.loads = [] ∧ h.stores = []) :
    Undisturbed (noted s cause index) (frozen s cause index) := by
  have hnoted : Undisturbed (noted s cause index) (noted s cause index) := .refl (hs.of_eq rfl rfl) he rfl
  refine hnoted.logError.freezeAll (quiet_frozenSlots ?_ ?_)
  · rwa [logError_noted_harts]
  · rwa [logError_noted_harts]

theorem frozen_harts (hn : (s.harts.map fun h => h.id).Nodup) (hq : ∀ h ∈ s.harts, h.loads = [] ∧ h.stores = []) :
    (frozen s cause index).harts.Perm (s.harts.map (frozenIn (frozenSlots s))) := by
  have hharts := logError_noted_harts (s := s) (cause := cause) (index := index) (if cause = 6 then index else 8)
  have hperm := freezeAll_harts (quiet_frozenSlots
    (s := logError (noted s cause index) (if cause = 6 then index else 8) 3 cause index 0 0)
    (by rwa [hharts]) (by rwa [hharts]))
  rwa [frozenSlots, hharts] at hperm

/-- A frozen hart is stopped, and the ROM monitor's goes on as it was (R71). -/
theorem frozen_stops (hn : (s.harts.map fun h => h.id).Nodup) (hq : ∀ h ∈ s.harts, h.loads = [] ∧ h.stores = []) :
    (∀ h ∈ (frozen s cause index).harts, h.id ≠ romMonitor → h.a.st = .stopped ∧ h.x.st = .stopped) ∧
      ∀ h ∈ s.harts, h.id = romMonitor → h ∈ (frozen s cause index).harts := by
  have hperm := frozen_harts (cause := cause) (index := index) hn hq
  refine ⟨fun h hh hne => ?_, fun h hh hrom => ?_⟩
  · obtain ⟨g, hg, rfl⟩ := List.mem_map.mp (hperm.subset hh)
    rw [frozenIn_id] at hne
    have hin : g.id ∈ frozenSlots s := List.mem_filter.mpr ⟨List.mem_map_of_mem hg, by simpa using hne⟩
    rw [frozenIn, if_pos hin]
    exact contained_stopped g
  · have hout : h.id ∉ frozenSlots s := by simp [frozenSlots, hrom]
    have hkeep : frozenIn (frozenSlots s) h = h := if_neg hout
    exact hperm.symm.subset (List.mem_map.mpr ⟨h, hh, hkeep⟩)

theorem Undisturbed.causes (h : Undisturbed s t) : t.cfg.ccause = s.cfg.ccause ∧ t.cfg.cindex = s.cfg.cindex :=
  ⟨congrArg (·.1) h.record, congrArg (·.2.1) h.record⟩

theorem linksUp_of_record (h : t.cfg.record = s.cfg.record) : linksUp t = linksUp s := by
  have hz : t.cfg.zlink = s.cfg.zlink := congrArg (·.2.2) h
  rw [linksUp, linksUp, hz]

/-! ### In CONTAINED -/

/-- In CONTAINED, with nothing of a host waiting, the one move open is the clock's or the lease's (R24, R71). -/
theorem choices_contained (hc : s.cfg.cont = true) (hst : s.stalledIn = []) :
    choices s = [] ∨ choices s = [.clock] ∨ choices s = [.lease] := by
  have hopen : openActs s = [] := by simp [openActs, ifso, readyAccess, hst, hc]
  have hdue : dueActs s = [.clock] ∨ dueActs s = ifso (leaseOver s) .lease := by
    simp only [dueActs, hc, Bool.true_or, if_true, Bool.true_and]
    split
    · exact .inl rfl
    · exact .inr rfl
  unfold choices ifso at *
  rcases hdue with e | e
  · simp [e]
  · cases hl : leaseOver s <;> simp [e, hl, hopen]

theorem recordCycle_contained (hc : s.cfg.cont = true) (n : Nat) : recordCycle s n = s := by
  simp [recordCycle, hc]

/-- A cycle in CONTAINED counts nothing but itself (R71, R313). -/
theorem tick_contained (hc : s.cfg.cont = true) : tick s = { s with cycle := s.cycle + 1 } := by
  have hrec : ∀ l : List Nat, l.foldl recordCycle s = s := by
    intro l
    induction l with
    | nil => rfl
    | cons n l ih => rw [List.foldl_cons, recordCycle_contained hc, ih]
  simp [tick, hrec, hc]

/-- The clock's work in CONTAINED is that of the governors alone (R24, R71). -/
theorem clockWork_contained (hc : s.cfg.cont = true) : ∃ g, clockWork s = { s with gov := g } := by
  have hcont : clockWork s = if s.cycle % 256 = 0 then updGovs s (newDuties s.cfg.pwrcap.toNat) else s := by
    unfold clockWork
    exact if_pos hc
  rw [hcont]
  split
  · exact ⟨_, rfl⟩
  · exact ⟨s.gov, rfl⟩

/-- The expiry of a lease changes registers of CFGWIN and sends vectors (R52, R60). -/
theorem settleLease_frame (s : State) :
    ∃ c o, settleLease s = { s with cfg := c, out := o } ∧ c.cont = s.cfg.cont := by
  unfold settleLease expireLease
  split
  · split
    · exact ⟨s.cfg, s.out, rfl, rfl⟩
    · split
      · unfold becomeActive
        exact ⟨_, _, foldl_emit _ _ _, rfl⟩
      · exact ⟨_, s.out, rfl, rfl⟩
  · exact ⟨s.cfg, s.out, rfl, rfl⟩

/-- With no event, read of CFGWIN or waiting access due, a step in CONTAINED is a cycle, the governors' work or the expiry
of a lease (R71). -/
theorem step_contained (hc : s.cfg.cont = true) (ha : s.agenda = []) (hr : s.hostReads = []) (hst : s.stalledIn = []) :
    ∃ g c o, step s = .next { s with cycle := s.cycle + 1, gov := g, cfg := c, out := o } ∧ c.cont = true := by
  have hstep : step s = turn s := by simp [step, ha, hr, nextEvent]
  rw [hstep, turn]
  rcases choices_contained hc hst with e | e | e
  · exact ⟨s.gov, s.cfg, s.out, by simp [e, tick_contained hc], hc⟩
  · obtain ⟨g, hg⟩ := clockWork_contained hc
    refine ⟨g, s.cfg, s.out, ?_, hc⟩
    have htick := tick_contained (s := { s with gov := g }) hc
    simp [e, Act.run, mapOut, hg, htick]
  · obtain ⟨c, o, hl, hcont⟩ := settleLease_frame s
    refine ⟨s.gov, c, o, ?_, hcont.trans hc⟩
    have htick := tick_contained (s := { s with cfg := c, out := o }) (hcont.trans hc)
    simp [e, Act.run, execLeaseExpiry, mapOut, hl, htick]

/-! ### Links (R27, R36 to R41) -/

/-- A link that trains is up at the width and to the peer given; memory stays (R39). -/
theorem trained_link {width peer port : Nat} (hwf : SMap.wf ZLink.reset s.cfg.zlink = true) (hw : width ≤ 8)
    (hp : peer < 0xFFF) (hport : port < 18) :
    let t := updLink s link fun z => { z with
      up := true, width := BitVec.ofNat 4 width, peer := BitVec.ofNat 12 peer, peerPort := BitVec.ofNat 5 port, fails := 0 }
    let z := SMap.get ZLink.reset t.cfg.zlink link
    z.up = true ∧ z.width.toNat = width ∧ z.peer.toNat = peer ∧ z.peerPort.toNat = port := by
  intro t z
  have hz : z = { SMap.get ZLink.reset s.cfg.zlink link with
      up := true, width := BitVec.ofNat 4 width, peer := BitVec.ofNat 12 peer, peerPort := BitVec.ofNat 5 port, fails := 0 } :=
    (SMap.get_set hwf link).trans (if_pos rfl)
  rw [hz]
  refine ⟨rfl, ?_, ?_, ?_⟩
  all_goals
    rw [BitVec.toNat_ofNat]
    omega

/-- A peer that has sent a containment message is unreachable, as those before it are (R41). -/
theorem markUnreachable_unreach (s : State) (node : Nat) :
    node ∈ (markUnreachable s node).cfg.unreach ∧ ∀ n ∈ s.cfg.unreach, n ∈ (markUnreachable s node).cfg.unreach := by
  unfold markUnreachable
  split
  · next h => exact ⟨by simpa using h, fun _ hn => hn⟩
  · exact ⟨List.mem_append_right _ List.mem_cons_self, fun _ hn => List.mem_append_left _ hn⟩

theorem markUnreachable_frame (s : State) (node : Nat) :
    (markUnreachable s node).mem = s.mem ∧ (markUnreachable s node).h = s.h := by
  unfold markUnreachable
  split <;> exact ⟨rfl, rfl⟩

/-- What a flit does on a link that is up, its credits kept (R38). -/
theorem execFlitReceive_up {f : FlitIn} (hup : (SMap.get ZLink.reset s.cfg.zlink link).up = true)
    (ho : f.creditOverflow = false) :
    execFlitReceive link f s =
      if f.crcOk = true then takeMsgs link f.msgs (updLink s link fun z => { z with fails := 0 })
      else if 8 ≤ (SMap.get ZLink.reset s.cfg.zlink link).fails + 1 then .next (fatalLink s link)
      else .next ((updLink s link fun z => { z with
        fails := z.fails + 1, replays := if z.replays = 65535#16 then z.replays else z.replays + 1 }).emit (.replay link)) := by
  cases hcrc : f.crcOk <;> simp [execFlitReceive, hup, ho, hcrc]

end Sys2Proof.Machine

open Sys2Proof Sys2Proof.Machine

/-- Settles O55: the events of links are `updLink` and `takeMsgs`; entering CONTAINED is the freeze of every hart with the
writes to held regions that it makes, then the messages; and a step in CONTAINED is one of three moves. -/
theorem linksAndContainment : Obligations.LinksAndContainment := by
  unfold Obligations.LinksAndContainment
  refine ⟨?links, ?containment⟩
  case links =>
    intro s host lanes rate link width peer port node cxl f p z fatal
    refine ⟨?port, ?train, ?lock, ?bad, ?good, fun _ => rfl, ?messages, ?peer⟩
    case port =>
      intro hdown hl hr
      have hgood : ((lanes == 16 || lanes == 8 || lanes == 4) && (rate == 64 || rate == 32 || rate == 16)) = true := by
        simp only [List.mem_cons, List.not_mem_nil, or_false] at hl hr
        rcases hl with rfl | rfl | rfl <;> rcases hr with rfl | rfl | rfl <;> rfl
      rw [show exec (.hostPortTrain host lanes rate cxl) s = execHostPortTrain host lanes rate cxl s from rfl,
        execHostPortTrain, hgood]
      simp [show (SMap.get HostPort.reset s.cfg.port (portOf host)).up = false from hdown]
    case train =>
      intro hlink hw1 hw hport hpeer hwf
      obtain ⟨hup, hwidth, hpeer', hport'⟩ := trained_link (link := link) hwf hw hpeer hport
      refine ⟨_, rfl, ?_⟩
      rw [if_pos ⟨hlink, hw1, hw, hport, hpeer⟩]
      exact ⟨hup, hwidth, hpeer', hport', rfl⟩
    case lock =>
      intro hup
      exact congrArg Host.Outcome.next (if_pos hup)
    case bad =>
      intro hup ho hcrc
      have hexec : exec (.flitReceive link f) s = _ := execFlitReceive_up hup ho
      rw [hcrc, if_neg Bool.false_ne_true] at hexec
      refine ⟨fun h7 => ?_, fun h7 => ?_⟩
      · rw [if_pos (Nat.succ_le_succ h7)] at hexec
        exact hexec
      · rw [if_neg (Nat.not_le.mpr (Nat.succ_lt_succ h7))] at hexec
        exact ⟨_, hexec, rfl, rfl⟩
    case good =>
      intro hup ho hcrc
      exact (execFlitReceive_up hup ho).trans (if_pos hcrc)
    case messages =>
      intro t u ms n k v req
      refine ⟨fun e => ?_, fun e => ?_, fun e => ?_, fun hc => ?_, rfl⟩
      · have e : execPeerRequest n req t = .next u := e
        simp [takeMsgs, e]
      · cases e
        rfl
      · cases e
        rfl
      · simp [takeMsgs, hc]
    case peer =>
      obtain ⟨hnode, hothers⟩ := markUnreachable_unreach s node
      exact ⟨_, rfl, hnode, hothers, markUnreachable_frame s node⟩
  case containment =>
    intro s host onMem port tower cause index p down
    refine ⟨fun hp => congrArg Host.Outcome.next (if_pos hp), rfl, ?memoryPort, rfl, ?enter, enterContained_again, ?stays⟩
    case memoryPort =>
      intro hp
      exact congrArg Host.Outcome.next (if_pos (by simpa using hp))
    case enter =>
      intro hc hs he hn hq
      have hu := undisturbed_frozen (cause := cause) (index := index) hs he hn hq
      obtain ⟨hstop, hrom⟩ := frozen_stops (cause := cause) (index := index) hn hq
      rw [enterContained_first hc]
      generalize frozen s cause index = u at hu hstop hrom ⊢
      obtain ⟨hcause, hindex⟩ := hu.causes
      refine ⟨hu.cont, hcause, hindex, hstop, hrom, by simp [announced], by simp [announced], fun l hl hup => ?_,
        fun b hb herr hheld => hu.lines b ⟨hb, herr, hheld⟩⟩
      refine List.mem_append_left _ (List.mem_reverse.mpr (List.mem_map_of_mem ?_))
      rw [linksUp_of_record hu.record]
      exact List.mem_filter.mpr ⟨List.mem_range.mpr hl, hup⟩
    case stays =>
      intro hc ha hr hst
      obtain ⟨g, c, o, hstep, hcont⟩ := step_contained hc ha hr hst
      exact ⟨_, hstep, hcont, rfl, rfl, rfl, rfl, rfl, rfl, rfl⟩
end

section
/-! What reset and dispatch leave (R47, R51, R57, R74, R81, R88, R185, R191, R200): O7. -/

namespace Sys2Proof.Machine

/-- TENCFG after a cold reset: tenant 0 alone has a value of its own (R81). -/
theorem tenant_reset (t : Nat) : State.reset.tenant t = if t = 0 then 0x11F else 0x100 := by
  cases t <;> rfl

/-- Every tenant has QUANTUM 1 after a cold reset; tenant 0 alone is enabled, with CEIL 15 (R81). -/
theorem tenant_reset_fields (t : Nat) :
    tenQuantum (State.reset.tenant t) = 1 ∧ tenEn (State.reset.tenant t) = decide (t = 0) ∧
      tenCeil (State.reset.tenant t) = if t = 0 then 15 else 0 := by
  rw [tenant_reset]
  by_cases h : t = 0
  · simp only [h, if_true]
    decide
  · simp only [h, if_false]
    decide

/-- A stream that has not started reads 0 in every register (R88). -/
theorem Stream.reg_reset (n : Nat) : Stream.reset.reg n = 0 := ite_self 0

/-- After a cold reset the harts are those of the service cores, with no task (R15, R47). -/
theorem harts_reset : ∀ h ∈ State.reset.harts, h.launch = none ∧ h.id.core = 64 := by
  decide

end Sys2Proof.Machine

open Sys2Proof Sys2Proof.Machine

/-- Settles O7: the tables at reset are empty but for tenant 0, so that each reads as its unlisted value everywhere. -/
theorem resetValues : Obligations.ResetValues := by
  unfold Obligations.ResetValues
  refine ⟨⟨rfl, rfl, rfl, rfl, rfl, rfl, rfl, rfl, fun _ => rfl, rfl, fun _ => rfl, fun _ => rfl, harts_reset, fun _ => rfl,
    tenant_reset_fields⟩, ⟨rfl, rfl⟩, fun id joined => ?_⟩
  exact ⟨fun n => ⟨Stream.reg_reset n, Stream.reg_reset n⟩, rfl, rfl, rfl, rfl, fun _ => rfl, fun _ hn => if_neg hn, rfl, fun _ => rfl, fun _ => ⟨rfl, rfl⟩, rfl, rfl, rfl,
    rfl, rfl, rfl, rfl, rfl, rfl, rfl, rfl, rfl⟩
end

section
/-! What stays of CFGWIN and of the rest of the part when a waiter wakes and when the error log takes an entry (R59 to R61,
R245): an interrupt waiter that fires leaves its entry and a pending vector, an error its place in the ring. No access to
memory or to a counter reaches more of CFGWIN than that. -/

namespace Sys2Proof.Machine

variable {α : Type} {s t : State}

/-- CFGWIN without the error log, the interrupt waiters and the vectors that are pending. -/
def Cfg.settled (c : Cfg) : Cfg := { c with errlog := [], errN := 0, ivt := [], irqPend := [] }

/-- The part without what waking the waiters of a counter reaches: their table and PFLAG, the events that follow, the launch
table, the interrupt waiters and what is sent. -/
def State.unwoken (s : State) : State :=
  { s with waiters := [], pflag := [], agenda := [], entries := [], out := [], cfg := s.cfg.settled }

/-- The registers that the error log and the wakes do not reach. -/
def State.registers (s : State) : Cfg := s.cfg.settled

theorem State.registers_of_cfg (e : t.cfg = s.cfg) : t.registers = s.registers := congrArg Cfg.settled e

/-- An operation named by an equation, as a match on its result gives it. -/
theorem State.registers_pair {p : α × State} {a : α} (h : p.2.registers = s.registers) (e : p = (a, t)) :
    t.registers = s.registers := by
  subst e
  exact h

/-! ### Waking (R244, R245) -/

@[simp] theorem later_unwoken (is) : (s.later is).unwoken = s.unwoken := rfl
@[simp] theorem emit_unwoken (m) : (s.emit m).unwoken = s.unwoken := rfl
@[simp] theorem setEntry_unwoken (i e) : (s.setEntry i e).unwoken = s.unwoken := rfl

@[simp] theorem fireIrq_unwoken (i) : (fireIrq s i).unwoken = s.unwoken := by
  dsimp only [fireIrq]
  split
  · rfl
  · split <;> rfl

@[simp] theorem condMet_unwoken (l j) : (condMet s l j).unwoken = s.unwoken := by
  dsimp only [condMet]
  split
  · rfl
  · exact setEntry_unwoken _ _

@[simp] theorem wakeOne_unwoken (w v) : (wakeOne s w v).unwoken = s.unwoken := by
  cases w with
  | stream => exact later_unwoken _
  | interrupt => exact fireIrq_unwoken _
  | start => exact condMet_unwoken _ _
  | peer => exact emit_unwoken _

@[simp] theorem wakeSatisfied_unwoken (key base v) : (wakeSatisfied s key base v).unwoken = s.unwoken := by
  have hfold : ∀ (l : List Waiter) (u : State), (l.foldl (fun t w => wakeOne t w.who v) u).unwoken = u.unwoken := by
    intro l
    induction l with
    | nil => intro u; rfl
    | cons w l ih => intro u; exact (ih _).trans (wakeOne_unwoken _ _)
  exact hfold _ _

/-- An add to a slot holds its new value in the counter cache, and for the rest does what the wakes do. -/
theorem addSlot_unwoken (key d) : (addSlot s key d).unwoken = (putSlot s key (slotRaw s key + d)).unwoken :=
  wakeSatisfied_unwoken key _ _

theorem addSlot_mem (key d) : (addSlot s key d).mem = s.mem :=
  (congrArg State.mem (addSlot_unwoken key d) :)

theorem addSlot_cc (key d) : (addSlot s key d).cc = (putSlot s key (slotRaw s key + d)).cc :=
  (congrArg State.cc (addSlot_unwoken key d) :)

@[simp] theorem addSlot_registers (key d) : (addSlot s key d).registers = s.registers :=
  (congrArg State.cfg (addSlot_unwoken key d) :)

/-! ### The error log (R61) -/

@[simp] theorem emit_registers (m) : (s.emit m).registers = s.registers := rfl
@[simp] theorem setEntry_registers (i e) : (s.setEntry i e).registers = s.registers := rfl
@[simp] theorem putSlot_registers (key v) : (putSlot s key v).registers = s.registers := rfl
@[simp] theorem spoilSlots_registers (key) : (spoilSlots s key).registers = s.registers := rfl
@[simp] theorem setDir_registers (pa d) : (setDir s pa d).registers = s.registers := rfl
@[simp] theorem draw_registers : (draw s).2.registers = s.registers := rfl
@[simp] theorem own_registers (pa k w b) : (own s pa k w b).registers = s.registers := rfl

@[simp] theorem putLine_registers (pa v g) : (putLine s pa v g).registers = s.registers :=
  State.registers_of_cfg (putLine_cfg s pa v g)

@[simp] theorem freshCheck_registers (pa k) : (freshCheck s pa k).registers = s.registers :=
  State.registers_of_cfg (freshCheck_cfg s pa k)

@[simp] theorem dropWaiter_registers (who) : (dropWaiter s who).registers = s.registers :=
  State.registers_of_cfg (dropWaiter_cfg s who)

@[simp] theorem putError_registers (source cls code index addr detail) :
    (putError s source cls code index addr detail).registers = s.registers := by
  dsimp only [putError]
  split
  · rfl
  · exact addSlot_registers _ _

@[simp] theorem errRead_registers : (errRead s).registers = s.registers := by
  dsimp only [errRead]
  split
  · rfl
  · split
    · split <;> simp
    · simp
    · simp

@[simp] theorem logError_registers (source cls code index addr detail) :
    (logError s source cls code index addr detail).registers = s.registers := by
  simp [logError]

/-- A write that is dropped changes no register but those of the error log (R45, R480). -/
@[simp] theorem dropWrite_registers (w code off v) : (dropWrite s w code off v).registers = s.registers :=
  logError_registers _ _ _ _ _ _

end Sys2Proof.Machine
end

section
/-! CFGWIN as hosts write it (R44, R45, R51 to R60): what one write of 8 bytes does by the class of its register, the lease,
the rings and the window of counters, then the settlement of O57. -/

namespace Sys2Proof.Machine

variable {s : State} {host : HostId} {v : BitVec 64} {off : Nat}

/-! ### Writes by the class of their register (R44, R45) -/

/-- Writing the whole of an 8-byte register replaces its low 64 bits. -/
theorem putBytes_whole (old : Nat) (v : BitVec 64) : putBytes old 0 8 v.toNat % 2 ^ 64 = v.toNat := by
  have hv := v.isLt
  simp only [putBytes]
  omega

/-- Where no rule shuts the register, a host's write of 8 bytes to a register of the active host is that register's. -/
theorem cfgWrite_active (hl : leaseOver s = false) (hc : s.cfg.cont = false) (hp : s.cfg.phase ≠ 15)
    (hoff : off % 8 = 0) (hk : regClass off = .active) :
    cfgWrite s (.host host) off 8 v =
      activeWrite s (.host host) off (putBytes (cfgRead s off) 0 8 v.toNat) v.toNat true := by
  have hreg : off / 8 * 8 = off := by omega
  simp [cfgWrite, settleLease_of_running hl, hoff, hreg, hk, hostShut_of_open hp (.inl hc), Nat.mod_eq_of_lt v.isLt]

/-- A host's write of LEASECTL is its command, after an expiry that is due (R52). -/
theorem cfgWrite_lease (hc : s.cfg.cont = false) (hp : s.cfg.phase ≠ 15) (hl : leaseOver s = false) :
    cfgWrite s (.host host) 0x108 8 v = leaseCommand s host v.toNat := by
  have hk : regClass 0x108 = .lease := by decide
  simp [cfgWrite, settleLease_of_running hl, hk, hostShut_of_open hp (.inl hc), Nat.mod_eq_of_lt v.isLt]

/-- A write depends on the lease only through an expiry that is due. -/
theorem cfgWrite_settleLease (w : Writer) (off size : Nat) (h : settleLease (settleLease s) = settleLease s) :
    cfgWrite s w off size v = cfgWrite (settleLease s) w off size v := by
  unfold cfgWrite
  rw [h]

/-- An access that is not 4 or 8 bytes at its own alignment is an unsupported request (R44). -/
theorem cfgWrite_unsupported {size : Nat} (hl : leaseOver s = false) (hbad : (size ≠ 4 ∧ size ≠ 8) ∨ off % size ≠ 0) :
    cfgWrite s (.host host) off size v = s.emit (.unsupported host) := by
  simp only [cfgWrite, settleLease_of_running hl]
  exact if_pos hbad

/-! ### The lease (R51, R52) -/

theorem isActive_iff : isActive s (.host host) = true ↔ s.activeHost = some host := by simp [isActive]

theorem activeHost_of_code {h : HostId} (e : s.cfg.active = hostCode h) : s.activeHost = some h := by
  cases h <;> simp [State.activeHost, e, hostCode]

theorem otherHost_ne (h : HostId) : otherHost h ≠ h := by cases h <;> decide

/-- A host becomes active: the lease runs from now, and the vectors that were pending are sent (R52, R60). -/
theorem becomeActive_eq (s : State) (h : HostId) :
    becomeActive s h = { s with
      cfg := { s.cfg with
        active := hostCode h, claimed := false, epoch := s.cfg.epoch + 1, leaseEnd := leaseFrom s, irqPend := [] }
      out := (s.cfg.irqPend.map (.msix h)).reverse ++ s.out } := by
  unfold becomeActive
  exact foldl_emit _ _ _

theorem becomeActive_activeHost (s : State) (h : HostId) : (becomeActive s h).activeHost = some h :=
  activeHost_of_code (by rw [becomeActive_eq])

theorem expireLease_claimed (ha : s.activeHost = some host) (hp : s.cfg.phase ≠ 15) (hcl : s.cfg.claimed = true) :
    expireLease s = becomeActive s (otherHost host) := by
  have hbne : (s.cfg.phase != 15#4) = true := bne_iff_ne.mpr hp
  simp [expireLease, ha, hbne, hcl]

theorem expireLease_free (ha : s.activeHost = some host) (hcl : s.cfg.claimed = false) :
    expireLease s = { s with cfg := { s.cfg with active := 0, leaseEnd := 0 } } := by
  simp [expireLease, ha, hcl]

/-- A lease that has just been settled is not over, unless no host holds it. -/
theorem settleLease_settleLease (s : State) : settleLease (settleLease s) = settleLease s := by
  cases hl : leaseOver s with
  | false => rw [settleLease_of_running hl, settleLease_of_running hl]
  | true =>
    have he : settleLease s = expireLease s := if_pos hl
    cases ha : s.activeHost with
    | none =>
      have hs : expireLease s = s := by simp [expireLease, ha]
      rw [he, hs, he, hs]
    | some h =>
      refine he ▸ settleLease_of_running ?_
      by_cases hcl : (s.cfg.claimed && s.cfg.phase != 15#4) = true
      · simp [expireLease, ha, hcl, becomeActive_eq, leaseOver, leaseFrom]
      · simp [expireLease, ha, hcl, leaseOver]

theorem leaseOver_of_active (ha : s.activeHost = some host) (he : s.cfg.leaseEnd < s.cycle) : leaseOver s = true := by
  have hne : s.cfg.active ≠ 0#2 := by
    intro h
    simp [State.activeHost, h] at ha
  simp [leaseOver, hne, he]

theorem settleLease_over (hl : leaseOver s = true) : settleLease s = expireLease s := if_pos hl

/-! ### Rings, counters and interrupt waiters (R54 to R59) -/

/-- A field below bit 64 is one of the low 64 bits. -/
theorem fieldOf_mod {hi : Nat} (hhi : hi < 64) (v lo : Nat) : fieldOf (v % 2 ^ 64) hi lo = fieldOf v hi lo := by
  apply Nat.eq_of_testBit_eq
  intro i
  simp only [fieldOf, Nat.testBit_mod_two_pow, Nat.testBit_shiftRight]
  by_cases h : i < hi + 1 - lo
  · have hbit : lo + i < 64 := by omega
    simp [hbit]
  · simp [h]

/-- A register takes the field of the value written, whatever it held. -/
theorem fieldOf_putBytes_whole {hi : Nat} (hhi : hi < 64) (old lo : Nat) (v : BitVec 64) :
    fieldOf (putBytes old 0 8 v.toNat) hi lo = fieldOf v.toNat hi lo := by
  rw [← fieldOf_mod hhi, putBytes_whole]

theorem putBytes_whole_mod {m : Nat} (hm : m ∣ 2 ^ 64) (old : Nat) (v : BitVec 64) :
    putBytes old 0 8 v.toNat % m = v.toNat % m := by
  rw [← Nat.mod_mod_of_dvd (putBytes old 0 8 v.toNat) hm, putBytes_whole]

/-- Half of an interrupt waiter takes the low 64 bits of what is written. -/
theorem ivtWrite_mod (s : State) (i : Nat) (v : Nat) : ivtWrite s i true (v % 2 ^ 64) = ivtWrite s i true v := by
  simp only [ivtWrite, if_true, Nat.mod_mod]

theorem regClass_ivt {index : Nat} (hi : index < 2048) : regClass (0x30000 + 16 * index + 8) = .active := by
  have hlist : [0x100, 0x300, 0x400, 0x800, 0x808, 0x810, 0x818].contains (0x30000 + 16 * index + 8) = false := by
    simp
    omega
  unfold regClass
  rw [if_neg (by omega), if_neg (by omega), if_neg (by omega), if_pos (.inr (by omega))]

/-- The active host sets the period of the lease (R51). -/
theorem activeWrite_period {full raw : Nat} {low : Bool} (ha : isActive s (.host host) = true)
    (hlo : 10 ≤ full % 2 ^ 14) (hhi : full % 2 ^ 14 ≤ 10000) :
    activeWrite s (.host host) 0x100 full raw low =
      { s with cfg := { s.cfg with period := BitVec.ofNat 14 (full % 2 ^ 14) } } := by
  have hrange : 10 ≤ full % 2 ^ 14 ∧ full % 2 ^ 14 ≤ 10000 := ⟨hlo, hhi⟩
  simp only [activeWrite, ha, hrange, and_self, Bool.not_true, Bool.false_eq_true, if_true, if_false]

/-- The request ring takes a base while no request is outstanding and the ring fits (R57). -/
theorem activeWrite_rqbase {full raw : Nat} {low : Bool} (ha : isActive s (.host host) = true) (hb : ringBusy s = false)
    (hfit : fieldOf full 39 16 * 65536 + s.cfg.rqent.toNat * 256 ≤ hbmSize) :
    activeWrite s (.host host) 0x800 full raw low =
      { s with cfg := { s.cfg with rqbase := BitVec.ofNat 24 (fieldOf full 39 16) } } := by
  simp [activeWrite, ha, hb, ringFits, hfit]

/-- The request ring takes a size of R56 while no request is outstanding and the ring fits (R57). -/
theorem activeWrite_rqent {full raw : Nat} {low : Bool} (ha : isActive s (.host host) = true) (hb : ringBusy s = false)
    (hsize : ringSize (fieldOf full 16 0) = true)
    (hfit : s.cfg.rqbase.toNat * 65536 + fieldOf full 16 0 * 256 ≤ hbmSize) :
    activeWrite s (.host host) 0x808 full raw low =
      { s with cfg := { s.cfg with rqent := BitVec.ofNat 17 (fieldOf full 16 0) } } := by
  simp [activeWrite, ha, hb, ringFits, hsize, hfit]

/-- MEMWIN's key (R57). -/
theorem activeWrite_memkey {full raw : Nat} {low : Bool} (ha : isActive s (.host host) = true) :
    activeWrite s (.host host) 0x818 full raw low = { s with cfg := { s.cfg with memkey := BitVec.ofNat 7 full } } := by
  simp [activeWrite, ha]

/-- The upper half of an interrupt waiter (R59). -/
theorem activeWrite_ivt {full raw index : Nat} {low : Bool} (ha : isActive s (.host host) = true) (hi : index < 2048) :
    activeWrite s (.host host) (0x30000 + 16 * index + 8) full raw low = ivtWrite s index true full := by
  generalize hoff : 0x30000 + 16 * index + 8 = off
  have hindex : (off - 0x30000) / 16 = index := by omega
  have hupper : off % 16 = 8 := by omega
  have hlist : off ∉ [0x100, 0x300, 0x400, 0x800, 0x808, 0x810, 0x818] := by
    simp only [List.mem_cons, List.not_mem_nil, or_false]
    omega
  simp only [List.mem_cons, List.not_mem_nil, or_false, not_or] at hlist
  simp [activeWrite, ha, hlist, hindex, hupper]

/-- A host's add through a window slot that binds a counter held in the counter cache (R54, R55). -/
theorem windowAdd_held {slot n k : Nat} {h x : Word} {m : Option (Nat × Bool)} (ha : isActive s (.host host) = true)
    (hh : SMap.get 0#64 s.cfg.hcw slot = h) (hne : h ≠ 0) (href : refOf s h = .slot n k) (hv : v.toNat < 2 ^ 32)
    (hcc : SMap.get none s.cc (slotKey n k) = some ⟨x, m⟩) :
    windowAdd s (.host host) slot v.toNat = addSlot (slotUsed s n k) (slotKey n k) v := by
  have hread : slotRead s (slotKey n k) = (some x, slotUsed s n k) := by simp [slotUsed, slotRead, hcc]
  have hop : slotOp s none n k (.add v) = (some 0, addSlot (slotUsed s n k) (slotKey n k) v) := by
    simp [slotOp, hread, COp.result]
  unfold windowAdd
  rw [hh]
  rw [if_neg (by simpa [ha] using hv)]
  split
  · contradiction
  · simp [href, hop]

theorem regClass_access {slot : Nat} (hs : slot < 1024) : regClass (0x20008 + 16 * slot) = .window := by
  have hlist : ¬ ([0x100, 0x300, 0x400, 0x800, 0x808, 0x810, 0x818].contains (0x20008 + 16 * slot) ∨
      (0x30000 ≤ 0x20008 + 16 * slot ∧ 0x20008 + 16 * slot < 0x38000)) := by
    simp
    omega
  unfold regClass
  rw [if_neg (by omega), if_neg (by omega), if_neg (by omega), if_neg hlist, if_neg (by omega), if_pos (by omega)]

/-- A host's write of an ACCESS field is an add to the counter that its slot binds (R54, R55). -/
theorem cfgWrite_access {slot : Nat} (hl : leaseOver s = false) (hc : s.cfg.cont = false) (hp : s.cfg.phase ≠ 15)
    (hs : slot < 1024) :
    cfgWrite s (.host host) (0x20008 + 16 * slot) 8 v = windowAdd s (.host host) slot v.toNat := by
  have hoff : (0x20008 + 16 * slot) % 8 = 0 := by omega
  have hreg : (0x20008 + 16 * slot) / 8 * 8 = 0x20008 + 16 * slot := by omega
  have hslot : (0x20008 + 16 * slot - 0x20000) / 16 = slot := by omega
  have hhalf : (0x20008 + 16 * slot) % 16 = 8 := by omega
  simp only [cfgWrite, settleLease_of_running hl, hoff, hreg, regClass_access hs, hostShut_of_open hp (.inl hc)]
  simp only [windowWrite, hhalf, hslot, Nat.mod_eq_of_lt v.isLt]
  simp

/-- A write through CFGWIN that is no add to a counter is the write of its register (R45, R55). -/
theorem exec_cfgwinWrite {size : Nat}
    (h : (isAccess (off / 8 * 8) && (size == 4 || size == 8) && off % size == 0) = false) :
    exec (.cfgwinWrite host off size v) s = .next (cfgWrite s (.host host) off size v) :=
  congrArg Host.Outcome.next (if_neg (by simp [h]))

/-! ### Lease commands (R51, R52) -/

theorem leaseCommand_renew (hm : s.activeHost = some host) :
    leaseCommand s host 1 = { s with cfg := { s.cfg with leaseEnd := leaseFrom s } } := by
  simp [leaseCommand, hm]

theorem leaseCommand_claim_free (hn : s.activeHost = none) : leaseCommand s host 2 = becomeActive s host := by
  simp [leaseCommand, hn]

theorem leaseCommand_claim_held (ho : s.activeHost = some (otherHost host)) :
    leaseCommand s host 2 = { s with cfg := { s.cfg with claimed := true } } := by
  simp [leaseCommand, ho, otherHost_ne]

theorem leaseCommand_release (hm : s.activeHost = some host) : leaseCommand s host 3 = expireLease s := by
  simp [leaseCommand, hm]

end Sys2Proof.Machine

open Sys2Proof Sys2Proof.Machine

/-- Settles O57: an expiry that is due is made before the write looks at the lease, and each write is that of its register's
class, which takes the fields of the value written. -/
theorem leaseAndHostRegisters : Obligations.LeaseAndHostRegisters := by
  unfold Obligations.LeaseAndHostRegisters
  refine ⟨?lease, ?registers⟩
  case lease =>
    intro s host v hc hp ends mine
    refine ⟨fun hl i hi => ?expired, fun ha he hcl => ?passed, fun ha he hcl => ?lapsed, fun hl => ?running⟩
    case expired =>
      have hset := settleLease_settleLease s
      simp only [List.mem_cons, List.not_mem_nil, or_false] at hi
      rcases hi with rfl | rfl | rfl | rfl
      all_goals
        refine congrArg Host.Outcome.next ?_
        rw [cfgWrite_settleLease _ _ _ hset, settleLease_over hl]
    case passed =>
      refine ⟨_, rfl, ?_⟩
      rw [settleLease_over (leaseOver_of_active ha he), expireLease_claimed ha hp hcl]
      exact becomeActive_activeHost _ _
    case lapsed =>
      refine ⟨_, rfl, ?_⟩
      rw [settleLease_over (leaseOver_of_active ha he), expireLease_free ha hcl]
      rfl
    case running =>
      have hwrite : ∀ v, cfgWrite s (.host host) 0x108 8 v = leaseCommand s host v.toNat := fun v => cfgWrite_lease hc hp hl
      have hrenew : exec (.renew host) s = .next (leaseCommand s host 1) := congrArg Host.Outcome.next (hwrite 1)
      have hclaim : exec (.claim host) s = .next (leaseCommand s host 2) := congrArg Host.Outcome.next (hwrite 2)
      have hrelease : exec (.release host) s = .next (leaseCommand s host 3) := congrArg Host.Outcome.next (hwrite 3)
      refine ⟨fun hm => ?renew, fun hn => ?claim, fun ho => ?note, fun hm hcl => ?pass, fun hm hcl => ?free,
        fun hm hlo hhi => ?period⟩
      case renew => rw [hrenew, leaseCommand_renew hm]; rfl
      case claim =>
        rw [leaseCommand_claim_free hn] at hclaim
        refine ⟨_, hclaim, becomeActive_activeHost s host, ?_⟩
        rw [becomeActive_eq]
        exact ⟨rfl, rfl, rfl, rfl⟩
      case note => rw [hclaim, leaseCommand_claim_held ho]
      case pass =>
        rw [leaseCommand_release hm, expireLease_claimed hm hp hcl] at hrelease
        refine ⟨_, hrelease, becomeActive_activeHost s _, ?_⟩
        rw [becomeActive_eq]
        exact ⟨rfl, rfl⟩
      case free =>
        rw [leaseCommand_release hm, expireLease_free hm hcl] at hrelease
        exact ⟨_, hrelease, rfl, rfl⟩
      case period =>
        have hfull : putBytes (cfgRead s 0x100) 0 8 v.toNat % 2 ^ 14 = v.toNat % 2 ^ 14 :=
          putBytes_whole_mod (by decide) _ v
        refine congrArg Host.Outcome.next ((cfgWrite_active hl hc hp (by decide) (by decide)).trans ?_)
        rw [activeWrite_period (isActive_iff.mpr hm)]
        all_goals rw [hfull]
        · exact hlo
        · exact hhi
  case registers =>
    intro s host v slot n k off size index hc hp hl
    have hactive : ∀ {off}, off % 8 = 0 → regClass off = .active → cfgWrite s (.host host) off 8 v =
        activeWrite s (.host host) off (putBytes (cfgRead s off) 0 8 v.toNat) v.toNat true :=
      cfgWrite_active hl hc hp
    refine ⟨fun ha => ⟨fun hb => ?rqbase, fun hb => ?rqent, ?add, fun hi => ?waiter⟩, fun hslot => ?read, fun ha => ?memkey,
      fun hbad => ?unsupported⟩
    case rqbase =>
      intro b hfit
      refine congrArg Host.Outcome.next ((hactive (by decide) (by decide)).trans ?_)
      rw [activeWrite_rqbase ha hb]
      all_goals rw [fieldOf_putBytes_whole (by decide)]
      exact hfit
    case rqent =>
      intro c hsize hfit
      refine congrArg Host.Outcome.next ((hactive (by decide) (by decide)).trans ?_)
      rw [activeWrite_rqent ha hb]
      all_goals rw [fieldOf_putBytes_whole (by decide)]
      · exact hsize
      · exact hfit
    case add =>
      intro h x m hslot hh hne href hv hcc hst
      have hperf : hostAccess (.add host slot v) s = performAccess (.add host slot v) s := hostAccess_performed rfl hst
      have hwrite : performAccess (.add host slot v) s = windowAdd s (.host host) slot v.toNat := by
        rw [performAccess, settleLease_of_running hl]
        exact cfgWrite_access hl hc hp hslot
      refine congrArg Host.Outcome.next ((if_pos hslot).trans ?_)
      rw [hperf, hwrite, windowAdd_held ha hh hne href hv hcc]
    case waiter =>
      refine ⟨_, rfl, (if_pos ⟨hi, by decide⟩).trans ?_⟩
      rw [hactive (by omega) (regClass_ivt hi), activeWrite_ivt ha hi, ← ivtWrite_mod, putBytes_whole]
    case read => exact congrArg Host.Outcome.next (if_pos hslot)
    case memkey =>
      have hcut : ∀ n, BitVec.ofNat 7 n = BitVec.ofNat 7 (n % 2 ^ 7) := fun n => by simp [← BitVec.toNat_inj]
      rw [exec_cfgwinWrite (by decide), hactive (by decide) (by decide), activeWrite_memkey ha, hcut,
        putBytes_whole_mod (by decide), ← hcut]
    case unsupported =>
      have haccess : (isAccess (off / 8 * 8) && (size == 4 || size == 8) && off % size == 0) = false := by
        rcases hbad with ⟨h4, h8⟩ | h <;> simp_all
      rw [exec_cfgwinWrite haccess, cfgWrite_unsupported hl hbad]
end

section
/-! The firmware commands (R66 to R69) and the SPDM responder (R50), then the settlement of O58. -/

namespace Sys2Proof.Machine

variable {s : State} {host : HostId} {w : Writer} {off : Nat}

/-! ### FWCTL (R66) -/

/-- FWCTL takes the command in the low half of what the active host writes. -/
theorem cfgWrite_fwctl {v : BitVec 64} (ha : isActive s (.host host) = true) (hl : leaseOver s = false)
    (hc : s.cfg.cont = false) (hp : s.cfg.phase ≠ 15) :
    cfgWrite s (.host host) 0x400 8 v = fwctlWrite s (.host host) v.toNat := by
  rw [cfgWrite_active hl hc hp (by decide) (by decide)]
  simp [activeWrite, ha]

theorem fwctlWrite_stage {v : Nat} (h : v % 4 = 1) : fwctlWrite s w v = stageOp s w v := by simp [fwctlWrite, h]

theorem setKind_of_lt {c : Cfg} {v : Nat} (h : fieldOf v 3 2 < 3) :
    c.setKind v = { c with fwKind := BitVec.ofNat 2 (fieldOf v 3 2) } := if_pos h

/-- STAGE takes an image where none is measured or switched (R66). -/
theorem stageOp_staged {v : Nat} (h1 : s.cfg.fwState ≠ 1) (h3 : s.cfg.fwState ≠ 3) (hk : fieldOf v 3 2 < 3) :
    stageOp s w v = { s with cfg := { s.cfg with
      fwKind := BitVec.ofNat 2 (fieldOf v 3 2), fwStaged := BitVec.ofNat 2 (fieldOf v 3 2), fwState := 1 } } := by
  have hno : ¬ (s.cfg.fwState = 1 ∨ s.cfg.fwState = 3) := not_or.mpr ⟨h1, h3⟩
  simp only [stageOp, if_neg hno, setKind_of_lt hk]

/-- DISCARD drops what is staged (R69). -/
theorem discardOp_dropped {v : Nat} (h : s.cfg.fwState = 2 ∨ s.cfg.fwState = 4 ∨ s.cfg.fwState = 5 ∨ s.cfg.fwState = 6) :
    (discardOp s w v).cfg.fwState = 0 ∧ (discardOp s w v).mem = s.mem := by
  have hno : ¬ (s.cfg.fwState = 0 ∨ s.cfg.fwState = 1 ∨ s.cfg.fwState = 3) := by
    rcases h with h | h | h | h <;> rw [h] <;> decide
  simp only [discardOp, if_neg hno, and_self]

/-- Measuring ends with the image staged or failed (R66). -/
theorem measureDone_ends (h : s.cfg.fwState = 1) (hc : s.cfg.cont = false) :
    ((measureDone s).cfg.fwState = 2 ∨ (measureDone s).cfg.fwState = 6) ∧ (measureDone s).mem = s.mem := by
  have hgo : ¬ (s.cfg.fwState ≠ 1 ∨ s.cfg.cont = true) := by simp [h, hc]
  simp only [measureDone, if_neg hgo, and_true]
  split
  · exact .inl rfl
  · exact .inr rfl

/-! ### The end of a switch (R67, R68) -/

/-- The drain of a switch ends; with the ready signal given, the new image takes over. -/
theorem drainEnd_of_done (h : s.cfg.fwState = 3) (hd : s.cfg.drained = false) (hdone : drainDone s = true)
    (hc : s.cfg.cont = false) :
    drainEnd s =
      if s.cfg.fwready = true then finishSwitch { s with cfg := { s.cfg with drained := true, drainAt := s.cycle } }
      else { s with cfg := { s.cfg with drained := true, drainAt := s.cycle } } := by
  unfold drainEnd
  rw [if_pos (by simp [h, hd, hdone, hc])]

/-- The staged image's measurement moves to its kind's slot (R68). -/
theorem finishSwitch_mslot (hwf : SMap.wf 0#512 s.cfg.mslot = true) :
    let k := s.cfg.fwStaged.toNat
    SMap.get 0#512 (finishSwitch s).cfg.mslot (2 + k) = SMap.get 0#512 s.cfg.mslot (8 + k) ∧
      SMap.get 0#512 (finishSwitch s).cfg.mslot (8 + k) = 0 := by
  intro k
  have hmslot : (finishSwitch s).cfg.mslot =
      SMap.set 0#512 (SMap.set 0#512 s.cfg.mslot (2 + k) (SMap.get 0#512 s.cfg.mslot (8 + k))) (8 + k) 0 := rfl
  rw [hmslot, SMap.get_set (SMap.wf_set hwf), SMap.get_set (SMap.wf_set hwf), SMap.get_set hwf]
  simp

theorem revertSwitch_overdue (h : readyOverdue s = true) :
    revertSwitch s = { s with cfg := { s.cfg with fwState := 5, fwready := false, drained := false } } := if_pos h

/-- A ready signal in time, after the drain, ends the switch (R68). -/
theorem readyOp_in_time {v : Nat} (h : s.cfg.fwState = 3) (hd : s.cfg.drained = true) (ho : readyOverdue s = false)
    (hv : v % 2 = 1) : readyOp s v = finishSwitch s := by
  have hs : revertSwitch s = s := by simp [revertSwitch, ho]
  simp [readyOp, hs, h, hd, hv]

/-- A ready signal that is too late is dropped, the old image having resumed (R68). -/
theorem readyOp_late {v : Nat} (ho : readyOverdue s = true) : (readyOp s v).cfg.fwState = 5 := by
  have hlate : readyOp s v = dropWrite (revertSwitch s) .service 5 0x460 v := by
    simp [readyOp, revertSwitch_overdue ho]
  have hreg : (readyOp s v).registers = (revertSwitch s).registers := by rw [hlate, dropWrite_registers]
  rw [revertSwitch_overdue ho] at hreg
  exact (congrArg Cfg.fwState hreg :)

/-- FWREADY is written by a service hart (R69, R324). -/
theorem cfgWrite_fwready {v : BitVec 64} (hl : leaseOver s = false) : cfgWrite s .service 0x460 8 v = readyOp s v.toNat := by
  have hk : regClass 0x460 = .service := by decide
  simp [cfgWrite, settleLease_of_running hl, hk, hostShut, serviceWrite, Nat.mod_eq_of_lt v.isLt]

/-! ### The SPDM responder (R50) -/

/-- Index i + 1 alone reports slot i. -/
theorem filter_numbered {β : Type} (f : Nat → β) {i n : Nat} (h1 : 1 ≤ i) (hn : i ≤ n) :
    (((List.range n).map fun k => (k + 1, f k)).filter fun m => m.1 == i) = [(i, f (i - 1))] := by
  induction n with
  | zero => omega
  | succ n ih =>
    rw [List.range_succ, List.map_append, List.filter_append]
    by_cases h : i = n + 1
    · have hnone : (((List.range n).map fun k => (k + 1, f k)).filter fun m => m.1 == i) = [] := by
        simp [List.filter_eq_nil_iff]
        omega
      rw [hnone]
      simp [h]
    · rw [ih (by omega)]
      simp [Ne.symm h]

end Sys2Proof.Machine

open Sys2Proof Sys2Proof.Machine

/-- Settles O58: each firmware command and event is one change of FWSTAT and of the measurement slots, and a dropped FWREADY
touches no register but the error log's; the responder's answers are the model's, index i being slot i - 1. -/
theorem firmwareAndSpdm : Obligations.FirmwareAndSpdm := by
  unfold Obligations.FirmwareAndSpdm
  refine ⟨?firmware, ?spdm⟩
  case firmware =>
    intro s host kind v hc c
    refine ⟨fun hp hl ha => ?commands, fun h1 => ⟨_, rfl, measureDone_ends h1 hc⟩, ?drain, ?ready, ?late⟩
    case commands =>
      have hexec : ∀ {i v}, exec i s = .next (cfgWrite s (.host host) 0x400 8 v) →
          exec i s = .next (fwctlWrite s (.host host) v.toNat) := fun e =>
        e.trans (congrArg Host.Outcome.next (cfgWrite_fwctl ha hl hc hp))
      refine ⟨fun h1 h3 hk => ?stage, fun _ => ⟨_, hexec (i := .switch host) rfl, rfl⟩,
        fun h => ⟨_, hexec (i := .discard host) rfl, discardOp_dropped h⟩⟩
      case stage =>
        have hv : (BitVec.ofNat 64 (1 + 4 * (kind % 4))).toNat = 1 + 4 * kind := by
          rw [BitVec.toNat_ofNat]
          omega
        have hcmd : (1 + 4 * kind) % 4 = 1 := by omega
        have hfield : fieldOf (1 + 4 * kind) 3 2 = kind := by
          simp only [fieldOf, Nat.shiftRight_eq_div_pow]
          omega
        have hstage := stageOp_staged (w := .host host) h1 h3 (hfield.symm ▸ hk)
        rw [hfield] at hstage
        have hrun : exec (.stage host kind) s = .next (stageOp s (.host host) (1 + 4 * kind)) := by
          rw [hexec (i := .stage host kind) rfl, hv, fwctlWrite_stage hcmd]
        rw [hstage] at hrun
        exact ⟨_, hrun, rfl, rfl, rfl, rfl⟩
    case drain =>
      intro h3 hd hdone
      have hend : exec .fwDrainEnd s = .next _ := congrArg Host.Outcome.next (drainEnd_of_done h3 hd hdone hc)
      refine ⟨fun hr => ?_, fun hr => ?_⟩
      · rw [hend, if_neg (Bool.eq_false_iff.mp hr)]
      · rw [if_pos hr] at hend
        exact ⟨_, hend, rfl⟩
    case ready =>
      intro h3 hd ho hl hv hwf hk
      have hodd : v.toNat % 2 = 1 := by
        simpa [BitVec.getLsbD, Nat.testBit_zero] using hv
      have hrun : exec (.fwreadyWrite v) s = .next (finishSwitch s) :=
        congrArg Host.Outcome.next ((cfgWrite_fwready hl).trans (readyOp_in_time h3 hd ho hodd))
      exact ⟨_, hrun, rfl, finishSwitch_mslot hwf⟩
    case late =>
      intro ho
      have hrevert : exec .fwReadyTimeout s = .next _ := congrArg Host.Outcome.next (revertSwitch_overdue ho)
      refine ⟨⟨_, hrevert, rfl, rfl⟩, fun hl => ?_⟩
      have hrun : exec (.fwreadyWrite v) s = .next (readyOp s v.toNat) := congrArg Host.Outcome.next (cfgWrite_fwready hl)
      exact ⟨_, hrun, readyOp_late ho⟩
  case spdm =>
    intro s host i off len code nonce answers all
    have answer : ∀ {r r'}, r = r' → Host.Outcome.next (spdmAnswer s host r) = (.next (s.emit (.spdm host r')) : Out) :=
      fun e => by rw [e, spdmAnswer]
    refine ⟨rfl, rfl, rfl, rfl, rfl, rfl, fun h1 h16 => answer ?one, rfl, rfl, fun h17 hall => answer ?none,
      fun h0 => ⟨answer (if_neg h0), answer (if_neg h0)⟩, rfl⟩
    case one =>
      have hslot := filter_numbered (fun k => SMap.get 0#512 s.cfg.mslot k) h1 h16
      rw [if_neg (by omega), if_neg (by omega), if_pos h16, measurementSlots, hslot]
    case none => rw [if_neg hall, if_neg (by omega), if_neg (by omega)]
end

section
/-! Host requests and service calls (R56, R58, R62 to R65, R286): what the service firmware does with the next request and
with the call at the head of a ring, then the settlement of O50. -/

namespace Sys2Proof.Machine

variable {s s1 : State} {n v t k : Nat} {r : BitVec 512} {test : Nat → Bool}

/-! ### Requests (R56, R58) -/

/-- The next request, of a TYPE that is asked for, is served; a slot that breaks a rule ends with status 2 (R58). -/
theorem onRequest_next (h : nextRequest s = some n) (hslot : requestSlot s n = (v, s1)) (ht : test (requestType v) = true)
    (f : Nat → Nat → State → State) :
    onRequest s test f = if requestBad v n = true then finishRequest s1 n 2 0 else f n v s1 := by
  have hno : ¬ (!test (requestType v)) = true := by simp [ht]
  simp only [onRequest, h, hslot]
  exact if_neg hno

theorem onRequest_good (h : nextRequest s = some n) (hslot : requestSlot s n = (v, s1)) (hb : requestBad v n = false)
    (ht : test (requestType v) = true) (f : Nat → Nat → State → State) : onRequest s test f = f n v s1 := by
  rw [onRequest_next h hslot ht, if_neg (Bool.eq_false_iff.mp hb)]

/-! ### Calls (R62 to R65) -/

/-- The call at the head of a ring raises CALLHEAD, and its function runs (R63, R64). -/
theorem onCall_head (h : headCall s t = some (k, r)) (ht : test (callFunc r) = true)
    (f : Nat × Nat × Nat → BitVec 512 → State → State) :
    onCall t s test f = f (callOwnerOf s t k) r (partAdd s t 10 1) := by
  simp [onCall, h, ht]

/-- A rewind freezes its caller's context with the target noted, where no rewind of it is in progress (R286). -/
theorem rewindCall_head {func l tn : Nat} {target : LEntry → BitVec 512 → Nat} {force : BitVec 512 → Bool}
    (h : headCall s t = some (k, r)) (hf : callFunc r = func) (hb : rewindBusy s t = false)
    (ho : contextOwner (partAdd s t 10 1) (callOwnerOf s t k) = some (l, tn)) :
    rewindCall t s func target force =
      let s1 := partAdd s t 10 1
      let e := s1.entry l
      freezeLaunch (s1.setEntry l { e with rw := some (target e r, force r, some (tn, callReply r)) }) l false := by
  have hcall := fun f => onCall_head (test := (· == func)) h (by simp [hf]) f
  rw [rewindCall, if_neg (by simp [hb]), hcall]
  simp only [ho]

end Sys2Proof.Machine

open Sys2Proof Sys2Proof.Machine

/-- Settles O50: a request or call runs the function of its TYPE or FUNC, which `onRequest` and `onCall` hand the slot or the
record to. -/
theorem requestsAndCallsAreServed : Obligations.RequestsAndCallsAreServed := by
  unfold Obligations.RequestsAndCallsAreServed
  refine ⟨?requests, ?calls⟩
  case requests =>
    intro s n hn v s1 handle
    have hslot : requestSlot s n = (v, s1) := rfl
    clear_value v s1
    refine ⟨fun hb => ⟨fun h0 => ?nop, fun code h s2 h1 ha => ?launch, fun h2 hg => ?cancel, fun h2 hg => ?stale⟩,
      fun hb ht => ?bad⟩
    case nop =>
      have hrun : exec .requestNop s = .next (onRequest s _ _) := rfl
      rw [hrun, onRequest_good hn hslot hb (by simp [h0])]
    case launch =>
      have hrun : exec .requestLaunch s = .next (onRequest s _ _) := rfl
      rw [hrun, onRequest_good hn hslot hb (by simp [h1]), ha]
    case cancel =>
      have hrun : exec .requestCancel s = .next (onRequest s _ _) := rfl
      rw [hrun, onRequest_good hn hslot hb (by simp [h2])]
      exact congrArg Host.Outcome.next (if_neg (not_not.mpr hg))
    case stale =>
      have hrun : exec .requestCancel s = .next (onRequest s _ _) := rfl
      rw [hrun, onRequest_good hn hslot hb (by simp [h2])]
      exact congrArg Host.Outcome.next (if_pos hg)
    case bad =>
      have hrun : exec .requestNop s = .next (onRequest s _ _) := rfl
      rw [hrun, onRequest_next hn hslot (by simpa using ht), if_pos hb]
  case calls =>
    intro s t k r hh s1 o rewinds
    refine ⟨fun h0 => ?null, fun h1 l tn hb ho => ?step, fun h2 l tn hb ho => ?target, fun h20 => ?log, fun hu => ?undefined,
      fun h10 hroom => ?forward, fun f hf => ?reply⟩
    case null => exact congrArg Host.Outcome.next (onCall_head hh (by simp [h0]) _)
    case step => exact congrArg Host.Outcome.next (rewindCall_head hh h1 hb ho)
    case target => exact congrArg Host.Outcome.next (rewindCall_head hh h2 hb ho)
    case log => exact congrArg Host.Outcome.next (onCall_head hh (by simp [h20]) _)
    case undefined => exact congrArg Host.Outcome.next (onCall_head hh (by simpa using hu) _)
    case forward =>
      have hfull : ¬ 256 ≤ ownCounter s 0 2 - ownCounter s 0 3 := by omega
      have hrun : exec (.callHostFwd t) s = .next _ :=
        congrArg Host.Outcome.next ((if_neg hfull).trans (onCall_head hh (by simp [h10]) _))
      exact ⟨_, hrun, _, rfl, rfl⟩
    case reply =>
      have hrun : exec .hostFwdReply s = .next (match answered s with | none => s | some f => _) := rfl
      rw [hrun, hf]
end

section
/-! Accesses to memory, to counters and to the regions that a launch holds, and the taking of an exception, reach no register
of CFGWIN but those of the error log and of the interrupt waiters (R61, R188, R245, R260, R268). -/

namespace Sys2Proof.Machine

variable {α : Type} {s t : State}

theorem State.registers_ite {c : Prop} [Decidable c] {u : State} (ht : t.registers = s.registers)
    (hu : u.registers = s.registers) : (if c then t else u).registers = s.registers := by
  split
  · exact ht
  · exact hu

/-! ### Lines and slots -/

@[simp] theorem sendPeer_registers (n k r) : (sendPeer s n k r).registers = s.registers := by
  unfold sendPeer
  split <;> rfl

@[simp] theorem homeFix_registers (pa k data tag) : (homeFix s pa k data tag).registers = s.registers := by
  unfold homeFix
  split <;> simp

@[simp] theorem spoilLine_registers (pa k) : (spoilLine s pa k).2.registers = s.registers := homeFix_registers pa k _ _

@[simp] theorem devicePoison_registers (pa) : (devicePoison s pa).2.registers = s.registers := by
  unfold devicePoison
  split <;> rfl

@[simp] theorem storeRead_registers (pa k) : (storeRead s pa k).2.registers = s.registers := by
  dsimp only [storeRead]
  split
  · simp
  · split <;> simp

@[simp] theorem homeRead_registers (pa k) : (homeRead s pa k).2.registers = s.registers := by
  unfold homeRead
  split <;> simp

@[simp] theorem peerRead_registers (n pa) : (peerRead s n pa).2.registers = s.registers := by
  dsimp only [peerRead]
  split <;> simp

@[simp] theorem slotRead_registers (key) : (slotRead s key).2.registers = s.registers := by
  unfold slotRead slotMiss
  split
  · rfl
  · split
    · rfl
    · dsimp only
      split <;> simp

@[simp] theorem lineWrite_registers (pa k w b data tag) : (lineWrite s pa k w b data tag).registers = s.registers := by
  unfold lineWrite
  split <;> simp

@[simp] theorem hostWrite_registers (pa data vc) : (hostWrite s pa data vc).registers = s.registers := by
  unfold hostWrite
  generalize 64 = n
  split <;> rfl

@[simp] theorem writeLine_registers (pa k w b data tag) : (writeLine s pa k w b data tag).registers = s.registers := by
  unfold writeLine
  split
  · exact hostWrite_registers _ _ _
  · split <;> simp
  · rfl
  · rfl
  · exact lineWrite_registers _ _ _ _ _ _

/-! ### Regions that a launch holds -/

@[simp] theorem heldRead_registers (pa k) : (heldRead s pa k).2.registers = s.registers := by
  unfold heldRead
  split <;> simp

@[simp] theorem heldWrite_registers (pa k mask data) : (heldWrite s pa k mask data).registers = s.registers := by
  unfold heldWrite writeBits
  split
  · split
    · rfl
    · split <;> simp
  · simp

@[simp] theorem heldPut_registers (l va n v) : (heldPut s l va n v).registers = s.registers := by
  dsimp only [heldPut]
  split
  · rfl
  · split
    all_goals
      split
      · exact heldWrite_registers _ _ _ _
      · exact (heldWrite_registers _ _ _ _).trans (heldRead_registers _ _)

@[simp] theorem heldPutLines_registers (l n va v) : (heldPutLines l n s va v).registers = s.registers := by
  induction n generalizing s va v with
  | zero => rfl
  | succ n ih =>
    dsimp only [heldPutLines]
    split
    · rfl
    · exact (ih _ _).trans (heldWrite_registers _ _ _ _)

@[simp] theorem areaPut_registers (l va n v) : (areaPut l s va n v).registers = s.registers := heldPutLines_registers _ _ _ _

@[simp] theorem areaPuts_registers (l base ps) : (areaPuts l base ps s).registers = s.registers := by
  induction ps generalizing s with
  | nil => rfl
  | cons p ps ih =>
    dsimp only [areaPuts]
    exact (ih).trans (State.registers_ite (heldPutLines_registers _ _ _ _) (heldPut_registers _ _ _ _))

@[simp] theorem putSfrq_registers (l base g) : (putSfrq l base g s).registers = s.registers := areaPuts_registers _ _ _

/-! ### Counters -/

@[simp] theorem hostCounter_registers (r pa op) : (hostCounter s none r pa op).2.registers = s.registers := by
  dsimp only [hostCounter]
  split
  · split <;> rfl
  · split <;> rfl
  · rfl

@[simp] theorem slotOp_add_registers (n k d) : (slotOp s none n k (.add d)).2.registers = s.registers := by
  rcases e : slotRead s (slotKey n k) with ⟨_ | v, s1⟩
  all_goals
    have h := State.registers_pair (slotRead_registers (slotKey n k)) e
    simp [slotOp, e, h]

@[simp] theorem farAdd_registers (tower priv asid r d) : (farAdd s tower priv asid r d).2.registers = s.registers := by
  dsimp only [farAdd]
  split
  · rfl
  · split
    · rfl
    · rfl
    · split
      · rfl
      · split <;> next e => exact State.registers_pair (slotOp_add_registers _ _ _) e
    · exact hostCounter_registers _ _ _
    · split
      · exact logError_registers _ _ _ _ _ _
      · split <;> simp

@[simp] theorem counterTouch_registers (r) : (counterTouch s r).registers = s.registers := by
  unfold counterTouch
  split
  · exact slotRead_registers _
  · rfl

/-! ### The end of a launch, and exceptions (R83, R86, R260) -/

@[simp] theorem clearMarks_registers (l) : (clearMarks s l).registers = s.registers := rfl

@[simp] theorem freeEntry_registers (l) : (freeEntry s l).registers = s.registers := by
  dsimp only [freeEntry]
  split
  · rfl
  · split
    · simp
    · split
      · split <;> simp
      · simp

@[simp] theorem settleEntry_registers (l) : (settleEntry s l).registers = s.registers := by
  have hread : ∀ c : Prop, ∀ [Decidable c] r, (if c then counterTouch s r else s).registers = s.registers :=
    fun _ _ r => State.registers_ite (counterTouch_registers r) rfl
  exact State.registers_ite ((freeEntry_registers l).trans (hread _ _)) (hread _ _)

@[simp] theorem killLaunch_registers (l) : (killLaunch s l).registers = s.registers := settleEntry_registers l

/-- Taking an exception with nothing in flight writes to the context save area, and may end the launch (R260, R264). -/
theorem takeTrap_registers (hl : s.h.loads = []) (hst : s.h.stores = []) (c : Cause) :
    (takeTrap s c).registers = s.registers := by
  have hload : settleLoads s false = (none, s) := by rw [settleLoads, hl]; rfl
  have hstore : settleStores s = s := by rw [settleStores, hst]; rfl
  unfold takeTrap
  split
  next e =>
  extract_lets s2 p both h h1 fatal h2 s3 base s4 h3
  have hs2 : s2 = s := by
    cases hload.symm.trans e
    exact hstore
  have hs3 : s3.registers = s.registers := by
    dsimp only [s3]
    rw [hs2]
    exact dropWaiter_registers _
  have hs4 : s4.registers = s.registers := by
    dsimp only [s4]
    split
    · exact hs3
    · split <;> simp [hs3]
  clear_value s4
  split
  · rw [hs2]
  · split
    · exact hs4
    · split
      · exact hs4
      · exact (killLaunch_registers _).trans hs4

end Sys2Proof.Machine
end

section
/-! SCALL, SCALL.NB and WMARK (R62 to R64, R277, R278, R446, R447): what publishing a call leaves, how a blocking call waits
for its reply, then the settlement of O45. -/

namespace Sys2Proof.Machine

variable {s t : State} {w tower n k key : Nat} {d a b : BitVec 6} {func block : Nat}

/-! ### Slots that the counter cache holds (R238) -/

/-- The counter cache holds a slot. -/
def HeldSlot (s : State) (key : Nat) : Prop := (SMap.get none s.cc key).isSome = true

/-- Reading a slot that is held notes its use (R238). -/
theorem slotRead_held (h : HeldSlot s key) :
    ∃ v, slotRead s key = (some v, { s with ccUse := SMap.set 0 s.ccUse key s.cycle }) := by
  obtain ⟨e, he⟩ := Option.isSome_iff_exists.mp h
  exact ⟨e.value, by simp only [slotRead, he]⟩

/-- What an operation on held slots leaves as it was: memory, the units, the registers of CFGWIN that no wake reaches, and the
slots that are held. -/
structure KeepsHeld (s t : State) : Prop where
  mem : t.mem = s.mem
  units : t.units = s.units
  registers : t.registers = s.registers
  wf : SMap.wf none s.cc = true → SMap.wf none t.cc = true
  held : SMap.wf none s.cc = true → ∀ key, HeldSlot s key → HeldSlot t key

theorem KeepsHeld.trans {u : State} (h : KeepsHeld s t) (g : KeepsHeld t u) : KeepsHeld s u where
  mem := g.mem.trans h.mem
  units := g.units.trans h.units
  registers := g.registers.trans h.registers
  wf hwf := g.wf (h.wf hwf)
  held hwf key hk := g.held (h.wf hwf) key (h.held hwf key hk)

/-- A change beside the counter cache, memory, the units and CFGWIN. -/
theorem KeepsHeld.of_eq (hm : t.mem = s.mem) (hu : t.units = s.units) (hr : t.registers = s.registers) (hc : t.cc = s.cc) :
    KeepsHeld s t where
  mem := hm
  units := hu
  registers := hr
  wf hwf := hc ▸ hwf
  held _ key hk := by rwa [HeldSlot, hc]

theorem KeepsHeld.addSlot (s : State) (key : Nat) (d : Word) : KeepsHeld s (addSlot s key d) where
  mem := addSlot_mem key d
  units := addSlot_units key d
  registers := addSlot_registers key d
  wf hwf := by rw [addSlot_cc]; exact SMap.wf_set hwf
  held hwf j hj := by
    rw [HeldSlot, addSlot_cc, putSlot, SMap.get_set hwf]
    split
    · rfl
    · exact hj

/-- A unit's add to a counter that is held (R245). -/
theorem KeepsHeld.partAdd (h : HeldSlot s (slotKey tower n)) (d : Word) : KeepsHeld s (partAdd s tower n d) := by
  obtain ⟨v, hread⟩ := slotRead_held h
  simp only [Machine.partAdd, hread]
  refine .trans ?_ (.addSlot _ _ _)
  exact .of_eq rfl rfl rfl rfl

/-- A wait on a slot that is held is satisfied, registered or turned away: its slot does not fault (R245). -/
theorem registerWaiter_held {thr : Word} {who : WaiterId} (h : HeldSlot s (slotKey tower n)) :
    KeepsHeld s (registerWaiter s tower n thr who).2 ∧ (registerWaiter s tower n thr who).1 ≠ .bad := by
  obtain ⟨v, hread⟩ := slotRead_held h
  simp only [registerWaiter, hread]
  split
  · exact ⟨.of_eq rfl rfl rfl rfl, by simp⟩
  · split
    · exact ⟨.of_eq rfl rfl rfl rfl, by simp⟩
    · exact ⟨.of_eq rfl rfl rfl rfl, by simp⟩

/-! ### Publishing a call (R62, R63) -/

/-- The call ring of the caller's tower with its record published (R62, log 147). -/
def calledRing (s : State) (func block : Nat) : SMap (BitVec 512) :=
  let ticket := ownCounter s s.h.id.tower 8
  SMap.set 0#512 s.cfg.callring (256 * s.h.id.tower + ticket % 256) (callRecord s.h ticket func block)

theorem State.registers_callring (e : t.registers = s.registers) : t.cfg.callring = s.cfg.callring :=
  (congrArg Cfg.callring e :)

theorem State.registers_node (e : t.registers = s.registers) : t.node = s.node :=
  (congrArg (fun c : Cfg => c.znode.toNat) e :)

theorem State.units_h (e : t.units = s.units) : t.h = s.h := (congrArg (fun u => u.2.1) e :)

/-- Publishing a call puts its record in the slot of its ticket; memory, the harts and the slots that are held stay. -/
theorem publish_keeps (hwf : SMap.wf none s.cc = true) (h8 : HeldSlot s (slotKey s.h.id.tower 8))
    (h9 : HeldSlot s (slotKey s.h.id.tower 9)) :
    (publish s func block).cfg.callring = calledRing s func block ∧ (publish s func block).mem = s.mem ∧
      (publish s func block).units = s.units ∧ (publish s func block).node = s.node ∧
      ∀ key, HeldSlot s key → HeldSlot (publish s func block) key := by
  unfold publish
  extract_lets tw ticket slot owner s1 c s2
  have k1 : KeepsHeld s s1 := .partAdd h8 1
  have hh : s1.h = s.h := State.units_h k1.units
  have h9' : HeldSlot s2 (slotKey tw 9) := k1.held hwf _ h9
  have k2 : KeepsHeld s2 (partAdd s2 tw 9 1) := .partAdd h9' 1
  refine ⟨?_, k2.mem.trans k1.mem, k2.units.trans k1.units, ?_, fun key hk => k2.held (k1.wf hwf) key (k1.held hwf key hk)⟩
  · rw [State.registers_callring k2.registers]
    simp only [s2, State.registers_callring k1.registers, hh]
    rfl
  · have hnode : s1.node = s.node := State.registers_node k1.registers
    exact (State.registers_node k2.registers).trans hnode

/-! ### Waiting for the reply (R64, R447) -/

theorem noteWrite_registers (d : Nat) : (s.noteWrite d).registers = s.registers := by
  unfold State.noteWrite
  split
  · split <;> rfl
  · rfl

/-- Writing a scalar register reaches no register of CFGWIN, and no memory. -/
theorem writeReg_registers (v : Word) : (s.writeReg d v).registers = s.registers := by
  unfold State.writeReg
  split
  · obtain ⟨u, e⟩ := advance_eq_setCur ((s.noteWrite d.toNat).setReg d.toNat v)
    rw [e, State.registers_of_cfg (State.setCur_cfg _ u), State.registers_of_cfg (State.setReg_cfg _ _ _)]
    exact noteWrite_registers _
  · rfl

theorem writeReg_mem (v : Word) : (s.writeReg d v).mem = s.mem := by
  unfold State.writeReg
  split
  · obtain ⟨u, e⟩ := advance_eq_setCur ((s.noteWrite d.toNat).setReg d.toNat v)
    rw [e, State.setCur_mem, State.setReg_mem]
    exact (congrArg State.mem (State.noteWrite_frame s d.toNat) :)
  · rfl

theorem writeReg_onX (v : Word) : (s.writeReg d v).onX = s.onX := by
  unfold State.writeReg
  split
  · obtain ⟨u, e⟩ := advance_eq_setCur ((s.noteWrite d.toNat).setReg d.toNat v)
    rw [e, State.setCur_onX, State.setReg_onX]
    exact (congrArg State.onX (State.noteWrite_frame s d.toNat) :)
  · rfl

theorem waitOn_registers (x : Wait) : (waitOn x s).registers = s.registers := State.registers_of_cfg (State.setCur_cfg _ _)

theorem waitOn_mem (x : Wait) : (waitOn x s).mem = s.mem := State.setCur_mem _ _

/-- Reading the reply area reaches no unit and no register of CFGWIN (R262). -/
theorem replyRead_keeps (off n : Nat) :
    (replyRead s off n).2.registers = s.registers ∧ (replyRead s off n).2.units = s.units := by
  unfold replyRead
  split
  · exact ⟨rfl, rfl⟩
  · exact ⟨heldRead_registers _ _, heldRead_units _ _⟩

/-- A blocking call ends with the status of its reply area, or with POISONED where that has lost it (R64, R447). -/
theorem endCall_keeps (d : Nat) (hl : s.h.loads = []) (hst : s.h.stores = []) :
    (endCall d s).registers = s.registers ∧ (s.h.launch = none → (endCall d s).mem = s.mem) := by
  obtain ⟨hreg, hunits⟩ := replyRead_keeps (s := s) 0 2
  have hh := State.units_h hunits
  unfold endCall
  split
  · next s1 e =>
    have hs1 : (replyRead s 0 2).2 = s1 := by rw [e]
    rw [hs1] at hreg hh
    refine ⟨?_, fun hn => ?_⟩
    · unfold raiseReply raise
      split
      · exact hreg
      · exact (takeTrap_registers (hh ▸ hl) (hh ▸ hst) _).trans hreg
    · simp [replyRead, hn] at e
  · next v s1 e =>
    have hs1 : (replyRead s 0 2).2 = s1 := by rw [e]
    rw [hs1] at hreg
    refine ⟨(writeReg_registers _).trans hreg, fun hn => (writeReg_mem _).trans ?_⟩
    have hsame : replyRead s 0 2 = (some 0, s) := by simp [replyRead, hn]
    rw [← hs1, hsame]

/-- A blocking call whose reply counter is held in the counter cache ends or waits (R64, R447). -/
theorem waitReply_keeps {reply thr : Word} (hl : s.h.loads = []) (hst : s.h.stores = [])
    (href : refOf s reply = .slot n k) (hheld : HeldSlot s (slotKey n k)) :
    (waitReply d reply thr s).registers = s.registers ∧ (s.h.launch = none → (waitReply d reply thr s).mem = s.mem) := by
  obtain ⟨keep, hbad⟩ := registerWaiter_held (thr := thr) (who := .stream s.h.id) hheld
  rcases e : registerWaiter s n k thr (.stream s.h.id) with ⟨res, s1⟩
  rw [e] at keep hbad
  have hh : s1.h = s.h := State.units_h keep.units
  simp only [waitReply, href, e]
  cases res with
  | now v =>
    obtain ⟨hreg, hmem⟩ := endCall_keeps (s := s1) d.toNat (hh ▸ hl) (hh ▸ hst)
    exact ⟨hreg.trans keep.registers, fun hn => (hmem (hh ▸ hn)).trans keep.mem⟩
  | queued => exact ⟨(waitOn_registers _).trans keep.registers, fun _ => (waitOn_mem _).trans keep.mem⟩
  | full => exact ⟨(waitOn_registers _).trans keep.registers, fun _ => (waitOn_mem _).trans keep.mem⟩
  | bad => exact absurd rfl hbad

/-! ### The call instructions (R447) -/

/-- With its argument block read, a call instruction goes on with it. -/
theorem callInstr_block {nb : Bool} {v : Nat} (hs : ReadyA s w) (hb : b ≠ 0) (ha : (s.reg b.toNat).toNat % 16 = 0)
    (hv : scalarLoad s (s.reg b.toNat) 48 = (.ok v, s)) :
    callInstr nb d a b s = callOp nb d ((s.reg a.toNat).toNat % 65536) v s := by
  unfold callInstr
  rw [ordered_ready hs]
  simp only [hb, ha, hv, ne_eq, not_true_eq_false, if_false]

/-- A call whose ring is full, its REPLY being one that the caller may use, gives 4 or waits (R63, R447). -/
theorem callOp_full {nb : Bool} (hr : replyOk s (BitVec.ofNat 64 (block / 2 ^ 256)) = true)
    (hb : nb = false → s.cur.begun = false) (hf : ringFull s s.h.id.tower = true) :
    callOp nb d func block s = if nb then s.writeReg d 4 else waitSpace s := by
  have hno : (!nb && s.cur.begun) = false := by cases nb <;> simp_all
  simp only [callOp, hr, hno, hf, Bool.not_true, Bool.false_eq_true, if_false, if_true]

/-- A call whose ring has room is published; one that blocks waits for its reply (R63, R447). -/
theorem callOp_room {nb : Bool} (hr : replyOk s (BitVec.ofNat 64 (block / 2 ^ 256)) = true)
    (hb : nb = false → s.cur.begun = false) (hf : ringFull s s.h.id.tower = false) :
    callOp nb d func block s =
      if nb then (publish s func block).writeReg d 0
      else waitReply d (BitVec.ofNat 64 (block / 2 ^ 256)) (BitVec.ofNat 64 (block / 2 ^ 320)) (publish s func block) := by
  have hno : (!nb && s.cur.begun) = false := by cases nb <;> simp_all
  simp only [callOp, hr, hno, hf, Bool.not_true, Bool.false_eq_true, if_false]

/-- A REPLY that the caller may use names a counter of this part. -/
theorem slot_of_replyOk {reply : Word} (hr : replyOk s reply = true) : ∃ n k, refOf s reply = .slot n k := by
  unfold replyOk at hr
  split at hr
  · next n k e => exact ⟨n, k, e⟩
  · cases hr

theorem refOf_of_node (e : t.node = s.node) (r : Word) : refOf t r = refOf s r := by
  unfold refOf
  rw [e]

theorem canWrite_ready (hs : ReadyA s w) : s.canWrite = true := by
  obtain ⟨hx, -, hload, -, -⟩ := hs
  simp [State.canWrite, hx, hload]

theorem atWord_ready (hs : ReadyA s w) : AtWord s w := by
  obtain ⟨hx, hpos, -, -, -⟩ := hs
  simp [AtWord, State.cur, hx, hpos]

theorem cur_onA (hx : s.onX = false) : s.cur = s.h.a := by simp [State.cur, hx]

/-- A register write after an operation that leaves the harts moves the stream on as from the state before (R117). -/
theorem writeReg_after (hs : ReadyA s w) (hu : t.units = s.units) (v : Word) :
    (t.writeReg d v).h.a.regs = (s.h.a.setReg d.toNat v).regs ∧ Passed s (t.writeReg d v) w := by
  have hh : t.h = s.h := State.units_h hu
  have hx : t.onX = s.onX := State.units_onX hu
  have hcur : t.cur = s.cur := by rw [State.cur, hx, hh, State.cur]
  have ht : ReadyA t w := by rwa [ReadyA, hx, hh]
  obtain ⟨-, -, hpass, hregs⟩ := writeReg_wrote (atWord_ready ht) (canWrite_ready ht) d v
  unfold Passed at hpass ⊢
  have hoff : (t.writeReg d v).onX = false := (writeReg_onX v).trans ht.1
  rw [cur_onA hoff, cur_onA ht.1, hh] at hregs
  rw [hcur, hh] at hpass
  exact ⟨hregs, hpass⟩

/-! ### WMARK (R277, R278, R446) -/

/-- With nothing in flight an instruction waits for no load. -/
theorem confirmed_ready (hs : ReadyA s w) (f : State → State) : confirmed s f = f s := by
  obtain ⟨-, -, hload, -, -⟩ := hs
  simp [confirmed, settleLoads, settleFrom, hload]

/-- With nothing in flight an instruction waits for no store. -/
theorem drained_ready (hs : ReadyA s w) (f g : State → State) : drained s f g = g s := by
  obtain ⟨-, -, -, hstore, hsfrq⟩ := hs
  simp [drained, settleStores, settleStoresFrom, hstore, hsfrq]

/-- WMARK of a hart without a launch reads its window number (R446). -/
theorem execWmark_service (hs : ReadyA s w) (hth : s.h.th = false) (hn : s.h.launch = none) :
    exec (.wmark d) s = .next (s.writeReg d (s.h.win.setWidth 64)) := by
  have hno : ¬ s.h.th = true := by simp [hth]
  simp only [exec, execWmark, inA_ready hs, noHandler, if_neg hno, confirmed_ready hs, hn]

/-- WMARK of a task, outside a handler and with nothing in flight (R277). -/
theorem execWmark_task {l : Nat} (hs : ReadyA s w) (hth : s.h.th = false) (hl : s.h.launch = some l) :
    exec (.wmark d) s = .next (wmarkOp d l s) := by
  have hno : ¬ s.h.th = true := by simp [hth]
  simp only [exec, execWmark, inA_ready hs, noHandler, if_neg hno, confirmed_ready hs, hl]

end Sys2Proof.Machine

open Sys2Proof Sys2Proof.Machine

/-- Settles O45: a call publishes its record by two adds to counters that are held, which reach neither memory nor the
harts, and what follows it reaches no call ring; WMARK is the model's, with nothing in flight. -/
theorem serviceCallsAndMarks : Obligations.ServiceCallsAndMarks := by
  unfold Obligations.ServiceCallsAndMarks
  refine ⟨?call, ?wmark⟩
  case call =>
    intro s w d a b v hs hb ha hv hr tw ticket ring held
    have ⟨hx, _, hload, hstore, _⟩ := hs
    have hcur : s.cur = s.h.a := cur_onA hx
    have hblock : ∀ nb, callInstr nb d a b s = callOp nb d ((s.reg a.toNat).toNat % 65536) v s := fun _ =>
      callInstr_block hs hb ha hv
    have hnb : exec (.scallNb d a b) s = .next (callOp true d ((s.reg a.toNat).toNat % 65536) v s) := by
      rw [exec, execScallNb, inA_ready hs, hblock]
    have hscall : exec (.scall d a b) s = .next (callOp false d ((s.reg a.toNat).toNat % 65536) v s) := by
      rw [exec, execScall, inA_ready hs, hblock]
    have hfirst : true = false → s.cur.begun = false := fun h => absurd h (by decide)
    refine ⟨fun hroom hwf h8 h9 => ?published, fun hfull => ⟨?refused, fun hbeg => ?waits⟩⟩
    case published =>
      obtain ⟨hring, hmem, hunits, hnode, hkeep⟩ :=
        publish_keeps (func := (s.reg a.toNat).toNat % 65536) (block := v) hwf h8 h9
      refine ⟨?nonblocking, fun hbeg hreply => ?blocking⟩
      case nonblocking =>
        rw [callOp_room hr hfirst hroom, if_pos rfl] at hnb
        obtain ⟨hregs, hpass⟩ := writeReg_after (d := d) hs hunits 0
        exact ⟨_, hnb, (State.registers_callring (writeReg_registers 0)).trans hring, hregs, hpass, (writeReg_mem 0).trans hmem⟩
      case blocking =>
        have hh := State.units_h hunits
        obtain ⟨n, k, href⟩ := slot_of_replyOk hr
        rw [callOp_room hr (fun _ => hcur ▸ hbeg) hroom, if_neg (by decide)] at hscall
        obtain ⟨hregs, hsame⟩ := waitReply_keeps (d := d) (thr := BitVec.ofNat 64 (v / 2 ^ 320)) (hh ▸ hload)
          (hh ▸ hstore) ((refOf_of_node hnode _).trans href) (hkeep _ (hreply n k href))
        exact ⟨_, hscall, (State.registers_callring hregs).trans hring, fun hn => (hsame (hh ▸ hn)).trans hmem⟩
    case refused =>
      rw [callOp_full hr hfirst hfull, if_pos rfl] at hnb
      exact ⟨_, hnb, writeReg_wrote (atWord_ready hs) (canWrite_ready hs) d 4⟩
    case waits => rw [hscall, callOp_full hr (fun _ => hcur ▸ hbeg) hfull, if_neg (by decide)]
  case wmark =>
    intro s w d l hs hth
    have hcur : s.cur = s.h.a := cur_onA hs.1
    refine ⟨fun hn => ?service, fun hl hb hfull hout => ?snapshot, fun hl hb harr => ?taken, fun hl hb hfull => ?full⟩
    case service => exact ⟨_, execWmark_service hs hth hn, writeReg_wrote (atWord_ready hs) (canWrite_ready hs) d _⟩
    case snapshot =>
      rw [execWmark_task hs hth hl, wmarkOp, if_neg (by simp [hcur, hb]), if_neg (by simp [hfull]), drained_ready hs,
        if_neg (by simp [hout])]
    case taken =>
      have hrun := execWmark_task (d := d) hs hth hl
      rw [wmarkOp, if_pos (hcur ▸ hb), if_neg (by simpa using harr)] at hrun
      have hready : ReadyA { s with h := { s.h with win := (s.entry l).undo.win } } w := hs
      exact ⟨_, hrun, writeReg_wrote (atWord_ready hready) (canWrite_ready hready) d _⟩
    case full =>
      rw [execWmark_task hs hth hl, wmarkOp, if_neg (by simp [hcur, hb]), if_pos hfull, raise_onA hs.1]
end

section
/-! The data CSRs of the service harts (R81, R92, R136, R189, R241, R323): one lemma for each table that a write changes,
then the settlement of O42. -/

namespace Sys2Proof.Machine

variable {s : State}

/-! ### Keys and peers -/

theorem keyhiSet_selected (h : s.h.keyidx ≠ 0) (v : Word) : keyhiSet s v = { s with
    keys := SMap.set (none, 0) s.keys s.h.keyidx.toNat (some (v ++ s.keylo), keyVersion s s.h.keyidx.toNat + 1) } := by
  have hk : s.h.keyidx.toNat ≠ 0 := fun e => h (BitVec.eq_of_toNat_eq e)
  have hword : BitVec.ofNat 128 (v.toNat * 2 ^ 64 + s.keylo.toNat) = v ++ s.keylo := by
    apply BitVec.eq_of_toNat_eq
    rw [BitVec.toNat_append, ← Nat.shiftLeft_add_eq_or_of_lt s.keylo.isLt, Nat.shiftLeft_eq, BitVec.toNat_ofNat]
    exact Nat.mod_eq_of_lt (by omega)
  simp only [keyhiSet, if_neg hk, hword]

/-- A counter group entry's key is the index that selects it. -/
theorem cgKey_eq (h : Hart) : h.cgKey = h.cgidx.toNat := Nat.div_add_mod _ 256

/-- A PEERMAP entry as a write makes it: NODE below bit 12, and its other field (R136). -/
theorem peer_entry_fields {node : Nat} (hn : node < 4096) (b : Bool) :
    let e := BitVec.ofNat 64 (node + 4096 * b2n b)
    e.toNat % 4096 = node ∧ e.getLsbD 12 = b ∧ e.toNat < 8192 := by
  have hval : (BitVec.ofNat 64 (node + 4096 * b2n b)).toNat = node + 4096 * b2n b := by
    cases b <;> simp [b2n] <;> omega
  refine ⟨by rw [hval]; omega, ?_, by rw [hval]; cases b <;> simp [b2n] <;> omega⟩
  rw [BitVec.getLsbD, hval, Nat.testBit_eq_decide_div_mod_eq]
  cases b <;> simp [b2n] <;> omega

theorem get_peerdatSet_selected (h : SMap.wf 0#64 s.peermap = true) (v : Word) :
    SMap.get 0#64 (peerdatSet s v).peermap s.h.peeridx.toNat =
      BitVec.ofNat 64 ((if v.toNat % 4096 = 0xFFF then (SMap.get 0#64 s.peermap s.h.peeridx.toNat).toNat % 4096
        else v.toNat % 4096) + 4096 * b2n (v.getLsbD 12)) := (SMap.get_set h _).trans (if_pos rfl)

/-! ### Tenants -/

theorem tenQuantum_lt (n : Nat) : tenQuantum n < 2 ^ 16 := Nat.mod_lt _ (by decide)

/-- A TENCFG entry as a write makes it: the fields of the value written, and the QUANTUM given (R81). -/
theorem tenant_entry_fields {n q : Nat} (hq : q < 2 ^ 16) :
    let e := (BitVec.ofNat 64 (n % 32 + 2 ^ 8 * q + 2 ^ 24 * tenAge n + 2 ^ 40 * tenCap n)).toNat
    tenQuantum e = q ∧ tenEn e = tenEn n ∧ tenCeil e = tenCeil n ∧ tenAge e = tenAge n ∧ tenCap e = tenCap n := by
  have hage : tenAge n < 2 ^ 16 := Nat.mod_lt _ (by decide)
  have hcap : tenCap n < 2 ^ 12 := Nat.mod_lt _ (by decide)
  generalize hA : tenAge n = age at hage ⊢
  generalize hC : tenCap n = cap at hcap ⊢
  have hval : (BitVec.ofNat 64 (n % 32 + 2 ^ 8 * q + 2 ^ 24 * age + 2 ^ 40 * cap)).toNat =
      n % 32 + 2 ^ 8 * q + 2 ^ 24 * age + 2 ^ 40 * cap := by
    rw [BitVec.toNat_ofNat]; omega
  simp only [hval, tenQuantum, tenEn, tenCeil, tenAge, tenCap, fieldOf, Nat.shiftRight_eq_div_pow,
    Nat.testBit_eq_decide_div_mod_eq, decide_eq_decide]
  omega

/-- Clipping one tenant's deficits in some towers: those come down to the limit, and every other reads as before (R92). -/
theorem get_clipped {m : SMap Int} (h : SMap.wf 0 m = true) (n : Nat) (g : Int) (ts : List Nat) (k : Nat) :
    SMap.get 0 (ts.foldl (fun m t => SMap.upd 0 m (128 * t + n) fun d => min d g) m) k =
      if ∃ t ∈ ts, k = 128 * t + n then min (SMap.get 0 m k) g else SMap.get 0 m k := by
  induction ts generalizing m with
  | nil => simp
  | cons t ts ih =>
    rw [List.foldl_cons, ih (SMap.wf_upd h), SMap.upd, SMap.get_set h]
    by_cases hk : k = 128 * t + n
    · subst hk
      simp
    · simp [hk]

theorem tendatSet_eq (s : State) (v : Word) : tendatSet s v =
    { s with tencfg := (tendatSet s v).tencfg, deficit := (tendatSet s v).deficit } := rfl

/-- The deficits after a write of TENCFG: those of the tenant that tenidx selects, in every tower, come down to twice its
QUANTUM (R92). -/
theorem get_tendatSet_deficit (h : SMap.wf 0 s.deficit = true) (v : Word) {tw n : Nat} (htw : tw < 8) (hn : n < 128) :
    SMap.get 0 (tendatSet s v).deficit (128 * tw + n) =
      if n = s.h.tenidx.toNat then
        Min.min (SMap.get 0 s.deficit (128 * tw + n)) ((2 * tenQuantum ((tendatSet s v).tenant n) * 65536 : Nat) : Int)
      else SMap.get 0 s.deficit (128 * tw + n) := by
  have hi : s.h.tenidx.toNat < 128 := s.h.tenidx.isLt
  have hsel : (∃ t ∈ List.range 8, 128 * tw + n = 128 * t + s.h.tenidx.toNat) ↔ n = s.h.tenidx.toNat :=
    ⟨fun ⟨t, _, e⟩ => by omega, fun e => ⟨tw, List.mem_range.mpr htw, by rw [e]⟩⟩
  refine (get_clipped h s.h.tenidx.toNat _ (List.range 8) (128 * tw + n)).trans ?_
  simp only [hsel]
  split
  next e => rw [e]; rfl
  next => rfl

/-- The tenants after a write of TENCFG (R81). -/
theorem tendatSet_tenant (h : SMap.wf tencfgReset s.tencfg = true) (v : Word) (k : Nat) :
    (tendatSet s v).tenant k = if k = s.h.tenidx.toNat then
      (BitVec.ofNat 64 (v.toNat % 32 +
        2 ^ 8 * (if tenQuantum v.toNat = 0 then tenQuantum (s.tenant s.h.tenidx.toNat) else tenQuantum v.toNat) +
        2 ^ 24 * tenAge v.toNat + 2 ^ 40 * tenCap v.toNat)).toNat
      else s.tenant k := by
  refine (congrArg BitVec.toNat (SMap.get_set h k)).trans ?_
  split <;> rfl

end Sys2Proof.Machine

open Sys2Proof Sys2Proof.Machine

/-- Settles O42: each write is the model's change of one table at the selected index. -/
theorem serviceCsrWrites : Obligations.ServiceCsrWrites := by
  unfold Obligations.ServiceCsrWrites
  intro s v
  refine ⟨fun h0 => ?keyZero, fun hk => ⟨_, congrArg Host.Outcome.next (keyhiSet_selected hk v), rfl, fun hwf k => ?key⟩, ⟨_, rfl, rfl, ?group⟩,
    ⟨_, rfl, tendatSet_eq s v, fun hwf hd => ⟨?deficits, ?others, ?fields⟩⟩, ⟨_, rfl, rfl, fun hwf => ⟨?peers, ?peer⟩⟩, rfl, ?window⟩
  case keyZero => simp [exec, execKeyhiWrite, keyhiSet, h0]
  case key =>
    rw [SMap.get_set hwf]
    split
    next e => rw [e]
    next => rfl
  case group => rw [← cgKey_eq]; rfl
  case deficits => exact fun tw n htw hn => get_tendatSet_deficit hd v htw hn
  case others => exact fun k hk => (tendatSet_tenant hwf v k).trans (if_neg hk)
  case fields =>
    rw [tendatSet_tenant hwf, if_pos rfl]
    exact tenant_entry_fields (by split <;> exact tenQuantum_lt _)
  case peers => exact fun k hk => (SMap.get_set hwf k).trans (if_neg hk)
  case peer =>
    rw [get_peerdatSet_selected hwf]
    exact peer_entry_fields (by split <;> omega) _
  case window => exact fun s1 h => by simp [exec, execCfgdatWrite, h]
end

section
/-! The end of a task (R83, R86, R97): the Launch Unit's counters and the entry it settles reach no unit, so that the harts that
stay are those beside the one that leaves. What an X-stream that retires leaves as it was, then the settlement of O13 (R353,
R355). -/

namespace Sys2Proof.Machine

variable {s t : State} {w : Nat}

/-! ### Counters of the Launch Unit (R83, R95) -/

@[simp] theorem slotRead_units (key) : (slotRead s key).2.units = s.units := by
  unfold slotRead slotMiss
  split
  · rfl
  · split
    · rfl
    · dsimp only
      split <;> simp

@[simp] theorem counterTouch_units (r) : (counterTouch s r).units = s.units := by
  unfold counterTouch
  split
  · exact slotRead_units _
  · rfl

@[simp] theorem hostCounter_units (r pa op) : (hostCounter s none r pa op).2.units = s.units := by
  dsimp only [hostCounter]
  split
  · split <;> rfl
  · split <;> rfl
  · rfl

@[simp] theorem slotOp_add_units (n k d) : (slotOp s none n k (.add d)).2.units = s.units := by
  rcases e : slotRead s (slotKey n k) with ⟨_ | v, s1⟩
  all_goals
    have h := State.units_pair (slotRead_units (slotKey n k)) e
    simp [slotOp, e, h]

/-- A far add reaches no unit: what it wakes comes later (R245). -/
@[simp] theorem farAdd_units (tower priv asid r d) : (farAdd s tower priv asid r d).2.units = s.units := by
  dsimp only [farAdd]
  split
  · rfl
  · split
    · rfl
    · rfl
    · split
      · rfl
      · split <;> next e => exact State.units_pair (slotOp_add_units _ _ _) e
    · exact hostCounter_units _ _ _
    · split
      · exact logError_units _ _ _ _ _ _
      · split <;> simp

/-! ### Entries of the launch table (R83, R86) -/

@[simp] theorem clearMarks_units (l) : (clearMarks s l).units = s.units := rfl

@[simp] theorem freeEntry_units (l) : (freeEntry s l).units = s.units := by
  dsimp only [freeEntry]
  rw [clearMarks_units, setEntry_units]
  split
  · rfl
  · split
    · simp
    · split
      · split <;> simp
      · simp

theorem State.units_ite {c : Prop} [Decidable c] {u : State} (ht : t.units = s.units) (hu : u.units = s.units) :
    (if c then t else u).units = s.units := by
  split
  · exact ht
  · exact hu

@[simp] theorem settleEntry_units (l) : (settleEntry s l).units = s.units := by
  have hread : ∀ c : Prop, ∀ [Decidable c] r, (if c then counterTouch s r else s).units = s.units :=
    fun _ _ r => State.units_ite (counterTouch_units r) rfl
  exact State.units_ite ((freeEntry_units l).trans (hread _ _)) (hread _ _)

@[simp] theorem quietHeader_units (l) : (quietHeader s l).units = s.units := by
  unfold quietHeader
  split
  · exact heldPutLines_units _ _ _ _
  · rfl

/-! ### A hart leaves its slot (R86, R240) -/

/-- The slots that hold harts, the acting one's first. -/
def State.slots (s : State) : List HartId := s.harts.map fun h => h.id

theorem State.units_slots (e : t.units = s.units) : t.slots = s.slots := by
  rw [State.slots, State.units_harts e, State.slots]

theorem finishWait_id (h : Hart) (d : Nat) (v : Word) : (finishWait h d v).id = h.id := by
  unfold finishWait
  split <;> rfl

theorem endQuarterWait_id (s : State) (gone h : Hart) : (endQuarterWait s gone h).id = h.id := by
  unfold endQuarterWait
  split
  · split
    · split
      · exact finishWait_id _ _ _
      · rfl
    · rfl
  · rfl

@[simp] theorem leaveSlot_slots (s : State) (gone : Hart) : (leaveSlot s gone).slots = s.slots := by
  have hharts : (dropWaiter (dropLeaves s gone.id) (.stream gone.id)).harts = s.harts := by
    rw [dropWaiter_harts, dropLeaves_harts]
  obtain ⟨hh, hrest⟩ := List.cons.inj hharts
  dsimp only [leaveSlot, State.slots, State.harts]
  rw [hh, hrest, List.map_cons, List.map_cons, List.map_map, endQuarterWait_id]
  exact congrArg _ (List.map_congr_left fun h _ => endQuarterWait_id _ _ h)

@[simp] theorem freeSlot_slots (s : State) (l : Nat) : (freeSlot s l).slots = s.dropHart.slots := by
  rw [freeSlot, State.units_slots (settleEntry_units l), State.units_slots (quietHeader_units l), leaveSlot_slots]

/-- The slots that stay where the acting hart's task has ended are those of the others (R86). -/
theorem freeTaskSlot_slots (hrest : s.rest ≠ []) (l : Nat) : (freeTaskSlot s l).slots = s.rest.map fun h => h.id := by
  rw [freeTaskSlot, freeSlot_slots]
  obtain ⟨h, hs, e⟩ := List.exists_cons_of_ne_nil hrest
  have hgone : (disown s l [s.h.tn]).rest = h :: hs := e
  simp [State.dropHart, hgone, State.slots, State.harts, e]

/-! ### Retirement (R126, R129) -/

/-- A hart without its queues and the X-stream's instructions that have not retired. -/
def Hart.unqueued (h : Hart) : Hart := { h with dq := [], qx := ⟨0, [], 0, 0⟩, qa := ⟨0, [], 0, 0⟩, xl := [] }

theorem onQueue_unqueued (h : Hart) (q f g) : (h.onQueue q f g).unqueued = h.unqueued := by
  unfold Hart.onQueue
  split
  · rfl
  · split <;> rfl

theorem commitEntry_unqueued (e : XEntry) (h : Hart) : (commitEntry e h).unqueued = h.unqueued :=
  (foldl_keeps (g := Hart.unqueued) (fun _ _ => onQueue_unqueued _ _ _ _) _ _).trans
    (foldl_keeps (g := Hart.unqueued) (fun _ _ => onQueue_unqueued _ _ _ _) _ _)

/-- Retiring commits queue effects, and nothing else. -/
theorem retireAll_unqueued (h : Hart) : (retireAll h).unqueued = h.unqueued :=
  foldl_keeps (g := Hart.unqueued) (fun _ _ => commitEntry_unqueued _ _) _ _

@[simp] theorem retireAll_a (h : Hart) : (retireAll h).a = h.a := (congrArg Hart.a (retireAll_unqueued h) :)
@[simp] theorem retireAll_x (h : Hart) : (retireAll h).x = h.x := (congrArg Hart.x (retireAll_unqueued h) :)
@[simp] theorem retireAll_mkW (h : Hart) : (retireAll h).mkW = h.mkW := (congrArg Hart.mkW (retireAll_unqueued h) :)

/-! ### EXIT and XSTART (R353, R355) -/

theorem exec_exit_onX (hx : s.onX = true) (hu : s.h.unadmitted = false) : exec .exit s = .next (releaseMatrix { s with
    h := { retireAll s.h with
      x := { s.h.x with st := .idle, wait := .none, begun := false, stepPast := false } } }) := by
  simp [exec, execExit, exitX, hx, hu]

theorem quiet_ready (hs : ReadyA s w) (hb : s.engineBusy = false) (f k : State → State) : quiet s f k = k s := by
  simp [quiet, drained_ready hs, hb]

theorem exec_exit_ready (hs : ReadyA s w) (hb : s.engineBusy = false) (hidle : s.h.x.st = .idle ∨ s.h.th = true) :
    exec .exit s = .next (endTask s) := by
  have hgo : ¬ ((!s.h.th && s.h.x.st != .idle) = true) := by
    rcases hidle with h | h <;> simp [h]
  simp only [exec, execExit, if_neg (Bool.eq_false_iff.mp hs.1), exitA, confirmed_ready hs, quiet_ready hs hb, if_neg hgo]

theorem exec_xstart_ready {i : BitVec 18} (hs : ReadyA s w) (hth : s.h.th = false) (hidle : s.h.x.st = .idle) :
    exec (.xstart i) s =
      .next ({ s with h := startX (s.cur.pc + 4 * i.signExtend 64) s.h } : State).advance := by
  simp [exec, execXstart, inA_ready hs, noHandler, hth, confirmed_ready hs, hidle, offsetTarget]

theorem exec_xstart_handler {i : BitVec 18} (hx : s.onX = false) (hth : s.h.th = true) :
    exec (.xstart i) s =
      .next (takeTrap s ⟨false, causeILLEGAL_STREAM, 0, 0, (encode (.xstart i)).setWidth 64⟩) := by
  simp [exec, execXstart, inA, hx, noHandler, hth, illegalStream, raise_onA hx, tvalOf]

/-- An A-stream that moves on leaves the X-stream. -/
theorem advance_x (hx : s.onX = false) : s.advance.h.x = s.h.x := by
  unfold State.advance State.setCur
  split
  · simp [hx]
  · rfl

end Sys2Proof.Machine

open Sys2Proof Sys2Proof.Machine

/-- Settles O13: the X-stream's EXIT retires what was admitted and gives the leave back, the A-stream's ends the task, and
XSTART moves on past itself with the X-stream started. -/
theorem startAndExit : Obligations.StartAndExit := by
  unfold Obligations.StartAndExit
  refine ⟨fun s hx hu => ?exitX, fun s w hs hb hidle => ?exitA, fun s w i hs hth hidle => ?start,
    fun s i hx hth => exec_xstart_handler hx hth⟩
  case exitX =>
    refine ⟨_, exec_exit_onX hx hu, rfl, rfl, rfl, rfl, retireAll_mkW s.h, rfl, ?_, retireAll_a s.h, rfl, rfl, rfl⟩
    dsimp only [releaseMatrix]
    rw [retireAll_id]
  case exitA =>
    refine ⟨_, exec_exit_ready hs hb hidle, fun hl => ?service, fun hl hrest hid => ?task⟩
    case service =>
      rw [endTask, hl, State.setCur, if_neg (Bool.eq_false_iff.mp hs.1)]
      exact ⟨rfl, rfl, rfl, rfl⟩
    case task =>
      obtain ⟨l, hl⟩ := Option.ne_none_iff_exists'.mp hl
      rw [endTask, hl]
      intro h hh e
      have hslot : h.id ∈ (freeTaskSlot s l).slots := List.mem_map_of_mem hh
      rw [freeTaskSlot_slots hrest] at hslot
      exact hid (e ▸ hslot)
  case start =>
    have hat : AtWord { s with h := startX (s.cur.pc + 4 * i.signExtend 64) s.h } w := by
      simp [AtWord, State.cur, hs.1, startX, hs.2.1]
    have hx := advance_x (s := { s with h := startX (s.cur.pc + 4 * i.signExtend 64) s.h }) hs.1
    refine ⟨_, exec_xstart_ready hs hth hidle, ?_⟩
    rw [hx]
    exact ⟨rfl, ⟨_, rfl⟩, rfl, rfl, rfl, advance_ran hat⟩
end

section
/-! A requested stop of a task whose A-stream waits for the leave of an engine command (R23, R97, R293): the refutation of
O49. -/

namespace Sys2Proof.Machine

/-- A pan command of a hart that has taken its slot and waits for its leave (R22, R292). -/
def askingCmd (h : Hart) : Cmd :=
  { newCmd { State.reset with h := h } (.pan (panOf 0)) 0 0 0 [] 0 0 with asks := true }

/-- The hart of launch 0 whose A-stream waits for that leave, a kill asked of it. -/
def killedHart : Hart :=
  { State.reset.h with launch := some 0, req := some .kill, a := { State.reset.h.a with st := .wait, wait := .leave } }

/-- The part with that hart alone and its command. -/
def killedAsking : State := { State.reset with h := killedHart, rest := [], cmds := [askingCmd killedHart] }

/-- The command counts as one of the task's that is outstanding (R293). -/
theorem killedAsking_busy : killedAsking.engineBusy = true := by decide

/-- The kill withdraws the command, whose instruction has not begun (R23). -/
theorem killStop_killedAsking_cmds :
    (match exec (.killStop killedHart.id) killedAsking with | .next t => t.cmds | _ => killedAsking.cmds) = [] := by decide

end Sys2Proof.Machine

open Sys2Proof Sys2Proof.Machine

/-- Refutes O49: a kill of a task whose A-stream waits for the leave of an engine command does not wait for that command, as
the statement has it, but withdraws it and ends the task (R23). -/
theorem not_requestedStops : ¬ Obligations.RequestedStops := by
  unfold Obligations.RequestedStops
  intro h
  have hstops := (h killedAsking 0 rfl rfl rfl rfl rfl rfl rfl).1 rfl
  obtain ⟨-, -, -, -, hkill, -⟩ := hstops
  have hrun : exec (.killStop killedHart.id) killedAsking = .next (if killedAsking.engineBusy then _ else _) :=
    hkill rfl ⟨rfl, rfl⟩
  rw [if_pos killedAsking_busy] at hrun
  have hcmds := killStop_killedAsking_cmds
  rw [hrun] at hcmds
  simp [killedAsking] at hcmds
end

section
/-! LAUNCH, CANCEL and STRIP (R79 to R83, R95, R97, R439, R443, R444). No translation frees an entry of the launch table or takes
a FREE one: the entry that an accepted record takes was FREE when the record had been read. Then the settlement of O40. -/

namespace Sys2Proof

/-- Writing a value that is not the default changes no other key, whatever the table. -/
theorem SMap.get_set_other_of_ne {α : Type} [DecidableEq α] {d v : α} (m : SMap α) {n k : Nat} (hv : v ≠ d)
    (hk : k ≠ n) : SMap.get d (SMap.set d m n v) k = SMap.get d m k := by
  induction m with
  | nil => simp [SMap.set, SMap.get, hv, hk]
  | cons p m ih =>
    obtain ⟨j, x⟩ := p
    rw [SMap.set, if_neg hv, if_neg hv]
    by_cases hlt : n < j
    · rw [if_pos hlt, SMap.get, if_neg hk]
      split
      · next hkn => rw [SMap.get, if_neg (by omega), if_pos (by omega)]
      · rfl
    · rw [if_neg hlt]
      by_cases heq : n = j
      · subst heq
        simp only [if_pos, SMap.get, if_neg hk]
      · rw [if_neg heq, SMap.get, SMap.get, ih]

end Sys2Proof

namespace Sys2Proof.Machine

variable {α : Type} {s t : State}

/-- Which entries of the launch table are FREE. -/
def State.isFree (s : State) : Nat → Bool := fun l => (s.entry l).state == .free

/-- The part without what translations and accesses to lines reach: memory with its tags, directories and translations, the
counter cache, the free values, and what a wake reaches. -/
def State.unreached (s : State) : State :=
  { s with
    mem := [], side := [], hostPois := [], dir := [], pagebuf := [], tlb := [], pwc := [], cc := [], ccUse := [],
    slotPois := [], draws := 0 }

/-- What stands beside memory: the rest of the part, and which entries of the launch table are FREE. -/
def State.beside (s : State) : State × (Nat → Bool) := (s.unwoken.unreached, s.isFree)

/-- An operation named by an equation, as a match on its result gives it. -/
theorem State.beside_pair {p : α × State} {a : α} (h : p.2.beside = s.beside) (e : p = (a, t)) : t.beside = s.beside := by
  subst e
  exact h

theorem State.beside_foldl {β : Type} {f : State → β → State} (hf : ∀ t x, (f t x).beside = t.beside) (l : List β) :
    (l.foldl f s).beside = s.beside := by
  induction l generalizing s with
  | nil => rfl
  | cons x l ih => exact ih.trans (hf s x)

/-- An entry that is in use stays so when it is written with one that is. -/
theorem setEntry_isFree {l : Nat} {e : LEntry} (hold : (s.entry l).state ≠ .free) (hnew : e.state ≠ .free) :
    (s.setEntry l e).isFree = s.isFree := by
  have hne : e ≠ LEntry.reset := fun h => hnew (h ▸ rfl)
  funext k
  by_cases hk : k = l
  · subst hk
    have hread : (s.setEntry k e).entry k = e := SMap.get_set_self_of_ne _ _ hne
    simp [State.isFree, hread, hold, hnew]
  · have hread : (s.setEntry l e).entry k = s.entry k := SMap.get_set_other_of_ne _ hne hk
    simp [State.isFree, hread]

@[simp] theorem setDir_beside (pa d) : (setDir s pa d).beside = s.beside := Prod.ext rfl rfl
@[simp] theorem draw_beside : (draw s).2.beside = s.beside := rfl
@[simp] theorem emit_beside (m) : (s.emit m).beside = s.beside := rfl
@[simp] theorem later_beside (is) : (s.later is).beside = s.beside := rfl
@[simp] theorem putSlot_beside (key v) : (putSlot s key v).beside = s.beside := Prod.ext rfl rfl
@[simp] theorem spoilSlots_beside (key) : (spoilSlots s key).beside = s.beside := Prod.ext rfl rfl
@[simp] theorem putLine_beside (pa v g) : (putLine s pa v g).beside = s.beside := by
  rw [putLine]
  generalize writeMem _ _ _ _ = m
  rfl
@[simp] theorem freshCheck_beside (pa k) : (freshCheck s pa k).beside = s.beside := Prod.ext rfl rfl
@[simp] theorem tlbFill_beside (w asid va l) : (tlbFill s w asid va l).beside = s.beside := Prod.ext rfl rfl
@[simp] theorem share_beside (pa k w b) : (share s pa k w b).beside = s.beside := Prod.ext rfl rfl
@[simp] theorem own_beside (pa k w b) : (own s pa k w b).beside = s.beside := Prod.ext rfl rfl

/-! ### Waiters and the error log -/

@[simp] theorem fireIrq_beside (i) : (fireIrq s i).beside = s.beside := by
  dsimp only [fireIrq]
  split
  · rfl
  · split <;> rfl

@[simp] theorem condMet_beside (l j) : (condMet s l j).beside = s.beside := by
  refine Prod.ext (congrArg State.unreached (condMet_unwoken l j)) (?_ : (condMet s l j).isFree = s.isFree)
  dsimp only [condMet]
  split
  · rfl
  · next hw =>
    refine setEntry_isFree (fun h => hw (h ▸ nofun)) ?_
    dsimp only
    split <;> nofun

@[simp] theorem sendPeer_beside (n k r) : (sendPeer s n k r).beside = s.beside := by
  unfold sendPeer
  split
  · rfl
  · exact emit_beside _

@[simp] theorem wakeOne_beside (w v) : (wakeOne s w v).beside = s.beside := by
  cases w <;> simp [wakeOne]

@[simp] theorem wakeSatisfied_beside (key base v) : (wakeSatisfied s key base v).beside = s.beside :=
  State.beside_foldl (fun _ _ => wakeOne_beside _ _) _

@[simp] theorem addSlot_beside (key d) : (addSlot s key d).beside = s.beside :=
  (wakeSatisfied_beside key _ _).trans (putSlot_beside key _)

@[simp] theorem putError_beside (source cls code index addr detail) :
    (putError s source cls code index addr detail).beside = s.beside := by
  dsimp only [putError]
  split
  · rfl
  · exact addSlot_beside _ _

@[simp] theorem errRead_beside : (errRead s).beside = s.beside := by
  dsimp only [errRead]
  split
  · rfl
  · split
    · split <;> simp
    · simp
    · simp

/-- An entry of the error log takes and frees no launch: the waiters of ERRCNT that it wakes go on waiting or start. -/
@[simp] theorem logError_beside (source cls code index addr detail) :
    (logError s source cls code index addr detail).beside = s.beside := by
  simp [logError]

/-! ### Lines -/

@[simp] theorem homeFix_beside (pa k data tag) : (homeFix s pa k data tag).beside = s.beside := by
  unfold homeFix
  split <;> simp

@[simp] theorem spoilLine_beside (pa k) : (spoilLine s pa k).2.beside = s.beside := homeFix_beside pa k _ _

@[simp] theorem devicePoison_beside (pa) : (devicePoison s pa).2.beside = s.beside := by
  unfold devicePoison
  split <;> rfl

@[simp] theorem storeRead_beside (pa k) : (storeRead s pa k).2.beside = s.beside := by
  dsimp only [storeRead]
  split
  · simp
  · split <;> simp

@[simp] theorem homeRead_beside (pa k) : (homeRead s pa k).2.beside = s.beside := by
  unfold homeRead
  split <;> simp

@[simp] theorem hostShare_beside (h pa w) : (hostShare s h pa w).beside = s.beside := by
  dsimp only [hostShare]
  split <;> rfl

@[simp] theorem peerRead_beside (n pa) : (peerRead s n pa).2.beside = s.beside := by
  dsimp only [peerRead]
  split <;> simp

@[simp] theorem openPage_beside (pa) : (openPage s pa).beside = s.beside := by
  unfold openPage
  split <;> rfl

/-- A read of a line takes and frees no launch. -/
@[simp] theorem readLine_beside (pa k lfmt w b) : (readLine s pa k lfmt w b).2.beside = s.beside := by
  dsimp only [readLine]
  split
  · exact hostShare_beside _ _ _
  · exact peerRead_beside _ _
  · rfl
  · split
    · rfl
    · split <;> simp

@[simp] theorem lineWrite_beside (pa k w b data tag) : (lineWrite s pa k w b data tag).beside = s.beside := by
  unfold lineWrite
  split <;> simp

@[simp] theorem hostWrite_beside (pa data vc) : (hostWrite s pa data vc).beside = s.beside := by
  unfold hostWrite
  generalize 64 = n
  split <;> rfl

@[simp] theorem writeLine_beside (pa k w b data tag) : (writeLine s pa k w b data tag).beside = s.beside := by
  unfold writeLine
  split
  · exact hostWrite_beside _ _ _
  · split <;> simp
  · rfl
  · rfl
  · exact lineWrite_beside _ _ _ _ _ _

/-! ### Walks -/

@[simp] theorem walkRead_beside (tower pa) : (walkRead s tower pa).2.beside = s.beside := by
  dsimp only [walkRead]
  split
  · rfl
  · split <;> exact readLine_beside _ _ _ _ _

@[simp] theorem walkTable_beside (tower asid va n level table) :
    (walkTable tower asid va n level table s).2.beside = s.beside := by
  induction n generalizing level table s with
  | zero => rfl
  | succ n ih =>
    dsimp only [walkTable]
    split
    · exact ih _ _
    · split
      · next e => exact State.beside_pair (walkRead_beside _ _) e
      · next e =>
        have h := State.beside_pair (walkRead_beside _ _) e
        split
        · exact h
        · split
          · split
            · exact h
            · exact (ih _ _).trans h
          · split <;> exact h

@[simp] theorem asidRoot_beside (tower asid) : (asidRoot s tower asid).2.beside = s.beside := by
  dsimp only [asidRoot]
  split
  · next e => exact State.beside_pair (walkRead_beside _ _) e
  · next e =>
    have h := State.beside_pair (walkRead_beside _ _) e
    split
    · exact h
    · split <;> exact h

@[simp] theorem walk_beside (tower asid va) : (walk s tower asid va).2.beside = s.beside := by
  unfold walk
  split <;> next e =>
    have h := State.beside_pair (asidRoot_beside _ _) e
    simp [h]

@[simp] theorem pteSwap_beside (tower pa e new last) : (pteSwap s tower pa e new last).2.beside = s.beside := by
  dsimp only [pteSwap]
  split
  · rfl
  · simp
  · split
    · next e =>
      have h := State.beside_pair (walkRead_beside _ _) e
      split <;> simp [h]
    · next e => exact State.beside_pair (walkRead_beside _ _) e

@[simp] theorem walkTries_beside (w asid va wr n) : (walkTries w asid va wr n s).2.beside = s.beside := by
  induction n generalizing s with
  | zero => rfl
  | succ n ih =>
    unfold walkTries
    split
    · next e => exact State.beside_pair (walk_beside _ _ _) e
    · next e =>
      have h := State.beside_pair (walk_beside _ _ _) e
      extract_lets bits
      split
      · exact h
      · split
        · next e' => exact (State.beside_pair (pteSwap_beside _ _ _ _ _) e').trans h
        · next e' => exact ih.trans ((State.beside_pair (pteSwap_beside _ _ _ _ _) e').trans h)
        · next e' => split <;> exact (State.beside_pair (pteSwap_beside _ _ _ _ _) e').trans h

@[simp] theorem walkFill_beside (w asid va wr) : (walkFill s w asid va wr).2.beside = s.beside := walkTries_beside _ _ _ _ _

@[simp] theorem translate_beside (w asid va wr) : (translate s w asid va wr).2.beside = s.beside := by
  dsimp only [translate]
  split
  · split
    · split <;> next e => exact State.beside_pair (walkFill_beside _ _ _ _) e
    · rfl
  · split <;> next e => exact State.beside_pair (walkFill_beside _ _ _ _) e

/-! ### LAUNCH (R79, R80, R443) -/

/-- Holding pages translates, and nothing else. -/
theorem holdPages_beside (asid n page m) : (holdPages asid n page m s).2.beside = s.beside := by
  induction n generalizing page m s with
  | zero => rfl
  | succ n ih =>
    unfold holdPages
    split
    · next e => exact State.beside_pair (translate_beside _ _ _ _) e
    · next e =>
      have h := State.beside_pair (translate_beside _ _ _ _) e
      split
      · exact (ih _ _).trans h
      · exact h

theorem freeIndex_isFree {l : Nat} (h : freeIndex s = some l) : l < 4096 ∧ s.isFree l = true := by
  unfold freeIndex at h
  exact ⟨List.mem_range.mp (List.mem_of_find?_eq_some h), List.find?_some (p := fun i => s.isFree i) h⟩

theorem handleOf_mod {l : Nat} (hl : l < 4096) (e : LEntry) : (handleOf e l).toNat % 4096 = l := by
  rw [handleOf, BitVec.toNat_ofNat]
  omega

/-- A record that is accepted takes an entry that was FREE (R80). -/
theorem acceptLaunch_takes_free {v : Nat} {by_ : Issuer} {h : BitVec 32} (e : acceptLaunch s v by_ = (0, h, t)) :
    s.isFree (h.toNat % 4096) = true := by
  dsimp only [acceptLaunch] at e
  split at e
  · cases e
  · split at e
    · cases e
    · next e1 =>
      split at e
      · cases e
      · next e2 =>
        split at e
        · cases e
        · split at e
          · cases e
          · next l hl =>
            obtain ⟨hlt, hfree⟩ := freeIndex_isFree hl
            have hbeside := (State.beside_pair (holdPages_beside _ _ _ _) e2).trans
              (State.beside_pair (holdPages_beside _ _ _ _) e1)
            cases e
            rw [handleOf_mod hlt, ← hfree]
            exact (congrFun (congrArg Prod.snd hbeside) l).symm

theorem exec_launch_record {w v : Nat} {d a : BitVec 6} (hs : ReadyA s w) (ha : (s.reg a.toNat).toNat % 128 = 0)
    (hv : (readRecord causePOISONED 2 (s.reg a.toNat) s).1 = .ok v) :
    exec (.launch d a) s = .next (launchRecord d v (readRecord causePOISONED 2 (s.reg a.toNat) s).2) := by
  have hgo : readRecord causePOISONED 2 (s.reg a.toNat) s = (.ok v, (readRecord causePOISONED 2 (s.reg a.toNat) s).2) :=
    Prod.ext hv rfl
  simp only [exec, execLaunch, inA_ready hs, ordered_ready hs, ha, ne_eq, not_true_eq_false, if_false]
  rw [hgo]

theorem launchRecord_accepted {v : Nat} {d : BitVec 6} {h : BitVec 32} (e : acceptLaunch s v (issuerOf s) = (0, h, t)) :
    launchRecord d v s = t.writeReg d (BitVec.ofNat 64 h.toNat) := by
  unfold launchRecord
  rw [e]
  simp [launchWord]

/-! ### CANCEL (R97, R444) -/

theorem exec_cancel_ready {w : Nat} {d a : BitVec 6} (hs : ReadyA s w) :
    exec (.cancel d a) s = .next (
      if cancelRefused s ((s.reg a.toNat).toNat % 2 ^ 32) then s.writeReg d 3
      else (cancelLaunch s ((s.reg a.toNat).toNat % 2 ^ 32)).2.writeReg d
        (BitVec.ofNat 64 (cancelLaunch s ((s.reg a.toNat).toNat % 2 ^ 32)).1)) := by
  simp only [exec, execCancel, inA_ready hs, confirmed_ready hs]

section
variable {handle : Nat}

/-- A handle names the launch of an entry: the generation is its, and it is not FREE (R82). -/
def Names (s : State) (handle : Nat) : Prop :=
  (s.entry (handle % 4096)).gen.toNat = handle / 4096 % 2 ^ 20 ∧ (s.entry (handle % 4096)).state ≠ .free

theorem not_names_iff : ¬ Names s handle ↔
    (s.entry (handle % 4096)).gen.toNat ≠ handle / 4096 % 2 ^ 20 ∨ (s.entry (handle % 4096)).state = .free := by
  rw [Names, not_and_or, not_not]

theorem cancelLaunch_unnamed (h : ¬ Names s handle) : cancelLaunch s handle = (2, s) := by
  simp only [cancelLaunch, if_pos (not_names_iff.mp h)]

theorem cancelRefused_unnamed (h : ¬ Names s handle) : cancelRefused s handle = false := by
  rcases not_names_iff.mp h with hgen | hfree
  · simp only [cancelRefused, beq_eq_false_iff_ne.mpr hgen, Bool.and_false, Bool.false_and]
  · simp [cancelRefused, hfree]

theorem cancelLaunch_unstarted (h : Names s handle)
    (hst : (s.entry (handle % 4096)).state = .waiting ∨ (s.entry (handle % 4096)).state = .ready) :
    cancelLaunch s handle = (0, dropUnstarted s (handle % 4096)) := by
  simp only [cancelLaunch]
  rw [if_neg fun hun => not_names_iff.mpr hun h]
  rcases hst with e | e <;> rw [e]

theorem cancelLaunch_started (h : Names s handle) (hw : (s.entry (handle % 4096)).state ≠ .waiting)
    (hr : (s.entry (handle % 4096)).state ≠ .ready) : cancelLaunch s handle = (1, killLaunch s (handle % 4096)) := by
  simp only [cancelLaunch]
  rw [if_neg fun hun => not_names_iff.mpr hun h]
end

/-! ### STRIP (R95, R439) -/

theorem accessedBy_ready {w : Nat} (hs : ReadyA s w) (keys : List (Bool × Nat)) (k : State → State) :
    accessedBy keys s k = k s := by
  simp [accessedBy, meetingStore, hs.2.2.2.1]

theorem exec_strip_claim {w : Nat} {d : BitVec 6} {v : Word} (hs : ReadyA s w) (e : claimStrip s = (.ok v, t)) :
    exec (.strip d) s = .next (t.writeReg d v) := by
  simp only [exec, execStrip, inA_ready hs, confirmed_ready hs, accessedBy_ready hs, e]

/-- A task whose launch has no strips claims none. -/
theorem claimStrip_none (h : ∀ l, s.h.launch = some l → (s.entry l).recd.strips = 0) :
    claimStrip s = (.ok (BitVec.allOnes 64), s) := by
  unfold claimStrip
  split
  · rfl
  · next l hl => simp only [if_pos (h l hl)]

theorem claimStrip_claims {l : Nat} {v : Word} (hl : s.h.launch = some l) (hn : (s.entry l).recd.strips ≠ 0)
    (e : counterOp s (s.entry l).recd.claim (.xadd 1) = (.ok v, t)) :
    let i := v - (s.entry l).base
    let r := if i.toNat < (s.entry l).recd.strips.toNat then i else BitVec.allOnes 64
    claimStrip s = (.ok r, { settleEntry t l with h := { (settleEntry t l).h with strip := r } }) := by
  simp only [claimStrip, hl, if_neg hn, e]

end Sys2Proof.Machine

open Sys2Proof Sys2Proof.Machine

/-- Settles O40: each case is one of the model's for LAUNCH, CANCEL or STRIP, with nothing in flight. -/
theorem launchesAndStrips : Obligations.LaunchesAndStrips := by
  unfold Obligations.LaunchesAndStrips
  refine ⟨fun s w d a hs => ?_, fun s w d hs => ⟨fun hn => ?none, fun l v s1 hl hn e => ?claims⟩⟩
  · intro handle e named gives
    have hrun := exec_cancel_ready (d := d) (a := a) hs
    refine ⟨fun v h s2 ha hv hacc => ?accepted, fun _ href => ?refused, fun href hst hnamed => ?unstarted,
      fun href hw hr hnamed => ?started, fun hnamed => ?unnamed⟩
    case accepted =>
      have hfree := acceptLaunch_takes_free hacc
      have hrun := exec_launch_record (d := d) hs ha hv
      rw [launchRecord_accepted hacc] at hrun
      exact ⟨hrun, by simpa [State.isFree] using hfree⟩
    case refused => exact hrun.trans (by rw [if_pos href])
    case unstarted =>
      rw [if_neg (Bool.eq_false_iff.mp href), cancelLaunch_unstarted hnamed hst] at hrun
      exact hrun
    case started =>
      rw [if_neg (Bool.eq_false_iff.mp href), cancelLaunch_started hnamed hw hr] at hrun
      exact hrun
    case unnamed =>
      rw [if_neg (Bool.eq_false_iff.mp (cancelRefused_unnamed hnamed)), cancelLaunch_unnamed hnamed] at hrun
      exact hrun
  case none => exact ⟨_, exec_strip_claim hs (claimStrip_none hn), writeReg_wrote (atWord_ready hs) (canWrite_ready hs) d _⟩
  case claims => exact exec_strip_claim hs (claimStrip_claims hl hn e)
end

section
/-! How an instruction of the X-stream issues with every older one retired (R126 to R128): it enters the VIQ, and its effect is
taken at once. -/

namespace Sys2Proof.Machine

variable {s : State} {w : Nat} {i : Instr} {sa sb : Word} {op : XOp} {h : Hart} {pops pushes : List (Nat × Nat)}

/-! ### The parts of an admission -/

theorem onQueue_eq (h : Hart) (q : Nat) (f : DQueue → DQueue) (g : SQueue → SQueue) :
    ∃ dq qx qa, h.onQueue q f g = { h with dq := dq, qx := qx, qa := qa } := by
  unfold Hart.onQueue
  split
  · exact ⟨_, _, _, rfl⟩
  · split
    · exact ⟨_, _, _, rfl⟩
    · exact ⟨_, _, _, rfl⟩

/-- Popping takes entries of queues. -/
theorem takePops_eq (pops : List (Nat × Nat)) (h : Hart) :
    ∃ dq qx qa, takePops pops h = { h with dq := dq, qx := qx, qa := qa } := by
  induction pops generalizing h with
  | nil => exact ⟨_, _, _, rfl⟩
  | cons p ps ih =>
    obtain ⟨dq, qx, qa, e⟩ := onQueue_eq h p.1 (fun d => { d with popped := d.popped + p.2 })
      (fun d => { d with popped := d.popped + p.2 })
    obtain ⟨dq', qx', qa', e'⟩ := ih { h with dq := dq, qx := qx, qa := qa }
    exact ⟨_, _, _, (congrArg (takePops ps) e).trans e'⟩

/-- The survey notes an admission in its own fields. -/
theorem surveyAdmit_eq (before h : Hart) (duty : Nat) (op : XOp) :
    ∃ lanes mbusy first, surveyAdmit before h duty op = { h with lanes := lanes, mbusy := mbusy, svFirst := first } := by
  unfold surveyAdmit
  split
  · exact ⟨_, _, _, rfl⟩
  · exact ⟨_, _, _, rfl⟩

section
variable {e : XEntry} {es : List XEntry}

/-- An instruction whose effect is there is admitted (R128). -/
theorem admitNext_done (hw : (splitWaiting s.h.xl).2 = e :: es) (hop : e.op = some op)
    (hd : xEffect op s.h = .done h pops pushes) :
    Took s (admitNext s) h pops pushes ∧ (admitNext s).onX = s.onX ∧
      (admitNext s).h.x = { h.x with st := if h.x.st = .qblock then .run else h.x.st } := by
  obtain ⟨dq, qx, qa, ep⟩ := takePops_eq pops h
  obtain ⟨lanes, mbusy, first, ev⟩ := surveyAdmit_eq s.h { h with dq := dq, qx := qx, qa := qa }
    (SMap.get Gov.reset s.gov h.id.tower).mduty op
  simp only [admitNext, hw, hop, hd, ep, ev]
  split
  · split
    · exact ⟨⟨rfl, rfl, rfl, rfl, rfl, rfl, rfl, rfl, rfl, rfl, rfl, rfl, rfl, rfl⟩, rfl, rfl⟩
    · exact ⟨⟨rfl, rfl, rfl, rfl, rfl, rfl, rfl, rfl, rfl, rfl, rfl, rfl, rfl, rfl⟩, rfl, rfl⟩
  · exact ⟨⟨rfl, rfl, rfl, rfl, rfl, rfl, rfl, rfl, rfl, rfl, rfl, rfl, rfl, rfl⟩, rfl, rfl⟩

theorem admitNext_wait (hw : (splitWaiting s.h.xl).2 = e :: es) (hop : e.op = some op) (hd : xEffect op s.h = .wait) :
    admitNext s = { s with h := { s.h with x := { s.h.x with st := if s.h.x.st = .run then .qblock else s.h.x.st } } } := by
  simp only [admitNext, hw, hop, hd]

theorem admitNext_trap {c v : Nat} (hw : (splitWaiting s.h.xl).2 = e :: es) (hop : e.op = some op)
    (hd : xEffect op s.h = .trap c v) :
    admitNext s = takeTrap { s with h := undoX (unblockX s.h) } ⟨true, c, 0, 0, BitVec.ofNat 64 v⟩ := by
  simp only [admitNext, hw, hop, hd]

end

/-! ### Issue into an empty VIQ (R127) -/

/-- What stands in the VIQ is the instruction that has issued; the X-stream alone has moved. -/
theorem queued_eq (hs : ReadyX s w) (i : Instr) (sa sb : Word) :
    ∃ u, queued s i sa sb = { s with h := { s.h with xl := [viqEntry s i sa sb], x := u } } := by
  obtain ⟨hx, -, hxl⟩ := hs
  obtain ⟨u, e⟩ := advance_eq_setCur { s with h := { s.h with xl := s.h.xl ++ [viqEntry s i sa sb] } }
  refine ⟨u, e.trans ?_⟩
  simp [State.setCur, hx, hxl]

theorem queued_waits (hs : ReadyX s w) (i : Instr) (sa sb : Word) :
    (splitWaiting (queued s i sa sb).h.xl).2 = [viqEntry s i sa sb] := by
  obtain ⟨u, e⟩ := queued_eq hs i sa sb
  rw [e]
  rfl

theorem issueX_ready (hs : ReadyX s w) (i : Instr) (sa sb : Word) : issueX i sa sb s = admitNext (queued s i sa sb) := by
  obtain ⟨-, -, hxl⟩ := hs
  simp [issueX, queued, Hart.viqLen, Hart.unadmitted, hxl]

/-- An instruction that issues into an empty VIQ enters it, and has its effect, waits or traps (R128). -/
theorem enters_of_issueX (hs : ReadyX s w) (hrun : exec i s = .next (issueX i sa sb s)) : Enters i sa sb s := by
  intro op hop q
  have hw := queued_waits hs i sa sb
  rw [issueX_ready hs] at hrun
  refine ⟨fun h pops pushes hd => ⟨_, hrun, (admitNext_done hw hop hd).1⟩, fun hd => ⟨_, hrun, ?_⟩, fun c v hd => ?_⟩
  · rw [admitNext_wait hw hop hd]
    exact ⟨rfl, rfl, rfl⟩
  · rw [hrun, admitNext_trap hw hop hd]

/-- One that enters with its effect there completes. -/
theorem Enters.completes (he : Enters i sa sb s) (hop : (viqEntry s i sa sb).op = some op)
    (hd : ∃ h pops pushes, xEffect op (queued s i sa sb).h = .done h pops pushes) :
    ∃ op h pops pushes u, (viqEntry s i sa sb).op = some op ∧ xEffect op (queued s i sa sb).h = .done h pops pushes ∧
      exec i s = .next u ∧ Took (queued s i sa sb) u h pops pushes := by
  obtain ⟨h, pops, pushes, hd⟩ := hd
  obtain ⟨u, hrun, htook⟩ := (he op hop).1 h pops pushes hd
  exact ⟨op, h, pops, pushes, u, hop, hd, hrun, htook⟩

/-- The X-stream has moved past an instruction that stands in the VIQ. -/
theorem queued_passed (hs : ReadyX s w) (i : Instr) (sa sb : Word) : Passed s (queued s i sa sb) w := by
  have hat : AtWord { s with h := { s.h with xl := s.h.xl ++ [viqEntry s i sa sb] } } w := by
    simp [AtWord, State.cur, hs.1, hs.2.1]
  obtain ⟨-, -, hpassed, -⟩ := advance_ran hat
  exact hpassed

end Sys2Proof.Machine
end

section
/-! How the matrix instructions issue (R89, R421, R422). -/

namespace Sys2Proof.Machine

variable {s : State} {w : Nat} {i : Instr} {t : BitVec 2} {sb : Word}

/-- With nothing in the VIQ no MMODE is still to be admitted. -/
theorem widthOwed_ready (hs : ReadyX s w) : widthOwed s.h = false := by
  obtain ⟨-, -, hxl⟩ := hs
  simp [widthOwed, hxl]

/-- A granted tile, and a leave where one is needed: the instruction issues. -/
theorem matrixOther_granted (hs : ReadyX s w) (ht : t.toNat < tilesOf s s.h) (hl : s.h.mkW = 0 ∨ s.h.mkLV = true) :
    matrixOther i t sb s = issueX i 0 sb s := by
  have hw := widthOwed_ready hs
  obtain ⟨hx, -, -⟩ := hs
  have hask : ¬ ((s.h.mkW != 0) && !s.h.mkLV) = true := by rcases hl with hl | hl <;> simp [hl]
  simp only [matrixOther, matrixIssue, inX, hx, if_true, decide_eq_true_eq, if_neg (Nat.not_le.mpr ht), hw, Bool.and_false,
    if_neg hask]
  rfl

/-- With no leave held the stream asks for one. -/
theorem matrixOther_asks (hs : ReadyX s w) (ht : t.toNat < tilesOf s s.h) (hw : s.h.mkW ≠ 0) (hl : s.h.mkLV = false) :
    matrixOther i t sb s = askLeave s ⟨.inl s.h.id, matrixCharge s.h, false⟩ := by
  have howed := widthOwed_ready hs
  obtain ⟨hx, -, -⟩ := hs
  have hask : ((s.h.mkW != 0) && !s.h.mkLV) = true := by rw [hl, bne_iff_ne.mpr hw]; rfl
  simp only [matrixOther, matrixIssue, inX, hx, if_true, decide_eq_true_eq, if_neg (Nat.not_le.mpr ht), howed, Bool.and_false,
    Bool.false_eq_true, if_false, if_pos hask]

/-- A tile that the launch does not have is a reserved operand. -/
theorem matrixOther_illegal (hs : ReadyX s w) (ht : tilesOf s s.h ≤ t.toNat) :
    matrixOther i t sb s = takeTrap s ⟨true, causeILLEGAL_OP, 0, 0, (encode i).setWidth 64⟩ := by
  obtain ⟨hx, -, hxl⟩ := hs
  simp [matrixOther, matrixIssue, inX, hx, ht, illegalInstr, raise, tvalOf, Hart.unadmitted, hxl]

/-- The instructions on one tile, each with the scalar operand that it reads at issue. -/
def tileInstrs (s : State) (t : BitVec 2) (v : BitVec 5) (a b x : BitVec 6) (r c : BitVec 3) (k : BitVec 1) :
    List (Instr × Word) :=
  [(.mzero t r c, 0), (.opadd t a b r c, 0), (.opsub t a b r c, 0), (.mrd t v x c k, s.reg x.toNat),
    (.mwr t a x c k, s.reg x.toNat), (.mtr t v x c k, s.reg x.toNat)]

theorem exec_tileInstrs {v : BitVec 5} {a b x : BitVec 6} {r c : BitVec 3} {k : BitVec 1} :
    ∀ p ∈ tileInstrs s t v a b x r c k, exec p.1 s = .next (matrixOther p.1 t p.2 s) := by
  simp only [tileInstrs, List.forall_mem_cons]
  exact ⟨rfl, rfl, rfl, rfl, rfl, rfl, fun _ h => absurd h List.not_mem_nil⟩

/-- Each of them enters the VIQ with its tile granted and its leave held. -/
theorem tileInstr_enters {v : BitVec 5} {a b x : BitVec 6} {r c : BitVec 3} {k : BitVec 1} (hs : ReadyX s w)
    (ht : t.toNat < tilesOf s s.h) (hl : s.h.mkW = 0 ∨ s.h.mkLV = true) :
    ∀ p ∈ tileInstrs s t v a b x r c k, Enters p.1 0 p.2 s := fun p hp =>
  enters_of_issueX hs ((exec_tileInstrs p hp).trans (congrArg _ (matrixOther_granted hs ht hl)))

/-! ### MMODE (R421) -/

/-- MMODE issues where a leave is held or none is needed. -/
theorem execMmode_granted {u : BitVec 3} (hs : ReadyX s w) (hu : u.toNat ≤ 4) (ht : tilesOf s s.h ≠ 0)
    (hl : u = 0 ∨ s.h.mkLV = true) : execMmode u s = .next (issueX (.mmode u) 0 0 s) := by
  have hw := widthOwed_ready hs
  obtain ⟨hx, -, -⟩ := hs
  have hask : ¬ ((u != 0) && !s.h.mkLV) = true := by rcases hl with hl | hl <;> simp [hl]
  simp only [execMmode, matrixIssue, inX, hx, Bool.not_true, if_true, Bool.false_eq_true, if_false, if_neg (Nat.not_lt.mpr hu),
    beq_iff_eq, if_neg ht, hw, Bool.and_false, if_neg hask]

theorem execMmode_asks {u : BitVec 3} (hs : ReadyX s w) (hu : u.toNat ≤ 4) (ht : tilesOf s s.h ≠ 0) (h0 : u ≠ 0)
    (hl : s.h.mkLV = false) : execMmode u s = .next (askLeave s ⟨.inl s.h.id, matrixCharge s.h, false⟩) := by
  have hw := widthOwed_ready hs
  obtain ⟨hx, -, -⟩ := hs
  have hask : ((u != 0) && !s.h.mkLV) = true := by rw [hl, bne_iff_ne.mpr h0]; rfl
  simp only [execMmode, matrixIssue, inX, hx, Bool.not_true, if_true, Bool.false_eq_true, if_false, if_neg (Nat.not_lt.mpr hu),
    beq_iff_eq, if_neg ht, hw, Bool.and_false, if_pos hask]

/-- A stream that runs is not one that a queue holds. -/
theorem unblocked_of_run {x : Stream} (hx : x.st = .run) : { x with st := if x.st = .qblock then .run else x.st } = x := by
  cases x
  simp only at hx
  subst hx
  rfl

/-- MMODE sets the width, and changes no register and no tile. -/
theorem execMmode_sets {u : BitVec 3} (hs : ReadyX s w) (hrun : exec (.mmode u) s = .next (issueX (.mmode u) 0 0 s)) :
    ∃ t, exec (.mmode u) s = .next t ∧ t.h.mkW = u ∧ t.h.v = s.h.v ∧ t.h.tiles = s.h.tiles ∧ Passed s t w := by
  obtain ⟨x, eq⟩ := queued_eq hs (.mmode u) 0 0
  have hpassed := queued_passed hs (.mmode u) 0 0
  have hw := queued_waits hs (.mmode u) 0 0
  rw [issueX_ready hs] at hrun
  obtain ⟨htook, honX, hx⟩ := admitNext_done (h := { (queued s (.mmode u) 0 0).h with mkW := u }) hw rfl rfl
  obtain ⟨hv, -, htiles, -, hmk, -⟩ := htook
  refine ⟨_, hrun, hmk, ?_, ?_, ?_⟩
  · rw [hv, eq]
  · rw [htiles, eq]
  · obtain ⟨hpos, hk, htrip, hlast, hst, hwait, hbegun⟩ := hpassed
    have hcur : (admitNext (queued s (.mmode u) 0 0)).cur = (queued s (.mmode u) 0 0).cur := by
      have hon : (queued s (.mmode u) 0 0).onX = true := by rw [eq]; exact hs.1
      simp only [State.cur, honX, hon, if_true] at hst ⊢
      exact hx.trans (unblocked_of_run hst)
    exact ⟨by rw [hcur, hpos], by rw [hcur, hk], by rw [hcur, htrip], by rw [hcur, hlast], by rw [hcur, hst],
      by rw [hcur, hwait], by rw [hcur, hbegun]⟩

end Sys2Proof.Machine
end

section
/-! The effects of the matrix instructions on plain registers (R424 to R429), and that they complete. -/

namespace Sys2Proof.Machine

variable {op : XOp} {h : Hart} {t : BitVec 2} {v : BitVec 5} {a b x : BitVec 6} {r c : BitVec 3} {k : BitVec 1} {g : Nat}

/-! ### The effect by the instruction -/

theorem xEffect_mzero (ho : op.instr = .mzero t r c) : xEffect op h = mzeroEffect h t r c := by rw [xEffect, ho]

theorem xEffect_mwr (ho : op.instr = .mwr t a x c k) : xEffect op h = mwrEffect op h t a x c k := by rw [xEffect, ho]

theorem xEffect_mrd (ho : op.instr = .mrd t v x c k) : xEffect op h = tileReadEffect false op h t v x c k := by
  rw [xEffect, ho, mrdEffect]

theorem xEffect_mtr (ho : op.instr = .mtr t v x c k) : xEffect op h = tileReadEffect true op h t v x c k := by
  rw [xEffect, ho, mtrEffect]

/-! ### Plain sources -/

theorem readSrcs_one {n : Nat} (hn : n < 32) : readSrcs ⟨h, [], 0, [], []⟩ [n] = some ⟨h, [], 0, [h.vreg n], [n]⟩ := by
  simp [readSrcs, readSrc, hn]

theorem readSrcs_two {m n : Nat} (hm : m < 32) (hn : n < 32) :
    readSrcs ⟨h, [], 0, [], []⟩ [m, n] = some ⟨h, [], 0, [h.vreg m, h.vreg n], [m, n]⟩ := by
  simp [readSrcs, readSrc, hm, hn]

theorem vcTrap_valid_one {en : BitVec 3} {y : VReg} {n : Nat} (hy : y.vc = .valid) : vcTrap en false [y] [n] = none := by
  simp [vcTrap, firstOf, hy]

theorem vcTrap_valid_two {en : BitVec 3} {y z : VReg} {m n : Nat} (hy : y.vc = .valid) (hz : z.vc = .valid) :
    vcTrap en false [y, z] [m, n] = none := by
  simp [vcTrap, firstOf, hy, hz]

/-! ### MWR of a plain register (R429) -/

/-- The format that MWR of a plain register gives a tile: an UNINIT one takes the register's. -/
def mwrInt (h : Hart) (t g : Nat) : Bool := if (h.tile t).vc = .uninit then fmtPlainInt g else (h.tile t).int

/-- The cells and flags that MWR of a register leaves. -/
def mwrCells (op : XOp) (h : Hart) (t a c : Nat) (col : Bool) (g : Nat) : SMap (BitVec 32) × Nat :=
  writeTileLine col (mwrInt h t g) (op.sb.toNat % h.tlen) (h.vreg a) (tileMask h c) h.tlen 0 (liveCells (h.tile t), 0)

theorem mwrEffect_plain (ha : a.toNat < 32) (hp : h.plainReg a.toNat g) (hg : g ≠ 0)
    (ht : (h.tile t.toNat).vc = .uninit ∨ (h.tile t.toNat).trot = 0) :
    mwrEffect op h t a x c k =
      .done ((h.addFlags (mwrCells op h t.toNat a.toNat c.toNat (k == 1#1) g).2).setTile t.toNat
        { h.tile t.toNat with
          cells := (mwrCells op h t.toNat a.toNat c.toNat (k == 1#1) g).1, int := mwrInt h t.toNat g
          vc := combineVc [.valid, (h.tile t.toNat).vc], trot := 0 }) [] [] := by
  obtain ⟨hvc, hrot, hfmt⟩ := hp
  have htrot : (if (h.tile t.toNat).vc = .uninit then 0 else (h.tile t.toNat).trot.toNat) = 0 := by
    rcases ht with ht | ht <;> simp [ht]
  simp [mwrEffect, readSrcs_one ha, vcTrap_valid_one hvc, srcAt, listAt, fmtAt, effFmts, htrot, hrot, hvc, hfmt, hg, mwrCells,
    mwrInt]

/-! ### Completion -/

theorem mzeroEffect_done : ∃ h1, mzeroEffect h t r c = .done h1 [] [] := by
  unfold mzeroEffect
  simp only
  split
  · exact ⟨_, rfl⟩
  · exact ⟨_, rfl⟩

theorem tileReadEffect_done {col : Bool} (hf : op.vfmt ≠ 0) : ∃ h1, tileReadEffect col op h t v x c k = .done h1 [] [] := by
  have hf0 : op.vfmt.toNat ≠ 0 := fun e => hf (BitVec.eq_of_toNat_eq e)
  unfold tileReadEffect
  simp only [if_neg hf0]
  split
  · exact ⟨_, rfl⟩
  · exact ⟨_, rfl⟩

/-- Unrotated sources pass the rotation check of an accumulation into an UNINIT tile (R208). -/
theorem tileRotTrap_unrotated {n : Nat} {y z : VReg} {tl : Tile} (hn : 0 < n) (hy : y.hrot = 0) (hz : z.hrot = 0)
    (ht : tl.vc = .uninit) : tileRotTrap n y z tl = none := by
  simp [tileRotTrap, hy, hz, ht, rotSize]
  omega

/-- The default promotion table lets FP32 and INT32 accumulate, and both are 32 bits wide. -/
theorem accumulates_default (hg : g = 4 ∨ g = 8) : elemSize g = mkBits 4 ∧ (ptEntry defaultPt g g).2 ≠ 0 := by
  rcases hg with rfl | rfl
  · exact ⟨rfl, by decide +kernel⟩
  · exact ⟨rfl, by decide +kernel⟩

theorem outerEffect_done {minus : Bool} (hg : g = 4 ∨ g = 8) (ha : a.toNat < 32) (hb : b.toNat < 32)
    (hpa : h.plainReg a.toNat g) (hpb : h.plainReg b.toNat g) (ht : (h.tile t.toNat).vc = .uninit)
    (hpt : h.pt = defaultPt) (hw : h.mkW = 4) : ∃ h1, outerEffect minus op h t a b r c = .done h1 [] [] := by
  obtain ⟨hva, hra, hfa⟩ := hpa
  obtain ⟨hvb, hrb, hfb⟩ := hpb
  obtain ⟨hsize, hentry⟩ := accumulates_default hg
  have hlen : 0 < h.tlen := by unfold Hart.tlen; split <;> decide
  have hmk : mkBits h.mkW.toNat = mkBits 4 := by rw [hw]; rfl
  have hbad : ¬ (h.mkW = 0 ∨ elemSize g ≠ mkBits h.mkW.toNat ∨ elemSize g ≠ mkBits h.mkW.toNat ∨
      (ptEntry h.pt g g).2 = 0 ∨ ((h.tile t.toNat).vc ≠ .uninit ∧
        (h.tile t.toNat).int ≠ (fmtPlainInt g && fmtPlainInt g))) := by
    rw [hmk, hpt, hw]
    simp [hsize, hentry, ht]
  have hf : ∀ i, i < 2 → fmtAt op.vfmt.toNat ⟨h, [], 0, [h.vreg a.toNat, h.vreg b.toNat], [a.toNat, b.toNat]⟩ i = g := by
    intro i hi
    obtain rfl | rfl : i = 0 ∨ i = 1 := by omega
    · simp [fmtAt, effFmts, hva, hfa, listAt]
    · simp [fmtAt, effFmts, hva, hvb, hfa, hfb, listAt]
  simp only [outerEffect, readSrcs_two ha hb, vcTrap_valid_two hva hvb, srcAt, listAt, Option.getD_some,
    tileRotTrap_unrotated hlen hra hrb ht, hf 0 (by decide), hf 1 (by decide), hbad, false_and, if_false]
  split
  · exact ⟨_, rfl⟩
  · exact ⟨_, rfl⟩

end Sys2Proof.Machine
end

section
/-! Cells of a tile written one after another, and what MZERO leaves (R418, R427). -/

namespace Sys2Proof

variable {α β : Type} [DecidableEq α] {d : α} {js : List β} {key : β → Nat} {val : β → α} {m : SMap α}

/-- Reading after many writes, where those to the key read all write one value. -/
theorem SMap.get_foldl_set [DecidableEq β] {n : Nat} {x : α} (hm : SMap.wf d m = true)
    (hx : ∀ j ∈ js, key j = n → val j = x) :
    SMap.get d (js.foldl (fun m j => SMap.set d m (key j) (val j)) m) n =
      if ∃ j ∈ js, key j = n then x else SMap.get d m n := by
  induction js generalizing m with
  | nil => simp
  | cons j js ih =>
    rw [List.foldl_cons, ih (SMap.wf_set hm) fun i hi => hx i (List.mem_cons_of_mem j hi), SMap.get_set hm]
    by_cases hrest : ∃ i ∈ js, key i = n
    · simp [hrest]
    · by_cases hj : key j = n
      · simp [hrest, hj, hx j List.mem_cons_self hj]
      · simp [hrest, hj, Ne.symm hj]

end Sys2Proof

namespace Sys2Proof.Machine

variable {h : Hart} {t : Tile} {i j n : Nat}

/-! ### Tiles and masks -/

theorem tlen_pos (h : Hart) : 0 < h.tlen := by unfold Hart.tlen; split <;> decide

theorem tlen_le (h : Hart) : h.tlen ≤ 128 := by unfold Hart.tlen; split <;> decide

@[simp] theorem tile_setTile_same (hw : SMap.wf Tile.reset h.tiles = true) : (h.setTile n t).tile n = t := by
  simp [Hart.tile, Hart.setTile, SMap.get_set hw]

theorem tile_setTile_other (hw : SMap.wf Tile.reset h.tiles = true) (hi : i ≠ n) : (h.setTile n t).tile i = h.tile i := by
  simp [Hart.tile, Hart.setTile, SMap.get_set hw, hi]

/-- A mask bit governs its row or column where it stands below TLEN. -/
theorem tileMask_getLsbD : (tileMask h n).getLsbD i = (decide (i < h.tlen) && (h.mask n).getLsbD i) := by
  have hle := tlen_le h
  have hlen : i < h.tlen → i < 4096 := fun hi => by omega
  rw [tileMask, BitVec.getLsbD_ofNat, Nat.testBit_mod_two_pow]
  by_cases hi : i < h.tlen
  · simp only [hi, hlen hi, decide_true, Bool.true_and]
    rfl
  · simp only [hi, decide_false, Bool.false_and, Bool.and_false]

/-- The mask of every row or column. -/
theorem tileOnes_getLsbD : (BitVec.ofNat 4096 (2 ^ h.tlen - 1)).getLsbD i = decide (i < h.tlen) := by
  have hle := tlen_le h
  have hlen : i < h.tlen → i < 4096 := fun hi => by omega
  rw [BitVec.getLsbD_ofNat, Nat.testBit_two_pow_sub_one]
  by_cases hi : i < h.tlen
  · simp only [hi, hlen hi, decide_true, Bool.and_self]
  · simp only [hi, decide_false, Bool.and_false]

/-- The mask covers every row or column of a tile. -/
theorem tileMask_full :
    tileMask h n = BitVec.ofNat 4096 (2 ^ h.tlen - 1) ↔ ∀ i, i < h.tlen → (h.mask n).getLsbD i = true := by
  constructor
  · intro e i hi
    have hbit := congrArg (fun m => m.getLsbD i) e
    simpa only [tileMask_getLsbD, tileOnes_getLsbD, hi, decide_true, Bool.true_and] using hbit
  · intro hall
    refine BitVec.eq_of_getLsbD_eq fun i _ => ?_
    rw [tileMask_getLsbD, tileOnes_getLsbD]
    by_cases hlen : i < h.tlen
    · rw [hall i hlen, Bool.and_true]
    · simp only [hlen, decide_false, Bool.false_and]

/-- What a tile's cells read as, in a table. -/
theorem tileCell_live : tileCell t i j = SMap.get 0 (liveCells t) (128 * i + j) := by
  unfold tileCell liveCells
  split <;> rfl

theorem liveCells_wf (hw : SMap.wf 0 t.cells = true) : SMap.wf 0 (liveCells t) = true := by
  unfold liveCells
  split
  · rfl
  · exact hw

/-! ### MZERO (R427) -/

theorem zeroRow_eq_foldl {mc : MaskBits} {cs : SMap (BitVec 32)} :
    zeroRow mc i n j cs =
      ((List.range' j n).filter fun k => mc.getLsbD k).foldl (fun cs k => SMap.set 0 cs (128 * i + k) 0) cs := by
  induction n generalizing j cs with
  | zero => rfl
  | succ n ih =>
    rw [zeroRow, ih, List.range'_succ, List.filter_cons]
    split <;> rfl

/-- The cells that MZERO clears: the rows and the columns of its masks. -/
def zeroed (mr mc : MaskBits) (n : Nat) : List (Nat × Nat) :=
  ((List.range n).filter fun i => mr.getLsbD i).flatMap fun i => ((List.range n).filter fun j => mc.getLsbD j).map (Prod.mk i)

theorem mem_zeroed {mr mc : MaskBits} {p : Nat × Nat} :
    p ∈ zeroed mr mc n ↔ (p.1 < n ∧ mr.getLsbD p.1 = true) ∧ p.2 < n ∧ mc.getLsbD p.2 = true := by
  obtain ⟨a, b⟩ := p
  simp [zeroed]

theorem zeroRows_eq_foldl {mr mc : MaskBits} {cs : SMap (BitVec 32)} :
    ((List.range n).filter fun i => mr.getLsbD i).foldl (fun cs i => zeroRow mc i n 0 cs) cs =
      (zeroed mr mc n).foldl (fun cs p => SMap.set 0 cs (128 * p.1 + p.2) 0) cs := by
  simp only [zeroed, List.foldl_flatMap, List.foldl_map, zeroRow_eq_foldl, ← List.range_eq_range']

/-- The cells after MZERO. -/
theorem get_zeroRows {mr mc : MaskBits} {cs : SMap (BitVec 32)} (hcs : SMap.wf 0 cs = true) (hn : n ≤ 128) (hi : i < n)
    (hj : j < n) :
    SMap.get 0 (((List.range n).filter fun i => mr.getLsbD i).foldl (fun cs i => zeroRow mc i n 0 cs) cs) (128 * i + j) =
      if mr.getLsbD i && mc.getLsbD j then 0 else SMap.get 0 cs (128 * i + j) := by
  have hiff : (∃ p ∈ zeroed mr mc n, 128 * p.1 + p.2 = 128 * i + j) ↔ (mr.getLsbD i && mc.getLsbD j) = true := by
    constructor
    · rintro ⟨⟨a, b⟩, hp, hkey⟩
      obtain ⟨⟨ha, hra⟩, hb, hcb⟩ := mem_zeroed.mp hp
      obtain ⟨rfl, rfl⟩ : a = i ∧ b = j := by simp only at ha hb hkey; omega
      rw [Bool.and_eq_true]
      exact ⟨hra, hcb⟩
    · intro hon
      rw [Bool.and_eq_true] at hon
      exact ⟨(i, j), mem_zeroed.mpr ⟨⟨hi, hon.1⟩, hj, hon.2⟩, rfl⟩
  rw [zeroRows_eq_foldl, SMap.get_foldl_set (x := 0) hcs fun _ _ _ => rfl]
  simp only [hiff]

/-- MZERO of every cell. -/
theorem mzeroEffect_full {t : BitVec 2} {r c : BitVec 3}
    (hfull : ∀ i, i < h.tlen → (h.mask r.toNat).getLsbD i = true ∧ (h.mask c.toNat).getLsbD i = true) :
    mzeroEffect h t r c =
      .done (h.setTile t.toNat { h.tile t.toNat with cells := [], vc := .uninit, trot := 0 }) [] [] := by
  have hr := tileMask_full.mpr fun i hi => (hfull i hi).1
  have hc := tileMask_full.mpr fun i hi => (hfull i hi).2
  simp only [mzeroEffect, hr, hc, and_self, if_true]

/-- MZERO of some of the cells. -/
theorem mzeroEffect_partial {t : BitVec 2} {r c : BitVec 3}
    (hfull : ¬ ∀ i, i < h.tlen → (h.mask r.toNat).getLsbD i = true ∧ (h.mask c.toNat).getLsbD i = true) :
    mzeroEffect h t r c =
      .done (h.setTile t.toNat { h.tile t.toNat with
        cells := ((List.range h.tlen).filter fun i => (tileMask h r.toNat).getLsbD i).foldl
          (fun cs i => zeroRow (tileMask h c.toNat) i h.tlen 0 cs) (liveCells (h.tile t.toNat)) }) [] [] := by
  have hnot : ¬ (tileMask h r.toNat = BitVec.ofNat 4096 (2 ^ h.tlen - 1) ∧
      tileMask h c.toNat = BitVec.ofNat 4096 (2 ^ h.tlen - 1)) := fun ⟨er, ec⟩ =>
    hfull fun i hi => ⟨tileMask_full.mp er i hi, tileMask_full.mp ec i hi⟩
  simp only [mzeroEffect, if_neg hnot]

end Sys2Proof.Machine
end

section
/-! Elements that are written as they stand: INT32 codes through a rounding, and whole registers of an unscaled format (R105,
R106, R166, R176, R389). -/

namespace Sys2Proof.Machine

/-! ### INT32 values are exact (R166, R176) -/

theorem splitAt_whole (m : Nat) : splitAt m 0 0 = (m, 0, 1) := rfl

/-- An integer within a plain integer format rounds to its own bits. -/
theorem roundInt_exact {f : Nat} {v : Int} {rm u : Nat} (hf : fmtScaled f = false) (hlo : (intRange f).1 ≤ v)
    (hhi : v ≤ (intRange f).2) :
    roundInt f (decide (v < 0)) v.natAbs 0 rm u = (truncInt (elemSize f) v, 0) := by
  have hv : (if decide (v < 0) = true then -(v.natAbs : Int) else (v.natAbs : Int)) = v := by
    by_cases hneg : v < 0
    · simp only [hneg, decide_true, if_true]; omega
    · simp only [hneg, decide_false, Bool.false_eq_true, if_false]; omega
  simp only [roundInt, splitAt_whole, hf, roundsAway, if_true, Bool.false_and, Bool.or_false, Bool.false_eq_true, if_false, hv,
    if_neg (Int.not_lt.mpr hlo), if_neg (Int.not_lt.mpr hhi)]

/-- The value of an INT32 code rounds to that code, with no flag. -/
theorem roundTo_int32 {c rm u : Nat} (hc : c < 2 ^ 32) : roundTo 4 rm u (elemValue 4 c) = (c, 0) := by
  have hval : elemValue 4 c = valOfInt (signExt 32 c) := rfl
  have hs : signExt 32 c = if c < 2 ^ 31 then (c : Int) else (c : Int) - 2 ^ 32 := by
    rw [signExt, Nat.mod_eq_of_lt hc]
    rfl
  have hlo : (intRange 4).1 ≤ signExt 32 c := by rw [hs, show (intRange 4).1 = -2147483648 from rfl]; split <;> omega
  have hhi : signExt 32 c ≤ (intRange 4).2 := by rw [hs, show (intRange 4).2 = 2147483647 from rfl]; split <;> omega
  have htrunc : truncInt 32 (signExt 32 c) = c := by rw [truncInt, hs]; split <;> omega
  have hround : roundTo 4 rm u (valOfInt (signExt 32 c)) =
      if (signExt 32 c).natAbs = 0 then (0, 0) else roundInt 4 (decide (signExt 32 c < 0)) (signExt 32 c).natAbs 0 rm u := rfl
  rw [hval, hround, roundInt_exact rfl hlo hhi]
  split
  · next h0 =>
    rw [show c = 0 by rw [← htrunc, Int.natAbs_eq_zero.mp h0]; rfl]
  · exact congrArg (·, 0) htrunc

theorem regCode_lt (x : VReg) (i : Nat) : regCode x i < 2 ^ elemSize x.fmt.toNat := by
  unfold regCode
  split
  · exact Nat.two_pow_pos _
  · exact Nat.mod_lt _ (Nat.two_pow_pos _)

/-- The value of an element of a plain INT32 register. -/
theorem regVal_int32 {x : VReg} (hv : x.vc = .valid) (hf : x.fmt.toNat = 4) (i : Nat) :
    regVal x i = elemValue 4 (regCode x i) := by
  simp [regVal, hv, codeValue, hf, fmtScaled]

/-- An INT32 element put in a cell of an INT32 tile stands there as it is. -/
theorem cellRound_int32 {x : VReg} (hv : x.vc = .valid) (hf : x.fmt.toNat = 4) (i : Nat) :
    cellRound true (regVal x i) = (BitVec.ofNat 32 (regCode x i), 0) := by
  have hlt : regCode x i < 2 ^ 32 := by simpa [hf, elemSize] using regCode_lt x i
  simp [cellRound, regVal_int32 hv hf, roundTo_int32 hlt]

/-! ### Packed codes (R106) -/

theorem packCodes_append (w : Nat) (xs ys : List Nat) :
    packCodes w (xs ++ ys) = packCodes w xs + packCodes w ys <<< (w * xs.length) := by
  induction xs with
  | nil => simp [packCodes]
  | cons x xs ih =>
    simp only [List.cons_append, packCodes, ih, List.length_cons, Nat.shiftLeft_eq]
    ring

theorem packCodes_lt (w : Nat) (cs : List Nat) : packCodes w cs < 2 ^ (w * cs.length) := by
  induction cs with
  | nil => simp [packCodes]
  | cons c cs ih =>
    have hc : c % 2 ^ w < 2 ^ w := Nat.mod_lt _ (Nat.two_pow_pos w)
    rw [packCodes, List.length_cons, Nat.mul_succ, Nat.pow_add, Nat.shiftLeft_eq]
    nlinarith [Nat.two_pow_pos w]

theorem packCodes_toNat {w n : Nat} {cs : List Nat} (hn : w * cs.length ≤ n) :
    (BitVec.ofNat n (packCodes w cs)).toNat = packCodes w cs := by
  rw [BitVec.toNat_ofNat, Nat.mod_eq_of_lt ((packCodes_lt w cs).trans_le (Nat.pow_le_pow_right Nat.two_pos hn))]

theorem packCodes_elem (w : Nat) (cs : List Nat) (i : Nat) (hi : i < cs.length) :
    (packCodes w cs >>> (i * w)) % 2 ^ w = cs[i] % 2 ^ w := by
  induction cs generalizing i with
  | nil => exact absurd hi (Nat.not_lt_zero i)
  | cons c cs ih =>
    have hdiv : packCodes w (c :: cs) / 2 ^ w = packCodes w cs := by
      rw [packCodes, Nat.shiftLeft_eq, Nat.add_mul_div_right _ _ (Nat.two_pow_pos w),
        Nat.div_eq_of_lt (Nat.mod_lt _ (Nat.two_pow_pos w)), Nat.zero_add]
    cases i with
    | zero => simp [packCodes, Nat.shiftLeft_eq]
    | succ i =>
      rw [Nat.succ_mul, Nat.add_comm, Nat.shiftRight_add, Nat.shiftRight_eq_div_pow _ w, hdiv, ih i (by simpa using hi)]
      rfl

/-! ### Rounding states -/

/-- What no flag and no change of mode leaves; the generator steps under SR alone (R178). -/
def Rnd.Keeps (r r1 : Rnd) : Prop := r1.rm = r.rm ∧ r1.flags = r.flags ∧ (r.rm ≠ 4 → r1.lfsr = r.lfsr)

theorem Rnd.Keeps.refl (r : Rnd) : r.Keeps r := ⟨rfl, rfl, fun _ => rfl⟩

theorem Rnd.Keeps.trans {r r1 r2 : Rnd} (h1 : r.Keeps r1) (h2 : r1.Keeps r2) : r.Keeps r2 := by
  obtain ⟨hrm, hfl, hl⟩ := h1
  obtain ⟨hrm', hfl', hl'⟩ := h2
  exact ⟨hrm'.trans hrm, hfl'.trans hfl, fun hr => (hl' (hrm ▸ hr)).trans (hl hr)⟩

/-- One element writes a code, with no flag. -/
def Writes (bits f : Nat) (old : VReg) (i : Nat) (e : Elt) (c : Nat) : Prop :=
  ∀ r, ∃ r1, writeElt bits f 127 old i e r = (c, false, r1) ∧ r.Keeps r1

theorem writes_code {bits f i c : Nat} {old : VReg} : Writes bits f old i (.code c) c := fun r => ⟨r, rfl, .refl r⟩

/-- An INT32 value writes its own code. -/
theorem writes_int32 {bits i c : Nat} {old : VReg} (hc : c < 2 ^ 32) : Writes bits 4 old i (.val (elemValue 4 c)) c := by
  intro r
  simp only [writeElt, rndVal, fmtScaled, show ¬ 16 ≤ 4 by decide, decide_false, Bool.false_eq_true, false_and, if_false,
    roundTo_int32 hc, nanIntoBlock, Bool.false_and]
  refine ⟨_, rfl, rfl, Nat.or_zero _, fun hr => ?_⟩
  simp [Rnd.flag, rmSR, hr]

/-! ### A whole register of an unscaled format -/

section
variable {bits f : Nat} {old : VReg} {elt : Nat → Elt} {code : Nat → Nat} {rule : ScaleRule}

theorem writeElts_codes (hw : ∀ i, Writes bits f old i (elt i) (code i)) (n i : Nat) (r : Rnd) :
    ∃ r1, writeElts bits f 127 old (eltsFrom elt n i) r = ((List.range' i n).map code, false, r1) ∧ r.Keeps r1 := by
  induction n generalizing i r with
  | zero => exact ⟨r, rfl, .refl r⟩
  | succ n ih =>
    obtain ⟨r1, he, hk⟩ := hw i r
    obtain ⟨r2, hes, hk2⟩ := ih (i + 1) r1
    refine ⟨r2, ?_, hk.trans hk2⟩
    simp only [eltsFrom, writeElts, he, hes, List.range'_succ, List.map_cons, Bool.or_self]

/-- Blocks written after the ones before them: their codes stand packed one after another. -/
theorem writeBlocks_codes (hf : fmtScaled f = false) (hdiv : elemSize f * (256 / elemSize f) = 256)
    (hw : ∀ i, Writes bits f old i (elt i) (code i)) (n j : Nat) (sc : SMap Byte) (r : Rnd) :
    ∃ sc1 r1, writeBlocks bits f rule elt old n j
        (packCodes (elemSize f) ((List.range (j * (256 / elemSize f))).map code)) sc r =
      (packCodes (elemSize f) ((List.range ((j + n) * (256 / elemSize f))).map code), sc1, r1) ∧ r.Keeps r1 := by
  induction n generalizing j sc r with
  | zero => exact ⟨sc, r, rfl, .refl r⟩
  | succ n ih =>
    obtain ⟨r1, hes, hk⟩ := writeElts_codes hw (256 / elemSize f) (j * (256 / elemSize f)) r
    obtain ⟨sc2, r2, hbs, hk2⟩ := ih (j + 1) (SMap.set 127#8 sc j (BitVec.ofNat 8 127)) r1
    have hscale : blockScale bits f rule old j (eltsFrom elt (256 / elemSize f) (j * (256 / elemSize f))) = 127 := by
      simp [blockScale, hf]
    have hacc : packCodes (elemSize f) ((List.range (j * (256 / elemSize f))).map code) +
        packCodes (elemSize f) ((List.range' (j * (256 / elemSize f)) (256 / elemSize f)).map code) <<< (256 * j) =
        packCodes (elemSize f) ((List.range ((j + 1) * (256 / elemSize f))).map code) := by
      have hpos : elemSize f * (j * (256 / elemSize f)) = 256 * j := by
        rw [Nat.mul_left_comm, hdiv, Nat.mul_comm]
      rw [Nat.add_one_mul j, List.range_eq_range', List.range_eq_range', ← List.range'_append_1, List.map_append, packCodes_append,
        List.length_map, List.length_range', hpos, Nat.zero_add]
    refine ⟨sc2, r2, ?_, hk.trans hk2⟩
    rw [writeBlocks]
    simp only [hscale, hes, hf, Bool.false_and, Bool.false_eq_true, if_false, hacc]
    rw [hbs, Nat.add_assoc, Nat.add_comm 1 n]

/-- A register written with a code for each element holds them (R389). -/
theorem writeReg_codes {joined : Bool} (hlt : f < 32) (hf : fmtScaled f = false)
    (hdiv : elemSize f * (256 / elemSize f) = 256) (hw : ∀ i, Writes (regBits joined) f old i (elt i) (code i))
    (hcode : ∀ i, code i < 2 ^ elemSize f) (r : Rnd) :
    ∃ v r1, writeReg (regBits joined) f rule elt old [.valid] 0 r = (v, r1) ∧ r.Keeps r1 ∧ v.vc = .valid ∧ v.hrot = 0 ∧
      v.fmt.toNat = f ∧ ∀ i, i < elemsIn (regBits joined) f → regCode v i = code i := by
  obtain ⟨sc, r1, hbs, hk⟩ := writeBlocks_codes (rule := rule) hf hdiv hw (regBits joined / 256) 0 [] r
  have hbits : 256 * (regBits joined / 256) = regBits joined ∧ regBits joined ≤ 16384 := by cases joined <;> decide
  have hpos : 0 < elemSize f := Nat.pos_of_ne_zero fun h0 => by simp [h0] at hdiv
  have hall : regBits joined = elemSize f * (regBits joined / 256 * (256 / elemSize f)) := by
    rw [Nat.mul_left_comm, hdiv, Nat.mul_comm, hbits.1]
  have hn : elemsIn (regBits joined) f = regBits joined / 256 * (256 / elemSize f) :=
    Nat.div_eq_of_eq_mul_right hpos hall
  rw [Nat.zero_mul, Nat.zero_add, ← hn] at hbs
  change writeBlocks _ f rule elt old _ 0 0 [] r = _ at hbs
  rw [← hn] at hall
  have hfit := packCodes_toNat (w := elemSize f) (cs := (List.range (elemsIn (regBits joined) f)).map code) (n := 16384)
    (by rw [List.length_map, List.length_range, ← hall]; exact hbits.2)
  have hfmt : (BitVec.ofNat 5 f).toNat = f := by rw [BitVec.toNat_ofNat, Nat.mod_eq_of_lt hlt]
  refine ⟨⟨BitVec.ofNat 16384 (packCodes (elemSize f) ((List.range (elemsIn (regBits joined) f)).map code)),
    BitVec.ofNat 5 f, .valid, 0, sc⟩, r1, ?_, hk, rfl, rfl, hfmt, fun i hi => ?_⟩
  · simp only [writeReg, hbs]
    rfl
  · simp only [regCode, reduceCtorEq, if_false, hfmt, hfit]
    rw [packCodes_elem _ _ _ (by simpa using hi)]
    simp [Nat.mod_eq_of_lt (hcode _)]
end

end Sys2Proof.Machine
end

section
/-! Rows and columns of a tile: what MRD and MTR give and clear, and what MWR puts in the cells (R428, R429). -/

namespace Sys2Proof.Machine

variable {op : XOp} {h : Hart} {t : BitVec 2} {v : BitVec 5} {a x : BitVec 6} {c : BitVec 3} {k : BitVec 1} {col : Bool}
  {i j n r : Nat} {cs : SMap (BitVec 32)} {mc : MaskBits}

/-! ### The cells of a line -/

/-- The key of the cell that element m of row or column r stands for. -/
def cellKey (col : Bool) (r m : Nat) : Nat := 128 * (lineCell col r m).1 + (lineCell col r m).2

/-- A line's cells written one after another, for the elements that a mask takes. -/
def setLine (col : Bool) (r n : Nat) (mc : MaskBits) (val : Nat → BitVec 32) (cs : SMap (BitVec 32)) : SMap (BitVec 32) :=
  ((List.range n).filter fun m => mc.getLsbD m).foldl (fun cs m => SMap.set 0 cs (cellKey col r m) (val m)) cs

/-- Cell (i, j) stands in a line exactly as the element of its other index. -/
theorem cellKey_eq {m : Nat} (hn : n ≤ 128) (hj : j < n) (hr : r < n) (hm : m < n) :
    cellKey col r m = 128 * i + j ↔ (if col then j else i) = r ∧ m = if col then i else j := by
  cases col
  · simp only [cellKey, lineCell, Bool.false_eq_true, if_false]; omega
  · simp only [cellKey, lineCell, if_true]; omega

/-- The cells after a line is written. -/
theorem get_setLine {val : Nat → BitVec 32} (hcs : SMap.wf 0 cs = true) (hn : n ≤ 128) (hi : i < n) (hj : j < n) (hr : r < n) :
    SMap.get 0 (setLine col r n mc val cs) (128 * i + j) =
      if (if col then j else i) = r ∧ mc.getLsbD (if col then i else j) = true then val (if col then i else j)
      else SMap.get 0 cs (128 * i + j) := by
  have hmem : ∀ m ∈ (List.range n).filter fun m => mc.getLsbD m, m < n ∧ mc.getLsbD m = true := by simp
  have hiff : (∃ m ∈ (List.range n).filter fun m => mc.getLsbD m, cellKey col r m = 128 * i + j) ↔
      (if col then j else i) = r ∧ mc.getLsbD (if col then i else j) = true := by
    constructor
    · rintro ⟨m, hm, hkey⟩
      obtain ⟨hmn, hon⟩ := hmem m hm
      obtain ⟨hline, rfl⟩ := (cellKey_eq hn hj hr hmn).mp hkey
      exact ⟨hline, hon⟩
    · rintro ⟨hline, hon⟩
      have hlt : (if col then i else j) < n := by split <;> assumption
      exact ⟨_, by simpa using ⟨hlt, hon⟩, (cellKey_eq hn hj hr hlt).mpr ⟨hline, rfl⟩⟩
  rw [setLine, SMap.get_foldl_set (x := val (if col then i else j)) hcs fun m hm hkey => ?_]
  · simp only [hiff]
  · obtain ⟨hmn, -⟩ := hmem m hm
    rw [((cellKey_eq hn hj hr hmn).mp hkey).2]

/-- MWR of elements that a cell takes as they are (R429). -/
theorem writeTileLine_exact {int : Bool} {y : VReg} {val : Nat → BitVec 32}
    (hval : ∀ m, cellRound int (regVal y m) = (val m, 0)) (n j : Nat) (acc : SMap (BitVec 32) × Nat) :
    writeTileLine col int r y mc n j acc =
      (((List.range' j n).filter fun m => mc.getLsbD m).foldl (fun cs m => SMap.set 0 cs (cellKey col r m) (val m)) acc.1,
        acc.2) := by
  induction n generalizing j acc with
  | zero => rfl
  | succ n ih =>
    rw [writeTileLine, ih, List.range'_succ, List.filter_cons]
    split
    · simp only [hval, Nat.or_zero]
      rfl
    · rfl

/-! ### Harts -/

theorem addFlags_zero (h : Hart) : h.addFlags 0 = h := by simp [Hart.addFlags]

/-- An instruction whose roundings set no flag leaves the generator alone. -/
theorem endRnd_keeps {rm : BitVec 3} {r : Rnd} (hk : (startRnd h rm).Keeps r) : h.endRnd r = { h with lfsr := r.lfsr } := by
  obtain ⟨-, hfl, -⟩ := hk
  rw [Hart.endRnd, hfl, show (startRnd h rm).flags = 0 from rfl, addFlags_zero]

theorem vreg_setVreg (hw : SMap.wf VReg.reset h.v = true) {m : Nat} {y : VReg} :
    (h.setVreg n y).vreg m = if m = n then y else h.vreg m := by
  simp [Hart.vreg, Hart.setVreg, SMap.get_set hw]

/-- A line of a tile fits in a register of 32-bit elements. -/
theorem tlen_le_elemsIn (h : Hart) : h.tlen ≤ elemsIn h.bits 4 := by
  unfold Hart.tlen Hart.bits
  cases h.joined <;> decide

/-! ### MRD and MTR (R428) -/

/-- A tile that is VALID, of INT32, and not rotated. -/
def Tile.Plain (t : Tile) : Prop := t.vc = .valid ∧ t.int = true ∧ t.trot = 0

/-- What MRD or MTR gives element m: the cell of the line that the mask takes, else zero. -/
def lineRead (h : Hart) (t : Tile) (col : Bool) (r c m : Nat) : Nat :=
  if m < h.tlen ∧ (h.mask c).getLsbD m = true then (if col then tileCell t m r else tileCell t r m).toNat else 0

/-- The same as MRD and MTR write it: the value of the cell, rounded. -/
def lineElt (h : Hart) (t : Tile) (col : Bool) (r c m : Nat) : Elt :=
  if m < h.tlen ∧ (h.mask c).getLsbD m = true then
    .val (elemValue 4 (if col then tileCell t m r else tileCell t r m).toNat)
  else .code 0

theorem lineElt_writes {bits m c : Nat} {old : VReg} {t : Tile} :
    Writes bits 4 old m (lineElt h t col r c m) (lineRead h t col r c m) := by
  unfold lineElt lineRead
  split
  · exact writes_int32 (BitVec.isLt _)
  · exact writes_code

/-- The hart after MRD or MTR has written its register: with S = 1 the cells read are cleared too. -/
def clearLine (h : Hart) (t : Nat) (cells : SMap (BitVec 32)) (k : BitVec 1) : Hart :=
  if k = 1#1 then h.setTile t { h.tile t with cells := cells } else h

theorem tileReadEffect_plain (hf : op.vfmt = 4) (ht : (h.tile t.toNat).Plain) :
    ∃ y rnd, (startRnd h op.rm).Keeps rnd ∧ y.vc = .valid ∧ y.hrot = 0 ∧ y.fmt.toNat = 4 ∧
      (∀ j, j < elemsIn h.bits 4 → regCode y j = lineRead h (h.tile t.toNat) col (op.sb.toNat % h.tlen) c.toNat j) ∧
      tileReadEffect col op h t v x c k =
        .done (clearLine ((h.endRnd rnd).setVreg v.toNat y) t.toNat
          (setLine col (op.sb.toNat % h.tlen) h.tlen (tileMask h c.toNat) (fun _ => 0) (h.tile t.toNat).cells) k) [] [] := by
  obtain ⟨hvc, hint, hrot⟩ := ht
  have hf0 : op.vfmt.toNat = 4 := by rw [hf]; rfl
  have hlt : ∀ m, lineRead h (h.tile t.toNat) col (op.sb.toNat % h.tlen) c.toNat m < 2 ^ elemSize 4 := by
    intro m
    unfold lineRead
    split
    · exact BitVec.isLt _
    · exact Nat.two_pow_pos _
  obtain ⟨y, rnd, hw, hk, hyv, hyr, hyf, hcode⟩ :=
    writeReg_codes (rule := .fit) (joined := h.joined) (old := h.vreg v.toNat) (f := 4) (by decide) rfl rfl
      (elt := lineElt h (h.tile t.toNat) col (op.sb.toNat % h.tlen) c.toNat)
      (fun m => lineElt_writes) hlt (startRnd h op.rm)
  have helt : (fun j => if j < h.tlen ∧ (tileMask h c.toNat).getLsbD j = true then
      Elt.val (cellVal (h.tile t.toNat).int (tileCell (h.tile t.toNat) (lineCell col (op.sb.toNat % h.tlen) j).1
        (lineCell col (op.sb.toNat % h.tlen) j).2)) else .code 0) =
      lineElt h (h.tile t.toNat) col (op.sb.toNat % h.tlen) c.toNat := by
    funext j
    cases col <;> simp [lineElt, lineCell, cellVal, hint, tileMask_getLsbD]
  have hw' : writeReg h.bits 4 .fit (lineElt h (h.tile t.toNat) col (op.sb.toNat % h.tlen) c.toNat) (h.vreg v.toNat)
      [(h.tile t.toNat).vc] (h.tile t.toNat).trot.toNat (startRnd h op.rm) = (y, rnd) := by
    rw [hvc, hrot]
    exact hw
  refine ⟨y, rnd, hk, hyv, hyr, hyf, hcode, ?_⟩
  simp only [tileReadEffect, hf0, show ¬ (4 : Nat) = 0 by decide, if_false, helt, hw', clearLine]
  split
  · rfl
  · rfl

end Sys2Proof.Machine
end

section
/-! What the matrix instructions leave in cells and registers (R427 to R429), and the obligation. -/

namespace Sys2Proof.Machine

variable {op : XOp} {h : Hart} {t : BitVec 2} {v : BitVec 5} {a x : BitVec 6} {r c : BitVec 3} {k : BitVec 1} {col : Bool}

/-- The cells of a tile that is not UNINIT, after its line has been written. -/
theorem tileCell_setLine {tl : Tile} {i j line : Nat} {val : Nat → BitVec 32} {cells : SMap (BitVec 32)}
    (hcells : SMap.wf 0 cells = true) (hvc : tl.vc ≠ .uninit)
    (htl : tl.cells = setLine col line h.tlen (tileMask h c.toNat) val cells) (hline : line < h.tlen)
    (hi : i < h.tlen) (hj : j < h.tlen) :
    tileCell tl i j =
      if (if col then j else i) = line ∧ (h.mask c.toNat).getLsbD (if col then i else j) = true then
        val (if col then i else j)
      else SMap.get 0 cells (128 * i + j) := by
  have hlt : (if col then i else j) < h.tlen := by split <;> assumption
  rw [tileCell, if_neg hvc, htl, get_setLine hcells (tlen_le h) hi hj hline]
  simp only [tileMask_getLsbD, hlt, decide_true, Bool.true_and]

/-! ### MZERO -/

/-- What MZERO leaves of a tile: each active cell zero, and a tile of which every cell is active UNINIT (R427). -/
theorem mzeroEffect_cells (hw : SMap.wf Tile.reset h.tiles = true) (hcells : SMap.wf 0 (h.tile t.toNat).cells = true) :
    let old := h.tile t.toNat
    let on := fun (m : BitVec 3) (i : Nat) => (h.mask m.toNat).getLsbD i
    let full := ∀ i, i < h.tlen → on r i = true ∧ on c i = true
    ∃ h1, mzeroEffect h t r c = .done h1 [] [] ∧ { h1 with tiles := h.tiles, tdirty := h.tdirty } = h ∧
      (∀ k, k ≠ t.toNat → h1.tile k = h.tile k) ∧
      (∀ i j, i < h.tlen → j < h.tlen →
        tileCell (h1.tile t.toNat) i j = if on r i && on c j then 0 else tileCell old i j) ∧
      (h1.tile t.toNat).int = old.int ∧ (full → (h1.tile t.toNat).vc = .uninit ∧ (h1.tile t.toNat).trot = 0) ∧
      (¬ full → (h1.tile t.toNat).vc = old.vc ∧ (h1.tile t.toNat).trot = old.trot) := by
  intro old on full
  by_cases hfull : full
  · refine ⟨_, mzeroEffect_full hfull, rfl, fun k hk => tile_setTile_other hw hk, fun i j hi hj => ?_, ?_, fun _ => ?_,
      fun hnot => absurd hfull hnot⟩
    · rw [tile_setTile_same hw, (hfull i hi).1, (hfull j hj).2]
      rfl
    · rw [tile_setTile_same hw]
    · rw [tile_setTile_same hw]
      exact ⟨rfl, rfl⟩
  · refine ⟨_, mzeroEffect_partial hfull, rfl, fun k hk => tile_setTile_other hw hk, fun i j hi hj => ?_, ?_,
      fun hall => absurd hall hfull, fun _ => ?_⟩
    · rw [tile_setTile_same hw]
      by_cases hvc : old.vc = .uninit
      · simp only [tileCell, hvc, old, if_true, ite_self]
      · have hget := get_zeroRows (mr := tileMask h r.toNat) (mc := tileMask h c.toNat) (liveCells_wf hcells) (tlen_le h) hi hj
        rw [tileCell, if_neg hvc, hget, tileCell_live, tileMask_getLsbD, tileMask_getLsbD]
        simp only [hi, hj, decide_true, Bool.true_and, on, old]
    · rw [tile_setTile_same hw]
    · rw [tile_setTile_same hw]
      exact ⟨rfl, rfl⟩

/-! ### MRD and MTR -/

theorem tile_clearLine {m n : Nat} {cells : SMap (BitVec 32)} (hw : SMap.wf Tile.reset h.tiles = true) :
    (clearLine h n cells k).tile m = if k = 1#1 ∧ m = n then { h.tile n with cells := cells } else h.tile m := by
  unfold clearLine
  by_cases hk : k = 1#1
  · by_cases hm : m = n
    · rw [if_pos hk, if_pos ⟨hk, hm⟩, hm, tile_setTile_same hw]
    · rw [if_pos hk, if_neg (fun hh => hm hh.2), tile_setTile_other hw hm]
  · rw [if_neg hk, if_neg (fun hh => hk hh.1)]

theorem vreg_clearLine {m n : Nat} {cells : SMap (BitVec 32)} : (clearLine h n cells k).vreg m = h.vreg m := by
  unfold clearLine
  split <;> rfl

theorem lfsr_clearLine {n : Nat} {cells : SMap (BitVec 32)} : (clearLine h n cells k).lfsr = h.lfsr := by
  unfold clearLine
  split <;> rfl

/-- What MRD or MTR with vfmt INT32 gives of a plain tile, and what it leaves of the tile (R428). -/
theorem tileReadEffect_reads (hw : SMap.wf Tile.reset h.tiles = true) (hcells : SMap.wf 0 (h.tile t.toNat).cells = true)
    (hv : SMap.wf VReg.reset h.v = true) (hf : op.vfmt = 4) (hplain : (h.tile t.toNat).Plain) :
    let old := h.tile t.toNat
    let line := op.sb.toNat % h.tlen
    let on := fun (j : Nat) => (h.mask c.toNat).getLsbD j
    ∃ h1, tileReadEffect col op h t v x c k = .done h1 [] [] ∧
      { h1 with v := h.v, lfsr := h.lfsr, tiles := h.tiles, tdirty := h.tdirty } = h ∧
      (op.rm.toNat ≠ 4 → h1.lfsr = h.lfsr) ∧ h1.plainReg v.toNat 4 ∧ (∀ n, n ≠ v.toNat → h1.vreg n = h.vreg n) ∧
      (∀ j, j < elemsIn h.bits 4 → regCode (h1.vreg v.toNat) j =
        if j < h.tlen ∧ on j = true then (if col then tileCell old j line else tileCell old line j).toNat else 0) ∧
      (∀ n, n ≠ t.toNat → h1.tile n = h.tile n) ∧ (h1.tile t.toNat).vc = .valid ∧
      ∀ i j, i < h.tlen → j < h.tlen → tileCell (h1.tile t.toNat) i j =
        if k = 1 ∧ (if col then j else i) = line ∧ on (if col then i else j) = true then 0 else tileCell old i j := by
  intro old line on
  have hline : line < h.tlen := Nat.mod_lt _ (tlen_pos h)
  obtain ⟨y, rnd, hk, hyv, hyr, hyf, hcode, heff⟩ := tileReadEffect_plain (v := v) (x := x) (c := c) (k := k) (col := col) hf hplain
  obtain ⟨hvc, -, -⟩ := hplain
  rw [endRnd_keeps hk] at heff
  obtain ⟨-, -, hlfsr⟩ := hk
  have hreg : ∀ n cells, (clearLine (({ h with lfsr := rnd.lfsr } : Hart).setVreg v.toNat y) t.toNat cells k).vreg n =
      if n = v.toNat then y else h.vreg n := fun n cells =>
    (vreg_clearLine ..).trans (vreg_setVreg (h := { h with lfsr := rnd.lfsr }) hv)
  have htile : ∀ n cells, (clearLine (({ h with lfsr := rnd.lfsr } : Hart).setVreg v.toNat y) t.toNat cells k).tile n =
      if k = 1#1 ∧ n = t.toNat then { old with cells := cells } else h.tile n := fun n cells =>
    tile_clearLine (h := ({ h with lfsr := rnd.lfsr } : Hart).setVreg v.toNat y) hw
  refine ⟨_, heff, ?_, fun hrm => ?_, ?_, fun n hn => ?_, fun j hj => ?_, fun n hn => ?_, ?_, fun i j hi hj => ?_⟩
  · unfold clearLine
    split <;> rfl
  · rw [lfsr_clearLine]
    exact hlfsr hrm
  · simp only [Hart.plainReg, hreg, if_true]
    exact ⟨hyv, hyr, hyf⟩
  · rw [hreg, if_neg hn]
  · rw [hreg, if_pos rfl, hcode j hj]
    rfl
  · rw [htile, if_neg (fun hh => hn hh.2)]
  · rw [htile]
    split <;> exact hvc
  · rw [htile]
    by_cases hk1 : k = 1#1
    · rw [if_pos ⟨hk1, rfl⟩, tileCell_setLine hcells (by simp [old, hvc]) rfl hline hi hj]
      simp [hk1, tileCell, old, hvc, on, line]
    · rw [if_neg (fun hh => hk1 hh.1), if_neg (fun hh => hk1 hh.1)]

/-! ### MWR -/

/-- What MWR of a plain INT32 register leaves of an UNINIT tile or of a plain one (R429). -/
theorem mwrEffect_cells (hcells : SMap.wf 0 (h.tile t.toNat).cells = true)
    (ha : a.toNat < 32) (hp : h.plainReg a.toNat 4) (ht : (h.tile t.toNat).vc = .uninit ∨ (h.tile t.toNat).Plain) :
    let old := h.tile t.toNat
    let line := op.sb.toNat % h.tlen
    let on := fun (j : Nat) => (h.mask c.toNat).getLsbD j
    ∃ tl, mwrEffect op h t a x c k = .done (h.setTile t.toNat tl) [] [] ∧ tl.Plain ∧
      ∀ i j, i < h.tlen → j < h.tlen → tileCell tl i j =
        if k = 0 ∧ i = line ∧ on j = true then BitVec.ofNat 32 (regCode (h.vreg a.toNat) j)
        else if k = 1 ∧ j = line ∧ on i = true then BitVec.ofNat 32 (regCode (h.vreg a.toNat) i)
        else tileCell old i j := by
  intro old line on
  have hline : line < h.tlen := Nat.mod_lt _ (tlen_pos h)
  have htrot : old.vc = .uninit ∨ old.trot = 0 := ht.imp_right fun ⟨_, _, hrot⟩ => hrot
  have hint : mwrInt h t.toNat 4 = true := by
    rcases ht with hu | ⟨hvc, hint, -⟩
    · simp [mwrInt, hu, fmtPlainInt, fmtInt, fmtScaled]
    · simp [mwrInt, hvc, hint]
  have hvc : combineVc [.valid, old.vc] = .valid := by
    rcases ht with hu | ⟨hvc, -, -⟩
    · rw [show old.vc = .uninit from hu]; rfl
    · rw [show old.vc = .valid from hvc]; rfl
  have hwrite : mwrCells op h t.toNat a.toNat c.toNat (k == 1#1) 4 =
      (setLine (k == 1#1) line h.tlen (tileMask h c.toNat) (fun m => BitVec.ofNat 32 (regCode (h.vreg a.toNat) m))
        (liveCells old), 0) := by
    obtain ⟨hvalid, -, hfmt⟩ := hp
    rw [mwrCells, hint, writeTileLine_exact (cellRound_int32 hvalid hfmt), setLine, List.range_eq_range']
  have heff := mwrEffect_plain (op := op) (x := x) (c := c) (k := k) ha hp (by decide) htrot
  rw [hwrite, addFlags_zero] at heff
  refine ⟨_, heff, ⟨hvc, hint, rfl⟩, fun i j hi hj => ?_⟩
  rw [tileCell_setLine (liveCells_wf hcells) (by simp [old, hvc]) rfl hline hi hj, ← tileCell_live]
  obtain rfl | rfl : k = 0#1 ∨ k = 1#1 := by bv_omega
  · simp [on, old]
  · simp [on, old]

/-- A line that MWR has written of a plain INT32 register is read back by MRD, or by MTR, where the mask is the same. -/
theorem mwr_read_back {op2 : XOp} {h2 : Hart} {tl : Tile} {line j : Nat} (hw : SMap.wf Tile.reset h.tiles = true)
    (hv : SMap.wf VReg.reset h.v = true) (hplain : tl.Plain) (hfmt : (h.vreg a.toNat).fmt.toNat = 4)
    (hline : line < h.tlen)
    (hcell : ∀ i j, i < h.tlen → j < h.tlen → (if col then j else i) = line →
      (h.mask c.toNat).getLsbD (if col then i else j) = true →
      tileCell tl i j = BitVec.ofNat 32 (regCode (h.vreg a.toNat) (if col then i else j)))
    (hf : op2.vfmt = 4) (hsb : op2.sb.toNat % h.tlen = line)
    (heff : tileReadEffect col op2 (h.setTile t.toNat tl) t v x c 0 = .done h2 [] [])
    (hj : j < h.tlen) (hon : (h.mask c.toNat).getLsbD j = true) :
    regCode (h2.vreg v.toNat) j = regCode (h.vreg a.toNat) j := by
  have hsame : (h.setTile t.toNat tl).tile t.toNat = tl := tile_setTile_same hw
  obtain ⟨y, rnd, -, -, -, -, hcode, heff'⟩ :=
    tileReadEffect_plain (op := op2) (h := h.setTile t.toNat tl) (t := t) (v := v) (x := x) (c := c) (k := 0) (col := col) hf
      (hsame.symm ▸ hplain)
  obtain rfl : h2 = _ := by
    injection heff.symm.trans heff'
  have hlt : regCode (h.vreg a.toNat) j < 2 ^ 32 := by simpa [hfmt, elemSize] using regCode_lt (h.vreg a.toNat) j
  have hback : (BitVec.ofNat 32 (regCode (h.vreg a.toNat) j)).toNat = regCode (h.vreg a.toNat) j := by
    rw [BitVec.toNat_ofNat, Nat.mod_eq_of_lt hlt]
  have hread : regCode y j = (if col then tileCell tl j line else tileCell tl line j).toNat := by
    rw [hcode j (hj.trans_le (tlen_le_elemsIn h)), hsame, lineRead, if_pos ⟨hj, hon⟩]
    exact congrArg (fun l => (if col then tileCell tl j l else tileCell tl l j).toNat) hsb
  rw [vreg_clearLine, vreg_setVreg (h := (h.setTile t.toNat tl).endRnd rnd) hv, if_pos rfl, hread]
  cases col
  · exact (congrArg BitVec.toNat (hcell line j hline hj rfl hon)).trans hback
  · exact (congrArg BitVec.toNat (hcell j line hj hline rfl hon)).trans hback

/-! ### Completion -/

section
variable {s : State} {w g : Nat} {b : BitVec 6} {u : BitVec 3} {i : Instr} {sb : Word}

/-- An instruction that stands in the VIQ sees the registers, the tiles, the width and the promotion table of the hart. -/
theorem queued_matrix (hs : ReadyX s w) (i : Instr) (sb : Word) :
    (queued s i 0 sb).h.vreg = s.h.vreg ∧ (queued s i 0 sb).h.tile = s.h.tile ∧ (queued s i 0 sb).h.mkW = s.h.mkW ∧
      (queued s i 0 sb).h.pt = s.h.pt := by
  obtain ⟨x, e⟩ := queued_eq hs i 0 sb
  rw [e]
  exact ⟨rfl, rfl, rfl, rfl⟩

/-- A matrix instruction enters the VIQ and is admitted with its effect. -/
def Completes (s : State) (i : Instr) (sb : Word) : Prop :=
  ∃ op h pops pushes u, (viqEntry s i 0 sb).op = some op ∧ xEffect op (queued s i 0 sb).h = .done h pops pushes ∧
    exec i s = .next u ∧ Took (queued s i 0 sb) u h pops pushes

/-- The plain registers of the hart are those of the hart with its instruction queued. -/
theorem queued_plainReg (hs : ReadyX s w) {n : Nat} (hp : s.h.plainReg n g) : (queued s i 0 sb).h.plainReg n g := by
  obtain ⟨hv, -⟩ := queued_matrix hs i sb
  simpa only [Hart.plainReg, hv] using hp

theorem completes_of_done {op : XOp} (he : Enters i 0 sb s) (hop : (viqEntry s i 0 sb).op = some op)
    (hd : ∃ h1, xEffect op (queued s i 0 sb).h = .done h1 [] []) : Completes s i sb := by
  obtain ⟨h1, hd⟩ := hd
  exact he.completes hop ⟨h1, [], [], hd⟩

theorem mzero_completes (he : Enters (.mzero t r c) 0 0 s) : Completes s (.mzero t r c) 0 := by
  refine completes_of_done he rfl ?_
  rw [xEffect_mzero rfl]
  exact mzeroEffect_done

theorem mrd_completes (he : Enters (.mrd t v x c k) 0 sb s) (hf : s.h.x.vfmt ≠ 0) : Completes s (.mrd t v x c k) sb := by
  refine completes_of_done he rfl ?_
  rw [xEffect_mrd rfl]
  exact tileReadEffect_done hf

theorem mtr_completes (he : Enters (.mtr t v x c k) 0 sb s) (hf : s.h.x.vfmt ≠ 0) : Completes s (.mtr t v x c k) sb := by
  refine completes_of_done he rfl ?_
  rw [xEffect_mtr rfl]
  exact tileReadEffect_done hf

section
variable (hs : ReadyX s w) (hg : g = 4 ∨ g = 8) (ha : a.toNat < 32) (hpa : s.h.plainReg a.toNat g)
  (ht : (s.h.tile t.toNat).vc = .uninit)
include hs hg ha hpa ht

theorem mwr_completes (he : Enters (.mwr t a x c k) 0 sb s) : Completes s (.mwr t a x c k) sb := by
  obtain ⟨-, htile, -⟩ := queued_matrix hs (.mwr t a x c k) sb
  have hg0 : g ≠ 0 := by omega
  refine completes_of_done he rfl ?_
  rw [xEffect_mwr rfl, mwrEffect_plain ha (queued_plainReg hs hpa) hg0 (by rw [htile]; exact .inl ht)]
  exact ⟨_, rfl⟩

variable (hb : b.toNat < 32) (hpb : s.h.plainReg b.toNat g) (hpt : s.h.pt = defaultPt) (hmk : s.h.mkW = 4)
include hb hpb hpt hmk

/-- The hart with an accumulation queued has what its effect asks for. -/
theorem outer_done {minus : Bool} {op : XOp} : ∃ h1, outerEffect minus op (queued s i 0 sb).h t a b r c = .done h1 [] [] := by
  obtain ⟨-, htile, hmk', hpt'⟩ := queued_matrix hs i sb
  exact outerEffect_done hg ha hb (queued_plainReg hs hpa) (queued_plainReg hs hpb) (by rw [htile]; exact ht)
    (hpt'.trans hpt) (hmk'.trans hmk)

theorem opadd_completes (he : Enters (.opadd t a b r c) 0 0 s) : Completes s (.opadd t a b r c) 0 :=
  completes_of_done he rfl (outer_done hs hg ha hpa ht hb hpb hpt hmk)

theorem opsub_completes (he : Enters (.opsub t a b r c) 0 0 s) : Completes s (.opsub t a b r c) 0 :=
  completes_of_done he rfl (outer_done hs hg ha hpa ht hb hpb hpt hmk)
end
end

end Sys2Proof.Machine
open Sys2Proof Sys2Proof.Machine

/-- Settles O33: an instruction that issues into an empty VIQ is admitted at once, so each clause is about its effect there; a
line of cells is a run of writes of a table whose keys do not meet, and INT32 values round to their own codes. -/
theorem matrixInstructionsTakeEffect : Obligations.MatrixInstructionsTakeEffect := by
  refine ⟨fun s w t v a b x r c u k hs => ⟨?_, ?_, ?_, ?_, ?_⟩, fun s w g t v a b x r c k hs ht hl => ?_, ?_, ?_⟩
  · exact fun ht hl => tileInstr_enters hs ht hl
  · exact fun ht hmk hl p hp => (exec_tileInstrs p hp).trans (congrArg _ (matrixOther_asks hs ht hmk hl))
  · exact fun ht p hp => (exec_tileInstrs p hp).trans (congrArg _ (matrixOther_illegal hs ht))
  · intro hu ht hl
    have hrun := execMmode_granted hs hu ht hl
    exact ⟨enters_of_issueX hs hrun, execMmode_sets hs hrun⟩
  · exact fun hu ht h0 hl => execMmode_asks hs hu ht h0 hl
  · intro completes
    have he := tileInstr_enters (v := v) (a := a) (b := b) (x := x) (r := r) (c := c) (k := k) hs ht hl
    simp only [tileInstrs, List.forall_mem_cons] at he
    obtain ⟨hzero, hadd, hsub, hrd, hwr, htr, -⟩ := he
    refine ⟨mzero_completes hzero, fun hf => ⟨mrd_completes hrd hf, mtr_completes htr hf⟩, fun hg ha hb hpa hpb hvc =>
      ⟨mwr_completes hs hg ha hpa hvc hwr, fun hpt hmk => ⟨?_, ?_⟩⟩⟩
    · exact opadd_completes hs hg ha hpa hvc hb hpb hpt hmk hadd
    · exact opsub_completes hs hg ha hpa hvc hb hpb hpt hmk hsub
  · intro op h t r c hw hcells ho
    rw [xEffect_mzero ho]
    exact mzeroEffect_cells hw hcells
  · intro op h t v a x c k hw hcells hv old plain line on
    refine ⟨fun ho ha hp hold => ?_, ?_⟩
    · obtain ⟨tl, heff, hplain, hcell⟩ := mwrEffect_cells (op := op) (x := x) (c := c) (k := k) hcells ha hp hold
      have hsame : (h.setTile t.toNat tl).tile t.toNat = tl := tile_setTile_same hw
      refine ⟨_, (xEffect_mwr ho).trans heff, rfl, fun n hn => tile_setTile_other hw hn, ?_⟩
      rw [hsame]
      have ⟨hvc, hint, hrot⟩ := hplain
      refine ⟨hvc, hint, hrot, hcell, fun op2 h2 ho2 hf2 hsb2 heff2 j hj hon => ?_⟩
      obtain ⟨-, -, hfmt⟩ := hp
      have hline : line < h.tlen := Nat.mod_lt _ (tlen_pos h)
      obtain rfl | rfl : k = 0#1 ∨ k = 1#1 := by bv_omega
      · rw [xEffect_mrd ho2] at heff2
        refine mwr_read_back hw hv hplain hfmt hline (fun i j hi hj hij hon => ?_) hf2 hsb2 heff2 hj hon
        exact (hcell i j hi hj).trans (if_pos ⟨rfl, hij, hon⟩)
      · rw [xEffect_mtr ho2] at heff2
        refine mwr_read_back hw hv hplain hfmt hline (fun i j hi hj hij hon => ?_) hf2 hsb2 heff2 hj hon
        exact (hcell i j hi hj).trans ((if_neg (by simp)).trans (if_pos ⟨rfl, hij, hon⟩))
    · intro reads
      refine ⟨fun ho hp hf => ?_, fun ho hp hf => ?_⟩
      · rw [xEffect_mrd ho]
        exact tileReadEffect_reads hw hcells hv hf hp
      · rw [xEffect_mtr ho]
        exact tileReadEffect_reads hw hcells hv hf hp

end


section
/-! Which move a step makes: the order of the events that are due (R52, R243), the one open move or the chosen one, and what
the turn of a stream does with its word (R117, R127, R256, R334). -/

namespace Sys2Proof.Machine

variable {s : State} {e i j : Instr} {es rest : List Instr} {seen : List (Option Nat)}

/-! ### The order of events (R52, R243) -/

/-- Where no event goes before one, none is taken out for it. -/
theorem takeBefore_none (h : ∀ j ∈ es, goesBefore j e = false) : takeBefore e seen es = none := by
  induction es generalizing seen with
  | nil => rfl
  | cons j js ih =>
    obtain ⟨hj, hjs⟩ := List.forall_mem_cons.mp h
    simp [takeBefore, ih hjs, hj]

/-- What is taken out of a list is one of its events. -/
theorem takeBefore_mem (h : takeBefore e seen es = some (i, rest)) : i ∈ es := by
  induction es generalizing seen rest with
  | nil => simp [takeBefore] at h
  | cons j js ih =>
    rw [takeBefore] at h
    split at h
    · next k rest' hk =>
      split at h
      · simp_all
      · obtain ⟨rfl, -⟩ : k = i ∧ j :: rest' = rest := by simpa using h
        exact List.mem_cons_of_mem _ (ih hk)
    · split at h
      · simp_all
      · simp at h

/-- The first event is the next where no other goes before it. -/
theorem nextEvent_first (h : ∀ j ∈ es, goesBefore j e = false) : nextEvent (e :: es) = some (e, es) := by
  simp [nextEvent, takeBefore_none h]

/-- The second event is the next where it goes before the first, comes from another source, and no later one goes before
it. -/
theorem nextEvent_second (hi : goesBefore i e = true) (hsrc : eventSource i ≠ eventSource e)
    (h : ∀ j ∈ es, goesBefore j i = false) : nextEvent (e :: i :: es) = some (i, e :: es) := by
  have htake : takeBefore e [eventSource e] (i :: es) = some (i, es) := by
    rw [takeBefore]
    split
    · next k rest hk => simp [hi, hsrc, h k (takeBefore_mem hk)]
    · simp [hi, hsrc]
  simp [nextEvent, htake]

/-- An event that is next, and that no read of a host goes before, is made. -/
theorem step_event (h : nextEvent s.agenda = some (e, es)) (hr : readFirst s e = false) :
    step s = mapOut (noteWake e) (exec e { s with agenda := es }) := by
  simp [step, h, hr]

/-- A lease command names no counter. -/
theorem counterRank_of_lease {h : HostId} (hl : leaseHost i = some h) : counterRank i = none := by
  unfold leaseHost at hl
  split at hl
  · rfl
  · rfl
  · rfl
  · split at hl
    · subst_vars
      rfl
    · simp at hl
  · simp at hl

/-- A lease command comes from its host. -/
theorem eventSource_of_lease {h : HostId} (hl : leaseHost i = some h) : eventSource i = some (hostRank h) := by
  unfold leaseHost at hl
  split at hl
  · simp_all [eventSource]
  · simp_all [eventSource]
  · simp_all [eventSource]
  · split at hl
    · simp_all [eventSource]
    · simp at hl
  · simp at hl

/-- Nothing goes before a lease command of host A. -/
theorem goesBefore_leaseA (hi : leaseHost i = some .a) : goesBefore j i = false := by
  have hrank := counterRank_of_lease hi
  simp only [goesBefore, hi, hrank]
  cases counterRank j <;> simp

/-- A read of a host goes before operations on counters alone. -/
theorem readFirst_of_not_counter (h : counterRank i = none) : readFirst s i = false := by
  unfold readFirst
  rw [h]
  split
  · simp_all
  · rfl

/-! ### The move (R117, log 150) -/

/-- With no event and no read due, a step is a move of the part. -/
theorem step_turn (ha : s.agenda = []) (hr : s.hostReads = []) : step s = turn s := by simp [step, ha, hr, nextEvent]

theorem step_only_move {a : Act} (ha : s.agenda = []) (hr : s.hostReads = []) (hc : choices s = [a]) :
    step s = mapOut tick (a.run s) := by
  rw [step_turn ha hr, turn, hc]

theorem step_chosen_move {a b : Act} {as : List Act} (ha : s.agenda = []) (hr : s.hostReads = []) (hd : dueActs s = [])
    (ho : openActs s = a :: b :: as) : step s = mapOut tick (openMove s (a :: b :: as)) := by
  have hc : choices s = a :: b :: as := by simp [choices, hd, ho]
  rw [step_turn ha hr, turn, hc]
  simp [hd]

/-! ### The turn of a stream (R127, R256) -/

theorem listAt_eq_getElem? {α : Type} (l : List α) (n : Nat) : listAt l n = l[n]? := by
  induction l generalizing n with
  | nil => rfl
  | cons x xs ih =>
    cases n with
    | zero => rfl
    | succ n => exact ih n

/-- No store is overdue while none has been followed by sixteen instructions. -/
theorem overdueStore_none {h : Hart} (hs : ∀ st ∈ h.stores, st.past < 16) : overdueStore h = none := by
  simp only [overdueStore, List.find?_eq_none, listAt_eq_getElem?]
  intro n _
  cases hn : h.stores[n]? with
  | none => simp
  | some st => simpa using hs st (List.mem_of_getElem? hn)

/-- A word that decodes runs its instruction, or waits for a value still to come. -/
theorem runWord_ok {w : BitVec 32} (hd : decode w = .ok i) : runWord w s = if needsOwed s i then .next s else exec i s := by
  rw [runWord, hd]

/-- A word that the decoder refuses meets its fate. -/
theorem runWord_error {w : BitVec 32} {r : Reject} (hd : decode w = .error r) : runWord w s = exec (.illegalOp w) s := by
  rw [runWord, hd]

/-- A stream to which no store is due takes its turn. -/
theorem issueTurn_issues (h : s.onX = true ∨ (s.h.sfrq = [] ∧ ∀ st ∈ s.h.stores, st.past < 16)) :
    issueTurn s = issueStream s := by
  unfold issueTurn
  rcases h with hx | ⟨hq, hs⟩
  · simp [hx]
  · simp [hq, overdueStore_none hs]

/-- The turn of a stream that stands at a word runs the word. -/
theorem issueWord_word {w : BitVec 32} (h : s.word? = some w) : issueWord s = runWord w s := by
  unfold State.word? at h
  unfold issueWord
  split at h
  · next n hn => simp only [hn, h]
  · simp at h

theorem issueMove_word {id : HartId} {onX : Bool} {w : BitVec 32} (hw : (s.at id onX).word? = some w)
    (h : onX = true ∨ ((s.at id onX).h.sfrq = [] ∧ ∀ st ∈ (s.at id onX).h.stores, st.past < 16)) :
    (Act.issue id onX).run s =
      mapOut (noteIssue (s.at id onX)) (mapOut (endTurn (s.at id onX)) (runWord w (s.at id onX))) := by
  have hturn := issueTurn_issues (s := s.at id onX) h
  rw [Act.run, issueMove, hturn, issueStream, issueWord_word hw]

end Sys2Proof.Machine

open Sys2Proof Sys2Proof.Machine

/-- Settles O4: the order of events and moves, each by its lemma, and the turn of a stream at a word. -/
theorem stepRunsDecoded : Obligations.StepRunsDecoded := by
  refine ⟨fun s id onX w i ha hr hc hw hd hs ho => ?_, fun s id onX w i hw hd hs => ⟨fun ho => ?_, fun ho => ?_⟩,
    fun s a b as ha hr hdue hopen c hn => ?_, fun s e es ha hes hr => ?_, fun s a b es ha hb haA => ?_,
    fun s a b es m n ha hm hn hlt hsrc hes hr => ?_, fun s r rs hr h => ?_⟩
  · rw [step_only_move ha hr hc, issueMove_word hw hs, runWord_ok hd, ho]
    rfl
  · rw [issueMove_word hw hs, runWord_ok hd, ho]
    rfl
  · rw [issueMove_word hw hs, runWord_ok hd, ho]
    rfl
  · have hchosen : chosen s (queueUp s.line (a :: b :: as)) = c := congrArg (Option.getD · Act.clock) hn
    rw [step_chosen_move ha hr hdue hopen, openMove, hchosen]
  · exact step_event (ha ▸ nextEvent_first hes) hr
  · have hbefore : goesBefore a b = true := by simp [goesBefore, haA, hb]
    have hsrc : eventSource a ≠ eventSource b := by simp [eventSource_of_lease haA, eventSource_of_lease hb, hostRank]
    exact step_event (ha ▸ nextEvent_second hbefore hsrc fun j _ => goesBefore_leaseA haA)
      (readFirst_of_not_counter (counterRank_of_lease haA))
  · have hbefore : goesBefore a b = true := by simp [goesBefore, hm, hn, hlt]
    exact step_event (ha ▸ nextEvent_second hbefore hsrc hes) hr
  · rcases h with ha | ⟨e, es, ha, hes, hfirst⟩
    · simp [step, ha, nextEvent, hr, takeRead]
    · simp [step, ha, nextEvent_first hes, hfirst, takeRead, hr]

end

section
/-! Words that are no instruction (R107, R334): which opcodes the rows of the decoder refuse, and the fate of a refused word. -/

namespace Sys2Proof

variable {n : Nat} {w : BitVec 32}

/-! ### Opcodes that no row of the decoder assigns (R332) -/

theorem decodeRow0_refuses (h : wordBits n 24 4 = 0) : ∃ r, decodeRow0 n = .error r := by
  simp [decodeRow0, h]

theorem decodeRow7_refuses (h : 2 ≤ wordBits n 24 4) : ∃ r, decodeRow7 n = .error r := by
  unfold decodeRow7; split <;> simp_all

theorem decodeRow9_refuses (h : 11 ≤ wordBits n 24 4) : ∃ r, decodeRow9 n = .error r := by
  unfold decodeRow9; split <;> simp_all

theorem decodeRowA_refuses (h : 7 ≤ wordBits n 24 4) : ∃ r, decodeRowA n = .error r := by
  unfold decodeRowA; split <;> simp_all

theorem decodeRowB_refuses (h : 5 ≤ wordBits n 24 4) : ∃ r, decodeRowB n = .error r := by
  unfold decodeRowB; split <;> simp_all

theorem decodeRowD_refuses (h : 6 ≤ wordBits n 24 4) : ∃ r, decodeRowD n = .error r := by
  unfold decodeRowD; split <;> simp_all

end Sys2Proof

namespace Sys2Proof.Machine

variable {s : State} {w : BitVec 32}

/-- The decoder refuses every word whose opcode is not assigned (R334 order 1). -/
theorem decode_refuses (h : opAssigned (opOf w) = false) (i : Instr) : decode w ≠ .ok i := by
  have hlt := w.isLt
  have hraw : ∃ r, decodeRaw w = .error r := by
    have hlo : wordBits w.toNat 24 4 = opOf w % 16 := rfl
    have hhi : wordBits w.toNat 28 4 = opOf w / 16 := by unfold wordBits opOf; omega
    simp only [opAssigned, Bool.or_eq_false_iff, decide_eq_false_iff_not] at h
    unfold decodeRaw
    simp only
    split
    · exact ⟨_, rfl⟩
    · split
      case h_1 => exact decodeRow0_refuses (by omega)
      case h_8 => exact decodeRow7_refuses (by omega)
      case h_9 => exact decodeRow9_refuses (by omega)
      case h_10 => exact decodeRowA_refuses (by omega)
      case h_11 => exact decodeRowB_refuses (by omega)
      case h_13 => exact decodeRowD_refuses (by omega)
      case h_15 => split <;> exact ⟨_, rfl⟩
      all_goals omega
  obtain ⟨r, hraw⟩ := hraw
  simp [decode, hraw]

/-! ### The fate of a refused word (R334) -/

/-- A cause is taken at once where no older X-stream instruction waits for admission (R128). -/
theorem raise_taken (h : s.onX = false ∨ s.h.unadmitted = false) (code acc level : Nat) (tval : Word) :
    raise s code acc level tval = takeTrap s ⟨s.onX, code, acc, level, tval⟩ := by
  rcases h with h | h <;> simp [raise, h]

theorem exec_illegalOp (h : s.onX = false ∨ s.h.unadmitted = false) : exec (.illegalOp w) s = .next (takeTrap s ⟨s.onX,
    if opAssigned (opOf w) = true ∧ (if s.onX then allowedX w else allowedA w) = false then causeILLEGAL_STREAM
    else causeILLEGAL_OP, 0, 0, w.setWidth 64⟩) := by
  have hrun : exec (.illegalOp w) s = .next (wordFate s w) := rfl
  rw [hrun, wordFate, raise_taken h]
  simp

end Sys2Proof.Machine

open Sys2Proof Sys2Proof.Machine

/-- Settles O5: the rows of the decoder refuse the unassigned opcodes, and the event of a refused word gives it its fate. -/
theorem refusedWordsTrap : Obligations.RefusedWordsTrap := by
  refine ⟨fun w hop => ?_, fun s id onX w r ha hr hc hw hd hs => ?_, fun s w h => exec_illegalOp h⟩
  · have hnot : opAssigned (opOf w) = false := by
      unfold opAssigned opOf
      simp only [Bool.or_eq_false_iff, decide_eq_false_iff_not]
      omega
    refine ⟨decode_refuses hnot, fun s h => ?_⟩
    rw [exec_illegalOp h]
    simp [hnot]
  · rw [step_only_move ha hr hc, issueMove_word hw hs, runWord_error hd]

end

section
/-! The words of a block with one stage (R112, R117). -/

namespace Sys2Proof.Machine

variable {t : Stream} {n w : Nat}

/-- In a block with one stage every word runs while iterations are left. -/
theorem Stream.runs_oneStage (h1 : t.blk.stages = 1) (hb : t.blk.bounds = []) (hk : t.k + t.trip < t.last) :
    t.runs w = true := by
  simp [Stream.runs, Block.stageOf, h1, hb, hk]

theorem Stream.nextRun_of_runs (h : t.runs w = true) : t.nextRun (n + 1) w = some w := by
  simp [Stream.nextRun, h]

/-- Past a word that is not the last the next word runs. -/
theorem Stream.past_inner {stopping : Bool} (hw : w + 1 < t.blk.body.length) (h : t.runs (w + 1) = true) :
    t.past stopping w = { t with pos := .word (w + 1) } := by
  obtain ⟨m, hm⟩ : ∃ m, t.blk.body.length - (w + 1) = m + 1 := ⟨t.blk.body.length - (w + 1) - 1, by omega⟩
  simp [Stream.past, hm, Stream.nextRun_of_runs h]

/-- Past the last word the next trip starts. -/
theorem Stream.past_last {stopping : Bool} (hw : w + 1 = t.blk.body.length) :
    t.past stopping w = ({ t with trip := t.trip + 1 } : Stream).tripStart stopping := by
  simp [Stream.past, ← hw, Stream.nextRun]

/-- The start of a trip of a block with one stage, with an iteration left, stands at word 0. -/
theorem Stream.tripStart_oneStage {stopping : Bool} (h1 : t.blk.stages = 1) (hb : t.blk.bounds = [])
    (hk : t.k + t.trip < t.last) (hw : w < t.blk.body.length) : t.tripStart stopping = { t with pos := .word 0 } := by
  obtain ⟨m, hm⟩ : ∃ m, t.blk.body.length = m + 1 := ⟨t.blk.body.length - 1, by omega⟩
  have hgoes : t.goesOn = true := by simp [Stream.goesOn, h1]; omega
  have hrun := Stream.nextRun_of_runs (n := m) (t.runs_oneStage h1 hb hk (w := 0))
  simp [Stream.tripStart, h1, hgoes, hm, hrun]

/-- With every iteration of a block with one stage done, the stream stands before the next header. -/
theorem Stream.tripStart_done {stopping : Bool} (h1 : t.blk.stages = 1) (hk : t.k + t.trip = t.last) (hn : t.last = t.n) :
    t.tripStart stopping =
      { t with pos := .enter t.blk.next (t.blk.wordAddr (t.blk.body.length - 1)) none } := by
  have hgoes : ({ t with last := t.n } : Stream).goesOn = false := by simp [Stream.goesOn, h1, hk, hn]
  simp [Stream.tripStart, h1, hgoes, hn]

end Sys2Proof.Machine

open Sys2Proof Sys2Proof.Machine

/-- Settles O9: with one stage every word runs, so that the next word or the start of the next trip follows. -/
theorem oneStageSequence : Obligations.OneStageSequence := by
  intro t w h1 hb hk hn hw stopping
  refine ⟨fun hin => ?_, fun hlast hmore => ?_, fun hlast hdone => ?_⟩
  · rw [Stream.past_inner hin (t.runs_oneStage h1 hb hk)]
    exact ⟨rfl, rfl, rfl, rfl⟩
  · have hk' : t.k + (t.trip + 1) < t.last := by omega
    rw [Stream.past_last hlast, Stream.tripStart_oneStage (t := { t with trip := t.trip + 1 }) h1 hb hk' hw]
    exact ⟨rfl, rfl, rfl⟩
  · have hk' : t.k + (t.trip + 1) = t.last := by omega
    rw [Stream.past_last hlast, Stream.tripStart_done (t := { t with trip := t.trip + 1 }) h1 hk' hn]
    simp [← hlast]

end

section
/-! The vector loads and the queue instructions of the A-stream with nothing older in flight (R123 to R126, R265, R374 to R376,
R381): what lets them through, what makes them wait, and what a handler may not use. -/

namespace Sys2Proof.Machine

variable {s : State} {w q : Nat} {i : Instr} {k : State → State}

/-! ### The waits and checks on the way -/

/-- Outside a handler an instruction of the A-stream may use a queue. -/
theorem queueUse_ready (hs : ReadyA s w) (hth : s.h.th = false) : queueUse i s k = k s := by
  simp [queueUse, inA_ready hs, noHandler, hth]

/-- In a handler it may not (R265). -/
theorem queueUse_handler (hx : s.onX = false) (hth : s.h.th = true) :
    queueUse i s k = takeTrap s ⟨false, causeILLEGAL_STREAM, 0, 0, tvalOf i⟩ := by
  simp [queueUse, inA, hx, noHandler, hth, illegalStream, raise_onA hx]

theorem queueInstr_ready {kx : State → State} (hs : ReadyA s w) (hth : s.h.th = false) : queueInstr i s k kx = k s := by
  simp [queueInstr, hs.1, noHandler, hth, confirmed_ready hs]

theorem queueInstr_handler {kx : State → State} (hx : s.onX = false) (hth : s.h.th = true) :
    queueInstr i s k kx = takeTrap s ⟨false, causeILLEGAL_STREAM, 0, 0, tvalOf i⟩ := by
  simp [queueInstr, hx, noHandler, hth, illegalStream, raise_onA hx]

theorem lengthKnown_ready (hs : ReadyA s w) : lengthKnown s k = k s := by
  obtain ⟨-, -, hload, -⟩ := hs
  simp [lengthKnown, hload]

theorem accessed_ready (hs : ReadyA s w) (vas : List Word) : accessed vas s k = k s := accessedBy_ready hs _ _

/-- The A-stream waits on a queue, and nothing else changes (R123). -/
theorem qblock_onA (hx : s.onX = false) :
    qblock s = { s with h := { s.h with a := { s.h.a with st := .qblock, wait := .none } } } := by
  simp [qblock, State.stall, State.setCur, State.cur, hx]

theorem misaligned_eq_false {e : BitVec 3} {a : Word} (h : 8 * a.toNat % (4 * 2 ^ e.toNat) = 0) :
    misaligned (ewBits e) a = false := by
  simp [misaligned, ewBits, h]

/-! ### Entries of a queue (R122, R123) -/

section
variable {h : Hart} (hr : h.refill = none) (hq : q < 8)
include hr hq

theorem takeEntry_full (hf : 8 ≤ (h.queue q).entries.length) : takeEntry h q = none := by
  simp [takeEntry, hr, qCapacity, hq, hf]

theorem takeEntry_room (hf : (h.queue q).entries.length < 8) :
    takeEntry h q = some (qTail (h.queue q).head (h.queue q).entries.length, false) := by
  simp [takeEntry, hr, qCapacity, hq, hf]

end

theorem headEntry_empty {h : Hart} (he : (h.queue q).entries = [] ) : headEntry h q = none := by
  simp [headEntry, he]

/-! ### The causes of a load's operands (R363, R375) -/

section
variable {i : Instr} {q : BitVec 3} {a : BitVec 6} {e : BitVec 3} {stride : Word}
  (ha : 8 * (s.reg a.toNat).toNat % (4 * 2 ^ e.toNat) = 0)
include ha

theorem loadCause_unit {ff : Bool} : loadCause (loadOp i q a 0 e .unit ff s) = none := by
  simp [loadCause, loadOp, misaligned_eq_false ha]

/-- A strided load asks for an aligned stride, a first-fault one does not (R255, R376). -/
theorem loadCause_strided {ff : Bool} (hstride : ff = true ∨ 8 * stride.toNat % (4 * 2 ^ e.toNat) = 0) :
    loadCause (loadOp i q a stride e .strided ff s) = none := by
  rcases hstride with rfl | hstride
  · simp [loadCause, loadOp, misaligned_eq_false ha]
  · simp [loadCause, loadOp, misaligned_eq_false ha, misaligned_eq_false hstride]

theorem loadCause_explicit {f : BitVec 5} (hf : fmtDefined f.toNat = true) :
    loadCause (loadOp i q a 0 e (.explicit f) false s) = none := by
  simp [loadCause, loadOp, misaligned_eq_false ha, hf]

end

/-- A load with nothing older in flight and no cause of its own goes to its queue. -/
theorem vectorLoad_ready {o : State → LoadOp} (hs : ReadyA s w) (hth : s.h.th = false) (hc : loadCause (o s) = none) :
    vectorLoad i o s = loadPlain (o s) s := by
  simp only [vectorLoad, queueUse_ready hs hth, lengthKnown_ready hs, loadChecked, hc, loadAt, accessed_ready hs]

/-- A load whose queue is full waits (R124). -/
theorem loadPlain_full {o : LoadOp} (hr : s.h.refill = none) (hq : o.q < 8)
    (hf : 8 ≤ (s.h.queue o.q).entries.length) : loadPlain o s = qblock s := by
  simp [loadPlain, takeEntry_full hr hq hf]

/-! ### A queue that is full or empty (R123) -/

section
variable {q : BitVec 3} {a : BitVec 6} {e : BitVec 3} (hs : ReadyA s w) (hth : s.h.th = false)
include hs hth

section
variable (hr : s.h.refill = none) (hf : 8 ≤ (s.h.queue q.toNat).entries.length)
include hr hf

theorem exec_vldUnit_full (ha : 8 * (s.reg a.toNat).toNat % (4 * 2 ^ e.toNat) = 0) :
    exec (.vldUnit q a e) s = .next (qblock s) :=
  congrArg Host.Outcome.next ((vectorLoad_ready hs hth (loadCause_unit ha)).trans (loadPlain_full hr q.isLt hf))

theorem exec_vldl_full : exec (.vldl q a e) s = .next (qblock s) := by
  simp only [exec, execVldl, queueUse_ready hs hth, confirmed_ready hs, takeEntry_full hr q.isLt hf]

end

theorem exec_qpushA_full (hf : 8 ≤ (s.h.queue q.toNat).entries.length) : exec (.qpushA q a) s = .next (qblock s) := by
  have hcap : qCapacity q.toNat = 8 := if_pos q.isLt
  simp only [exec, execQpushA, queueInstr_ready hs hth, hcap, if_pos hf]

section
variable (he : (s.h.queue q.toNat).entries = [])
include he

theorem exec_vstUnit_empty (ha : 8 * (s.reg a.toNat).toNat % (4 * 2 ^ e.toNat) = 0) :
    exec (.vstUnit q a e) s = .next (qblock s) := by
  have hzero : misaligned (ewBits e) 0 = false := by simp [misaligned]
  simp only [exec, execVstUnit, vectorStoreIssue, queueUse_ready hs hth, confirmed_ready hs, misaligned_eq_false ha, hzero,
    Bool.or_self, Bool.false_eq_true, if_false, headEntry_empty he]

theorem exec_vstl_empty (ha : 8 * (s.reg a.toNat).toNat % (4 * 2 ^ e.toNat) = 0) :
    exec (.vstl q a e) s = .next (qblock s) := by
  simp only [exec, execVstl, queueUse_ready hs hth, confirmed_ready hs, misaligned_eq_false ha, Bool.false_eq_true, if_false,
    headEntry_empty he]

theorem exec_qpopA_empty : exec (.qpopA q) s = .next (qblock s) := by
  simp only [exec, execQpopA, queueInstr_ready hs hth, headEntry_empty he]

end

theorem exec_qputs_full (hf : 16 ≤ s.h.qx.entries.length) : exec (.qputs a) s = .next (qblock s) := by
  simp only [exec, execQputs, queueInstr_ready hs hth, if_pos hf]

theorem exec_qgets_empty (he : s.h.qa.entries = []) : exec (.qgets a) s = .next (qblock s) := by
  simp only [exec, execQgets, queueInstr_ready hs hth, he]

end

/-- In a handler the queue instructions raise ILLEGAL_STREAM (R265). -/
theorem exec_queue_handler {q : BitVec 3} {a : BitVec 6} {e : BitVec 3} (hx : s.onX = false) (hth : s.h.th = true) :
    ∀ i ∈ [Instr.vldUnit q a e, .vldffUnit q a e, .vstUnit q a e, .vldl q a e, .vstl q a e, .qpushA q a, .qpopA q, .qputs a,
      .qgets a], exec i s = .next (takeTrap s ⟨false, causeILLEGAL_STREAM, 0, 0, tvalOf i⟩) := by
  have huse (i : Instr) (k : State → State) := congrArg (Host.Outcome.next (φ := Fault) (ρ := Refusal))
    (queueUse_handler (i := i) (k := k) hx hth)
  have hinstr (i : Instr) (k kx : State → State) := congrArg (Host.Outcome.next (φ := Fault) (ρ := Refusal))
    (queueInstr_handler (i := i) (k := k) (kx := kx) hx hth)
  simp only [List.forall_mem_cons]
  exact ⟨huse _ _, huse _ _, huse _ _, huse _ _, huse _ _, hinstr _ _ _, hinstr _ _ _, hinstr _ _ _, hinstr _ _ _,
    fun _ h => absurd h List.not_mem_nil⟩

end Sys2Proof.Machine

open Sys2Proof Sys2Proof.Machine

/-- Settles O26: with its queue full or empty the instruction comes to `qblock`, and in a handler to ILLEGAL_STREAM. -/
theorem queuesBlock : Obligations.QueuesBlock := by
  refine ⟨fun s w q a e hs hth hr ha => ?_, fun s i q a e hx hth hi => exec_queue_handler hx hth i hi⟩
  have hblock := congrArg (Host.Outcome.next (φ := Fault) (ρ := Refusal)) (qblock_onA hs.1)
  refine ⟨fun hf => ⟨?_, ?_, ?_⟩, fun he => ⟨?_, ?_, ?_⟩, fun hf => ?_, fun he => ?_⟩
  · exact (exec_vldUnit_full hs hth hr hf ha).trans hblock
  · exact (exec_vldl_full hs hth hr hf).trans hblock
  · exact (exec_qpushA_full hs hth hf).trans hblock
  · exact (exec_vstUnit_empty hs hth he ha).trans hblock
  · exact (exec_vstl_empty hs hth he ha).trans hblock
  · exact (exec_qpopA_empty hs hth he).trans hblock
  · exact (exec_qputs_full hs hth hf).trans hblock
  · exact (exec_qgets_empty hs hth he).trans hblock

end

section
/-! What the queue instructions do (R126, R381): pushes, pops and the word of QSTAT. -/

namespace Sys2Proof.Machine

variable {s : State} {w : Nat} {i : Instr} {q : BitVec 3} {a b : BitVec 6}

/-! ### Writes with nothing in flight -/

theorem canWrite_readyA (hs : ReadyA s w) : s.canWrite = true := by
  obtain ⟨hx, -, hload, -⟩ := hs
  simp [State.canWrite, hx, hload]

theorem canWrite_readyX (hs : ReadyX s w) : s.canWrite = true := by
  obtain ⟨hx, -, hxl⟩ := hs
  simp [State.canWrite, hx, Hart.unadmitted, hxl]

theorem atWord_readyA (hs : ReadyA s w) : AtWord s w := by
  obtain ⟨hx, hpos, -⟩ := hs
  simpa [AtWord, State.cur, hx] using hpos

theorem atWord_readyX (hs : ReadyX s w) : AtWord s w := by
  obtain ⟨hx, hpos, -⟩ := hs
  simpa [AtWord, State.cur, hx] using hpos

/-! ### The A-stream (R381) -/

theorem exec_qpushA_pushes (hs : ReadyA s w) (hth : s.h.th = false)
    (hr : (s.h.queue q.toNat).entries.length < qCapacity q.toNat) :
    exec (.qpushA q a) s = .next ({ s with h := s.h.setQueue q.toNat { s.h.queue q.toNat with
      entries := (s.h.queue q.toNat).entries ++ [⟨splatEntry s.h (s.reg a.toNat), false, 0, 0⟩] } } : State).advance := by
  simp only [exec, execQpushA, queueInstr_ready hs hth, if_neg (Nat.not_le.mpr hr)]

theorem exec_qpopA_pops {r : VReg} (hs : ReadyA s w) (hth : s.h.th = false) (hr : headEntry s.h q.toNat = some r) :
    exec (.qpopA q) s = .next ({ s with h := popEntry q.toNat s.h } : State).advance := by
  simp only [exec, execQpopA, queueInstr_ready hs hth, hr]

theorem exec_qputs_pushesA (hs : ReadyA s w) (hth : s.h.th = false) (hr : s.h.qx.entries.length < 16) :
    exec (.qputs a) s = .next
      ({ s with h := { s.h with qx := { s.h.qx with entries := s.h.qx.entries ++ [s.reg a.toNat] } } } : State).advance := by
  simp only [exec, execQputs, queueInstr_ready hs hth, if_neg (Nat.not_le.mpr hr)]

theorem exec_qgets_popsA {v : Word} {rest : List Word} (hs : ReadyA s w) (hth : s.h.th = false)
    (he : s.h.qa.entries = v :: rest) (hseen : s.h.qa.unseen < s.h.qa.entries.length) :
    exec (.qgets a) s = .next (({ s with h := { s.h with
      qa := { s.h.qa with head := s.h.qa.head + 1, entries := rest } } } : State).writeReg a v) := by
  rw [he] at hseen
  simp only [exec, execQgets, queueInstr_ready hs hth, he, if_neg (Nat.not_le.mpr hseen)]

/-! ### The X-stream with every older instruction retired (R126, R381) -/

/-- The queue effects are committed at once. -/
theorem scalarEffects_ready {h : Hart} {pops pushes : List (Nat × Nat)} (hxl : h.xl = []) :
    scalarEffects pops pushes { s with h := h } = { s with h := commitEntry ⟨none, true, [], pops, pushes⟩ h } := by
  simp only [scalarEffects, hxl]

theorem commit_pushQa {h : Hart} :
    commitEntry ⟨none, true, [], [], [(9, 1)]⟩ h = { h with qa := { h.qa with unseen := h.qa.unseen - 1 } } := rfl

theorem commit_popQx {h : Hart} : commitEntry ⟨none, true, [], [(8, 1)], []⟩ h = { h with qx := { h.qx with
    head := h.qx.head + 1, entries := h.qx.entries.drop 1, popped := h.qx.popped - 1 } } := rfl

theorem exec_qputs_pushesX (hs : ReadyX s w) (hr : s.h.qa.entries.length < 16) (hu : s.h.qa.unseen = 0) :
    exec (.qputs a) s = .next
      ({ s with h := { s.h with qa := { s.h.qa with entries := s.h.qa.entries ++ [s.reg a.toNat] } } } : State).advance := by
  obtain ⟨hx, -, hxl⟩ := hs
  simp only [exec, execQputs, queueInstr, if_pos hx, if_neg (Nat.not_le.mpr hr)]
  rw [scalarEffects_ready (by exact hxl), commit_pushQa]
  simp only [hu]

theorem exec_qgets_popsX {v : Word} {rest : List Word} (hs : ReadyX s w) (he : s.h.qx.entries = v :: rest)
    (hp : s.h.qx.popped = 0) : exec (.qgets a) s = .next (({ s with h := { s.h with
      qx := { s.h.qx with head := s.h.qx.head + 1, entries := rest } } } : State).writeReg a v) := by
  have hw := canWrite_readyX hs
  obtain ⟨hx, -, hxl⟩ := hs
  have hat : listAt s.h.qx.entries s.h.qx.popped = some v := by rw [he, hp]; rfl
  simp only [exec, execQgets, queueInstr, if_pos hx, hat, if_pos hw]
  rw [scalarEffects_ready (by exact hxl), commit_popQx]
  simp only [he, hp, List.drop_one, List.tail_cons, Nat.zero_add, Nat.sub_self]

/-! ### QSTAT (R381) -/

theorem exec_qstatData_writes {k : Nat} (hs : ReadyX s k ∨ ReadyA s k ∧ s.h.th = false) :
    exec (.qstatData q b) s = .next (s.writeReg b (queueStat s.onX (s.h.queue q.toNat))) := by
  rcases hs with hs | ⟨hs, hth⟩
  · simp only [exec, execQstatData, queueInstr, hs.1, if_true]
  · simp only [exec, execQstatData, queueInstr_ready hs hth]

theorem exec_qstatScalar_writes {n : Nat} {k : BitVec 1} (hs : ReadyX s n ∨ ReadyA s n ∧ s.h.th = false) :
    exec (.qstatScalar k b) s = .next (s.writeReg b (scalarStat s.onX (if k = 0 then s.h.qx else s.h.qa))) := by
  rcases hs with hs | ⟨hs, hth⟩
  · simp only [exec, execQstatScalar, queueInstr, hs.1, if_true]
  · simp only [exec, execQstatScalar, queueInstr_ready hs hth]

/-- What a stream sees of a data queue (R126). -/
theorem queueStat_eq (onX : Bool) (d : DQueue) : queueStat onX d =
    let count := d.entries.length - (if onX then d.popped else d.unseen)
    let skip := if onX then d.popped else 0
    statWord count (match listAt d.entries skip with | some e => e.pending && decide (0 < count) | none => false)
      (d.head + BitVec.ofNat 32 skip) := by
  cases onX <;> rfl

/-- The fields of the word that QSTAT gives: the count in bits 15 to 0, the pending bit 16, zeros to bit 31, the sequence
number above. -/
theorem statWord_fields (count : Nat) (pending : Bool) (head : BitVec 32) :
    (statWord count pending head).extractLsb' 0 16 = BitVec.ofNat 16 count ∧
      (statWord count pending head).getLsbD 16 = pending ∧ (statWord count pending head).extractLsb' 17 15 = 0 ∧
      (statWord count pending head).extractLsb' 32 32 = head := by
  have hhead := head.isLt
  have hp : (if pending then 65536 else 0) = 65536 * pending.toNat := by cases pending <;> rfl
  have hle : pending.toNat ≤ 1 := pending.toNat_le
  have hval : (statWord count pending head).toNat = count % 65536 + 65536 * pending.toNat + 2 ^ 32 * head.toNat := by
    simp only [statWord, hp, BitVec.toNat_ofNat]
    omega
  refine ⟨?_, ?_, ?_, ?_⟩
  · apply BitVec.eq_of_toNat_eq
    simp only [BitVec.extractLsb'_toNat, hval, BitVec.toNat_ofNat, Nat.shiftRight_zero]
    omega
  · rw [BitVec.getLsbD, Nat.testBit_eq_decide_div_mod_eq, hval]
    cases pending <;> simp <;> omega
  · apply BitVec.eq_of_toNat_eq
    simp only [BitVec.extractLsb'_toNat, hval, Nat.shiftRight_eq_div_pow, BitVec.ofNat_eq_ofNat, BitVec.toNat_ofNat]
    omega
  · apply BitVec.eq_of_toNat_eq
    simp only [BitVec.extractLsb'_toNat, hval, Nat.shiftRight_eq_div_pow]
    omega

end Sys2Proof.Machine

open Sys2Proof Sys2Proof.Machine

/-- Settles O27: each instruction changes its queue and moves on or writes its register; an X-stream instruction with nothing
older commits its queue effects at once. -/
theorem queueInstructions : Obligations.QueueInstructions := by
  refine ⟨fun s w q a hs hth => ⟨fun _ hr => ?_, fun r _ hr => ?_, fun hr => ?_, fun v rest he hseen => ?_⟩,
    fun s w a hs => ⟨fun hr hu => ?_, fun v rest he hp => ?_⟩, fun s w q k b hs => ?_⟩
  · exact ⟨_, exec_qpushA_pushes hs hth hr, advance_ran (atWord_readyA hs)⟩
  · exact ⟨_, exec_qpopA_pops hs hth hr, advance_ran (atWord_readyA hs)⟩
  · exact ⟨_, exec_qputs_pushesA hs hth hr, advance_ran (atWord_readyA hs)⟩
  · exact ⟨_, exec_qgets_popsA hs hth he hseen, writeReg_wrote (by exact atWord_readyA hs) (by exact canWrite_readyA hs) a v⟩
  · exact ⟨_, exec_qputs_pushesX hs hr hu, advance_ran (atWord_readyX hs)⟩
  · exact ⟨_, exec_qgets_popsX hs he hp, writeReg_wrote (by exact atWord_readyX hs) (by exact canWrite_readyX hs) a v⟩
  · have hat : AtWord s w := hs.elim atWord_readyX fun h => atWord_readyA h.1
    have hw : s.canWrite = true := hs.elim canWrite_readyX fun h => canWrite_readyA h.1
    refine ⟨⟨_, _, exec_qstatData_writes hs, writeReg_wrote hat hw b _, ?_⟩,
      _, _, exec_qstatScalar_writes hs, writeReg_wrote hat hw b _, ?_⟩
    · rw [queueStat_eq]
      exact statWord_fields _ _ _
    · exact statWord_fields _ _ _

end

section
/-! How the vector loads issue (R124, R374 to R376). -/

namespace Sys2Proof.Machine

variable {s : State} {w : Nat} {p : PLoad} {o : LoadOp} {seq : BitVec 32} {idx : Option VReg} {oks : List ElemAt}

/-- The elements of an access are numbered below its count. -/
theorem loadEls_lt {e : Nat × Nat} (he : e ∈ loadEls p) : e.1 < p.n := by
  have hstep {base : Word} {step : Int} (h : e ∈ stepEls base step p.n) : e.1 < p.n := by
    obtain ⟨i, hi, rfl⟩ := List.mem_map.mp h
    exact List.mem_range.mp hi
  unfold loadEls at he
  split at he
  · exact hstep he
  · obtain ⟨i, hi, rfl⟩ := List.mem_map.mp he
    exact List.mem_range.mp (List.mem_filter.mp hi).1
  · exact absurd he List.not_mem_nil
  · exact hstep he

/-- The elements with their translations are elements of the access. -/
theorem withXlats_lt {n : Nat} {es : List (Nat × Nat)} (hes : ∀ e ∈ es, e.1 < n) :
    ∀ x ∈ withXlats es oks, x.1 < n := by
  induction es generalizing oks with
  | nil => simp [withXlats]
  | cons e es ih =>
    obtain ⟨he, hes⟩ := List.forall_mem_cons.mp hes
    cases oks with
    | nil => simp [withXlats]
    | cons o os =>
      unfold withXlats
      split
      · exact List.forall_mem_cons.mpr ⟨he, ih hes⟩
      · exact ih hes

/-- A load whose elements all translate reserves its entry, joins the loads in flight, and the stream moves on (R124). -/
theorem issueLoad_reached (hat : AtWord s w) (hload : s.h.loads = [])
    (hreach : reachElems .read o.ew (loadEls (pendingLoad o seq idx s.h.a))
        { s with h := reserveEntry o.q seq false idx (o.poisons s) s.h } =
      (oks, [], { s with h := reserveEntry o.q seq false idx (o.poisons s) s.h })) :
    Ran { s with h := { reserveEntry o.q seq false idx (o.poisons s) s.h with
      loads := [{ pendingLoad o seq idx s.h.a with els := withXlats (loadEls (pendingLoad o seq idx s.h.a)) oks }] } }
      (issueLoad o seq false idx s) w := by
  have hels := withXlats_lt (oks := oks) fun _ he => loadEls_lt (p := pendingLoad o seq idx s.h.a) he
  have hall : (withXlats (loadEls (pendingLoad o seq idx s.h.a)) oks).filter (fun e => !o.ff || decide (e.1 < o.n)) =
      withXlats (loadEls (pendingLoad o seq idx s.h.a)) oks := by
    refine List.filter_eq_self.mpr fun e he => ?_
    simpa [pendingLoad] using Or.inr (hels e he)
  have hcount : (if o.ff then ffCount o.n [] else o.n) = o.n := by split <;> rfl
  have hkept : (reserveEntry o.q seq false idx (o.poisons s) s.h).loads = [] := hload
  have hrun : issueLoad o seq false idx s = ({ s with h := { reserveEntry o.q seq false idx (o.poisons s) s.h with
      loads := [{ pendingLoad o seq idx s.h.a with els := withXlats (loadEls (pendingLoad o seq idx s.h.a)) oks }] } } :
        State).advance := by
    simp only [issueLoad, hreach, List.filter_nil, ite_self, hcount, hall, hkept, List.nil_append]
    rfl
  rw [hrun]
  exact advance_ran hat

/-- VLD and VLDFF without a cause of their own, with room in their queue. -/
theorem vectorLoad_issues {i : Instr} {o : State → LoadOp} (hs : ReadyA s w) (hth : s.h.th = false)
    (hr : s.h.refill = none) (hq : (o s).q < 8) (hroom : (s.h.queue (o s).q).entries.length < 8) (hc : loadCause (o s) = none) :
    vectorLoad i o s =
      issueLoad (o s) (qTail (s.h.queue (o s).q).head (s.h.queue (o s).q).entries.length) false none s := by
  rw [vectorLoad_ready hs hth hc, loadPlain, takeEntry_room hr hq hroom]

/-- Where all its elements translate, it joins the loads in flight. -/
theorem vectorLoad_reached {i : Instr} (o : State → LoadOp) (hs : ReadyA s w) (hth : s.h.th = false)
    (hr : s.h.refill = none) (hq : (o s).q < 8) (hroom : (s.h.queue (o s).q).entries.length < 8) (hc : loadCause (o s) = none)
    (hrun : exec i s = .next (vectorLoad i o s)) :
    let tail := qTail (s.h.queue (o s).q).head (s.h.queue (o s).q).entries.length
    let p := pendingLoad (o s) tail none s.h.a
    let held := reserveEntry (o s).q tail false none ((o s).poisons s) s.h
    ∀ oks, reachElems .read (o s).ew (loadEls p) { s with h := held } = (oks, [], { s with h := held }) →
      ∃ t, exec i s = .next t ∧ Ran { s with h := { held with loads := [{ p with els := withXlats (loadEls p) oks }] } } t w := by
  intro tail p held oks hreach
  obtain ⟨-, -, hload, -⟩ := id hs
  exact ⟨_, hrun.trans (congrArg _ (vectorLoad_issues hs hth hr hq hroom hc)),
    issueLoad_reached (atWord_readyA hs) hload hreach⟩

/-- VLDX with an index and room in its queue: the index is popped, and limits the count (R374). -/
theorem exec_vldx_issues {q : BitVec 3} {a : BitVec 6} {x : BitVec 1} {e m : BitVec 3} {idx : VReg} (hs : ReadyA s w)
    (hth : s.h.th = false) (hr : s.h.refill = none) (hroom : (s.h.queue q.toNat).entries.length < 8)
    (hidx : headEntry s.h (6 + x.toNat) = some idx) (hc : indexCause idx = none)
    (ha : 8 * (s.reg a.toNat).toNat % (4 * 2 ^ e.toNat) = 0) :
    exec (.vldx q a x e m) s = .next (issueLoad
      { gatherOp q a x e m s with n := Nat.min (gatherOp q a x e m s).n (regCount s.h idx) }
      (qTail (s.h.queue q.toNat).head (s.h.queue q.toNat).entries.length) false (some idx)
      { s with h := popEntry (6 + x.toNat) s.h }) := by
  have hindex : gatherIndex s.h q.toNat (6 + x.toNat) = some (idx, false) := by simp [gatherIndex, hr, hidx]
  have hentry := takeEntry_room hr q.isLt hroom
  have hcause : gatherCause (gatherOp q a x e m s) idx = none := by
    simp [gatherCause, gatherOp, loadOp, misaligned_eq_false ha, hc]
  have hq : (gatherOp q a x e m s).q = q.toNat := rfl
  simp only [exec, execVldx, queueUse_ready hs hth, lengthKnown_ready hs, gather, hq, hindex, hentry, hcause,
    accessed_ready hs, Bool.false_eq_true, if_false]

end Sys2Proof.Machine

open Sys2Proof Sys2Proof.Machine

/-- Settles O22: each load comes to `issueLoad` with its entry settled, and all its elements translate. -/
theorem vectorLoadsIssue : Obligations.VectorLoadsIssue := by
  refine ⟨fun s w q a b e f hs hth hr hroom ha => ?_, fun s w q a x e m idx hs hth hr hroom hidx hc ha => ?_⟩
  · have hq := q.isLt
    refine ⟨?_, fun hstride => ?_, fun hf => ?_, ?_, ?_⟩
    · exact vectorLoad_reached (loadOp (.vldUnit q a e) q a 0 e .unit false) hs hth hr hq hroom (loadCause_unit ha) rfl
    · exact vectorLoad_reached (fun s => loadOp (.vldStrided q a b e) q a (s.reg b.toNat) e .strided false s) hs hth hr hq hroom
        (loadCause_strided ha (.inr hstride)) rfl
    · exact vectorLoad_reached (loadOp (.vldExplicit q a f e) q a 0 e (.explicit f) false) hs hth hr hq hroom
        (loadCause_explicit ha hf) rfl
    · exact vectorLoad_reached (loadOp (.vldffUnit q a e) q a 0 e .unit true) hs hth hr hq hroom (loadCause_unit ha) rfl
    · exact vectorLoad_reached (fun s => loadOp (.vldffStrided q a b e) q a (s.reg b.toNat) e .strided true s) hs hth hr hq hroom
        (loadCause_strided ha (.inl rfl)) rfl
  · intro o tail p held oks hreach
    exact ⟨_, exec_vldx_issues hs hth hr hroom hidx hc ha, issueLoad_reached (by exact atWord_readyA hs) hs.2.2.1 hreach⟩

end

section
/-! What the admission of a vector or matrix instruction leaves of its hart (R388 to R433): one lemma for each update that an
effect is made of, one for each shape of effect, and then the instructions. -/

namespace Sys2Proof.Machine

/-- A queued instruction without the scalar registers that it keeps. -/
def XEntry.bare (e : XEntry) : XEntry := { e with op := e.op.map fun (x : XOp) => { x with regs := [] } }

/-- A hart without what the admission of a vector or matrix instruction may change: vector and mask registers, tiles, mk.W, the
generator, the flags, the X-stream's scalar registers and what the queued instructions keep of them, and the data queues. -/
def Hart.apart (h : Hart) : Hart :=
  { h with
    v := [], m := [], tiles := [], tdirty := 0, mkW := 0, lfsr := 0, xflags := 0, x := { h.x with regs := [] }, dq := []
    xl := h.xl.map XEntry.bare }

/-- An outcome at admission leaves a hart but for what it may change. -/
def XRes.leaves (h : Hart) : XRes → Prop
  | .done h1 _ _ => h1.apart = h.apart
  | _ => True

variable {h g : Hart} {op : XOp} {s : SrcState} {pops pushes : List (Nat × Nat)}

/-! ### Updates -/

@[simp] theorem leaves_done : (XRes.done g pops pushes).leaves h ↔ g.apart = h.apart := Iff.rfl
@[simp] theorem leaves_wait : XRes.wait.leaves h := trivial
@[simp] theorem leaves_trap (c v : Nat) : (XRes.trap c v).leaves h := trivial

@[simp] theorem setVreg_apart (n : Nat) (r : VReg) : (h.setVreg n r).apart = h.apart := rfl
@[simp] theorem setTile_apart (n : Nat) (t : Tile) : (h.setTile n t).apart = h.apart := rfl
@[simp] theorem setQueue_apart (n : Nat) (q : DQueue) : (h.setQueue n q).apart = h.apart := rfl
@[simp] theorem addFlags_apart (fl : Nat) : (h.addFlags fl).apart = h.apart := rfl
@[simp] theorem endRnd_apart (r : Rnd) : (h.endRnd r).apart = h.apart := rfl
@[simp] theorem mkW_apart (w : BitVec 3) : Hart.apart { h with mkW := w } = h.apart := rfl

@[simp] theorem setMask_apart (n : Nat) (v : MaskBits) : (h.setMask n v).apart = h.apart := by
  unfold Hart.setMask
  split
  · rfl
  · rfl

/-- A scalar value that spreads to the registers that younger instructions keep changes nothing else of them. -/
theorem spreadX_bare (n : Nat) (v : Word) (es : List XEntry) : (spreadX n v es).1.map XEntry.bare = es.map XEntry.bare := by
  induction es with
  | nil => rfl
  | cons e es ih =>
    have hop : XEntry.bare { e with op := e.op.map fun o => { o with regs := SMap.set 0 o.regs n v } } = e.bare := by
      simp only [XEntry.bare, Option.map_map]
      rfl
    unfold spreadX
    split
    · rw [List.map_cons, List.map_cons, hop]
    · rw [List.map_cons, List.map_cons, hop, ih]

theorem spreadFrom_bare (n : Nat) (v : Word) (es : List XEntry) :
    (spreadFrom n v es).1.map XEntry.bare = es.map XEntry.bare := by
  induction es with
  | nil => rfl
  | cons e es ih =>
    unfold spreadFrom
    split
    · rw [List.map_cons, List.map_cons, ih]
    · split
      · rfl
      · rw [List.map_cons, List.map_cons, spreadX_bare]

theorem Stream.setReg_bare {t : Stream} {n : Nat} {v : Word} : { t.setReg n v with regs := [] } = { t with regs := [] } := by
  unfold Stream.setReg
  split
  · rfl
  · rfl

@[simp] theorem setX_apart (n : Nat) (v : Word) : (h.setX n v).apart = h.apart := by
  unfold Hart.setX
  split
  · rfl
  · have hregs : ({ (if (spreadFrom n v h.xl).2 then h.x.setReg n v else h.x) with regs := [] } : Stream) =
        { h.x with regs := [] } := by
      split
      · exact Stream.setReg_bare
      · rfl
    simp only [Hart.apart, spreadFrom_bare, hregs]

/-! ### Shapes (R193 to R196, R389 to R392) -/

theorem readSrc_apart {t : SrcState} {c : Nat} (hr : readSrc s c = some t) : t.h.apart = s.h.apart := by
  unfold readSrc at hr
  split at hr
  · obtain rfl := Option.some.inj hr
    rfl
  · simp only at hr
    split at hr
    · exact absurd hr (by simp)
    · split at hr
      · exact absurd hr (by simp)
      · obtain rfl := Option.some.inj hr
        rfl

/-- Reading the sources takes deferred flags of queue entries alone. -/
theorem readSrcs_apart {t : SrcState} {cs : List Nat} (hr : readSrcs s cs = some t) : t.h.apart = s.h.apart := by
  induction cs generalizing s with
  | nil =>
    obtain rfl := Option.some.inj hr
    rfl
  | cons c cs ih =>
    rw [readSrcs] at hr
    split at hr
    · exact absurd hr (by simp)
    · next s1 h1 => exact (ih hr).trans (readSrc_apart h1)

/-- Both ways of a choice leave the hart. -/
theorem leaves_ite {p : Prop} [Decidable p] {y n : XRes} (hy : y.leaves h) (hn : n.leaves h) :
    (if p then y else n).leaves h := by
  split
  · exact hy
  · exact hn

theorem withSrcs_leaves {codes : List Nat} {leaves equalOk : Bool} {k : SrcState → XRes}
    (hk : ∀ s, s.h.apart = h.apart → (k s).leaves h) : (withSrcs h codes leaves equalOk k).leaves h := by
  unfold withSrcs
  split
  · trivial
  · next s hs =>
    split
    · trivial
    · split
      · trivial
      · exact hk s (readSrcs_apart hs)

theorem fmtChecked_leaves {a f : Nat} {k : XRes} (hk : k.leaves h) : (fmtChecked h a f k).leaves h := by
  refine leaves_ite hk ?_
  split
  · trivial
  · trivial

theorem elementwise_leaves {d m f hrot lo : Nat} {z every : Bool} {rule : ScaleRule} {vcs : List Vc} {lims : List Nat}
    {elt : Nat → Elt} (hs : s.h.apart = h.apart) : (elementwise s op d m z f rule hrot vcs lims lo every elt).leaves h := by
  unfold elementwise
  simp only
  split
  · trivial
  · exact leaves_ite (by simpa using hs) (by simpa using hs)

/-! ### Vector instructions -/

variable {d : BitVec 5} {a b : BitVec 6} {m r : BitVec 3} {z : BitVec 1}

theorem binaryEffect_leaves {rotOk : Bool} {f : Bool → Val → Val → Val} :
    (binaryEffect rotOk f op h d a b m r z).leaves h := by
  refine withSrcs_leaves fun s hs => ?_
  simp only
  split
  · trivial
  · exact elementwise_leaves hs

theorem fusedEffect_leaves {minus : Bool} : (fusedEffect minus op h d a b m r z).leaves h := by
  refine withSrcs_leaves fun s hs => ?_
  simp only
  split
  · trivial
  · exact elementwise_leaves hs

theorem signEffect_leaves {f : Val → Val} : (signEffect f op h d a m z).leaves h :=
  withSrcs_leaves fun _ hs => elementwise_leaves hs

theorem reciprocalEffect_leaves {f : Val → Val} : (reciprocalEffect f op h d a m z).leaves h :=
  withSrcs_leaves fun _ hs => leaves_ite trivial (elementwise_leaves hs)

theorem bitwiseEffect_leaves {f : Nat → Nat → Nat} : (bitwiseEffect f op h d a b m r z).leaves h :=
  withSrcs_leaves fun _ hs => leaves_ite trivial (elementwise_leaves hs)

theorem shiftEffect_leaves {f : Bool → Nat → Nat → Int → Nat} : (shiftEffect f op h d a b m r z).leaves h :=
  withSrcs_leaves fun _ hs => leaves_ite trivial (elementwise_leaves hs)

theorem compareEffect_leaves {c : Cond} {md : BitVec 3} : (compareEffect c op h md a b m r z).leaves h := by
  refine withSrcs_leaves fun s hs => ?_
  simp only
  split
  · trivial
  · simpa using hs

theorem vselEffect_leaves : (vselEffect op h d a b m r).leaves h := by
  refine withSrcs_leaves fun s hs => ?_
  simp only
  split
  · trivial
  · exact elementwise_leaves hs

theorem vmovEffect_leaves : (vmovEffect op h d a m z).leaves h := withSrcs_leaves fun _ hs => elementwise_leaves hs

theorem vextEffect_leaves : (vextEffect op h d a b).leaves h := by
  refine withSrcs_leaves fun s hs => ?_
  simpa using hs

theorem vinsEffect_leaves : (vinsEffect op h d a b).leaves h :=
  withSrcs_leaves fun _ _ => leaves_ite rfl (setVreg_apart _ _)

theorem vtagEffect_leaves : (vtagEffect op h d a b).leaves h := by
  refine fmtChecked_leaves (withSrcs_leaves fun s hs => ?_)
  simpa using hs

theorem vcvtEffect_leaves {f : BitVec 5} : (vcvtEffect op h d a f m z).leaves h :=
  fmtChecked_leaves (withSrcs_leaves fun _ hs => leaves_ite trivial (elementwise_leaves hs))

theorem vscaleEffect_leaves : (vscaleEffect op h d a b m z).leaves h :=
  withSrcs_leaves fun _ hs => leaves_ite trivial (elementwise_leaves hs)

theorem vunrotEffect_leaves : (vunrotEffect op h d a).leaves h := by
  unfold vunrotEffect
  split
  · trivial
  · next s hs =>
    have hs : s.h.apart = h.apart := readSrcs_apart hs
    split
    · trivial
    · simp only
      exact leaves_ite trivial (leaves_ite (by simpa using hs) (by simpa using hs))

theorem vpermEffect_leaves : (vpermEffect op h d a b m r z).leaves h :=
  withSrcs_leaves fun _ hs => leaves_ite trivial (elementwise_leaves hs)

theorem reduceEffect_leaves {k : RedOp} : (reduceEffect k op h d a m).leaves h := by
  refine withSrcs_leaves fun s hs => leaves_ite trivial ?_
  simp only
  split
  · trivial
  · exact leaves_ite (by simpa using hs) (by simpa using hs)

theorem qpushXEffect_leaves {q : BitVec 3} {v : BitVec 5} : (qpushXEffect h q v).leaves h := by
  refine leaves_ite trivial (withSrcs_leaves fun s hs => ?_)
  simpa using hs

theorem qpopXEffect_leaves {q : BitVec 3} {v : Option (BitVec 5)} : (qpopXEffect h q v).leaves h := by
  refine withSrcs_leaves fun s hs => ?_
  cases v with
  | none => simpa using hs
  | some d => simpa using hs

/-! ### Matrix instructions -/

variable {t : BitVec 2} {v : BitVec 5} {x : BitVec 6} {c : BitVec 3} {k : BitVec 1}

theorem mzeroEffect_leaves : (mzeroEffect h t r c).leaves h := leaves_ite (setTile_apart _ _) (setTile_apart _ _)

theorem outerEffect_leaves {minus : Bool} : (outerEffect minus op h t a b r c).leaves h := by
  unfold outerEffect
  split
  · trivial
  · next s hs =>
    have hs : s.h.apart = h.apart := readSrcs_apart hs
    split
    · trivial
    · simp only
      split
      · trivial
      · exact leaves_ite trivial (leaves_ite (by simpa using hs) (leaves_ite (by simpa using hs) (by simpa using hs)))

theorem tileReadEffect_leaves {col : Bool} : (tileReadEffect col op h t v x c k).leaves h :=
  leaves_ite trivial (leaves_ite (by simp) (by simp))

theorem mwrEffect_leaves : (mwrEffect op h t a x c k).leaves h := by
  unfold mwrEffect
  split
  · trivial
  · next s hs =>
    have hs : s.h.apart = h.apart := readSrcs_apart hs
    split
    · trivial
    · exact leaves_ite trivial (leaves_ite trivial (by simpa using hs))

/-! ### Every instruction of the VIQ -/

/-- The admission of an instruction leaves its hart but for what it may change. -/
theorem xEffect_leaves (op : XOp) (h : Hart) : (xEffect op h).leaves h := by
  unfold xEffect
  split
  case h_4 | h_5 => exact fusedEffect_leaves
  case h_8 | h_9 => exact signEffect_leaves
  case h_11 | h_12 => exact reciprocalEffect_leaves
  case h_1 | h_2 | h_3 | h_6 | h_7 | h_10 => exact binaryEffect_leaves
  case h_13 | h_14 | h_15 => exact bitwiseEffect_leaves
  case h_16 | h_17 => exact shiftEffect_leaves
  case h_18 => exact vselEffect_leaves
  case h_19 => exact vmovEffect_leaves
  case h_20 => exact setVreg_apart _ _
  case h_21 => exact vextEffect_leaves
  case h_22 => exact vinsEffect_leaves
  case h_23 | h_24 | h_25 => exact reduceEffect_leaves
  case h_26 | h_27 | h_28 | h_29 | h_30 | h_31 | h_32 | h_33 => exact compareEffect_leaves
  case h_34 => exact elementwise_leaves rfl
  case h_35 | h_36 => exact withSrcs_leaves fun _ hs => elementwise_leaves hs
  case h_37 => exact vpermEffect_leaves
  case h_38 | h_39 | h_40 | h_41 | h_42 => exact setMask_apart _ _
  case h_43 | h_44 => exact setX_apart _ _
  case h_45 => exact mkW_apart _
  case h_46 => exact mzeroEffect_leaves
  case h_47 | h_48 => exact outerEffect_leaves
  case h_49 | h_51 => exact tileReadEffect_leaves
  case h_50 => exact mwrEffect_leaves
  case h_52 => exact vtagEffect_leaves
  case h_53 => exact setX_apart _ _
  case h_54 => exact vcvtEffect_leaves
  case h_55 => exact vscaleEffect_leaves
  case h_56 => exact vunrotEffect_leaves
  case h_57 => exact qpushXEffect_leaves
  case h_58 | h_59 => exact qpopXEffect_leaves
  case h_60 => rfl

end Sys2Proof.Machine

open Sys2Proof Sys2Proof.Machine

/-- Settles O30: every update that an effect is made of leaves the rest of the hart. -/
theorem vectorEffectsChangeOnlyRegisters : Obligations.VectorEffectsChangeOnlyRegisters := by
  intro op h h1 pops pushes hd
  have hapart : h1.apart = h.apart := by
    have hl := xEffect_leaves op h
    rwa [hd] at hl
  exact ⟨congrArg (fun g : Hart => { g with
    v := h.v, m := h.m, tiles := h.tiles, tdirty := h.tdirty, mkW := h.mkW, lfsr := h.lfsr, xflags := h.xflags
    x := { g.x with regs := h.x.regs }, dq := h.dq, xl := h.xl }) hapart, congrArg Hart.xl hapart⟩

end

section
/-! QPOP of an entry that belongs to a load which is not confirmed (R123, R365): the refutation of O29. Two vector loads are in
flight; the lines of the younger have arrived and filled its entry, those of the older have not, so that the entry may still be
taken back and the X-stream waits for it. -/

namespace Sys2Proof.Machine

/-- A QPOP of an entry that is not confirmed waits, though its data are there (R365). -/
theorem qpopXEffect_unconfirmed {h : Hart} {q : BitVec 3} {v : Option (BitVec 5)} {e : QEntry}
    (hat : listAt (h.queue q.toNat).entries (h.queue q.toNat).popped = some e)
    (hu : h.unconfirmed q.toNat (qTail (h.queue q.toNat).head (h.queue q.toNat).popped) = true) :
    qpopXEffect h q v = .wait := by
  have hread : readSrcs ⟨h, [], 0, [], []⟩ [32 + q.toNat] = none := by
    have hmod : q.toNat % 8 = q.toNat := Nat.mod_eq_of_lt q.isLt
    simp [readSrcs, readSrc, hmod, countOf, hat, hu]
  simp [qpopXEffect, withSrcs, hread]

/-- A vector register of FP32 elements, all zero. -/
def plainZero : VReg := ⟨0, 0x08#5, .valid, 0, []⟩

/-- A load of FP32 elements into a queue, at sequence number 0. -/
def loadInto (q : BitVec 3) : PLoad :=
  pendingLoad (loadOp (.vldUnit q 0 3) q 0 0 3 .unit false State.reset) 0 none State.reset.h.a

/-- The older load is on its way to q1; the younger one has filled its entry of q0. -/
def loadsInFlight : List PLoad := [loadInto 1, { loadInto 0 with got := some ⟨plainZero, 0, 8, none⟩ }]

/-- The X-stream with both loads in flight: the entry of q0 is filled, that of q1 is pending. -/
def unconfirmedHead : State :=
  { State.reset with
    onX := true
    h := { State.reset.h with
      x := { State.reset.h.x with pos := .word 0 }, v := [(0, plainZero)], pt := defaultPt, xl := [], loads := loadsInFlight
      dq := [(0, ⟨0, [⟨plainZero, false, 0, 0⟩], 0, 0⟩), (1, ⟨0, [⟨VReg.reset, true, 0, 8⟩], 0, 0⟩)] } }

theorem unconfirmedHead_ready : ReadyX unconfirmedHead 0 := ⟨rfl, rfl, rfl⟩

theorem unconfirmedHead_plain : unconfirmedHead.h.plainReg 0 8 := ⟨rfl, rfl, rfl⟩

/-- The head entry of q0 is there, but it is not confirmed. -/
theorem unconfirmedHead_entry :
    listAt (unconfirmedHead.h.queue 0).entries (unconfirmedHead.h.queue 0).popped = some ⟨plainZero, false, 0, 0⟩ ∧
      unconfirmedHead.h.unconfirmed 0 (qTail (unconfirmedHead.h.queue 0).head (unconfirmedHead.h.queue 0).popped) = true :=
  ⟨rfl, rfl⟩

/-- The QPOP that has entered the VIQ waits there. -/
theorem unconfirmedHead_waits {op : XOp} (ho : op.instr = .qpopXDiscard 0) :
    xEffect op (queued unconfirmedHead (.qpopXDiscard 0) 0 0).h = .wait := by
  obtain ⟨u, e⟩ := queued_eq unconfirmedHead_ready (.qpopXDiscard 0) 0 0
  obtain ⟨hat, hu⟩ := unconfirmedHead_entry
  rw [xEffect, ho, e]
  exact qpopXEffect_unconfirmed (q := 0) hat hu

end Sys2Proof.Machine

open Sys2Proof Sys2Proof.Machine

/-- Refutes O29: its last clause has QPOP complete wherever the head entry is there, not pending, VALID and not rotated; but where
the entry belongs to a load with an older one still on its way, the instruction waits (R365). -/
theorem not_vectorInstructionsTakeEffect : ¬ Obligations.VectorInstructionsTakeEffect := by
  unfold Obligations.VectorInstructionsTakeEffect
  intro h
  have hclauses := h.2 unconfirmedHead 0 8 0 0 0 0 0 0 0 0 0 0 0 0 unconfirmedHead_ready (by decide) (by decide) (.inr rfl) rfl
    unconfirmedHead_plain unconfirmedHead_plain unconfirmedHead_plain unconfirmedHead_plain
  obtain ⟨-, -, -, -, -, -, -, -, -, -, hpop⟩ := hclauses
  obtain ⟨-, op, g, pops, pushes, -, hop, hdone, -⟩ := hpop _ unconfirmedHead_entry.1 rfl rfl rfl
  obtain rfl := Option.some.inj hop
  rw [unconfirmedHead_waits rfl] at hdone
  exact XRes.noConfusion hdone

end

section
/-! What is in flight arrives, is admitted and retires (R124, R126, R128, R365): which loads are confirmed and which are
given back, what the retirement of an instruction leaves of its hart, and what the lines of a load are as they arrive. -/

namespace Sys2Proof.Machine

variable {s : State} {h : Hart} {p : PLoad} {g : Arrival} {rest : List PLoad}

/-! ### What acts on the hart in focus -/

theorem onHart_self {k : State → State} (hx : s.onX = false) (hc : s.cfg.cont = false) (hp : s.h.parking = 0) :
    onHart s.h.id s k = k s := by
  have hfocus : ({ s.focus s.h.id with onX := false } : State) = s := by
    rw [State.focus, if_pos rfl]
    exact congrArg (fun b => ({ s with onX := b } : State)) hx.symm
  unfold onHart
  rw [hfocus]
  simp [hc, hp]

/-! ### Confirmation (R124, R365) -/

/-- A first-fault load that is confirmed changes vl_A alone. -/
theorem confirmLoad_stream : (confirmLoad p g h).a.regs = h.a.regs ∧ (confirmLoad p g h).a.pos = h.a.pos := by
  unfold confirmLoad
  split
  · exact ⟨rfl, rfl⟩
  · exact ⟨rfl, rfl⟩

theorem fillLoad_a : (fillLoad p g h).a = h.a := by
  unfold fillLoad
  split
  · rfl
  · rfl

/-- Loads that are all on their way stay as they are. -/
theorem confirmFrom_onWay (hrest : ∀ y ∈ rest, y.got = none) : confirmFrom rest h = (none, { h with loads := rest }) := by
  cases rest with
  | nil => rfl
  | cons y ys => simp only [confirmFrom, hrest y (List.mem_cons_self ..)]

/-- The oldest load, arrived without a cause, leaves the list. -/
theorem confirmFrom_passed (hg : p.got = some g) (hf : g.fail = none) (hrest : ∀ y ∈ rest, y.got = none) :
    confirmFrom (p :: rest) h = (none, { confirmLoad p g h with loads := rest }) := by
  simp only [confirmFrom, hg, hf, confirmFrom_onWay hrest]

/-- The oldest load, arrived with a cause, is taken back with every younger one. -/
theorem confirmFrom_failed {c : Nat × Nat × Word} (hg : p.got = some g) (hf : g.fail = some c) :
    confirmFrom (p :: rest) h = (some ⟨false, c.1, p.acc, c.2.1, c.2.2⟩, failLoad p rest h) := by
  simp only [confirmFrom, hg, hf]

/-! ### Lines are read with the harts as they are -/

theorem readElemLines_units (es : List ElemAt) (acc : List (Nat × LineVal)) (s : State) :
    (readElemLines es acc s).2.units = s.units := by
  induction es generalizing acc s with
  | nil => rfl
  | cons e es ih =>
    unfold readElemLines
    split
    · exact ih acc s
    · exact (ih _ _).trans (readLine_units ..)

/-- Where the elements of a load stand. -/
def PLoad.places (p : PLoad) : List ElemAt := p.els.map fun e => elemPlace e.1 e.2.1 e.2.2

theorem map_elemPlace : (p.els.map fun e => elemPlace e.1 e.2.1 e.2.2) = p.places := rfl

theorem arrivalOf_reads (park : Bool) : (arrivalOf s p park).2 = (readElemLines p.places [] s).2 := rfl

@[simp] theorem arrivalOf_h (park : Bool) : (arrivalOf s p park).2.h = s.h :=
  State.units_h ((congrArg State.units (arrivalOf_reads park)).trans (readElemLines_units ..))

/-- The oldest load arrives: its entry takes its lines, and the loads that have arrived are confirmed. -/
theorem arriveAt_oldest {park : Bool} (hl : s.h.loads = p :: rest) (hp : p.got = none) :
    arriveAt s 0 park =
      ((confirmFrom ({ p with got := some (arrivalOf s p park).1 } :: rest) (fillLoad p (arrivalOf s p park).1 s.h)).1,
        { (arrivalOf s p park).2 with
          h := (confirmFrom ({ p with got := some (arrivalOf s p park).1 } :: rest)
            (fillLoad p (arrivalOf s p park).1 s.h)).2 }) := by
  simp only [arriveAt, hl, listAt, hp, arrivalOf_h, listSet]

section
variable {s1 : State} (hl : s.h.loads = p :: rest) (hgot : ∀ y ∈ p :: rest, y.got = none)
include hl hgot

/-- The oldest load passes its checks: it leaves the list, with the A-stream where it stands. -/
theorem arriveAt_passes (ha : arriveAt s 0 false = (none, s1)) :
    s1.h.loads = rest ∧ s1.h.a.regs = s.h.a.regs ∧ s1.h.a.pos = s.h.a.pos := by
  obtain ⟨hp, hrest⟩ := List.forall_mem_cons.mp hgot
  rw [arriveAt_oldest hl hp] at ha
  cases hf : (arrivalOf s p false).1.fail with
  | some c =>
    rw [confirmFrom_failed rfl hf] at ha
    exact absurd (congrArg Prod.fst ha) (Option.some_ne_none _)
  | none =>
    rw [confirmFrom_passed rfl hf hrest] at ha
    obtain rfl := congrArg Prod.snd ha
    obtain ⟨hregs, hpos⟩ := confirmLoad_stream (p := { p with got := some (arrivalOf s p false).1 })
      (g := (arrivalOf s p false).1) (h := fillLoad p (arrivalOf s p false).1 s.h)
    exact ⟨rfl, hregs.trans (congrArg Stream.regs fillLoad_a), hpos.trans (congrArg Stream.pos fillLoad_a)⟩

/-- The oldest load fails its checks: the A-stream is back at it and its entry is reserved for it. -/
theorem arriveAt_fails {c : Cause} (ha : arriveAt s 0 false = (some c, s1)) :
    s1.h.loads = [] ∧ s1.h.a.regs = p.regs ∧ s1.h.a.pos = .word p.w ∧ s1.h.refill = some (p.queue, p.seq, p.index) := by
  obtain ⟨hp, hrest⟩ := List.forall_mem_cons.mp hgot
  rw [arriveAt_oldest hl hp] at ha
  cases hf : (arrivalOf s p false).1.fail with
  | none =>
    rw [confirmFrom_passed rfl hf hrest] at ha
    exact absurd (congrArg Prod.fst ha).symm (Option.some_ne_none _)
  | some c =>
    rw [confirmFrom_failed rfl hf] at ha
    obtain rfl := congrArg Prod.snd ha
    exact ⟨rfl, rfl, rfl, rfl⟩

end

/-! ### Retirement (R126) -/

theorem forCounts_eq (f : Nat → Nat → DQueue → DQueue) (f' : Nat → Nat → SQueue → SQueue) (cs : List (Nat × Nat)) (h : Hart) :
    ∃ dq qx qa, forCounts cs (fun q n h => h.onQueue q (f q n) (f' q n)) h = { h with dq := dq, qx := qx, qa := qa } := by
  induction cs generalizing h with
  | nil => exact ⟨_, _, _, rfl⟩
  | cons c cs ih =>
    obtain ⟨dq, qx, qa, e⟩ := onQueue_eq h c.1 (f c.1 c.2) (f' c.1 c.2)
    obtain ⟨dq', qx', qa', e'⟩ := ih { h with dq := dq, qx := qx, qa := qa }
    exact ⟨_, _, _, (congrArg (forCounts cs fun q n h => h.onQueue q (f q n) (f' q n)) e).trans e'⟩

/-- An instruction that retires commits what it did to the queues, and to nothing else. -/
theorem commitEntry_eq (e : XEntry) (h : Hart) :
    ∃ dq qx qa, commitEntry e h = { h with dq := dq, qx := qx, qa := qa } := by
  unfold commitEntry
  obtain ⟨dq, qx, qa, hpops⟩ := forCounts_eq
    (fun _ n d => { d with head := d.head + BitVec.ofNat 32 n, entries := d.entries.drop n, popped := d.popped - n })
    (fun _ n d => { d with head := d.head + BitVec.ofNat 32 n, entries := d.entries.drop n, popped := d.popped - n }) e.pops h
  obtain ⟨dq', qx', qa', hpushes⟩ := forCounts_eq (fun _ n d => { d with unseen := d.unseen - n })
    (fun _ n d => { d with unseen := d.unseen - n }) e.pushes { h with dq := dq, qx := qx, qa := qa }
  exact ⟨dq', qx', qa', (congrArg _ hpops).trans hpushes⟩

theorem retireOne_completed {e : XEntry} {es : List XEntry} (hxl : h.xl = e :: es) (he : e.waiting = false) :
    retireOne h = { commitEntry e h with xl := es } := by
  simp [retireOne, hxl, he]

theorem XEntry.waiting_eq_false {e : XEntry} (h : e.admitted = true ∨ e.op = none) : e.waiting = false := by
  rcases h with h | h
  · simp [XEntry.waiting, h]
  · simp [XEntry.waiting, h]

/-- The oldest instruction waits: it is the one that is looked at. -/
theorem splitWaiting_waiting {e : XEntry} {es : List XEntry} (he : e.waiting = true) :
    splitWaiting (e :: es) = ([], e :: es) := by
  rw [splitWaiting, if_pos he]

theorem exec_xRetirement {e : XEntry} {es : List XEntry} (hc : s.cfg.cont = false) (hxl : s.h.xl = e :: es)
    (he : e.waiting = false) :
    exec (.xRetirement s.h.id) s = .next { s with h := { commitEntry e s.h with xl := es } } := by
  have hone : execXRetirement s.h.id s = .next (s.updHart s.h.id retireOne) := by
    rw [execXRetirement, if_neg (by simp [hc])]
  refine hone.trans (congrArg (Host.Outcome.next (φ := Fault) (ρ := Refusal)) ?_)
  rw [State.updHart, if_pos rfl, retireOne_completed hxl he]

theorem exec_xAdmission (hx : s.onX = false) (hc : s.cfg.cont = false) (hp : s.h.parking = 0) :
    exec (.xAdmission s.h.id) s = .next (admitNext s) :=
  congrArg Host.Outcome.next (onHart_self hx hc hp)

theorem exec_vectorLoadArrival (hx : s.onX = false) (hc : s.cfg.cont = false) (hp : s.h.parking = 0) :
    exec (.vectorLoadArrival s.h.id) s = .next (arrive s) :=
  congrArg Host.Outcome.next (onHart_self hx hc hp)

theorem exec_selectionPass (hs : serving s = true) : exec .selectionPass s = .next (selectionPass s) :=
  congrArg Host.Outcome.next (if_pos hs)

end Sys2Proof.Machine
end

section
/-! What a vector load's lines give its entry where every one is held and stands in one format without scales, or is UNINIT
(R123, R124, R205, R374), then the settlement of O23. -/

namespace Sys2Proof.Machine

variable {s : State} {p : PLoad} {pa f : Nat} {es : List GotElem}

/-! ### Lines that are held (R188, R190) -/

/-- Sharing a line leaves every held line held. -/
theorem Held.share {a k : Nat} {w : Who} {noL1 : Bool} (hpa : Held s pa) (ha : Held s a) : Held (share s pa k w noL1) a := by
  obtain ⟨hr, hc⟩ := held_share (k := k) (w := w) (noL1 := noL1) hpa.1
  refine ⟨ha.1, ?_⟩
  by_cases hline : a / 64 = pa / 64
  · rw [dirOf, hline]
    exact hc
  · have hne : ∀ d : Dir, d.l2 = true → d ≠ Dir.none := by
      rintro d hl2 rfl
      exact absurd hl2 (by decide)
    have hkeep : dirOf (Machine.share s pa k w noL1) a = dirOf s a :=
      SMap.get_set_other_of_ne s.dir (hne _ (by simp [regionOf_eq_hbm.mp hpa.1])) hline
    rw [hkeep]
    exact ha.2

/-- A line as its holder gives it. -/
def heldLine (s : State) (line : Nat) : LineVal := ⟨lineData s line, (sideOf s line).tag, false⟩

theorem heldLine_lineAddr : heldLine s (lineAddr pa) = ⟨lineData s pa, (sideOf s pa).tag, false⟩ := by
  have hdiv : lineAddr pa / 64 = pa / 64 := by
    rw [lineAddr]
    omega
  rw [heldLine, lineData, lineAddr, hdiv, ← lineAddr, sideOf_same_line hdiv]
  rfl

theorem heldLine_bytes : (heldLine s (lineAddr pa)).bytes = s.seenWord (lineAddr pa) 64 := by
  rw [heldLine_lineAddr, lineVal_bytes]

/-- Elements whose lines are held are read without a change of memory, each line as it stands. -/
theorem readElemLines_held {els : List ElemAt} {acc : List (Nat × LineVal)}
    (hels : ∀ e ∈ els, Held s e.x.pa ∧ e.line = lineAddr e.x.pa) (hacc : ∀ l ∈ acc, l.2 = heldLine s l.1) :
    (readElemLines els acc s).2.mem = s.mem ∧ (readElemLines els acc s).2.side = s.side ∧
      (∀ l ∈ (readElemLines els acc s).1, l.2 = heldLine s l.1) ∧
      ∀ n, n ∈ acc.map Prod.fst ∨ n ∈ els.map ElemAt.line → n ∈ (readElemLines els acc s).1.map Prod.fst := by
  induction els generalizing acc s with
  | nil => exact ⟨rfl, rfl, hacc, fun n hn => hn.resolve_right List.not_mem_nil⟩
  | cons e els ih =>
    obtain ⟨⟨hheld, hline⟩, hels⟩ := List.forall_mem_cons.mp hels
    unfold readElemLines
    split
    · next hany =>
      obtain ⟨hm, hs, hls, hn⟩ := ih hels hacc
      obtain ⟨l, hl, hle⟩ := List.any_eq_true.mp hany
      refine ⟨hm, hs, hls, fun n => ?_⟩
      rintro (h | h)
      · exact hn n (.inl h)
      · rcases List.mem_cons.mp h with rfl | h
        · exact hn _ (.inl (List.mem_map.mpr ⟨l, hl, eq_of_beq hle⟩))
        · exact hn n (.inr h)
    · rw [readLine_held hheld]
      have hnew : ∀ l ∈ acc ++ [(e.line, (⟨lineData s e.x.pa, (sideOf s e.x.pa).tag, false⟩ : LineVal))],
          l.2 = heldLine s l.1 := by
        intro l hl
        rcases List.mem_append.mp hl with hl | hl
        · exact hacc l hl
        · obtain rfl := List.mem_singleton.mp hl
          rw [hline, heldLine_lineAddr]
      obtain ⟨hm, hs, hls, hn⟩ := ih
        (s := share s e.x.pa (pteKEY e.x.leaf) s.h.who s.h.noL1) (fun x hx => ⟨hheld.share (hels x hx).1, (hels x hx).2⟩) hnew
      refine ⟨hm, hs, hls, fun n => ?_⟩
      rintro (h | h)
      · exact hn n (.inl (by rw [List.map_append]; exact List.mem_append_left _ h))
      · rcases List.mem_cons.mp h with rfl | h
        · exact hn _ (.inl (by simp))
        · exact hn n (.inr h)

/-- A line among those read is the line that its address names. -/
theorem lineIn_of_mem {ls : List (Nat × LineVal)} {n : Nat} (hls : ∀ l ∈ ls, l.2 = heldLine s l.1)
    (hn : n ∈ ls.map Prod.fst) : lineIn ls n = heldLine s n := by
  obtain ⟨l, hl, rfl⟩ := List.mem_map.mp hn
  have hsome : (ls.find? fun x => x.1 == l.1).isSome = true := List.find?_isSome.mpr ⟨l, hl, beq_self_eq_true _⟩
  obtain ⟨x, hx⟩ := Option.isSome_iff_exists.mp hsome
  have hkey := List.find?_some hx
  simp only [lineIn, hx]
  rw [hls x (List.mem_of_find?_eq_some hx), eq_of_beq hkey]

/-! ### Elements of one format without scales (R205, R208) -/

/-- What was read is UNINIT or VALID in one format, not all of it UNINIT. -/
structure OfFormat (f : Nat) (es : List GotElem) : Prop where
  each : ∀ e ∈ es, e.size = elemSize f ∧
    (tagVc e.l.tag = .uninit ∨ tagVc e.l.tag = .valid ∧ tagFmt e.l.tag = f ∧ tagHrot e.l.tag = 0)
  valid : ∃ e ∈ es, tagVc e.l.tag = .valid

namespace OfFormat

theorem live_iff {l : LineVal} : l.live = true ↔ tagVc l.tag ≠ .uninit := by
  rw [LineVal.live, bne_iff_ne]

variable (hes : OfFormat f es)
include hes

theorem tag_of_live {e : GotElem} (he : e ∈ es) (hl : e.l.live = true) : tagFmt e.l.tag = f ∧ tagHrot e.l.tag = 0 :=
  ((hes.each e he).2.resolve_left (live_iff.mp hl)).2

theorem exists_live : ∃ e ∈ es, e.l.live = true := by
  obtain ⟨e, he, hv⟩ := hes.valid
  exact ⟨e, he, live_iff.mpr (by simp [hv])⟩

end OfFormat

/-- The lowest live element that a scan has met: the scan's step. -/
def lowerLive (b : Option GotElem) (x : GotElem) : Option GotElem :=
  if x.l.live then match b with
    | none => some x
    | some y => if x.va.toNat < y.va.toNat then some x else some y
  else b

theorem lowerLive_cases (b : Option GotElem) (x : GotElem) :
    lowerLive b x = b ∧ (x.l.live = true → b ≠ none) ∨ x.l.live = true ∧ lowerLive b x = some x := by
  unfold lowerLive
  cases hx : x.l.live with
  | false => exact .inl ⟨rfl, nofun⟩
  | true =>
    cases b with
    | none => exact .inr ⟨rfl, rfl⟩
    | some y =>
      by_cases hlt : x.va.toNat < y.va.toNat
      · exact .inr ⟨rfl, by simp [hlt]⟩
      · exact .inl ⟨by simp [hlt], by simp⟩

/-- A scan ends with a live element of the list, or with what it began with where none is live. -/
theorem foldl_lowerLive (l : List GotElem) (b : Option GotElem) :
    (∃ x ∈ l, x.l.live = true ∧ l.foldl lowerLive b = some x) ∨
      l.foldl lowerLive b = b ∧ (b = none → ∀ x ∈ l, x.l.live = false) := by
  induction l generalizing b with
  | nil => exact .inr ⟨rfl, fun _ x hx => absurd hx List.not_mem_nil⟩
  | cons x l ih =>
    rw [List.foldl_cons]
    rcases ih (lowerLive b x) with ⟨y, hy, hlive, hfold⟩ | ⟨hfold, hnone⟩
    · exact .inl ⟨y, List.mem_cons_of_mem _ hy, hlive, hfold⟩
    · rcases lowerLive_cases b x with ⟨hsame, hb⟩ | ⟨hlive, hx⟩
      · refine .inr ⟨hfold.trans hsame, fun hn => List.forall_mem_cons.mpr ⟨?_, hnone (hsame.trans hn)⟩⟩
        exact Bool.eq_false_iff.mpr fun hl => hb hl hn
      · exact .inl ⟨x, List.mem_cons_self .., hlive, hfold.trans hx⟩

section
variable (hes : OfFormat f es)
include hes

/-- The entry takes the format. -/
theorem entryFmt_ofFormat {named : Option Nat} {lfmt : Nat} (hn : named = none ∨ named = some f) :
    entryFmt named lfmt es = f := by
  rcases hn with rfl | rfl
  · obtain ⟨y, hy, hlive⟩ := hes.exists_live
    unfold entryFmt
    cases es with
    | nil => exact absurd hy List.not_mem_nil
    | cons e l =>
      change (if e.l.live then tagFmt e.l.tag else
        match (e :: l).foldl lowerLive none with
        | some x => tagFmt x.l.tag
        | none => lfmt) = f
      split
      · next he => exact (hes.tag_of_live (List.mem_cons_self ..) he).1
      · rcases foldl_lowerLive (e :: l) none with ⟨x, hx, hxl, hfold⟩ | ⟨-, hnone⟩
        · rw [hfold]
          exact (hes.tag_of_live hx hxl).1
        · exact absurd hlive (by simp [hnone rfl y hy])
  · rfl

theorem entryHrot_ofFormat : entryHrot es = 0 := by
  unfold entryHrot
  split
  · next e he => exact (hes.tag_of_live (List.mem_of_find?_eq_some he) (by simpa using List.find?_some he)).2
  · rfl

/-- No tag check fails. -/
theorem tagCause_ofFormat {ew : Nat} : tagCause ew f 0 es = none := by
  have hbad : es.find? (fun e => elemBad f e) = none := by
    refine List.find?_eq_none.mpr fun e he hb => ?_
    obtain ⟨hl, hb⟩ := Bool.and_eq_true_iff.mp hb
    simp [(hes.tag_of_live he hl).1, (hes.each e he).1] at hb
  have hrot : es.find? (fun e => e.l.live && tagHrot e.l.tag != 0) = none := by
    refine List.find?_eq_none.mpr fun e he hb => ?_
    obtain ⟨hl, hb⟩ := Bool.and_eq_true_iff.mp hb
    simp [(hes.tag_of_live he hl).2] at hb
  have hstart : groupStart 0 ew es = true := by
    unfold groupStart
    split
    · rfl
    · rfl
  simp only [tagCause, hbad, hrot, hstart, if_true]

/-- No element converts. -/
theorem converts_ofFormat : es.any (fun e => e.l.live && tagFmt e.l.tag != f) = false := by
  refine List.any_eq_false.mpr fun e he hb => ?_
  obtain ⟨hl, hb⟩ := Bool.and_eq_true_iff.mp hb
  simp [(hes.tag_of_live he hl).1] at hb

/-- The entry's class is that of one VALID source. -/
theorem combineVc_ofFormat : combineVc (es.map fun e => tagVc e.l.tag) = .valid := by
  have hvc : ∀ v ∈ es.map (fun e => tagVc e.l.tag), v = .uninit ∨ v = .valid := by
    intro v hv
    obtain ⟨e, he, rfl⟩ := List.mem_map.mp hv
    exact (hes.each e he).2.imp_right And.left
  have hpoison : Vc.poison ∉ es.map (fun e => tagVc e.l.tag) := fun h => by simpa using hvc _ h
  have hunrestored : Vc.unrestored ∉ es.map (fun e => tagVc e.l.tag) := fun h => by simpa using hvc _ h
  have hvalid : Vc.valid ∈ es.map (fun e => tagVc e.l.tag) := List.mem_map.mpr hes.valid
  simp [combineVc, -List.mem_map, hpoison, hunrestored, hvalid]

end

/-- The code that an entry's element takes from what was read for it. -/
def gotCode (f : Nat) : Option GotElem → Nat
  | none => 0
  | some e => e.l.bytes / 2 ^ e.bit % 2 ^ elemSize f

theorem gotCode_lt (o : Option GotElem) : gotCode f o < 2 ^ elemSize f := by
  cases o with
  | none => exact Nat.two_pow_pos _
  | some e => exact Nat.mod_lt _ (Nat.two_pow_pos _)

theorem gotElt_ofFormat (hes : OfFormat f es) (hf : fmtScaled f = false) (i : Nat) :
    gotElt f (es.find? fun e => e.i == i) = .code (gotCode f (es.find? fun e => e.i == i)) := by
  cases hfind : es.find? fun e => e.i == i with
  | none => rfl
  | some e =>
    cases hl : e.l.live with
    | false =>
      have hzero : e.l.bytes = 0 := if_pos (by_contra fun h => by simp [OfFormat.live_iff.mpr h] at hl)
      simp [gotElt, hl, gotCode, hzero]
    | true =>
      have htag := (hes.tag_of_live (List.mem_of_find?_eq_some hfind) hl).1
      simp [gotElt, hl, htag, hf, gotCode, GotElem.code]

/-- The class of a whole register depends on what its sources' classes combine to. -/
theorem writeReg_of_combineVc {bits hrot : Nat} {rule : ScaleRule} {elt : Nat → Elt} {old : VReg} {r : Rnd} {vs ws : List Vc}
    (h : combineVc vs = combineVc ws) :
    writeReg bits f rule elt old vs hrot r = writeReg bits f rule elt old ws hrot r := by
  unfold writeReg
  rw [h]

/-- Blocks of 256 bits hold whole elements. -/
theorem elemSize_mul_div (f : Nat) : elemSize f * (256 / elemSize f) = 256 := by
  unfold elemSize
  split <;> rfl

/-- The entry that elements of one format without scales fill: VALID, in that format, with the codes that were read. -/
theorem fillEntry_ofFormat {joined : Bool} {rm : BitVec 3} (hes : OfFormat f es) (hf : fmtScaled f = false) :
    ∃ r, fillEntry (regBits joined) f rm 0 es = (r, 0) ∧ r.vc = .valid ∧ r.hrot = 0 ∧ r.fmt.toNat = f ∧
      ∀ i, i < elemsIn (regBits joined) f → regCode r i = gotCode f (es.find? fun e => e.i == i) := by
  have hlt : f < 32 := by
    have h16 : ¬ 16 ≤ f := of_decide_eq_false hf
    omega
  obtain ⟨r, r1, hw, ⟨-, hflags, -⟩, hvc, hrot, hfmt, hcode⟩ := writeReg_codes (joined := joined) (old := .reset)
    (elt := fun i => gotElt f (es.find? fun e => e.i == i)) (code := fun i => gotCode f (es.find? fun e => e.i == i))
    (rule := .named (gotScale f es)) hlt hf (elemSize_mul_div f)
    (fun i => by rw [gotElt_ofFormat hes hf]; exact writes_code) (fun i => gotCode_lt _) ⟨memRm rm, 0, 0⟩
  refine ⟨r, ?_, hvc, hrot, hfmt, hcode⟩
  rw [fillEntry, writeReg_of_combineVc (ws := [.valid]) (combineVc_ofFormat hes), hw]
  simp [converts_ofFormat hes, hflags]

/-! ### A load of one format arrives -/

/-- What is read for an element whose line is held. -/
def heldElem (s : State) (p : PLoad) (e : ElemAt) : GotElem := ⟨e.i, heldLine s e.line, e.bit, p.ew / e.x.ratio, e.va⟩

section
variable (hheld : ∀ e ∈ p.els, Held s e.2.2.pa)
include hheld

theorem places_held : ∀ e ∈ p.places, Held s e.x.pa ∧ e.line = lineAddr e.x.pa := by
  intro e he
  obtain ⟨x, hx, rfl⟩ := List.mem_map.mp he
  exact ⟨hheld x hx, rfl⟩

/-- A load whose lines are held reads them as they stand. -/
theorem got_held : (p.places.map fun e =>
    (⟨e.i, lineIn (readElemLines p.places [] s).1 e.line, e.bit, p.ew / e.x.ratio, e.va⟩ : GotElem)) =
      p.places.map (heldElem s p) := by
  obtain ⟨-, -, hls, hin⟩ := readElemLines_held (acc := []) (places_held hheld) fun l hl => absurd hl List.not_mem_nil
  refine List.map_congr_left fun e he => ?_
  rw [heldElem, lineIn_of_mem hls (hin _ (.inr (List.mem_map_of_mem he)))]

/-- Its arrival changes no byte. -/
theorem arrivalOf_bytes (park : Bool) (a : Nat) : (arrivalOf s p park).2.seen a = s.seen a := by
  obtain ⟨hmem, hside, -, -⟩ := readElemLines_held (acc := []) (places_held hheld) fun l hl => absurd hl List.not_mem_nil
  rw [arrivalOf_reads, State.seen, sideOf, hside, State.byte, hmem]
  rfl

/-- What arrives in one format without scales fills an entry without a flag or a cause. -/
theorem arrivalOf_ofFormat {park : Bool} (hff : p.ff = false) (hf : fmtScaled f = false)
    (hn : p.named = none ∨ p.named = some f) (hes : OfFormat f (p.places.map (heldElem s p))) :
    ∃ r, (arrivalOf s p park).1 = ⟨r, 0, p.n, none⟩ ∧ r.vc = .valid ∧ r.hrot = 0 ∧ r.fmt.toNat = f ∧
      ∀ i, i < elemsIn s.h.bits f → regCode r i = gotCode f ((p.places.map (heldElem s p)).find? fun e => e.i == i) := by
  obtain ⟨r, hfill, hvc, hrot, hfmt, hcode⟩ := fillEntry_ofFormat (joined := s.h.joined) (rm := s.h.rm) hes hf
  refine ⟨r, ?_, hvc, hrot, hfmt, hcode⟩
  have hempty : (p.places.map (heldElem s p)).isEmpty = false := by
    obtain ⟨e, he, -⟩ := hes.valid
    exact Bool.eq_false_iff.mpr fun h => absurd he (by simp [List.isEmpty_iff.mp h])
  have hgood : (p.places.map (heldElem s p)).any (fun e => e.l.bad) = false := by
    refine List.any_eq_false.mpr fun e he => ?_
    obtain ⟨x, -, rfl⟩ := List.mem_map.mp he
    exact Bool.false_ne_true
  have hh : (readElemLines p.places [] s).2.h = s.h := State.units_h (readElemLines_units ..)
  simp only [arrivalOf, map_elemPlace, got_held hheld, hff, hempty, hgood, hh, Bool.and_false, Bool.false_eq_true, if_false,
    arrivalCause, entryFmt_ofFormat hes hn, entryHrot_ofFormat hes, tagCause_ofFormat hes, Hart.bits, hfill, Option.map_none]
  rfl

end

/-- An element of a load, as it is read. -/
theorem find_heldElem (i : Nat) : ((p.places.map (heldElem s p)).find? fun e => e.i == i) =
    (p.els.find? fun e => e.1 == i).map fun e => heldElem s p (elemPlace e.1 e.2.1 e.2.2) := by
  rw [PLoad.places, List.map_map, List.find?_map]
  rfl

/-- What an entry's element receives is what memory holds at its place. -/
theorem gotCode_heldElem (e : Nat × Nat × Xlat) :
    gotCode f (some (heldElem s p (elemPlace e.1 e.2.1 e.2.2))) =
      s.seenWord (elemPlace e.1 e.2.1 e.2.2).line 64 / 2 ^ (elemPlace e.1 e.2.1 e.2.2).bit % 2 ^ elemSize f :=
  congrArg (fun b => b / 2 ^ (elemPlace e.1 e.2.1 e.2.2).bit % 2 ^ elemSize f) heldLine_bytes

/-- Lines UNINIT or VALID in the format of the elements' size, one VALID at least, are read as elements of that format. -/
theorem ofFormat_heldElem (hew : elemSize f = p.ew)
    (hels : ∀ e ∈ p.els, e.2.2.ratio = 1 ∧ (tagVc (sideOf s e.2.2.pa).tag = .uninit ∨
      tagVc (sideOf s e.2.2.pa).tag = .valid ∧ tagFmt (sideOf s e.2.2.pa).tag = f ∧ tagHrot (sideOf s e.2.2.pa).tag = 0))
    (hvalid : ∃ e ∈ p.els, tagVc (sideOf s e.2.2.pa).tag = .valid) : OfFormat f (p.places.map (heldElem s p)) := by
  have htag : ∀ e : Nat × Nat × Xlat, (heldElem s p (elemPlace e.1 e.2.1 e.2.2)).l.tag = (sideOf s e.2.2.pa).tag := fun e =>
    congrArg LineVal.tag heldLine_lineAddr
  rw [PLoad.places, List.map_map]
  refine ⟨fun g hg => ?_, ?_⟩
  · obtain ⟨e, he, rfl⟩ := List.mem_map.mp hg
    obtain ⟨hratio, hline⟩ := hels e he
    refine ⟨?_, (htag e).symm ▸ hline⟩
    change p.ew / e.2.2.ratio = elemSize f
    rw [hratio, Nat.div_one, hew]
  · obtain ⟨e, he, hv⟩ := hvalid
    exact ⟨_, List.mem_map_of_mem he, (htag e).symm ▸ hv⟩

/-- With one load on its way it is the one that arrives. -/
theorem arriveOne_single (hl : s.h.loads = [p]) (hp : p.got = none) :
    arriveOne s = arriveAt s 0 (softRequest s.h.req && s.h.a.canStop) := by
  have hdue : loadsDue s = [0] := by simp [loadsDue, hl, listAt, hp, List.range_succ]
  simp only [arriveOne, hdue]

/-- With one load on its way, what its lines give stands in its entry, and no load is left. -/
theorem arrive_single {r : VReg} {flags : BitVec 6} {n : Nat} (hl : s.h.loads = [p]) (hp : p.got = none) (hff : p.ff = false)
    (ha : (arrivalOf s p (softRequest s.h.req && s.h.a.canStop)).1 = ⟨r, flags, n, none⟩) :
    arrive s = { (arrivalOf s p (softRequest s.h.req && s.h.a.canStop)).2 with
      h := { s.h.setQueue p.queue (fillAt (s.h.queue p.queue) p.seq r flags.toNat) with loads := [] } } := by
  have hfill : fillLoad p ⟨r, flags, n, none⟩ s.h =
      s.h.setQueue p.queue (fillAt (s.h.queue p.queue) p.seq r flags.toNat) := rfl
  have hconf : ∀ (g : Arrival) (h : Hart), confirmLoad { p with got := some g } g h = h := fun g h => by
    simp [confirmLoad, hff]
  simp only [arrive, arriveOne_single hl hp, arriveAt_oldest hl hp, ha,
    confirmFrom_passed (p := { p with got := some ⟨r, flags, n, none⟩ }) rfl rfl (fun y hy => absurd hy List.not_mem_nil), hconf,
    hfill]

end Sys2Proof.Machine

open Sys2Proof Sys2Proof.Machine

/-- Settles O23: a load arrives by `confirmFrom`, with its lines as their holders give them (`readElemLines_held`) and its
elements as `writeReg_codes` writes them; an instruction retires by `commitEntry` and is admitted by `xEffect`. -/
theorem loadsArriveAndRetire : Obligations.LoadsArriveAndRetire := by
  refine ⟨fun s p rest hl hgot => ⟨fun s1 => arriveAt_passes hl hgot, fun c s1 => arriveAt_fails hl hgot,
      fun hc hp hx _ => ⟨fun s1 ha => ?_, fun c s1 ha => ?_⟩⟩,
    fun s p f hl hp hff hc hpark hx _ hf hew hn _ hels hvalid => ?_,
    fun s e rest hc hp hx hxl => ⟨fun he => ?_, fun op h pops pushes hadm hop hd => ?_⟩, fun s => exec_selectionPass⟩
  · exact (exec_vectorLoadArrival hx hc hp).trans (by rw [arrive, ha])
  · exact (exec_vectorLoadArrival hx hc hp).trans (by rw [arrive, ha])
  · have hheld : ∀ e ∈ p.els, Held s e.2.2.pa := fun e he => (hels e he).2.2.1
    have hes : OfFormat f (p.places.map (heldElem s p)) :=
      ofFormat_heldElem hew (fun e he => ⟨(hels e he).2.1, (hels e he).2.2.2⟩) hvalid
    obtain ⟨r, ha, hvc, hrot, hfmt, hcode⟩ := arrivalOf_ofFormat (park := softRequest s.h.req && s.h.a.canStop) hheld hff hf hn hes
    refine ⟨_, r, (exec_vectorLoadArrival hx hc hpark).trans (congrArg Host.Outcome.next (arrive_single hl hp hff ha)), rfl,
      arrivalOf_bytes hheld _, rfl, hfmt, hvc, hrot, fun i hi => ?_⟩
    rw [hcode i hi, find_heldElem]
    cases p.els.find? fun e => e.1 == i with
    | none => rfl
    | some e => exact hew ▸ gotCode_heldElem e
  · obtain ⟨dq, qx, qa, hcommit⟩ := commitEntry_eq e s.h
    refine ⟨_, exec_xRetirement hc hxl (XEntry.waiting_eq_false he), rfl, rfl, ?_, ?_, rfl, rfl⟩
    · exact (congrArg Hart.v hcommit :)
    · exact (congrArg Hart.a hcommit :)
  · have hwait : e.waiting = true := by simp [XEntry.waiting, hadm, hop]
    obtain ⟨htook, -, -⟩ := admitNext_done (s := s) (by rw [hxl, splitWaiting_waiting hwait]) hop hd
    obtain ⟨hv, hm, htiles, -, -, -, hflags, -, -, -, -, hlist, hmem, -⟩ := htook
    exact ⟨_, exec_xAdmission hx hc hp, hv, hm, htiles, hflags, hlist, hmem⟩

end

section
/-! Every step keeps every scratchpad and its tags canonical (O21). Only `setSpLine`, which STL, VSTL, VSPILL and LSPLIT
write through, and the cut of LSPLIT change what a scratchpad holds; a hart that is dispatched or resumed begins with
nothing in it, and the resets leave such harts alone. Every other change of a hart leaves its `pad` as it is, by a lemma
`…_pad` of its own where that is not so by definition; what reaches no hart is known from its `units`. As for memory (O6)
there is one lemma for each function of the model that gives back a state, in the order of the model. -/

namespace Sys2Proof.Machine

variable {α β : Type} {s t : State} {o p : Out}

/-! ### Canonical scratchpads and outcomes, and the ways to build them -/

/-- What canonical form of a scratchpad speaks of: its bytes, its tags and the tag of an unlisted line. -/
def Hart.pad (h : Hart) : List Host.Cell × SMap (BitVec 32) × BitVec 32 := (h.sp, h.spTag, h.spDef)

theorem Hart.spCanon.of_pad {g h : Hart} (hh : h.spCanon) (e : g.pad = h.pad) : g.spCanon := by
  simp only [Hart.pad, Prod.mk.injEq] at e
  obtain ⟨hsp, htag, hdef⟩ := e
  unfold Hart.spCanon
  rw [hsp, htag, hdef]
  exact hh

/-- Every hart's scratchpad stands in its canonical form: the acting hart's and the others'. -/
def State.padsCanon (s : State) : Prop := s.h.spCanon ∧ ∀ h ∈ s.rest, h.spCanon

theorem State.padsCanon_iff : s.padsCanon ↔ ∀ h ∈ s.harts, h.spCanon := List.forall_mem_cons.symm

/-- Where an outcome gives a state, that state is canonical. -/
def Out.padsCanon : Out → Prop
  | .next t => t.padsCanon
  | .fault _ | .refused _ => True

/-- Where the write of a control register gives a state, that state is canonical. -/
def CsrRes.padsCanon : CsrRes → Prop
  | .ok t => t.padsCanon
  | .fmt _ | .priv => True

theorem Out.padsCanon.next (h : o.padsCanon) (e : o = .next t) : t.padsCanon := by
  subst e
  exact h

theorem CsrRes.padsCanon.ok {r : CsrRes} (h : r.padsCanon) (e : r = .ok t) : t.padsCanon := by
  subst e
  exact h

theorem State.padsCanon.of_hart (hs : s.padsCanon) (hh : t.h.spCanon) (hr : t.rest = s.rest) : t.padsCanon :=
  ⟨hh, hr ▸ hs.2⟩

/-- Nothing but the scratchpads and the set of the harts counts. -/
theorem State.padsCanon.of_eq (hs : s.padsCanon) (hp : t.h.pad = s.h.pad) (hr : t.rest = s.rest) : t.padsCanon :=
  hs.of_hart (hs.1.of_pad hp) hr

theorem State.padsCanon.units (hs : s.padsCanon) (e : t.units = s.units) : t.padsCanon := by
  rw [State.padsCanon_iff, State.units_harts e]
  exact State.padsCanon_iff.mp hs

/-- One change of every hart that leaves its scratchpad alone. -/
theorem State.padsCanon.mapHarts {f : Hart → Hart} (hs : s.padsCanon) (hf : ∀ h, (f h).pad = h.pad) (hh : t.h = f s.h)
    (hr : t.rest = s.rest.map f) : t.padsCanon := by
  refine ⟨hh ▸ hs.1.of_pad (hf _), ?_⟩
  rw [hr]
  exact List.forall_mem_map.mpr fun h hmem => (hs.2 h hmem).of_pad (hf h)

theorem State.padsCanon.ite {c : Prop} [Decidable c] (hs : s.padsCanon) (ht : t.padsCanon) :
    (if c then s else t).padsCanon := by
  split
  · exact hs
  · exact ht

theorem Out.padsCanon.ite {c : Prop} [Decidable c] (ho : o.padsCanon) (hp : p.padsCanon) :
    Out.padsCanon (if c then o else p) := by
  split
  · exact ho
  · exact hp

theorem State.padsCanon.pair {p : α × State} {a : α} (h : p.2.padsCanon) (e : p = (a, t)) : t.padsCanon := by
  subst e
  exact h

theorem State.padsCanon.triple {p : α × β × State} {a : α} {b : β} (h : p.2.2.padsCanon) (e : p = (a, b, t)) :
    t.padsCanon := by
  subst e
  exact h

theorem State.padsCanon.foldl {f : State → β → State} {l : List β} (hs : s.padsCanon)
    (hf : ∀ {t x}, t.padsCanon → (f t x).padsCanon) : (l.foldl f s).padsCanon := by
  induction l generalizing s with
  | nil => exact hs
  | cons x l ih => exact ih (hf hs)

theorem Out.padsCanon.mapOut {f : State → State} (ho : o.padsCanon) (hf : ∀ {t}, t.padsCanon → (f t).padsCanon) :
    Out.padsCanon (mapOut f o) := by
  cases o with
  | next t => exact hf ho
  | fault | refused => trivial

/-! ### `Sys2Proof/Machine/State.lean` -/

/-- A scratchpad without contents is canonical, whatever an unlisted line's tag. -/
theorem Hart.spCanon_of_pad_nil {h : Hart} {d} (e : h.pad = ([], [], d)) : h.spCanon := by
  simp only [Hart.pad, Prod.mk.injEq] at e
  obtain ⟨hsp, htag, -⟩ := e
  unfold Hart.spCanon
  rw [hsp, htag]
  exact ⟨rfl, rfl⟩

/-- The premise of O21 is met: the state of reset has no scratchpad contents. -/
theorem State.padsCanon_reset : State.reset.padsCanon := by
  refine ⟨⟨rfl, rfl⟩, ?_⟩
  simp [State.reset, serviceHarts, Hart.serviceAt, Hart.spCanon, Hart.blank, SMap.wf, SMap.wfFrom]

/-! ### `Sys2Proof/Machine/Physical.lean` -/

theorem State.padsCanon.setDir {pa d} (hs : s.padsCanon) : (setDir s pa d).padsCanon := hs.of_eq rfl rfl

theorem State.padsCanon.putLine {pa data tag} (hs : s.padsCanon) :
    (putLine s pa data tag).padsCanon := hs.units (by simp)

theorem State.padsCanon.putSlot {key v} (hs : s.padsCanon) : (putSlot s key v).padsCanon := hs.of_eq rfl rfl

theorem State.padsCanon.draw (hs : s.padsCanon) : (draw s).2.padsCanon := hs.of_eq rfl rfl

theorem State.padsCanon.emit {m} (hs : s.padsCanon) : (s.emit m).padsCanon := hs.of_eq rfl rfl

theorem State.padsCanon.later {is} (hs : s.padsCanon) : (s.later is).padsCanon := hs.of_eq rfl rfl

theorem State.padsCanon.fireIrq {i} (hs : s.padsCanon) : (fireIrq s i).padsCanon := hs.units (by simp)

theorem State.padsCanon.setEntry {i e} (hs : s.padsCanon) : (s.setEntry i e).padsCanon := hs.of_eq rfl rfl

theorem State.padsCanon.condMet {l j} (hs : s.padsCanon) : (condMet s l j).padsCanon := .ite hs hs.setEntry

theorem State.padsCanon.sendPeer {node key req} (hs : s.padsCanon) : (sendPeer s node key req).padsCanon :=
  hs.units (by simp)

theorem State.padsCanon.wakeSatisfied {key base v} (hs : s.padsCanon) : (wakeSatisfied s key base v).padsCanon :=
  hs.units (by simp)

theorem State.padsCanon.addSlot {key d} (hs : s.padsCanon) : (addSlot s key d).padsCanon := hs.units (by simp)

theorem State.padsCanon.freshCheck {pa k} (hs : s.padsCanon) :
    (freshCheck s pa k).padsCanon := hs.units (freshCheck_units pa k)

theorem State.padsCanon.spoilSlots {key} (hs : s.padsCanon) : (spoilSlots s key).padsCanon := hs.of_eq rfl rfl

theorem State.padsCanon.logError {source cls code index addr detail} (hs : s.padsCanon) :
    (logError s source cls code index addr detail).padsCanon := hs.units (by simp)

theorem State.padsCanon.homeRead {pa k} (hs : s.padsCanon) : (homeRead s pa k).2.padsCanon := hs.units (by simp)

theorem State.padsCanon.own {pa k w noL1} (hs : s.padsCanon) : (own s pa k w noL1).padsCanon := hs.setDir

theorem State.padsCanon.readLine {pa k lfmt w noL1} (hs : s.padsCanon) : (readLine s pa k lfmt w noL1).2.padsCanon :=
  hs.units (by simp)

theorem State.padsCanon.writeLine {pa k w noL1 data tag} (hs : s.padsCanon) :
    (writeLine s pa k w noL1 data tag).padsCanon :=
  hs.units (by simp)

theorem State.padsCanon.writeBits {pa k w noL1 mask data tag} (hs : s.padsCanon) :
    (writeBits s pa k w noL1 mask data tag).padsCanon := by
  dsimp only [Machine.writeBits]
  split
  · exact .ite hs (.ite hs.sendPeer hs.sendPeer)
  · exact hs.writeLine

theorem State.padsCanon.evictLine {pa} (hs : s.padsCanon) : (evictLine s pa).padsCanon :=
  .setDir (.ite hs.freshCheck hs)

theorem State.padsCanon.slotRead {key} (hs : s.padsCanon) : (slotRead s key).2.padsCanon := hs.units (by simp)

theorem State.padsCanon.slotEvict {key} (hs : s.padsCanon) : (slotEvict s key).padsCanon := by
  unfold Machine.slotEvict
  split
  · exact hs
  · extract_lets pa s0 old pf s1
    have hs0 : s0.padsCanon := .ite hs.spoilSlots hs
    have hs1 : s1.padsCanon := hs0.putLine.freshCheck
    clear_value s1
    exact hs1.of_eq rfl rfl

theorem State.padsCanon.partAdd {tower n d} (hs : s.padsCanon) : (partAdd s tower n d).padsCanon := by
  dsimp only [Machine.partAdd]
  split
  · next e => exact (hs.slotRead.pair e).addSlot
  · next e =>
      have hs1 := hs.slotRead.pair e
      exact .ite (hs1.of_eq rfl rfl) hs1

/-! ### Changes of a hart that leave its scratchpad alone -/

theorem Hart.pad_of_unqueued {g h : Hart} (e : g.unqueued = h.unqueued) : g.pad = h.pad := (congrArg Hart.pad e :)

theorem Hart.pad_of_apart {g h : Hart} (e : g.apart = h.apart) : g.pad = h.pad := (congrArg Hart.pad e :)

@[simp] theorem setQueue_pad (h : Hart) (n q) : (h.setQueue n q).pad = h.pad := rfl

@[simp] theorem retireAll_pad (h : Hart) : (retireAll h).pad = h.pad := Hart.pad_of_unqueued (retireAll_unqueued h)

@[simp] theorem onQueue_pad (h : Hart) (q f g) : (h.onQueue q f g).pad = h.pad :=
  Hart.pad_of_unqueued (onQueue_unqueued h q f g)

@[simp] theorem commitEntry_pad (e : XEntry) (h : Hart) : (commitEntry e h).pad = h.pad :=
  Hart.pad_of_unqueued (commitEntry_unqueued e h)

@[simp] theorem forCounts_pad (cs f) (h : Hart) (hf : ∀ q n h, (f q n h).pad = h.pad) :
    (forCounts cs f h).pad = h.pad :=
  foldl_keeps (fun _ _ => hf _ _ _) _ _

@[simp] theorem cancelEntry_pad (e : XEntry) (h : Hart) : (cancelEntry e h).pad = h.pad := by
  simp [cancelEntry]

@[simp] theorem undoX_pad (h : Hart) : (undoX h).pad = h.pad := by
  dsimp only [undoX]
  split
  · rfl
  · exact foldl_keeps (g := Hart.pad) (fun _ _ => cancelEntry_pad _ _) _ _

@[simp] theorem unblockX_pad (h : Hart) : (unblockX h).pad = h.pad := by
  unfold unblockX
  split
  · rfl
  · split
    · split <;> rfl
    · rfl

@[simp] theorem haltX_pad (h : Hart) : (haltX h).pad = h.pad := by simp [haltX]

@[simp] theorem finishWait_pad (h : Hart) (d v) : (finishWait h d v).pad = h.pad := by
  unfold finishWait
  split <;> rfl

@[simp] theorem endQuarterWait_pad (s : State) (gone h : Hart) : (endQuarterWait s gone h).pad = h.pad := by
  unfold endQuarterWait
  split
  · split
    · split
      · exact finishWait_pad _ _ _
      · rfl
    · rfl
  · rfl

@[simp] theorem requestStop_pad (r now) (h : Hart) : (requestStop r now h).pad = h.pad := by
  unfold requestStop
  split <;> rfl

@[simp] theorem askWithdraw_pad (now) (h : Hart) : (askWithdraw now h).pad = h.pad := by
  unfold askWithdraw
  split
  case h_4 => rfl
  all_goals exact requestStop_pad _ _ _

@[simp] theorem countCycle_pad (h : Hart) : (countCycle h).pad = h.pad := by
  dsimp only [countCycle]
  split
  · rfl
  · split <;> rfl

@[simp] theorem countedOut_pad (h : Hart) : (countedOut h).pad = h.pad :=
  foldl_keeps (g := Hart.pad) (fun h _ => countCycle_pad h) _ h

@[simp] theorem reserveEntry_pad (q seq refills idx f) (h : Hart) :
    (reserveEntry q seq refills idx f h).pad = h.pad := by
  dsimp only [reserveEntry]
  split <;> rfl

@[simp] theorem popEntry_pad (q) (h : Hart) : (popEntry q h).pad = h.pad := rfl

@[simp] theorem takePops_pad (pops) (h : Hart) : (takePops pops h).pad = h.pad := by simp [takePops]

@[simp] theorem surveyAdmit_pad (before h : Hart) (duty op) : (surveyAdmit before h duty op).pad = h.pad := by
  unfold surveyAdmit
  split <;> rfl

/-- The admission of an instruction leaves the scratchpad. -/
theorem xEffect_pad {op : XOp} {h g : Hart} {pops pushes} (e : xEffect op h = .done g pops pushes) : g.pad = h.pad := by
  have hl := xEffect_leaves op h
  rw [e] at hl
  exact Hart.pad_of_apart hl

@[simp] theorem unissue_pad (p : PLoad) (h : Hart) : (unissue p h).pad = h.pad := by
  dsimp only [unissue]
  split <;> rfl

@[simp] theorem failLoad_pad (p ps) (h : Hart) : (failLoad p ps h).pad = h.pad :=
  foldl_keeps (g := Hart.pad) (fun _ _ => unissue_pad _ _) _ _

@[simp] theorem confirmLoad_pad (p g) (h : Hart) : (confirmLoad p g h).pad = h.pad := by
  unfold confirmLoad
  split <;> rfl

@[simp] theorem fillLoad_pad (p g) (h : Hart) : (fillLoad p g h).pad = h.pad := by
  unfold fillLoad
  split <;> rfl

@[simp] theorem confirmFrom_pad (ps) (h : Hart) : (confirmFrom ps h).2.pad = h.pad := by
  induction ps generalizing h with
  | nil => rfl
  | cons p ps ih =>
    unfold confirmFrom
    split
    · rfl
    · split
      · exact failLoad_pad _ _ _
      · exact (ih _).trans (confirmLoad_pad _ _ _)

@[simp] theorem flushQueues_pad (mask) (h : Hart) : (flushQueues mask h).pad = h.pad :=
  foldl_keeps (g := Hart.pad) (fun h q => by split <;> simp) _ _

@[simp] theorem vatomReserve_pad (o e) (h : Hart) : (vatomReserve o e h).pad = h.pad := by
  unfold vatomReserve
  split
  · exact reserveEntry_pad _ _ _ _ _ _
  · rfl

@[simp] theorem vatomReturn_pad (o e n olds) (h : Hart) : (vatomReturn o e n olds h).pad = h.pad := by
  unfold vatomReturn
  split
  · exact vatomReserve_pad _ _ _
  · rfl

@[simp] theorem countCmd_pad (c) (h : Hart) : (countCmd c h).pad = h.pad := by
  unfold countCmd
  split <;> rfl

@[simp] theorem svctlSet_pad (h : Hart) (v) : (svctlSet h v).pad = h.pad := by
  dsimp only [svctlSet]
  split <;> rfl

@[simp] theorem unstep_pad (h : Hart) : (unstep h).pad = h.pad := by
  unfold unstep
  split <;> rfl

/-! ### Writes of a scratchpad -/

@[simp] theorem setSpLine_sp (h : Hart) (off data tag) :
    (h.setSpLine off data tag).sp = writeMem h.sp (off / 64 * 64) data 64 := by
  unfold Hart.setSpLine
  generalize 64 = n
  rfl

@[simp] theorem setSpLine_spTag (h : Hart) (off data tag) :
    (h.setSpLine off data tag).spTag = SMap.set h.spDef h.spTag (off / 64) tag := by
  unfold Hart.setSpLine
  generalize 64 = n
  rfl

@[simp] theorem setSpLine_spDef (h : Hart) (off data tag) : (h.setSpLine off data tag).spDef = h.spDef := by
  unfold Hart.setSpLine
  generalize 64 = n
  rfl

theorem Hart.spCanon.setSpLine {h : Hart} {off data tag} (hh : h.spCanon) : (h.setSpLine off data tag).spCanon := by
  obtain ⟨hsp, htag⟩ := hh
  rw [Hart.spCanon, setSpLine_sp, setSpLine_spTag, setSpLine_spDef]
  exact ⟨writeMem_wf _ _ _ hsp, SMap.wf_set htag⟩

theorem Hart.spCanon.foldl {β : Type} {f : Hart → β → Hart} {h : Hart} (hh : h.spCanon)
    (hf : ∀ {h x}, h.spCanon → (f h x).spCanon) (l : List β) : (l.foldl f h).spCanon := by
  induction l generalizing h with
  | nil => exact hh
  | cons x l ih => exact ih (hf hh)

theorem Hart.spCanon.spWritePieces {ps v} {h : Hart} (hh : h.spCanon) : (spWritePieces ps v h).spCanon := by
  induction ps generalizing v h with
  | nil => exact hh
  | cons p ps ih => exact ih hh.setSpLine

theorem Hart.spCanon.addFlags {h : Hart} {fl} (hh : h.spCanon) : (h.addFlags fl).spCanon := hh.of_pad rfl

theorem Hart.spCanon.spStoreLines {r ew rm els lines} {h g : Hart} (hh : h.spCanon)
    (e : spStoreLines r ew rm els lines h = .ok g) : g.spCanon := by
  induction lines generalizing h with
  | nil => exact Except.ok.inj e ▸ hh
  | cons line rest ih =>
    unfold Machine.spStoreLines at e
    extract_lets at e
    split at e
    · cases e
    · exact ih hh.setSpLine.addFlags e

theorem Hart.spCanon.spillLines {r off n j} {h : Hart} (hh : h.spCanon) : (spillLines r off n j h).spCanon := by
  induction n generalizing j h with
  | zero => exact hh
  | succ n ih => exact ih hh.setSpLine

theorem Hart.spCanon.moveRegs {one off f n k} {h : Hart} (hone : ∀ {n o h}, Hart.spCanon h → (one n o h).spCanon)
    (hh : h.spCanon) : (moveRegs one off f n k h).2.2.spCanon := by
  induction n generalizing k h with
  | zero => exact hh
  | succ n ih =>
    dsimp only [Machine.moveRegs]
    split
    · exact ih (hone hh)
    · exact hh

theorem Hart.spCanon.moveShare {k d} {h : Hart} (hh : h.spCanon) : (moveShare k d h).spCanon := by
  unfold Machine.moveShare
  extract_lets old h1 new h2
  have hh1 : h1.spCanon := hh.of_pad rfl
  have hh2 : h2.spCanon := ⟨SMap.wfFrom_filter _ hh.1, SMap.wfFrom_filter _ hh.2⟩
  clear_value h1 h2
  split
  · exact hh2.foldl (fun hg => hg.setSpLine) _
  · split
    · exact hh1
    · exact hh1.foldl (fun hg => hg.setSpLine) _

/-! ### `Sys2Proof/Machine/Harts.lean` -/

theorem State.padsCanon.updHart {id f} (hs : s.padsCanon) (hf : ∀ h, (f h).pad = h.pad := by intro; rfl) :
    (s.updHart id f).padsCanon := by
  unfold State.updHart
  split
  · exact hs.of_eq (hf _) rfl
  · refine ⟨hs.1, List.forall_mem_map.mpr fun h hmem => ?_⟩
    split
    · exact (hs.2 h hmem).of_pad (hf h)
    · exact hs.2 h hmem

theorem State.padsCanon.focus {id} (hs : s.padsCanon) : (s.focus id).padsCanon :=
  State.padsCanon_iff.mpr fun h hmem => State.padsCanon_iff.mp hs h ((focus_harts_perm s id).mem_iff.mp hmem)

theorem State.padsCanon.dropHart (hs : s.padsCanon) : s.dropHart.padsCanon := by
  unfold State.dropHart
  split
  · exact hs
  · next e =>
    obtain ⟨hh, hl⟩ := List.forall_mem_cons.mp (e ▸ hs.2)
    exact ⟨hh, hl⟩

theorem State.padsCanon.setCur {t} (hs : s.padsCanon) : (s.setCur t).padsCanon :=
  .ite (hs.of_eq rfl rfl) (hs.of_eq rfl rfl)

theorem State.padsCanon.setReg {n v} (hs : s.padsCanon) : (s.setReg n v).padsCanon := hs.setCur

theorem State.padsCanon.advance (hs : s.padsCanon) : s.advance.padsCanon := by
  dsimp only [State.advance]
  split
  · exact hs.setCur
  · exact hs

theorem State.padsCanon.stall {st w} (hs : s.padsCanon) : (s.stall st w).padsCanon := hs.setCur

/-! ### `Sys2Proof/Machine/Translate.lean` -/

theorem State.padsCanon.walk {tower asid va} (hs : s.padsCanon) : (walk s tower asid va).2.padsCanon :=
  hs.units (by simp)

theorem State.padsCanon.pteSwap {tower pa e new last} (hs : s.padsCanon) :
    (pteSwap s tower pa e new last).2.padsCanon :=
  hs.units (by simp)

theorem State.padsCanon.walkFill {w asid va wr} (hs : s.padsCanon) : (walkFill s w asid va wr).2.padsCanon :=
  hs.units (by simp)

theorem State.padsCanon.translate {w asid va wr} (hs : s.padsCanon) : (translate s w asid va wr).2.padsCanon :=
  hs.units (by simp)

theorem State.padsCanon.reach {w asid priv va n} (hs : s.padsCanon) : (reach s w asid priv va n).2.padsCanon := by
  dsimp only [Machine.reach]
  split
  · next e => exact hs.translate.pair e
  · next e => split <;> exact hs.translate.pair e

theorem State.padsCanon.reachH {va n} (hs : s.padsCanon) : (s.reachH va n).2.padsCanon := hs.reach

theorem State.padsCanon.tlbRemove {k} (hs : s.padsCanon) : (tlbRemove s k).padsCanon := hs.of_eq rfl rfl

/-! ### `Sys2Proof/Machine/UndoLog.lean` -/

theorem State.padsCanon.heldRead {pa k} (hs : s.padsCanon) : (heldRead s pa k).2.padsCanon := hs.units (by simp)

theorem State.padsCanon.heldPut {l va n v} (hs : s.padsCanon) : (heldPut s l va n v).padsCanon := hs.units (by simp)

theorem State.padsCanon.heldPutLines {l n n2 n3} (hs : s.padsCanon) : (heldPutLines l n s n2 n3).padsCanon :=
  hs.units (by simp)

theorem State.padsCanon.heldGetLines {l n va} (hs : s.padsCanon) : (heldGetLines l n s va).2.2.padsCanon := by
  induction n generalizing s va with
  | zero => exact hs
  | succ n ih =>
    rw [Machine.heldGetLines]
    split
    · exact hs
    · dsimp only
      exact ih hs.heldRead

theorem State.padsCanon.heldGet {l va n} (hs : s.padsCanon) : (heldGet s l va n).2.padsCanon := by
  dsimp only [Machine.heldGet]
  split
  · exact hs
  · exact hs.heldRead

theorem State.padsCanon.updLog {l f} (hs : s.padsCanon) : (s.updLog l f).padsCanon := hs.setEntry

theorem State.padsCanon.putRec {l off v} (hs : s.padsCanon) : (putRec s l off v).padsCanon := hs.heldPutLines

theorem State.padsCanon.takeRoom {l type win units} (hs : s.padsCanon) : (takeRoom s l type win units).2.padsCanon :=
  .updLog (.ite hs hs.putRec)

theorem State.padsCanon.appendRec {w type key body} (hs : s.padsCanon) : (appendRec s w type key body).padsCanon :=
  .ite hs (.ite hs.setEntry.takeRoom.putRec.updLog (.ite hs.setEntry.logError hs.setEntry))

theorem State.padsCanon.logLine {w pa va key nl old} (hs : s.padsCanon) : (logLine s w pa va key nl old).padsCanon :=
  .ite hs (.ite (.setDir (.ite hs.appendRec hs.appendRec)) (.ite hs.appendRec hs.appendRec))

theorem State.padsCanon.logExit {w kind addr count} (hs : s.padsCanon) : (logExit s w kind addr count).padsCanon :=
  hs.appendRec

theorem State.padsCanon.logCounter {w key handle old} (hs : s.padsCanon) :
    (logCounter s w key handle old).padsCanon := by
  dsimp only [Machine.logCounter]
  split
  · exact .ite hs (hs.appendRec.of_eq rfl rfl)
  · exact hs.appendRec

theorem State.padsCanon.clearMarks {l} (hs : s.padsCanon) : (clearMarks s l).padsCanon := hs.of_eq rfl rfl

theorem State.padsCanon.putHeader {l hold} (hs : s.padsCanon) : (putHeader s l hold).padsCanon :=
  hs.heldPutLines

/-! ### `Sys2Proof/Machine/Access.lean` -/

theorem State.padsCanon.reachPieces {need l} (hs : s.padsCanon) : (reachPieces s need l).2.padsCanon := by
  induction l generalizing s need with
  | nil => exact hs
  | cons _ _ ih =>
    dsimp only [Machine.reachPieces]
    split
    · next e2 => exact hs.reachH.pair e2
    · next e2 => split <;> next e3 => exact (ih (hs.reachH.pair e2)).pair e3

theorem State.padsCanon.readPieces {l} (hs : s.padsCanon) : (readPieces s l).2.padsCanon := by
  induction l generalizing s with
  | nil => exact hs
  | cons _ _ ih =>
    dsimp only [Machine.readPieces]
    split
    · exact hs.readLine
    · split
      · exact hs.readLine
      · split <;> next e4 => exact (ih hs.readLine).pair e4

theorem State.padsCanon.scalarLoad {va n} (hs : s.padsCanon) : (scalarLoad s va n).2.padsCanon := by
  dsimp only [Machine.scalarLoad]
  split
  · next e => exact hs.reachPieces.pair e
  · next e =>
      have hs1 := hs.reachPieces.pair e
      split
      · exact hs1
      · exact hs1.readPieces

theorem State.padsCanon.logExitsOf {w pas named} (hs : s.padsCanon) : (logExitsOf s w pas named).padsCanon := by
  dsimp only [Machine.logExitsOf]
  split
  · exact hs
  · split
    · split
      · exact hs
      · exact .ite hs.logExit hs
    · split
      · split
        · exact hs.logExit
        · exact .logExit (.ite hs.logExit hs)
      · split
        · exact hs
        · exact .ite hs.logExit hs

theorem State.padsCanon.logExits {w pas} (hs : s.padsCanon) : (logExits s w pas).padsCanon := hs.logExitsOf

theorem State.padsCanon.logIfHome {w x va old} (hs : s.padsCanon) : (logIfHome s w x va old).padsCanon := by
  dsimp only [Machine.logIfHome]
  split
  · exact hs
  · split
    · exact hs
    · exact hs
    · exact hs
    · exact hs.logLine

theorem State.padsCanon.writePiece {w va n v x} (hs : s.padsCanon) : (writePiece s w va n v x).2.padsCanon := by
  dsimp only [Machine.writePiece]
  split
  · exact hs
  · split
    all_goals
      split
      · exact hs
      · exact hs.readLine.logIfHome.writeBits

theorem State.padsCanon.storePieces {w l n} (hs : s.padsCanon) : (storePieces w l n s).2.padsCanon := by
  induction l generalizing w n s with
  | nil => exact hs
  | cons _ _ ih =>
    dsimp only [Machine.storePieces]
    split
    all_goals
      split
      · next e3 => exact ih (hs.reachH.pair e3)
      · next e3 => split <;> next e4 => exact ih ((hs.reachH.pair e3).writePiece.pair e4)

theorem State.padsCanon.scalarStore {w va n v} (hs : s.padsCanon) : (scalarStore s w va n v).2.padsCanon := by
  dsimp only [Machine.scalarStore]
  split
  · exact hs
  · exact hs.logExitsOf.storePieces

theorem State.padsCanon.tagLoad {va} (hs : s.padsCanon) : (tagLoad s va).2.padsCanon := by
  dsimp only [Machine.tagLoad]
  split
  · next e => exact hs.reachH.pair e
  · next e => exact (hs.reachH.pair e).readLine

theorem State.padsCanon.writeTagAt {pa k w noL1 data tag} (hs : s.padsCanon) :
    (writeTagAt s pa k w noL1 data tag).padsCanon := by
  dsimp only [Machine.writeTagAt]
  split
  · exact hs.sendPeer
  · exact hs.writeLine

theorem State.padsCanon.tagStore {w va v} (hs : s.padsCanon) : (tagStore s w va v).2.padsCanon := by
  dsimp only [Machine.tagStore]
  split
  · exact hs
  · split
    · next e2 => exact hs.reachH.pair e2
    · next e2 =>
        have hs1 := hs.reachH.pair e2
        split
        · exact hs1
        · split
          all_goals
            split
            · exact hs1
            · exact hs1.readLine.logExits.logIfHome.writeTagAt

theorem State.padsCanon.reachElems {need ew l} (hs : s.padsCanon) : (reachElems need ew l s).2.2.padsCanon := by
  induction l generalizing need ew s with
  | nil => exact hs
  | cons _ _ ih =>
    dsimp only [Machine.reachElems]
    split
    · next e2 => exact ih (hs.reachH.pair e2)
    · next e2 => split <;> exact ih (hs.reachH.pair e2)

theorem State.padsCanon.readElemLines {l l2} (hs : s.padsCanon) : (readElemLines l l2 s).2.padsCanon := by
  induction l generalizing l2 s with
  | nil => exact hs
  | cons _ _ ih =>
    dsimp only [Machine.readElemLines]
    split
    · exact ih hs
    · exact ih hs.readLine

theorem State.padsCanon.storeLines {r w ew rm all l} (hs : s.padsCanon) :
    (storeLines r w ew rm all l s).2.2.padsCanon := by
  induction l generalizing r w ew rm all s with
  | nil => exact hs
  | cons _ _ ih =>
    dsimp only [Machine.storeLines]
    split
    · exact ih hs
    · split
      all_goals
        split
        · exact ih hs
        · split
          · exact ih hs.readLine
          · exact ih hs.readLine.logIfHome.writeBits

theorem State.padsCanon.vectorStore {w r ew rm els} (hs : s.padsCanon) : (vectorStore s w r ew rm els).2.padsCanon := by
  dsimp only [Machine.vectorStore]
  split
  · exact hs
  · split <;> exact hs.reachElems.logExitsOf.storeLines.of_eq rfl rfl

theorem State.padsCanon.atomAt {w va x op bits v expected} (hs : s.padsCanon) :
    (atomAt s w va x op bits v expected).2.padsCanon := by
  unfold Machine.atomAt
  split
  · exact hs
  · split
    · exact hs
    · split
      · exact hs
      · split
        · exact hs
        · exact hs.logExits.of_eq rfl rfl
    · split
      · exact hs
      · dsimp only
        split <;> exact hs.logExits.draw.sendPeer
    · dsimp only
      split
      · exact hs.readLine
      · exact hs.readLine.logIfHome.writeLine

/-! ### `Sys2Proof/Machine/Counters.lean` -/

theorem State.padsCanon.putNear {key v} (hs : s.padsCanon) : (putNear s key v).padsCanon := hs.of_eq rfl rfl

theorem State.padsCanon.wakeNear {id p v} (hs : s.padsCanon) : (wakeNear s id p v).padsCanon := hs.later

theorem State.padsCanon.nearAdd {id p d} (hs : s.padsCanon) : (nearAdd s id p d).padsCanon :=
  hs.putNear.wakeNear

theorem State.padsCanon.slotSet {w tower slot old v} (hs : s.padsCanon) :
    (slotSet s w tower slot old v).2.padsCanon := by
  dsimp only [Machine.slotSet]
  split
  · exact hs
  · split
    · exact hs.putSlot.logCounter.putSlot
    · exact hs.putSlot.putSlot

theorem State.padsCanon.slotOp {w tower slot op} (hs : s.padsCanon) : (slotOp s w tower slot op).2.padsCanon := by
  dsimp only [Machine.slotOp]
  split
  · exact hs.slotRead.slotSet
  · split
    · exact hs.slotRead.slotSet
    · exact hs.slotRead
  · exact hs.slotRead
  · split
    · exact .addSlot (.ite hs.slotRead.logCounter hs.slotRead.logCounter.logExit)
    · exact hs.slotRead.addSlot
  · split
    · exact .addSlot (.ite hs.slotRead.logCounter hs.slotRead.logCounter.logExit)
    · exact hs.slotRead.addSlot
  · exact hs.slotRead
  · exact hs.slotRead

theorem State.padsCanon.logFar {w r op} (hs : s.padsCanon) : (logFar s w r op).padsCanon := by
  dsimp only [Machine.logFar]
  split
  · exact .ite hs.logExit hs
  · exact hs

theorem State.padsCanon.hostCounter {w r pa op} (hs : s.padsCanon) : (hostCounter s w r pa op).2.padsCanon := by
  unfold Machine.hostCounter
  extract_lets v
  split
  · split
    · exact hs
    · exact hs.logFar.of_eq rfl rfl
  · split
    · exact hs
    · exact hs.logFar.of_eq rfl rfl
  · exact hs

theorem State.padsCanon.peerCounter {w tower r node op} (hs : s.padsCanon) :
    (peerCounter s w tower r node op).2.padsCanon := by
  dsimp only [Machine.peerCounter]
  split
  · split
    all_goals
      split
      · exact hs.logFar.logError
      · exact hs
  · split
    · exact .sendPeer (.ite hs.draw.logFar hs.draw)
    · split
      all_goals
        split
        · exact .logError (.sendPeer (.ite hs.draw.logFar hs.draw))
        · exact .sendPeer (.ite hs.draw.logFar hs.draw)

theorem State.padsCanon.counterOp {r op} (hs : s.padsCanon) : (counterOp s r op).2.padsCanon := by
  dsimp only [Machine.counterOp]
  split
  · exact hs
  · split
    · exact hs
    · split
      · exact hs
      · split
        · exact hs.nearAdd
        · exact hs.nearAdd
        · split
          · exact hs
          · exact hs.putNear
        · exact hs
        · exact hs
    · split
      · exact hs
      · split
        · exact hs
        · split <;> next e5 => exact hs.slotOp.pair e5
    · split
      all_goals
        split
        · exact hs
        · split
          · exact hs
          · exact hs.hostCounter
    · split
      all_goals
        split
        · exact hs
        · split
          · exact hs
          · exact hs.peerCounter

theorem State.padsCanon.farAdd {tower priv asid r d} (hs : s.padsCanon) : (farAdd s tower priv asid r d).2.padsCanon :=
  hs.units (by simp)

theorem State.padsCanon.registerWaiter {tower slot thr who} (hs : s.padsCanon) :
    (registerWaiter s tower slot thr who).2.padsCanon := by
  dsimp only [Machine.registerWaiter]
  split
  · next e => exact hs.slotRead.pair e
  · next e =>
      have hs1 := hs.slotRead.pair e
      split
      · exact hs1
      · split <;> exact hs1.of_eq rfl rfl

theorem State.padsCanon.peerWait {node r thr who} (hs : s.padsCanon) : (peerWait s node r thr who).padsCanon :=
  .sendPeer (hs.of_eq rfl rfl)

theorem State.padsCanon.unwait {w} (hs : s.padsCanon) : (unwait s w).padsCanon := by
  dsimp only [Machine.unwait]
  split
  · exact .ite hs hs.sendPeer
  · exact hs

theorem State.padsCanon.dropRemote {who} (hs : s.padsCanon) : (dropRemote s who).padsCanon :=
  .foldl (hs.of_eq rfl rfl) (·.unwait)

theorem State.padsCanon.dropWaiter {who} (hs : s.padsCanon) : (dropWaiter s who).padsCanon :=
  .dropRemote (hs.of_eq rfl rfl)

/-! ### `Sys2Proof/Machine/Context.lean` -/

theorem State.padsCanon.areaPut {l va lines v} (hs : s.padsCanon) : (areaPut l s va lines v).padsCanon :=
  hs.heldPutLines

theorem State.padsCanon.areaGet {l va lines} (hs : s.padsCanon) : (areaGet l s va lines).2.padsCanon :=
  hs.heldGetLines

theorem State.padsCanon.areaPuts {l base l2} (hs : s.padsCanon) : (areaPuts l base l2 s).padsCanon :=
  hs.units (by simp)

theorem State.padsCanon.putSfrq {l base h} (hs : s.padsCanon) : (putSfrq l base h s).padsCanon := hs.areaPuts

theorem State.padsCanon.putImage {l base h kind snap} (hs : s.padsCanon) : (putImage s l base h kind snap).padsCanon :=
  hs.units (by simp)

theorem State.padsCanon.getRegs {l base tagOff dataOff joined i} (hs : s.padsCanon) :
    (getRegs l base tagOff dataOff joined i s).2.padsCanon := by
  dsimp only [Machine.getRegs]
  exact hs.areaGet.areaGet

theorem State.padsCanon.getQueue {l base joined q head pend n n2} (hs : s.padsCanon) :
    (getQueue l base joined q head pend n n2 s).2.padsCanon := by
  induction n generalizing l base joined q head pend n2 s with
  | zero => exact hs
  | succ _ ih =>
    dsimp only [Machine.getQueue]
    exact ih hs.getRegs

theorem State.padsCanon.getSf {l base joined k} (hs : s.padsCanon) : (getSf l base joined k s).2.padsCanon := by
  unfold Machine.getSf
  split
  next e =>
    have hs1 := hs.areaGet.pair e
    extract_lets
    split
    · exact hs1
    · dsimp only
      exact hs1.areaGet.areaGet.areaGet.areaGet

theorem State.padsCanon.getSfs {l base joined n n2} (hs : s.padsCanon) : (getSfs l base joined n n2 s).2.padsCanon := by
  induction n generalizing l base joined n2 s with
  | zero => exact hs
  | succ _ ih =>
    dsimp only [Machine.getSfs]
    exact ih hs.getSf

theorem State.padsCanon.getVregs {l base n n2 x} (hs : s.padsCanon) : (getVregs l base n n2 x s).2.padsCanon := by
  induction n generalizing l base n2 x s with
  | zero => exact hs
  | succ _ ih =>
    dsimp only [Machine.getVregs]
    exact ih hs.getRegs

theorem State.padsCanon.getMasks {l base n n2 x} (hs : s.padsCanon) : (getMasks l base n n2 x s).2.padsCanon := by
  induction n generalizing l base n2 x s with
  | zero => exact hs
  | succ _ ih =>
    dsimp only [Machine.getMasks]
    exact ih hs.areaGet

/-- The kernel checks the recursion with `getQueue` as a variable: with its definition in sight it evaluates the number
of entries, which it reaches by counting. -/
theorem State.padsCanon.getQueues {l base rec n q h} (hs : s.padsCanon) :
    (getQueues l base rec n q h s).2.padsCanon := by
  obtain ⟨get, hget⟩ : ∃ f, f = Machine.getQueue := ⟨_, rfl⟩
  have hq {s : State} {l base j q head p m i} (hs : s.padsCanon) : (get l base j q head p m i s).2.padsCanon :=
    hget ▸ hs.getQueue
  delta Machine.getQueues
  delta getQueues._f
  rw [← hget]
  induction n generalizing q h s with
  | zero => exact hs
  | succ n ih => exact ih (hq hs)

theorem State.padsCanon.getTiles {l base n n2 x} (hs : s.padsCanon) : (getTiles l base n n2 x s).2.padsCanon := by
  induction n generalizing l base n2 x s with
  | zero => exact hs
  | succ _ ih =>
    dsimp only [Machine.getTiles]
    split
    · exact ih hs.areaGet
    · exact ih hs.areaGet.areaGet

theorem State.padsCanon.restoreNear {h v} (hs : s.padsCanon) : (restoreNear s h v).padsCanon :=
  hs.foldl (·.putNear)

theorem getVregs_pad {l base n i} {h : Hart} : (getVregs l base n i h s).1.pad = h.pad := by
  induction n generalizing i h s with
  | zero => rfl
  | succ _ ih => exact ih

theorem getMasks_pad {l base n i} {h : Hart} : (getMasks l base n i h s).1.pad = h.pad := by
  induction n generalizing i h s with
  | zero => rfl
  | succ _ ih =>
    refine ih.trans ?_
    unfold Hart.setMask
    split <;> rfl

theorem getTiles_pad {l base n i} {h : Hart} : (getTiles l base n i h s).1.pad = h.pad := by
  induction n generalizing i h s with
  | zero => rfl
  | succ _ ih =>
    dsimp only [getTiles]
    split
    · exact ih
    · exact ih

/-- `getQueue` is a variable here for the reason given at `State.canon.getQueues`. -/
theorem getQueues_pad {l base rec n q} {h : Hart} : (getQueues l base rec n q h s).1.pad = h.pad := by
  obtain ⟨get, hget⟩ : ∃ f, f = getQueue := ⟨_, rfl⟩
  delta getQueues
  delta getQueues._f
  rw [← hget]
  induction n generalizing q h s with
  | zero => rfl
  | succ n ih => exact ih

/-- `getQueues` is a variable here for the reason given at `State.canon.getQueues`. -/
theorem getImage_pad {l base tiles} {h : Hart} :
    (getImage s l base tiles h).1.pad = (h.sp, h.spTag, mkTag 0 .unrestored 0 127 127) := by
  obtain ⟨queues, hqueues⟩ : ∃ f, f = getQueues := ⟨_, rfl⟩
  have hq {s : State} {l base rec n q h} : (queues l base rec n q h s).1.pad = h.pad := hqueues ▸ getQueues_pad
  obtain ⟨image, himage⟩ : ∃ f, f = getImage := ⟨_, rfl⟩
  rw [← himage]
  delta getImage at himage
  rw [← hqueues] at himage
  subst himage
  exact congrArg (fun p => (p.1, p.2.1, mkTag 0 .unrestored 0 127 127))
    (getTiles_pad.trans (hq.trans (getVregs_pad.trans getMasks_pad)))

/-- `getQueues` is a variable here for the reason given at `State.padsCanon.getQueues`. -/
theorem State.padsCanon.getImage {l base tiles h} (hs : s.padsCanon) : (getImage s l base tiles h).2.padsCanon := by
  obtain ⟨queues, hqueues⟩ : ∃ f, f = Machine.getQueues := ⟨_, rfl⟩
  have hq {s : State} {l base rec n q h} (hs : s.padsCanon) : (queues l base rec n q h s).2.padsCanon :=
    hqueues ▸ hs.getQueues
  obtain ⟨image, himage⟩ : ∃ f, f = Machine.getImage := ⟨_, rfl⟩
  rw [← himage]
  delta Machine.getImage at himage
  rw [← hqueues] at himage
  subst himage
  exact (hq hs.areaGet.areaGet.areaGet.areaGet.areaGet.areaGet.areaGet.getMasks.getVregs).getTiles.getSfs
    |>.restoreNear.areaPut

/-! ### `Sys2Proof/Machine/InFlight.lean` -/

theorem State.padsCanon.arrivalOf {p park} (hs : s.padsCanon) : (arrivalOf s p park).2.padsCanon :=
  hs.readElemLines

theorem State.padsCanon.arriveAt {n park} (hs : s.padsCanon) : (arriveAt s n park).2.padsCanon := by
  dsimp only [Machine.arriveAt]
  split
  · exact hs
  · split
    · exact hs.of_eq (by simp) rfl
    · exact hs.arrivalOf.of_eq (by simp) rfl

theorem State.padsCanon.arriveOne (hs : s.padsCanon) : (arriveOne s).2.padsCanon := by
  dsimp only [Machine.arriveOne]
  split
  · exact hs
  · exact hs.arriveAt
  · exact hs.draw.arriveAt

theorem State.padsCanon.settleFrom {park n} (hs : s.padsCanon) : (settleFrom park n s).2.padsCanon := by
  induction n generalizing park s with
  | zero => exact hs
  | succ _ ih =>
    dsimp only [Machine.settleFrom]
    split
    · exact hs
    · split
      · next e3 => exact hs.arriveAt.pair e3
      · next e3 => exact ih (hs.arriveAt.pair e3)

theorem State.padsCanon.settleLoads {park} (hs : s.padsCanon) : (settleLoads s park).2.padsCanon :=
  hs.settleFrom

theorem State.padsCanon.tryStore {st} (hs : s.padsCanon) : (tryStore s st).2.padsCanon := by
  dsimp only [Machine.tryStore]
  split
  · exact hs.scalarStore
  · split
    · exact hs.tagStore
    · exact hs.vectorStore

theorem State.padsCanon.resolveAt {n} (hs : s.padsCanon) : (resolveAt s n).padsCanon := by
  dsimp only [Machine.resolveAt]
  split
  · exact hs
  · split
    · next e2 => exact hs.tryStore.pair e2
    · next e2 => exact (hs.tryStore.pair e2).of_eq rfl rfl
    · next e2 => exact (hs.tryStore.pair e2).of_eq rfl rfl

theorem State.padsCanon.resolveOne (hs : s.padsCanon) : (resolveOne s).padsCanon := hs.resolveAt

theorem State.padsCanon.settleStoresFrom {n} (hs : s.padsCanon) : (settleStoresFrom n s).padsCanon := by
  induction n generalizing s with
  | zero => exact hs
  | succ _ ih =>
    dsimp only [Machine.settleStoresFrom]
    exact ih hs.resolveOne

theorem State.padsCanon.settleStores (hs : s.padsCanon) : (settleStores s).padsCanon := hs.settleStoresFrom

theorem State.padsCanon.resolveSome (hs : s.padsCanon) : (resolveSome s).padsCanon := by
  dsimp only [Machine.resolveSome]
  split
  · exact hs
  · exact hs.resolveAt
  · exact hs.draw.resolveAt

theorem State.padsCanon.resolveMeeting {keys n} (hs : s.padsCanon) : (resolveMeeting keys n s).padsCanon := by
  induction n generalizing keys s with
  | zero => exact hs
  | succ _ ih =>
    dsimp only [Machine.resolveMeeting]
    split
    · exact ih hs.resolveAt
    · exact hs

theorem State.padsCanon.noteWrite {d} (hs : s.padsCanon) : (s.noteWrite d).padsCanon :=
  .ite (.ite (hs.of_eq rfl rfl) hs) (hs.of_eq rfl rfl)

theorem State.padsCanon.writeReg {d v} (hs : s.padsCanon) : (s.writeReg d v).padsCanon :=
  .ite hs.noteWrite.setReg.advance hs

/-! ### `Sys2Proof/Machine/Ops.lean` -/

theorem State.padsCanon.updGovs {f} (hs : s.padsCanon) : (updGovs s f).padsCanon := hs.of_eq rfl rfl

theorem State.padsCanon.withdrawCmd {id} (hs : s.padsCanon) : (withdrawCmd s id).padsCanon := by
  unfold Machine.withdrawCmd
  exact hs.of_eq rfl rfl

theorem State.padsCanon.dropLeaves {id} (hs : s.padsCanon) : (dropLeaves s id).padsCanon :=
  hs.withdrawCmd.updGovs

theorem State.padsCanon.withdrawAsks {id} (hs : s.padsCanon) : (withdrawAsks s id).padsCanon :=
  hs.withdrawCmd.updGovs

theorem State.padsCanon.withdrawStopped {id onX t} (hs : s.padsCanon) : (withdrawStopped s id onX t).padsCanon :=
  .ite (.ite hs.updGovs hs.withdrawCmd) hs

theorem State.padsCanon.leaveSlot {gone} (hs : s.padsCanon) : (leaveSlot s gone).padsCanon :=
  hs.dropLeaves.dropWaiter.mapHarts (endQuarterWait_pad _ gone) rfl rfl

theorem State.padsCanon.counterTouch {r} (hs : s.padsCanon) : (counterTouch s r).padsCanon := hs.units (by simp)

theorem State.padsCanon.freeEntry {l} (hs : s.padsCanon) : (freeEntry s l).padsCanon := hs.units (by simp)

theorem State.padsCanon.settleEntry {l} (hs : s.padsCanon) : (settleEntry s l).padsCanon := hs.units (by simp)

theorem State.padsCanon.updTasks {l f} (hs : s.padsCanon) (hf : ∀ h, (f h).pad = h.pad := by intro; rfl) :
    (updTasks s l f).padsCanon :=
  hs.mapHarts (f := fun h => if h.launch = some l then f h else h) (fun h => by split <;> simp [hf]) rfl rfl

theorem State.padsCanon.disown {l ended} (hs : s.padsCanon) : (disown s l ended).padsCanon := hs.of_eq rfl rfl

theorem State.padsCanon.killLaunch {l} (hs : s.padsCanon) : (killLaunch s l).padsCanon :=
  (hs.setEntry.disown.updTasks (requestStop_pad _ _)).settleEntry

theorem State.padsCanon.quietHeader {l} (hs : s.padsCanon) : (quietHeader s l).padsCanon := .ite hs.putHeader hs

theorem State.padsCanon.freeSlot {l} (hs : s.padsCanon) : (freeSlot s l).padsCanon :=
  hs.dropHart.leaveSlot.quietHeader.settleEntry

theorem State.padsCanon.freeTaskSlot {l} (hs : s.padsCanon) : (freeTaskSlot s l).padsCanon := hs.disown.freeSlot

theorem State.padsCanon.endTask (hs : s.padsCanon) : (endTask s).padsCanon := by
  dsimp only [Machine.endTask]
  split
  · exact hs.setCur
  · exact hs.freeTaskSlot

theorem State.padsCanon.killTask (hs : s.padsCanon) : (killTask s).padsCanon := by
  dsimp only [Machine.killTask]
  split
  · exact hs.withdrawCmd.settleStores
  · split
    · exact hs.withdrawCmd.settleStores
    · exact hs.withdrawCmd.settleStores.freeTaskSlot

theorem State.padsCanon.takeTrap {c} (hs : s.padsCanon) : (takeTrap s c).padsCanon := by
  unfold Machine.takeTrap
  split
  next e =>
    extract_lets s2 p both h h1 fatal h2 s3 base s4 h3
    have hs2 : s2.padsCanon := (hs.settleLoads.pair e).settleStores
    have hp2 : h2.pad = s2.h.pad := by
      have hx : (if c.onX then retireAll h else haltX h).pad = h.pad := by
        split
        · exact retireAll_pad h
        · exact haltX_pad h
      exact hx
    have hs2' : State.padsCanon { s2 with h := h2 } := hs2.of_eq hp2 rfl
    have hs3 : s3.padsCanon := .dropWaiter (.withdrawAsks hs2')
    have hs4 : s4.padsCanon := by
      dsimp only [s4]
      split
      · exact hs3
      · exact .ite hs3.putSfrq.areaPut hs3.putSfrq.areaPut.areaPut
    have hh : h3.spCanon := hs2'.1.of_pad rfl
    clear_value s4 h3
    split
    · exact hs2
    · split
      · exact hs4.of_hart (hh.of_pad rfl) rfl
      · split
        · exact hs4.of_hart (hh.of_pad rfl) rfl
        · exact .killLaunch (hs4.of_hart hh rfl)

theorem State.padsCanon.raise {code acc level tval} (hs : s.padsCanon) : (raise s code acc level tval).padsCanon :=
  .ite hs hs.takeTrap

theorem State.padsCanon.raiseErr {acc e} (hs : s.padsCanon) : (raiseErr s acc e).padsCanon := hs.raise

theorem State.padsCanon.returnTrap (hs : s.padsCanon) : (returnTrap s).padsCanon := by
  unfold Machine.returnTrap
  split
  · exact hs.setCur
  · extract_lets base
    split
    next rec s1 e =>
    split
    next ra s2 e2 =>
    have hs2 : s2.padsCanon := (hs.areaGet.pair e).areaGet.pair e2
    have hp := flushQueues_pad (bitsAt rec 1992 10) s2.h
    refine hs2.of_eq ?_ rfl
    generalize flushQueues (bitsAt rec 1992 10) s2.h = h at hp ⊢
    dsimp only
    split
    · exact hp
    · exact hp

theorem State.padsCanon.fetchAt {va} (hs : s.padsCanon) : (fetchAt s va).2.padsCanon := by
  dsimp only [Machine.fetchAt]
  split
  · next e => exact hs.reachH.pair e
  · next e => split <;> exact (hs.reachH.pair e).readLine

theorem State.padsCanon.fetchMany {n x} (hs : s.padsCanon) : (fetchMany n x s).2.padsCanon := by
  induction n generalizing x s with
  | zero => exact hs
  | succ _ ih =>
    dsimp only [Machine.fetchMany]
    split
    · next e2 => exact hs.fetchAt.pair e2
    · next e2 => split <;> next e3 => exact (ih (hs.fetchAt.pair e2)).pair e3

theorem State.padsCanon.loadBlock {hdr known} (hs : s.padsCanon) : (loadBlock s hdr known).2.padsCanon := by
  unfold Machine.loadBlock
  extract_lets first
  have fetched : first.2.padsCanon := by
    dsimp only [first]
    split
    · exact hs
    · exact hs.fetchAt
  clear_value first
  split
  · exact fetched
  · split
    · exact fetched
    · split
      · exact fetched
      · extract_lets
        split
        · next e => exact State.padsCanon.pair (State.padsCanon.fetchMany fetched) e
        · next e =>
          have hs2 := State.padsCanon.pair (State.padsCanon.fetchMany fetched) e
          split
          · exact hs2
          · extract_lets
            split <;> exact hs2

theorem State.padsCanon.startBlock {b} (hs : s.padsCanon) : (startBlock s b).padsCanon := .ite hs hs.setCur

theorem State.padsCanon.raiseFall {hdr} (hs : s.padsCanon) : (raiseFall s hdr).padsCanon :=
  .ite hs.setCur.raise.setCur hs.setCur.raise

theorem State.padsCanon.enterBlock {hdr via head} (hs : s.padsCanon) : (enterBlock s hdr via head).padsCanon := by
  dsimp only [Machine.enterBlock]
  split
  · exact hs.startBlock
  · split
    · exact .ite hs.raise hs.raiseFall
    · split
      · next e3 => exact (hs.loadBlock.pair e3).startBlock
      · next e3 =>
          have hs1 := hs.loadBlock.pair e3
          exact .ite hs1.raise hs1.raiseFall
      · next e3 => exact (hs.loadBlock.pair e3).raiseErr
      · next e3 => exact (hs.loadBlock.pair e3).raise

theorem State.padsCanon.reloadBlock {hdr w} (hs : s.padsCanon) : (reloadBlock s hdr w).padsCanon := by
  dsimp only [Machine.reloadBlock]
  split
  · next e => exact (hs.loadBlock.pair e).setCur
  · next e => exact (hs.loadBlock.pair e).raise
  · next e => exact (hs.loadBlock.pair e).raiseErr
  · next e => exact (hs.loadBlock.pair e).raise

theorem State.padsCanon.goTo {t head link} (hs : s.padsCanon) : (goTo s t head link).padsCanon := by
  dsimp only [Machine.goTo]
  split
  · exact hs.noteWrite.setReg.setCur
  · exact hs.setCur

theorem State.padsCanon.transfer {t link} (hs : s.padsCanon) : (transfer s t link).padsCanon := by
  dsimp only [Machine.transfer]
  split
  · exact hs
  · split
    · exact hs.raise
    · split
      · exact hs.goTo
      · split
        · next e4 =>
            have hs1 := hs.fetchAt.pair e4
            exact .ite hs1 hs1.goTo.raiseErr
        · next e4 =>
            have hs1 := hs.fetchAt.pair e4
            exact .ite hs1.goTo hs1.raise

theorem State.padsCanon.startPark {kind} (hs : s.padsCanon) : (startPark s kind).padsCanon :=
  hs.dropLeaves.dropWaiter.of_eq rfl rfl

theorem State.padsCanon.softStop {kind} (hs : s.padsCanon) : (softStop s kind).padsCanon := by
  unfold Machine.softStop
  extract_lets h a x h1 s0 s1
  have hs0 : s0.padsCanon := .withdrawStopped (.withdrawStopped (hs.of_eq rfl rfl))
  have hs1 : s1.padsCanon := .ite hs0.dropWaiter hs0
  have hp : (retireAll h1).pad = s.h.pad := retireAll_pad h1
  clear_value s1
  exact .ite hs (.ite (.startPark (hs1.of_hart (hs.1.of_pad hp) rfl)) hs1)

theorem State.padsCanon.hardStop {kind} (hs : s.padsCanon) : (hardStop s kind).padsCanon := by
  dsimp only [Machine.hardStop]
  split
  · next e => exact (hs.settleLoads.pair e).takeTrap
  · next e => exact .startPark ((hs.settleLoads.pair e).of_eq (haltX_pad _) rfl)

theorem State.padsCanon.endDebug {status res0 res1} (hs : s.padsCanon) : (endDebug s status res0 res1).padsCanon :=
  .ite (hs.of_eq rfl rfl) (.farAdd (hs.of_eq rfl rfl))

theorem State.padsCanon.afterPark {l} (hs : s.padsCanon) : (afterPark s l).padsCanon := .ite hs.endDebug hs

theorem State.padsCanon.parkSave (hs : s.padsCanon) : (parkSave s).padsCanon := by
  dsimp only [Machine.parkSave]
  split
  · exact hs.killTask
  · split
    · exact hs.settleStores
    · split
      · exact hs.settleStores
      · exact hs.settleStores.putImage.setEntry.freeSlot.afterPark

/-! ### `Sys2Proof/Machine/Sched.lean` -/

theorem State.padsCanon.holdPages {asid n n2 x} (hs : s.padsCanon) : (holdPages asid n n2 x s).2.padsCanon := by
  induction n generalizing asid n2 x s with
  | zero => exact hs
  | succ _ ih =>
    dsimp only [Machine.holdPages]
    split
    · next e2 => exact hs.translate.pair e2
    · next e2 =>
        have hs1 := hs.translate.pair e2
        split
        · exact ih hs1
        · exact hs1

theorem State.padsCanon.refuseCondition {l j} (hs : s.padsCanon) : (refuseCondition s l j).padsCanon :=
  hs.setEntry

theorem State.padsCanon.startCondition {l j handle thr} (hs : s.padsCanon) :
    (startCondition s l j handle thr).padsCanon := by
  dsimp only [Machine.startCondition]
  split
  · split
    · exact hs.refuseCondition.logError
    · split
      · next e3 => exact (hs.registerWaiter.pair e3).condMet
      · next e4 => exact hs.registerWaiter.pair e4
  · exact .ite hs.condMet hs
  · exact .ite hs.draw.peerWait hs.draw.refuseCondition
  · exact hs

theorem State.padsCanon.startConditions {l} (hs : s.padsCanon) : (startConditions s l).padsCanon :=
  hs.foldl (fun ht => .ite ht.startCondition ht)

theorem State.padsCanon.acceptLaunch {v by_} (hs : s.padsCanon) : (acceptLaunch s v by_).2.2.padsCanon := by
  unfold Machine.acceptLaunch
  extract_lets r
  split
  · exact hs
  · split
    · next e1 => exact hs.holdPages.pair e1
    · next e1 =>
      have hs1 := hs.holdPages.pair e1
      split
      · next e2 => exact hs1.holdPages.pair e2
      · next e2 =>
        have hs2 := hs1.holdPages.pair e2
        split
        · exact hs2
        · split
          · exact hs2
          · exact .startConditions (hs2.of_eq rfl rfl)

theorem State.padsCanon.dropL1 {tower core} (hs : s.padsCanon) : (dropL1 s tower core).padsCanon :=
  hs.foldl (fun ht => .ite ht.setDir ht.evictLine)

theorem State.padsCanon.convertCore {id split} (hs : s.padsCanon) : (convertCore s id split).padsCanon :=
  .of_eq (.ite hs.dropL1 hs) rfl rfl

theorem State.padsCanon.clearNear {h} (hs : s.padsCanon) : (clearNear s h).padsCanon := hs.foldl (·.putNear)

/-- A hart joins the others. -/
theorem State.padsCanon.addHart {h} (hs : s.padsCanon) (hh : h.spCanon) :
    State.padsCanon { s with rest := s.rest ++ [h] } :=
  ⟨hs.1, by simpa [or_imp, forall_and] using ⟨hs.2, hh⟩⟩

theorem State.padsCanon.dispatch {l id} (hs : s.padsCanon) : (dispatch s l id).padsCanon :=
  hs.convertCore.clearNear.addHart ⟨rfl, rfl⟩

/-- `getImage` is a variable here for the reason given at `State.padsCanon.getQueues`. -/
theorem State.padsCanon.resumeTask {l p id} (hs : s.padsCanon) : (resumeTask s l p id).padsCanon := by
  obtain ⟨image, himage⟩ : ∃ f, f = Machine.getImage := ⟨_, rfl⟩
  have hi {s : State} {l base tiles h} (hs : s.padsCanon) : (image s l base tiles h).2.padsCanon := himage ▸ hs.getImage
  have hpad {s : State} {l base tiles h} :
      (image s l base tiles h).1.pad = (h.sp, h.spTag, mkTag 0 .unrestored 0 127 127) :=
    himage ▸ getImage_pad
  obtain ⟨resume, hresume⟩ : ∃ f, f = Machine.resumeTask := ⟨_, rfl⟩
  rw [← hresume]
  delta Machine.resumeTask at hresume
  rw [← himage] at hresume
  subst hresume
  beta_reduce
  extract_lets s1 e
  split
  next h7 _ e1 =>
    have hp : h7.pad = ([], [], mkTag 0 .unrestored 0 127 127) := congrArg (·.1.pad) e1 ▸ hpad
    extract_lets _ _ h1 _ s3
    have hs3 : s3.padsCanon := ((hi hs.convertCore).pair e1).setEntry
    have hh : h1.spCanon := (Hart.spCanon_of_pad_nil hp).of_pad rfl
    clear_value s3 h1
    exact hs3.addHart hh

theorem State.padsCanon.resumeTasks {l l2} (hs : s.padsCanon) : (resumeTasks l l2 s).padsCanon := by
  induction l2 generalizing l s with
  | nil => exact hs
  | cons _ _ ih =>
    dsimp only [Machine.resumeTasks]
    split
    · exact hs
    · exact ih hs.resumeTask

theorem State.padsCanon.gain {t τ n} (hs : s.padsCanon) : (gain s t τ n).padsCanon := hs.of_eq rfl rfl

theorem State.padsCanon.clipDeficits {τ} (hs : s.padsCanon) : (clipDeficits s τ).padsCanon := hs.of_eq rfl rfl

theorem State.padsCanon.drrServe {t p ts} (hs : s.padsCanon) : (drrServe s t p ts).2.padsCanon :=
  (hs.foldl (·.gain)).of_eq rfl rfl

theorem State.padsCanon.firstLaunch {t blocked} (hs : s.padsCanon) : (firstLaunch s t blocked).2.padsCanon := by
  dsimp only [Machine.firstLaunch]
  split
  · exact hs
  · exact hs.drrServe

theorem State.padsCanon.firstPlace {l ids} (hs : s.padsCanon) : (firstPlace s l ids).padsCanon := by
  dsimp only [Machine.firstPlace]
  split
  · exact (hs.setEntry.foldl (·.dispatch)).settleEntry
  · exact (hs.counterTouch.setEntry.foldl (·.dispatch)).settleEntry

theorem State.padsCanon.resumeOne {l id} (hs : s.padsCanon) : (resumeOne s l id).padsCanon := by
  dsimp only [Machine.resumeOne]
  split
  · exact hs
  · exact hs.resumeTask

theorem State.padsCanon.passOnce {t blocked placed} (hs : s.padsCanon) : (passOnce s t blocked placed).1.padsCanon := by
  dsimp only [Machine.passOnce]
  split
  · next e => exact hs.firstLaunch.pair e
  · next e =>
      have hs1 := hs.firstLaunch.pair e
      split
      · split
        · exact hs1
        · exact hs1.firstPlace
      · split
        · split
          · exact hs1
          · exact hs1.setEntry.resumeTasks
        · split
          · split
            · exact hs1
            · exact hs1.setEntry.resumeOne
          · split
            · exact hs1
            · exact hs1.dispatch

theorem State.padsCanon.passTower {t n l l2} (hs : s.padsCanon) : (passTower t n s l l2).1.padsCanon := by
  induction n generalizing t s l l2 with
  | zero => exact hs
  | succ _ ih =>
    dsimp only [Machine.passTower]
    split
    · exact ih hs.passOnce
    · exact hs.passOnce

theorem State.padsCanon.passTowers {l l2 l3} (hs : s.padsCanon) : (passTowers l s l2 l3).1.padsCanon := by
  induction l generalizing s l2 l3 with
  | nil => exact hs
  | cons _ _ ih =>
    dsimp only [Machine.passTowers]
    exact ih hs.passTower

theorem State.padsCanon.chargeDeficits {cycles} (hs : s.padsCanon) : (chargeDeficits s cycles).padsCanon := by
  dsimp only [Machine.chargeDeficits]
  refine hs.foldl ?_
  intro _ _ ht
  split
  · exact ht.of_eq rfl rfl
  · exact ht

theorem State.padsCanon.requestFor {l} (hs : s.padsCanon) : (requestFor s l).padsCanon := by
  unfold Machine.requestFor
  extract_lets vs
  split
  · exact hs
  · extract_lets mine s1 leaves ask s2
    have hask (h : Hart) : (ask h).pad = h.pad := by
      dsimp only [ask]
      split
      · exact askWithdraw_pad _ _
      · split
        · exact requestStop_pad _ _ _
        · rfl
    have hs2 : s2.padsCanon := hs.mapHarts hask rfl rfl
    clear_value s2
    exact hs2.foldl (·.setEntry)

theorem State.padsCanon.endWithdrawals (hs : s.padsCanon) : (endWithdrawals s).padsCanon :=
  hs.foldl (·.setEntry)

theorem State.padsCanon.selectionPass (hs : s.padsCanon) : (selectionPass s).padsCanon := by
  dsimp only [Machine.selectionPass]
  exact hs.endWithdrawals.passTowers.foldl (·.requestFor)

theorem State.padsCanon.tenantCycle (hs : s.padsCanon) : (tenantCycle s).padsCanon :=
  hs.chargeDeficits.of_eq rfl rfl

theorem State.padsCanon.dropUnstarted {l} (hs : s.padsCanon) : (dropUnstarted s l).padsCanon :=
  (hs.foldl (·.dropWaiter)).freeEntry

theorem State.padsCanon.cancelLaunch {handle} (hs : s.padsCanon) : (cancelLaunch s handle).2.padsCanon := by
  dsimp only [Machine.cancelLaunch]
  split
  · exact hs
  · split
    · exact hs.dropUnstarted
    · exact hs.dropUnstarted
    · exact hs.killLaunch

theorem State.padsCanon.claimStrip (hs : s.padsCanon) : (claimStrip s).2.padsCanon := by
  dsimp only [Machine.claimStrip]
  split
  · exact hs
  · split
    · exact hs
    · split
      · next e3 => exact hs.counterOp.pair e3
      · next e3 => exact (hs.counterOp.pair e3).settleEntry.of_eq rfl rfl

/-! ### `Sys2Proof/Machine/Rewind.lean` -/

theorem State.padsCanon.copyLines {l src dst n} (hs : s.padsCanon) : (copyLines l src dst n s).2.padsCanon := by
  induction n generalizing l src dst s with
  | zero => exact hs
  | succ _ ih =>
    dsimp only [Machine.copyLines]
    exact ih hs.heldGetLines.heldPutLines

theorem State.padsCanon.copyParts {l src dst l2} (hs : s.padsCanon) : (copyParts l src dst l2 s).2.padsCanon := by
  induction l2 generalizing l src dst s with
  | nil => exact hs
  | cons _ _ ih =>
    dsimp only [Machine.copyParts]
    exact ih hs.copyLines

theorem State.padsCanon.appendSnap {d} (hs : s.padsCanon) : (appendSnap s d).padsCanon := by
  dsimp only [Machine.appendSnap]
  split
  · exact hs
  · exact .ite hs.updLog hs.setEntry.takeRoom.putRec.putImage.copyParts.updLog

theorem State.padsCanon.completeCollective {l} (hs : s.padsCanon) : (completeCollective s l).padsCanon := by
  refine .clearMarks (hs.updLog.updTasks fun h => ?_)
  dsimp only
  split
  · exact finishWait_pad _ _ _
  · rfl

theorem State.padsCanon.makeUnrestored {pa k} (hs : s.padsCanon) : (makeUnrestored s pa k).padsCanon :=
  hs.homeRead.writeLine

theorem State.padsCanon.unrestoreFrom {ok tower asid n n2} (hs : s.padsCanon) :
    (unrestoreFrom ok tower asid n n2 s).padsCanon := by
  induction n generalizing ok tower asid n2 s with
  | zero => exact hs
  | succ _ ih =>
    dsimp only [Machine.unrestoreFrom]
    split
    · next e2 =>
        have hs1 := hs.translate.pair e2
        exact ih (.ite hs1.makeUnrestored hs1)
    · next e2 => exact ih (hs.translate.pair e2)

theorem State.padsCanon.applyLine {mine e v old bad} (hs : s.padsCanon) :
    (applyLine mine e v old bad s).2.padsCanon := by
  dsimp only [Machine.applyLine]
  split
  · next e2 =>
      have hs1 := hs.translate.pair e2
      split
      · split
        · exact hs1.makeUnrestored
        · exact hs1.writeLine
      · exact hs1.unrestoreFrom
  · next e2 => exact (hs.translate.pair e2).unrestoreFrom

theorem State.padsCanon.applyAddr {mine e v} (hs : s.padsCanon) : (applyAddr mine e v s).padsCanon := by
  dsimp only [Machine.applyAddr]
  split
  · exact hs.makeUnrestored
  · split
    · next e3 =>
        have hs1 := hs.translate.pair e3
        exact .ite hs1.makeUnrestored hs1
    · next e3 => exact hs.translate.pair e3

theorem State.padsCanon.applyCounter {mine e v} (hs : s.padsCanon) : (applyCounter mine e v s).padsCanon := by
  dsimp only [Machine.applyCounter]
  split
  · exact .ite hs.putSlot.wakeSatisfied hs
  · exact hs

theorem State.padsCanon.applyRec {l r} (hs : s.padsCanon) : (applyRec s l r).2.padsCanon := by
  dsimp only [Machine.applyRec]
  split
  · exact hs.heldGetLines.heldGetLines.applyLine
  · exact hs.heldGetLines.heldGetLines.applyAddr
  · exact hs.heldGetLines.heldGetLines.applyCounter
  · exact hs.heldGetLines.heldGetLines

theorem State.padsCanon.applyRecs {l l2 n} (hs : s.padsCanon) : (applyRecs l l2 n s).2.padsCanon := by
  induction l2 generalizing l n s with
  | nil => exact hs
  | cons _ _ ih =>
    dsimp only [Machine.applyRecs]
    exact ih hs.applyRec

theorem State.padsCanon.headFaults {l l2} (hs : s.padsCanon) : (headFaults l l2 s).2.padsCanon := by
  induction l2 generalizing l s with
  | nil => exact hs
  | cons _ _ ih =>
    dsimp only [Machine.headFaults]
    exact ih hs.heldGetLines

/-- `copyParts` is a variable here for the reason given at `State.padsCanon.getQueues`. -/
theorem State.padsCanon.restoreTasks {l now l2} (hs : s.padsCanon) : (restoreTasks l now l2 s).2.2.padsCanon := by
  obtain ⟨copy, hcopy⟩ : ∃ f, f = Machine.copyParts := ⟨_, rfl⟩
  have hc {s : State} {l b a p} (hs : s.padsCanon) : (copy l b a p s).2.padsCanon := hcopy ▸ hs.copyParts
  induction l2 generalizing s with
  | nil => exact hs
  | cons r rs ih =>
    rw [Machine.restoreTasks, ← hcopy]
    dsimp only
    split <;> exact ih (hc hs).heldGet

theorem State.padsCanon.rewindTo {l g force} (hs : s.padsCanon) : (rewindTo s l g force).2.padsCanon := by
  dsimp only [Machine.rewindTo]
  split
  · exact hs
  · split
    · exact hs
    · split
      · exact hs.headFaults
      · exact hs.headFaults.applyRecs.restoreTasks.setEntry.disown.clearMarks

theorem State.padsCanon.writeReply {l tn status r0 r1} (hs : s.padsCanon) :
    (writeReply s l tn status r0 r1).padsCanon :=
  hs.heldPutLines

theorem State.padsCanon.runRewind {l} (hs : s.padsCanon) : (runRewind s l).padsCanon := by
  dsimp only [Machine.runRewind]
  split
  · exact hs
  · split
    · exact hs.rewindTo.putHeader.setEntry.endDebug
    · exact .ite hs.rewindTo.putHeader.setEntry.writeReply hs.rewindTo.putHeader.setEntry.writeReply.farAdd

/-! ### `Sys2Proof/Machine/Issue.lean` -/

theorem State.padsCanon.illegalStream {i} (hs : s.padsCanon) : (illegalStream s i).padsCanon := hs.raise

theorem State.padsCanon.illegalInstr {i} (hs : s.padsCanon) : (illegalInstr s i).padsCanon := hs.raise

theorem State.padsCanon.notPrivileged {i} (hs : s.padsCanon) : (notPrivileged s i).padsCanon := hs.raise

theorem State.padsCanon.inA {i k} (hs : s.padsCanon) (hk : ∀ {t : State}, t.padsCanon → (k t).padsCanon) :
    (inA i s k).padsCanon :=
  .ite hs.illegalStream (hk hs)

theorem State.padsCanon.inX {i k} (hs : s.padsCanon) (hk : ∀ {t : State}, t.padsCanon → (k t).padsCanon) :
    (inX i s k).padsCanon :=
  .ite (hk hs) hs.illegalStream

theorem State.padsCanon.noHandler {i k} (hs : s.padsCanon) (hk : ∀ {t : State}, t.padsCanon → (k t).padsCanon) :
    (noHandler i s k).padsCanon :=
  .ite hs.illegalStream (hk hs)

theorem State.padsCanon.needPriv {i k} (hs : s.padsCanon) (hk : ∀ {t : State}, t.padsCanon → (k t).padsCanon) :
    (needPriv i s k).padsCanon :=
  .ite (hk hs) hs.notPrivileged

theorem State.padsCanon.confirmed {k} (hs : s.padsCanon) (hk : ∀ {t : State}, t.padsCanon → (k t).padsCanon) :
    (confirmed s k).padsCanon := by
  dsimp only [Machine.confirmed]
  split
  · next e => exact (hs.settleLoads.pair e).takeTrap
  · next e => exact hk (hs.settleLoads.pair e)

theorem State.padsCanon.drained {wait k} (hs : s.padsCanon) (hwait : ∀ {t : State}, t.padsCanon → (wait t).padsCanon)
    (hk : ∀ {t : State}, t.padsCanon → (k t).padsCanon) :
    (drained s wait k).padsCanon :=
  .ite (hwait hs.settleStores) (.ite hs.settleStores.takeTrap (hk hs.settleStores))

theorem State.padsCanon.accessedBy {keys k} (hs : s.padsCanon) (hk : ∀ {t : State}, t.padsCanon → (k t).padsCanon) :
    (accessedBy keys s k).padsCanon := by
  dsimp only [Machine.accessedBy]
  split
  · exact hk hs
  · exact .ite hs.resolveMeeting (.ite hs.resolveMeeting.takeTrap (hk hs.resolveMeeting))

theorem State.padsCanon.accessed {vas k} (hs : s.padsCanon) (hk : ∀ {t : State}, t.padsCanon → (k t).padsCanon) :
    (accessed vas s k).padsCanon :=
  hs.accessedBy hk

theorem State.padsCanon.ordered {k} (hs : s.padsCanon) (hk : ∀ {t : State}, t.padsCanon → (k t).padsCanon) :
    (ordered s k).padsCanon :=
  hs.confirmed (fun ht => ht.drained id hk)

theorem State.padsCanon.notFull {acc va k} (hs : s.padsCanon) (hk : ∀ {t : State}, t.padsCanon → (k t).padsCanon) :
    (notFull s acc va k).padsCanon :=
  .ite hs.raise (hk hs)

theorem State.padsCanon.released {o k} (hs : s.padsCanon) (hk : ∀ {t : State}, t.padsCanon → (k t).padsCanon) :
    (released o s k).padsCanon :=
  .ite (hs.drained id hk) (hk hs)

theorem State.padsCanon.releaseMatrix (hs : s.padsCanon) : (releaseMatrix s).padsCanon := hs.of_eq rfl rfl

theorem State.padsCanon.admitNext (hs : s.padsCanon) : (admitNext s).padsCanon := by
  dsimp only [Machine.admitNext]
  split
  · exact hs
  · split
    · exact hs
    · split
      · exact hs.of_eq rfl rfl
      · exact .takeTrap (hs.of_eq ((undoX_pad _).trans (unblockX_pad _)) rfl)
      · next he =>
        have hp (pops duty op) : (surveyAdmit s.h (takePops pops _) duty op).pad = s.h.pad :=
          (surveyAdmit_pad _ _ _ _).trans ((takePops_pad _ _).trans (xEffect_pad he))
        split
        · exact .ite (.releaseMatrix (hs.of_eq (hp _ _ _) rfl)) (hs.of_eq (hp _ _ _) rfl)
        · exact hs.of_eq (hp _ _ _) rfl

theorem State.padsCanon.issueX {i sa sb} (hs : s.padsCanon) : (issueX i sa sb s).padsCanon :=
  .ite hs (.ite (.advance (hs.of_eq rfl rfl)) (.admitNext (.advance (hs.of_eq rfl rfl))))

theorem State.padsCanon.vectorIssue {i sa sb} (hs : s.padsCanon) : (vectorIssue i sa sb s).padsCanon :=
  hs.inX (·.issueX)

theorem State.padsCanon.askLeave {l} (hs : s.padsCanon) : (askLeave s l).padsCanon := .stall (hs.of_eq rfl rfl)

theorem State.padsCanon.matrixIssue {i tile needLeave sb} (hs : s.padsCanon) :
    (matrixIssue i tile needLeave sb s).padsCanon :=
  hs.inX (fun ht => .ite ht.illegalInstr (.ite ht (.ite ht.askLeave ht.issueX)))

/-! ### `Sys2Proof/Machine/Control.lean` -/

theorem State.padsCanon.branchIf {c a b o} (hs : s.padsCanon) : (branchIf c a b o s).padsCanon :=
  .ite hs.transfer hs.advance

theorem State.padsCanon.breakpoint {i} (hs : s.padsCanon) : (breakpoint i s).padsCanon :=
  .ite hs.settleStores hs.settleStores.advance.takeTrap

theorem State.padsCanon.quiet {wait k} (hs : s.padsCanon) (hwait : ∀ {t : State}, t.padsCanon → (wait t).padsCanon)
    (hk : ∀ {t : State}, t.padsCanon → (k t).padsCanon) :
    (quiet s wait k).padsCanon :=
  hs.drained hwait (fun ht => .ite (hwait ht) (hk ht))

theorem State.padsCanon.waitAgain (hs : s.padsCanon) : (waitAgain s).padsCanon := hs.stall

theorem State.padsCanon.exitX (hs : s.padsCanon) : (exitX s).padsCanon :=
  .ite hs (.releaseMatrix (hs.of_eq (retireAll_pad s.h) rfl))

theorem State.padsCanon.exitA (hs : s.padsCanon) : (exitA s).padsCanon :=
  hs.confirmed (fun ht => ht.quiet (·.waitAgain) (fun ht1 => .ite ht1.waitAgain ht1.endTask))

theorem State.padsCanon.stepWait {w} (hs : s.padsCanon) : (stepWait w s).padsCanon := hs.setCur

theorem State.padsCanon.giveWay (hs : s.padsCanon) : (giveWay s).padsCanon :=
  hs.confirmed (fun ht => ht.quiet (·.stepWait) (fun ht1 => .ite ht1.endTask (.ite (.stepWait (ht1.of_eq rfl rfl))
    (.ite ht1.endTask ht1))))

theorem State.padsCanon.execXstart {i} (hs : s.padsCanon) : Out.padsCanon (execXstart i s) :=
  hs.inA (fun ht => ht.noHandler (fun ht1 => ht1.confirmed (fun ht2 => .ite (.advance (ht2.of_eq rfl rfl))
    ht2.waitAgain)))

/-! ### `Sys2Proof/Machine/Scalar.lean` -/

theorem State.padsCanon.binary {f d a b} (hs : s.padsCanon) : (binary f d a b s).padsCanon := hs.writeReg

theorem State.padsCanon.unary {f d a} (hs : s.padsCanon) : (unary f d a s).padsCanon := hs.writeReg

/-! ### `Sys2Proof/Machine/ScalarMem.lean` -/

theorem State.padsCanon.loadScalar {ins d a i n ext} (hs : s.padsCanon) : (loadScalar ins d a i n ext s).padsCanon := by
  dsimp only [Machine.loadScalar]
  refine hs.inA ?_
  intro _ ht
  refine ht.accessed ?_
  intro _ ht1
  split
  · next e => exact (ht1.scalarLoad.pair e).raiseErr
  · next e => exact (ht1.scalarLoad.pair e).writeReg

theorem State.padsCanon.pushStore {p} (hs : s.padsCanon) : (pushStore p s).padsCanon :=
  .ite hs.resolveSome (.advance (hs.of_eq rfl rfl))

theorem State.padsCanon.storeScalar {ins d a i k} (hs : s.padsCanon) : (storeScalar ins d a i k s).padsCanon :=
  hs.inA (fun ht => ht.confirmed (fun ht1 => ht1.notFull (·.pushStore)))

theorem State.padsCanon.inShare {off n k} (hs : s.padsCanon) (hk : ∀ {t : State}, t.padsCanon → (k t).padsCanon) :
    (inShare s off n k).padsCanon :=
  .ite (hk hs) hs.raise

theorem State.padsCanon.execLdl {d a i} (hs : s.padsCanon) : Out.padsCanon (execLdl d a i s) := by
  dsimp only [Machine.execLdl]
  refine hs.inA ?_
  intro _ ht
  refine ht.inShare ?_
  intro _ ht1
  split
  · exact ht1.raise
  · exact ht1.writeReg

theorem State.padsCanon.execTagr {d a i} (hs : s.padsCanon) : Out.padsCanon (execTagr d a i s) := by
  dsimp only [Machine.execTagr]
  refine hs.inA ?_
  intro _ ht
  refine ht.accessed ?_
  intro _ ht1
  split
  · next e => exact (ht1.tagLoad.pair e).raiseErr
  · next e => exact (ht1.tagLoad.pair e).writeReg

theorem State.padsCanon.prefetch {va} (hs : s.padsCanon) : (prefetch s va).padsCanon := by
  dsimp only [Machine.prefetch]
  split
  · next e => exact hs.reachH.pair e
  · next e =>
      have hs1 := hs.reachH.pair e
      split
      · exact hs1
      · exact hs1
      · exact hs1
      · exact hs1.readLine

theorem State.padsCanon.fence {ins k} (hs : s.padsCanon) (hk : ∀ {t : State}, t.padsCanon → (k t).padsCanon) :
    (fence ins s k).padsCanon :=
  hs.inA (fun ht => ht.confirmed (fun ht1 => ht1.drained id (fun ht2 => (hk ht2).advance)))

theorem State.padsCanon.moveSplit {k} (hs : s.padsCanon) : (moveSplit k s).padsCanon := by
  unfold Machine.moveSplit
  split
  · exact hs
  · extract_lets s1
    have hs1 : s1.padsCanon := .ite hs.dropL1 hs
    exact hs1.of_hart hs1.1.moveShare rfl

theorem State.padsCanon.execLsplit {k} (hs : s.padsCanon) : Out.padsCanon (execLsplit k s) :=
  hs.inA (fun ht => .ite ht.illegalInstr (ht.confirmed (fun ht1 => ht1.drained id (·.moveSplit.advance))))

/-! ### `Sys2Proof/Machine/VectorMem.lean` -/

theorem State.padsCanon.qblock (hs : s.padsCanon) : (qblock s).padsCanon := hs.stall

theorem State.padsCanon.queueUse {i k} (hs : s.padsCanon) (hk : ∀ {t : State}, t.padsCanon → (k t).padsCanon) :
    (queueUse i s k).padsCanon :=
  hs.inA (fun ht => ht.noHandler hk)

theorem State.padsCanon.reservedFault {q seq idx code acc level tval} (hs : s.padsCanon) :
    (reservedFault q seq idx code acc level tval s).padsCanon :=
  .raise (hs.of_eq rfl rfl)

theorem State.padsCanon.failIssue {p code level tval} (hs : s.padsCanon) : (failIssue p code level tval s).padsCanon :=
  .takeTrap (hs.of_eq rfl rfl)

theorem State.padsCanon.issueLoad {o seq refills idx} (hs : s.padsCanon) :
    (issueLoad o seq refills idx s).padsCanon := by
  unfold Machine.issueLoad
  extract_lets p s1
  have hs1 : s1.padsCanon := hs.of_eq (reserveEntry_pad _ _ _ _ _ _) rfl
  split
  next e =>
    have hs2 := hs1.reachElems.triple e
    dsimp only
    split
    · exact hs2.failIssue
    · exact .advance (hs2.of_eq rfl rfl)

theorem State.padsCanon.loadPlain {o} (hs : s.padsCanon) : (loadPlain o s).padsCanon := by
  dsimp only [Machine.loadPlain]
  split
  · exact hs.qblock
  · exact hs.issueLoad

theorem State.padsCanon.loadAt {o} (hs : s.padsCanon) : (loadAt o s).padsCanon := hs.accessed (·.loadPlain)

theorem State.padsCanon.lengthKnown {k} (hs : s.padsCanon) (hk : ∀ {t : State}, t.padsCanon → (k t).padsCanon) :
    (lengthKnown s k).padsCanon :=
  .ite (hs.confirmed hk) (hk hs)

theorem State.padsCanon.loadChecked {o} (hs : s.padsCanon) : (loadChecked o s).padsCanon := by
  dsimp only [Machine.loadChecked]
  split
  · exact hs.loadAt
  · split
    · exact hs.qblock
    · exact .failIssue (hs.of_eq (reserveEntry_pad _ _ _ _ _ _) rfl)

theorem State.padsCanon.vectorLoad {i o} (hs : s.padsCanon) : (vectorLoad i o s).padsCanon :=
  hs.queueUse (fun ht => ht.lengthKnown (·.loadChecked))

theorem State.padsCanon.gather {o iq} (hs : s.padsCanon) : (gather o iq s).padsCanon := by
  unfold Machine.gather
  split
  · extract_lets p pop s1
    have hpop {t : State} (ht : t.padsCanon) : (pop t).padsCanon := .ite ht (ht.of_eq rfl rfl)
    have hs1 : s1.padsCanon := hpop hs
    clear_value s1
    split
    · exact .failIssue (hs1.of_eq (reserveEntry_pad _ _ _ _ _ _) rfl)
    · exact hs.accessed fun ht => (hpop ht).issueLoad
  · exact hs.qblock

theorem State.padsCanon.storeIssue {p acc qs} (hs : s.padsCanon) : (storeIssue p acc qs s).padsCanon := by
  unfold Machine.storeIssue
  refine hs.notFull fun {u} hu => ?_
  extract_lets t
  have ht : t.padsCanon := hu.of_eq (foldl_keeps (g := Hart.pad) (fun h q => popEntry_pad q h) qs u.h) rfl
  clear_value t
  split
  · exact .advance (ht.of_eq rfl rfl)
  · exact .ite hu.resolveSome ht.pushStore

theorem State.padsCanon.vectorStoreIssue {i q a stride e kind} (hs : s.padsCanon) :
    (vectorStoreIssue i q a stride e kind s).padsCanon := by
  dsimp only [Machine.vectorStoreIssue]
  refine hs.queueUse ?_
  intro _ ht
  refine ht.confirmed ?_
  intro _ ht1
  split
  · exact ht1.raise
  · split
    · exact ht1.qblock
    · exact ht1.storeIssue

theorem State.padsCanon.execVstx {q a e m} (hs : s.padsCanon) : Out.padsCanon (execVstx q a e m s) := by
  dsimp only [Machine.execVstx]
  refine hs.queueUse ?_
  intro _ ht
  refine ht.confirmed ?_
  intro _ ht1
  split
  · exact ht1.raise
  · split
    · split
      · exact ht1.raise
      · exact ht1.storeIssue
    · exact ht1.qblock

theorem State.padsCanon.spLoad {q ew n off seq refills} (hs : s.padsCanon) :
    (spLoad q ew n off seq refills s).padsCanon := by
  dsimp only [Machine.spLoad]
  split
  · exact .reservedFault (hs.of_eq (reserveEntry_pad _ _ _ _ _ _) rfl)
  · split
    · exact .reservedFault (hs.of_eq (reserveEntry_pad _ _ _ _ _ _) rfl)
    · exact .advance (hs.of_eq (reserveEntry_pad _ _ _ _ _ _) rfl)

theorem State.padsCanon.execVldl {q a e} (hs : s.padsCanon) : Out.padsCanon (execVldl q a e s) := by
  dsimp only [Machine.execVldl]
  refine hs.queueUse ?_
  intro _ ht
  refine ht.confirmed ?_
  intro _ ht1
  split
  · exact ht1.qblock
  · exact .ite (.reservedFault (ht1.of_eq (reserveEntry_pad _ _ _ _ _ _) rfl)) ht1.spLoad

theorem State.padsCanon.spStore {q ew n off r} (hs : s.padsCanon) : (spStore q ew n off r s).padsCanon := by
  dsimp only [Machine.spStore]
  split
  · exact hs.raise
  · split
    · exact hs.raise
    · next e => exact .advance (hs.of_hart (Hart.spCanon.spStoreLines (hs.1.of_pad (popEntry_pad _ _)) e) rfl)

theorem State.padsCanon.execVstl {q a e} (hs : s.padsCanon) : Out.padsCanon (execVstl q a e s) := by
  dsimp only [Machine.execVstl]
  refine hs.queueUse ?_
  intro _ ht
  refine ht.confirmed ?_
  intro _ ht1
  split
  · exact ht1.raise
  · split
    · exact ht1.qblock
    · exact .ite (.advance (ht1.of_eq rfl rfl)) (ht1.inShare (·.spStore))

theorem State.padsCanon.saveRegs {i c a f k one} (hs : s.padsCanon)
    (hone : ∀ {n o h}, Hart.spCanon h → (one n o h).spCanon) : (saveRegs i c a f k one s).padsCanon :=
  hs.inA fun ht => .ite ht.illegalInstr <| ht.confirmed fun ht1 => .ite ht1.raise <| .ite ht1.waitAgain <|
    .ite (.advance (ht1.of_hart (ht1.1.moveRegs hone |>.of_pad rfl) rfl))
      (.raise (ht1.of_hart (ht1.1.moveRegs hone |>.of_pad rfl) rfl))

/-! ### `Sys2Proof/Machine/Queues.lean` -/

theorem State.padsCanon.queueInstr {i inAStream inXStream} (hs : s.padsCanon) (hinAStream : ∀ {t : State}, t.padsCanon →
    (inAStream t).padsCanon) (hinXStream : ∀ {t : State}, t.padsCanon → (inXStream t).padsCanon) :
    (queueInstr i s inAStream inXStream).padsCanon :=
  .ite (hinXStream hs) (hs.noHandler (fun ht => ht.confirmed hinAStream))

theorem State.padsCanon.reserved {i} (hs : s.padsCanon) : (reserved i s).padsCanon := hs.illegalInstr

theorem State.padsCanon.execQpopA {q} (hs : s.padsCanon) : Out.padsCanon (execQpopA q s) := by
  dsimp only [Machine.execQpopA]
  refine hs.queueInstr ?_ (·.reserved)
  intro _ ht
  split
  · exact ht.qblock
  · exact .advance (ht.of_eq rfl rfl)

theorem State.padsCanon.scalarEffects {pops pushes} (hs : s.padsCanon) : (scalarEffects pops pushes s).padsCanon := by
  dsimp only [Machine.scalarEffects]
  split
  · exact hs.of_eq (commitEntry_pad _ _) rfl
  · exact hs.of_eq rfl rfl

theorem State.padsCanon.execQputs {a} (hs : s.padsCanon) : Out.padsCanon (execQputs a s) :=
  hs.queueInstr (fun ht => .ite ht.qblock (.advance (ht.of_eq rfl rfl))) (fun ht => .ite ht.qblock (.advance
    (.scalarEffects (ht.of_eq rfl rfl))))

theorem State.padsCanon.execQgets {b} (hs : s.padsCanon) : Out.padsCanon (execQgets b s) := by
  dsimp only [Machine.execQgets]
  refine hs.queueInstr ?_ ?_
  · intro _ ht
    split
    · exact ht.qblock
    · exact .ite ht.qblock (.writeReg (ht.of_eq rfl rfl))
  · intro _ ht
    split
    · exact ht.qblock
    · exact .ite (.writeReg (.scalarEffects (ht.of_eq rfl rfl))) ht

/-! ### `Sys2Proof/Machine/Vector.lean` -/

theorem State.padsCanon.setLength {d a f} (hs : s.padsCanon) : (setLength d a f s).padsCanon :=
  .ite hs.raise (.ite (.writeReg (hs.of_eq rfl rfl)) hs)

/-! ### `Sys2Proof/Machine/Matrix.lean` -/

theorem State.padsCanon.matrixOther {i t sb} (hs : s.padsCanon) : (matrixOther i t sb s).padsCanon :=
  hs.matrixIssue

/-! ### `Sys2Proof/Machine/CounterInstrs.lean` -/

theorem State.padsCanon.counterInstr {r op o done} (hs : s.padsCanon) (hdone : ∀ {x : Word} {t : State}, t.padsCanon →
    (done x t).padsCanon) :
    (counterInstr r op o done s).padsCanon := by
  dsimp only [Machine.counterInstr]
  refine hs.confirmed ?_
  intro _ ht
  split
  · next e => exact (ht.counterOp.pair e).raise
  · refine ht.released ?_
    intro _ ht1
    refine ht1.accessedBy ?_
    intro _ ht2
    split
    · next e2 => exact (ht2.counterOp.pair e2).raise
    · next e2 => exact hdone (ht2.counterOp.pair e2)

theorem State.padsCanon.waitOn {w} (hs : s.padsCanon) : (waitOn w s).padsCanon := hs.setCur

theorem State.padsCanon.startWait {r t d deadline} (hs : s.padsCanon) : (startWait r t d deadline s).padsCanon := by
  dsimp only [Machine.startWait]
  split
  · exact hs.raise
  · exact .ite hs.raise (.ite hs.writeReg hs.waitOn)
  · split
    · exact hs.raise
    · split
      · next e3 => exact (hs.registerWaiter.pair e3).writeReg
      · next e3 => exact (hs.registerWaiter.pair e3).waitOn
      · next e3 => exact (hs.registerWaiter.pair e3).waitOn
      · next e3 => exact (hs.registerWaiter.pair e3).raise
  · exact .ite hs.writeReg hs.waitOn
  · exact .ite hs.waitOn (.ite hs.draw.peerWait.waitOn hs.draw.raise)

theorem State.padsCanon.execStrip {d} (hs : s.padsCanon) : Out.padsCanon (execStrip d s) := by
  dsimp only [Machine.execStrip]
  refine hs.inA ?_
  intro _ ht
  refine ht.confirmed ?_
  intro _ ht1
  refine ht1.accessedBy ?_
  intro _ ht2
  split
  · next e => exact (ht2.claimStrip.pair e).raise
  · next e => exact (ht2.claimStrip.pair e).writeReg

/-! ### `Sys2Proof/Machine/Atomics.lean` -/

theorem State.padsCanon.performAtomic {op d bits va v expected} (hs : s.padsCanon) :
    (performAtomic op d bits va v expected s).padsCanon := by
  dsimp only [Machine.performAtomic]
  split
  · exact hs
  · split
    · next e2 => exact (hs.reachH.pair e2).raiseErr
    · next e2 =>
        have hs1 := hs.reachH.pair e2
        split
        · next e3 => exact (hs1.atomAt.pair e3).raise
        · next e3 => exact (hs1.atomAt.pair e3).writeReg

theorem State.padsCanon.settled {o vas k} (hs : s.padsCanon) (hk : ∀ {t : State}, t.padsCanon → (k t).padsCanon) :
    (settled o vas s k).padsCanon :=
  .ite (hs.drained id hk) (hs.accessed hk)

theorem State.padsCanon.atomic {op d a b o w} (hs : s.padsCanon) : (atomic op d a b o w s).padsCanon := by
  dsimp only [Machine.atomic]
  refine hs.confirmed ?_
  intro _ ht
  split
  · exact ht.raise
  · split
    · next e2 => exact (ht.reachH.pair e2).raiseErr
    · next e2 => exact (ht.reachH.pair e2).settled (fun ht1 => ht1.notFull (·.performAtomic))

theorem State.padsCanon.vatomReach {l} (hs : s.padsCanon) : (vatomReach l s).2.padsCanon := by
  induction l generalizing s with
  | nil => exact hs
  | cons _ _ ih =>
    dsimp only [Machine.vatomReach]
    split
    · next e2 => exact hs.reachH.pair e2
    · next e2 =>
        have hs1 := hs.reachH.pair e2
        split
        · exact hs1
        · split <;> next e4 => exact (ih hs1).pair e4

theorem State.padsCanon.vatomFar {op bits v e node off ls} (hs : s.padsCanon) :
    (vatomFar op bits v e node off ls s).2.2.padsCanon :=
  hs.sendPeer

theorem State.padsCanon.vatomRun {w op bits data l l2} (hs : s.padsCanon) :
    (vatomRun w op bits data l l2 s).2.padsCanon := by
  induction l generalizing w op bits data l2 s with
  | nil => exact hs
  | cons _ _ ih =>
    dsimp only [Machine.vatomRun]
    split
    · exact ih hs.vatomFar
    · split <;> next e3 => exact ih (hs.atomAt.pair e3)

theorem State.padsCanon.vatomFail {o e code level tval} (hs : s.padsCanon) :
    (vatomFail o e code level tval s).padsCanon := by
  dsimp only [Machine.vatomFail]
  split
  · exact .reservedFault (hs.of_eq (vatomReserve_pad _ _ _) rfl)
  · exact .raise (hs.of_eq (vatomReserve_pad _ _ _) rfl)

theorem State.padsCanon.vatomPerform {o e data n es} (hs : s.padsCanon) : (vatomPerform o e data n es s).padsCanon := by
  unfold Machine.vatomPerform
  split
  · exact hs
  · split
    next e1 =>
      have hs1 := hs.readElemLines.pair e1
      split
      · exact hs1.vatomFail
      · extract_lets w s2
        have hs2 : s2.padsCanon := hs1.logExits
        clear_value s2
        split
        next order k _ =>
          have hs3 : State.padsCanon { s2 with draws := k } := hs2.of_eq rfl rfl
          split
          next e3 => exact .advance ((hs3.vatomRun.pair e3).of_eq (vatomReturn_pad _ _ _ _ _) rfl)

theorem State.padsCanon.vatomIssue {o} (hs : s.padsCanon) : (vatomIssue o s).padsCanon := by
  dsimp only [Machine.vatomIssue]
  split
  · split
    · exact hs.vatomFail
    · refine hs.settled ?_
      intro _ ht
      refine ht.notFull ?_
      intro _ ht1
      split
      · next e5 => exact (ht1.vatomReach.pair e5).vatomFail
      · next e5 => exact (ht1.vatomReach.pair e5).vatomPerform
  · exact hs.qblock

theorem State.padsCanon.vatomForm {i ordered p m a q t x o w} (hs : s.padsCanon) :
    (vatomForm i ordered p m a q t x o w s).padsCanon :=
  hs.queueUse (fun ht => .ite ht.illegalInstr (ht.confirmed (·.vatomIssue)))

/-! ### `Sys2Proof/Machine/EngineCmd.lean` -/

theorem State.padsCanon.readRecord {poison n x} (hs : s.padsCanon) : (readRecord poison n x s).2.padsCanon :=
  hs.units (by simp)

theorem State.padsCanon.issueCmd {c room leave} (hs : s.padsCanon) : (issueCmd c room leave s).padsCanon := by
  dsimp only [Machine.issueCmd]
  split
  · exact hs
  · split
    · exact .stall (hs.of_eq rfl rfl)
    · exact .advance (hs.of_eq (countCmd_pad _ _) rfl)

theorem State.padsCanon.issueAsked {c} (hs : s.padsCanon) : (issueAsked c s).padsCanon :=
  .ite (.advance (hs.of_eq (countCmd_pad _ _) rfl)) hs.stall

theorem State.padsCanon.engineInstr {lines logged va k} (hs : s.padsCanon) (hk : ∀ {x : Nat} {t : State}, t.padsCanon →
    (k x t).padsCanon) :
    (engineInstr lines logged va k s).padsCanon := by
  dsimp only [Machine.engineInstr]
  split
  · exact hs.issueAsked
  · refine hs.ordered ?_
    intro _ ht
    split
    · exact ht.raise
    · split
      · refine ht.notFull ?_
        intro _ ht1
        split
        · next e4 => exact (ht1.readRecord.pair e4).raise
        · next e4 => exact hk (ht1.readRecord.pair e4)
      · split
        · next e4 => exact (ht.readRecord.pair e4).raise
        · next e4 => exact hk (ht.readRecord.pair e4)

theorem State.padsCanon.reject {va} (hs : s.padsCanon) : (reject va s).padsCanon := hs.raise

theorem State.padsCanon.pinShape {r} (hs : s.padsCanon) : (pinShape r s).2.padsCanon := hs.units (by simp)

theorem State.padsCanon.sluiceRecord {va j sc v} (hs : s.padsCanon) : (sluiceRecord va j sc v s).padsCanon := by
  dsimp only [Machine.sluiceRecord]
  split
  · exact hs.reject
  · split
    · next e2 => exact (hs.pinShape.pair e2).raiseErr
    · next e2 =>
        have hs1 := hs.pinShape.pair e2
        exact .ite hs1.reject hs1.issueCmd

theorem State.padsCanon.pinOperand {need base n m} (hs : s.padsCanon) : (pinOperand need base n m s).2.padsCanon :=
  hs.units (by simp)

theorem State.padsCanon.panRecord {va sc v} (hs : s.padsCanon) : (panRecord va sc v s).padsCanon := by
  dsimp only [Machine.panRecord]
  split
  · exact hs.reject
  · split
    · next e2 => exact (hs.pinOperand.pair e2).raiseErr
    · next e2 =>
        have hs1 := hs.pinOperand.pair e2
        split
        · next e3 => exact (hs1.pinOperand.pair e3).raiseErr
        · next e3 =>
            have hs2 := hs1.pinOperand.pair e3
            split
            · next e4 => exact (hs2.pinOperand.pair e4).raiseErr
            · next e4 =>
                have hs3 := hs2.pinOperand.pair e4
                exact .ite hs3.reject hs3.issueCmd

theorem State.padsCanon.readList {n x} (hs : s.padsCanon) : (readList n x s).2.padsCanon := by
  induction n generalizing x s with
  | zero => exact hs
  | succ _ ih =>
    dsimp only [Machine.readList]
    split
    · next e2 => exact hs.readRecord.pair e2
    · next e2 => split <;> next e3 => exact (ih (hs.readRecord.pair e2)).pair e3

theorem State.padsCanon.recodeLeaves {tower r l x} (hs : s.padsCanon) : (recodeLeaves tower r l x s).2.padsCanon := by
  induction l generalizing tower r x s with
  | nil => exact hs
  | cons _ _ ih =>
    dsimp only [Machine.recodeLeaves]
    split
    · next e2 => exact hs.walkFill.pair e2
    · next e2 =>
        have hs1 := hs.walkFill.pair e2
        split
        · exact hs1
        · split
          · exact hs1
          · exact ih hs1

theorem State.padsCanon.recodeJob {va sc r} (hs : s.padsCanon) : (recodeJob va sc r s).padsCanon := by
  dsimp only [Machine.recodeJob]
  split
  · exact hs.reject
  · split
    · next e2 => exact (hs.recodeLeaves.pair e2).reject
    · next e2 => exact (hs.recodeLeaves.pair e2).raiseErr
    · next e2 =>
        have hs1 := hs.recodeLeaves.pair e2
        exact .ite hs1.reject hs1.issueCmd

theorem State.padsCanon.recodeRecord {va sc v} (hs : s.padsCanon) : (recodeRecord va sc v s).padsCanon := by
  dsimp only [Machine.recodeRecord]
  split
  · exact hs.reject
  · split
    · next e2 => exact (hs.readList.pair e2).raise
    · next e2 => exact (hs.readList.pair e2).recodeJob

/-! ### `Sys2Proof/Machine/Engines.lean` -/

theorem State.padsCanon.updCmd {id f} (hs : s.padsCanon) : (s.updCmd id f).padsCanon := hs.of_eq rfl rfl

theorem State.padsCanon.dropCmd {id} (hs : s.padsCanon) : (s.dropCmd id).padsCanon := by
  dsimp only [State.dropCmd]
  split
  · split
    · exact .settleEntry (.updGovs (hs.of_eq rfl rfl))
    · exact .updGovs (hs.of_eq rfl rfl)
  · exact .updGovs (hs.of_eq rfl rfl)

theorem State.padsCanon.errorRecord {c code va pa detail} (hs : s.padsCanon) :
    (errorRecord s c code va pa detail).padsCanon := by
  dsimp only [Machine.errorRecord]
  split
  · exact hs
  · exact hs.heldGet.heldPutLines.heldPut

theorem State.padsCanon.ownerAdd {launch owner h k d} (hs : s.padsCanon) :
    (ownerAdd s launch owner h k d).2.padsCanon := by
  dsimp only [Machine.ownerAdd]
  split
  · split
    · exact hs.nearAdd
    · exact hs
  · exact hs
  · split
    · exact hs.nearAdd
    · split
      · exact hs.heldGet.heldPut
      · exact hs

theorem State.padsCanon.cmdAdd {c ref d} (hs : s.padsCanon) : (cmdAdd s c ref d).padsCanon := by
  dsimp only [Machine.cmdAdd]
  split
  · exact .ite hs hs.errorRecord
  · split
    · exact .ite hs.ownerAdd hs.ownerAdd.errorRecord
    · exact .ite hs.farAdd hs.farAdd.errorRecord

theorem State.padsCanon.engineLines {w l l2} (hs : s.padsCanon) : (engineLines w l l2 s).2.padsCanon := by
  induction l generalizing w l2 s with
  | nil => exact hs
  | cons _ _ ih =>
    dsimp only [Machine.engineLines]
    split
    · exact ih hs
    · exact ih hs.readLine

theorem State.padsCanon.engineWrite {w va x data tag} (hs : s.padsCanon) :
    (engineWrite s w va x data tag).2.padsCanon := by
  dsimp only [Machine.engineWrite]
  split
  · exact hs
  · split
    · exact hs.writeLine
    · exact hs.writeLine
    · exact hs.writeLine
    · exact hs.readLine.logIfHome.writeLine

theorem State.padsCanon.keptLine {c whole va} (hs : s.padsCanon) : (keptLine c whole va s).2.padsCanon := by
  dsimp only [Machine.keptLine]
  split
  · exact hs
  · exact hs.readLine

theorem State.padsCanon.copyLine {c r va vs} (hs : s.padsCanon) : (copyLine c r va vs s).2.padsCanon := by
  dsimp only [Machine.copyLine]
  split <;> exact hs.engineLines.keptLine

theorem State.padsCanon.sourceLines {w pins size bas} (hs : s.padsCanon) :
    (sourceLines w pins size bas s).2.2.padsCanon :=
  hs.engineLines.engineLines

theorem State.padsCanon.convertLine {c r va vs} (hs : s.padsCanon) : (convertLine c r va vs s).2.padsCanon := by
  dsimp only [Machine.convertLine]
  split
  · exact hs.sourceLines.keptLine
  · exact hs.sourceLines.keptLine
  · exact hs.sourceLines.keptLine
  · split <;> exact hs.sourceLines.keptLine

theorem State.padsCanon.progressAdd {r id} (hs : s.padsCanon) : (progressAdd r id s).padsCanon := by
  dsimp only [Machine.progressAdd]
  split
  · exact hs
  · split
    · exact hs
    · exact .ite hs hs.cmdAdd.updCmd

theorem State.padsCanon.endSluice {r id} (hs : s.padsCanon) : (endSluice r id s).padsCanon := by
  dsimp only [Machine.endSluice]
  split
  · exact hs
  · exact .dropCmd (.ite hs hs.cmdAdd)

theorem State.padsCanon.appendLine {c r pa vs o} (hs : s.padsCanon) : (appendLine c r pa vs o s).padsCanon :=
  .ite hs.setDir.putLine.freshCheck hs

theorem State.padsCanon.sluiceWrite {c r va vs o} (hs : s.padsCanon) : (sluiceWrite c r va vs o s).2.padsCanon := by
  dsimp only [Machine.sluiceWrite]
  split
  · exact hs.appendLine
  · exact hs.engineWrite

theorem State.padsCanon.deliverLine {c r} (hs : s.padsCanon) : (deliverLine c r s).padsCanon := by
  unfold Machine.deliverLine
  extract_lets lines
  split
  · exact hs.endSluice
  · extract_lets x vs
    split
    · exact hs
    · split
      next o s1 e1 =>
        have hs1 : s1.padsCanon := by
          split at e1
          · exact hs.convertLine.pair e1
          · exact hs.copyLine.pair e1
        split
        next landed s2 e2 =>
          have hs2 := hs1.sluiceWrite.pair e2
          extract_lets s3 s4 s5
          have hs3 : s3.padsCanon := by
            dsimp only [s3]
            split
            · exact hs2.errorRecord
            · exact hs2
          have hs4 : s4.padsCanon := .ite hs3 hs3.errorRecord
          have hs5 : s5.padsCanon := hs4.updCmd.progressAdd
          exact .ite hs5.endSluice hs5

theorem State.padsCanon.sluiceExits {c r} (hs : s.padsCanon) : (sluiceExits c r s).padsCanon := by
  dsimp only [Machine.sluiceExits]
  split
  · exact hs
  · exact .ite hs.logExit hs.logExits

theorem State.padsCanon.onSluice {id test k} (hs : s.padsCanon)
    (hk : ∀ {x : Cmd} {x' : ShapeRec} {t : State}, t.padsCanon → (k x x' t).padsCanon) :
    (onSluice id s test k).padsCanon := by
  dsimp only [Machine.onSluice]
  split
  · split
    · exact .ite (hk hs) hs
    · exact hs
  · exact hs

theorem State.padsCanon.execSluiceCopy {cmd} (hs : s.padsCanon) : Out.padsCanon (execSluiceCopy cmd s) :=
  hs.onSluice (·.sluiceExits.updCmd)

theorem State.padsCanon.execSluiceAppend {cmd} (hs : s.padsCanon) : Out.padsCanon (execSluiceAppend cmd s) :=
  hs.onSluice (fun ht => .ite (.updCmd (.sluiceExits (ht.of_eq rfl rfl))) ht.errorRecord.endSluice)

theorem State.padsCanon.execSluiceLineDelivered {cmd} (hs : s.padsCanon) :
    Out.padsCanon (execSluiceLineDelivered cmd s) :=
  hs.onSluice (·.deliverLine)

theorem State.padsCanon.gemvLine {c r outs} (hs : s.padsCanon) : (gemvLine c r outs s).2.padsCanon := by
  dsimp only [Machine.gemvLine]
  split
  · exact hs.engineLines
  · split <;> exact hs.engineLines

theorem State.padsCanon.axpbyLine {c r outs} (hs : s.padsCanon) : (axpbyLine c r outs s).2.padsCanon := by
  dsimp only [Machine.axpbyLine]
  split
  · exact hs.engineLines
  · split <;> exact hs.engineLines

theorem State.padsCanon.fillLine {c r outs} (hs : s.padsCanon) : (fillLine c r outs s).2.padsCanon := by
  dsimp only [Machine.fillLine]
  split
  · exact hs
  · split
    · exact hs
    · split <;> exact hs.engineLines

theorem State.padsCanon.panWrites {c l} (hs : s.padsCanon) : (panWrites c l s).padsCanon := by
  induction l generalizing c s with
  | nil => exact hs
  | cons _ _ ih =>
    dsimp only [Machine.panWrites]
    exact ih hs.engineWrite

theorem State.padsCanon.panLine {c r f} (hs : s.padsCanon)
    (hf : ∀ {x : Cmd} {x' : PanRec} {x'' : List ElemAt} {t : State}, t.padsCanon → (f x x' x'' t).2.padsCanon) :
    (panLine c r f s).padsCanon := by
  dsimp only [Machine.panLine]
  split
  · exact hs.updCmd
  · split
    · exact hs
    · split
      all_goals
        split
        · exact (hf hs).panWrites.errorRecord.updCmd
        · exact (hf hs).panWrites.updCmd

theorem State.padsCanon.onPan {id opc f} (hs : s.padsCanon)
    (hf : ∀ {x : Cmd} {x' : PanRec} {x'' : List ElemAt} {t : State}, t.padsCanon → (f x x' x'' t).2.padsCanon) :
    (onPan id opc s f).padsCanon := by
  dsimp only [Machine.onPan]
  split
  · split
    · exact .ite (hs.updCmd.panLine hf) hs
    · exact hs
  · exact hs

theorem State.padsCanon.execPanGemv {cmd} (hs : s.padsCanon) : Out.padsCanon (execPanGemv cmd s) :=
  hs.onPan (·.gemvLine)

theorem State.padsCanon.execPanAxpby {cmd} (hs : s.padsCanon) : Out.padsCanon (execPanAxpby cmd s) :=
  hs.onPan (·.axpbyLine)

theorem State.padsCanon.execPanFill {cmd} (hs : s.padsCanon) : Out.padsCanon (execPanFill cmd s) :=
  hs.onPan (·.fillLine)

theorem State.padsCanon.execPanCommandEnd {cmd} (hs : s.padsCanon) : Out.padsCanon (execPanCommandEnd cmd s) := by
  dsimp only [Machine.execPanCommandEnd]
  split
  · split
    · exact State.padsCanon.ite (.dropCmd (.ite hs hs.cmdAdd)) hs
    · exact hs
  · exact hs

theorem State.padsCanon.onJob {tower st k} (hs : s.padsCanon)
    (hk : ∀ {x : Cmd} {x' : RecodeRec} {x'' : List Nat} {t : State}, t.padsCanon → (k x x' x'' t).padsCanon) :
    (onJob tower st s k).padsCanon := by
  dsimp only [Machine.onJob]
  split
  · exact .ite (hk hs) hs
  · exact hs

theorem State.padsCanon.setJob {c r st leaves} (hs : s.padsCanon) : (setJob s c r st leaves).padsCanon :=
  hs.updCmd

theorem State.padsCanon.placeGuards {c r l} (hs : s.padsCanon) : (placeGuards c r l s).padsCanon := by
  induction l generalizing c r s with
  | nil => exact hs
  | cons _ _ ih =>
    dsimp only [Machine.placeGuards]
    exact .ite (ih hs) (.ite hs (ih (hs.of_eq rfl rfl)))

theorem State.padsCanon.execRecodeJobStart {tower} (hs : s.padsCanon) : Out.padsCanon (execRecodeJobStart tower s) :=
  hs.onJob (·.placeGuards.setJob)

theorem State.padsCanon.jobLeaves {tower r l} (hs : s.padsCanon) : (jobLeaves tower r l s).2.padsCanon := by
  induction l generalizing tower r s with
  | nil => exact hs
  | cons _ _ ih =>
    dsimp only [Machine.jobLeaves]
    split <;> next e2 => exact ih (hs.walk.pair e2)

theorem State.padsCanon.execRecodeGuardDone {tower} (hs : s.padsCanon) : Out.padsCanon (execRecodeGuardDone tower s) :=
  hs.onJob (fun ht => .ite ht.placeGuards ht.placeGuards.jobLeaves.setJob)

theorem State.padsCanon.recodeLine {c r va pa b} (hs : s.padsCanon) : (recodeLine c r va pa b s).padsCanon := by
  dsimp only [Machine.recodeLine]
  refine .writeLine ?_
  refine hs.engineLines.foldl ?_
  intro _ _ ht
  split
  · exact ht.errorRecord
  · exact ht

theorem State.padsCanon.remapPages {c r l l2} (hs : s.padsCanon) : (remapPages c r l l2 s).padsCanon := by
  induction l generalizing l2 s with
  | nil => exact hs
  | cons p ps ih =>
    cases l2 with
    | nil => exact hs
    | cons n ns =>
      rw [Machine.remapPages]
      refine ih (.tlbRemove ?_)
      split
      · next e =>
        have hs1 := hs.walk.pair e
        split
        · split
          · next e2 => exact hs1.pteSwap.pair e2
          · next e2 => exact (hs1.pteSwap.pair e2).errorRecord
        · exact hs1.errorRecord
      · next e => exact (hs.walk.pair e).errorRecord

theorem State.padsCanon.execRecodeLinesDone {tower} (hs : s.padsCanon) :
    Out.padsCanon (execRecodeLinesDone tower s) := by
  dsimp only [Machine.execRecodeLinesDone]
  refine hs.onJob ?_
  intro _ _ _ _ ht
  split
  · exact ht
  · split
    · exact ht.recodeLine.updCmd
    · exact ht.remapPages.setJob

theorem State.padsCanon.refreshPins {tower id l} (hs : s.padsCanon) : (refreshPins tower id l s).padsCanon := by
  induction l generalizing tower id s with
  | nil => exact hs
  | cons _ _ ih =>
    dsimp only [Machine.refreshPins]
    split
    · next e2 => exact ih ((hs.walk.pair e2).of_eq rfl rfl)
    · next e2 => exact ih (hs.walk.pair e2)

theorem State.padsCanon.execRecodeShootDone {tower} (hs : s.padsCanon) : Out.padsCanon (execRecodeShootDone tower s) :=
  hs.onJob (fun ht => .ite ht (.dropCmd (.cmdAdd (ht.refreshPins.of_eq rfl rfl))))

/-! ### `Sys2Proof/Machine/CfgRead.lean` -/

theorem State.padsCanon.windowTouch {slot} (hs : s.padsCanon) : (windowTouch s slot).padsCanon := by
  dsimp only [Machine.windowTouch]
  split
  · exact hs
  · exact hs.slotRead.of_eq rfl rfl

theorem State.padsCanon.cfgTouch {off} (hs : s.padsCanon) : (cfgTouch s off).padsCanon := .ite hs.windowTouch hs

/-! ### `Sys2Proof/Machine/Boot.lean` -/

theorem State.padsCanon.containHart {id} (hs : s.padsCanon) : (containHart id s).padsCanon := by
  unfold Machine.containHart
  extract_lets s1 s2 h h1 s3
  have hs1 : s1.padsCanon := by
    dsimp only [s1]
    split
    · next e => exact (hs.focus.settleLoads.pair e).takeTrap
    · next e => exact hs.focus.settleLoads.pair e
  have hs2 : s2.padsCanon := hs1.settleStores
  have hp : h1.pad = s2.h.pad := by
    have hh : h.pad = s2.h.pad := haltX_pad s2.h
    clear_value h
    exact (countedOut_pad _).trans hh
  clear_value s2 h1
  have hs3 : s3.padsCanon := .dropWaiter (.dropLeaves (hs2.of_eq hp rfl))
  split
  · exact hs3
  · exact .ite hs3.putImage hs3

theorem State.padsCanon.putHeaders (hs : s.padsCanon) : (putHeaders s).padsCanon := hs.foldl (·.putHeader)

theorem State.padsCanon.freezeAll (hs : s.padsCanon) : (freezeAll s).padsCanon :=
  (hs.foldl (·.containHart)).putHeaders

theorem State.padsCanon.enterContained {cause index} (hs : s.padsCanon) : (enterContained s cause index).padsCanon :=
  .ite (hs.of_eq rfl rfl) (.foldl (.emit (.emit (.freezeAll (.logError (hs.of_eq rfl rfl))))) (·.emit))

theorem State.padsCanon.bootFail {code} (hs : s.padsCanon) : (bootFail s code).padsCanon := hs.of_eq rfl rfl

theorem State.padsCanon.bootNext {step phase} (hs : s.padsCanon) : (bootNext s step phase).padsCanon :=
  hs.of_eq rfl rfl

theorem State.padsCanon.measureKind {kind} (hs : s.padsCanon) : (measureKind s kind).2.padsCanon := by
  dsimp only [Machine.measureKind]
  split
  · exact hs
  · exact .ite (.logError (hs.of_eq rfl rfl)) (hs.of_eq rfl rfl)

theorem State.padsCanon.measureKinds {l} (hs : s.padsCanon) : (measureKinds l s).padsCanon := by
  induction l generalizing s with
  | nil =>
    dsimp only [Machine.measureKinds]
    exact hs.bootNext
  | cons _ _ ih =>
    dsimp only [Machine.measureKinds]
    split
    · next e2 => exact ih (hs.measureKind.pair e2)
    · next e2 => exact (hs.measureKind.pair e2).bootFail

theorem State.padsCanon.formSet (hs : s.padsCanon) : (formSet s).padsCanon :=
  .ite (.logError (.foldl (hs.of_eq rfl rfl) (·.logError))) (.foldl (hs.of_eq rfl rfl) (·.logError))

theorem State.padsCanon.setFlapp {ptr} (hs : s.padsCanon) : (setFlapp s ptr).padsCanon :=
  .ite (hs.of_eq rfl rfl) hs

theorem State.padsCanon.firmwareSet (hs : s.padsCanon) : (firmwareSet s).padsCanon :=
  .ite (.setFlapp (hs.of_eq rfl rfl)) (hs.of_eq rfl rfl)

theorem State.padsCanon.startService (hs : s.padsCanon) : (startService s).padsCanon := 
  hs.mapHarts (fun h => by split <;> rfl) rfl rfl

theorem State.padsCanon.bootAdvance (hs : s.padsCanon) : (bootAdvance s).padsCanon := by
  dsimp only [Machine.bootAdvance]
  split
  · exact hs
  · split
    · exact hs.bootNext
    · exact .ite (.bootNext (hs.of_eq rfl rfl)) hs.bootFail
    · exact hs.measureKinds
    · exact .ite (.bootNext (.startService (hs.of_eq rfl rfl))) hs.bootFail
    · exact hs.formSet.firmwareSet.bootNext
    · exact hs

theorem State.padsCanon.execBootStep (hs : s.padsCanon) : Out.padsCanon (execBootStep s) := hs.bootAdvance

theorem State.padsCanon.preservingOp {who} : (preservingOp s who).padsCanon := State.padsCanon_reset.of_eq rfl rfl

theorem State.padsCanon.coldOp : (coldOp s).padsCanon := State.padsCanon_reset.of_eq rfl rfl

/-! ### `Sys2Proof/Machine/CfgWrite.lean` -/

theorem State.padsCanon.dropWrite {w code off v} (hs : s.padsCanon) : (dropWrite s w code off v).padsCanon :=
  hs.logError

theorem State.padsCanon.becomeActive {h} (hs : s.padsCanon) : (becomeActive s h).padsCanon :=
  .foldl (hs.of_eq rfl rfl) (·.emit)

theorem State.padsCanon.expireLease (hs : s.padsCanon) : (expireLease s).padsCanon := by
  dsimp only [Machine.expireLease]
  split
  · exact hs
  · exact .ite hs.becomeActive (hs.of_eq rfl rfl)

theorem State.padsCanon.settleLease (hs : s.padsCanon) : (settleLease s).padsCanon := .ite hs.expireLease hs

theorem State.padsCanon.leaseCommand {h v} (hs : s.padsCanon) : (leaseCommand s h v).padsCanon := by
  dsimp only [Machine.leaseCommand]
  split
  · exact .ite (hs.of_eq rfl rfl) hs.dropWrite
  · exact .ite hs.becomeActive (.ite hs.dropWrite (hs.of_eq rfl rfl))
  · exact .ite hs.expireLease hs.dropWrite
  · exact hs

theorem State.padsCanon.stageOp {w v} (hs : s.padsCanon) : (stageOp s w v).padsCanon :=
  .ite hs.dropWrite (hs.of_eq rfl rfl)

theorem State.padsCanon.measureDone (hs : s.padsCanon) : (measureDone s).padsCanon := .ite hs (hs.of_eq rfl rfl)

theorem State.padsCanon.switchOp {w v} (hs : s.padsCanon) : (switchOp s w v).padsCanon :=
  .ite hs.dropWrite (.foldl (hs.of_eq rfl rfl) (·.logError))

theorem State.padsCanon.discardOp {w v} (hs : s.padsCanon) : (discardOp s w v).padsCanon :=
  .ite hs.dropWrite (hs.of_eq rfl rfl)

theorem State.padsCanon.finishSwitch (hs : s.padsCanon) : (finishSwitch s).padsCanon := by
  unfold Machine.finishSwitch
  exact hs.of_eq rfl rfl

theorem State.padsCanon.drainEnd (hs : s.padsCanon) : (drainEnd s).padsCanon :=
  .ite (.ite (.finishSwitch (hs.of_eq rfl rfl)) (hs.of_eq rfl rfl)) hs

theorem State.padsCanon.revertSwitch (hs : s.padsCanon) : (revertSwitch s).padsCanon :=
  .ite (hs.of_eq rfl rfl) hs

theorem State.padsCanon.readyOp {v} (hs : s.padsCanon) : (readyOp s v).padsCanon :=
  .ite hs.revertSwitch.dropWrite (.ite (hs.revertSwitch.of_eq rfl rfl) (.ite hs.revertSwitch.finishSwitch
    (hs.revertSwitch.of_eq rfl rfl)))

theorem State.padsCanon.fwctlWrite {w v} (hs : s.padsCanon) : (fwctlWrite s w v).padsCanon := by
  dsimp only [Machine.fwctlWrite]
  split
  · exact hs.stageOp
  · exact hs.switchOp
  · exact hs.discardOp
  · exact hs.of_eq rfl rfl

theorem State.padsCanon.setIvt {i e} (hs : s.padsCanon) : (setIvt s i e).padsCanon := hs.of_eq rfl rfl

theorem State.padsCanon.armIrq {i} (hs : s.padsCanon) : (armIrq s i).padsCanon := by
  dsimp only [Machine.armIrq]
  split
  · split
    · next e2 => exact (hs.setIvt.registerWaiter.pair e2).fireIrq
    · next e3 => exact hs.setIvt.registerWaiter.pair e3
  · exact hs.setIvt

theorem State.padsCanon.ivtWrite {i upper v} (hs : s.padsCanon) : (ivtWrite s i upper v).padsCanon :=
  .ite hs.dropWaiter.setIvt.armIrq hs.dropWaiter.setIvt

theorem State.padsCanon.windowAdd {w slot v} (hs : s.padsCanon) : (windowAdd s w slot v).padsCanon := by
  dsimp only [Machine.windowAdd]
  split
  · exact hs.dropWrite
  · split
    · exact hs.dropWrite
    · split
      · split
        · next e4 => exact hs.slotOp.pair e4
        · next e4 => exact (hs.slotOp.pair e4).dropWrite
      · exact hs.dropWrite

theorem State.padsCanon.windowWrite {w off full raw} (hs : s.padsCanon) : (windowWrite s w off full raw).padsCanon := by
  dsimp only [Machine.windowWrite]
  split
  · exact .ite hs.dropWrite (.ite hs.dropWrite (hs.of_eq rfl rfl))
  · exact .ite hs.windowAdd hs.dropWrite

theorem State.padsCanon.resetWrite {w v} (hs : s.padsCanon) : (resetWrite s w v).padsCanon := by
  dsimp only [Machine.resetWrite]
  split
  · exact hs.dropWrite
  · exact .ite hs (.ite (.ite .preservingOp .coldOp) hs.dropWrite)

theorem State.padsCanon.activeWrite {w off full raw low} (hs : s.padsCanon) :
    (activeWrite s w off full raw low).padsCanon :=
  .ite hs.dropWrite (.ite (.ite (hs.of_eq rfl rfl) hs) (.ite (.ite (hs.of_eq rfl rfl) hs.dropWrite) (.ite (.ite
    hs.fwctlWrite hs) (.ite (.ite hs.dropWrite (hs.of_eq rfl rfl)) (.ite (.ite hs.dropWrite (hs.of_eq rfl rfl)) (.ite
      (.ite hs.dropWrite (hs.of_eq rfl rfl)) (.ite (hs.of_eq rfl rfl) hs.ivtWrite)))))))

theorem State.padsCanon.w1cWrite {off raw} (hs : s.padsCanon) : (w1cWrite s off raw).padsCanon :=
  .ite (hs.of_eq rfl rfl) (.ite (hs.of_eq rfl rfl) (hs.of_eq rfl rfl))

theorem State.padsCanon.serviceWrite {w off full raw} (hs : s.padsCanon) : (serviceWrite s w off full raw).padsCanon :=
  .ite hs.dropWrite (.ite hs.readyOp (.ite (.ite hs (hs.of_eq rfl rfl)) (hs.of_eq rfl rfl)))

theorem State.padsCanon.cfgWrite {w off size v} (hs : s.padsCanon) : (cfgWrite s w off size v).padsCanon := by
  dsimp only [Machine.cfgWrite]
  split
  · split
    · exact hs.settleLease.emit
    · exact hs.settleLease
  · split
    · exact hs.settleLease
    · split
      · exact hs.settleLease.resetWrite
      · split
        · exact hs.settleLease.leaseCommand
        · exact hs.settleLease.dropWrite
      · exact .ite hs.settleLease.dropWrite hs.settleLease.w1cWrite
      · exact hs.settleLease.activeWrite
      · exact hs.settleLease.serviceWrite
      · exact hs.settleLease.windowWrite
      · exact hs.settleLease.dropWrite
      · exact .ite hs.settleLease.dropWrite hs.settleLease

theorem State.padsCanon.aliasWrite {off v} (hs : s.padsCanon) (e : aliasWrite s off v = some t) : t.padsCanon := by
  dsimp only [Machine.aliasWrite] at e
  split at e
  · cases e
  · cases e; exact hs.cfgWrite

theorem State.padsCanon.hostReadOp {host off n} (hs : s.padsCanon) : (hostReadOp s host off n).padsCanon :=
  .ite hs.emit hs.cfgTouch.emit

theorem State.padsCanon.execLeaseExpiry (hs : s.padsCanon) : Out.padsCanon (execLeaseExpiry s) := hs.settleLease

theorem State.padsCanon.execFwMeasureDone (hs : s.padsCanon) : Out.padsCanon (execFwMeasureDone s) :=
  hs.measureDone

theorem State.padsCanon.execFwDrainEnd (hs : s.padsCanon) : Out.padsCanon (execFwDrainEnd s) := hs.drainEnd

theorem State.padsCanon.execFwReadyTimeout (hs : s.padsCanon) : Out.padsCanon (execFwReadyTimeout s) :=
  hs.revertSwitch

theorem State.padsCanon.spdmAnswer {host r} (hs : s.padsCanon) : (spdmAnswer s host r).padsCanon := hs.emit

/-! ### `Sys2Proof/Machine/Links.lean` -/

theorem State.padsCanon.execControlStructureError {tower} (hs : s.padsCanon) :
    Out.padsCanon (execControlStructureError tower s) :=
  hs.enterContained

theorem State.padsCanon.memwinLine {pa} (hs : s.padsCanon) : (memwinLine s pa).2.padsCanon := hs.readLine

theorem State.padsCanon.memwinBytes {l} (hs : s.padsCanon) : (memwinBytes l s).2.2.padsCanon := by
  induction l generalizing s with
  | nil => exact hs
  | cons _ _ ih =>
    dsimp only [Machine.memwinBytes]
    exact ih hs.memwinLine

theorem State.padsCanon.memwinPut {pa k v poison} (hs : s.padsCanon) : (memwinPut s pa k v poison).padsCanon :=
  hs.memwinLine.writeLine

theorem State.padsCanon.memwinPuts {poison l l2} (hs : s.padsCanon) : (memwinPuts poison l l2 s).padsCanon := by
  induction l generalizing poison l2 s with
  | nil => exact hs
  | cons _ _ ih =>
    dsimp only [Machine.memwinPuts]
    exact ih hs.memwinPut

theorem State.padsCanon.memwinRead {host off n} (hs : s.padsCanon) : (memwinRead host off n s).padsCanon :=
  .ite hs.emit hs.memwinBytes.emit

theorem State.padsCanon.memwinWrite {host off data poison} (hs : s.padsCanon) :
    (memwinWrite host off data poison s).padsCanon :=
  .ite hs (.ite hs.emit (.ite hs.emit.dropWrite (.ite hs.dropWrite hs.memwinPuts)))

theorem State.padsCanon.memwinAtomic {host off op wide operand expected} (hs : s.padsCanon) :
    (memwinAtomic host off op wide operand expected s).padsCanon :=
  .ite hs (.ite hs.emit (.ite hs.emit.dropWrite (.ite hs.dropWrite hs.memwinLine.memwinPut.emit)))

theorem State.padsCanon.performAccess {x} (hs : s.padsCanon) : (performAccess x s).padsCanon := by
  dsimp only [Machine.performAccess]
  split
  · exact hs.settleLease.memwinWrite
  · exact hs.settleLease.memwinRead
  · exact hs.settleLease.memwinAtomic
  · exact hs.settleLease.cfgWrite

theorem State.padsCanon.hostAccess {x} (hs : s.padsCanon) : (hostAccess x s).padsCanon :=
  .ite (hs.of_eq rfl rfl) hs.performAccess

theorem State.padsCanon.resumeAccess (hs : s.padsCanon) : (resumeAccess s).padsCanon := by
  dsimp only [Machine.resumeAccess]
  split
  · exact .performAccess (hs.of_eq rfl rfl)
  · exact hs

theorem State.padsCanon.execHostSnoop {pa} (hs : s.padsCanon) : Out.padsCanon (execHostSnoop pa s) := by
  dsimp only [Machine.execHostSnoop]
  split
  · exact hs.setDir
  · exact hs

theorem State.padsCanon.answer {node ok v tag} (hs : s.padsCanon) : (answer s node ok v tag).padsCanon :=
  hs.emit

theorem State.padsCanon.peerAtomic {node pa op wide operand expected} (hs : s.padsCanon) :
    (peerAtomic s node pa op wide operand expected).padsCanon :=
  .ite hs.readLine.answer hs.readLine.writeLine.answer

theorem State.padsCanon.peerCounterOp {node handle op} (hs : s.padsCanon) :
    (peerCounterOp s node handle op).padsCanon := by
  dsimp only [Machine.peerCounterOp]
  split
  · split
    · exact hs.answer
    · split <;> next e3 => exact (hs.slotOp.pair e3).answer
  · exact hs.answer

theorem State.padsCanon.peerWaitOp {node handle thr token} (hs : s.padsCanon) :
    (peerWaitOp s node handle thr token).padsCanon := by
  dsimp only [Machine.peerWaitOp]
  split
  · split
    · exact hs.answer
    · split
      · next e3 => exact (hs.registerWaiter.pair e3).emit
      · next e3 => exact hs.registerWaiter.pair e3
      · next e3 => exact (hs.registerWaiter.pair e3).emit
      · next e3 => exact (hs.registerWaiter.pair e3).answer
  · exact hs.answer

theorem State.padsCanon.peerMerge {node pa mask data tag} (hs : s.padsCanon) :
    (peerMerge s node pa mask data tag).padsCanon :=
  hs.readLine.writeLine

theorem State.padsCanon.peerRetag {node pa tag} (hs : s.padsCanon) : (peerRetag s node pa tag).padsCanon :=
  hs.readLine.writeLine

theorem State.padsCanon.peerPerform {node req} (hs : s.padsCanon) : Out.padsCanon (peerPerform s node req) := by
  dsimp only [Machine.peerPerform]
  split
  · exact .ite trivial hs.readLine.answer
  · exact .ite trivial hs.writeLine.answer
  · exact .ite trivial hs.peerMerge.answer
  · exact .ite trivial hs.peerRetag.answer
  · exact .ite trivial hs.peerAtomic
  · exact hs.peerCounterOp
  · exact hs.peerCounterOp
  · exact hs.peerCounterOp
  · exact hs.peerCounterOp
  · exact hs.peerWaitOp
  · exact hs.of_eq rfl rfl

theorem State.padsCanon.execPeerRequest {node req} (hs : s.padsCanon) : Out.padsCanon (execPeerRequest node req s) :=
  .ite hs hs.peerPerform

theorem State.padsCanon.takeRemote {token} (hs : s.padsCanon) : (takeRemote s token).padsCanon :=
  hs.of_eq rfl rfl

theorem State.padsCanon.remoteWakeOp {token v} (hs : s.padsCanon) : (remoteWakeOp s token v).padsCanon := by
  dsimp only [Machine.remoteWakeOp]
  split
  · exact hs
  · split
    · exact hs.takeRemote.later
    · exact hs.takeRemote.condMet
    · exact hs.takeRemote
    · exact hs.takeRemote

theorem fullWait_pad (now) (h : Hart) : (fullWait now h).pad = h.pad := by
  unfold fullWait
  split <;> rfl

theorem State.padsCanon.remoteFull {token} (hs : s.padsCanon) : (remoteFull s token).padsCanon := by
  dsimp only [Machine.remoteFull]
  split
  · exact hs
  · split
    · exact hs.takeRemote.updHart (fullWait_pad _)
    · exact hs.of_eq rfl rfl

theorem State.padsCanon.markUnreachable {node} (hs : s.padsCanon) : (markUnreachable s node).padsCanon :=
  .ite hs (hs.of_eq rfl rfl)

theorem State.padsCanon.updLink {link f} (hs : s.padsCanon) : (updLink s link f).padsCanon := hs.of_eq rfl rfl

theorem State.padsCanon.fatalLink {link} (hs : s.padsCanon) : (fatalLink s link).padsCanon :=
  hs.updLink.enterContained

theorem State.padsCanon.takeMsgs {link l} (hs : s.padsCanon) : Out.padsCanon (takeMsgs link l s) := by
  induction l generalizing link s with
  | nil => exact hs
  | cons _ _ ih =>
    dsimp only [Machine.takeMsgs]
    split
    · split
      · next e2 => exact ih (hs.execPeerRequest.next e2)
      · exact hs.execPeerRequest
    · exact ih (.ite hs hs.remoteWakeOp)
    · exact ih (.ite hs hs.remoteFull)
    · exact ih hs.markUnreachable
    · exact ih hs.updLink

/-! ### `Sys2Proof/Machine/Survey.lean` -/

theorem State.padsCanon.updBuf {t f} (hs : s.padsCanon) : (s.updBuf t f).padsCanon := hs.of_eq rfl rfl

theorem State.padsCanon.recordCycle {t} (hs : s.padsCanon) : (recordCycle s t).padsCanon := .ite hs hs.updBuf

theorem State.padsCanon.dumpLines {t n n2 l} (hs : s.padsCanon) : (dumpLines t n n2 l s).padsCanon := by
  induction n generalizing t n2 l s with
  | zero => exact hs
  | succ _ ih =>
    dsimp only [Machine.dumpLines]
    exact ih hs.writeLine

theorem State.padsCanon.execSurveyDump {tower} (hs : s.padsCanon) : Out.padsCanon (execSurveyDump tower s) :=
  State.padsCanon.ite hs.dumpLines.updBuf hs

theorem State.padsCanon.execSurveyDumpDone {tower} (hs : s.padsCanon) : Out.padsCanon (execSurveyDumpDone tower s) :=
  State.padsCanon.ite (.ite hs.updBuf hs.updBuf.farAdd) hs

/-! ### `Sys2Proof/Machine/Debug.lean` -/

theorem State.padsCanon.freezeHart {id} (hs : s.padsCanon) : (freezeHart id s).padsCanon :=
  .ite hs (.ite (hs.focus.of_eq (requestStop_pad _ _ _) rfl) (.hardStop (hs.focus.of_eq (requestStop_pad _ _ _) rfl)))

theorem State.padsCanon.freezeLaunch {l soft} (hs : s.padsCanon) : (freezeLaunch s l soft).padsCanon :=
  .ite (hs.setEntry.updTasks (requestStop_pad _ _)) (hs.setEntry.foldl (·.freezeHart))

theorem State.padsCanon.endFreeze {l} (hs : s.padsCanon) : (endFreeze s l).padsCanon := .ite hs.endDebug hs

theorem State.padsCanon.freezeCommand {soft} (hs : s.padsCanon) : (freezeCommand s soft).padsCanon := by
  dsimp only [Machine.freezeCommand]
  split
  · exact hs.endDebug
  · exact .ite hs.endDebug (.ite hs.endDebug hs.freezeLaunch.endFreeze)

theorem State.padsCanon.thawCommand (hs : s.padsCanon) : (thawCommand s).padsCanon := by
  dsimp only [Machine.thawCommand]
  split
  · exact hs.endDebug
  · exact .ite hs.endDebug hs.setEntry.updTasks.endDebug

theorem State.padsCanon.undoCommand {target} (hs : s.padsCanon) : (undoCommand s target).padsCanon := by
  dsimp only [Machine.undoCommand]
  split
  · exact hs.endDebug
  · split
    · exact hs.endDebug
    · split
      · exact hs
      · exact hs.setEntry

theorem State.padsCanon.execUndoStep (hs : s.padsCanon) : Out.padsCanon (execUndoStep s) :=
  State.padsCanon.ite hs.undoCommand hs

theorem State.padsCanon.execUndoTo (hs : s.padsCanon) : Out.padsCanon (execUndoTo s) :=
  State.padsCanon.ite hs.undoCommand hs

theorem State.padsCanon.triggerFreeze {l} (hs : s.padsCanon) : (triggerFreeze s l).padsCanon :=
  hs.foldl (·.updBuf)

theorem State.padsCanon.breakHit {l id onX n} (hs : s.padsCanon) : (breakHit s l id onX n).padsCanon :=
  .freezeLaunch (.triggerFreeze (hs.of_eq rfl rfl))

theorem State.padsCanon.execBreakpointHit {entry} (hs : s.padsCanon) : Out.padsCanon (execBreakpointHit entry s) := by
  dsimp only [Machine.execBreakpointHit]
  split
  · exact hs
  · exact State.padsCanon.breakHit (hs.of_eq rfl rfl)

theorem State.padsCanon.execBkpt (hs : s.padsCanon) : Out.padsCanon (execBkpt s) := by
  dsimp only [Machine.execBkpt]
  refine hs.inA ?_
  intro _ ht
  split
  · exact ht.advance
  · split
    · exact ht.raise
    · exact .ite ht.raise (.ite ht ht.breakHit)

theorem State.padsCanon.dbgcmdSet {v} (hs : s.padsCanon) : (dbgcmdSet s v).padsCanon :=
  .ite hs (.later (hs.of_eq rfl rfl))

/-! ### `Sys2Proof/Machine/Csr.lean` -/

theorem State.padsCanon.replyRead {off n} (hs : s.padsCanon) : (replyRead s off n).2.padsCanon := by
  dsimp only [Machine.replyRead]
  split
  · exact hs
  · exact hs.heldRead

theorem State.padsCanon.raiseReply {off} (hs : s.padsCanon) : (raiseReply off s).padsCanon := hs.raise

theorem State.padsCanon.csrValue {c} (hs : s.padsCanon) : (csrValue s c).2.padsCanon := by
  dsimp only [Machine.csrValue]
  split
  · exact hs.cfgTouch
  · exact hs

theorem State.padsCanon.tendatSet {v} (hs : s.padsCanon) : (tendatSet s v).padsCanon :=
  .clipDeficits (hs.of_eq rfl rfl)

theorem State.padsCanon.peerdatSet {v} (hs : s.padsCanon) : (peerdatSet s v).padsCanon := hs.of_eq rfl rfl

theorem State.padsCanon.keyhiSet {v} (hs : s.padsCanon) : (keyhiSet s v).padsCanon := .ite hs (hs.of_eq rfl rfl)

theorem State.padsCanon.cgdatSet {v} (hs : s.padsCanon) : (cgdatSet s v).padsCanon := hs.of_eq rfl rfl

theorem State.padsCanon.flappSet {v} (hs : s.padsCanon) : (flappSet s v).padsCanon := hs.setFlapp

theorem State.padsCanon.csrSetDebug {c v} (hs : s.padsCanon) : (csrSetDebug s c v).padsCanon :=
  .ite hs.updBuf (.ite (.ite hs hs.updBuf) (.ite (.ite hs hs.updBuf) (.ite (.ite hs hs.updBuf) (.ite hs.dbgcmdSet
    (.ite (hs.of_eq rfl rfl) (.ite (hs.of_eq rfl rfl) (.ite (hs.of_eq rfl rfl) (.ite (hs.of_eq rfl rfl) hs))))))))

theorem State.padsCanon.csrReply {d off} (hs : s.padsCanon) : (csrReply d off s).padsCanon := by
  dsimp only [Machine.csrReply]
  split
  · exact hs
  · refine hs.accessed ?_
    intro _ ht
    split
    · next e2 => exact (ht.replyRead.pair e2).raiseReply
    · next e2 => exact (ht.replyRead.pair e2).writeReg

theorem State.padsCanon.csrSetHart {c v} (hs : s.padsCanon) : (csrSetHart s c v).padsCanon := by
  unfold Machine.csrSetHart
  extract_lets h n
  split
  · exact hs.setCur
  · split
    · exact hs.setCur
    · trivial
  · exact hs.of_eq rfl rfl
  · exact hs.of_eq rfl rfl
  · exact hs.of_eq rfl rfl
  · exact hs.of_eq rfl rfl
  · exact hs.of_eq rfl rfl
  · exact hs.of_eq (svctlSet_pad _ _) rfl
  · exact hs

theorem State.padsCanon.csrSetService {c v} (hs : s.padsCanon) : (csrSetService s c v).padsCanon := by
  unfold Machine.csrSetService
  extract_lets h n
  split
  · exact hs.of_eq rfl rfl
  · exact hs.tendatSet
  · exact hs.of_eq rfl rfl
  · exact hs.peerdatSet
  · exact hs.of_eq rfl rfl
  · exact hs.of_eq rfl rfl
  · exact hs.keyhiSet
  · exact hs.of_eq rfl rfl
  · exact hs.cgdatSet
  · exact hs.flappSet
  · exact hs.of_eq rfl rfl
  · split
    next e => exact hs.aliasWrite e
    · trivial
  · exact hs

theorem State.padsCanon.csrStore {c v} (hs : s.padsCanon) : (csrStore s c v).padsCanon := by
  unfold Machine.csrStore
  split
  · exact hs.csrSetHart
  · split
    · exact hs.of_eq rfl rfl
    · split
      · exact hs.csrSetDebug
      · exact hs.csrSetService

theorem State.padsCanon.csrAct {i d c f} (hs : s.padsCanon) : (csrAct i d c f s).padsCanon := by
  unfold Machine.csrAct
  split
  · exact hs
  · split
    next e =>
      have hs1 := hs.csrValue.pair e
      split
      · exact hs1.writeReg
      · split
        next e2 => exact (hs1.csrStore.ok e2).writeReg
        next => exact hs1.raise
        next => exact hs1.notPrivileged

theorem State.padsCanon.csrInstr {i d n f} (hs : s.padsCanon) : (csrInstr i d n f s).padsCanon := by
  dsimp only [Machine.csrInstr]
  split
  · exact hs.illegalStream
  · split
    · exact hs.illegalInstr
    · split
      · exact hs.notPrivileged
      · split
        · exact .ite hs hs.csrAct
        · refine hs.confirmed ?_
          intro _ ht
          split
          · exact ht.csrReply
          · exact ht.csrAct

theorem State.padsCanon.execCfgdatWrite {v} (hs : s.padsCanon) : Out.padsCanon (execCfgdatWrite v s) := by
  dsimp only [Machine.execCfgdatWrite]
  split
  · next e => exact hs.aliasWrite e
  · exact hs.notPrivileged

/-! ### `Sys2Proof/Machine/System.lean` -/

theorem State.padsCanon.launchRecord {d v} (hs : s.padsCanon) : (launchRecord d v s).padsCanon :=
  hs.acceptLaunch.writeReg

theorem State.padsCanon.execLaunch {d a} (hs : s.padsCanon) : Out.padsCanon (execLaunch d a s) := by
  dsimp only [Machine.execLaunch]
  refine hs.inA ?_
  intro _ ht
  refine ht.ordered ?_
  intro _ ht1
  split
  · exact ht1.raise
  · split
    · next e2 => exact (ht1.readRecord.pair e2).raiseErr
    · next e2 => exact (ht1.readRecord.pair e2).launchRecord

theorem State.padsCanon.execPtset {d a b} (hs : s.padsCanon) : Out.padsCanon (execPtset d a b s) := by
  dsimp only [Machine.execPtset]
  refine hs.inA ?_
  intro _ ht
  refine ht.confirmed ?_
  intro _ ht1
  split
  · exact ht1.raise
  · exact .writeReg (ht1.of_eq rfl rfl)

theorem State.padsCanon.wmarkOp {d l} (hs : s.padsCanon) : (wmarkOp d l s).padsCanon :=
  .ite (.ite hs.waitOn (.writeReg (hs.of_eq rfl rfl))) (.ite hs.raise (hs.drained (·.waitAgain) (fun ht => .ite
    ht.waitAgain ht.appendSnap.waitOn)))

theorem State.padsCanon.execWmark {d} (hs : s.padsCanon) : Out.padsCanon (execWmark d s) := by
  dsimp only [Machine.execWmark]
  refine hs.inA ?_
  intro _ ht
  refine ht.noHandler ?_
  intro _ ht1
  refine ht1.confirmed ?_
  intro _ ht2
  split
  · exact ht2.writeReg
  · exact ht2.wmarkOp

theorem State.padsCanon.publish {func block} (hs : s.padsCanon) : (publish s func block).padsCanon :=
  .partAdd (hs.partAdd.of_eq rfl rfl)

theorem State.padsCanon.waitSpace (hs : s.padsCanon) : (waitSpace s).padsCanon := by
  dsimp only [Machine.waitSpace]
  split
  · next e => exact (hs.registerWaiter.pair e).stall
  · next e => exact (hs.registerWaiter.pair e).stall
  · next e => exact (hs.registerWaiter.pair e).waitAgain
  · next e => exact .waitAgain ((hs.registerWaiter.pair e).of_eq rfl rfl)

theorem State.padsCanon.endCall {d} (hs : s.padsCanon) : (endCall d s).padsCanon := by
  dsimp only [Machine.endCall]
  split
  · next e => exact (hs.replyRead.pair e).raiseReply
  · next e => exact (hs.replyRead.pair e).writeReg

theorem State.padsCanon.waitReply {d reply thr} (hs : s.padsCanon) : (waitReply d reply thr s).padsCanon := by
  dsimp only [Machine.waitReply]
  split
  · split
    · next e2 => exact (hs.registerWaiter.pair e2).endCall
    · next e2 => exact (hs.registerWaiter.pair e2).waitOn
    · next e2 => exact (hs.registerWaiter.pair e2).waitOn
    · next e2 => exact (hs.registerWaiter.pair e2).raise
  · exact hs.waitOn

theorem State.padsCanon.callOp {nb d func block} (hs : s.padsCanon) : (callOp nb d func block s).padsCanon :=
  .ite hs.raise (.ite hs.waitReply (.ite (.ite hs.writeReg hs.waitSpace) (.ite hs.publish.writeReg
    hs.publish.waitReply)))

theorem State.padsCanon.callInstr {nb d a b} (hs : s.padsCanon) : (callInstr nb d a b s).padsCanon := by
  dsimp only [Machine.callInstr]
  refine hs.ordered ?_
  intro _ ht
  split
  · exact ht.raise
  · split
    · exact ht.raise
    · split
      · next e3 => exact (ht.scalarLoad.pair e3).raiseErr
      · next e3 => exact (ht.scalarLoad.pair e3).callOp

theorem State.padsCanon.shootDown {k ref} (hs : s.padsCanon) : (shootDown k ref s).padsCanon :=
  .ite hs.tlbRemove (hs.of_eq rfl rfl)

theorem State.padsCanon.tlbi {i d k} (hs : s.padsCanon) : (tlbi i d k s).padsCanon :=
  hs.inA (fun ht => ht.needPriv (fun ht1 => ht1.ordered (fun ht2 => .ite ht2.raise ht2.shootDown.advance)))

theorem State.padsCanon.tlbiAdd {p} (hs : s.padsCanon) : (tlbiAdd s p).padsCanon := by
  dsimp only [Machine.tlbiAdd]
  split
  · exact hs.ownerAdd
  · exact hs.farAdd

theorem State.padsCanon.execTlbiCompletionAdd (hs : s.padsCanon) : Out.padsCanon (execTlbiCompletionAdd s) := by
  dsimp only [Machine.execTlbiCompletionAdd]
  split
  · exact hs
  · split
    · exact hs
    · exact State.padsCanon.tlbiAdd (hs.of_eq rfl rfl)

/-! ### `Sys2Proof/Machine/Stops.lean` -/

theorem State.padsCanon.onHart {id k} (hs : s.padsCanon) (hk : ∀ {t : State}, t.padsCanon → (k t).padsCanon) :
    (onHart id s k).padsCanon :=
  .ite hs (hk (hs.focus.of_eq rfl rfl))

theorem State.padsCanon.killSoft (hs : s.padsCanon) : (killSoft s).padsCanon := by
  unfold Machine.killSoft
  extract_lets h s1
  have hs1 : s1.padsCanon := .ite (.dropWaiter (hs.of_eq rfl rfl)) (hs.of_eq rfl rfl)
  have hp : (retireAll h).pad = s.h.pad := retireAll_pad h
  clear_value s1
  exact .ite hs (.ite (.killTask (hs1.of_hart (hs.1.of_pad hp) rfl)) hs1)

theorem State.padsCanon.killHard (hs : s.padsCanon) : (killHard s).padsCanon := by
  dsimp only [Machine.killHard]
  split
  · next e => exact (hs.settleLoads.pair e).takeTrap
  · next e => exact .killTask ((hs.settleLoads.pair e).of_eq (haltX_pad _) rfl)

theorem State.padsCanon.execKillStop {h} (hs : s.padsCanon) : Out.padsCanon (execKillStop h s) :=
  hs.onHart (fun ht => .ite ht.killSoft hs)

theorem State.padsCanon.execKillTimeout {h} (hs : s.padsCanon) : Out.padsCanon (execKillTimeout h s) :=
  hs.onHart (fun ht => .ite ht.killHard hs)

theorem State.padsCanon.reachStop (hs : s.padsCanon) : (reachStop s).padsCanon := by
  dsimp only [Machine.reachStop]
  split
  · exact hs
  · exact hs
  · exact .ite hs hs.hardStop
  · exact hs.softStop

theorem State.padsCanon.execSoftPreemptStop {h} (hs : s.padsCanon) : Out.padsCanon (execSoftPreemptStop h s) :=
  hs.onHart (·.reachStop)

theorem State.padsCanon.makeHard (hs : s.padsCanon) : (makeHard s).padsCanon := .hardStop (hs.of_eq (unstep_pad _) rfl)

theorem State.padsCanon.execPreemptTimeout {h} (hs : s.padsCanon) : Out.padsCanon (execPreemptTimeout h s) :=
  hs.onHart (fun ht => .ite ht.makeHard hs)

theorem State.padsCanon.execQblockHardPreempt {h} (hs : s.padsCanon) : Out.padsCanon (execQblockHardPreempt h s) :=
  hs.onHart (fun ht => .ite hs (.ite ht.killHard ht.makeHard))

theorem State.padsCanon.execParkSaveComplete {h} (hs : s.padsCanon) : Out.padsCanon (execParkSaveComplete h s) :=
  State.padsCanon.ite hs (.parkSave (hs.focus.of_eq rfl rfl))

/-! ### `Sys2Proof/Machine/Waits.lean` -/

theorem State.padsCanon.endWait {id d status} (hs : s.padsCanon) : (endWait s id d status).padsCanon :=
  hs.dropWaiter.updHart (finishWait_pad · _ _)

theorem State.padsCanon.claimAgain {id} (hs : s.padsCanon) : (claimAgain s id).padsCanon :=
  hs.dropWaiter.updHart

theorem State.padsCanon.wakeStream {id v} (hs : s.padsCanon) : (wakeStream s id v).padsCanon := by
  dsimp only [Machine.wakeStream]
  split
  · exact hs
  · split
    · exact hs
    · split
      · exact .ite hs.endWait hs
      · exact .ite (.endCall (hs.focus.of_eq rfl rfl)) hs
      · exact hs.claimAgain
      · exact hs

theorem State.padsCanon.execCwaitTimeout {h} (hs : s.padsCanon) : Out.padsCanon (execCwaitTimeout h s) := by
  dsimp only [Machine.execCwaitTimeout]
  split
  · exact hs
  · split
    · exact State.padsCanon.ite hs.endWait hs
    · exact hs

theorem State.padsCanon.pollEnds {id d dl r t met} (hs : s.padsCanon) : (pollEnds s id d dl r t met).padsCanon :=
  .ite hs.updHart hs.endWait

theorem State.padsCanon.pollFull {id d r t dl} (hs : s.padsCanon) : (pollFull s id d r t dl).padsCanon := by
  dsimp only [Machine.pollFull]
  split
  · split
    · next e2 => exact (hs.slotRead.pair e2).pollEnds
    · next e2 => exact (hs.slotRead.pair e2).onHart (·.takeTrap)
  · exact .ite hs.updHart (.ite hs.draw.sendPeer.pollEnds (hs.draw.sendPeer.onHart (·.takeTrap)))
  · exact hs

theorem State.padsCanon.pollReply {id r t d} (hs : s.padsCanon) : (pollReply s id r t d).padsCanon := by
  dsimp only [Machine.pollReply]
  split
  · split
    · next e2 =>
        have hs1 := hs.slotRead.pair e2
        exact .ite (hs1.onHart (·.endCall)) hs1.updHart
    · next e2 => exact (hs.slotRead.pair e2).onHart (·.takeTrap)
  · exact hs

theorem State.padsCanon.pollStream {id w} (hs : s.padsCanon) : (pollStream s id w).padsCanon := by
  dsimp only [Machine.pollStream]
  split
  · exact hs.pollFull
  · exact hs.pollReply
  · exact hs.claimAgain
  · exact hs

theorem State.padsCanon.execCwaitFullPoll {h} (hs : s.padsCanon) : Out.padsCanon (execCwaitFullPoll h s) := by
  dsimp only [Machine.execCwaitFullPoll]
  split
  · exact hs
  · split
    · exact State.padsCanon.ite hs.pollStream hs
    · exact hs

theorem State.padsCanon.execHostCounterPoll {h} (hs : s.padsCanon) : Out.padsCanon (execHostCounterPoll h s) := by
  dsimp only [Machine.execHostCounterPoll]
  split
  · exact hs
  · split
    · exact hs
    · split
      · split
        · exact State.padsCanon.ite hs.endWait hs
        · exact hs
      · exact hs

theorem State.padsCanon.pollPeerStart {l j n r t} (hs : s.padsCanon) : (pollPeerStart s l j n r t).padsCanon :=
  .ite hs (.ite (.condMet (.sendPeer (.draw (hs.of_eq rfl rfl)))) (.peerWait (.sendPeer (.draw (hs.of_eq rfl rfl)))))

theorem State.padsCanon.pollStart {l j} (hs : s.padsCanon) : (pollStart s l j).padsCanon := by
  dsimp only [Machine.pollStart]
  split
  · exact hs
  · split
    · exact hs
    · split
      · exact hs.startCondition
      · exact hs.startCondition
      · exact hs.pollPeerStart
      · exact hs

theorem State.padsCanon.pollWaiter {w} (hs : s.padsCanon) : (pollWaiter s w).padsCanon := by
  dsimp only [Machine.pollWaiter]
  split
  · exact hs
  · split
    · exact .ite hs.armIrq hs
    · exact hs.pollStart
    · exact hs
    · exact hs

theorem State.padsCanon.execWmarkCollectiveComplete {lix} (hs : s.padsCanon) :
    Out.padsCanon (execWmarkCollectiveComplete lix s) :=
  State.padsCanon.ite hs.completeCollective hs

theorem State.padsCanon.execRewind {lix} (hs : s.padsCanon) : Out.padsCanon (execRewind lix s) :=
  State.padsCanon.ite hs.runRewind hs

/-! ### `Sys2Proof/Machine/Governor.lean` -/

theorem State.padsCanon.updGov {t f} (hs : s.padsCanon) : (s.updGov t f).padsCanon := hs.of_eq rfl rfl

theorem State.padsCanon.grantLeave {t} (hs : s.padsCanon) : (grantLeave s t).padsCanon := by
  dsimp only [Machine.grantLeave]
  split
  · exact hs
  · split
    · exact hs.updGov.updHart
    · split
      · exact hs.updGov.updHart
      · exact hs.updGov

theorem State.padsCanon.execLeaveGrant {tower} (hs : s.padsCanon) : Out.padsCanon (execLeaveGrant tower s) :=
  State.padsCanon.ite hs hs.grantLeave

theorem State.padsCanon.thermalCritical {tower temp} (hs : s.padsCanon) : (thermalCritical s tower temp).padsCanon :=
  hs.updGov.logError

/-! ### `Sys2Proof/Machine/Caches.lean` -/

theorem State.padsCanon.grantOwner {pa tower core key} (hs : s.padsCanon) :
    (grantOwner s pa tower core key).padsCanon :=
  hs.homeRead.own.setDir

theorem State.padsCanon.homeServe {pa tower core key own} (hs : s.padsCanon) :
    (homeServe s pa tower core key own).padsCanon := by
  dsimp only [Machine.homeServe]
  split
  · exact .ite hs.grantOwner hs.readLine
  · exact .ite hs.grantOwner hs.readLine
  · exact hs.readLine
  · exact hs

theorem State.padsCanon.dropCopy {t c pa} (hs : s.padsCanon) : (dropCopy s t c pa).padsCanon :=
  .ite hs.setDir hs.evictLine

theorem State.padsCanon.dropRdc {t pa} (hs : s.padsCanon) : (dropRdc s t pa).padsCanon :=
  .ite hs.setDir hs.evictLine

theorem State.padsCanon.trimTower {n} (hs : s.padsCanon) (e : trimTower s n = some t) : t.padsCanon := by
  unfold Machine.trimTower at e
  extract_lets s1 at e
  have hs1 : s1.padsCanon := hs.of_eq rfl rfl
  clear_value s1
  repeat' split at e
  · cases e; exact hs1.evictLine
  · cases e; exact hs1.dropRdc
  · cases e; exact hs1.evictLine
  · cases e; exact hs1.of_eq rfl rfl
  · cases e; exact hs1.of_eq rfl rfl
  · obtain ⟨_, _, rfl⟩ := Option.map_eq_some_iff.mp e
    exact hs.slotEvict
  · cases e

theorem State.padsCanon.trimCore {n c} (hs : s.padsCanon) (e : trimCore s n c = some t) : t.padsCanon := by
  unfold Machine.trimCore at e
  extract_lets s1 at e
  have hs1 : s1.padsCanon := hs.of_eq rfl rfl
  clear_value s1
  repeat' split at e
  · cases e; exact hs1.dropCopy
  · cases e; exact hs1.of_eq rfl rfl
  · cases e

theorem State.padsCanon.trimmed (hs : s.padsCanon) (e : trimmed s = some t) : t.padsCanon := by
  unfold Machine.trimmed at e
  split at e
  next found =>
    cases e
    obtain ⟨_, _, e⟩ := List.exists_of_findSome?_eq_some found
    exact hs.trimCore e
  next =>
    obtain ⟨_, _, e⟩ := List.exists_of_findSome?_eq_some e
    exact hs.trimTower e

theorem State.padsCanon.leavePage {page} (hs : s.padsCanon) : (leavePage s page).padsCanon := hs.of_eq rfl rfl

/-! ### `Sys2Proof/Machine/Service.lean` -/

theorem State.padsCanon.serviceLine {pa} (hs : s.padsCanon) : (serviceLine s pa).2.padsCanon := hs.memwinLine

theorem State.padsCanon.servicePut {pa n v} (hs : s.padsCanon) : (servicePut s pa n v).padsCanon :=
  hs.serviceLine.writeLine

/-- `serviceLine` is a variable here for the reason given at `State.padsCanon.getQueues`. -/
theorem State.padsCanon.requestSlot {n} (hs : s.padsCanon) : (requestSlot s n).2.padsCanon := by
  obtain ⟨line, hline⟩ : ∃ f, f = Machine.serviceLine := ⟨_, rfl⟩
  have hl {s : State} {pa} (hs : s.padsCanon) : (line s pa).2.padsCanon := hline ▸ hs.serviceLine
  obtain ⟨slot, hslot⟩ : ∃ f, f = Machine.requestSlot := ⟨_, rfl⟩
  rw [← hslot]
  delta Machine.requestSlot at hslot
  rw [← hline] at hslot
  subst hslot
  dsimp only
  exact hl (hl (hl (hl hs)))

theorem State.padsCanon.finishRequest {n status result} (hs : s.padsCanon) :
    (finishRequest s n status result).padsCanon :=
  hs.servicePut.partAdd

/-- `requestSlot` is a variable here for the reason given at `State.padsCanon.getQueues`. -/
theorem State.padsCanon.onRequest {test k} (hs : s.padsCanon)
    (hk : ∀ {x x' : Nat} {t : State}, t.padsCanon → (k x x' t).padsCanon) :
    (onRequest s test k).padsCanon := by
  obtain ⟨slot, hslot⟩ : ∃ f, f = Machine.requestSlot := ⟨_, rfl⟩
  have hr {s : State} {n} (hs : s.padsCanon) : (slot s n).2.padsCanon := hslot ▸ hs.requestSlot
  unfold Machine.onRequest
  rw [← hslot]
  split
  · exact hs
  · exact .ite hs (.ite (hr hs).finishRequest (hk (hr hs)))

theorem State.padsCanon.execRequestNop (hs : s.padsCanon) : Out.padsCanon (execRequestNop s) :=
  hs.onRequest (·.finishRequest)

theorem State.padsCanon.execRequestLaunch (hs : s.padsCanon) : Out.padsCanon (execRequestLaunch s) :=
  hs.onRequest (·.acceptLaunch.finishRequest)

theorem State.padsCanon.execRequestCancel (hs : s.padsCanon) : Out.padsCanon (execRequestCancel s) :=
  hs.onRequest (fun ht => .ite ht.finishRequest ht.cancelLaunch.finishRequest)

theorem State.padsCanon.replyTo {t o r status r0 r1} (hs : s.padsCanon) : (replyTo s t o r status r0 r1).padsCanon := by
  dsimp only [Machine.replyTo]
  split
  · exact hs.farAdd
  · split
    · exact hs
    · exact hs.writeReply.farAdd

theorem State.padsCanon.onCall {t test k} (hs : s.padsCanon)
    (hk : ∀ {x : Nat × Nat × Nat} {x' : BitVec 512} {t : State}, t.padsCanon → (k x x' t).padsCanon) :
    (onCall t s test k).padsCanon := by
  dsimp only [Machine.onCall]
  split
  · exact hs
  · exact .ite (hk hs.partAdd) hs

theorem State.padsCanon.rewindCall {t func target force} (hs : s.padsCanon) :
    (rewindCall t s func target force).padsCanon := by
  dsimp only [Machine.rewindCall]
  split
  · exact hs
  · refine hs.onCall ?_
    intro _ _ _ ht
    split
    · exact ht
    · exact ht.setEntry.freezeLaunch

theorem State.padsCanon.execCallNull {tower} (hs : s.padsCanon) : Out.padsCanon (execCallNull tower s) :=
  hs.onCall (·.replyTo)

theorem State.padsCanon.execCallUndoStep {tower} (hs : s.padsCanon) : Out.padsCanon (execCallUndoStep tower s) :=
  hs.rewindCall

theorem State.padsCanon.execCallUndoTo {tower} (hs : s.padsCanon) : Out.padsCanon (execCallUndoTo tower s) :=
  hs.rewindCall

theorem State.padsCanon.execCallLog {tower} (hs : s.padsCanon) : Out.padsCanon (execCallLog tower s) :=
  hs.onCall (·.logError.replyTo)

theorem State.padsCanon.execCallUndefined {tower} (hs : s.padsCanon) : Out.padsCanon (execCallUndefined tower s) :=
  hs.onCall (·.replyTo)

theorem State.padsCanon.forwardExit {o r m} (hs : s.padsCanon) : (forwardExit s o r m).padsCanon := by
  dsimp only [Machine.forwardExit]
  split
  · exact hs
  · exact hs.logExit

theorem State.padsCanon.execCallHostFwd {tower} (hs : s.padsCanon) : Out.padsCanon (execCallHostFwd tower s) := by
  unfold Machine.execCallHostFwd
  refine State.padsCanon.ite hs (hs.onCall fun ht => ?_)
  extract_lets s1 s2 s3
  have hs3 : s3.padsCanon := ht.forwardExit.servicePut.partAdd
  clear_value s3
  exact hs3.of_eq rfl rfl

theorem State.padsCanon.execHostFwdReply (hs : s.padsCanon) : Out.padsCanon (execHostFwdReply s) := by
  dsimp only [Machine.execHostFwdReply]
  split
  · exact hs
  · exact State.padsCanon.replyTo (hs.serviceLine.of_eq rfl rfl)

/-! ### `Sys2Proof/Machine/Events.lean` -/

theorem State.padsCanon.execXAdmission {h} (hs : s.padsCanon) : Out.padsCanon (execXAdmission h s) :=
  hs.onHart (·.admitNext)

theorem retireOne_pad (h : Hart) : (retireOne h).pad = h.pad := by
  unfold retireOne
  split
  · rfl
  · split
    · rfl
    · exact commitEntry_pad _ h

theorem State.padsCanon.execXRetirement {h} (hs : s.padsCanon) : Out.padsCanon (execXRetirement h s) :=
  State.padsCanon.ite hs (hs.updHart retireOne_pad)

theorem State.padsCanon.arrive (hs : s.padsCanon) : (arrive s).padsCanon := by
  dsimp only [Machine.arrive]
  split
  · next e => exact (hs.arriveOne.pair e).takeTrap
  · next e => exact hs.arriveOne.pair e

theorem State.padsCanon.execVectorLoadArrival {h} (hs : s.padsCanon) : Out.padsCanon (execVectorLoadArrival h s) :=
  hs.onHart (·.arrive)

theorem State.padsCanon.execStoreResolve {h} (hs : s.padsCanon) : Out.padsCanon (execStoreResolve h s) :=
  hs.onHart (·.resolveSome)

theorem State.padsCanon.wordFate {w} (hs : s.padsCanon) : (wordFate s w).padsCanon := hs.raise

/-! ### `Sys2Proof/Machine/Dispatch.lean` -/

theorem State.padsCanon.exec {i} (hs : s.padsCanon) : Out.padsCanon (exec i s) := by
  cases i with
  | nop => exact hs.advance
  | br | brr | call | callr => exact hs.transfer
  | brcEq | brcNe | brcLt | brcGe | brcLtu | brcGeu => exact hs.branchIf
  | brk => exact State.padsCanon.ite hs hs.breakpoint
  | exit => exact State.padsCanon.ite hs.exitX hs.exitA
  | step => exact hs.inA (fun ht => .ite ht.giveWay ht.advance)
  | xstart => exact hs.execXstart
  | add | sub | mul | mulh | mulhu | div | divu | rem | remu | and | or | xor | andn | sll | srl | sra | min | max
  | minu | maxu | slt | sltu | seq | addsh => exact hs.binary
  | sel | li | lih => exact hs.writeReg
  | clz | ctz | popc | addi | andi | ori | slli | srli | srai => exact hs.unary
  | ldB | ldBu | ldH | ldHu | ldW | ldWu | ldD => exact hs.loadScalar
  | stB | stH | stW | stD => exact hs.storeScalar
  | ldl => exact hs.execLdl
  | stl => exact hs.inA fun ht => ht.confirmed fun ht1 => ht1.inShare fun ht2 =>
      .advance (ht2.of_hart ht2.1.spWritePieces rfl)
  | tagr => exact hs.execTagr
  | tagw => exact hs.inA (fun ht => ht.confirmed (fun ht1 => .ite ht1.raise (ht1.notFull (·.pushStore))))
  | pref => exact hs.inA (·.prefetch.advance)
  | vldUnit | vldStrided | vldExplicit | vldffUnit | vldffStrided => exact hs.vectorLoad
  | vldx => exact hs.queueUse (fun ht => ht.lengthKnown (·.gather))
  | vstUnit | vstStrided => exact hs.vectorStoreIssue
  | vstx => exact hs.execVstx
  | vldl => exact hs.execVldl
  | vstl => exact hs.execVstl
  | vspill => exact hs.saveRegs (·.spillLines)
  | vfill => exact hs.saveRegs (·.of_pad rfl)
  | fenceSv | fenceVs | fenceVv => exact hs.fence id
  | fenceAll => exact hs.fence (fun ht => ht.of_eq rfl rfl)
  | lsplit => exact hs.execLsplit
  | qpushA => exact hs.queueInstr (fun ht => .ite ht.qblock (.advance (ht.of_eq rfl rfl))) (·.reserved)
  | qpushX | qpopX | qpopXDiscard => exact hs.queueInstr (·.reserved) (·.issueX)
  | qpopA => exact hs.execQpopA
  | qputs => exact hs.execQputs
  | qgets => exact hs.execQgets
  | qstatData | qstatScalar => exact hs.queueInstr (·.writeReg) (·.writeReg)
  | vsetl | vsetlKeep => exact hs.inX (·.setLength)
  | vadd | vsub | vmul | vfma | vfms | vmin | vmax | vabs | vneg | vdiv | vrcp | vrsqrt | vand | vor | vxor | vshl
  | vshr | vsel | vmov | vsplat | vext | vins | vredsum | vredmax | vredmin | vcmpEq | vcmpNe | vcmpLt | vcmpLe
  | vcmpGt | vcmpGe | vcmpUn | vcmpOr | viota | vslideup | vslidedn | vperm | mand | mor | mxor | mandn | mnot | mpopc
  | mfirst | vtag | vgtag | vcvt | vscale | vunrot => exact hs.vectorIssue
  | mmode => exact State.padsCanon.ite hs.illegalStream (.ite hs.illegalInstr hs.matrixIssue)
  | mzero | opadd | opsub | mrd | mwr | mtr => exact hs.matrixOther
  | cadd => exact hs.inA (fun ht => ht.counterInstr (·.advance))
  | cxadd | crd | ctst => exact hs.inA (fun ht => ht.counterInstr (·.writeReg))
  | cwait => exact hs.inA (fun ht => ht.confirmed (fun ht1 => .ite ht1.writeReg (ht1.accessedBy (·.startWait))))
  | cset => exact hs.inA (fun ht => ht.needPriv (fun ht1 => ht1.counterInstr (·.writeReg)))
  | atomAdd | atomMin | atomMax | atomAnd | atomOr | atomXor | atomSwap | cas => exact hs.inA (·.atomic)
  | vatom | vatomOi => exact hs.vatomForm
  | sluice => exact hs.inA (fun ht => ht.engineInstr (·.sluiceRecord))
  | panc => exact hs.inA (fun ht => ht.engineInstr (·.panRecord))
  | rcode => exact hs.inA (fun ht => ht.needPriv (fun ht1 => ht1.engineInstr (·.recodeRecord)))
  | launch => exact hs.execLaunch
  | cancel => exact hs.inA (fun ht => ht.confirmed (fun ht1 => .ite ht1.writeReg ht1.cancelLaunch.writeReg))
  | strip => exact hs.execStrip
  | csrr | csrw | csrs | csrc => exact hs.csrInstr
  | csrwi => exact hs.inA (·.csrInstr)
  | eret => exact hs.inA (fun ht => .ite ht.illegalInstr (ht.ordered (·.returnTrap)))
  | scall | scallNb => exact hs.inA (·.callInstr)
  | wmark => exact hs.execWmark
  | tlbiVa | tlbiAsid | tlbiAll => exact hs.tlbi
  | bkpt => exact hs.execBkpt
  | ptset => exact hs.execPtset
  | ptget => exact hs.inA (fun ht => ht.confirmed (·.writeReg))
  | sdrain => exact hs.inA (fun ht => ht.confirmed (fun ht1 => ht1.drained id (·.advance)))
  | xAdmission => exact hs.execXAdmission
  | vectorLoadArrival => exact hs.execVectorLoadArrival
  | storeResolve => exact hs.execStoreResolve
  | walkComplete => exact State.padsCanon.ite hs hs.walkFill
  | tlbiCompletionAdd => exact hs.execTlbiCompletionAdd
  | homeRequest => exact State.padsCanon.ite hs hs.homeServe
  | counterCacheEviction => exact State.padsCanon.ite hs hs.slotEvict
  | leaveGrant => exact hs.execLeaveGrant
  | dutyUpdate => exact State.padsCanon.ite hs.updGov hs
  | callNull => exact hs.execCallNull
  | callUndoStep => exact hs.execCallUndoStep
  | callUndoTo => exact hs.execCallUndoTo
  | callHostFwd => exact hs.execCallHostFwd
  | callLog => exact hs.execCallLog
  | callUndefined => exact hs.execCallUndefined
  | softPreemptStop => exact hs.execSoftPreemptStop
  | preemptTimeout => exact hs.execPreemptTimeout
  | qblockHardPreempt => exact hs.execQblockHardPreempt
  | killStop => exact hs.execKillStop
  | killTimeout => exact hs.execKillTimeout
  | parkSaveComplete => exact hs.execParkSaveComplete
  | cwaitWake => exact hs.wakeStream
  | cwaitTimeout => exact hs.execCwaitTimeout
  | cwaitFullPoll => exact hs.execCwaitFullPoll
  | hostCounterPoll => exact hs.execHostCounterPoll
  | waiterPoll => exact hs.pollWaiter
  | wmarkCollectiveComplete => exact hs.execWmarkCollectiveComplete
  | rewind => exact hs.execRewind
  | sluiceCopy => exact hs.execSluiceCopy
  | sluiceAppend => exact hs.execSluiceAppend
  | sluiceLineDelivered => exact hs.execSluiceLineDelivered
  | panGemv => exact hs.execPanGemv
  | panAxpby => exact hs.execPanAxpby
  | panFill => exact hs.execPanFill
  | panCommandEnd => exact hs.execPanCommandEnd
  | recodeJobStart => exact hs.execRecodeJobStart
  | recodeGuardDone => exact hs.execRecodeGuardDone
  | recodeLinesDone => exact hs.execRecodeLinesDone
  | recodeShootDone => exact hs.execRecodeShootDone
  | surveyDump => exact hs.execSurveyDump
  | surveyDumpDone => exact hs.execSurveyDumpDone
  | breakpointHit => exact hs.execBreakpointHit
  | xRetirement => exact hs.execXRetirement
  | countedCycle => exact hs.updHart countCycle_pad
  | surveyBufferRecord => exact hs.recordCycle
  | illegalOp => exact hs.wordFate
  | l2Eviction | snoopFilterEviction => exact State.padsCanon.ite hs hs.evictLine
  | hostSnoop => exact hs.execHostSnoop
  | thermalStep => exact State.padsCanon.ite hs (.ite hs.thermalCritical hs.updGov)
  | thermalCritical => exact State.padsCanon.ite hs.thermalCritical hs
  | pwrcapWrite | leasecfgWrite | renew | claim | release | rqbaseWrite | rqentWrite | stage | switch | discard
  | fwreadyWrite | preservingReset | coldReset => exact hs.cfgWrite
  | govstatWrite | interruptWaiterWrite => exact State.padsCanon.ite hs.cfgWrite hs
  | hostPortTrain => exact State.padsCanon.ite hs (hs.of_eq rfl rfl)
  | flitReceive => exact .ite hs (.ite hs.fatalLink (.ite (.ite hs.fatalLink hs.updLink.emit) hs.updLink.takeMsgs))
  | laneLockLoss => exact State.padsCanon.ite hs.fatalLink hs
  | peerRequest => exact hs.execPeerRequest
  | remoteWake => exact State.padsCanon.ite hs hs.remoteWakeOp
  | containmentMessage => exact hs.markUnreachable
  | hostLinkDown => exact State.padsCanon.ite (.enterContained (hs.of_eq rfl rfl)) hs
  | cxlViralIndication => exact hs.enterContained
  | memoryPortLinkDown => exact State.padsCanon.ite hs.enterContained hs
  | controlStructureError => exact hs.execControlStructureError
  | memwinRead | memwinWrite | hostAtomicOp => exact hs.hostAccess
  | cfgwinWrite => exact State.padsCanon.ite hs.hostAccess hs.cfgWrite
  | bootStep => exact hs.execBootStep
  | getVersion | getCapabilities | negotiateAlgorithms | getDigests | getCertificate | challenge | getMeasurements
  | spdmUnsupported => exact hs.spdmAnswer
  | leaseExpiry => exact hs.execLeaseExpiry
  | hostCounterAdd => exact State.padsCanon.ite hs.hostAccess hs
  | hostCounterRead => exact State.padsCanon.ite hs.windowTouch.emit hs
  | requestNop => exact hs.execRequestNop
  | requestLaunch => exact hs.execRequestLaunch
  | requestCancel => exact hs.execRequestCancel
  | hostFwdReply => exact hs.execHostFwdReply
  | fwMeasureDone => exact hs.execFwMeasureDone
  | fwDrainEnd => exact hs.execFwDrainEnd
  | fwReadyTimeout => exact hs.execFwReadyTimeout
  | resetPin => exact State.padsCanon.coldOp
  | selectionPass => exact State.padsCanon.ite hs.selectionPass hs
  | svctlWrite => exact hs.of_eq (svctlSet_pad _ _) rfl
  | sbctlWrite => exact hs.updBuf
  | freeze | freezeSoft => exact State.padsCanon.ite hs.freezeCommand hs
  | thaw => exact State.padsCanon.ite hs.thawCommand hs
  | undoStep => exact hs.execUndoStep
  | undoTo => exact hs.execUndoTo
  | keyhiWrite => exact hs.keyhiSet
  | cgdatWrite => exact hs.cgdatSet
  | tendatWrite => exact hs.tendatSet
  | peerdatWrite => exact hs.peerdatSet
  | flappWrite => exact hs.flappSet
  | cfgdatWrite => exact hs.execCfgdatWrite
  | zalarnLinkTrain => exact State.padsCanon.ite hs.updLink hs

/-! ### `Sys2Proof/Machine/Turn.lean` -/

theorem State.padsCanon.atStream {id onX} (hs : s.padsCanon) : (s.at id onX).padsCanon := hs.focus.of_eq rfl rfl

theorem State.padsCanon.runWord {w} (hs : s.padsCanon) : Out.padsCanon (runWord w s) := by
  dsimp only [Machine.runWord]
  split
  · exact .ite hs hs.exec
  · exact hs.exec

theorem State.padsCanon.issueWord (hs : s.padsCanon) : Out.padsCanon (issueWord s) := by
  dsimp only [Machine.issueWord]
  split
  · exact hs.enterBlock
  · exact hs.reloadBlock
  · split
    · exact hs.runWord
    · exact hs

theorem State.padsCanon.afterTurn (ht : t.padsCanon) : (afterTurn s t).padsCanon :=
  ht.updHart fun h => by split <;> rfl

theorem State.padsCanon.fallChecked (hs : s.padsCanon) (ht : t.padsCanon) : (fallChecked s t).padsCanon := by
  dsimp only [Machine.fallChecked]
  split
  · exact ht
  · split
    · next e2 => exact .ite ht ((hs.fetchAt.pair e2).raise)
    · exact ht

theorem State.padsCanon.endTurn (hs : s.padsCanon) (ht : t.padsCanon) : (endTurn s t).padsCanon :=
  .ite hs (hs.fallChecked ht).afterTurn

theorem State.padsCanon.issueStream (hs : s.padsCanon) : Out.padsCanon (issueStream s) :=
  hs.issueWord.mapOut hs.endTurn

theorem State.padsCanon.issueTurn (hs : s.padsCanon) : Out.padsCanon (issueTurn s) := by
  dsimp only [Machine.issueTurn]
  split
  · exact hs.issueStream
  · split
    · exact hs.takeTrap
    · split
      · exact hs.resolveAt
      · exact hs.issueStream

theorem State.padsCanon.noteMove {id w} (ht : t.padsCanon) : (noteMove s id w t).padsCanon := by
  dsimp only [Machine.noteMove]
  split
  · exact ht
  · split
    · exact ht
    · exact ht.updBuf

theorem State.padsCanon.noteWake {i} (ht : t.padsCanon) : (noteWake i t).padsCanon := by
  dsimp only [Machine.noteWake]
  split
  · exact .ite ht.updBuf ht
  · exact ht

theorem State.padsCanon.tick (hs : s.padsCanon) : (tick s).padsCanon := by
  unfold Machine.tick
  extract_lets s1 s2
  have hs1 : s1.padsCanon := hs.foldl (·.recordCycle)
  clear_value s1
  have hs2 : s2.padsCanon := hs1.of_eq rfl rfl
  exact .ite hs2 (.tenantCycle (hs2.mapHarts countCycle_pad rfl rfl))

theorem State.padsCanon.polls (hs : s.padsCanon) : (polls s).padsCanon := by
  dsimp only [Machine.polls]
  refine .foldl ?_ (·.pollWaiter)
  refine hs.foldl ?_
  intro _ _ ht
  split
  · next e => exact ht.execHostCounterPoll.next e
  · exact ht

theorem State.padsCanon.clockWork (hs : s.padsCanon) : (clockWork s).padsCanon :=
  .ite (.ite hs.updGovs hs) (.selectionPass (.ite (.polls (.ite hs.updGovs hs)) (.ite hs.updGovs hs)))

theorem State.padsCanon.engineMove {id} (hs : s.padsCanon) : Out.padsCanon (engineMove s id) := by
  dsimp only [Machine.engineMove]
  split
  · exact hs
  · split
    · exact .ite hs.execSluiceLineDelivered (.ite hs.execSluiceAppend hs.execSluiceCopy)
    · split
      · exact hs.execPanCommandEnd
      · split
        · exact hs.execPanGemv
        · exact hs.execPanAxpby
        · exact hs.execPanFill
    · split
      · exact hs.execRecodeJobStart
      · exact hs.execRecodeGuardDone
      · exact hs.execRecodeLinesDone
      · exact hs.execRecodeLinesDone
      · exact hs.execRecodeShootDone

theorem State.padsCanon.callMove {t} (hs : s.padsCanon) : Out.padsCanon (callMove s t) := by
  dsimp only [Machine.callMove]
  split
  · exact hs
  · split
    · exact hs.execCallNull
    · exact hs.execCallUndoStep
    · exact hs.execCallUndoTo
    · exact hs.execCallHostFwd
    · exact hs.execCallLog
    · exact hs.execCallUndefined

theorem State.padsCanon.requestMove (hs : s.padsCanon) : Out.padsCanon (requestMove s) := by
  dsimp only [Machine.requestMove]
  split
  · exact hs
  · split
    · exact hs.execRequestLaunch
    · exact hs.execRequestCancel
    · exact hs.execRequestNop

theorem State.padsCanon.controlMove {t} (hs : s.padsCanon) : Out.padsCanon (controlMove s t) :=
  State.padsCanon.execControlStructureError (hs.of_eq rfl rfl)

theorem State.padsCanon.noteIssue (ht : t.padsCanon) : (noteIssue s t).padsCanon := ht.noteMove

theorem State.padsCanon.issueMove {id onX} (hs : s.padsCanon) : Out.padsCanon (issueMove s id onX) :=
  hs.atStream.issueTurn.mapOut (·.noteIssue)

theorem State.padsCanon.trim (hs : s.padsCanon) : ((Machine.trimmed s).getD s).padsCanon := by
  cases e : Machine.trimmed s with
  | none => exact hs
  | some t => exact hs.trimmed e

theorem State.padsCanon.run {a : Act} (hs : s.padsCanon) : Out.padsCanon (a.run s) := by
  dsimp only [Act.run]
  split
  · exact hs.execBootStep
  · exact hs.clockWork
  · exact hs.execLeaseExpiry
  · exact hs.endDebug
  · exact hs.execBreakpointHit
  · exact hs.execCwaitFullPoll
  · exact hs.execCwaitTimeout
  · exact .ite hs.execKillTimeout hs.execPreemptTimeout
  · exact hs.execFwMeasureDone
  · exact hs.execFwDrainEnd
  · exact hs.execFwReadyTimeout
  · exact hs.controlMove
  · exact hs.trim
  · exact hs.execLeaveGrant
  · exact hs.execSurveyDump
  · exact hs.execSurveyDumpDone
  · exact hs.callMove
  · exact hs.requestMove
  · exact hs.execHostFwdReply
  · exact hs.execTlbiCompletionAdd
  · exact .ite hs.execUndoStep hs.execUndoTo
  · exact hs.resumeAccess
  · exact hs.leavePage
  · exact hs.execWmarkCollectiveComplete
  · exact hs.execRewind
  · exact hs.engineMove
  · exact hs.execVectorLoadArrival.mapOut (·.noteMove)
  · exact hs.execStoreResolve
  · exact hs.execXRetirement
  · exact hs.execXAdmission.mapOut (·.noteMove)
  · exact hs.execParkSaveComplete
  · exact .ite hs.execKillStop hs.execSoftPreemptStop
  · exact hs.execQblockHardPreempt
  · exact hs.issueMove

theorem State.padsCanon.takeRead (hs : s.padsCanon) : Out.padsCanon (takeRead s) := by
  dsimp only [Machine.takeRead]
  split
  · exact State.padsCanon.hostReadOp (hs.of_eq rfl rfl)
  · exact hs

theorem State.padsCanon.dueMove {ds} (hs : s.padsCanon) : Out.padsCanon (dueMove s ds) :=
  State.padsCanon.run (hs.of_eq rfl rfl)

theorem State.padsCanon.openMove {as} (hs : s.padsCanon) : Out.padsCanon (openMove s as) :=
  State.padsCanon.run (hs.of_eq rfl rfl)

theorem State.padsCanon.turn (hs : s.padsCanon) : Out.padsCanon (turn s) := by
  dsimp only [Machine.turn]
  split
  · exact hs.tick
  · exact hs.run.mapOut (·.tick)
  · exact .mapOut (.ite hs.openMove hs.dueMove) (·.tick)

/-! ### `Sys2Proof/Machine/Step.lean` -/

theorem State.padsCanon.step (hs : s.padsCanon) : Out.padsCanon (step s) := by
  dsimp only [Machine.step]
  split
  · exact .ite hs.takeRead (.mapOut (State.padsCanon.exec (hs.of_eq rfl rfl)) (·.noteWake))
  · exact hs.takeRead
  · exact hs.turn

end Sys2Proof.Machine

open Sys2Proof.Machine

/-- Settles O21: each function that `step` reaches keeps every hart's scratchpad and its tags canonical. -/
theorem stepKeepsScratchpadsCanonical : Obligations.StepKeepsScratchpadsCanonical := by
  intro s t hs e
  exact State.padsCanon_iff.mp ((State.padsCanon_iff.mpr hs).step.next e)

end

section
/-! The scratchpad as its owner reads and writes it (R143, R369): the bytes and the class of a line after a write of some
of its bytes, a read and a write of some bytes in one line or across two, then the settlement of O20. -/

namespace Sys2Proof.Machine

variable {s : State} {h : Hart} {w off n v : Nat}

/-! ### Bytes of numbers -/

/-- Byte i of what memory holds. -/
theorem byte_readMem (m : List Host.Cell) {pa n i : Nat} (hi : i < n) :
    BitVec.ofNat 8 (readMem m pa n / 256 ^ i) = SMap.get 0#8 m (pa + i) := by
  induction n generalizing pa i with
  | zero => exact absurd hi (Nat.not_lt_zero i)
  | succ n ih =>
    cases i with
    | zero => simpa [readMem] using byte_add_shifted (SMap.get 0#8 m pa) (readMem m (pa + 1) n)
    | succ i =>
      rw [readMem, div_pow_succ_add_shifted, ih (Nat.lt_of_succ_lt_succ hi)]
      congr 1
      omega

theorem extractLsb'_eq_byte (x : Word) (k : Nat) : x.extractLsb' (8 * k) 8 = BitVec.ofNat 8 (x.toNat / 256 ^ k) := by
  apply BitVec.eq_of_toNat_eq
  rw [BitVec.extractLsb'_toNat, Nat.shiftRight_eq_div_pow, Nat.pow_mul, BitVec.toNat_ofNat]

theorem extractLsb'_ofNat_byte (v : Nat) {k : Nat} (hk : k < 8) :
    (BitVec.ofNat 64 v).extractLsb' (8 * k) 8 = BitVec.ofNat 8 (v / 256 ^ k) := by
  apply BitVec.eq_of_getLsbD_eq
  intro j hj
  rw [BitVec.getLsbD_extractLsb', BitVec.getLsbD_ofNat, getLsbD_byte _ _ _ hj]
  simp [hj, show 8 * k + j < 64 by omega]

/-- Byte i of n bytes from offset o of a number, followed by other bytes. -/
theorem byte_slice_append (x o n r i : Nat) :
    BitVec.ofNat 8 ((x / 2 ^ (8 * o) % 2 ^ (8 * n) + 2 ^ (8 * n) * r) / 256 ^ i) =
      if i < n then BitVec.ofNat 8 (x / 256 ^ (o + i)) else BitVec.ofNat 8 (r / 256 ^ (i - n)) := by
  apply BitVec.eq_of_getLsbD_eq
  intro j hj
  rw [getLsbD_byte _ _ _ hj, Nat.add_comm (x / _ % _), Nat.testBit_two_pow_mul_add _ (Nat.mod_lt _ (Nat.two_pow_pos _))]
  split
  · next hlt =>
    rw [if_pos (by omega), getLsbD_byte _ _ _ hj, Nat.testBit_mod_two_pow, Nat.testBit_div_two_pow, Nat.mul_add]
    simp [show 8 * i + j < 8 * n by omega, show 8 * i + j + 8 * o = 8 * o + 8 * i + j by omega]
  · next hge =>
    rw [if_neg (by omega), getLsbD_byte _ _ _ hj, show 8 * i + j - 8 * n = 8 * (i - n) + j by omega]

/-! ### Reading -/

theorem spTagAt_same_line {a b : Nat} (e : a / 64 = b / 64) : h.spTagAt a = h.spTagAt b := by
  rw [Hart.spTagAt, Hart.spTagAt, e]

theorem spLine_same_line {a b : Nat} (e : a / 64 = b / 64) : h.spLine a = h.spLine b := by
  rw [Hart.spLine, Hart.spLine, spTagAt_same_line e, e]

theorem spSeen_of_pad {g : Hart} (e : g.pad = h.pad) {a : Nat} : g.spSeen a = h.spSeen a := by
  simp only [Hart.pad, Prod.mk.injEq] at e
  obtain ⟨hsp, htag, hdef⟩ := e
  rw [Hart.spSeen, Hart.spSeen, Hart.spTagAt, Hart.spTagAt, hsp, htag, hdef]

/-- A scratchpad line holds the bytes that the part reads there. -/
theorem byte_spLine (a : Nat) : BitVec.ofNat 8 ((h.spLine a).bytes / 256 ^ (a % 64)) = h.spSeen a := by
  have hb := byte_readMem h.sp (pa := a / 64 * 64) (Nat.mod_lt a (by decide : 64 > 0))
  rw [Nat.div_add_mod'] at hb
  rw [LineVal.bytes, Hart.spSeen, ← hb]
  by_cases hu : tagVc (h.spTagAt a) = .uninit
  · rw [if_pos hu, if_pos (by exact hu)]
    simp
  · rw [if_neg hu, if_neg (by exact hu)]
    rfl

/-- A read of some bytes in one line or across two, neither POISON nor UNRESTORED (R369). -/
theorem spReadPieces_spPieces (hn : n ≤ 64) (h0 : 0 < n) (hgood : ∀ k, k < n → vcBad (tagVc (h.spTagAt (off + k))) = false) :
    ∃ v, spReadPieces h (spPieces off n) = some v ∧ ∀ k, k < n → BitVec.ofNat 8 (v / 256 ^ k) = h.spSeen (off + k) := by
  have hline {a k : Nat} (hk : a % 64 + k < 64) :
      BitVec.ofNat 8 ((h.spLine a).bytes / 256 ^ (a % 64 + k)) = h.spSeen (a + k) := by
    rw [← byte_spLine (a + k), spLine_same_line (a := a + k) (b := a) (by omega), show (a + k) % 64 = a % 64 + k by omega]
  have hfirst : vcBad (tagVc (h.spLine off).tag) = false := hgood 0 h0
  by_cases hone : off % 64 + n ≤ 64
  · refine ⟨_, by rw [spPieces, if_pos hone, spReadPieces, hfirst]; rfl, fun k hk => ?_⟩
    rw [byte_slice_append, if_pos hk, hline (by omega)]
  · have hsecond : vcBad (tagVc (h.spLine (off + (64 - off % 64))).tag) = false := hgood (64 - off % 64) (by omega)
    refine ⟨_, by rw [spPieces, if_neg hone, spReadPieces, hfirst, spReadPieces, hsecond]; rfl, fun k hk => ?_⟩
    rw [byte_slice_append]
    split
    · exact hline (by omega)
    · next hge =>
      rw [byte_slice_append, if_pos (by omega), hline (by omega)]
      congr 1
      omega

/-! ### Writing -/

theorem spTagAt_setSpLine (hh : h.spCanon) (d : Nat) (t : BitVec 32) (a : Nat) :
    (h.setSpLine off d t).spTagAt a = if a / 64 = off / 64 then t else h.spTagAt a := by
  rw [Hart.spTagAt, setSpLine_spDef, setSpLine_spTag, SMap.get_set hh.2]
  rfl

/-- A write of a line gives it its bytes and leaves those of the others. -/
theorem sp_setSpLine (hh : h.spCanon) (d : Nat) (t : BitVec 32) (a : Nat) :
    SMap.get 0#8 (h.setSpLine off d t).sp a =
      if a / 64 = off / 64 then BitVec.ofNat 8 (d / 256 ^ (a % 64)) else SMap.get 0#8 h.sp a := by
  rw [setSpLine_sp]
  by_cases e : a / 64 = off / 64
  · have hb := get_writeMem_inside (off / 64 * 64) d 64 (a % 64) hh.1 (Nat.mod_lt a (by decide))
    rw [← e, Nat.div_add_mod'] at hb
    rw [if_pos e, ← e, hb]
  · have hb := get_writeMem_outside (off / 64 * 64) d 64 a hh.1 (by omega)
    rw [if_neg e, hb]

theorem spSeen_setSpLine (hh : h.spCanon) (d : Nat) (t : BitVec 32) (a : Nat) :
    (h.setSpLine off d t).spSeen a =
      if a / 64 = off / 64 then (if tagVc t = .uninit then 0 else BitVec.ofNat 8 (d / 256 ^ (a % 64))) else h.spSeen a := by
  rw [Hart.spSeen, spTagAt_setSpLine hh, sp_setSpLine hh]
  split
  · rfl
  · rfl

/-- A tag made of its fields has the class given. -/
theorem tagVc_mkTag_whole (fmt : Nat) (vc : Vc) (hrot sc0 sc1 : Nat) : tagVc (mkTag fmt vc hrot sc0 sc1) = vc := by
  have hcode : fieldOf (mkTag fmt vc hrot sc0 sc1).toNat 6 5 = vcCode vc := by
    have hvc : vcCode vc < 4 := by cases vc <;> decide
    simp only [mkTag, BitVec.toNat_ofNat, fieldOf, Nat.shiftRight_eq_div_pow]
    omega
  rw [tagVc, hcode]
  cases vc <;> rfl

/-- A line written in part is not UNINIT after (R369). -/
theorem tagVc_scalarTag (f : Nat) (t : BitVec 32) : tagVc (scalarTag f t) ≠ .uninit := by
  unfold scalarTag
  split
  · rw [tagVc_mkTag_whole]
    decide
  · assumption

/-- The write of n bytes within one line of the scratchpad (R369). -/
def spWritePiece (h : Hart) (off n v : Nat) : Hart :=
  h.setSpLine off (putBytes (h.spLine off).bytes (off % 64) n v) (scalarTag h.a.vfmt.toNat (h.spLine off).tag)

theorem sp_spWritePiece (hh : h.spCanon) (_ : off % 64 + n ≤ 64) {k : Nat} (hk : k < n) :
    SMap.get 0#8 (spWritePiece h off n v).sp (off + k) = BitVec.ofNat 8 (v / 256 ^ k) := by
  rw [spWritePiece, sp_setSpLine hh, if_pos (by omega), byte_putBytes, if_pos (by omega)]
  congr 3
  omega

/-- A write within a line leaves the bytes of every other line. -/
theorem sp_spWritePiece_other (hh : h.spCanon) {a : Nat} (ha : a / 64 ≠ off / 64) :
    SMap.get 0#8 (spWritePiece h off n v).sp a = SMap.get 0#8 h.sp a := by
  rw [spWritePiece, sp_setSpLine hh, if_neg ha]

/-- A write within a line leaves what the part reads beside its bytes: an UNINIT line has read as zero and is zero. -/
theorem spSeen_spWritePiece (hh : h.spCanon) {a : Nat} (ha : a < off ∨ off + n ≤ a) :
    (spWritePiece h off n v).spSeen a = h.spSeen a := by
  rw [spWritePiece, spSeen_setSpLine hh]
  split
  · next e =>
    rw [if_neg (tagVc_scalarTag _ _), byte_putBytes, if_neg (by omega), ← spLine_same_line e, byte_spLine]
  · rfl

/-- A write of some bytes in one line or across two (R369): those bytes are written, and every other reads as before. -/
theorem spWritePieces_spPieces (hh : h.spCanon) (hn : n ≤ 64) :
    (∀ k, k < n → SMap.get 0#8 (spWritePieces (spPieces off n) v h).sp (off + k) = BitVec.ofNat 8 (v / 256 ^ k)) ∧
    ∀ a, a < off ∨ off + n ≤ a → (spWritePieces (spPieces off n) v h).spSeen a = h.spSeen a := by
  by_cases hone : off % 64 + n ≤ 64
  · have hrun : spWritePieces (spPieces off n) v h = spWritePiece h off n v := by
      rw [spPieces, if_pos hone]
      rfl
    rw [hrun]
    exact ⟨fun k hk => sp_spWritePiece hh hone hk, fun a ha => spSeen_spWritePiece hh ha⟩
  · let m := 64 - off % 64
    have hrun : spWritePieces (spPieces off n) v h =
        spWritePiece (spWritePiece h off m v) (off + m) (n - m) (v / 2 ^ (8 * m)) := by
      rw [spPieces, if_neg hone]
      rfl
    have hh1 : (spWritePiece h off m v).spCanon := hh.setSpLine
    have hsecond : (off + m) % 64 + (n - m) ≤ 64 := by
      omega
    rw [hrun]
    refine ⟨fun k hk => ?_, fun a ha => ?_⟩
    · by_cases hk1 : k < m
      · rw [sp_spWritePiece_other hh1 (by omega), sp_spWritePiece hh (by omega) hk1]
      · have hk2 := sp_spWritePiece (v := v / 2 ^ (8 * m)) hh1 (off := off + m) (n := n - m) hsecond (k := k - m) (by omega)
        rw [show off + m + (k - m) = off + k by omega] at hk2
        rw [hk2, Nat.div_div_eq_div_mul, Nat.pow_mul, ← Nat.pow_add, show m + (k - m) = k by omega]
    · rw [spSeen_spWritePiece hh1 (by omega), spSeen_spWritePiece hh (by omega)]

theorem setSpLine_with_pad (d : Nat) (t : BitVec 32) (m : List Host.Cell) (g : SMap (BitVec 32)) :
    { h.setSpLine off d t with sp := m, spTag := g } = { h with sp := m, spTag := g } := by
  unfold Hart.setSpLine
  generalize 64 = n
  rfl

theorem exists_spWritePieces_eq (ps : List (Nat × Nat)) (v : Nat) (h : Hart) :
    ∃ m g, spWritePieces ps v h = { h with sp := m, spTag := g } := by
  induction ps generalizing v h with
  | nil => exact ⟨_, _, rfl⟩
  | cons p ps ih =>
    obtain ⟨m, g, e⟩ := ih (v / 2 ^ (8 * p.2)) (spWritePiece h p.1 p.2 v)
    exact ⟨m, g, e.trans (setSpLine_with_pad _ _ m g)⟩

/-- A write of the scratchpad changes it and the tags of its lines alone. -/
theorem spWritePieces_eq (ps : List (Nat × Nat)) (v : Nat) (h : Hart) :
    spWritePieces ps v h = { h with sp := (spWritePieces ps v h).sp, spTag := (spWritePieces ps v h).spTag } := by
  obtain ⟨m, g, e⟩ := exists_spWritePieces_eq ps v h
  rw [e]

/-! ### LDL and STL -/

theorem setCur_pad (u : Stream) : (s.setCur u).h.pad = s.h.pad := by
  unfold State.setCur
  split <;> rfl

/-- Moving on leaves the scratchpad. -/
theorem advance_pad (s : State) : s.advance.h.pad = s.h.pad := by
  obtain ⟨u, e⟩ := advance_eq_setCur s
  rw [e, setCur_pad]

/-- An instruction that has changed the scratchpad moves on. -/
theorem ran_advance_of_pad {g : Hart} (hat : AtWord s w) (hg : g = { s.h with sp := g.sp, spTag := g.spTag }) :
    let t := ({ s with h := g } : State).advance
    Ran { s with h := { s.h with sp := t.h.sp, spTag := t.h.spTag } } t w := by
  have hp := advance_pad { s with h := g }
  simp only [Hart.pad, Prod.mk.injEq] at hp
  obtain ⟨hsp, htag, -⟩ := hp
  dsimp only
  rw [hsp, htag, ← hg]
  refine advance_ran ?_
  have ha : g.a = s.h.a := (congrArg Hart.a hg :)
  have hx : g.x = s.h.x := (congrArg Hart.x hg :)
  simpa only [AtWord, State.cur, ha, hx] using hat

theorem inShare_within {k : State → State} {va : Word} (hn : va.toNat + n ≤ s.h.share) : inShare s va n k = k s := by
  simp [inShare, Hart.spOk, hn]

theorem inShare_beyond {k : State → State} {va : Word} (hx : s.onX = false) (hn : s.h.share < va.toNat + n) :
    inShare s va n k = takeTrap s ⟨false, causeLSRANGE, 12, 0, va⟩ := by
  rw [inShare, Hart.spOk, decide_eq_false (Nat.not_le.mpr hn), if_neg Bool.false_ne_true, raise_onA hx]

variable {d a : BitVec 6} {i : BitVec 12}

theorem exec_ldl_within (hs : ReadyA s w) (hn : (memAddr s a i).toNat + 8 ≤ s.h.share)
    (hv : spReadPieces s.h (spPieces (memAddr s a i).toNat 8) = some v) :
    exec (.ldl d a i) s = .next (s.writeReg d (BitVec.ofNat 64 v)) := by
  simp only [exec, execLdl, inA_ready hs, inShare_within hn, hv]

theorem exec_stl_within (hs : ReadyA s w) (hn : (memAddr s a i).toNat + 8 ≤ s.h.share) :
    exec (.stl d a i) s = .next ({ s with
      h := spWritePieces (spPieces (memAddr s a i).toNat 8) (s.reg d.toNat).toNat s.h } : State).advance := by
  simp only [exec, execStl, inA_ready hs, confirmed_ready hs, inShare_within hn]

theorem exec_ldl_beyond (hs : ReadyA s w) (hn : s.h.share < (memAddr s a i).toNat + 8) :
    exec (.ldl d a i) s = .next (takeTrap s ⟨false, causeLSRANGE, 12, 0, memAddr s a i⟩) := by
  simp only [exec, execLdl, inA_ready hs, inShare_beyond hs.1 hn]

theorem exec_stl_beyond (hs : ReadyA s w) (hn : s.h.share < (memAddr s a i).toNat + 8) :
    exec (.stl d a i) s = .next (takeTrap s ⟨false, causeLSRANGE, 12, 0, memAddr s a i⟩) := by
  simp only [exec, execStl, inA_ready hs, confirmed_ready hs, inShare_beyond hs.1 hn]

end Sys2Proof.Machine

open Sys2Proof Sys2Proof.Machine

/-- Settles O20: an access is one or two pieces, each within a line, and a piece is read and written as `byte_spLine` and
`sp_spWritePiece` say. -/
theorem scratchpadScalars : Obligations.ScratchpadScalars := by
  intro s w d a i hs hh off
  refine ⟨fun hn => ⟨fun hgood => ?ldl, ?stl⟩, fun hn => ⟨exec_ldl_beyond hs hn, exec_stl_beyond hs hn⟩⟩
  case ldl =>
    obtain ⟨v, hv, hbytes⟩ := spReadPieces_spPieces (by decide) (by decide) hgood
    refine ⟨_, BitVec.ofNat 64 v, exec_ldl_within hs hn hv, writeReg_wrote (atWord_ready hs) (canWrite_ready hs) d _,
      fun k hk => ?_⟩
    rw [extractLsb'_ofNat_byte v hk, hbytes k hk]
  case stl =>
    let value := (s.reg d.toNat).toNat
    obtain ⟨hbytes, hframe⟩ := spWritePieces_spPieces (off := off) (v := value) hh (by decide : 8 ≤ 64)
    have hcanon : (spWritePieces (spPieces off 8) value s.h).spCanon := hh.spWritePieces
    have hrun : exec (.stl d a i) s =
        .next ({ s with h := spWritePieces (spPieces off 8) value s.h } : State).advance := exec_stl_within hs hn
    have hkeep := spWritePieces_eq (spPieces off 8) value s.h
    generalize spWritePieces (spPieces off 8) value s.h = g at hbytes hframe hcanon hrun hkeep
    have hpad := advance_pad { s with h := g }
    refine ⟨_, hrun, ran_advance_of_pad (atWord_ready hs) hkeep, hcanon.of_pad hpad, fun k hk => ?_, fun b hb => ?_⟩
    · rw [extractLsb'_eq_byte]
      exact (congrArg (fun p => SMap.get 0#8 p.1 (off + k)) hpad).trans (hbytes k hk)
    · exact (spSeen_of_pad hpad).trans (hframe b hb)

end

section
/-! The length of a vector, and the boundary of the scratchpad (R143, R145, R384, R387): what VSETL grants, what the
scratchpad holds after a move of its boundary, then the settlement of O28. -/

namespace Sys2Proof.Machine

variable {s t : State} {h : Hart} {w : Nat}

/-! ### VSETL (R387) -/

section
variable {d f : BitVec 5} {a : BitVec 6}

/-- A length is granted in a defined format: the lesser of the request and of what a register holds. -/
theorem setLength_wrote (hx : s.onX = true) (hat : AtWord s w) (hw : s.canWrite = true) (hf : fmtDefined f.toNat = true) :
    let n := Nat.min (s.reg a.toNat).toNat (vlmax s.h.joined f.toNat)
    Wrote { s with h := { s.h with x := { s.h.x with vl := BitVec.ofNat 13 n, vfmt := f } } } (setLength d a f s) w
      (d.setWidth 6) (BitVec.ofNat 64 n) := by
  simp only [setLength, hf, hw, Bool.not_true, Bool.false_eq_true, if_false, if_true]
  refine writeReg_wrote ?_ ?_ _ _
  · simpa [AtWord, State.cur, hx] using hat
  · rw [State.canWrite, if_pos hx] at hw ⊢
    exact hw

theorem setLength_undefined (hx : s.onX = true) (hu : s.h.unadmitted = false) (hf : fmtDefined f.toNat = false) :
    setLength d a f s = takeTrap s ⟨true, causeILLEGAL_FMT, 0, 0, f.setWidth 64⟩ := by
  simp [setLength, hf, raise, hx, hu]

end

/-! ### The scratchpad after a move of its boundary (R143, R145, log 133) -/

/-- What passes a test of the keys reads as before it. -/
theorem SMap.get_filter {α : Type} [DecidableEq α] {d : α} {p : Nat → Bool} {m : SMap α} {lo n : Nat}
    (hm : SMap.wfFrom d lo m = true) (hn : p n = true) : SMap.get d (m.filter fun c => p c.1) n = SMap.get d m n := by
  induction m generalizing lo with
  | nil => rfl
  | cons c m ih =>
    obtain ⟨k, v⟩ := c
    simp only [SMap.wfFrom, Bool.and_eq_true] at hm
    by_cases hk : p k = true
    · rw [List.filter_cons_of_pos (p := fun c : Nat × α => p c.1) hk]
      simp only [SMap.get, ih hm.2]
    · rw [List.filter_cons_of_neg (p := fun c : Nat × α => p c.1) hk, ih hm.2, SMap.get]
      have hne : n ≠ k := fun e => hk (e ▸ hn)
      rw [if_neg hne]
      split
      · next hlt => exact SMap.get_below hm.2 (by omega)
      · rfl

/-- A table whose keys all lie below a place reads as the default from there on. -/
theorem SMap.get_of_keys_lt {α : Type} {d : α} {m : SMap α} {n : Nat} (hm : ∀ c ∈ m, c.1 < n) : SMap.get d m n = d := by
  induction m with
  | nil => rfl
  | cons c m ih =>
    obtain ⟨hc, hm⟩ := List.forall_mem_cons.mp hm
    rw [SMap.get, if_neg (by omega), if_neg (by omega), ih hm]

/-- Lines written one after another leave the others. -/
theorem spSeen_foldl_setSpLine_other {js : List Nat} {line data : Nat → Nat} {tag : Nat → BitVec 32} (hh : h.spCanon) {b : Nat}
    (hb : ∀ j ∈ js, b / 64 ≠ line j / 64) :
    (js.foldl (fun h j => h.setSpLine (line j) (data j) (tag j)) h).spSeen b = h.spSeen b := by
  induction js generalizing h with
  | nil => rfl
  | cons j js ih =>
    obtain ⟨hj, hb⟩ := List.forall_mem_cons.mp hb
    rw [List.foldl_cons, ih hh.setSpLine hb, spSeen_setSpLine hh, if_neg hj]

theorem tagVc_resetTag : tagVc resetTag = .uninit := by decide

/-- Lines made UNINIT one after another read as zero, as does what has read as zero. -/
theorem spSeen_foldl_reset {js : List Nat} {line : Nat → Nat} (hh : h.spCanon) {b : Nat}
    (hb : h.spSeen b = 0 ∨ ∃ j ∈ js, b / 64 = line j / 64) :
    (js.foldl (fun h j => h.setSpLine (line j) 0 resetTag) h).spSeen b = 0 := by
  induction js generalizing h with
  | nil => simpa using hb
  | cons j js ih =>
    rw [List.foldl_cons]
    refine ih hh.setSpLine ?_
    rw [spSeen_setSpLine hh]
    by_cases hj : b / 64 = line j / 64
    · rw [if_pos hj, if_pos tagVc_resetTag]
      exact .inl rfl
    · rw [if_neg hj]
      simpa [hj] using hb

theorem exists_foldl_setSpLine_eq {js : List Nat} {line data : Nat → Nat} {tag : Nat → BitVec 32} (h : Hart) :
    ∃ m g, js.foldl (fun h j => h.setSpLine (line j) (data j) (tag j)) h = { h with sp := m, spTag := g } := by
  induction js generalizing h with
  | nil => exact ⟨_, _, rfl⟩
  | cons j js ih =>
    obtain ⟨m, g, e⟩ := ih (h.setSpLine (line j) (data j) (tag j))
    rw [List.foldl_cons, e]
    exact ⟨m, g, setSpLine_with_pad _ _ m g⟩

/-- A move of the boundary changes the share and the scratchpad of the hart alone. -/
theorem exists_moveShare_eq (k : BitVec 4) (d : Nat) (h : Hart) :
    ∃ m g, moveShare k d h = { h with lsplit := k, sp := m, spTag := g } := by
  unfold moveShare
  extract_lets old h1 new h2
  split
  · exact exists_foldl_setSpLine_eq h2
  · split
    · exact ⟨_, _, rfl⟩
    · exact exists_foldl_setSpLine_eq h1

theorem share_mod_64 (h : Hart) : h.share % 64 = 0 := by
  unfold Hart.share
  split <;> omega

/-- A larger share keeps what it held and reads zero above it (R145). -/
theorem spSeen_moveShare_grow {k : BitVec 4} {n : Nat} (d : Nat) (hh : h.spCanon)
    (htag : ∀ c ∈ h.spTag, 64 * c.1 < h.share) (hn : Hart.share { h with lsplit := k } = n) (hgrow : h.share < n)
    {b : Nat} : (b < h.share → (moveShare k d h).spSeen b = h.spSeen b) ∧
      (h.share ≤ b → b < n → (moveShare k d h).spSeen b = 0) := by
  have hmod := share_mod_64 h
  have hmod' : n % 64 = 0 := hn ▸ share_mod_64 _
  have hh1 : Hart.spCanon { h with lsplit := k } := hh.of_pad rfl
  unfold moveShare
  extract_lets old h1 new h2
  have hold : h.share = old := rfl
  have hnew : new = n := hn
  clear_value old new
  rw [if_neg (by omega)]
  split
  · next hdef =>
    refine ⟨fun _ => rfl, fun hb _ => ?_⟩
    have hunlisted : h1.spTagAt b = resetTag :=
      (SMap.get_of_keys_lt (fun c hc => by have := htag c hc; omega)).trans hdef
    rw [Hart.spSeen, hunlisted, if_pos tagVc_resetTag]
  · refine ⟨fun hb => ?_, fun hb hb' => spSeen_foldl_reset hh1 (.inr ⟨(b - old) / 64, ?_, ?_⟩)⟩
    · exact spSeen_foldl_setSpLine_other (data := fun _ => 0) (tag := fun _ => resetTag) hh1 fun j _ => by omega
    · exact List.mem_range.mpr (by omega)
    · omega

/-- A smaller share keeps the lines of the banks that it keeps (R145). -/
theorem spSeen_moveShare_shrink {k : BitVec 4} {n : Nat} (d : Nat) (hh : h.spCanon)
    (hn : Hart.share { h with lsplit := k } = n) (hshrink : n ≤ h.share) {b : Nat} (hb : b < n)
    (hbank : b / 64 % (32 * h.lsplit.toNat) < 32 * k.toNat) : (moveShare k d h).spSeen b = h.spSeen b := by
  have hmod' : n % 64 = 0 := hn ▸ share_mod_64 _
  unfold moveShare
  extract_lets old h1 new h2
  have hnew : n = new := hn.symm
  clear_value new
  subst hnew
  rw [if_pos hshrink]
  have hh2 : h2.spCanon := ⟨SMap.wfFrom_filter _ hh.1, SMap.wfFrom_filter _ hh.2⟩
  have hcut : h2.spSeen b = h.spSeen b := by
    have hsp : SMap.get 0#8 h2.sp b = SMap.get 0#8 h.sp b :=
      SMap.get_filter (p := fun i => decide (i < n)) hh.1 (decide_eq_true hb)
    have htag : h2.spTagAt b = h.spTagAt b :=
      SMap.get_filter (p := fun i => decide (i < n / 64)) hh.2 (decide_eq_true (by omega))
    rw [Hart.spSeen, Hart.spSeen, hsp, htag]
  rw [← hcut]
  refine spSeen_foldl_setSpLine_other (line := fun j => 64 * j)
    (data := fun j => Config.freeNat (d + 2 * j) % 2 ^ 512)
    (tag := fun j => BitVec.ofNat 32 (Config.freeNat (d + 2 * j + 1) % 2 ^ 25)) hh2 fun j hj => ?_
  have hlost : 32 * k.toNat ≤ j % (32 * h.lsplit.toNat) := of_decide_eq_true (List.mem_filter.mp hj).2
  intro e
  rw [show j = b / 64 by omega] at hlost
  omega

/-! ### LSPLIT (R145, R384) -/

@[simp] theorem evictLine_units (pa : Nat) : (evictLine s pa).units = s.units := by
  dsimp only [evictLine]
  split <;> simp

@[simp] theorem evictLine_mem (pa : Nat) : (evictLine s pa).mem = s.mem := by
  dsimp only [evictLine]
  split <;> simp

@[simp] theorem dropL1_units (tower core : Nat) : (dropL1 s tower core).units = s.units :=
  State.units_foldl (fun t p => by dsimp only; split <;> simp) _

@[simp] theorem dropL1_mem (tower core : Nat) : (dropL1 s tower core).mem = s.mem := by
  dsimp only [dropL1]
  generalize s.dir.filter _ = ps
  induction ps generalizing s with
  | nil => rfl
  | cons p ps ih =>
    rw [List.foldl_cons, ih]
    split <;> simp

/-- Moving the boundary changes the hart by `moveShare`, and no memory. -/
theorem moveSplit_moves {k : BitVec 4} (hk : k ≠ s.h.lsplit) :
    ∃ d, (moveSplit k s).h = moveShare k d s.h ∧ (moveSplit k s).mem = s.mem ∧ (moveSplit k s).onX = s.onX := by
  unfold moveSplit
  rw [if_neg hk]
  dsimp only
  split
  · next hlt =>
    have hh : (dropL1 s s.h.id.tower s.h.id.core).h = s.h := State.units_h (dropL1_units _ _)
    refine ⟨_, by rw [hh], dropL1_mem _ _, State.units_onX (dropL1_units _ _)⟩
  · exact ⟨_, rfl, rfl, rfl⟩

theorem exec_lsplit (hs : ReadyA s w) {k : BitVec 4} (hj : s.h.joined = true) (hk : k.toNat ≤ 12) :
    exec (.lsplit k) s = .next (moveSplit k s).advance := by
  simp [exec, execLsplit, inA_ready hs, confirmed_ready hs, drained_ready hs, hj, hk]

theorem exec_lsplit_illegal (hs : ReadyA s w) {k : BitVec 4} (hk : s.h.joined = false ∨ 12 < k.toNat) :
    exec (.lsplit k) s = .next (takeTrap s ⟨false, causeILLEGAL_OP, 0, 0, (encode (.lsplit k)).setWidth 64⟩) := by
  have hbad : (!s.h.joined || decide (12 < k.toNat)) = true := by simpa using hk
  simp only [exec, execLsplit, inA_ready hs, hbad, if_true, illegalInstr, raise_onA hs.1]
  rfl

/-- The A-stream moves on, and nothing else changes. -/
theorem advance_onA (hx : s.onX = false) : ∃ u, s.advance = { s with h := { s.h with a := u } } := by
  obtain ⟨u, hu⟩ := advance_eq_setCur s
  rw [hu, State.setCur, if_neg (by simp [hx])]
  exact ⟨u, rfl⟩

/-- An instruction whose operation leaves the stream and its registers moves on as from the state before (R117). -/
theorem advance_after (hs : ReadyA s w) (hx : t.onX = s.onX) (ha : t.h.a = s.h.a) (hr : t.h.req = s.h.req) :
    Passed s t.advance w ∧ t.advance.h.a.regs = s.h.a.regs := by
  have ht : t.onX = false := hx.trans hs.1
  have hcur : t.cur = s.cur := by rw [cur_onA ht, cur_onA hs.1, ha]
  obtain ⟨-, -, hpass, hregs⟩ := advance_ran (s := t) (w := w) (by rw [AtWord, hcur]; exact atWord_ready hs)
  obtain ⟨u, hu⟩ := advance_onA ht
  have hon : t.advance.onX = false := by rw [hu]; exact ht
  rw [cur_onA hon, hcur, cur_onA hs.1] at hregs
  unfold Passed at hpass ⊢
  rw [hcur, hr] at hpass
  exact ⟨hpass, hregs⟩

/-- What LSPLIT leaves on a joined hart (R145). -/
theorem moveSplit_pad {k : BitVec 4} (hc : s.h.spCanon) (htag : ∀ c ∈ s.h.spTag, 64 * c.1 < s.h.share)
    (hj : s.h.joined = true) :
    let t := moveSplit k s
    let n := 32768 * k.toNat
    (∃ m g, t.h = { s.h with lsplit := k, sp := m, spTag := g }) ∧ t.mem = s.mem ∧ t.onX = s.onX ∧
    (s.h.share ≤ n → (∀ b, b < s.h.share → t.h.spSeen b = s.h.spSeen b) ∧
      ∀ b, s.h.share ≤ b → b < n → t.h.spSeen b = 0) ∧
    (n ≤ s.h.share → ∀ b, b < n → b / 64 % (32 * s.h.lsplit.toNat) < 32 * k.toNat → t.h.spSeen b = s.h.spSeen b) := by
  have hshare : s.h.share = 32768 * s.h.lsplit.toNat := by rw [Hart.share, hj, if_pos rfl]
  have hnew : Hart.share { s.h with lsplit := k } = 32768 * k.toNat := by rw [Hart.share, hj, if_pos rfl]
  by_cases hk : k = s.h.lsplit
  · have hsame : moveSplit k s = s := if_pos hk
    rw [hsame]
    subst hk
    refine ⟨⟨_, _, rfl⟩, rfl, rfl, fun _ => ⟨fun _ _ => rfl, fun b hb hb' => ?_⟩, fun _ _ _ _ => rfl⟩
    omega
  · obtain ⟨d, hh, hmem, hon⟩ := moveSplit_moves hk
    dsimp only
    rw [hh]
    refine ⟨exists_moveShare_eq k d s.h, hmem, hon, fun hn => ?_, fun hn b hb hbank => ?_⟩
    · have hne : k.toNat ≠ s.h.lsplit.toNat := fun e => hk (BitVec.eq_of_toNat_eq e)
      have hgrow : s.h.share < 32768 * k.toNat := by omega
      exact ⟨fun b => (spSeen_moveShare_grow d hc htag hnew hgrow).1,
        fun b => (spSeen_moveShare_grow d hc htag hnew hgrow).2⟩
    · exact spSeen_moveShare_shrink d hc hnew hn hb hbank

end Sys2Proof.Machine

open Sys2Proof Sys2Proof.Machine

/-- Settles O28: VSETL by `setLength_wrote`; LSPLIT by what the move of the boundary leaves in the scratchpad, a line at
a time. -/
theorem vectorLengthAndSplit : Obligations.VectorLengthAndSplit := by
  refine ⟨fun s w d f a hx hat hw => ⟨fun hf => ?setl, fun hf => ?keep, fun hf hu => ?undefined⟩,
    fun s w k hs => ⟨fun hj hk hc _ htag => ?split, exec_lsplit_illegal hs⟩⟩
  case setl => exact ⟨_, by simp only [exec, execVsetl, inX, hx, if_true], setLength_wrote hx hat hw hf⟩
  case keep => exact ⟨_, by simp only [exec, execVsetlKeep, inX, hx, if_true], setLength_wrote hx hat hw hf⟩
  case undefined => simp only [exec, execVsetl, inX, hx, if_true, setLength_undefined hx hu hf]
  case split =>
    obtain ⟨⟨m, g, hh⟩, hmem, hon, hgrow, hshrink⟩ := moveSplit_pad (k := k) hc htag hj
    obtain ⟨hpass, hregs⟩ := advance_after hs hon (congrArg Hart.a hh :) (congrArg Hart.req hh :)
    obtain ⟨u, hu⟩ := advance_onA (hon.trans hs.1)
    have hto : (moveSplit k s).advance.h = { s.h with lsplit := k, sp := m, spTag := g, a := u } := by rw [hu, hh]
    have hshare : (moveSplit k s).advance.h.share = 32768 * k.toNat := by rw [hto, Hart.share, hj, if_pos rfl]
    have hseen (b : Nat) : (moveSplit k s).advance.h.spSeen b = (moveSplit k s).h.spSeen b :=
      spSeen_of_pad (advance_pad _)
    refine ⟨_, exec_lsplit hs hj hk, (congrArg Hart.lsplit hto :), (congrArg State.mem hu :).trans hmem, hshare, hpass,
      hregs, (congrArg Hart.x hto :), (congrArg Hart.v hto :), ?_, ?_⟩
    · simpa only [hshare, hseen] using hgrow
    · simpa only [hshare, hseen] using hshrink
end

section
/-! The promotion table and the removal of translations (R163, R445, R449): what PTSET and PTGET leave in the table and
in their destination, what a shoot-down removes, then the settlement of O44. -/

namespace Sys2Proof.Machine

variable {s t : State} {w : Nat}

/-! ### The promotion table (R445) -/

/-- An entry of the table is a byte of it. -/
theorem ptByte_eq_byte (pt : BitVec 8192) (j : Nat) : ptByte pt j = (BitVec.ofNat 8 (pt.toNat / 256 ^ j)).toNat := by
  rw [ptByte, Nat.shiftRight_eq_div_pow, Nat.pow_mul, BitVec.toNat_ofNat]

theorem ptByte_ofNat (n : Nat) {j : Nat} (hj : j < 1024) :
    ptByte (BitVec.ofNat 8192 n) j = (BitVec.ofNat 8 (n / 256 ^ j)).toNat := by
  rw [ptByte_eq_byte]
  congr 1
  apply BitVec.eq_of_getLsbD_eq
  intro i hi
  have hbit : 8 * j + i < 8192 := by omega
  rw [getLsbD_byte _ _ _ hi, getLsbD_byte _ _ _ hi, BitVec.testBit_toNat, BitVec.getLsbD_ofNat, decide_eq_true hbit,
    Bool.true_and]

theorem ptSetByte_eq_putBytes (pt : BitVec 8192) (k e : Nat) :
    ptSetByte pt k e = BitVec.ofNat 8192 (putBytes pt.toNat k 1 e) := by
  simp only [ptSetByte, putBytes, ptByte, Nat.shiftLeft_eq, Nat.shiftRight_eq_div_pow, Nat.mul_one]
  rfl

/-- Writing an entry gives it its value and leaves the others. -/
theorem ptByte_ptSetByte (pt : BitVec 8192) (k : Nat) {e j : Nat} (he : e < 256) (hj : j < 1024) :
    ptByte (ptSetByte pt k e) j = if j = k then e else ptByte pt j := by
  rw [ptSetByte_eq_putBytes, ptByte_ofNat _ hj, byte_putBytes]
  by_cases hk : j = k
  · rw [if_pos (by omega), if_pos hk, hk, Nat.sub_self, Nat.pow_zero, Nat.div_one, BitVec.toNat_ofNat,
      Nat.mod_eq_of_lt he]
  · rw [if_neg (by omega), if_neg hk, ptByte_eq_byte]

/-- A read gives eight entries. -/
theorem extractLsb'_ptEight (pt : BitVec 8192) (q : Nat) {j : Nat} (hj : j < 8) :
    ((ptEight pt q).extractLsb' (8 * j) 8).toNat = ptByte pt (8 * q + j) := by
  rw [ptEight, extractLsb'_ofNat_byte _ hj, ptByte_eq_byte, Nat.div_div_eq_div_mul, show 64 * q = 8 * (8 * q) by omega,
    Nat.pow_mul, ← Nat.pow_add]

theorem ptSet_permitted {pt : BitVec 8192} {k e : Nat} (h1 : fmtDefined (k / 32) = true) (h2 : fmtDefined (k % 32) = true)
    (h3 : e / 32 < 3) (hf : e / 32 = 0 ∨ fmtDefined (e % 32) = true) :
    ptSet pt k e = .ok (0, ptSetByte pt k (if e / 32 = 0 then 0 else e)) := by
  rw [ptSet, if_neg (by simpa [h1, h2] using h3), if_neg (by rcases hf with hf | hf <;> simp [hf])]

theorem ptSet_refused {pt : BitVec 8192} {k e : Nat}
    (h : ¬ (fmtDefined (k / 32) = true ∧ fmtDefined (k % 32) = true ∧ e / 32 < 3)) : ptSet pt k e = .ok (1, pt) := by
  refine if_pos ?_
  simp only [Bool.or_eq_true, Bool.not_eq_true', decide_eq_true_eq]
  by_contra hn
  simp only [not_or, Bool.not_eq_false, not_le] at hn
  exact h ⟨hn.1.1, hn.1.2, hn.2⟩

theorem ptSet_undefined {pt : BitVec 8192} {k e : Nat} (h1 : fmtDefined (k / 32) = true) (h2 : fmtDefined (k % 32) = true)
    (h3 : e / 32 < 3) (h0 : e / 32 ≠ 0) (hf : fmtDefined (e % 32) = false) : ptSet pt k e = .error (e % 32) := by
  rw [ptSet, if_neg (by simpa [h1, h2] using h3), if_pos (by simp [h0, hf])]

section
variable {d a b : BitVec 6} {pt : BitVec 8192} {st c : Nat}

theorem exec_ptset_ok (hs : ReadyA s w)
    (h : ptSet s.h.pt ((s.reg a.toNat).toNat % 1024) ((s.reg b.toNat).toNat % 256) = .ok (st, pt)) :
    exec (.ptset d a b) s =
      .next (({ s with h := { s.h with pt := pt } } : State).writeReg d (BitVec.ofNat 64 st)) := by
  simp only [exec, execPtset, inA_ready hs, confirmed_ready hs, h]

theorem exec_ptset_error (hs : ReadyA s w)
    (h : ptSet s.h.pt ((s.reg a.toNat).toNat % 1024) ((s.reg b.toNat).toNat % 256) = .error c) :
    exec (.ptset d a b) s = .next (takeTrap s ⟨false, causeILLEGAL_FMT, 0, 0, BitVec.ofNat 64 c⟩) := by
  simp only [exec, execPtset, inA_ready hs, confirmed_ready hs, h, raise_onA hs.1]

theorem exec_ptget (hs : ReadyA s w) : exec (.ptget d a) s =
    .next (s.writeReg d (ptEight s.h.pt (fieldOf (s.reg a.toNat).toNat 9 3))) := by
  simp only [exec, execPtget, inA_ready hs, confirmed_ready hs]

theorem frame_pt (s : State) : s.frame.h.pt = s.h.pt := by
  unfold State.frame Hart.without
  split <;> rfl

/-- An instruction that has set the promotion table writes its status. -/
theorem writeReg_wrote_pt (hs : ReadyA s w) (pt : BitVec 8192) (v : Word) :
    let t := ({ s with h := { s.h with pt := pt } } : State).writeReg d v
    t.h.pt = pt ∧ Wrote { s with h := { s.h with pt := pt } } t w d v := by
  have hr : ReadyA { s with h := { s.h with pt := pt } } w := hs
  have hw := writeReg_wrote (atWord_ready hr) (canWrite_ready hr) d v
  have hpt := congrArg (fun t : State => t.h.pt) hw.1
  simp only [frame_pt] at hpt
  exact ⟨hpt, hw⟩

end

/-! ### The removal of translations (R163, R164, R449) -/

theorem mem_shootDown_tlb {k : TlbiKind} {r : Word} {e : TlbEntry} :
    e ∈ (shootDown k r s).tlb ↔ e ∈ s.tlb ∧ tlbiHits k e = false := by
  have h : (shootDown k r s).tlb = s.tlb.filter fun t => !tlbiHits k t := by
    unfold shootDown
    extract_lets s1
    split <;> rfl
  rw [h, List.mem_filter, Bool.not_eq_true']

theorem pwcHits_of_mem_shootDown {k : TlbiKind} {r : Word} {e : PwcEntry} (he : e ∈ (shootDown k r s).pwc) :
    pwcHits k e = false := by
  have h : (shootDown k r s).pwc = s.pwc.filter fun p => !pwcHits k p := by
    unfold shootDown
    extract_lets s1
    split <;> rfl
  rw [h, List.mem_filter, Bool.not_eq_true'] at he
  exact he.2

/-- The add that a shoot-down asks for is noted with what it waits for. -/
theorem shootDown_tlbis (k : TlbiKind) (r : Word) : (shootDown k r s).tlbis =
    if r = 0 then s.tlbis else s.tlbis ++ [⟨s.h.id, s.h.priv, s.h.asid, r, s.h.launch, nearOwner s r,
      (s.cmds.filter fun c => pinHit k c).map fun c => c.id, loadsHit s k⟩] := by
  unfold shootDown
  extract_lets s1
  split <;> rfl

theorem exists_shootDown_eq (k : TlbiKind) (r : Word) (s : State) :
    ∃ e p q, shootDown k r s = { s with tlb := e, pwc := p, tlbis := q } := by
  unfold shootDown
  extract_lets s1
  split <;> exact ⟨_, _, _, rfl⟩

theorem tlbi_ready {d : BitVec 6} {i : Instr} {k : TlbiKind} (hs : ReadyA s w) (hp : s.h.priv = true)
    (hd : doneOk s (s.reg d.toNat) = true) : tlbi i d k s = (shootDown k (s.reg d.toNat) s).advance := by
  simp [tlbi, inA_ready hs, needPriv, hp, ordered_ready hs, hd]

theorem tlbi_unprivileged {d : BitVec 6} {i : Instr} {k : TlbiKind} (hs : ReadyA s w) (hp : s.h.priv = false) :
    tlbi i d k s = takeTrap s ⟨false, causePRIV, 0, 0, tvalOf i⟩ := by
  simp [tlbi, inA_ready hs, needPriv, hp, notPrivileged, raise_onA hs.1]

/-- A TLBI leaves the TLBs, the walk caches and the adds that are due as its shoot-down does, and moves on. -/
theorem shootDown_advance (hs : ReadyA s w) (k : TlbiKind) (r : Word) :
    let u := shootDown k r s
    let t := u.advance
    t.tlb = u.tlb ∧ t.pwc = u.pwc ∧ t.tlbis = u.tlbis ∧ Ran { s with tlb := t.tlb, pwc := t.pwc, tlbis := t.tlbis } t w := by
  obtain ⟨e, p, q, hu⟩ := exists_shootDown_eq k r s
  dsimp only
  rw [hu]
  have hr : ReadyA { s with tlb := e, pwc := p, tlbis := q } w := hs
  obtain ⟨a, ha⟩ := advance_onA hr.1
  have hran := advance_ran (atWord_ready hr)
  rw [ha] at hran ⊢
  exact ⟨rfl, rfl, rfl, hran⟩

end Sys2Proof.Machine

open Sys2Proof Sys2Proof.Machine

/-- Settles O44: PTSET by the three cases of `ptSet` and the entries that `ptSetByte` leaves, PTGET by the bytes of its
result, and each TLBI form by what `shootDown` removes and notes. -/
theorem promotionAndTranslation : Obligations.PromotionAndTranslation := by
  refine ⟨fun s w d a b hs => ?_, fun s w d a b hs => ⟨fun hp hd p hform => ?removes, fun hp p hform => ?refused⟩⟩
  · intro k e good
    refine ⟨fun ⟨h1, h2, h3⟩ hf => ?permitted, fun hbad => ?status, fun ⟨h1, h2, h3⟩ h0 hf => ?undefined, ?eight⟩
    case permitted =>
      obtain ⟨hpt, hw⟩ := writeReg_wrote_pt (d := d) hs (ptSetByte s.h.pt k (if e / 32 = 0 then 0 else e)) 0
      refine ⟨_, exec_ptset_ok hs (ptSet_permitted h1 h2 h3 hf), ?_, fun j hj => ?_⟩
      · exact hpt.symm ▸ hw
      · have he : (if e / 32 = 0 then 0 else e) < 256 := by split <;> omega
        exact (congrArg (ptByte · j) hpt).trans (ptByte_ptSetByte _ _ he hj)
    case status => exact ⟨_, exec_ptset_ok hs (ptSet_refused hbad), (writeReg_wrote_pt hs _ _).2⟩
    case undefined => exact exec_ptset_error hs (ptSet_undefined h1 h2 h3 h0 hf)
    case eight =>
      exact ⟨_, _, exec_ptget hs, writeReg_wrote (atWord_ready hs) (canWrite_ready hs) d _, fun j hj =>
        extractLsb'_ptEight _ _ hj⟩
  case removes =>
    obtain ⟨htlb, hpwc, htlbis, hran⟩ := shootDown_advance hs p.2 (s.reg d.toNat)
    have hexec : exec p.1 s = .next (shootDown p.2 (s.reg d.toNat) s).advance := by
      simp only [List.mem_cons, List.not_mem_nil, or_false] at hform
      obtain rfl | rfl | rfl := hform
      · exact congrArg Host.Outcome.next (tlbi_ready hs hp hd)
      · exact congrArg Host.Outcome.next (tlbi_ready hs hp hd)
      · exact congrArg Host.Outcome.next (tlbi_ready hs hp hd)
    refine ⟨_, hexec, hran, fun e => ?_, fun e he => ?_, htlbis.trans (shootDown_tlbis _ _)⟩
    · rw [htlb, mem_shootDown_tlb]
    · exact pwcHits_of_mem_shootDown (hpwc ▸ he)
  case refused =>
    simp only [List.mem_cons, List.not_mem_nil, or_false] at hform
    obtain rfl | rfl | rfl := hform
    · exact congrArg Host.Outcome.next (tlbi_unprivileged hs hp)
    · exact congrArg Host.Outcome.next (tlbi_unprivileged hs hp)
    · exact congrArg Host.Outcome.next (tlbi_unprivileged hs hp)
end

section
/-! Contexts and remote waits (R163, R245 to R247, R278, R287): what the completion of a window collective leaves with a
task of its launch, then the settlement of O48. -/

namespace Sys2Proof.Machine

variable {s : State} {h : Hart} {w l d : Nat}

theorem clearMarks_h (s : State) (l : Nat) : (clearMarks s l).h = s.h := rfl

theorem updTasks_h_of_launch {f : Hart → Hart} (hl : s.h.launch = some l) : (updTasks s l f).h = f s.h :=
  if_pos hl

theorem entry_setEntry_same (hw : SMap.wf LEntry.reset s.entries = true) (e : LEntry) : (s.setEntry l e).entry l = e := by
  rw [State.entry, State.setEntry, SMap.get_set hw, if_pos rfl]

/-- A wait that ends gives its register the value, and its stream runs. -/
theorem finishWait_runs (hpos : h.a.pos = .word w) (v : Word) :
    (finishWait h d v).a.st = .run ∧ (finishWait h d v).a.regs = (h.a.setReg d v).regs ∧
      (finishWait h d v).win = h.win := by
  simp only [finishWait, hpos, Stream.past_regs, Stream.past_live, and_self]

/-- What a window collective leaves: its window and no arrivals with the launch, the window with each task, and the
tasks that waited for it past their WMARK (R278). -/
theorem completeCollective_gives (hw : SMap.wf LEntry.reset s.entries = true) (hl : s.h.launch = some l)
    (hst : s.h.a.st = .wait) (hwait : s.h.a.wait = .wmark d) (hpos : s.h.a.pos = .word w) :
    let win := (s.entry l).undo.win + 1
    let t := completeCollective s l
    (t.entry l).undo.win = win ∧ (t.entry l).undo.arrived = [] ∧ t.h.win = win ∧ t.h.a.st = .run ∧
      t.h.a.regs = (s.h.a.setReg d (win.setWidth 64)).regs ∧ t.mem = s.mem := by
  unfold completeCollective
  extract_lets win s1 win' go t
  have hentry : s1.entry l = _ := entry_setEntry_same hw _
  have hwin : win' = win := congrArg (fun e : LEntry => e.undo.win) hentry
  have hgo : t.h = go s.h := (clearMarks_h _ l).trans (updTasks_h_of_launch (s := s1) (f := go) hl)
  have hend : go s.h = finishWait { s.h with win := win } d (win.setWidth 64) := by
    simp only [go, hst, hwait, hwin]
  obtain ⟨hrun, hregs, hkeep⟩ := finishWait_runs (h := { s.h with win := win }) (d := d) hpos (win.setWidth 64)
  rw [hgo, hend]
  exact ⟨congrArg (fun e : LEntry => e.undo.win) hentry, congrArg (fun e : LEntry => e.undo.arrived) hentry,
    hkeep, hrun, hregs, rfl⟩

/-! ### The events -/

theorem exec_remoteWake {k : Nat} {v : Word} (hc : s.cfg.cont = false) :
    exec (.remoteWake k v) s = .next (remoteWakeOp s k v) := by
  simp only [exec, execRemoteWake, hc, Bool.false_eq_true, if_false]

theorem token_ne_of_mem_takeRemote {k : Nat} : ∀ x ∈ (takeRemote s k).remote, x.token ≠ k := by
  intro x hx
  simpa using (List.mem_filter.mp hx).2

end Sys2Proof.Machine

open Sys2Proof Sys2Proof.Machine

/-- Settles O48: each event by its operation with its condition met, and the window collective by
`completeCollective_gives`. -/
theorem contextEvents : Obligations.ContextEvents := by
  refine ⟨fun s l hc => ⟨fun h => ?collective, fun h => ?rewind, fun hr ha => ?poll, fun k v x hx => ⟨fun id hwho => ?stream,
    fun n j hwho => ?start, token_ne_of_mem_takeRemote⟩, fun k x hx => ?discarded, fun p rest h => ?tlbi⟩,
    fun s l w d hc hready hl hw hst hwait hpos => ?window⟩
  case collective => simp only [exec, execWmarkCollectiveComplete, hc, h, Bool.not_false, Bool.and_self, if_true]
  case rewind => simp only [exec, execRewind, h, if_true]
  case poll => simp only [exec, execWaiterPoll, pollWaiter, hc, hr, ha, Bool.or_self, Bool.false_eq_true, if_false, if_true]
  case stream => simp only [exec_remoteWake hc, remoteWakeOp, hx, hwho]
  case start => simp only [exec_remoteWake hc, remoteWakeOp, hx, hwho]
  case discarded => simp only [exec_remoteWake hc, remoteWakeOp, hx]
  case tlbi => simp only [exec, execTlbiCompletionAdd, hc, h, Bool.false_eq_true, if_false]
  case window =>
    have hexec : exec (.wmarkCollectiveComplete l) s = .next (completeCollective s l) := by
      simp only [exec, execWmarkCollectiveComplete, hc, hready, Bool.not_false, Bool.and_self, if_true]
    exact ⟨_, hexec, completeCollective_gives hw hl hst hwait hpos⟩
end

section
/-! What the caches do beside the instructions (R147 to R151, R157, R190, R251): the directory after a line leaves or gets
an owner, the line of a slot that is written back, the entry that a walk marks, then the settlement of O46. -/

namespace Sys2Proof.Machine

variable {s t : State} {pa a n : Nat}

/-! ### The directory (R147 to R151, R190) -/

theorem dirOf_setDir (hd : SMap.wf Dir.none s.dir = true) (pa : Nat) (d : Dir) (a : Nat) :
    dirOf (setDir s pa d) a = if a / 64 = pa / 64 then d else dirOf s a := SMap.get_set hd (a / 64)

/-- A fresh check field is that of its line alone. -/
theorem sideOf_freshCheck (hw : SMap.wf Side.reset s.side = true) (pa k a : Nat) : sideOf (freshCheck s pa k) a =
    if a / 64 = pa / 64 then { sideOf s pa with chk := .fresh k (keyVersion s k) (keyValue s k) } else sideOf s a :=
  SMap.get_set hw (a / 64)

/-- A line that leaves the caches: its check field is made afresh where it was dirty (R190). -/
theorem evictLine_eq (s : State) (pa : Nat) : evictLine s pa =
    if (dirOf s pa).dirty then setDir (freshCheck s pa (dirOf s pa).key) pa .none else setDir s pa .none := by
  dsimp only [evictLine]
  split <;> rfl

/-- What an eviction leaves: no cache holds the line, its check field is fresh if it was dirty, and nothing else changes. -/
theorem evictLine_leaves (hd : SMap.wf Dir.none s.dir = true) (pa : Nat) :
    let t := evictLine s pa
    t = { s with dir := t.dir, side := t.side } ∧ dirOf t pa = Dir.none ∧
      (∀ a, a / 64 ≠ pa / 64 → dirOf t a = dirOf s a) ∧ ((dirOf s pa).dirty = false → t.side = s.side) ∧
      ((dirOf s pa).dirty = true → SMap.wf Side.reset s.side = true →
        let k := (dirOf s pa).key
        sideOf t pa = { sideOf s pa with chk := .fresh k (keyVersion s k) (keyValue s k) } ∧
          ∀ a, a / 64 ≠ pa / 64 → sideOf t a = sideOf s a) := by
  dsimp only
  rw [evictLine_eq]
  cases hdirty : (dirOf s pa).dirty with
  | false =>
    rw [if_neg Bool.false_ne_true]
    refine ⟨rfl, by rw [dirOf_setDir hd, if_pos rfl], fun a ha => by rw [dirOf_setDir hd, if_neg ha], fun _ => rfl,
      fun h => absurd h Bool.false_ne_true⟩
  | true =>
    rw [if_pos rfl]
    have hd' : SMap.wf Dir.none (freshCheck s pa (dirOf s pa).key).dir = true := hd
    refine ⟨rfl, by rw [dirOf_setDir hd', if_pos rfl], fun a ha => ?_, fun h => absurd h.symm Bool.false_ne_true,
      fun _ hw => ⟨?_, fun a ha => ?_⟩⟩
    · rw [dirOf_setDir hd', if_neg ha]
      rfl
    · exact (sideOf_freshCheck hw pa _ pa).trans (if_pos rfl)
    · exact (sideOf_freshCheck hw pa _ a).trans (if_neg ha)

/-- A request for ownership of a held line leaves the one copy with its core (R147). -/
theorem grantOwner_held (hd : SMap.wf Dir.none s.dir = true) (h : Held s pa) (tower core key : Nat) :
    let t := grantOwner s pa tower core key
    t = { s with dir := t.dir } ∧ (dirOf t pa).l1 = [(tower, core, L1St.e)] ∧ (dirOf t pa).rdc = [] := by
  obtain ⟨d, hown, hrdc⟩ : ∃ d, own s pa key ⟨tower, some core⟩ false = setDir s pa d ∧ d.rdc = [] := ⟨_, rfl, rfl⟩
  have hread : (homeRead s pa key).2 = s := by rw [homeRead, if_pos h.2]
  have hgrant : grantOwner s pa tower core key =
      setDir (setDir s pa d) pa { d with l1 := [(tower, core, L1St.e)], dirty := (dirOf s pa).dirty } := by
    simp only [grantOwner, hread, hown, dirOf_setDir hd, if_true]
  have hne : ({ d with l1 := [(tower, core, L1St.e)], dirty := (dirOf s pa).dirty } : Dir) ≠ .none := by
    simp [Dir.none]
  dsimp only
  rw [hgrant, dirOf_setDir_same hne]
  exact ⟨rfl, rfl, hrdc⟩

/-! ### Bytes as the part reads them -/

/-- Memory and tags that are the same read the same. -/
theorem seen_of_mem_side (hm : t.mem = s.mem) (hd : t.side = s.side) (a : Nat) : t.seen a = s.seen a := by
  rw [State.seen, State.seen, sideOf, sideOf, State.byte, State.byte, hm, hd]

theorem seenWord_congr (h : ∀ a, t.seen a = s.seen a) (a n : Nat) : t.seenWord a n = s.seenWord a n := by
  induction n generalizing a with
  | zero => rfl
  | succ n ih => rw [State.seenWord, State.seenWord, h, ih]

/-- The bytes of a word within a line are those of the line at its offset. -/
theorem seenWord_of_line (hn : pa % 64 + n ≤ 64) :
    s.seenWord (lineAddr pa) 64 / 2 ^ (8 * (pa % 64)) % 2 ^ (8 * n) = s.seenWord pa n := by
  rw [Nat.pow_mul, Nat.pow_mul, show (2 : Nat) ^ 8 = 256 from rfl, seenWord_slice hn, lineAddr_add_offset]

/-- Replacing bytes of what the part reads in a line gives those bytes and leaves the others. -/
theorem byte_putBytes_seenWord (_ : pa % 64 + n ≤ 64) (v : Nat) (ha : a / 64 = pa / 64) :
    BitVec.ofNat 8 (putBytes (s.seenWord (lineAddr pa) 64) (pa % 64) n v / 256 ^ (a % 64)) =
      if pa ≤ a ∧ a < pa + n then BitVec.ofNat 8 (v / 256 ^ (a - pa)) else s.seen a := by
  rw [byte_putBytes]
  by_cases hin : pa ≤ a ∧ a < pa + n
  · rw [if_pos (by omega), if_pos hin, show a % 64 - pa % 64 = a - pa by omega]
  · have hat : lineAddr pa + a % 64 = a := by rw [lineAddr]; omega
    rw [if_neg (by omega), if_neg hin, byte_seenWord (Nat.mod_lt a (by decide)), hat]

/-! ### The write-back of a slot (R251) -/

section
variable {key : Nat}

theorem slotAddr_mod_16 (key : Nat) : slotAddr key % 16 = 0 := by
  rw [slotAddr, gib48]
  omega

/-- The line of a slot that needs no correction keeps what the part reads there. -/
theorem slotLine_uncorrected (h : ∀ j data tag, checkOf s (slotAddr key) 0 ≠ .corrected j data tag) :
    slotLine s key = s.seenWord (lineAddr (slotAddr key)) 64 := by
  rw [← lineVal_bytes s (slotAddr key) false, LineVal.bytes]
  dsimp only [slotLine]
  cases hc : checkOf s (slotAddr key) 0 with
  | correct => rfl
  | corrected j data tag => exact absurd hc (h j data tag)
  | bad => rfl

/-- What a write-back keeps of a slot's line rests on memory, the sideband and the keys alone. -/
theorem slotLine_of_eq (hm : t.mem = s.mem) (hd : t.side = s.side) (hk : t.keys = s.keys) (hc : t.cfg = s.cfg) :
    slotLine t key = slotLine s key := by
  simp only [slotLine, checkOf, keyValue, lineData, sideOf, hm, hd, hk, hc]

/-- The write-back of a slot that holds an entry, the damage of its line having been noted (R251). -/
def writeBackSlot (s : State) (key : Nat) (e : CcEntry) : State :=
  let pa := slotAddr key
  let pf := if SMap.get false s.pflag key then 2 ^ 79 else 0
  let s1 := freshCheck (putLine s pa (putBytes (slotLine s key) (pa % 64) 16 (e.value.toNat + pf)) rawTag) pa 0
  { s1 with cc := SMap.set none s1.cc key none, ccUse := SMap.set 0 s1.ccUse key 0 }

theorem slotEvict_held {e : CcEntry} (he : SMap.get none s.cc key = some e) :
    slotEvict s key = writeBackSlot (if slotLineBad s key then spoilSlots s key else s) key e := by
  rw [slotEvict, he, writeBackSlot]

/-- What a write-back leaves: the slot has left the counter cache, and its line holds its value; the other bytes of the line
are those that the write-back keeps. -/
theorem writeBackSlot_gives (hs : s.canon) (hw : SMap.wf none s.cc = true) (e : CcEntry) :
    let t := writeBackSlot s key e
    SMap.get none t.cc key = none ∧ t.h = s.h ∧ t.rest = s.rest ∧ tagVc (sideOf t (slotAddr key)).tag = .valid ∧
      ∃ k, ∀ a, t.seen a = if a / 64 = slotAddr key / 64 then
        BitVec.ofNat 8 (putBytes (slotLine s key) (slotAddr key % 64) 16 (e.value.toNat + 2 ^ 64 * k) / 256 ^ (a % 64))
        else s.seen a := by
  have htag : tagVc rawTag = .valid := by decide
  unfold writeBackSlot
  extract_lets pa pf s1 t
  obtain ⟨k, hk⟩ : ∃ k, pf = 2 ^ 64 * k := by
    cases hp : SMap.get false s.pflag key with
    | false => exact ⟨0, if_neg (by simp [hp])⟩
    | true => exact ⟨2 ^ 15, if_pos hp⟩
  have hseen (a : Nat) : s1.seen a = if a / 64 = pa / 64 then
      BitVec.ofNat 8 (putBytes (slotLine s key) (pa % 64) 16 (e.value.toNat + pf) / 256 ^ (a % 64)) else s.seen a := by
    rw [seen_freshCheck hs.putLine, seen_putLine hs, htag, if_neg (by decide : Vc.valid ≠ .uninit)]
  have hvalid : tagVc (sideOf s1 pa).tag = .valid := by
    rw [tag_freshCheck hs.putLine, sideOf_putLine hs, if_pos rfl, htag]
  have hcc : s1.cc = s.cc := by simp only [s1, freshCheck_cc, putLine_cc]
  have hh : s1.h = s.h := by simp only [s1, freshCheck_h, putLine_h]
  have hrest : s1.rest = s.rest := by simp only [s1, freshCheck_rest, putLine_rest]
  clear_value s1
  refine ⟨?_, hh, hrest, hvalid, k, fun a => ?_⟩
  · exact (SMap.get_set (hcc ▸ hw) key).trans (if_pos rfl)
  · rw [← hk]
    exact (seen_of_mem_side (t := t) (s := s1) rfl rfl a).trans (hseen a)

/-- What a slot's eviction leaves. -/
theorem slotEvict_gives {e : CcEntry} (hs : s.canon) (hw : SMap.wf none s.cc = true)
    (he : SMap.get none s.cc key = some e) :
    let t := slotEvict s key
    let pa := slotAddr key
    SMap.get none t.cc key = none ∧ readMem t.mem pa 8 = e.value.toNat ∧ t.h = s.h ∧ t.rest = s.rest ∧
      (∀ a, a / 64 ≠ pa / 64 → t.seen a = s.seen a) ∧
      ((∀ j data tag, checkOf s pa 0 ≠ .corrected j data tag) → OnlyBytes s t pa 16) := by
  obtain ⟨p, hp⟩ : ∃ p, (if slotLineBad s key then spoilSlots s key else s) = { s with slotPois := p } := by
    split <;> exact ⟨_, rfl⟩
  have hal := slotAddr_mod_16 key
  obtain ⟨hcc, hh, hrest, htag, k, hseen⟩ :=
    writeBackSlot_gives (s := { s with slotPois := p }) (key := key) hs hw e
  have hold : slotLine { s with slotPois := p } key = slotLine s key := slotLine_of_eq rfl rfl rfl rfl
  rw [hold] at hseen
  intro t pa
  have ht : t = writeBackSlot { s with slotPois := p } key e := by rw [← hp]; exact slotEvict_held he
  rw [← ht] at hcc hh hrest htag hseen
  clear_value t
  refine ⟨hcc, ?_, hh, hrest, fun a ha => (hseen a).trans (if_neg ha), fun hcorr a ha => (hseen a).trans ?_⟩
  · have hbytes (i : Nat) (hi : i < 8) : t.seen (pa + i) = BitVec.ofNat 8 ((e.value.toNat + 2 ^ 64 * k) / 256 ^ i) := by
      rw [hseen, if_pos (by omega), byte_putBytes, if_pos (by omega), show (pa + i) % 64 - pa % 64 = i by omega]
    have hraw (i : Nat) (hi : i < 8) : t.seen (pa + i) = t.byte (pa + i) := by
      rw [State.seen, sideOf_same_line (b := pa) (by omega), htag]
      rfl
    rw [← seenWord_eq_readMem hraw, seenWord_of_bytes hbytes]
    have := e.value.isLt
    omega
  · split
    · next hline => rw [slotLine_uncorrected hcorr, byte_putBytes_seenWord (by omega) _ hline, if_neg (by omega)]
    · rfl

end

/-! ### The entry that a walk marks (R157) -/

section
variable {tower e bits : Nat} {last : Bool}

/-- The class of a tag does not rest on its reserved bits. -/
theorem tagVc_cut (t : BitVec 32) : tagVc (t &&& 0x1FFFFFF#32) = tagVc t := by
  have hcut : (t &&& 0x1FFFFFF#32).toNat = t.toNat % 2 ^ 25 := by
    rw [BitVec.toNat_and, ← Nat.and_two_pow_sub_one_eq_mod]
    rfl
  have hcode : fieldOf (t &&& 0x1FFFFFF#32).toNat 6 5 = fieldOf t.toNat 6 5 := by
    rw [hcut, fieldOf, fieldOf, Nat.shiftRight_eq_div_pow, Nat.shiftRight_eq_div_pow]
    omega
  rw [tagVc, tagVc, hcode]

/-- A walk reads the word of an entry whose line is held and VALID, and shares the line. -/
theorem walkRead_held (h : Held s pa) (hv : tagVc (sideOf s pa).tag = .valid) (ha : pa % 8 = 0) :
    walkRead s tower pa = (some (s.seenWord pa 8), share s pa 0 ⟨tower, none⟩ true) := by
  have hgood : vcBad (tagVc (sideOf s pa).tag) = false := by rw [hv]; rfl
  have hword := seenWord_of_line (s := s) (pa := pa) (n := 8) (by omega)
  rw [walkRead, if_neg (by rw [h.1]; decide), readLine_held h]
  dsimp only
  rw [hgood, if_neg Bool.false_ne_true, lineVal_bytes, hword]

/-- What a walk's compare-and-swap leaves of an entry that reads as the walk read it: the new entry, and every other byte as
before. -/
theorem pteSet_held (hs : s.canon) (h : Held s pa) (hv : tagVc (sideOf s pa).tag = .valid) (ha : pa % 8 = 0)
    (he : s.seenWord pa 8 = e) : ∃ t, pteSet s tower pa e bits last = (.done, t) ∧ OnlyBytes s t pa 8 ∧
      t.seenWord pa 8 = (e ||| bits) % 256 ^ 8 := by
  let s1 := share s pa 0 ⟨tower, none⟩ true
  let s2 := share s1 pa 0 ⟨tower, none⟩ true
  let line := putBytes (s.seenWord (lineAddr pa) 64) (pa % 64) 8 (e ||| bits)
  have hseen1 : ∀ a, s1.seen a = s.seen a := seen_of_mem_side rfl rfl
  have hheld : Held s1 pa := held_share h.1
  have hset : pteSet s tower pa e bits last =
      (.done, writeLine s2 pa 0 ⟨tower, none⟩ true line (sideOf s1 pa).tag) := by
    simp only [pteSet, pteSwap, h.1, walkRead_held h hv ha, he, if_true]
    rw [readLine_held hheld]
    dsimp only
    rw [lineVal_bytes, seenWord_congr hseen1]
  have hvalid : tagVc ((sideOf s1 pa).tag &&& 0x1FFFFFF#32) = .valid := (tagVc_cut _).trans hv
  have hbyte (a : Nat) : (writeLine s2 pa 0 ⟨tower, none⟩ true line (sideOf s1 pa).tag).seen a =
      if pa ≤ a ∧ a < pa + 8 then BitVec.ofNat 8 ((e ||| bits) / 256 ^ (a - pa)) else s.seen a := by
    rw [seen_writeLine_hbm (s := s2) (hs.of_eq rfl rfl) h.1, hvalid, if_neg (by decide : Vc.valid ≠ .uninit)]
    by_cases hline : a / 64 = pa / 64
    · rw [if_pos hline, byte_putBytes_seenWord (by omega) _ hline]
    · rw [if_neg hline, if_neg (by omega)]
      exact seen_of_mem_side rfl rfl a
  refine ⟨_, hset, fun a ha => ?_, seenWord_of_bytes fun i hi => ?_⟩
  · rw [hbyte, if_neg (by omega)]
  · rw [hbyte, if_pos (by omega), Nat.add_sub_cancel_left]

end

section
variable {w : Who} {asid va : Nat} {l : Leaf} {s1 : State}

theorem walkFill_error {e : Nat × Nat} {wr : Bool} (h : walk s w.tower asid va = (.error e, s1)) :
    walkFill s w asid va wr = (.error e, s1) := by
  rw [walkFill, walkTries, h]

/-- An entry that has its A fills the TLBs as it is. -/
theorem walkFill_accessed (h : walk s w.tower asid va = (.ok l, s1)) (ha : l.e &&& 64 = 64) :
    walkFill s w asid va false = (.ok l, tlbFill s1 w asid va l) := by
  simp [walkFill, walkTries, h, ha]

/-- An entry without its A is marked before it fills the TLBs. -/
theorem walkFill_marked (h : walk s w.tower asid va = (.ok l, s1)) (ha : l.e &&& 64 ≠ 64)
    (hset : pteSet s1 w.tower l.at_ l.e 64 false = (.done, t)) :
    (walkFill s w asid va false).2 = tlbFill t w asid va { l with e := l.e ||| 64 } := by
  simp [walkFill, walkTries, h, ha, hset]

/-- What a walk that has found a leaf leaves of memory: A is set in its entry, and no other byte changes. -/
theorem walkFill_marks (hs : s.canon) (h : walk s w.tower asid va = (.ok l, s1)) (hm : s1.mem = s.mem)
    (hd : s1.side = s.side) :
    let t := (walkFill s w asid va false).2
    (l.e &&& 64 = 64 → t.mem = s.mem ∧ t.side = s.side) ∧
      (l.e &&& 64 ≠ 64 → Held s1 l.at_ → tagVc (sideOf s1 l.at_).tag = .valid → l.at_ % 8 = 0 →
        s1.seenWord l.at_ 8 = l.e → OnlyBytes s t l.at_ 8 ∧ t.seenWord l.at_ 8 = l.e ||| 64) := by
  refine ⟨fun ha => ?_, fun ha hheld hv hal he => ?_⟩
  · rw [walkFill_accessed h ha]
    exact ⟨hm, hd⟩
  · obtain ⟨t, hset, honly, hword⟩ := pteSet_held (tower := w.tower) (bits := 64) (last := false) (hs.of_eq hm hd) hheld hv
      hal he
    have hlt : l.e ||| 64 < 256 ^ 8 := Nat.or_lt_two_pow (n := 64) (he ▸ seenWord_lt s1 l.at_ 8) (by decide)
    have hfill (a : Nat) : (tlbFill t w asid va { l with e := l.e ||| 64 }).seen a = t.seen a := seen_of_mem_side rfl rfl a
    rw [walkFill_marked h ha hset, seenWord_congr hfill, hword, Nat.mod_eq_of_lt hlt]
    exact ⟨fun a ho => (hfill a).trans ((honly a ho).trans (seen_of_mem_side hm hd a)), rfl⟩

end

/-! ### The events -/

theorem exec_walkComplete (hc : s.cfg.cont = false) (tower core asid va : Nat) :
    exec (.walkComplete tower core asid va) s = .next (walkFill s ⟨tower, some core⟩ asid va false).2 := by
  simp only [exec, execWalkComplete, hc, Bool.false_eq_true, if_false]

theorem exec_counterCacheEviction {tower slot : Nat} (hc : s.cfg.cont = false) (ht : tower < 8) (hn : slot < 2 ^ 20)
    (hw : ∀ w ∈ s.waiters, w.key ≠ slotKey tower slot) :
    exec (.counterCacheEviction tower slot) s = .next (slotEvict s (slotKey tower slot)) := by
  have hnone : s.waiters.any (fun w => w.key == slotKey tower slot) = false := by simpa using hw
  simp only [exec, execCounterCacheEviction, hc, hnone, decide_eq_false (Nat.not_le.mpr ht),
    decide_eq_false (Nat.not_le.mpr hn), Bool.or_self, Bool.false_eq_true, if_false]

end Sys2Proof.Machine

open Sys2Proof Sys2Proof.Machine

/-- Settles O46: each event by its operation with its condition met, and the operation by what it leaves:
`evictLine_leaves`, `grantOwner_held`, `slotEvict_gives` and `walkFill_marks`. -/
theorem cacheEvents : Obligations.CacheEvents := by
  intro s pa tower core key slot va asid hc hd leaves
  have hleaves (i : Instr) (h : exec i s = .next (evictLine s pa)) : leaves i := ⟨_, h, evictLine_leaves hd pa⟩
  refine ⟨fun hpa hl2 => hleaves _ ?l2, fun hsnoop => hleaves _ ?filter, fun h hr => ?snoop, fun h hstore => ?request,
    fun e ht hn hw hs hcc he => ⟨_, exec_counterCacheEviction hc ht hn hw, slotEvict_gives hs hcc he⟩,
    fun r s1 h => ?filled, fun e s1 h => ?error,
    fun l s1 hs h hm hside => ⟨_, exec_walkComplete hc tower core asid va, walkFill_marks hs h hm hside⟩⟩
  case l2 => simp [exec, execL2Eviction, hc, hpa, hl2]
  case filter => simp [exec, execSnoopFilterEviction, hc, hsnoop]
  case snoop =>
    refine ⟨setDir s pa { dirOf s pa with rdc := [] }, by simp only [exec, execHostSnoop, hr], rfl, ?_⟩
    rw [dirOf_setDir hd, if_pos rfl]
  case request =>
    have hexec : exec (.homeRequest pa tower core key true) s = .next (grantOwner s pa tower core key) := by
      simp [exec, execHomeRequest, homeServe, hc, hstore, h.1]
    exact ⟨_, hexec, grantOwner_held hd h tower core key⟩
  case filled => rw [exec_walkComplete hc, h]
  case error => rw [exec_walkComplete hc, walkFill_error (w := ⟨tower, some core⟩) h]
end

section
/-! The check of a line against its check field (R187, R188): what the check says where the stored field differs from the line's
own in the symbols of the check field alone, then the settlement of O60. -/

namespace Sys2Proof.Machine

variable {key pa data tag e : Nat}

/-- A difference put on a check field is what remains once the field is taken off: it is the syndromes (R188). -/
theorem xor_xor_self (c d : Nat) : Nat.xor (Nat.xor c d) c = d := by
  change (c ^^^ d) ^^^ c = d
  rw [Nat.xor_comm c d, Nat.xor_assoc, Nat.xor_self, Nat.xor_zero]

theorem checkLine_own : checkLine key pa data tag (checkField key pa data tag) = .correct := by
  have hd : Nat.xor (checkField key pa data tag) (checkField key pa data tag) = 0 := Nat.xor_self _
  simp only [checkLine, hd, Nat.zero_mod, Nat.zero_div, and_self, if_true]

/-- A difference in symbol c0 alone leaves S1 zero. -/
theorem checkLine_c0 (h0 : 0 < e) (he : e < 65536) :
    checkLine key pa data tag (Nat.xor (checkField key pa data tag) e) = .corrected 34 data tag := by
  simp only [checkLine, xor_xor_self, Nat.mod_eq_of_lt he, Nat.div_eq_of_lt he, h0.ne', false_and, if_false, if_true]

/-- A difference in symbol c1 alone leaves S0 zero. -/
theorem checkLine_c1 (h0 : 0 < e) :
    checkLine key pa data tag (Nat.xor (checkField key pa data tag) (65536 * e)) = .corrected 35 data tag := by
  have hhigh : 65536 * e / 65536 = e := Nat.mul_div_cancel_left e (by decide)
  simp only [checkLine, xor_xor_self, Nat.mul_mod_right, hhigh, h0.ne', and_false, if_false, if_true]

end Sys2Proof.Machine

open Sys2Proof Sys2Proof.Machine

/-- Settles O60: the syndromes are the difference of the two check fields (`xor_xor_self`). -/
theorem checkFieldHolds : Obligations.CheckFieldHolds :=
  fun _ _ _ _ _ _ _ h0 he => ⟨checkLine_own, checkLine_c0 h0 he, checkLine_c1 h0⟩
end

section
/-! The completion of a recode job while a vector load that issued with an old translation of its page is on its way (R163, R164,
R210): the refutation of O52. -/

namespace Sys2Proof.Machine

variable {s : State} {tower : Nat} {c : Cmd} {r : RecodeRec} {leaves : List Nat} {g : Guard}

/-- A job whose TLBI is out waits for a vector load that still reads through an old translation of a page of it (R163). -/
theorem exec_recodeShootDone_waits (hc : s.cfg.cont = false) (hjob : recodeHead s tower = some (c, r, .shoot, leaves))
    (hg : g ∈ s.guards) (hmine : g.cmd = c.id) (hreads : readsOld s g = true) :
    exec (.recodeShootDone tower) s = .next s := by
  have hany : (s.guards.filter fun g => g.cmd == c.id).any (fun g => readsOld s g ||
      s.cmds.any fun d => d.id != c.id && pinsPage d g && !takesAfresh d g) = true :=
    List.any_eq_true.mpr ⟨g, List.mem_filter.mpr ⟨hg, by simp [hmine]⟩, by simp [hreads]⟩
  have hst : (RecodeSt.shoot == RecodeSt.shoot) = true := by decide
  simp only [exec, execRecodeShootDone, onJob, hjob, hc, hst, Bool.not_false, Bool.and_self, hany, if_true]

/-- A recode of page 5 of address space 0 into the frame at 0x40000. -/
def pageJob : RecodeRec := recodeOf 0 [(0x50000, 0x40000)]

/-- Its command, with the remap done and its TLBI out. -/
def shootCmd : Cmd := { newCmd State.reset (.recode pageJob .shoot []) 0 0 0 [] 0 0 with launch := none }

/-- Its guard: the old frame at 0, the new one at 0x40000. -/
def pageGuard : Guard := ⟨0, 0, 5, 0, 65536, 0x40000, 65536, 0⟩

/-- A vector load on its way whose element translated to the old frame. -/
def oldFrameLoad : PLoad :=
  { pendingLoad (loadOp (.vldUnit 0 0 3) 0 0 0 3 .unit false State.reset) 0 none State.reset.h.a with
    els := [(0, 8 * 0x50000, ⟨0, 3, 0, 0⟩)] }

/-- The part with the job, its guard, and one hart with that load. -/
def shootWaiting : State :=
  { State.reset with
    h := { State.reset.h with asid := 0, loads := [oldFrameLoad] }, rest := [], cmds := [shootCmd], guards := [pageGuard] }

/-- What the statement has the job leave: its guard is gone. -/
theorem shootWaiting_ended_guards :
    ((cmdAdd { refreshPins 0 shootCmd.id [pageGuard] shootWaiting with guards := [] } shootCmd pageJob.done 1).dropCmd
      shootCmd.id).guards = [] := by decide

end Sys2Proof.Machine

open Sys2Proof Sys2Proof.Machine

/-- Refutes O52: its last clause has a job end once no other command holds an old translation of its pages; but the job also waits
for a vector load that issued with one and whose lines have not arrived (R163). -/
theorem not_enginesWork : ¬ Obligations.EnginesWork := by
  unfold Obligations.EnginesWork
  intro h
  have hhead : recodeHead shootWaiting 0 = some (shootCmd, pageJob, .shoot, []) := by decide
  obtain ⟨-, -, -, hjob⟩ := h shootWaiting 0 0 shootCmd rfl
  obtain ⟨-, -, -, hshoot⟩ := hjob pageJob .shoot [] hhead
  have hother : ∀ g ∈ shootWaiting.guards.filter (fun g => g.cmd == shootCmd.id), ∀ d ∈ shootWaiting.cmds,
      d.id ≠ shootCmd.id → pinsPage d g = true → takesAfresh d g = true := by decide
  have hends := hshoot rfl hother
  rw [exec_recodeShootDone_waits (g := pageGuard) rfl hhead (List.mem_singleton.mpr rfl) rfl (by decide)] at hends
  have hguards : [pageGuard] = [] := (congrArg State.guards (Host.Outcome.next.inj hends)).trans shootWaiting_ended_guards
  exact List.cons_ne_nil _ _ hguards
end

section
/-! How the vector stores issue (R256, R377, R378): with nothing older in flight they pop their entries and join the unresolved
stores. -/

namespace Sys2Proof.Machine

variable {s : State} {w acc kind : Nat} {p : PStore} {i : Instr} {q : BitVec 3} {a : BitVec 6} {e m : BitVec 3} {stride : Word}
  {r idx : VReg}

/-- Popping entries changes the data queues alone. -/
theorem popEntries_eq (qs : List Nat) (h : Hart) : ∃ dq, qs.foldl (fun h q => popEntry q h) h = { h with dq := dq } := by
  induction qs generalizing h with
  | nil => exact ⟨_, rfl⟩
  | cons q qs ih => exact ih (popEntry q h)

/-- A store as it stands among the unresolved ones: numbered, with its place, STRIP and RM of its issue (R258, R378). -/
def PStore.issued (p : PStore) (s : State) : PStore :=
  { p with seq := s.h.storeSeq, pc := s.cur.pc, strip := s.h.strip, rm := s.h.rm }

/-- The state of a vector store that has popped its entries from some queues: it joins the unresolved stores, unless it writes no
element (R256). -/
def storeTaken (p : PStore) (qs : List Nat) (s : State) : State :=
  { s with h := { qs.foldl (fun h q => popEntry q h) s.h with
      stores := if (storeEls p).isEmpty then [] else [p.issued s], storeSeq := s.h.storeSeq + 1 } }

theorem storeTaken_atWord {qs : List Nat} (hs : ReadyA s w) : AtWord (storeTaken p qs s) w := by
  obtain ⟨dq, hpop⟩ := popEntries_eq qs s.h
  have hat := atWord_readyA hs
  rw [storeTaken, hpop]
  exact hat

/-- The first store in flight joins the list, and the stream moves on. -/
theorem pushStore_first (hstore : s.h.stores = []) :
    pushStore p s = ({ s with h := { s.h with stores := [p.issued s], storeSeq := s.h.storeSeq + 1 } } : State).advance := by
  have hroom : ¬ 16 ≤ s.h.stores.length := by simp [hstore]
  rw [pushStore, if_neg hroom, hstore]
  rfl

theorem storeIssue_ready {qs : List Nat} (hs : ReadyA s w) (hl : s.logFull s.h = false) :
    storeIssue p acc qs s = (storeTaken p qs s).advance := by
  obtain ⟨hx, -, -, hstore, -⟩ := hs
  obtain ⟨dq, hpop⟩ := popEntries_eq qs s.h
  have hroom : ¬ 16 ≤ s.h.stores.length := by simp [hstore]
  rw [storeIssue, notFull, hl, if_neg Bool.false_ne_true, storeTaken, hpop]
  cases hels : storeEls p with
  | nil => exact congrArg (fun l => State.advance { s with h := { s.h with dq := dq, stores := l, storeSeq := _ } }) hstore
  | cons x xs =>
    have hpush := pushStore_first (p := p) (s := { s with h := { s.h with dq := dq } }) hstore
    have hissued : p.issued { s with h := { s.h with dq := dq } } = p.issued s := by
      simp only [PStore.issued, State.cur, hx, Bool.false_eq_true, if_false]
    rw [hissued] at hpush
    simp only [if_neg hroom]
    exact hpush

theorem vectorStoreIssue_ready (hs : ReadyA s w) (hth : s.h.th = false) (hl : s.logFull s.h = false)
    (hr : headEntry s.h q.toNat = some r) (ha : 8 * (s.reg a.toNat).toNat % (4 * 2 ^ e.toNat) = 0)
    (hstride : 8 * stride.toNat % (4 * 2 ^ e.toNat) = 0) :
    vectorStoreIssue i q a stride e kind s = (storeTaken (vectorEntry kind (s.reg a.toNat) stride (ewBits e)
      (elemCount s.h (ewBits e)) r none 0) [q.toNat] s).advance := by
  simp only [vectorStoreIssue, queueUse_ready hs hth, confirmed_ready hs, misaligned_eq_false ha, misaligned_eq_false hstride,
    Bool.or_self, Bool.false_eq_true, if_false, hr, storeIssue_ready hs hl]

theorem exec_vstx_ready (hs : ReadyA s w) (hth : s.h.th = false) (hl : s.logFull s.h = false)
    (hr : headEntry s.h q.toNat = some r) (ha : 8 * (s.reg a.toNat).toNat % (4 * 2 ^ e.toNat) = 0)
    (hidx : headEntry s.h (otherQueue q.toNat) = some idx) (hc : indexCause idx = none) :
    exec (.vstx q a e m) s = .next (storeTaken (vectorEntry 6 (s.reg a.toNat) 0 (ewBits e)
      (Nat.min (elemCount s.h (ewBits e)) (regCount s.h idx)) r (some idx) (s.h.mask m.toNat))
        [q.toNat, otherQueue q.toNat] s).advance := by
  simp only [exec, execVstx, queueUse_ready hs hth, confirmed_ready hs, misaligned_eq_false ha, Bool.false_eq_true, if_false, hr,
    hidx, hc, storeIssue_ready hs hl]

end Sys2Proof.Machine
end

section
/-! What the resolution of a vector store leaves where every line that it reaches is held and stands in the register's format, a
format without scales, or is UNINIT (R196, R206, R256, R377, R378), then the settlement of O24. -/

namespace Sys2Proof.Machine

variable {s t : State} {r : VReg} {p : PStore} {old : LineVal} {f ew pa line k : Nat} {es all : List ElemAt} {e : ElemAt}

/-! ### Elements that a store reaches (R374, R377) -/

/-- An element that passes stands at its place on a page of its size. -/
theorem reachElems_place {need : Need} {els : List (Nat × Nat)} (he : e ∈ (reachElems need ew els s).1) :
    elemSize (pteLFMT e.x.leaf) = ew ∧ ∃ ba, e = elemPlace e.i ba e.x := by
  induction els generalizing s with
  | nil => exact absurd he List.not_mem_nil
  | cons x els ih =>
    unfold reachElems at he
    dsimp only at he
    split at he
    · exact ih he
    · split at he
      · exact ih he
      · next hsize =>
        rcases List.mem_cons.mp he with rfl | he
        · exact ⟨not_not.mp hsize, _, rfl⟩
        · exact ih he

/-- The elements that pass keep their order. -/
theorem reachElems_sublist (need : Need) (els : List (Nat × Nat)) :
    ((reachElems need ew els s).1.map ElemAt.i).Sublist (els.map Prod.fst) := by
  induction els generalizing s with
  | nil => exact List.Sublist.slnil
  | cons x els ih =>
    unfold reachElems
    dsimp only
    split
    · exact ih.cons _
    · split
      · exact ih.cons _
      · exact ih.cons_cons _

/-- A vector store lists its elements in ascending order. -/
theorem storeEls_ascending (p : PStore) : ((storeEls p).map Prod.fst).Pairwise (· < ·) := by
  have hstep (base : Word) (step : Int) (n : Nat) : ((stepEls base step n).map Prod.fst).Pairwise (· < ·) := by
    rw [stepEls, List.map_map]
    exact (List.map_id (List.range n)).symm ▸ List.pairwise_lt_range
  unfold storeEls
  split
  · exact hstep _ _ _
  · rw [indexEls, List.map_map]
    exact (List.map_id _).symm ▸ List.pairwise_lt_range.sublist List.filter_sublist
  · exact hstep _ _ _

/-! ### What a line takes (R206) -/

/-- The element that a store puts at position k of a line: the last of those that fall there (R377). -/
def slotElem (ew : Nat) (es : List ElemAt) (k : Nat) : Option ElemAt := (es.filter fun e => e.bit / ew == k).getLast?

/-- The code that a store leaves at position k of a line. -/
def slotCode (r : VReg) (old : LineVal) (ew : Nat) (es : List ElemAt) (k : Nat) : Nat :=
  match slotElem ew es k with
  | some e => regCode r e.i
  | none => oldCode old ew k

theorem slotCode_congr {old' : LineVal} (h : oldCode old ew k = oldCode old' ew k) :
    slotCode r old ew es k = slotCode r old' ew es k := by
  unfold slotCode
  split
  · rfl
  · exact h

/-- A line that elements of a format may join: UNINIT, or VALID in that format. -/
def LineVal.joins (f : Nat) (l : LineVal) : Prop := tagVc l.tag = .uninit ∨ tagVc l.tag = .valid ∧ tagFmt l.tag = f

theorem lineSlots_eq (ew : Nat) (es : List ElemAt) :
    lineSlots ew es = (List.range (512 / ew)).map fun k => (slotElem ew es k).map ElemAt.i := rfl

theorem elemSize_mul_line (f : Nat) : 512 / elemSize f = 256 / elemSize f + 256 / elemSize f := by
  unfold elemSize
  split <;> rfl

/-- Position p of half b of a line's slots is position p + b * per of the line. -/
theorem listAt_half {α : Type} (g : Nat → α) {per b i : Nat} (hb : b ≤ 1) (hi : i < per) :
    listAt ((((List.range (per + per)).map g).drop (per * b)).take per) i = some (g (per * b + i)) := by
  have hlt : per * b + i < per + per := by
    have : per * b ≤ per * 1 := Nat.mul_le_mul_left _ hb
    omega
  rw [listAt_eq_getElem?, List.getElem?_take_of_lt hi, List.getElem?_drop, List.getElem?_map, List.getElem?_range hlt]
  rfl

/-- A block of a line that takes elements of a format without scales: the codes of its positions. -/
theorem blockPlain_codes {b rm : Nat} {old : LineVal} (hb : b ≤ 1) (hf : fmtScaled r.fmt.toNat = false)
    (hold : old.joins r.fmt.toNat) (hper : 512 / ew = 256 / ew + 256 / ew) :
    ∃ fl, blockPlain r old ew b rm (((lineSlots ew es).drop (256 / ew * b)).take (256 / ew)) =
      ((List.range (256 / ew)).map fun i => slotCode r old ew es (256 / ew * b + i), 127, fl) := by
  refine ⟨_, Prod.ext ?_ (Prod.ext ?_ rfl)⟩ <;> unfold blockPlain <;> simp only [hf, Bool.not_false, if_true, List.map_map]
  refine List.map_congr_left fun i hi => ?_
  simp only [Function.comp_apply, lineSlots_eq, hper, listAt_half _ hb (List.mem_range.mp hi), Option.getD_some, slotCode]
  cases slotElem ew es (256 / ew * b + i) with
  | some e => rfl
  | none =>
    rcases hold with hu | ⟨hv, hfmt⟩
    · simp [LineVal.live, hu, oldCode, LineVal.bytes]
    · simp [LineVal.live, hv, hfmt]

/-- The data of a line whose positions hold the codes that a store leaves. -/
def slotData (r : VReg) (old : LineVal) (ew : Nat) (es : List ElemAt) : Nat :=
  packCodes ew ((List.range (512 / ew)).map (slotCode r old ew es))

theorem storeLine_ofFormat {lfmt rm : Nat} {old : LineVal} (hvc : r.vc = .valid) (hrot : r.hrot = 0)
    (hf : fmtScaled r.fmt.toNat = false) (hew : elemSize r.fmt.toNat = ew) (hsize : elemSize lfmt = ew)
    (hold : old.joins r.fmt.toNat) : ∃ fl, storeLine r false lfmt 1 rm old (lineSlots ew es) =
      .ok (slotData r old ew es, mkTag r.fmt.toNat .valid 0 127 127, fl) := by
  have hper : 512 / ew = 256 / ew + 256 / ew := hew ▸ elemSize_mul_line r.fmt.toNat
  have hfour : ¬ ew < 4 := by
    rw [← hew, elemSize]
    split <;> decide
  have hlive : old.live = true → tagFmt old.tag = r.fmt.toNat := fun hl =>
    (hold.resolve_left (OfFormat.live_iff.mp hl)).2
  have hclass : combineVc [tagVc old.tag, .valid] = .valid := by
    rcases hold with hu | ⟨hv, -⟩
    · rw [hu]; rfl
    · rw [hv]; rfl
  obtain ⟨fl0, h0⟩ := blockPlain_codes (es := es) (rm := rm) (b := 0) (Nat.zero_le 1) hf hold hper
  obtain ⟨fl1, h1⟩ := blockPlain_codes (es := es) (rm := rm) (b := 1) (Nat.le_refl 1) hf hold hper
  have hcodes : ((List.range (256 / ew)).map fun i => slotCode r old ew es (256 / ew * 0 + i)) ++
      ((List.range (256 / ew)).map fun i => slotCode r old ew es (256 / ew * 1 + i)) =
      (List.range (512 / ew)).map (slotCode r old ew es) := by
    rw [hper, List.range_add, List.map_append, List.map_map]
    simp [Function.comp_def]
  refine ⟨fl0 ||| fl1, ?_⟩
  unfold storeLine
  simp only [Nat.div_one, hsize, hew, hfour, false_or, Bool.not_false, if_true, h0, h1, hcodes, hrot, hclass, hvc, ite_self]
  rw [if_neg fun h => h.2 ((congrArg elemSize (hlive h.1)).trans hew), if_neg]
  · rw [if_neg (by decide : Vc.valid ≠ .uninit)]
    rfl
  · rintro (h | ⟨-, hl, hne, -⟩)
    · exact h rfl
    · exact hne (hlive hl)

/-! ### Codes of a line -/

/-- The code at position k of a line, as the part reads it. -/
def State.lineCode (s : State) (ew line k : Nat) : Nat := s.seenWord line 64 / 2 ^ (ew * k) % 2 ^ ew

theorem lineCode_congr (h : ∀ i, i < 64 → t.seen (line + i) = s.seen (line + i)) :
    t.lineCode ew line k = s.lineCode ew line k := by
  have hword : t.seenWord line 64 = s.seenWord line 64 % 256 ^ 64 :=
    seenWord_of_bytes fun i hi => (h i hi).trans (byte_seenWord hi).symm
  rw [State.lineCode, hword, Nat.mod_eq_of_lt (seenWord_lt s line 64), State.lineCode]

theorem oldCode_heldLine : oldCode (heldLine s (lineAddr pa)) ew k = s.lineCode ew (lineAddr pa) k := by
  rw [oldCode, heldLine_bytes, State.lineCode]

theorem slotData_lt (r : VReg) (old : LineVal) (ew : Nat) (es : List ElemAt) : slotData r old ew es < 256 ^ 64 := by
  have hlt := packCodes_lt ew ((List.range (512 / ew)).map (slotCode r old ew es))
  rw [List.length_map, List.length_range] at hlt
  have hle : ew * (512 / ew) ≤ 8 * 64 := Nat.mul_div_le 512 ew
  have hpow := Nat.pow_le_pow_right (n := 2) Nat.two_pos hle
  rw [Nat.pow_mul 2 8 64] at hpow
  exact hlt.trans_le hpow

theorem slotCode_lt (hew : elemSize r.fmt.toNat = ew) (old : LineVal) (es : List ElemAt) (k : Nat) :
    slotCode r old ew es k < 2 ^ ew := by
  unfold slotCode
  split
  · exact hew ▸ regCode_lt r _
  · exact Nat.mod_lt _ (Nat.two_pow_pos ew)

theorem elemSize_pos (f : Nat) : 0 < elemSize f := by
  unfold elemSize
  split <;> decide

theorem slotData_code (hew : elemSize r.fmt.toNat = ew) (hk : ew * (k + 1) ≤ 512) (old : LineVal) (es : List ElemAt) :
    slotData r old ew es / 2 ^ (ew * k) % 2 ^ ew = slotCode r old ew es k := by
  have hlt : k < 512 / ew := (Nat.le_div_iff_mul_le (hew ▸ elemSize_pos r.fmt.toNat)).mpr (Nat.mul_comm ew _ ▸ hk)
  rw [Nat.mul_comm ew k, ← Nat.shiftRight_eq_div_pow, slotData, packCodes_elem _ _ _ (by simpa using hlt), List.getElem_map,
    List.getElem_range, Nat.mod_eq_of_lt (slotCode_lt hew old es k)]

/-! ### Writing a line -/

theorem tagFmt_mkTag (f : Nat) (vc : Vc) (hrot sc0 sc1 : Nat) :
    tagFmt (mkTag f vc hrot sc0 sc1 &&& 0x1FFFFFF#32) = f % 32 := by
  rw [tagFmt, BitVec.toNat_and, show (0x1FFFFFF#32).toNat = 2 ^ 25 - 1 from rfl, Nat.and_two_pow_sub_one_eq_mod, mkTag,
    BitVec.toNat_ofNat]
  omega

theorem writeBits_hbm {key mask d : Nat} {w : Who} {noL1 : Bool} {tag : BitVec 32} (hr : regionOf s pa = .hbm) :
    writeBits s pa key w noL1 mask d tag = writeLine s pa key w noL1 d tag := by
  rw [writeBits, hr]

/-- A line of HBM4E that has an owner is held at its home (R147). -/
theorem own_eq_setDir (hpa : pa < hbmSize) (key : Nat) (w : Who) (noL1 : Bool) :
    ∃ d, d ≠ Dir.none ∧ own s pa key w noL1 = setDir s pa d := by
  obtain ⟨d, hown, hl2⟩ : ∃ d, own s pa key w noL1 = setDir s pa d ∧ d.l2 = decide (pa < hbmSize) := ⟨_, rfl, rfl⟩
  exact ⟨d, fun h => by simp [h, Dir.none, hpa] at hl2, hown⟩

/-- A write of a line of HBM4E leaves every other held line held. -/
theorem Held.writeLine_other {a key d : Nat} {w : Who} {noL1 : Bool} {tag : BitVec 32} (hr : regionOf s pa = .hbm)
    (ha : Held s a) (hline : a / 64 ≠ pa / 64) : Held (writeLine s pa key w noL1 d tag) a := by
  obtain ⟨x, hne, hown⟩ := own_eq_setDir (s := putLine s pa d (tag &&& 0x1FFFFFF#32)) (regionOf_eq_hbm.mp hr) key w noL1
  have hkeep : dirOf (Machine.writeLine s pa key w noL1 d tag) a = dirOf s a := by
    rw [writeLine_hbm hr, hown, dirOf, freshCheck_dir, setDir, putLine_dir]
    exact SMap.get_set_other_of_ne s.dir hne hline
  exact ⟨regionOf_eq_hbm.mpr (regionOf_eq_hbm.mp ha.1), by rw [hkeep]; exact ha.2⟩

/-- An element that a store in a format may write: on a page that does not demote, of its size, its line held and UNINIT or
VALID in that format. -/
structure Takes (f ew : Nat) (s : State) (e : ElemAt) : Prop where
  ratio : e.x.ratio = 1
  dpol : pteDPOL e.x.leaf = false
  size : elemSize (pteLFMT e.x.leaf) = ew
  line : e.line = lineAddr e.x.pa
  held : Held s e.x.pa
  joins : (heldLine s e.line).joins f

/-- The state once a store has written the line of an element. -/
def lineStored (r : VReg) (ew : Nat) (es : List ElemAt) (e : ElemAt) (s : State) : State :=
  writeLine (share s e.x.pa (pteKEY e.x.leaf) s.h.who s.h.noL1) e.x.pa (pteKEY e.x.leaf) s.h.who s.h.noL1
    (slotData r (heldLine s e.line) ew es) (mkTag r.fmt.toNat .valid 0 127 127)

section
variable (hs : s.canon) (he : Takes f ew s e)
include hs he

theorem lineStored_seen (a : Nat) : (lineStored r ew es e s).seen a =
    if a / 64 = e.x.pa / 64 then BitVec.ofNat 8 (slotData r (heldLine s e.line) ew es / 256 ^ (a % 64)) else s.seen a := by
  rw [lineStored, seen_writeLine_hbm hs.share (held_share he.held.1).1, tagVc_mkTag, if_neg (by decide : Vc.valid ≠ .uninit)]
  rfl

theorem lineStored_tag (a : Nat) : (sideOf (lineStored r ew es e s) a).tag =
    if a / 64 = e.x.pa / 64 then mkTag r.fmt.toNat .valid 0 127 127 &&& 0x1FFFFFF#32 else (sideOf s a).tag :=
  tag_writeLine_hbm hs.share (held_share he.held.1).1 a

/-- The line holds the codes that the store leaves. -/
theorem lineStored_code (hew : elemSize r.fmt.toNat = ew) (hk : ew * (k + 1) ≤ 512) :
    (lineStored r ew es e s).lineCode ew e.line k = slotCode r (heldLine s e.line) ew es k := by
  have hword : (lineStored r ew es e s).seenWord e.line 64 = slotData r (heldLine s e.line) ew es % 256 ^ 64 := by
    refine seenWord_of_bytes fun i hi => ?_
    have hdiv : (e.line + i) / 64 = e.x.pa / 64 := by rw [he.line, lineAddr]; omega
    have hmod : (e.line + i) % 64 = i := by rw [he.line, lineAddr]; omega
    rw [lineStored_seen hs he, if_pos hdiv, hmod]
  rw [State.lineCode, hword, Nat.mod_eq_of_lt (slotData_lt ..), slotData_code hew hk]

end

/-! ### Writing the lines of a store (R377) -/

/-- An element on another line may be written as before. -/
theorem Takes.lineStored_other {x : ElemAt} (hs : s.canon) (he : Takes f ew s e) (hx : Takes f ew s x) (hne : x.line ≠ e.line) :
    Takes f ew (lineStored r ew es e s) x := by
  have hdiv : x.x.pa / 64 ≠ e.x.pa / 64 := fun h => hne (by rw [hx.line, he.line, lineAddr, lineAddr, h])
  have htag : (heldLine (lineStored r ew es e s) x.line).tag = (heldLine s x.line).tag := by
    refine (lineStored_tag hs he x.line).trans (if_neg ?_)
    rw [hx.line, lineAddr]
    omega
  refine ⟨hx.ratio, hx.dpol, hx.size, hx.line, ?_, ?_⟩
  · exact Held.writeLine_other (held_share he.held.1).1 (he.held.share hx.held) hdiv
  · rw [LineVal.joins, htag]
    exact hx.joins

/-- What the first line of a store comes to. -/
theorem storeLines_cons {rm : BitVec 3} {lines : List Nat} {rest : List ElemAt} (hvc : r.vc = .valid) (hrot : r.hrot = 0)
    (hf : fmtScaled r.fmt.toNat = false) (hew : elemSize r.fmt.toNat = ew) (he : Takes r.fmt.toNat ew s e)
    (hmine : (all.filter fun e => e.line == line) = e :: rest) : ∃ fl, storeLines r none ew rm all (line :: lines) s =
      let after := storeLines r none ew rm all lines (lineStored r ew (e :: rest) e s)
      (after.1, fl ||| after.2.1, after.2.2) := by
  obtain ⟨hratio, hdpol, hsize, hline, hheld, hjoins⟩ := he
  obtain rfl : e.line = line := by
    have hmem : e ∈ all.filter fun e => e.line == line := hmine ▸ List.mem_cons_self ..
    simpa using (List.mem_filter.mp hmem).2
  have hhbm : regionOf s e.line = .hbm := by
    rw [hline, regionOf_eq_hbm, lineAddr]
    have := regionOf_eq_hbm.mp hheld.1
    omega
  have hread : (⟨lineData s e.x.pa, (sideOf s e.x.pa).tag, false⟩ : LineVal) = heldLine s e.line := by
    rw [hline, heldLine_lineAddr]
  obtain ⟨fl, hstore⟩ := storeLine_ofFormat (es := e :: rest) (rm := memRm rm) hvc hrot hf hew hsize hjoins
  refine ⟨fl, ?_⟩
  rw [storeLines, hmine]
  simp only [hhbm, Bool.false_eq_true, if_false, readLine_held hheld, hread, hratio, Nat.div_one, hdpol, hstore, logIfHome,
    List.nil_append, writeBits_hbm (held_share hheld.1).1]
  rfl

/-- The lines of a store are written one after another: each holds the codes that the store leaves there and has the register's
format; nothing else changes. -/
theorem storeLines_ofFormat {rm : BitVec 3} {lines : List Nat} (hvc : r.vc = .valid) (hrot : r.hrot = 0)
    (hf : fmtScaled r.fmt.toNat = false) (hew : elemSize r.fmt.toNat = ew) (hs : s.canon) (hnd : lines.Nodup)
    (hall : ∀ e ∈ all, e.line ∈ lines → Takes r.fmt.toNat ew s e) (hlines : ∀ n ∈ lines, ∃ e ∈ all, e.line = n) :
    ∃ fl t, storeLines r none ew rm all lines s = ([], fl, t) ∧ t.h = s.h ∧
      (∀ a, lineAddr a ∉ lines → t.seen a = s.seen a ∧ (sideOf t a).tag = (sideOf s a).tag) ∧
      ∀ e ∈ all, e.line ∈ lines →
        (sideOf t e.line).tag = mkTag r.fmt.toNat .valid 0 127 127 &&& 0x1FFFFFF#32 ∧
        ∀ k, ew * (k + 1) ≤ 512 →
          t.lineCode ew e.line k = slotCode r (heldLine s e.line) ew (all.filter fun x => x.line == e.line) k := by
  induction lines generalizing s with
  | nil => exact ⟨0, s, rfl, rfl, fun _ _ => ⟨rfl, rfl⟩, fun _ _ h => absurd h List.not_mem_nil⟩
  | cons line lines ih =>
    obtain ⟨hnew, hrestnd⟩ := List.nodup_cons.mp hnd
    obtain ⟨y, hy, hyline⟩ := hlines line (List.mem_cons_self ..)
    obtain ⟨e, rest, hmine⟩ : ∃ e rest, (all.filter fun e => e.line == line) = e :: rest :=
      List.exists_cons_of_ne_nil (List.ne_nil_of_mem (List.mem_filter.mpr ⟨hy, by simp [hyline]⟩))
    have hmem : e ∈ all ∧ e.line = line := by
      have h := List.mem_filter.mp (hmine ▸ List.mem_cons_self .. : e ∈ all.filter fun e => e.line == line)
      exact ⟨h.1, by simpa using h.2⟩
    obtain ⟨heall, rfl⟩ := hmem
    have he := hall e heall (List.mem_cons_self ..)
    obtain ⟨fl, hcons⟩ := storeLines_cons (lines := lines) (rm := rm) hvc hrot hf hew he hmine
    have hother (x : ElemAt) (hx : x.line ∈ lines) : x.line ≠ e.line := fun h => hnew (h ▸ hx)
    obtain ⟨fl', t, hrest, hh, hout, hin⟩ := ih (s := lineStored r ew (e :: rest) e s) hs.share.writeLine hrestnd
      (fun x hx hxl => he.lineStored_other hs (hall x hx (List.mem_cons_of_mem _ hxl)) (hother x hxl))
      (fun n hn => hlines n (List.mem_cons_of_mem _ hn))
    have hdiv : e.line / 64 = e.x.pa / 64 := by rw [he.line, lineAddr]; omega
    refine ⟨fl ||| fl', t, by rw [hcons, hrest], hh.trans (State.units_h (writeLine_units ..)), fun a ha => ?_,
      fun x hx hxl => ?_⟩
    · obtain ⟨hseen, htag⟩ := hout a (List.not_mem_of_not_mem_cons ha)
      have hdiv : a / 64 ≠ e.x.pa / 64 := fun h =>
        List.ne_of_not_mem_cons ha (by rw [he.line, lineAddr, lineAddr, h])
      rw [hseen, htag, lineStored_seen hs he, lineStored_tag hs he, if_neg hdiv, if_neg hdiv]
      exact ⟨rfl, rfl⟩
    · rcases List.mem_cons.mp hxl with hxe | hxl
      · rw [hxe]
        have hsame (i : Nat) (hi : i < 64) : lineAddr (e.line + i) ∉ lines := by
          rw [show lineAddr (e.line + i) = e.line by rw [he.line, lineAddr, lineAddr]; omega]
          exact hnew
        refine ⟨((hout _ (hsame 0 (by decide))).2.trans (lineStored_tag hs he _)).trans (if_pos hdiv), fun k hk => ?_⟩
        rw [lineCode_congr fun i hi => (hout _ (hsame i hi)).1, lineStored_code hs he hew hk, hmine]
      · obtain ⟨htag, hcode⟩ := hin x hx hxl
        refine ⟨htag, fun k hk => (hcode k hk).trans (slotCode_congr ?_)⟩
        have hxt := hall x hx (List.mem_cons_of_mem _ hxl)
        rw [hxt.line, oldCode_heldLine, oldCode_heldLine]
        refine lineCode_congr fun i hi => (lineStored_seen hs he _).trans (if_neg fun h => hother x hxl ?_)
        rw [hxt.line, he.line, lineAddr, lineAddr, ← h, lineAddr]
        omega

/-! ### The place of an element (R377) -/

/-- An element of a page that is not compacted begins in its line. -/
theorem bit_lt_of_place {ba : Nat} (hratio : e.x.ratio = 1) (he : e = elemPlace e.i ba e.x) : e.bit < 512 := by
  have hbit : e.bit = 8 * (e.x.pa % 64) + ba % 8 := (congrArg ElemAt.bit he).trans (if_pos hratio)
  omega

theorem elemSize_position_le {bit : Nat} (f : Nat) (hb : bit < 512) : elemSize f * (bit / elemSize f + 1) ≤ 512 := by
  unfold elemSize
  split <;> omega

/-- An element that a store reaches has a whole position in its line. -/
theorem reached_position_le {els : List (Nat × Nat)} (he : e ∈ (reachElems .write ew els s).1) (hratio : e.x.ratio = 1)
    (hew : elemSize f = ew) : ew * (e.bit / ew + 1) ≤ 512 := by
  obtain ⟨-, ba, hplace⟩ := reachElems_place he
  exact hew ▸ elemSize_position_le f (bit_lt_of_place hratio hplace)

/-- An element that a store reaches, on a page and a line that the format may join, may be written. -/
theorem reached_takes {els : List (Nat × Nat)} (he : e ∈ (reachElems .write ew els s).1)
    (hpage : e.x.ratio = 1 ∧ Held s e.x.pa ∧ pteDPOL e.x.leaf = false ∧
      (tagVc (sideOf s e.x.pa).tag = .uninit ∨ tagVc (sideOf s e.x.pa).tag = .valid ∧ tagFmt (sideOf s e.x.pa).tag = f)) :
    Takes f ew s e := by
  obtain ⟨hratio, hheld, hdpol, htag⟩ := hpage
  obtain ⟨hsize, ba, hplace⟩ := reachElems_place he
  have hline : e.line = lineAddr e.x.pa := congrArg ElemAt.line hplace
  exact ⟨hratio, hdpol, hsize, hline, hheld, by rw [hline, heldLine_lineAddr]; exact htag⟩

/-- The last of elements in ascending order has the highest number. -/
theorem le_getLast {x : ElemAt} (hasc : (es.map ElemAt.i).Pairwise (· < ·)) (he : e ∈ es) (hx : es.getLast? = some x) :
    x ∈ es ∧ e.i ≤ x.i := by
  obtain ⟨init, rfl⟩ := List.getLast?_eq_some_iff.mp hx
  refine ⟨by simp, ?_⟩
  rw [List.map_append, List.pairwise_append] at hasc
  obtain ⟨-, -, hlast⟩ := hasc
  rcases List.mem_append.mp he with h | h
  · exact Nat.le_of_lt (hlast _ (List.mem_map_of_mem h) x.i (by simp))
  · rw [List.mem_singleton.mp h]

/-- The element that is the last at its place stands there. -/
theorem slotElem_last (hasc : (all.map ElemAt.i).Pairwise (· < ·)) (he : e ∈ all)
    (hlast : ∀ x ∈ all, (x.line, x.bit / ew) = (e.line, e.bit / ew) → x.i ≤ e.i) :
    ∃ x, slotElem ew (all.filter fun x => x.line == e.line) (e.bit / ew) = some x ∧ x.i = e.i := by
  have hin : e ∈ (all.filter fun x => x.line == e.line).filter fun x => x.bit / ew == e.bit / ew := by simp [he]
  obtain ⟨x, hx⟩ := Option.ne_none_iff_exists'.mp (mt List.getLast?_eq_none_iff.mp (List.ne_nil_of_mem hin))
  obtain ⟨hmem, hle⟩ := le_getLast
    (hasc.sublist ((List.filter_sublist.trans List.filter_sublist).map _)) hin hx
  refine ⟨x, hx, Nat.le_antisymm (hlast x ?_ ?_) hle⟩
  · exact (List.mem_filter.mp (List.mem_filter.mp hmem).1).1
  · obtain ⟨hmem, hbit⟩ := List.mem_filter.mp hmem
    rw [eq_of_beq (List.mem_filter.mp hmem).2, eq_of_beq hbit]

/-- No element stands where none falls. -/
theorem slotElem_none (hnone : ∀ x ∈ all, (x.line, x.bit / ew) ≠ (line, k)) :
    slotElem ew (all.filter fun x => x.line == line) k = none := by
  have hempty : ((all.filter fun x => x.line == line).filter fun x => x.bit / ew == k) = [] := by
    refine List.filter_eq_nil_iff.mpr fun x hx hk => ?_
    obtain ⟨hx, hline⟩ := List.mem_filter.mp hx
    exact hnone x hx (by rw [eq_of_beq hline, eq_of_beq hk])
  rw [slotElem, hempty]
  rfl

/-! ### Resolution (R256) -/

/-- The one store in flight is the one that is resolved. -/
theorem resolveSome_single (hp : s.h.stores = [p]) : resolveSome s = resolveAt s 0 := by
  have hready : readyStores s = [0] := by simp [readyStores, hp, listAt, List.range_succ]
  rw [resolveSome, hready]

/-- A store that is performed leaves the list, with no record. -/
theorem resolveAt_done (hp : s.h.stores = [p]) (ht : tryStore s p = (.done, t)) :
    resolveAt s 0 = { t with h := { t.h with stores := t.h.stores.eraseIdx 0 } } := by
  simp only [resolveAt, hp, listAt, ht]

/-- With one store in flight, one that is performed without a change of the hart but for its flags leaves no store and no record. -/
theorem exec_storeResolve_single {fl : Nat} (hx : s.onX = false) (hc : s.cfg.cont = false) (hpark : s.h.parking = 0)
    (hp : s.h.stores = [p]) (ht : tryStore s p = (.done, { t with h := t.h.addFlags fl })) (hh : t.h = s.h) :
    ∃ u, exec (.storeResolve s.h.id) s = .next u ∧ u.h.stores = [] ∧ u.h.sfrq = s.h.sfrq ∧ (∀ a, u.seen a = t.seen a) ∧
      ∀ a, sideOf u a = sideOf t a := by
  refine ⟨_, congrArg Host.Outcome.next
    ((onHart_self hx hc hpark).trans ((resolveSome_single hp).trans (resolveAt_done hp ht))), ?_, ?_, fun _ => rfl, fun _ => rfl⟩
  · simp [Hart.addFlags, hh, hp]
  · simp [Hart.addFlags, hh]

/-- A vector store that no guard holds and whose elements all translate writes their lines. -/
theorem tryStore_vector {fl : Nat} {oks : List ElemAt} (hkind : p.kind ∈ [4, 5, 6]) (hsrc : p.src = some r)
    (hwho : s.h.logWho 1 = none) (hguard : ∀ e ∈ storeEls p, guarded s (BitVec.ofNat 64 (e.2 / 8)) = false)
    (hreach : reachElems .write p.ew (storeEls p) s = (oks, [], s))
    (hlines : storeLines r none p.ew p.rm oks (oks.map fun e => e.line).dedup s = ([], fl, t)) :
    tryStore s p = (.done, { t with h := t.h.addFlags fl }) := by
  have hany : (storeEls p).any (fun e => guarded s (BitVec.ofNat 64 (e.2 / 8))) = false :=
    List.any_eq_false.mpr fun e he => by simp [hguard e he]
  have hscalar : ¬ p.kind < 4 ∧ p.kind ≠ 7 := by
    simp only [List.mem_cons, List.not_mem_nil, or_false] at hkind
    omega
  rw [tryStore, if_neg hscalar.1, if_neg hscalar.2, hsrc, hwho, Option.getD_some, vectorStore, hany,
    if_neg Bool.false_ne_true, hreach]
  simp only [logExitsOf, hlines, List.nil_append]

end Sys2Proof.Machine

open Sys2Proof Sys2Proof.Machine

/-- Settles O24: each store comes to `storeIssue` with its entries there, and a resolution writes its lines one by one
(`storeLines_ofFormat`). -/
theorem vectorStoresIssue : Obligations.VectorStoresIssue := by
  refine ⟨fun s w q a b e m r hs hth hl hr ha => ?_,
    fun s p r f oks hs hx hc hpark hp hkind hsrc hvc hrot hf _ hscaled hew hwho hguard hreach hels => ?_⟩
  · have hran (p : PStore) (qs : List Nat) := advance_ran (storeTaken_atWord (p := p) (qs := qs) hs)
    intro ew n issues entry
    refine ⟨?_, fun hstride => ?_, fun idx _ hidx hcause => ?_⟩
    · exact ⟨_, congrArg Host.Outcome.next (vectorStoreIssue_ready hs hth hl hr ha (Nat.zero_mod _)), hran _ _⟩
    · exact ⟨_, congrArg Host.Outcome.next (vectorStoreIssue_ready hs hth hl hr ha hstride), hran _ _⟩
    · exact ⟨_, exec_vstx_ready hs hth hl hr ha hidx hcause, hran _ _⟩
  · subst hf
    intro place code
    have hreached : ∀ e ∈ oks, e ∈ (reachElems .write p.ew (storeEls p) s).1 := by simp [hreach]
    have htakes (e : ElemAt) (he : e ∈ oks) := reached_takes (hreached e he) (hels e he)
    have hasc : (oks.map ElemAt.i).Pairwise (· < ·) := by
      have hsub := reachElems_sublist (ew := p.ew) (s := s) .write (storeEls p)
      rw [hreach] at hsub
      exact (storeEls_ascending p).sublist hsub
    have hmem (e : ElemAt) (he : e ∈ oks) : e.line ∈ (oks.map fun e => e.line).dedup :=
      List.mem_dedup.mpr (List.mem_map_of_mem he)
    obtain ⟨fl, t, hlines, hh, hout, hin⟩ := storeLines_ofFormat (rm := p.rm) (all := oks)
      (lines := (oks.map fun e => e.line).dedup) hvc hrot hscaled hew hs (List.nodup_dedup _) (fun e he _ => htakes e he)
      fun n hn => by simpa using hn
    obtain ⟨u, hexec, hstores, hsfrq, hseen, hside⟩ := exec_storeResolve_single hx hc hpark hp
      (tryStore_vector hkind hsrc hwho hguard hreach hlines) hh
    have hcode (x : Nat × Nat) : code u x = t.lineCode p.ew x.1 x.2 := lineCode_congr fun i _ => hseen _
    refine ⟨u, hexec, hstores, hsfrq, fun e he hlast => ?_, fun line k hline hk hnone => ?_, fun e he => ?_⟩
    · obtain ⟨x, hslot, hxi⟩ := slotElem_last hasc he hlast
      refine (hcode _).trans (((hin e he (hmem e he)).2 _
        (reached_position_le (hreached e he) (hels e he).1 hew)).trans ?_)
      rw [slotCode, hslot, ← hxi]
    · refine (hcode _).trans ?_
      by_cases hwritten : ∃ e ∈ oks, e.line = line
      · obtain ⟨e, he, rfl⟩ := hwritten
        refine ((hin e he (hmem e he)).2 k hk).trans ?_
        rw [slotCode, slotElem_none hnone, (htakes e he).line, oldCode_heldLine]
        rfl
      · refine lineCode_congr fun i hi => (hout _ fun h => hwritten ?_).1
        rw [show lineAddr (line + i) = line by rw [lineAddr]; omega] at h
        simpa using h
    · rw [hside, (hin e he (hmem e he)).1, tagVc_mkTag, tagFmt_mkTag, Nat.mod_eq_of_lt r.fmt.isLt]
      exact ⟨rfl, rfl⟩
end

section
/-! An atomic on a line of HBM4E that a cache holds and that no undo record is due for (R281, R440): what it gives, what it leaves
of every byte, and that it leaves every such line so. -/

namespace Sys2Proof.Machine

variable {s t u : State} {pa a k : Nat}

/-! ### What such an access changes -/

/-- Nothing but the bytes, the sideband and the directory of lines has changed. -/
def LinesOnly (s t : State) : Prop := t = { s with mem := t.mem, side := t.side, dir := t.dir }

theorem LinesOnly.refl (s : State) : LinesOnly s s := rfl

theorem LinesOnly.trans (h : LinesOnly s t) (h' : LinesOnly t u) : LinesOnly s u := by
  rw [LinesOnly] at h h' ⊢
  rw [h', h]

theorem LinesOnly.h_eq (h : LinesOnly s t) : t.h = s.h := (congrArg State.h h :)

theorem LinesOnly.logMark_eq (h : LinesOnly s t) (l : Nat) : logMark t l = logMark s l :=
  (congrArg (fun x : State => logMark x l) h :)

theorem LinesOnly.share (key : Nat) (w : Who) (noL1 : Bool) : LinesOnly s (share s pa key w noL1) := rfl

theorem LinesOnly.writeLine {key d : Nat} {w : Who} {noL1 : Bool} {tag : BitVec 32} (hr : regionOf s pa = .hbm) :
    LinesOnly s (writeLine s pa key w noL1 d tag) := by
  rw [writeLine_hbm hr]
  have hput : LinesOnly s (putLine s pa d (tag &&& 0x1FFFFFF#32)) := by rw [LinesOnly, putLine]
  have hown (x : State) : LinesOnly x (own x pa key w noL1) := rfl
  have hcheck (x : State) : LinesOnly x (freshCheck x pa key) := rfl
  exact (hput.trans (hown _)).trans (hcheck _)

/-- The directory holds of every line what it held, or has it in an L2 with the mark that it had. -/
def MarksKept (s t : State) : Prop :=
  ∀ a, dirOf t a = dirOf s a ∨ (dirOf t a).l2 = true ∧ (dirOf t a).mark = (dirOf s a).mark

theorem MarksKept.trans (h : MarksKept s t) (h' : MarksKept t u) : MarksKept s u := by
  intro a
  rcases h' a with e | ⟨hl2, hm⟩
  · rw [e]; exact h a
  · refine .inr ⟨hl2, hm.trans ?_⟩
    rcases h a with e | ⟨-, hm⟩
    · rw [e]
    · exact hm

theorem MarksKept.setDir {d : Dir} (hd : SMap.wf Dir.none s.dir = true) (hl2 : d.l2 = true)
    (hmark : d.mark = (dirOf s pa).mark) : MarksKept s (setDir s pa d) := by
  intro a
  rw [dirOf_setDir hd]
  split
  · next h => exact .inr ⟨hl2, by rw [hmark, dirOf, dirOf, h]⟩
  · exact .inl rfl

/-- A line of HBM4E that is read is in its L2 with the mark that it had. -/
theorem MarksKept.share (key : Nat) (w : Who) (noL1 : Bool) (hd : SMap.wf Dir.none s.dir = true) (hpa : pa < hbmSize) :
    MarksKept s (share s pa key w noL1) := by
  obtain ⟨d, hshare, hl2, hmark⟩ : ∃ d, Machine.share s pa key w noL1 = Machine.setDir s pa d ∧
      d.l2 = ((dirOf s pa).l2 || decide (pa < hbmSize)) ∧ d.mark = (dirOf s pa).mark := ⟨_, rfl, rfl, rfl⟩
  exact hshare ▸ .setDir hd (by simp [hl2, hpa]) hmark

/-- So is one that is written. -/
theorem MarksKept.own (key : Nat) (w : Who) (noL1 : Bool) (hd : SMap.wf Dir.none s.dir = true) (hpa : pa < hbmSize) :
    MarksKept s (own s pa key w noL1) := by
  obtain ⟨d, hown, hl2, hmark⟩ : ∃ d, Machine.own s pa key w noL1 = Machine.setDir s pa d ∧
      d.l2 = decide (pa < hbmSize) ∧ d.mark = (dirOf s pa).mark := ⟨_, rfl, rfl, rfl⟩
  exact hown ▸ .setDir hd (by simp [hl2, hpa]) hmark

theorem MarksKept.writeLine {key d : Nat} {w : Who} {noL1 : Bool} {tag : BitVec 32} (hd : SMap.wf Dir.none s.dir = true)
    (hr : regionOf s pa = .hbm) : MarksKept s (writeLine s pa key w noL1 d tag) := by
  intro a
  have hput (b : Nat) : dirOf (putLine s pa d (tag &&& 0x1FFFFFF#32)) b = dirOf s b := by rw [dirOf, putLine_dir, dirOf]
  have hown := MarksKept.own (s := putLine s pa d (tag &&& 0x1FFFFFF#32)) key w noL1 (by rw [putLine_dir]; exact hd)
    (regionOf_eq_hbm.mp hr) a
  rw [hput] at hown
  rw [writeLine_hbm hr, dirOf, freshCheck_dir]
  exact hown

theorem wf_dir_share (key : Nat) (w : Who) (noL1 : Bool) (hd : SMap.wf Dir.none s.dir = true) :
    SMap.wf Dir.none (share s pa key w noL1).dir = true := SMap.wf_set hd

theorem wf_dir_writeLine {key d : Nat} {w : Who} {noL1 : Bool} {tag : BitVec 32} (hd : SMap.wf Dir.none s.dir = true)
    (hr : regionOf s pa = .hbm) : SMap.wf Dir.none (writeLine s pa key w noL1 d tag).dir = true := by
  rw [writeLine_hbm hr, freshCheck_dir]
  exact SMap.wf_set (by rw [putLine_dir]; exact hd)

/-! ### Lines on which an atomic may be performed at once -/

/-- An atomic may be performed at once on the line of a place: it is held in a cache and good, and the L2 has marked it in this
window of the task's log, so that no record is due (R281). -/
structure Ripe (s : State) (pa : Nat) : Prop where
  held : Held s pa
  good : vcBad (tagVc (sideOf s pa).tag) = false
  marked : ∀ l, s.h.launch = some l → (dirOf s pa).l2 = true ∧ (dirOf s pa).mark = some (logMark s l)

/-- A line stays ripe where its class stays good and the directory keeps its mark. -/
theorem Ripe.of_kept (ha : Ripe s a) (hl : LinesOnly s t) (hm : MarksKept s t)
    (hgood : vcBad (tagVc (sideOf t a).tag) = false) : Ripe t a := by
  obtain ⟨⟨hr, hc⟩, -, hmark⟩ := ha
  have hhbm : regionOf t a = .hbm := regionOf_eq_hbm.mpr (regionOf_eq_hbm.mp hr)
  rcases hm a with hsame | ⟨hl2, hkept⟩
  · refine ⟨⟨hhbm, by rw [hsame]; exact hc⟩, hgood, fun l hlaunch => ?_⟩
    rw [hsame, hl.logMark_eq]
    exact hmark l (hl.h_eq ▸ hlaunch)
  · refine ⟨⟨hhbm, by simp [cached, hl2]⟩, hgood, fun l hlaunch => ⟨hl2, ?_⟩⟩
    rw [hkept, hl.logMark_eq]
    exact (hmark l (hl.h_eq ▸ hlaunch)).2

theorem Ripe.share (key : Nat) (w : Who) (noL1 : Bool) (hd : SMap.wf Dir.none s.dir = true) (hpa : pa < hbmSize) (ha : Ripe s a) :
    Ripe (share s pa key w noL1) a := ha.of_kept (.share ..) (.share key w noL1 hd hpa) ha.good

/-! ### One atomic (R440) -/

section
variable {op : AtomOp} {v expected : Nat} {x : Xlat} {va : Word}

/-- What an atomic on a ripe line leaves: its reader is recorded, and the line is written with the new value at its place. -/
def atomDone (op : AtomOp) (k v expected : Nat) (x : Xlat) (s : State) : State :=
  writeLine (share s x.pa (pteKEY x.leaf) s.h.who s.h.noL1) x.pa (pteKEY x.leaf) s.h.who s.h.noL1
    (putBytes (s.seenWord (lineAddr x.pa) 64) (x.pa % 64) k (atomNew op (8 * k) (s.seenWord x.pa k) v expected))
    (scalarTag (pteLFMT x.leaf) (sideOf s x.pa).tag)

/-- No record is due for a line that is ripe. -/
theorem logIfHome_ripe {old : LineVal} (agent : Nat) (h : Ripe s x.pa) : logIfHome s (s.h.logWho agent) x va old = s := by
  cases hlaunch : s.h.launch with
  | none => simp [logIfHome, Hart.logWho, hlaunch]
  | some l =>
    obtain ⟨hl2, hmark⟩ := h.marked l hlaunch
    simp [logIfHome, Hart.logWho, hlaunch, h.held.1, logLine, hl2, hmark]

/-- An atomic on a ripe line gives the old value (R440). -/
theorem atomAt_ripe (agent : Nat) (hd : SMap.wf Dir.none s.dir = true) (h : Ripe s x.pa) (hratio : x.ratio = 1)
    (hk : x.pa % 64 + k ≤ 64) :
    atomAt s (s.h.logWho agent) va x op (8 * k) v expected = (.ok (s.seenWord x.pa k), atomDone op k v expected x s) := by
  have hlog := logIfHome_ripe (va := va) (old := ⟨lineData s x.pa, (sideOf s x.pa).tag, false⟩) agent
    (h.share (pteKEY x.leaf) s.h.who s.h.noL1 hd (regionOf_eq_hbm.mp h.held.1))
  have hh : (share s x.pa (pteKEY x.leaf) s.h.who s.h.noL1).h = s.h := rfl
  rw [hh] at hlog
  simp only [atomAt, hratio, ne_eq, not_true_eq_false, if_false, h.held.1, readLine_held h.held, h.good, Bool.false_eq_true,
    lineVal_bytes, seenWord_of_line hk, hlog, Nat.mul_div_cancel_left k (by decide : 0 < 8), atomDone]

theorem LinesOnly.atomDone (hr : regionOf s x.pa = .hbm) : LinesOnly s (atomDone op k v expected x s) :=
  (LinesOnly.share ..).trans (.writeLine hr)

theorem State.canon.atomDone (hs : s.canon) : (atomDone op k v expected x s).canon := hs.share.writeLine

theorem wf_dir_atomDone (hd : SMap.wf Dir.none s.dir = true) (hr : regionOf s x.pa = .hbm) :
    SMap.wf Dir.none (Machine.atomDone op k v expected x s).dir = true := wf_dir_writeLine (wf_dir_share _ _ _ hd) hr

theorem vcBad_scalarTag {f : Nat} {tag : BitVec 32} (h : vcBad (tagVc tag) = false) : vcBad (tagVc (scalarTag f tag)) = false := by
  unfold scalarTag
  split
  · rw [tagVc_mkTag_whole]; rfl
  · exact h

/-- An atomic leaves every ripe line ripe. -/
theorem Ripe.atomDone (hs : s.canon) (hd : SMap.wf Dir.none s.dir = true) (h : Ripe s x.pa) (ha : Ripe s a) :
    Ripe (atomDone op k v expected x s) a := by
  have hr := h.held.1
  refine ha.of_kept (.atomDone hr)
    ((MarksKept.share _ _ _ hd (regionOf_eq_hbm.mp hr)).trans (.writeLine (wf_dir_share _ _ _ hd) hr)) ?_
  rw [Machine.atomDone, tag_writeLine_hbm hs.share hr]
  split
  · rw [tagVc_cut]; exact vcBad_scalarTag h.good
  · exact ha.good

/-- An atomic leaves the bytes of the new value at its place and every other as it reads. -/
theorem seen_atomDone (hs : s.canon) (hr : regionOf s x.pa = .hbm) (hk : x.pa % 64 + k ≤ 64) (a : Nat) :
    (atomDone op k v expected x s).seen a = if x.pa ≤ a ∧ a < x.pa + k
      then BitVec.ofNat 8 (atomNew op (8 * k) (s.seenWord x.pa k) v expected / 256 ^ (a - x.pa)) else s.seen a := by
  rw [atomDone, seen_writeLine_hbm hs.share hr, tagVc_cut, if_neg (tagVc_scalarTag _ _)]
  by_cases hline : a / 64 = x.pa / 64
  · rw [if_pos hline, byte_putBytes_seenWord hk _ hline]
  · rw [if_neg hline, if_neg (by omega)]
    rfl

end

/-- The place of an atomic reads its new value. -/
theorem seenWord_atomDone {op : AtomOp} {v expected : Nat} {x : Xlat} (hs : s.canon) (hr : regionOf s x.pa = .hbm)
    (hk : x.pa % 64 + k ≤ 64) : (atomDone op k v expected x s).seenWord x.pa k =
      atomNew op (8 * k) (s.seenWord x.pa k) v expected % 256 ^ k :=
  seenWord_of_bytes fun i hi => by rw [seen_atomDone hs hr hk, if_pos (by omega), Nat.add_sub_cancel_left]

/-- A word apart from the place of an atomic reads as before. -/
theorem seenWord_atomDone_apart {op : AtomOp} {v expected : Nat} {x : Xlat} (hs : s.canon) (hr : regionOf s x.pa = .hbm)
    (hk : x.pa % 64 + k ≤ 64) (ha : a + k ≤ x.pa ∨ x.pa + k ≤ a) :
    (atomDone op k v expected x s).seenWord a k = s.seenWord a k := by
  have h := seenWord_of_bytes (s := atomDone op k v expected x s) (a := a) (n := k) (v := s.seenWord a k) fun i hi => by
    rw [seen_atomDone hs hr hk, if_neg (by omega), byte_seenWord hi]
  rw [h, Nat.mod_eq_of_lt (seenWord_lt ..)]
end Sys2Proof.Machine
end

section
/-! The elements of a VATOM performed one after another (R228, R440, R441): each finds at its place what those before it have made
of the word there. -/

namespace Sys2Proof.Machine

/-! ### The table of R440 -/

theorem signExt_eq_toInt (w c : Nat) : signExt w c = (BitVec.ofNat w c).toInt := by
  rw [signExt, BitVec.toInt_eq_toNat_cond, BitVec.toNat_ofNat]
  cases w with
  | zero => simp [Nat.mod_one]
  | succ w =>
    have hpow : 2 ^ (w + 1) = 2 * 2 ^ w := Nat.pow_succ'
    refine if_congr ?_ rfl rfl
    rw [Nat.add_sub_cancel]
    omega

/-- What a VATOM makes of an old value and an operand is what the table has for its code, and it fits their width. -/
theorem atomNew_vatomOp {w old v : Nat} {p : BitVec 3} {rule : Nat → Nat → Nat} (hrule : listAt (atomRules w) p.toNat = some rule)
    (ho : old < 2 ^ w) (hv : v < 2 ^ w) : atomNew (vatomOp p) w old v 0 = rule old v ∧ rule old v < 2 ^ w := by
  obtain ⟨p, hp⟩ : ∃ n, p.toNat = n := ⟨_, rfl⟩
  simp only [hp, atomRules] at hrule
  rw [vatomOp, hp]
  match p, hrule with
  | 0, rfl => exact ⟨rfl, Nat.mod_lt _ (Nat.two_pow_pos w)⟩
  | 1, rfl => exact ⟨by simp only [atomNew, signExt_eq_toInt], by dsimp only; split <;> assumption⟩
  | 2, rfl => exact ⟨by simp only [atomNew, signExt_eq_toInt], by dsimp only; split <;> assumption⟩
  | 3, rfl => exact ⟨rfl, Nat.and_lt_two_pow _ hv⟩
  | 4, rfl => exact ⟨rfl, Nat.or_lt_two_pow ho hv⟩
  | 5, rfl => exact ⟨rfl, Nat.xor_lt_two_pow ho hv⟩
  | 6, rfl => exact ⟨rfl, hv⟩

/-! ### The elements one after another (R228, R441) -/

variable {s t : State} {k : Nat} {op : AtomOp} {rule : Nat → Nat → Nat} {data : VReg} {es order : List ElemAt} {y : ElemAt}

/-- The word at a place once some elements have been performed, as the table gives it. -/
def vatomAfter (rule : Nat → Nat → Nat) (data : VReg) (k : Nat) (s : State) (done : List ElemAt) (pa : Nat) : Nat :=
  (done.filter fun y => y.x.pa == pa).foldl (fun old y => rule old (regCode data y.i)) (s.seenWord pa k)

/-- Elements of k bytes that may all be performed at once: on pages that are not compacted, aligned, on lines that are ripe. -/
structure AllRipe (s : State) (k : Nat) (es : List ElemAt) : Prop where
  canon : s.canon
  dirWf : SMap.wf Dir.none s.dir = true
  each : ∀ y ∈ es, y.x.ratio = 1 ∧ y.x.pa % k = 0 ∧ Ripe s y.x.pa

/-- An operation follows a rule on values of k bytes and the elements of a register. -/
def Follows (op : AtomOp) (rule : Nat → Nat → Nat) (data : VReg) (k : Nat) : Prop :=
  ∀ old i, old < 256 ^ k → atomNew op (8 * k) old (regCode data i % 2 ^ (8 * k)) 0 = rule old (regCode data i) ∧
    rule old (regCode data i) < 256 ^ k

theorem vatomAfter_lt (hf : Follows op rule data k) (s : State) (done : List ElemAt) (pa : Nat) :
    vatomAfter rule data k s done pa < 256 ^ k := by
  refine List.foldlRecOn _ _ (motive := fun old => old < 256 ^ k) (seenWord_lt ..) fun old ho y _ => (hf old y.i ho).2

theorem mod_within_line (hk : k = 4 ∨ k = 8) {pa : Nat} (h : pa % k = 0) : pa % 64 + k ≤ 64 := by
  rcases hk with rfl | rfl <;> omega

theorem apart_of_ne (hk : k = 4 ∨ k = 8) {a b : Nat} (ha : a % k = 0) (hb : b % k = 0) (h : a ≠ b) :
    a + k ≤ b ∨ b + k ≤ a := by
  rcases hk with rfl | rfl <;> omega

/-- The first element performed is the first that its place takes. -/
theorem vatomAfter_cons (hk : k = 4 ∨ k = 8) (hf : Follows op rule data k) (hs : AllRipe s k (y :: es))
    {pa : Nat} (hpa : pa % k = 0) (done : List ElemAt) : vatomAfter rule data k s (y :: done) pa =
      vatomAfter rule data k (atomDone op k (regCode data y.i % 2 ^ (8 * k)) 0 y.x s) done pa := by
  obtain ⟨-, hal, hripe⟩ := hs.each y List.mem_cons_self
  have hline := mod_within_line hk hal
  rw [vatomAfter, vatomAfter, List.filter_cons]
  by_cases h : y.x.pa = pa
  · obtain ⟨hnew, hlt⟩ := hf (s.seenWord y.x.pa k) y.i (seenWord_lt ..)
    rw [if_pos (beq_iff_eq.mpr h), List.foldl_cons, ← h, seenWord_atomDone hs.canon hripe.held.1 hline, hnew, Nat.mod_eq_of_lt hlt]
  · rw [if_neg (by simpa using h), seenWord_atomDone_apart hs.canon hripe.held.1 hline (apart_of_ne hk hpa hal (Ne.symm h))]

theorem AllRipe.tail (hs : AllRipe s k (y :: es)) (v expected : Nat) : AllRipe (atomDone op k v expected y.x s) k es := by
  obtain ⟨-, -, hripe⟩ := hs.each y List.mem_cons_self
  refine ⟨hs.canon.atomDone, wf_dir_atomDone hs.dirWf hripe.held.1, fun z hz => ?_⟩
  obtain ⟨hratio, hal, hz⟩ := hs.each z (List.mem_cons_of_mem _ hz)
  exact ⟨hratio, hal, hripe.atomDone hs.canon hs.dirWf hz⟩

/-- What the elements performed in an order leave: at every aligned place the word that they make of it, and for each the value that
it found. -/
structure Performed (rule : Nat → Nat → Nat) (data : VReg) (k : Nat) (s t : State) (order : List ElemAt)
    (olds : List (Nat × Nat)) : Prop where
  words : ∀ pa, pa % k = 0 → t.seenWord pa k = vatomAfter rule data k s order pa
  bytes : ∀ b, (∀ y ∈ order, b < y.x.pa ∨ y.x.pa + k ≤ b) → t.seen b = s.seen b
  keys : olds.map Prod.fst = order.map ElemAt.i
  found : ∀ before y later, order = before ++ y :: later → (y.i, vatomAfter rule data k s before y.x.pa) ∈ olds

/-- Elements that may all be performed at once are performed in the order given, each with the value that it finds (R228, R441). -/
theorem vatomRun_performs (hk : k = 4 ∨ k = 8) (hf : Follows op rule data k) (ls : List (Nat × LineVal)) (hs : AllRipe s k order) :
    ∃ t olds, vatomRun (s.h.logWho 1) op (8 * k) data order ls s = (olds, t) ∧ LinesOnly s t ∧
      Performed rule data k s t order olds := by
  induction order generalizing s with
  | nil => exact ⟨s, [], rfl, .refl s, fun _ _ => rfl, fun _ _ => rfl, rfl, fun before y later h => by simp at h⟩
  | cons y rest ih =>
    obtain ⟨hratio, hal, hripe⟩ := hs.each y List.mem_cons_self
    have hline := mod_within_line hk hal
    have hone : LinesOnly s (atomDone op k (regCode data y.i % 2 ^ (8 * k)) 0 y.x s) := .atomDone hripe.held.1
    obtain ⟨t, olds, hrun, hlines, hdone⟩ := ih (hs.tail (op := op) (regCode data y.i % 2 ^ (8 * k)) 0)
    rw [hone.h_eq] at hrun
    refine ⟨t, (y.i, s.seenWord y.x.pa k) :: olds, ?_, hone.trans hlines, fun pa hpa => ?_, fun b hb => ?_, ?_, ?_⟩
    · simp only [vatomRun, hripe.held.1, atomAt_ripe 1 hs.dirWf hripe hratio hline, hrun]
    · rw [hdone.words pa hpa, vatomAfter_cons hk hf hs hpa]
    · obtain ⟨hy, hrest⟩ := List.forall_mem_cons.mp hb
      rw [hdone.bytes b hrest, seen_atomDone hs.canon hripe.held.1 hline, if_neg (by omega)]
    · rw [List.map_cons, List.map_cons, hdone.keys]
    · intro before z later hsplit
      cases before with
      | nil =>
        obtain ⟨rfl, -⟩ := List.cons.inj hsplit
        exact List.mem_cons_self
      | cons x before =>
        rw [List.cons_append] at hsplit
        obtain ⟨rfl, htail⟩ := List.cons.inj hsplit
        have hz : z ∈ y :: rest := by simp [htail]
        rw [vatomAfter_cons hk hf hs (hs.each z hz).2.1]
        exact List.mem_cons_of_mem _ (hdone.found before z later htail)

end Sys2Proof.Machine
end

section
/-! A VATOM whose elements may all be performed at once (R158, R228, R280, R374, R441): where its elements stand, its order, and
what it performs. -/

namespace Sys2Proof.Machine

variable {s t : State} {k : Nat} {rule : Nat → Nat → Nat} {data : VReg} {es order : List ElemAt} {y : ElemAt}

theorem follows_of_table {p : BitVec 3} (hrule : listAt (atomRules (8 * k)) p.toNat = some rule)
    (hsize : elemSize data.fmt.toNat = 8 * k) : Follows (vatomOp p) rule data k := by
  intro old i ho
  have hcode : regCode data i < 2 ^ (8 * k) := hsize ▸ regCode_lt data i
  have hpow : 256 ^ k = 2 ^ (8 * k) := by rw [Nat.pow_mul]
  rw [Nat.mod_eq_of_lt hcode, hpow]
  exact atomNew_vatomOp hrule (hpow ▸ ho) hcode

/-! ### Where the elements stand (R158, R204, R374) -/

/-- A translation is that of its leaf. -/
theorem translate_xlat {w : Who} {asid : Nat} {va : Word} {wr : Bool} {x : Xlat} (h : translate s w asid va wr = (.ok x, t)) :
    ∃ leaf level peer, x = xlatOf leaf level va.toNat peer := by
  unfold translate at h
  dsimp only at h
  split at h
  · split at h
    · split at h
      · cases h
      · cases h; exact ⟨_, _, _, rfl⟩
    · cases h; exact ⟨_, _, _, rfl⟩
  · split at h
    · cases h
    · cases h; exact ⟨_, _, _, rfl⟩

theorem reachH_xlat {va : Word} {need : Need} {x : Xlat} (h : s.reachH va need = (.ok x, t)) :
    ∃ leaf level peer, x = xlatOf leaf level va.toNat peer := by
  unfold State.reachH reach at h
  split at h
  · cases h
  · next htr =>
    split at h
    · cases h; exact translate_xlat htr
    · cases h

theorem ratio_of_vatomFault {va : Word} {x : Xlat} (h : vatomFault s va x = none) : x.ratio = 1 := by
  unfold vatomFault at h
  dsimp only at h
  split at h
  · cases h
  · next hok => exact not_not.mp fun hr => hok (.inl hr)

/-- An element that a VATOM reaches stands at the translation of its address, on a page that is not compacted. -/
theorem vatomReach_places {els : List (Nat × Nat)} (h : vatomReach els s = (.ok es, t)) :
    es.map ElemAt.i = els.map Prod.fst ∧ ∀ y ∈ es, y.x.ratio = 1 ∧ ∃ ba leaf level peer, (y.i, ba) ∈ els ∧
      y = elemPlace y.i ba y.x ∧ y.x = xlatOf leaf level (BitVec.ofNat 64 (ba / 8)).toNat peer := by
  induction els generalizing s t es with
  | nil =>
    cases h
    exact ⟨rfl, fun y hy => absurd hy List.not_mem_nil⟩
  | cons el els ih =>
    obtain ⟨i, ba⟩ := el
    unfold vatomReach at h
    dsimp only at h
    split at h
    · cases h
    · next hx =>
      split at h
      · cases h
      · next hfault =>
        split at h
        · cases h
        · next hrest =>
          cases h
          obtain ⟨hkeys, hplaces⟩ := ih hrest
          obtain ⟨leaf, level, peer, hxl⟩ := reachH_xlat hx
          refine ⟨by simp [hkeys, elemPlace], fun y hy => ?_⟩
          rcases List.mem_cons.mp hy with rfl | hy
          · exact ⟨ratio_of_vatomFault hfault, ba, leaf, level, peer, List.mem_cons_self, rfl, hxl⟩
          · obtain ⟨hratio, ba', leaf, level, peer, hmem, hrest⟩ := hplaces y hy
            exact ⟨hratio, ba', leaf, level, peer, List.mem_cons_of_mem _ hmem, hrest⟩

/-- A translation of an aligned address to HBM4E, on a page that is not compacted, is aligned, and the place that it names is that
of the map. -/
theorem xlatOf_hbm {leaf level va : Nat} {peer : Word} (hratio : (xlatOf leaf level va peer).ratio = 1)
    (hr : (xlatOf leaf level va peer).pa < hbmSize) (hk : k = 4 ∨ k = 8) (hva : va % k = 0) :
    (xlatOf leaf level va peer).pa % k = 0 ∧ (xlatOf leaf level va peer).ppa = (xlatOf leaf level va peer).pa := by
  have hplace : placeOf peer (leafPa leaf level va) = leafPa leaf level va := by
    change placeOf peer (leafPa leaf level va) < hbmSize at hr
    unfold placeOf at hr ⊢
    split
    · next h => rw [if_pos h, hbmSize] at hr; omega
    · rfl
  refine ⟨?_, hplace.symm⟩
  change placeOf peer (leafPa leaf level va) % k = 0
  have hframe (m : Nat) (h : k ∣ m) : (ptePA leaf + va % m) % k = 0 := by
    have htable : ptePA leaf % k = 0 := by
      rw [ptePA]
      rcases hk with rfl | rfl <;> omega
    rw [Nat.add_mod, htable, Nat.mod_mod_of_dvd _ h, hva]
    rfl
  rw [hplace, leafPa]
  split
  · next h3 =>
    have hone : pteRatio leaf = 1 := (if_pos h3).symm.trans hratio
    rw [if_pos hone]
    exact hframe _ (by rcases hk with rfl | rfl <;> decide)
  · refine hframe _ ?_
    unfold levelShift
    split <;> rcases hk with rfl | rfl <;> decide

section
variable {base : Word} {idx : VReg} {mask : MaskBits} {n : Nat}

theorem indexEls_keys (ew : Nat) : (indexEls base idx mask ew n).map Prod.fst = (List.range n).filter fun i => mask.getLsbD i := by
  rw [indexEls, List.map_map]
  exact List.map_id _

/-- Elements from an aligned base are aligned. -/
theorem indexEls_aligned (hk : k = 4 ∨ k = 8) (hb : base.toNat % k = 0) {el : Nat × Nat}
    (h : el ∈ indexEls base idx mask (8 * k) n) : (BitVec.ofNat 64 (el.2 / 8)).toNat % k = 0 := by
  obtain ⟨i, -, rfl⟩ := List.mem_map.mp h
  dsimp only
  generalize indexOf idx i = j
  rw [BitVec.toNat_ofNat]
  rcases hk with rfl | rfl <;> omega

end

/-! ### Nothing leaves the part (R280) -/

theorem logExits_hbm {pas : List Nat} (who : Option LogWho) (h : ∀ pa ∈ pas, pa < hbmSize) : logExits s who pas = s := by
  cases who with
  | none => rfl
  | some w =>
    have hhome (p : Nat → Bool) (hp : ∀ pa, pa < hbmSize → p pa = false) :
        ((pas.map lineAddr).dedup.filter p) = [] := by
      refine List.filter_eq_nil_iff.mpr fun line hline => ?_
      obtain ⟨pa, hpa, rfl⟩ := List.mem_map.mp (List.mem_dedup.mp hline)
      have := h pa hpa
      simp [hp (lineAddr pa) (by rw [lineAddr]; omega)]
    have hhost (pa : Nat) (hpa : pa < hbmSize) : inHostMap pa = false := by
      have : ¬ 0x8000000000000 ≤ pa := by rw [hbmSize] at hpa; omega
      simp [inHostMap, this]
    have hpeer (pa : Nat) (hpa : pa < hbmSize) : inPeerMap pa = false := by
      have : ¬ 0xC000000000000 ≤ pa := by rw [hbmSize] at hpa; omega
      simp [inPeerMap, this]
    simp only [logExits, logExitsOf, hhome _ hhost, hhome _ hpeer]

/-! ### The lines are read before the first element (R441) -/

theorem LinesOnly.readElemLines {acc : List (Nat × LineVal)} (h : ∀ y ∈ es, Held s y.x.pa) :
    LinesOnly s (readElemLines es acc s).2 := by
  induction es generalizing acc s with
  | nil => exact .refl s
  | cons y es ih =>
    obtain ⟨hy, hes⟩ := List.forall_mem_cons.mp h
    unfold Machine.readElemLines
    split
    · exact ih hes
    · rw [readLine_held hy]
      exact (LinesOnly.share ..).trans (ih fun z hz => hy.share (hes z hz))

/-- Reading the lines of some elements leaves all that may be performed so. -/
theorem AllRipe.readElemLines {all : List ElemAt} {acc : List (Nat × LineVal)} (hs : AllRipe s k all) (h : ∀ y ∈ es, y ∈ all) :
    AllRipe (readElemLines es acc s).2 k all := by
  induction es generalizing acc s with
  | nil => exact hs
  | cons y es ih =>
    obtain ⟨hy, hes⟩ := List.forall_mem_cons.mp h
    have hheld := (hs.each y hy).2.2.held
    unfold Machine.readElemLines
    split
    · exact ih hs hes
    · rw [readLine_held hheld]
      refine ih ⟨hs.canon.share, wf_dir_share _ _ _ hs.dirWf, fun z hz => ?_⟩ hes
      obtain ⟨hratio, hal, hz⟩ := hs.each z hz
      exact ⟨hratio, hal, hz.share _ _ _ hs.dirWf (regionOf_eq_hbm.mp hheld.1)⟩

/-! ### Some order (R228) -/

theorem takeAt_perm {α : Type} {l rest : List α} {n : Nat} {x : α} (h : takeAt l n = some (x, rest)) : (x :: rest).Perm l := by
  induction l generalizing n rest with
  | nil => cases h
  | cons a l ih =>
    cases n with
    | zero => cases h; exact .refl _
    | succ n =>
      obtain ⟨⟨y, tail⟩, htake, heq⟩ := Option.map_eq_some_iff.mp h
      cases heq
      exact (List.Perm.swap ..).trans ((ih htake).cons a)

theorem takeAt_isSome {α : Type} {l : List α} {n : Nat} (h : n < l.length) : ∃ p, takeAt l n = some p := by
  induction l generalizing n with
  | nil => exact absurd h (Nat.not_lt_zero n)
  | cons a l ih =>
    cases n with
    | zero => exact ⟨_, rfl⟩
    | succ n =>
      obtain ⟨p, hp⟩ := ih (Nat.lt_of_succ_lt_succ h)
      exact ⟨_, by rw [takeAt, hp]; rfl⟩

theorem someOrder_perm {α : Type} (l : List α) (draws : Nat) : (someOrder l.length l draws).1.Perm l := by
  suffices h : ∀ n (l : List α) draws, l.length = n → (someOrder n l draws).1.Perm l from h _ l draws rfl
  intro n
  induction n with
  | zero =>
    intro l draws hl
    rw [List.length_eq_zero_iff.mp hl]
    exact .refl _
  | succ n ih =>
    intro l draws hl
    have hmax : Nat.max 1 l.length = l.length := Nat.max_eq_right (by omega)
    obtain ⟨⟨x, rest⟩, htake⟩ := takeAt_isSome (l := l) (n := Config.freeNat draws % Nat.max 1 l.length)
      (by rw [hmax]; exact Nat.mod_lt _ (by omega))
    have hperm := takeAt_perm htake
    have hlen : rest.length = n := by
      have := hperm.length_eq
      rw [List.length_cons] at this
      omega
    rw [someOrder, htake]
    exact ((ih rest (draws + 1) hlen).cons x).trans hperm

/-! ### VATOM on elements that may all be performed at once -/

theorem Performed.of_seen {s' : State} {olds : List (Nat × Nat)} (hseen : ∀ a, s'.seen a = s.seen a)
    (h : Performed rule data k s' t order olds) : Performed rule data k s t order olds := by
  have hafter (done : List ElemAt) (pa : Nat) : vatomAfter rule data k s' done pa = vatomAfter rule data k s done pa := by
    rw [vatomAfter, vatomAfter, seenWord_congr hseen]
  obtain ⟨hwords, hbytes, hkeys, hfound⟩ := h
  exact ⟨fun pa hpa => (hwords pa hpa).trans (hafter order pa), fun b hb => (hbytes b hb).trans (hseen b), hkeys,
    fun before y later hsplit => hafter before y.x.pa ▸ hfound before y later hsplit⟩

/-- None of the lines read is bad. -/
theorem find_bad_none (hs : AllRipe s k es) (hline : ∀ y ∈ es, y.line = lineAddr y.x.pa) :
    (es.find? fun y => vcBad (tagVc (lineIn (readElemLines es [] s).1 y.line).tag)) = none := by
  obtain ⟨-, -, hls, hmem⟩ := readElemLines_held (els := es) (acc := [])
    (fun y hy => ⟨(hs.each y hy).2.2.held, hline y hy⟩) fun l hl => absurd hl List.not_mem_nil
  refine List.find?_eq_none.mpr fun y hy => ?_
  rw [lineIn_of_mem hls (hmem _ (.inr (List.mem_map_of_mem hy))), hline y hy, heldLine_lineAddr, (hs.each y hy).2.2.good]
  exact Bool.false_ne_true

/-- The order in which a VATOM takes its elements, and the draws after it. -/
def vatomOrder (ordered : Bool) (es : List ElemAt) (draws : Nat) : List ElemAt × Nat :=
  if ordered then (es, draws) else someOrder es.length es draws

theorem vatomOrder_perm (ordered : Bool) (es : List ElemAt) (draws : Nat) :
    (vatomOrder ordered es draws).1.Perm es ∧ (ordered = true → (vatomOrder ordered es draws).1 = es) := by
  cases ordered with
  | true => exact ⟨.refl _, fun _ => rfl⟩
  | false => exact ⟨someOrder_perm es draws, fun h => absurd h Bool.false_ne_true⟩

theorem vatomPerform_performs {o : VatomOp} (e : RetEntry) (n : Nat) (hk : k = 4 ∨ k = 8) (hbits : o.bits = 8 * k)
    (hf : Follows o.op rule data k) (hs : AllRipe s k es)
    (hplace : ∀ y ∈ es, guarded s y.va = false ∧ y.line = lineAddr y.x.pa ∧ y.x.ppa = y.x.pa) :
    ∃ u order olds, order.Perm es ∧ (o.ordered = true → order = es) ∧ Performed rule data k s u order olds ∧
      u = { s with mem := u.mem, side := u.side, dir := u.dir, draws := u.draws } ∧
      vatomPerform o e data n es s =
        ({ u with h := vatomReturn o e n olds (popEntry o.iq (popEntry o.dq s.h)) } : State).advance := by
  have hguard : es.any (fun y => guarded s y.va) = false := List.any_eq_false.mpr fun y hy => by simp [(hplace y hy).1]
  have hheld (y : ElemAt) (hy : y ∈ es) : Held s y.x.pa ∧ y.line = lineAddr y.x.pa :=
    ⟨(hs.each y hy).2.2.held, (hplace y hy).2.1⟩
  obtain ⟨hmem, hside, -, -⟩ := readElemLines_held (els := es) (acc := []) hheld fun l hl => absurd hl List.not_mem_nil
  have hread := LinesOnly.readElemLines (acc := []) fun y hy => (hheld y hy).1
  have hready := hs.readElemLines (acc := []) fun y hy => hy
  have hbad := find_bad_none hs fun y hy => (hplace y hy).2.1
  obtain ⟨⟨ls, s1⟩, hreads⟩ : ∃ r, readElemLines es [] s = r := ⟨_, rfl⟩
  rw [hreads] at hmem hside hread hready hbad
  dsimp only at hmem hside hread hready hbad
  have hexits (w : Option LogWho) : logExits s1 w (es.map fun y => y.x.ppa) = s1 := by
    refine logExits_hbm w fun pa hpa => ?_
    obtain ⟨y, hy, rfl⟩ := List.mem_map.mp hpa
    rw [(hplace y hy).2.2]
    exact regionOf_eq_hbm.mp (hheld y hy).1.1
  obtain ⟨hperm, hasc⟩ := vatomOrder_perm o.ordered es s1.draws
  obtain ⟨⟨order, draws⟩, horder⟩ : ∃ r, vatomOrder o.ordered es s1.draws = r := ⟨_, rfl⟩
  rw [horder] at hperm hasc
  have hstart : AllRipe { s1 with draws := draws } k order := by
    refine ⟨hready.canon, hready.dirWf, fun y hy => ?_⟩
    obtain ⟨hratio, hal, hripe⟩ := hready.each y (hperm.mem_iff.mp hy)
    exact ⟨hratio, hal, hripe.held, hripe.good, hripe.marked⟩
  obtain ⟨u, olds, hrun, hlines, hdone⟩ := vatomRun_performs hk hf ls hstart
  refine ⟨u, order, olds, hperm, hasc, hdone.of_seen (seen_of_mem_side (t := { s1 with draws := draws }) hmem hside), ?_, ?_⟩
  · rw [LinesOnly] at hread hlines
    rw [hlines, hread]
  · have hh : u.h = s.h := hlines.h_eq.trans hread.h_eq
    rw [vatomOrder] at horder
    have hh1 : s1.h = s.h := hread.h_eq
    rw [← hbits] at hrun
    simp only [vatomPerform, hguard, Bool.false_eq_true, if_false, hreads, hbad, hexits, horder, hrun, hh]

end Sys2Proof.Machine
end

section
/-! The return entry of a VATOM (R124, R441): reserved at the tail of its queue and filled, it has been pushed, with the old value
of each element. -/

namespace Sys2Proof

/-- Of two writes of a key the later stands. -/
theorem SMap.set_set {α : Type} [DecidableEq α] {d : α} {m : SMap α} (h : SMap.wf d m = true) (n : Nat) (v w : α) :
    SMap.set d (SMap.set d m n v) n w = SMap.set d m n w := by
  refine SMap.ext_from (SMap.wf_set (SMap.wf_set h)) (SMap.wf_set h) fun k => ?_
  rw [SMap.get_set (SMap.wf_set h), SMap.get_set h, SMap.get_set h]
  split <;> rfl

end Sys2Proof

namespace Sys2Proof.Machine

variable {h : Hart} {o : VatomOp} {q n i v k w : Nat} {olds : List (Nat × Nat)}

/-! ### The entry in its queue (R123, R254) -/

theorem queue_setQueue (hw : SMap.wf DQueue.reset h.dq = true) (q : Nat) (d : DQueue) (i : Nat) :
    (h.setQueue q d).queue i = if i = q then d else h.queue i := SMap.get_set hw i

theorem setQueue_setQueue (hw : SMap.wf DQueue.reset h.dq = true) (q : Nat) (d d' : DQueue) :
    (h.setQueue q d).setQueue q d' = h.setQueue q d' :=
  congrArg (fun dq => { h with dq := dq }) (SMap.set_set hw q d d')

theorem queue_popEntry (hw : SMap.wf DQueue.reset h.dq = true) (hq : q ≠ n) : (popEntry n h).queue q = h.queue q :=
  (queue_setQueue hw n _ q).trans (if_neg hq)

theorem listSet_append_last {α : Type} (l : List α) (a b : α) : listSet (l ++ [a]) l.length b = l ++ [b] := by
  induction l with
  | nil => rfl
  | cons x l ih => exact congrArg (x :: ·) ih

theorem qTail_sub_head (head : BitVec 32) {len : Nat} (hl : len < 2 ^ 32) : (qTail head len - head).toNat = len := by
  rw [qTail, BitVec.add_comm, BitVec.add_sub_cancel, BitVec.toNat_ofNat, Nat.mod_eq_of_lt hl]

/-- The seat of the entry that a VATOM returns: the tail of its queue (R124). -/
def retSeat (o : VatomOp) (h : Hart) : RetEntry := o.ret.map fun q => (qTail (h.queue q).head (h.queue q).entries.length, false)

/-- An entry that is reserved at the tail and then filled has been pushed. -/
theorem vatomReturn_pushes (hw : SMap.wf DQueue.reset h.dq = true) (hret : o.ret = some q)
    (hroom : (h.queue q).entries.length < 8) : vatomReturn o (retSeat o h) n olds h =
      h.setQueue q { h.queue q with
        entries := (h.queue q).entries ++ [⟨vatomEntry o.bits n olds, false, 0, 0⟩] } := by
  have hseat := qTail_sub_head (h.queue q).head (len := (h.queue q).entries.length) (by omega)
  simp only [vatomReturn, vatomReserve, retSeat, hret, Option.map_some, reserveEntry, Bool.false_eq_true, if_false,
    queue_setQueue hw, if_true, setQueue_setQueue hw, fillAt, hseat, listSet_append_last]
  rfl

theorem vatomReturn_none (hret : o.ret = none) (e : RetEntry) : vatomReturn o e n olds h = h := by
  simp only [vatomReturn, hret]

/-! ### The codes of the return entry (R441) -/

/-- Element i of a register made of codes. -/
theorem regCode_regOfCodes {f : Nat} {cs : List Nat} (hf : f < 32) (hn : elemSize f * cs.length ≤ 16384) (i : Nat) :
    regCode (regOfCodes f cs) i = cs.getD i 0 % 2 ^ elemSize f := by
  have hfmt : (BitVec.ofNat 5 f).toNat = f := by rw [BitVec.toNat_ofNat, Nat.mod_eq_of_lt hf]
  simp only [regCode, regOfCodes, reduceCtorEq, if_false, hfmt, packCodes_toNat hn]
  by_cases hi : i < cs.length
  · rw [packCodes_elem _ _ _ hi, List.getD_eq_getElem _ _ hi]
  · have hlt : packCodes (elemSize f) cs < 2 ^ (i * elemSize f) := by
      refine (packCodes_lt _ cs).trans_le (Nat.pow_le_pow_right Nat.two_pos ?_)
      rw [Nat.mul_comm i]
      exact Nat.mul_le_mul_left _ (Nat.not_lt.mp hi)
    rw [Nat.shiftRight_eq_div_pow, Nat.div_eq_of_lt hlt, List.getD_eq_default _ _ (Nat.not_lt.mp hi)]

/-- The old value of element i, zero where it has none. -/
def oldAt (olds : List (Nat × Nat)) (i : Nat) : Nat := ((olds.find? fun p => p.1 == i).map Prod.snd).getD 0

theorem oldAt_of_mem (hnd : (olds.map Prod.fst).Nodup) (hmem : (i, v) ∈ olds) : oldAt olds i = v := by
  have hsome : (olds.find? fun p => p.1 == i).isSome = true := List.find?_isSome.mpr ⟨_, hmem, beq_self_eq_true i⟩
  obtain ⟨p, hp⟩ := Option.isSome_iff_exists.mp hsome
  have hkey : p.1 = i := eq_of_beq (List.find?_some (p := fun p : Nat × Nat => p.1 == i) hp)
  have heq : p = (i, v) := List.inj_on_of_nodup_map hnd (List.mem_of_find?_eq_some hp) hmem hkey
  rw [oldAt, hp, heq]
  rfl

theorem oldAt_of_not_mem (hnone : i ∉ olds.map Prod.fst) : oldAt olds i = 0 := by
  have hfind : (olds.find? fun p => p.1 == i) = none :=
    List.find?_eq_none.mpr fun p hp hi => hnone (List.mem_map.mpr ⟨p, hp, eq_of_beq hi⟩)
  rw [oldAt, hfind]
  rfl

/-- The format of the return entry: INT32 or INT64. -/
def retFmt (bits : Nat) : Nat := if bits = 32 then 4 else 5

theorem vatomEntry_eq (bits n : Nat) (olds : List (Nat × Nat)) : vatomEntry bits n olds =
    if n = 0 then zeroReg (retFmt bits) .uninit 0 else regOfCodes (retFmt bits) ((List.range n).map (oldAt olds)) := by
  rw [vatomEntry, retFmt]
  refine if_congr Iff.rfl rfl (congrArg _ (List.map_congr_left fun i _ => ?_))
  rw [oldAt]
  split
  · next h => rw [h]; rfl
  · next h => rw [h]; rfl

theorem vatomEntry_fmt (hk : k = 4 ∨ k = 8) : (vatomEntry (8 * k) n olds).fmt.toNat = retFmt (8 * k) := by
  rw [vatomEntry_eq]
  split <;> rcases hk with rfl | rfl <;> rfl

/-- Element i of the return entry is the old value of element i. -/
theorem regCode_vatomEntry (hk : k = 4 ∨ k = 8) (hn : 8 * k * n ≤ 16384) (i : Nat) :
    regCode (vatomEntry (8 * k) n olds) i = if i < n then oldAt olds i % 2 ^ (8 * k) else 0 := by
  have hsize : elemSize (retFmt (8 * k)) = 8 * k ∧ retFmt (8 * k) < 32 := by rcases hk with rfl | rfl <;> decide
  rw [vatomEntry_eq]
  by_cases h0 : n = 0
  · simp [h0, regCode, zeroReg]
  · rw [if_neg h0, regCode_regOfCodes hsize.2 (by simpa [hsize.1] using hn), hsize.1]
    split
    · next hi => rw [List.getD_eq_getElem _ _ (by simpa using hi), List.getElem_map, List.getElem_range]
    · next hi => rw [List.getD_eq_default _ _ (by simpa using hi), Nat.zero_mod]

end Sys2Proof.Machine
end

section
/-! VATOM with nothing in its way (R228, R440, R441), then the settlement of O38. -/

namespace Sys2Proof.Machine

variable {s t : State} {w n k : Nat} {rule : Nat → Nat → Nat} {data idx : VReg} {es order : List ElemAt} {o : VatomOp}
  {e : BitVec 1}

theorem atomBits_eq (e : BitVec 1) : atomBits e = 8 * (if e = 1 then 8 else 4) := by
  rw [atomBits]
  split <;> rfl

/-- Elements that a VATOM reaches from an aligned base may be performed at once where their lines are ripe, and each names its
place in HBM4E. -/
theorem allRipe_of_vatomReach {base : Word} {mask : MaskBits} (hk : k = 4 ∨ k = 8) (hs : s.canon)
    (hd : SMap.wf Dir.none s.dir = true) (hb : base.toNat % k = 0)
    (hreach : vatomReach (indexEls base idx mask (8 * k) n) s = (.ok es, t)) (hripe : ∀ y ∈ es, Ripe s y.x.pa) :
    AllRipe s k es ∧ ∀ y ∈ es, y.line = lineAddr y.x.pa ∧ y.x.ppa = y.x.pa := by
  obtain ⟨-, hplaces⟩ := vatomReach_places hreach
  have hplace (y : ElemAt) (hy : y ∈ es) : y.x.pa % k = 0 ∧ y.x.ppa = y.x.pa := by
    obtain ⟨hratio, ba, leaf, level, peer, hel, -, hx⟩ := hplaces y hy
    have hpa := regionOf_eq_hbm.mp (hripe y hy).held.1
    rw [hx] at hratio hpa ⊢
    exact xlatOf_hbm hratio hpa hk (indexEls_aligned hk hb hel)
  refine ⟨⟨hs, hd, fun y hy => ⟨(hplaces y hy).1, (hplace y hy).1, hripe y hy⟩⟩, fun y hy => ⟨?_, (hplace y hy).2⟩⟩
  obtain ⟨-, ba, -, -, -, -, hy, -⟩ := hplaces y hy
  exact (congrArg ElemAt.line hy :)

/-- The elements that a VATOM reaches are numbered apart, below its count. -/
theorem vatomReach_keys {base : Word} {mask : MaskBits} {ew : Nat}
    (hreach : vatomReach (indexEls base idx mask ew n) s = (.ok es, t)) :
    (es.map ElemAt.i).Nodup ∧ ∀ y ∈ es, y.i < n := by
  have hkeys := (vatomReach_places hreach).1.trans (indexEls_keys ew)
  refine ⟨hkeys ▸ List.nodup_range.filter _, fun y hy => ?_⟩
  have hmem : y.i ∈ (List.range n).filter fun i => mask.getLsbD i := hkeys ▸ List.mem_map_of_mem hy
  exact List.mem_range.mp (List.mem_filter.mp hmem).1

/-- The count of a VATOM (R441). -/
def vatomCount (o : VatomOp) (data idx : VReg) (h : Hart) : Nat :=
  Nat.min (Nat.min h.a.vl.toNat (h.bits / o.bits)) (Nat.min (regCount h idx) (regCount h data))

/-- A VATOM with its entries there, room for its return, no cause and its elements reached performs them (R441). -/
theorem vatomIssue_reached (hs : ReadyA s w) (hl : s.logFull s.h = false)
    (hroom : ∀ q, o.ret = some q → q < 8 ∧ s.h.refill = none ∧ (s.h.queue q).entries.length < 8)
    (hdata : headEntry s.h o.dq = some data) (hidx : headEntry s.h o.iq = some idx) (hcause : vatomCause o data idx = none)
    (hreach : vatomReach (indexEls o.base idx o.mask o.bits (vatomCount o data idx s.h)) s = (.ok es, s)) :
    vatomIssue o s = vatomPerform o (retSeat o s.h) data (vatomCount o data idx s.h) es s := by
  have hsettled (vas : List Word) (f : State → State) : settled o.ord vas s f = f s := by
    rw [settled, drained_ready hs, accessed_ready hs, ite_self]
  rw [vatomCount] at hreach ⊢
  cases hret : o.ret with
  | none =>
    simp only [vatomIssue, retSeat, hret, Option.map_none, hdata, hidx, hcause, hsettled, notFull, hl, Bool.false_eq_true, if_false,
      hreach]
  | some q =>
    obtain ⟨hq, hr, hlen⟩ := hroom q hret
    simp only [vatomIssue, retSeat, hret, takeEntry_room hr hq hlen, Option.map_some, hdata, hidx, hcause, hsettled, notFull, hl,
      Bool.false_eq_true, if_false, hreach]

/-- The operands of a VATOM as it issues. -/
def vatomOperands (ordered : Bool) (p m : BitVec 3) (a : BitVec 6) (q : BitVec 3) (u x : BitVec 1) (o : BitVec 2) (e : BitVec 1)
    (s : State) : VatomOp :=
  { op := vatomOp p, ordered := ordered, ord := o, bits := atomBits e, base := s.reg a.toNat, mask := s.h.mask m.toNat
    ret := if u = 1 then some q.toNat else none, dq := otherQueue (6 + x.toNat), iq := 6 + x.toNat }

theorem vatomForm_ready {i : Instr} {ordered : Bool} {p m : BitVec 3} {a : BitVec 6} {q : BitVec 3} {u x : BitVec 1} {c : BitVec 2}
    (hs : ReadyA s w) (hth : s.h.th = false) (hp : p ≠ 7) (hq : u = 1 → q.toNat < 6) :
    vatomForm i ordered p m a q u x c e s = vatomIssue (vatomOperands ordered p m a q u x c e s) s := by
  have hok : ¬ (p = 7 ∨ (u = 1 ∧ 6 ≤ q.toNat)) := by
    rintro (h | ⟨hu, hq6⟩)
    · exact hp h
    · have := hq hu
      omega
  rw [vatomForm, queueUse_ready hs hth, if_neg hok, confirmed_ready hs]
  rfl

/-- The hart once a VATOM has popped its entries and pushed what it returns. -/
def vatomTaken (ret : Option Nat) (dq iq : Nat) (r : VReg) (h : Hart) : Hart :=
  let popped := popEntry iq (popEntry dq h)
  match ret with
  | some q => popped.setQueue q { popped.queue q with entries := (popped.queue q).entries ++ [⟨r, false, 0, 0⟩] }
  | none => popped

theorem vatomReturn_taken {h : Hart} {olds : List (Nat × Nat)} (hw : SMap.wf DQueue.reset h.dq = true)
    (hq : ∀ q, o.ret = some q → q ≠ o.dq ∧ q ≠ o.iq ∧ (h.queue q).entries.length < 8) :
    vatomReturn o (retSeat o h) n olds (popEntry o.iq (popEntry o.dq h)) =
      vatomTaken o.ret o.dq o.iq (vatomEntry o.bits n olds) h := by
  have hw1 : SMap.wf DQueue.reset (popEntry o.dq h).dq = true := SMap.wf_set hw
  have hw2 : SMap.wf DQueue.reset (popEntry o.iq (popEntry o.dq h)).dq = true := SMap.wf_set hw1
  cases hret : o.ret with
  | none => rw [vatomReturn_none hret]; rfl
  | some q =>
    obtain ⟨hdq, hiq, hlen⟩ := hq q hret
    have hqueue : (popEntry o.iq (popEntry o.dq h)).queue q = h.queue q :=
      (queue_popEntry hw1 hiq).trans (queue_popEntry hw hdq)
    have hseat : retSeat o h = retSeat o (popEntry o.iq (popEntry o.dq h)) := by simp only [retSeat, hret, Option.map_some, hqueue]
    rw [hseat, vatomReturn_pushes hw2 hret (by rw [hqueue]; exact hlen)]
    rfl

theorem vatomTaken_eq (ret : Option Nat) (dq iq : Nat) (r : VReg) (h : Hart) :
    ∃ qs, vatomTaken ret dq iq r h = { h with dq := qs } := by
  cases ret <;> exact ⟨_, rfl⟩

/-- A stream moves on from what has changed in the lines and the data queues. -/
theorem advance_lines {u : State} {g : Hart} (hs : ReadyA s w)
    (hu : u = { s with mem := u.mem, side := u.side, dir := u.dir, draws := u.draws }) (hg : ∃ dq, g = { s.h with dq := dq }) :
    let t := ({ u with h := g } : State).advance
    Ran { s with mem := t.mem, side := t.side, dir := t.dir, draws := t.draws, h := g } t w ∧ ∀ b, t.seen b = u.seen b := by
  obtain ⟨dq, rfl⟩ := hg
  obtain ⟨hx, hpos, -⟩ := hs
  have hat : AtWord { u with h := { s.h with dq := dq } } w := by
    rw [hu, AtWord]
    simpa [State.cur, hx] using hpos
  have hon : ({ u with h := { s.h with dq := dq } } : State).onX = false := by rw [hu]; exact hx
  obtain ⟨v, hv⟩ := advance_onA hon
  intro t
  have hstart : ({ s with mem := t.mem, side := t.side, dir := t.dir, draws := t.draws, h := { s.h with dq := dq } } : State) =
      { u with h := { s.h with dq := dq } } := by
    rw [show t = _ from hv, hu]
  exact ⟨hstart ▸ advance_ran hat, seen_of_mem_side (congrArg State.mem hv :) (congrArg State.side hv :)⟩

/-- The return entry holds at each element what it found, and zero elsewhere. -/
theorem vatomEntry_performed {op : AtomOp} {olds : List (Nat × Nat)} (hk : k = 4 ∨ k = 8) (hf : Follows op rule data k)
    (hdone : Performed rule data k s t order olds) (hnd : (order.map ElemAt.i).Nodup) (hlt : ∀ y ∈ order, y.i < n)
    (hn : 8 * k * n ≤ 16384) :
    (∀ before y later, order = before ++ y :: later →
      regCode (vatomEntry (8 * k) n olds) y.i = vatomAfter rule data k s before y.x.pa) ∧
    ∀ j, (∀ y ∈ order, y.i ≠ j) → regCode (vatomEntry (8 * k) n olds) j = 0 := by
  refine ⟨fun before y later hsplit => ?_, fun j hj => ?_⟩
  · have hlast := vatomAfter_lt hf s before y.x.pa
    rw [show 256 ^ k = 2 ^ (8 * k) by rw [Nat.pow_mul]] at hlast
    rw [regCode_vatomEntry hk hn, if_pos (hlt y (by simp [hsplit])),
      oldAt_of_mem (hdone.keys ▸ hnd) (hdone.found before y later hsplit), Nat.mod_eq_of_lt hlast]
  · have hnone : j ∉ olds.map Prod.fst := by
      rw [hdone.keys]
      rintro h
      obtain ⟨y, hy, rfl⟩ := List.mem_map.mp h
      exact hj y hy rfl
    rw [regCode_vatomEntry hk hn, oldAt_of_not_mem hnone, Nat.zero_mod, ite_self]

theorem bits_le (h : Hart) : h.bits ≤ 16384 := by
  rw [Hart.bits, regBits]
  split <;> decide

/-- A VATOM on elements of k bytes with nothing in its way: its two entries are there and sound, its base is aligned, there is room
for its return, and its elements translate to ripe lines under no write guard. -/
structure VatomClear (o : VatomOp) (data idx : VReg) (k : Nat) (es : List ElemAt) (s : State) (w : Nat) : Prop where
  ready : ReadyA s w
  canon : s.canon
  dirWf : SMap.wf Dir.none s.dir = true
  queueWf : SMap.wf DQueue.reset s.h.dq = true
  notFull : s.logFull s.h = false
  width : k = 4 ∨ k = 8
  bits : o.bits = 8 * k
  operands : 6 ≤ o.dq ∧ 6 ≤ o.iq
  room : ∀ q, o.ret = some q → q < 6 ∧ s.h.refill = none ∧ (s.h.queue q).entries.length < 8
  dataHead : headEntry s.h o.dq = some data
  indexHead : headEntry s.h o.iq = some idx
  aligned : o.base.toNat % k = 0
  indexOk : indexCause idx = none
  size : elemSize data.fmt.toNat = 8 * k
  sound : vcBad data.vc = false
  reached : vatomReach (indexEls o.base idx o.mask (8 * k) (vatomCount o data idx s.h)) s = (.ok es, s)
  free : ∀ y ∈ es, guarded s y.va = false ∧ Ripe s y.x.pa

namespace VatomClear

variable (hc : VatomClear o data idx k es s w)
include hc

theorem cause_none : vatomCause o data idx = none := by
  simp [vatomCause, hc.aligned, hc.indexOk, hc.size, hc.bits, hc.sound]

theorem count_le : 8 * k * vatomCount o data idx s.h ≤ 16384 := by
  have hle : vatomCount o data idx s.h ≤ s.h.bits / (8 * k) := by
    rw [vatomCount, hc.bits]
    exact (Nat.min_le_left _ _).trans (Nat.min_le_right _ _)
  exact (Nat.mul_le_mul_left _ hle).trans ((Nat.mul_div_le _ _).trans (bits_le s.h))

/-- It performs its elements in an order, pops its entries and pushes its return (R441). -/
theorem runs (hf : Follows o.op rule data k) : ∃ t order r, vatomIssue o s = t ∧ order.Perm es ∧ (o.ordered = true → order = es) ∧
    (∀ y ∈ es, t.seenWord y.x.pa k = vatomAfter rule data k s order y.x.pa) ∧
    (∀ b, (∀ y ∈ es, b < y.x.pa ∨ y.x.pa + k ≤ b) → t.seen b = s.seen b) ∧ r.fmt.toNat = retFmt (8 * k) ∧
    (∀ before y later, order = before ++ y :: later → regCode r y.i = vatomAfter rule data k s before y.x.pa) ∧
    (∀ j, (∀ y ∈ es, y.i ≠ j) → regCode r j = 0) ∧
    Ran { s with mem := t.mem, side := t.side, dir := t.dir, draws := t.draws, h := vatomTaken o.ret o.dq o.iq r s.h } t w := by
  obtain ⟨hall, hplaces⟩ := allRipe_of_vatomReach hc.width hc.canon hc.dirWf hc.aligned hc.reached fun y hy => (hc.free y hy).2
  obtain ⟨hnd, hlt⟩ := vatomReach_keys hc.reached
  obtain ⟨u, order, olds, hperm, hasc, hdone, hu, hperform⟩ := vatomPerform_performs (o := o) (retSeat o s.h)
    (vatomCount o data idx s.h) hc.width hc.bits hf hall fun y hy => ⟨(hc.free y hy).1, hplaces y hy⟩
  have hissue := vatomIssue_reached hc.ready hc.notFull (fun q hq => ⟨by have := (hc.room q hq).1; omega, (hc.room q hq).2⟩)
    hc.dataHead hc.indexHead hc.cause_none (hc.bits.symm ▸ hc.reached)
  have htaken := vatomReturn_taken (n := vatomCount o data idx s.h) (olds := olds) hc.queueWf fun q hq => by
    obtain ⟨hlt, -, hlen⟩ := hc.room q hq
    obtain ⟨hdq, hiq⟩ := hc.operands
    exact ⟨by omega, by omega, hlen⟩
  rw [hperform, htaken, hc.bits] at hissue
  obtain ⟨hran, hseen⟩ := advance_lines hc.ready hu (vatomTaken_eq o.ret o.dq o.iq (vatomEntry (8 * k) _ olds) s.h)
  obtain ⟨hcodes, hzero⟩ := vatomEntry_performed hc.width hf hdone ((hperm.map _).nodup_iff.mpr hnd)
    (fun y hy => hlt y (hperm.mem_iff.mp hy)) hc.count_le
  refine ⟨_, order, _, hissue, hperm, hasc, fun y hy => ?_, fun b hb => ?_, vatomEntry_fmt hc.width, hcodes, fun j hj => ?_, hran⟩
  · exact (seenWord_congr hseen _ k).trans (hdone.words _ (hall.each y hy).2.1)
  · exact (hseen b).trans (hdone.bytes b fun y hy => hb y (hperm.mem_iff.mp hy))
  · exact hzero j fun y hy => hj y (hperm.mem_iff.mp hy)

end VatomClear

end Sys2Proof.Machine

open Sys2Proof Sys2Proof.Machine

/-- Settles O38, by induction on the elements in the order in which they are performed (`vatomRun_performs`): each finds at its
place what those before it have made of it, and leaves every line ready for the next. -/
theorem vatomRuns : Obligations.VatomRuns := by
  intro s w p m a q u x o c e data idx es rule hs hcanon hdir hdq hth hq hl k va iq dq hdata hidx hret hal hcause hsize hvc n hreach
    hes hrule after runs
  have hk : k = 4 ∨ k = 8 := (ite_eq_or_eq (e = 1) 8 4).symm
  have hp : p ≠ 7 := by rintro rfl; cases hrule
  have hfmt : retFmt (8 * k) = if e = 1 then 5 else 4 := by
    dsimp only [k]
    split <;> rfl
  have hruns (i : Instr) (ordered : Bool) (hexec : exec i s = .next (vatomForm i ordered p m a q u x o e s)) : runs i ordered := by
    have hclear : VatomClear (vatomOperands ordered p m a q u x o e s) data idx k es s w :=
      { ready := hs, canon := hcanon, dirWf := hdir, queueWf := hdq, notFull := hl, width := hk, bits := atomBits_eq e
        operands := by
          dsimp only [vatomOperands, otherQueue]
          omega
        room := fun r hr => by
          obtain ⟨hu, rfl⟩ : u = 1 ∧ q.toNat = r := by simpa [vatomOperands] using hr
          exact ⟨hq hu, hret hu⟩
        dataHead := hdata, indexHead := hidx, aligned := hal, indexOk := hcause, size := hsize, sound := hvc
        reached := by
          rw [vatomCount, show (vatomOperands ordered p m a q u x o e s).bits = 8 * k from atomBits_eq e]
          exact hreach
        free := fun y hy =>
          have ⟨hguard, hheld, hgood, hmark⟩ := hes y hy
          ⟨hguard, hheld, hgood, hmark⟩ }
    obtain ⟨t, order, r, hissue, hperm, hasc, hwords, hbytes, hrfmt, hcodes, hzero, hran⟩ :=
      hclear.runs (follows_of_table hrule hsize)
    refine ⟨t, order, r, ?_, hperm, hasc, hwords, hbytes, hrfmt.trans hfmt, hcodes, fun j _ hj => hzero j hj, ?_⟩
    · rw [hexec, vatomForm_ready hs hth hp hq, hissue]
    · dsimp only
      by_cases hu : u = 1
      · rw [if_pos hu]
        rw [show (vatomOperands ordered p m a q u x o e s).ret = some q.toNat from if_pos hu] at hran
        exact hran
      · rw [if_neg hu]
        rw [show (vatomOperands ordered p m a q u x o e s).ret = none from if_neg hu] at hran
        exact hran
  exact ⟨hruns _ false rfl, hruns _ true rfl⟩
end
